-- ==== Sys2Proof/Word.lean ====
section
/-! DEFINITION. The machine's word types and their plainest arithmetic (R2, R67, R200). -/

namespace Sys2Proof

/-- A scalar register, a program counter or an address: 64 bits (R30, R67). -/
abbrev Word := BitVec 64
/-- One byte of memory. -/
abbrev Byte := BitVec 8
/-- A vector register: 512 bits (R200). -/
abbrev Vec := BitVec 512
/-- A mask register: 128 bits (R200). -/
abbrev Mask := BitVec 128
/-- A 5-bit register field of a head or a tail (R36, R38); its range is checked at issue (R44). -/
abbrev R5 := BitVec 5
/-- The 6-bit function field of a tail (R38). -/
abbrev F6 := BitVec 6

end Sys2Proof
end

