-- ==== Sys2Proof/Machine/Bits.lean ====
section
/-! DEFINITION. Bit fields, sign extension and byte order (R2, R38, R40, R67). -/

namespace Sys2Proof

/-- Bits `[h:l]` of a natural number read as a bit pattern (R2). -/
def bitsOf (n h l : Nat) : Nat := (n >>> l) % 2 ^ (h + 1 - l)

/-- Bit `i` of a natural number read as a bit pattern. -/
def bitOf (n i : Nat) : Bool := n.testBit i

/-- The two's-complement reading of the low `w` bits of `n` (R67). -/
def signedOf (w n : Nat) : Int :=
  let m := n % 2 ^ w
  if m < 2 ^ (w - 1) then (m : Int) else (m : Int) - 2 ^ w

/-- The low 64 bits of an exact integer (R67: a result wider than its destination keeps its low bits). -/
def wordOfInt (v : Int) : Word := BitVec.ofInt 64 v

/-- `SignExtend(n, w)`: the low `w` bits of `n` sign-extended to 64 bits. -/
def sextWord (w n : Nat) : Word := wordOfInt (signedOf w n)


/-- The bytes of an `n`-byte little-endian value, lowest first (R2). -/
def bytesOf : Nat → Nat → List Byte
  | 0, _ => []
  | n + 1, v => BitVec.ofNat 8 v :: bytesOf n (v / 256)

/-- The little-endian value of a run of bytes (R2). -/
def valueOf : List Byte → Nat
  | [] => 0
  | b :: bs => b.toNat + 256 * valueOf bs

/-- Field of a structure: `n` bytes at `k`, little-endian. -/
def field (bs : List Byte) (k n : Nat) : Nat := valueOf ((bs.drop k).take n)

/-- Elements of a block of an NX4 block code (R225). -/
def blockLen (blk : Nat) : Nat := 16 * 2 ^ blk

/-- The sign-extended 32-bit immediate as a 64-bit word (R40). -/
def sext32 (i : BitVec 32) : Word := i.signExtend 64

/-- Count of one bits among the low `n` bits of `v`. -/
def popCount : Nat → Nat → Nat
  | 0, _ => 0
  | n + 1, v => (v % 2) + popCount n (v / 2)

/-- `⌈a ÷ b⌉` for a positive `b`. -/
def ceilDiv (a b : Nat) : Nat := (a + b - 1) / b

/-- The lane of width `w` bits and index `i` of a register held as a number (R200). -/
def laneOf (w : Nat) (v : Nat) (i : Nat) : Nat := bitsOf v (w * i + w - 1) (w * i)

/-- The register whose lanes of width `w` are those of the list, lane 0 first (R200). -/
def ofLanes (w : Nat) : List Nat → Nat
  | [] => 0
  | l :: ls => l % 2 ^ w + 2 ^ w * ofLanes w ls

/-- Every lane of width `w` of a 512-bit register, lane 0 first (R200). -/
def lanesOf (w : Nat) (v : Vec) : List Nat := (List.range (512 / w)).map (laneOf w v.toNat)

/-- A 512-bit register from its lanes (R200). -/
def vecOfLanes (w : Nat) (ls : List Nat) : Vec := BitVec.ofNat 512 (ofLanes w ls)

/-! ## Sparse tables -/

/-- A table by number: key and value pairs, keys rising. -/
abbrev SMap (α : Type) := List (Nat × α)

/-- The value of a key, if listed. -/
def SMap.find? {α : Type} : SMap α → Nat → Option α
  | [], _ => none
  | (j, w) :: r, k => if j = k then some w else SMap.find? r k

/-- The value of a key, or the default of a key not listed. -/
def SMap.get {α : Type} (m : SMap α) (k : Nat) (d : α) : α := (m.find? k).getD d

/-- Give a key a value. -/
def SMap.set {α : Type} : SMap α → Nat → α → SMap α
  | [], k, v => [(k, v)]
  | (j, w) :: r, k, v => if k < j then (k, v) :: (j, w) :: r else if k = j then (k, v) :: r else (j, w) :: SMap.set r k v

/-- Remove a key. -/
def SMap.erase {α : Type} (m : SMap α) (k : Nat) : SMap α := m.filter (fun e => e.1 ≠ k)

end Sys2Proof
end

