-- ==== Sys2Proof/Syntax.lean ====
section
/-! DEFINITION. The instructions of Opnal-1 and the steps of the machine's other agents: one constructor of `Instr` for
each row of spec/opcode_table.json. The rows that the table gives no bits and no encoding are events; their operands
are the messages that carry them (R14, R138). -/

namespace Sys2Proof

/-! ## Operands of encoded instructions -/

/-- The second operand of the ALU mould: a register or an immediate already extended to 32 bits (R42). -/
inductive Op2 where
  | reg (c : R5)
  | imm (i : BitVec 32)
  deriving DecidableEq, Repr

/-- A base register and a byte displacement (R103, R118). -/
structure MemOp where
  b : R5
  disp : BitVec 32
  deriving DecidableEq, Repr

/-- A jump target: line displacement and slot (R39). -/
structure Target where
  disp : BitVec 27
  slot : R5
  deriving DecidableEq, Repr

/-- The version part of a key: a register that also holds the readers field, or an immediate (R229). -/
inductive VerOp where
  | reg (e : R5)
  | imm (v : BitVec 24)
  deriving DecidableEq, Repr

/-- A tile key: array, row and column registers, and the version (R229). -/
structure KeyOp where
  b : R5
  c : R5
  d : R5
  ver : VerOp
  deriving DecidableEq, Repr

/-- The masked form of a vector instruction: mask register and zeroing (R204). -/
structure MaskOp where
  d : R5
  zero : Bool
  deriving DecidableEq, Repr

/-- Destination of MDRAIN (R302). -/
inductive DrainDst where
  | pool (b c : R5)
  | ring (b : R5)
  | mem (b c : R5)
  | tile (k : KeyOp)
  deriving DecidableEq, Repr

/-- A guard: predicate index and negation (R41). -/
structure Guard where
  g : BitVec 4
  n : Bool
  deriving DecidableEq, Repr

/-! ## Payloads of the events -/

/-- One scalar access or vector lane of an instruction: the byte address of the place it reaches (a physical address, or
2^48 + 2^17 × core + offset for a pool byte; R89, R91), the address as the program formed it, size in bytes, lane number, key
slot and mode of the page, the bytes a load has already bound (one bit per byte in `kmask`, their values in `kval`), and whether
any of them carries an uncorrectable-error mark (R96, R98, R101, R106). -/
structure Lane where
  pa : Nat
  va : Nat
  n : Nat
  idx : Nat
  key : Nat
  mode : Nat
  kmask : Nat
  kval : Nat
  bad : Bool
  deriving DecidableEq, Repr

/-- The agent that made a request: thread, the core on which it issued, address space and instruction (R138). -/
structure Src where
  tid : Nat
  core : Nat
  asid : Nat
  pc : Word
  deriving DecidableEq, Repr

/-- Where a load's lanes go: nowhere, a scalar register with its size and extension, the lanes of a vector register (R105, R106),
the buffer of an instruction that reads a structure from memory and then goes on, the line that a context enters, for which it
waits under a number (R34), or a descriptor to declare, with the register of the status (R228). -/
inductive Dst where
  | none
  | x (r : R5) (n : Nat) (signed : Bool)
  | v (r : R5) (w : Nat)
  | buf
  | code (serial : Nat)
  | decl (a : R5)
  deriving DecidableEq, Repr

/-- A memory request: who, the lanes, the destination, `.NA` (R104), and whether the thread waits parked for the reply (R415). -/
structure MemReq where
  src : Src
  lanes : List Lane
  dst : Dst
  na : Bool
  parked : Bool
  deriving DecidableEq, Repr

/-- A line of instructions on its way to a context: the serial number of the fetch that it answers, and its bytes (R34). -/
structure FetchedLine where
  serial : Nat
  bytes : List Byte
  deriving DecidableEq, Repr

/-- A fill asked of a home: the load's request, and the lines that it binds and does not install (R96, R152). -/
structure FillReq where
  req : MemReq
  skip : List Nat
  deriving DecidableEq, Repr

/-- An atomic performed at a home or bank (R123, R124, R108, R109, R137, R360). -/
inductive AtomOp where
  | amo (op : Nat) (b : Word) (tag : R5)
  | cas (cmp new : Word) (tag : R5)
  /-- Read and clear adjoint cells; the lanes go to the destination, rounded to the given format (R108). -/
  | readClear (rm : Nat) (rounds : List (Nat × Nat))
  /-- Exchange new values into differentiable words; each old value goes to the tape entry given (R109). -/
  | tapeSwap (vals : List Nat) (entries : List Lane) (slots : List Nat) (addrs : List Nat)
  /-- The till status of a slice (R137). -/
  | pend (clear : Bool)
  deriving DecidableEq, Repr

/-- An access performed at a pool bank (R93, R116). -/
inductive BankOp where
  | load
  | store (vals : List Nat) (counted : Bool)
  | atom (op : AtomOp)
  | red (op : Nat) (vals : List Nat)
  deriving DecidableEq, Repr

/-- The condition of a waiter (R134, R135, R349). -/
inductive WaitCond where
  | word (cond : Nat) (wide : Bool) (cmp : Word)
  | phase (p : Nat)
  deriving DecidableEq, Repr

/-- A word wait: who, which word, condition, deadline in ticks (none when there is no limit), whether it acquires, the
result register and predicate (R131). `kind` is 0 for WAITW, 1 for BAR, 2 for BAR.N, 3 for JOIN. -/
structure Waiter where
  src : Src
  lane : Lane
  cond : WaitCond
  deadline : Option Nat
  acq : Bool
  a : R5
  pe : BitVec 4
  kind : Nat
  deriving DecidableEq, Repr

/-- A write to a register of a thread (R66); `buf` hands over a structure with the mark of each of its words (R101); `decl` declares the descriptor
read and writes its status (R228). -/
inductive RegWrite where
  | x (r : R5) (val : Word) (poison : Option Word)
  | v (r : R5) (val : Vec) (bytes : BitVec 64) (poison : Option Word)
  | p (r : BitVec 4) (val : Bool)
  | buf (bytes : List Byte) (bad : List Bool)
  | decl (a : R5) (bytes : List Byte)
  deriving DecidableEq, Repr

/-- A reply to a thread: register writes, flags to set, whether the core self-invalidates first, and whether the
instruction that parked for the reply is now complete (R66, R129, R188). -/
structure Reply where
  tid : Nat
  writes : List RegWrite
  nfs : Bool
  sats : Bool
  acquire : Bool
  complete : Bool
  deriving DecidableEq, Repr

/-- A tile key resolved: address space, array, tile row and column, version (R229). -/
structure Key where
  asid : Nat
  arr : Nat
  i : Nat
  j : Nat
  ver : Nat
  deriving DecidableEq, Repr

/-- A declared array (R225): id, element format, tile rows and columns, tile-grid rows and columns, NX4 block code, `ADIFF`, hashed
placement, placement die, whether it lives on a remote device and on which, and the default readers. -/
structure Desc where
  aid : Nat
  fmt : Nat
  rows : Nat
  cols : Nat
  gi : Nat
  gj : Nat
  blk : Nat
  diff : Bool
  hashed : Bool
  die : Nat
  remote : Bool
  dev : Nat
  rdr : Nat
  deriving DecidableEq, Repr

/-- Why a Mint operation was made, which decides what its reply does: TLD, TDROP, TQRY, TWAIT; the reservation and the creation of
TST, TSTV and MDRAIN.T; an anonymous version made at once with its data (R264); the pending key of a TLDP (R265); a Teller's TOVER
and FROMV (R314); XRED's input and output (R420); the reservation and creation of an anonymous version that will hold a snapshot of
adjoints, with one pin and the descriptor of the array they belong to (R248, R285); the adjoint tile of a key: read and released, with
the anonymous key reserved for the snapshot and its home, read and cleared in its first elements, or released (R248, R365); a
contribution to it; and the creation of MDRAIN.T at another device, with the flags of its output (R302, R416). -/
inductive KeyUse where
  | tld (h : R5)
  | tdrop (all : Bool)
  | tqry (a : R5)
  | twait (a : R5) (deadline : Option Nat)
  | tst
  | anon (data : List Byte)
  | pool
  | tover (cell op : Nat)
  | fromv (cell op : Nat) (consume : Bool)
  | xredIn
  | xredOut
  | snap (d : Desc)
  | adjRead (anon : Key) (home : Nat)
  | adjTake (n : Nat)
  | adjDrop
  | contribute
  | drained (a : R5) (nfs sats : Bool)
  | leaf (teller : Option (Nat × Nat))
  deriving DecidableEq, Repr

/-- A request to a Mint: who, the key, its home slice, the array's descriptor as the key phase read it, the use, the readers asked
for (0 for the array's default), when the request was first issued in ticks (R235), the RCB charged and its space, and the link,
device and reference to answer when another device asks (R416). -/
structure KeyReq where
  src : Src
  key : Key
  home : Nat
  desc : Desc
  use : KeyUse
  rdr : Nat
  since : Nat
  rcb : Nat
  rcbAsid : Nat
  peer : Option (Nat × Nat × Nat)
  deriving DecidableEq, Repr

/-- The reply of a Mint (R239 to R241, R244, R245). -/
inductive MintOutcome where
  | ok
  | dead
  | writeOnce (state : Nat)
  | stall (code : Nat)
  | word (w : Word)
  | tile (data : List Byte)
  | space (code : Nat)
  | linkDown (dev link : Nat)
  deriving DecidableEq, Repr

/-- A page operation (R170, R173, R176): issuing thread, result register, address, space, the new mode and mask of PGMODE
or the new frame of PGMIG, and whether it refuses to wait for a slot. -/
structure PageOp where
  src : Src
  a : R5
  va : Nat
  asid : Nat
  migrate : Bool
  mode : Nat
  mask : Nat
  frame : Nat
  noWait : Bool
  deriving DecidableEq, Repr

/-- A word access that another device performs here (R415): sender, export entry, window address, size, and the value of
a store or the operation of an atomic. -/
structure RemoteWord where
  dev : Nat
  link : Nat
  xport : Nat
  off : Nat
  n : Nat
  op : Option AtomOp
  store : Option Nat
  ref : Nat
  deriving DecidableEq, Repr

/-- An access held at a page operation's slot (R170), to be performed when the operation ends. -/
inductive Held where
  | fill (r : FillReq)
  | wt (q : MemReq) (vals : List Nat)
  | atom (q : MemReq) (op : AtomOp)
  | contrib (q : MemReq) (op : Nat) (vals : List Nat)
  | rel (q : MemReq) (n : Nat) (val : Word)
  | acq (q : MemReq) (n : Nat)
  | bar (w : Waiter)
  | wait (w : Waiter)
  | wake (q : MemReq) (timeout : Bool)
  | teller (cell op unit pa : Nat)
  | remote (m : RemoteWord) (pa : Nat)
  deriving DecidableEq, Repr

/-- A fault record to be delivered (R375, R447): the domain's RCB address and address space, code word, PC, thread,
address, the request words and bytes done of a Teller fault; whether it waits because no domain's area could be written; the Teller operation
that it reports, by cell and number. -/
structure FaultRec where
  rcb : Nat
  asid : Nat
  code : Nat
  pc : Word
  thid : Word
  addr : Word
  q : List Word
  done : Nat
  home : Nat
  redir : Bool
  waited : Bool
  stuck : Bool := false
  op : Option (Nat × Nat) := none
  deriving DecidableEq, Repr

/-- A migration packet (R339): the thread, its destination core, the number of vectors carried, its flits, and the pending load of
LDM as it was placed. -/
structure Packet where
  tid : Nat
  core : Nat
  n : Nat
  flits : List (List Byte)
  load : Option MemReq
  deriving DecidableEq, Repr

/-- A record of a dispatcher (R331): a task's record with its RCB, or an existing thread. `own` is the word
`TKENTRY`, `entry` the PC it selects, `stamp` the word `TKSTAMP`; `pinned` names the
only core that may take it, `load` is the load of an LDM that is still to be made. -/
structure TaskRec where
  entry : Word
  own : Word
  rcb : Nat
  asid : Nat
  ltn : Nat
  flags : Nat
  opnd : Word
  args : List Word
  stamp : Nat
  superv : Bool
  service : Bool
  thread : Option Nat
  pinned : Option Nat
  bypass : Nat
  probed : Bool
  hit : Bool
  load : Option MemReq
  deriving DecidableEq, Repr

/-- A key operation that another device performs here (R416): 0 reference (TLD), 1 drop, 2 drop all, 3 query, 4 wait,
5 reserve, 6 create with data, 7 read (a forced leaf), 8 release a pin, 9 subscribe, 10 cancel a subscription, 11 bind, 12 give a
reservation back, 13 take a pin only, 14 contribute to the adjoint tile, 15 read and release it, 16 read and clear its first elements,
17 release it (R248). `rdr` holds the readers asked for, or the elements or the core that the operation names; for 8 and 12, which need
no right, the exported space. `shape` holds the NX4 block code, rows and columns. -/
structure RemoteKey where
  dev : Nat
  link : Nat
  xport : Nat
  arr : Nat
  i : Nat
  j : Nat
  ver : Nat
  op : Nat
  data : List Byte
  rdr : Nat
  fmt : Nat
  shape : Nat
  ref : Nat
  deriving DecidableEq, Repr

/-- A message that arrives over a device link (R411 to R420); `forward` is one on its way to another device, with the links it has crossed. -/
inductive LinkMsg where
  | remoteWord (m : RemoteWord)
  | remoteKey (m : RemoteKey)
  | notice (dev space arr i j ver : Nat) (data : Option (List Byte))
  | reply (ref : Nat) (status : Nat) (val : Word) (data : List Byte)
  | collect (dev tag i j ver op fmt shape n : Nat) (data : List Byte) (nf : Bool)
  | result (tag i j ver : Nat) (status : Nat) (data : List Byte) (nf : Bool)
  | forward (dev hops : Nat) (m : LinkMsg)
  deriving DecidableEq, Repr

/-- The steps of the machine's other agents, in the order of the opcode table: a message that arrives, an engine's step, a
time that is reached, an input from outside (R14, R138). `State.pending` holds the ones that are in flight; the event rows of
`Instr` carry the same operands. -/
inductive Event where
  -- fences (R143, R147)
  | icsyncInvalidateAtCore (tid core : Nat) (range : Option (Nat × Nat × Nat))
  -- pages (R173, R176, R178)
  | pageOpSlotGrant (die : Nat) (op : PageOp)
  | pageSweepAtCore (die slot core : Nat)
  | pageOpCompletion (die slot : Nat)
  | pageQueueRetry (die slot wait : Nat) (h : Held)
  -- conversions and statistics (R191)
  | vhistGrant (tid cell asid slot fmt : Nat) (v : Vec)
  -- vectors (R203)
  | longFunctionResult (tid : Nat) (r : R5) (v : Vec)
  -- versioned tiles (R228, R238)
  | descriptorDropAtCell (tid cell asid arr : Nat)
  | mintReference (q : KeyReq)
  | mintDrop (q : KeyReq)
  | mintReserve (q : KeyReq)
  | mintCreate (q : KeyReq) (data : List Byte)
  | pinRelease (k : Key) (slice : Nat)
  | mintReplyArrival (q : KeyReq) (o : MintOutcome)
  | versionWakeArrival (tid : Nat) (result : Nat)
  | quotaRetry (rcb asid : Nat) (lower : Bool)
  -- lazy tiles (R269)
  | forceNodeStep (tid : Nat)
  | forceCompletion (tid : Nat)
  | poolSourceCopy (cell entry : Nat)
  | lockedStoreRelease (q : MemReq) (op : BankOp)
  -- matrix (R297)
  | matrixCommandAtHead (core : Nat)
  | kstepGrant (cell : Nat)
  | kstepRetire (core : Nat)
  | epilogueRow (core : Nat)
  | mdrainCompletion (core : Nat)
  -- Teller (R320)
  | tellerOpStart (cell : Nat)
  | redaddSegment (cell op : Nat)
  | tellerFault (cell op : Nat) (code : Nat) (addr : Word)
  | tellerOpCompletion (cell op : Nat)
  | userEventEntry (tid : Nat)
  -- threads (R341)
  | sleepTimeReached (tid : Nat)
  | dispatcherRecordArrival (sector : Nat) (r : TaskRec) (poster : Option Nat)
  | spillRefill (sector rcb asid : Nat)
  | residencyProbe (sector : Nat)
  | placement (sector : Nat)
  | migrationPacketArrival (p : Packet)
  | parkLimitExpiry (tid : Nat)
  | stallLimitExpiry (tid : Nat)
  -- differentiable regions (R356)
  | regionTableUpdateAtCore (tid core asid : Nat)
  | tapePush (src : Src) (entry : Lane) (addr old width slot tag : Nat) (poison : Bool)
  | adjointTileContribution (q : KeyReq) (first : Nat) (vals : List (Nat × Nat))
  -- system (R398)
  | cfenceFence (tid core : Nat) (cell : Bool)
  | cfenceRestore (tid core : Nat) (cell : Bool)
  | creset (tid cell : Nat)
  | cellResetEnd (cell : Nat)
  | slretEnter (tid slice : Nat)
  | slretWake (tid slice : Nat)
  | retentionDataWake (slice : Nat)
  | tsplitWrite (die : Nat) (v : Word)
  | tarenaWrite (die : Nat) (len : Bool) (v : Word)
  | sevtClear (die : Nat) (v : Word)
  | tlbiShootdownAtCore (tid core : Nat) (asid : Option Nat) (range : Option (Nat × Nat))
  | preemptArrival (tid core slot : Nat) (hold : Bool) (a : R5)
  | imageWritebackCommand (core tid : Nat)
  | imageLineFetchArrival (tid line : Nat)
  | imageLost (tid line : Nat)
  | haltTreeArrival (tid core rcb : Nat)
  -- links and host (R423)
  | xredContributionAtRoot (dev tag i j ver op fmt shape n : Nat) (data : List Byte) (nf : Bool)
  | xredRootTimeout (tag i j ver : Nat)
  | xredResultArrival (tag i j ver status : Nat) (data : List Byte) (nf : Bool)
  -- the cores' and homes' steps (R34, R66, R96, R97, R116 to R136, R164)
  | lineFetchArrival (tid : Nat) (line : FetchedLine)
  | longResultArrival (r : Reply)
  | lineFillArrival (q : MemReq) (lines : List (Nat × BitVec 1024 × BitVec 16))
  | fillAtHome (q : FillReq)
  | poolBankAccess (q : MemReq) (op : BankOp)
  | writeThroughAtHome (q : MemReq) (vals : List Nat)
  | writeBackMerge (tid : Option Nat) (core line key : Nat) (data : BitVec 1024) (mask : BitVec 128) (nc : Bool)
      (pois : BitVec 16)
  | writeAckArrival (tid : Nat) (tag : Nat)
  | atomicAtHome (q : MemReq) (op : AtomOp)
  | contributionAtHome (q : MemReq) (op : Nat) (vals : List Nat)
  | contributionAckArrival (tid : Nat)
  | releaseAtHome (q : MemReq) (n : Nat) (val : Word)
  | acquireAtHome (q : MemReq) (n : Nat)
  | drainCommandArrival (core job : Nat)
  | drainCompletion (job : Nat)
  | barrierArrivalAtHome (w : Waiter)
  | waitRegistration (w : Waiter)
  | wakeAtHome (q : MemReq) (timeout : Bool)
  | waiterWakeArrival (w : Waiter) (val : Word) (result : Nat)
  | waiterPollRetry (w : Waiter)
  | waitDeadlineExpiry (w : Waiter)
  | suspendedPollerRequeue (w : Waiter)
  | getsAtHome (line die : Nat)
  | getmAtHome (line die : Nat)
  | putmAtHome (line die : Nat)
  | puteAtHome (line die : Nat)
  | forwardedRequest (line owner dest : Nat) (excl : Bool)
  | invalidateAtProxy (line die : Nat)
  -- faults, errors, power, boot, host and links (R375, R391 to R397, R411 to R425)
  | deliverRetry (r : FaultRec)
  | softErrorCorrected (die cls inst loc : Nat)
  | uncorrectableError (die cls inst loc : Nat)
  | errorWindowEnd (die : Nat)
  | powerWindowProjection (die : Nat) (high : Bool) (cycles : Nat)
  | coldReset
  | coreRelease
  | hostDoorbell
  | spdmRequest
  | linkStateChange (link state : Nat)
  | flitRetransmit (link : Nat)
  | linkMessageArrival (link : Nat) (m : LinkMsg)
  | remoteWordAccess (m : RemoteWord)
  | remoteKeyRequest (m : RemoteKey)
  | arrivalNotice (dev space arr i j ver : Nat) (data : Option (List Byte))
  | shadowFetchReply (slice : Nat) (k : Key) (status : Nat) (data : List Byte)
  | hostHdmAccess (pa : Nat) (write : Option (BitVec 512))
  | bisnpResponse (die slot : Nat) (line : Nat) (dirty : Option (BitVec 512))
  | hostSnoop (half : Nat) (inv : Bool)
  | hostFillReply (half : Nat) (excl : Bool) (data : BitVec 512)
  | bridgeDeviceAccess (q : MemReq) (op : BankOp)
  | cxlLinkStateChange (up : Bool)
  deriving DecidableEq, Repr

/-- The instructions, in the order of the opcode map (R50), then the event rows in the table's order. Instruction operands
are named after the fields of head and tail: `f` the function field where the row leaves it open, `a` `b` `c` `d` the
register fields, `o` the second operand, `m` the address, `t` the jump target, `k` a tile key, `mk` the mask, `s` the
scope. -/
inductive Instr where
  -- scalar, predicate and control (R71)
  | nop
  | add (f : F6) (a b : R5) (o : Op2)
  | sub (f : F6) (a b : R5) (o : Op2)
  | mul (f : F6) (a b : R5) (o : Op2)
  | mulh (f : F6) (a b : R5) (o : Op2)
  | div (f : F6) (a b : R5) (o : Op2)
  | rem (f : F6) (a b : R5) (o : Op2)
  | and (f : F6) (a b : R5) (o : Op2)
  | or (f : F6) (a b : R5) (o : Op2)
  | xor (f : F6) (a b : R5) (o : Op2)
  | andn (f : F6) (a b : R5) (o : Op2)
  | shl (f : F6) (a b : R5) (o : Op2)
  | shr (f : F6) (a b : R5) (o : Op2)
  | sar (f : F6) (a b : R5) (o : Op2)
  | rol (f : F6) (a b : R5) (o : Op2)
  | min (f : F6) (a b : R5) (o : Op2)
  | max (f : F6) (a b : R5) (o : Op2)
  | bcnt (f : F6) (a b : R5)
  | brev (f : F6) (a b : R5)
  | fext (f : F6) (a b : R5) (o : Op2)
  | fins (a b : R5) (o : Op2)
  | sext (f : F6) (a b : R5)
  | li (f : F6) (a : R5) (i : BitVec 32)
  | sel (f : F6) (a b c : R5)
  | lea (f : F6) (a b : R5) (o : Op2)
  | cmp (f : F6) (a b : R5) (o : Op2)
  | plog (f : F6) (a b c : R5)
  | pmov (a b : R5)
  | pmovP (a b : R5)
  | pmovGp (a : R5)
  | pmovSp (b : R5)
  | br (a : R5) (t : Target)
  | jmp (t : Target)
  | call (a : R5) (t : Target)
  | jr (a b : R5)
  | loop (a : R5) (t : Target)
  | getc (a : R5) (num : BitVec 12)
  | putc (b : R5) (num : BitVec 12)
  | paddr (f : F6) (a b : R5) (o : Op2)
  -- word memory and pool access (R103)
  | ld (f : F6) (a : R5) (m : MemOp)
  | st (f : F6) (a : R5) (m : MemOp)
  | ldv (f : F6) (a : R5) (m : MemOp) (c : R5)
  | stv (f : F6) (a : R5) (m : MemOp) (c : R5)
  | ldg (f : F6) (a b c d : R5)
  | sts (f : F6) (a b c d : R5)
  | ldm (f : F6) (a : R5) (m : MemOp)
  | pref (f : F6) (m : MemOp)
  | cmoClean (m : MemOp)
  | cmoFlush (m : MemOp)
  | cmoInval (m : MemOp)
  | cmoZero (m : MemOp)
  -- atomics, reductions and synchronisation (R118)
  | amo (f : F6) (a : R5) (m : MemOp) (c d : R5)
  | cas (f : F6) (a : R5) (m : MemOp) (c d : R5)
  | red (f : F6) (m : MemOp) (c : R5)
  | redv (f : F6) (a : R5) (m : MemOp) (c : R5)
  | acq (f : F6) (a : R5) (m : MemOp)
  | rel (f : F6) (a : R5) (m : MemOp)
  | bar (a : R5) (m : MemOp)
  | barN (a : R5) (m : MemOp)
  | waitw (f : F6) (a : R5) (m : MemOp) (c d : R5) (pe : BitVec 4)
  | wake (m : MemOp)
  | wakeT (m : MemOp)
  | pend (a : R5) (m : MemOp)
  | pendC (a : R5) (m : MemOp)
  -- fences (R143, R147)
  | fenceFull (s : BitVec 3)
  | fenceAcq (s : BitVec 3)
  | fenceRel (s : BitVec 3)
  | fenceAck
  | icsync (s : BitVec 3)
  | icsyncRanged (s : BitVec 3) (b c : R5)
  -- pages (R173, R176, R178)
  | pgmode (n : Bool) (a b c : R5)
  | pgmodeCf (a c : R5)
  | pgmig (n : Bool) (a b c : R5)
  | pgq (a b : R5)
  | pgqL (a b : R5)
  | pgqD (a : R5)
  -- conversions and statistics (R191)
  | vcvt (f : F6) (a b c : R5)
  | vqntX (f : F6) (a b c : R5)
  | vqnt (f : F6) (a b c : R5)
  | vdq (f : F6) (a b c : R5)
  | vsr (f : F6) (a b : R5)
  | vhist (f : F6) (b c : R5)
  | hread (a b : R5) (i : BitVec 32)
  | hreadC (a b : R5) (i : BitVec 32)
  | hreadInit (a b : R5) (i : BitVec 32)
  -- vectors (R203)
  | vadd (f : F6) (a b c : R5) (mk : Option MaskOp)
  | vsub (f : F6) (a b c : R5) (mk : Option MaskOp)
  | vmul (f : F6) (a b c : R5) (mk : Option MaskOp)
  | vfma (f : F6) (a b c : R5) (mk : Option MaskOp)
  | vmin (f : F6) (a b c : R5) (mk : Option MaskOp)
  | vmax (f : F6) (a b c : R5) (mk : Option MaskOp)
  | vsgn (f : F6) (a b c : R5) (mk : Option MaskOp)
  | vrcp (f : F6) (a b : R5) (mk : Option MaskOp)
  | vrsq (f : F6) (a b : R5) (mk : Option MaskOp)
  | vsqrt (f : F6) (a b : R5) (mk : Option MaskOp)
  | vdiv (f : F6) (a b c : R5) (mk : Option MaskOp)
  | vexp2 (f : F6) (a b : R5) (mk : Option MaskOp)
  | vlog2 (f : F6) (a b : R5) (mk : Option MaskOp)
  | vcmp (f : F6) (a b c : R5) (mk : Option MaskOp)
  | vsel (f : F6) (a b c : R5)
  | vlogic (f : F6) (a b c : R5) (mk : Option MaskOp)
  | vshift (f : F6) (a b : R5) (o : Op2) (mk : Option MaskOp)
  | viop (f : F6) (a b c : R5) (mk : Option MaskOp)
  | vbcast (f : F6) (a b : R5) (o : Op2) (mk : Option MaskOp)
  | vext (f : F6) (a b : R5) (o : Op2)
  | vins (f : F6) (a b : R5) (o : Op2)
  | vperm (f : F6) (a b c : R5) (mk : Option MaskOp)
  | vshuf (f : F6) (a b c : R5) (mk : Option MaskOp)
  | vred (f : F6) (a b : R5) (mk : Option MaskOp)
  | vdot (f : F6) (a b c : R5) (mk : Option MaskOp)
  | klog (f : F6) (a b c : R5)
  | kmov (f : F6) (a b : R5)
  | vli (f : F6) (a : R5) (i : BitVec 32) (mk : Option MaskOp)
  -- versioned tiles (R228, R238)
  | tdecl (a b : R5)
  | tdeclU (a b : R5)
  | tld (a : R5) (k : KeyOp)
  | tst (a : R5) (k : KeyOp)
  | tdrop (k : KeyOp)
  | tdropAll (k : KeyOp)
  | tqry (a : R5) (k : KeyOp)
  | twait (a : R5) (k : KeyOp)
  | tget (f : F6) (a b c d : R5)
  | tstv (f : F6) (a : R5) (k : KeyOp)
  | tunp (f : F6) (a b : R5)
  -- lazy tiles (R269)
  | tew (f : F6) (a b c d : R5)
  | tmap (f : F6) (a b c : R5)
  | tmma (f : F6) (a b c d : R5)
  | tred (f : F6) (a b : R5)
  | tidx (f : F6) (a b c : R5) (i : BitVec 32)
  | tcvt (f : F6) (a b : R5)
  | tforce (a b c : R5)
  | tforceM (a : R5)
  | tforceQ (a b : R5)
  | thclr (a : R5)
  | thclrAll
  | tadam (a b c d : R5)
  | tfill (a b : R5) (i : BitVec 32)
  | tldp (a b c : R5) (disp : BitVec 32)
  | tstp (a b c : R5) (disp : BitVec 32)
  -- matrix (R297)
  | mringSet (r : BitVec 2) (a b : R5)
  | mringPush (r : BitVec 2) (a b : R5)
  | mringRst (r : BitVec 2) (a : R5)
  | mma (f : F6) (ra rb : BitVec 2)
  | mfmt (a : R5) (o : Op2)
  | mfmtQ (a : R5)
  | mepi (a b c : R5)
  | mepiRst (a : R5)
  | mdrain (f : F6) (a : R5) (dst : DrainDst)
  | mstat (a : R5)
  | mstatR (a b : R5)
  | mstatC (a : R5)
  -- Teller (R320)
  | tel (f : F6) (b : R5)
  | teln (f : F6) (a b c : R5)
  | telq (a : R5)
  | telqW (a : R5)
  | ueret
  -- threads (R341)
  | spawn (a b : R5)
  | mig (n : F6) (m : MemOp)
  | migC (n : F6) (b : R5)
  | exit
  | yield
  | post (b : R5)
  | postN (a b : R5)
  | postR (b : R5)
  | postRn (a b : R5)
  | rcbopGet (a b : R5) (o : Op2)
  | rcbopSet (a b : R5) (o : Op2)
  | rcbopCreate (a b c : R5)
  | rcbopHold (a b : R5)
  | rcbopRelease (a b : R5)
  | rcbopRetire (a b : R5)
  | sleep (f : F6) (o : Op2)
  | join (a b : R5)
  | joinQ (a b : R5)
  -- differentiable regions (R356)
  | dreg (a b : R5)
  | dregU (a b : R5)
  | dregQ (a b : R5)
  | dmodeFwd
  | dmodeRev
  | dmodeQ (a : R5)
  | dadj (a b : R5)
  | dadjL (a b : R5)
  | dadjX (a b : R5)
  | dadjP (a b : R5)
  | dseed (b c : R5)
  | dseedV (b c : R5)
  | dseedT (a : R5) (k : KeyOp)
  | tapeMark (a : R5)
  | tapePop (a : R5)
  | tapeRewind (a b : R5)
  | tapeQuery (a : R5)
  | dclr (a b : R5)
  | dclrR (a b c : R5)
  | dclrT (k : KeyOp)
  -- system (R398)
  | trap (i : BitVec 16)
  | trapRet (b : R5) (i : BitVec 16)
  | sysc (i : BitVec 16)
  | syscFw (i : BitVec 16)
  | eret
  | sget (a : R5) (num : BitVec 12)
  | sput (b : R5) (num : BitVec 12)
  | tlbiAll (s : BitVec 3)
  | tlbiAsid (s : BitVec 3) (b : R5)
  | tlbiVa (s : BitVec 3) (b c : R5)
  | tlbiRange (s : BitVec 3) (b c d : R5)
  | ctxsw (a b : R5)
  | ctxswFl (a b : R5)
  | ctxswQ (a b : R5)
  | preempt (a b : R5)
  | preemptH (a b : R5)
  | gangHalt (a b : R5)
  | gangResume (a b : R5)
  | gangRead (a b : R5)
  | keyopGen (a b : R5)
  | keyopLoad (a b c : R5)
  | keyopClr (a b : R5)
  | keyopQ (a b : R5)
  | capr (a b : R5)
  | caprF (a b : R5)
  | errqPop (a : R5)
  | errqQ (a : R5)
  | errqInj (a b : R5)
  | wfe
  -- links and host (R423)
  | abind (a b c : R5)
  | abindU (a b : R5)
  | abindS (a b : R5)
  | abindSu (a b : R5)
  | abindX (a b c : R5)
  | abindRt (a b c : R5)
  | abindLf (a b : R5)
  | xred (a b : R5)
  | xredMax (a b : R5)
  | lstat (a : R5) (o : Op2)
  | lstatD (a : R5) (o : Op2)
  | lstatH (a : R5)
  -- fences (R143, R147)
  | icsyncInvalidateAtCore (tid core : Nat) (range : Option (Nat × Nat × Nat))
  -- pages (R173, R176, R178)
  | pageOpSlotGrant (die : Nat) (op : PageOp)
  | pageSweepAtCore (die slot core : Nat)
  | pageOpCompletion (die slot : Nat)
  | pageQueueRetry (die slot wait : Nat) (h : Held)
  -- conversions and statistics (R191)
  | vhistGrant (tid cell asid slot fmt : Nat) (v : Vec)
  -- vectors (R203)
  | longFunctionResult (tid : Nat) (r : R5) (v : Vec)
  -- versioned tiles (R228, R238)
  | descriptorDropAtCell (tid cell asid arr : Nat)
  | mintReference (q : KeyReq)
  | mintDrop (q : KeyReq)
  | mintReserve (q : KeyReq)
  | mintCreate (q : KeyReq) (data : List Byte)
  | pinRelease (k : Key) (slice : Nat)
  | mintReplyArrival (q : KeyReq) (o : MintOutcome)
  | versionWakeArrival (tid : Nat) (result : Nat)
  | quotaRetry (rcb asid : Nat) (lower : Bool)
  -- lazy tiles (R269)
  | forceNodeStep (tid : Nat)
  | forceCompletion (tid : Nat)
  | poolSourceCopy (cell entry : Nat)
  | lockedStoreRelease (q : MemReq) (op : BankOp)
  -- matrix (R297)
  | matrixCommandAtHead (core : Nat)
  | kstepGrant (cell : Nat)
  | kstepRetire (core : Nat)
  | epilogueRow (core : Nat)
  | mdrainCompletion (core : Nat)
  -- Teller (R320)
  | tellerOpStart (cell : Nat)
  | redaddSegment (cell op : Nat)
  | tellerFault (cell op : Nat) (code : Nat) (addr : Word)
  | tellerOpCompletion (cell op : Nat)
  | userEventEntry (tid : Nat)
  -- threads (R341)
  | sleepTimeReached (tid : Nat)
  | dispatcherRecordArrival (sector : Nat) (r : TaskRec) (poster : Option Nat)
  | spillRefill (sector rcb asid : Nat)
  | residencyProbe (sector : Nat)
  | placement (sector : Nat)
  | migrationPacketArrival (p : Packet)
  | parkLimitExpiry (tid : Nat)
  | stallLimitExpiry (tid : Nat)
  -- differentiable regions (R356)
  | regionTableUpdateAtCore (tid core asid : Nat)
  | tapePush (src : Src) (entry : Lane) (addr old width slot tag : Nat) (poison : Bool)
  | adjointTileContribution (q : KeyReq) (first : Nat) (vals : List (Nat × Nat))
  -- system (R398)
  | cfenceFence (tid core : Nat) (cell : Bool)
  | cfenceRestore (tid core : Nat) (cell : Bool)
  | creset (tid cell : Nat)
  | cellResetEnd (cell : Nat)
  | slretEnter (tid slice : Nat)
  | slretWake (tid slice : Nat)
  | retentionDataWake (slice : Nat)
  | tsplitWrite (die : Nat) (v : Word)
  | tarenaWrite (die : Nat) (len : Bool) (v : Word)
  | sevtClear (die : Nat) (v : Word)
  | tlbiShootdownAtCore (tid core : Nat) (asid : Option Nat) (range : Option (Nat × Nat))
  | preemptArrival (tid core slot : Nat) (hold : Bool) (a : R5)
  | imageWritebackCommand (core tid : Nat)
  | imageLineFetchArrival (tid line : Nat)
  | imageLost (tid line : Nat)
  | haltTreeArrival (tid core rcb : Nat)
  -- links and host (R423)
  | xredContributionAtRoot (dev tag i j ver op fmt shape n : Nat) (data : List Byte) (nf : Bool)
  | xredRootTimeout (tag i j ver : Nat)
  | xredResultArrival (tag i j ver status : Nat) (data : List Byte) (nf : Bool)
  -- the cores' and homes' steps (R34, R66, R96, R97, R116 to R136, R164)
  | lineFetchArrival (tid : Nat) (line : FetchedLine)
  | longResultArrival (r : Reply)
  | lineFillArrival (q : MemReq) (lines : List (Nat × BitVec 1024 × BitVec 16))
  | fillAtHome (q : FillReq)
  | poolBankAccess (q : MemReq) (op : BankOp)
  | writeThroughAtHome (q : MemReq) (vals : List Nat)
  | writeBackMerge (tid : Option Nat) (core line key : Nat) (data : BitVec 1024) (mask : BitVec 128) (nc : Bool)
      (pois : BitVec 16)
  | writeAckArrival (tid : Nat) (tag : Nat)
  | atomicAtHome (q : MemReq) (op : AtomOp)
  | contributionAtHome (q : MemReq) (op : Nat) (vals : List Nat)
  | contributionAckArrival (tid : Nat)
  | releaseAtHome (q : MemReq) (n : Nat) (val : Word)
  | acquireAtHome (q : MemReq) (n : Nat)
  | drainCommandArrival (core job : Nat)
  | drainCompletion (job : Nat)
  | barrierArrivalAtHome (w : Waiter)
  | waitRegistration (w : Waiter)
  | wakeAtHome (q : MemReq) (timeout : Bool)
  | waiterWakeArrival (w : Waiter) (val : Word) (result : Nat)
  | waiterPollRetry (w : Waiter)
  | waitDeadlineExpiry (w : Waiter)
  | suspendedPollerRequeue (w : Waiter)
  | getsAtHome (line die : Nat)
  | getmAtHome (line die : Nat)
  | putmAtHome (line die : Nat)
  | puteAtHome (line die : Nat)
  | forwardedRequest (line owner dest : Nat) (excl : Bool)
  | invalidateAtProxy (line die : Nat)
  -- faults, errors, power, boot, host and links (R375, R391 to R397, R411 to R425)
  | deliverRetry (r : FaultRec)
  | softErrorCorrected (die cls inst loc : Nat)
  | uncorrectableError (die cls inst loc : Nat)
  | errorWindowEnd (die : Nat)
  | powerWindowProjection (die : Nat) (high : Bool) (cycles : Nat)
  | coldReset
  | coreRelease
  | hostDoorbell
  | spdmRequest
  | linkStateChange (link state : Nat)
  | flitRetransmit (link : Nat)
  | linkMessageArrival (link : Nat) (m : LinkMsg)
  | remoteWordAccess (m : RemoteWord)
  | remoteKeyRequest (m : RemoteKey)
  | arrivalNotice (dev space arr i j ver : Nat) (data : Option (List Byte))
  | shadowFetchReply (slice : Nat) (k : Key) (status : Nat) (data : List Byte)
  | hostHdmAccess (pa : Nat) (write : Option (BitVec 512))
  | bisnpResponse (die slot : Nat) (line : Nat) (dirty : Option (BitVec 512))
  | hostSnoop (half : Nat) (inv : Bool)
  | hostFillReply (half : Nat) (excl : Bool) (data : BitVec 512)
  | bridgeDeviceAccess (q : MemReq) (op : BankOp)
  | cxlLinkStateChange (up : Bool)
  deriving DecidableEq, Repr

/-- One instruction as it stands in a line: the switch marker (R37), the guard of the long form (R41), and the
operation. -/
structure Insn where
  sw : Bool
  grd : Option Guard
  op : Instr
  deriving DecidableEq, Repr

end Sys2Proof
end

