-- ==== Sys2Proof/WellFormed.lean ====
section
/-! DEFINITION. Which instructions are well formed: the assigned values of `F` and the immediate ranges of each owning
chapter, and whether the form fits its tail length (R38 to R48). A pattern that fails one of these raises `ILLEGAL_OP`
at decode (R47), so the decoder answers nothing for it. Register numbers are not part of it: they are checked at issue
(R44). -/

namespace Sys2Proof

/-- The user control registers of R69 that GETC reaches. -/
def userReadable : List Nat :=
  [0x000, 0x001, 0x002, 0x003, 0x004, 0x005, 0x008, 0x009, 0x00A, 0x010, 0x011, 0x018, 0x019, 0x01A, 0x020, 0x021,
   0x028, 0x029, 0x02A, 0x030, 0x031, 0x038, 0x039, 0x03A, 0x03B]

/-- The user control registers of R69 that PUTC may write. -/
def userWritable : List Nat :=
  [0x008, 0x009, 0x00A, 0x010, 0x011, 0x018, 0x019, 0x01A, 0x038, 0x039, 0x03A, 0x03B]

/-- The registers of R377 that SGET may read. -/
def superReadable : List Nat :=
  [0x100, 0x101, 0x102, 0x103, 0x104, 0x105, 0x106, 0x107, 0x108, 0x110, 0x111, 0x113, 0x114, 0x115, 0x116, 0x11A,
   0x120, 0x130, 0x131, 0x132, 0x133]

/-- The registers of R377 that SPUT may write, in some mode. -/
def superWritable : List Nat :=
  [0x100, 0x101, 0x102, 0x103, 0x104, 0x105, 0x106, 0x107, 0x110, 0x111, 0x112, 0x115, 0x116, 0x118, 0x119, 0x120,
   0x130, 0x131, 0x132, 0x133]

/-- A signed immediate fits: any value in the long form, the values of `I16` in the short form (R40). -/
def fitsS (g : Bool) (i : BitVec 32) : Bool := g || (i.setWidth 16).signExtend 32 == i

/-- An unsigned immediate fits: zero-extended from `I16` in the short form (R40). -/
def fitsU (g : Bool) (i : BitVec 32) : Bool := g || i.toNat < 65536

/-- A signed second operand of the ALU mould fits its form. -/
def fitsOp2 (g : Bool) : Op2 → Bool
  | .reg _ => true
  | .imm i => fitsS g i

/-- An unsigned second operand of the ALU mould fits its form. -/
def fitsOp2U (g : Bool) : Op2 → Bool
  | .reg _ => true
  | .imm i => fitsU g i

/-- A displacement of a form whose short tail has no immediate: zero there (R118). -/
def fitsZ (g : Bool) (i : BitVec 32) : Bool := g || i == 0

/-- The mask of R204: only the long form has the field. -/
def fitsMask (g : Bool) : Option MaskOp → Bool
  | none => true
  | some _ => g

/-- The lane counts 16, 32, 64 and 8 of the width codes 0 to 3 (R200). -/
def laneCount (code : Nat) : Nat :=
  match code % 4 with
  | 0 => 16
  | 1 => 32
  | 2 => 64
  | _ => 8

/-- The lane widths 32, 16, 8 and 64 bits of the width codes 0 to 3 (R200). -/
def laneBits (code : Nat) : Nat :=
  match code % 4 with
  | 0 => 32
  | 1 => 16
  | 2 => 8
  | _ => 64

/-- A shift amount of the immediate forms of R74. -/
def shiftOk (f : F6) : Op2 → Bool
  | .reg _ => true
  | .imm i => decide (i.toNat < (if f = 1 then 32 else 64))

/-- A lane index of the immediate forms of R216 and R217. -/
def indexOk (code : Nat) : Op2 → Bool
  | .reg _ => true
  | .imm i => decide (i.toNat < laneCount code)

/-- The immediate of VLI (R220), checked on its signed value. -/
def vliOk (g : Bool) (f : F6) (i : BitVec 32) : Bool :=
  match f.toNat with
  | 1 => decide (-(2 ^ 15 : Int) ≤ i.toInt ∧ i.toInt < 2 ^ 16)
  | 2 => decide (-(2 ^ 7 : Int) ≤ i.toInt ∧ i.toInt < 2 ^ 8)
  | 4 => !g || decide (i.toNat < 65536)
  | _ => true

/-- A key is well formed (R229): its fields are typed by the syntax. -/
def keyFits (g : Bool) (_ : KeyOp) : Bool := g

/-- Destination code `F`[5:4] of MDRAIN (R302). -/
def DrainDst.code : DrainDst → Nat
  | .pool _ _ => 0
  | .ring _ => 1
  | .mem _ _ => 2
  | .tile _ => 3

/-- The assigned `F` values and immediate ranges of the operation, `g` telling whether the long form is used. Events are
no instructions of a line. -/
def wfOp (g : Bool) : Instr → Bool
  | .nop => true
  | .add f _ _ o | .sub f _ _ o => (f.toNat ∈ [0, 1, 4, 5]) && fitsOp2 g o
  | .mul f _ _ o | .and f _ _ o | .or f _ _ o | .xor f _ _ o | .andn f _ _ o => (f.toNat ∈ [0, 1]) && fitsOp2 g o
  | .mulh f _ _ o | .div f _ _ o | .rem f _ _ o | .min f _ _ o | .max f _ _ o => f.toNat < 4 && fitsOp2 g o
  | .shl f _ _ o | .shr f _ _ o | .sar f _ _ o | .rol f _ _ o => f.toNat < 2 && fitsOp2 g o && shiftOk f o
  | .bcnt f _ _ => f.toNat < 3
  | .brev f _ _ => f.toNat < 2
  | .fext f _ _ o => f.toNat < 2 && fitsOp2U g o && (match o with
      | .reg _ => true
      | .imm i => i.toNat < 2 ^ 14 && bitsOf i.toNat 7 6 == 0)
  | .fins _ _ o => fitsOp2U g o && (match o with
      | .reg _ => true
      | .imm i => i.toNat < 2 ^ 14 && bitsOf i.toNat 7 6 == 0)
  | .sext f _ _ => f.toNat ∈ [0, 1, 2, 4, 5, 6]
  | .li f _ i => f.toNat < 3 && (if f = 1 then fitsU g i else fitsS g i)
  | .sel f _ _ _ => f.toNat < 32
  | .lea f _ _ o => f.toNat < 5 && fitsOp2 g o
  | .cmp f _ _ o => f.toNat % 16 < 12 && f.toNat < 32 && fitsOp2 g o
  | .plog f _ _ _ => f.toNat < 16
  | .pmov _ _ | .pmovP _ _ | .pmovGp _ | .pmovSp _ => true
  | .br _ _ | .jmp _ | .call _ _ | .jr _ _ | .loop _ _ => true
  | .getc _ n => n.toNat ∈ userReadable
  | .putc _ n => n.toNat ∈ userWritable
  | .paddr f _ _ o => f.toNat < 3 && fitsOp2 g o
  | .ld f _ m => f.toNat < 16 && f.toNat % 8 ≠ 4 && fitsS g m.disp
  | .st f _ m => f.toNat < 16 && f.toNat % 8 < 4 && fitsS g m.disp
  | .ldv f _ m c | .stv f _ m c => f.toNat < 16 && (f.getLsbD 2 || c == 0) && fitsS g m.disp
  | .ldg f _ _ _ d | .sts f _ _ _ d => f.toNat < 32 && (if f.getLsbD 4 then g else d == 0)
  | .ldm f _ m => f.toNat % 16 ≤ 8 && fitsS g m.disp
  | .pref f m => f.toNat < 3 && fitsS g m.disp
  | .cmoClean m | .cmoFlush m | .cmoInval m | .cmoZero m => fitsS g m.disp
  | .amo f a m _ d => f.toNat < 18 && fitsZ g m.disp && (d == 0 || (g && d != a))
  | .cas f a m _ d => f.toNat < 2 && fitsZ g m.disp && (d == 0 || (g && d != a))
  | .red f m _ => f.toNat < 19 && fitsZ g m.disp
  | .redv f a m _ => f.toNat % 32 < 19 && (f.getLsbD 5 || a == 0) && fitsZ g m.disp
  | .acq f a m | .rel f a m => f.toNat < 3 && (f.toNat < 2 || a == 0) && fitsS g m.disp
  | .bar _ m | .barN _ m | .wake m | .wakeT m => fitsS g m.disp
  | .waitw f _ _ _ _ _ => g && f.toNat < 32
  | .pend _ m | .pendC _ m => fitsZ g m.disp
  | .fenceFull s | .fenceAcq s | .fenceRel s | .icsync s | .icsyncRanged s _ _ => s.toNat < 7
  | .fenceAck => true
  | .pgmode _ _ _ _ | .pgmodeCf _ _ | .pgmig _ _ _ _ | .pgq _ _ | .pgqL _ _ | .pgqD _ => true
  | .vcvt f _ _ c => (f.toNat < 32 || f.toNat - 32 ∈ [0, 1, 8, 9, 22, 23]) &&
      (f.toNat % 32 ∈ [0, 1, 6, 7, 8, 9, 24, 25, 26, 27] || c == 0)
  | .vqntX f _ _ _ => 32 ≤ f.toNat && f.toNat < 36
  | .vqnt f _ _ _ => f.toNat < 32
  | .vdq f _ _ _ => f.toNat % 4 == 0 && f.toNat < 32
  | .vsr f _ _ => f.toNat ∈ [0, 1, 2, 3, 4, 9, 10, 12, 17, 18, 19, 20, 25, 26, 28]
  | .vhist f _ _ => f.toNat < 3
  | .hread _ _ i => i.toNat ≤ 68
  | .hreadC _ _ i => i.toNat ≤ 66
  | .hreadInit _ _ i => decide (-160 ≤ i.toInt ∧ i.toInt ≤ 127)
  | .vadd f _ _ _ mk | .vsub f _ _ _ mk | .vmul f _ _ _ mk | .vdiv f _ _ _ mk => f.toNat < 3 && fitsMask g mk
  | .vfma f _ _ _ mk => f.toNat < 16 && f.toNat % 4 < 3 && fitsMask g mk
  | .vmin f _ _ _ mk | .vmax f _ _ _ mk => f.toNat < 8 && f.toNat % 4 < 3 && fitsMask g mk
  | .vsgn f _ _ c mk => f.toNat < 16 && f.toNat % 4 < 3 && (f.toNat < 12 || c == 0) && fitsMask g mk
  | .vrcp f _ _ mk | .vrsq f _ _ mk | .vsqrt f _ _ mk | .vexp2 f _ _ mk | .vlog2 f _ _ mk =>
      f.toNat < 3 && fitsMask g mk
  | .vcmp f _ _ _ mk => f.toNat % 8 < 7 && fitsMask g mk
  | .vsel f _ _ _ => f.toNat < 16
  | .vlogic f _ _ _ mk => f.toNat < 16 && fitsMask g mk
  | .vshift f _ _ o mk => f.toNat < 16 && fitsOp2 g o && fitsMask g mk && (match o with
      | .reg _ => true
      | .imm i => decide (i.toNat < laneBits f.toNat))
  | .viop f _ _ c mk => f.toNat < 60 && (f.toNat / 4 ≠ 13 || c == 0) && fitsMask g mk
  | .vbcast f _ _ o mk => f.toNat < 8 && fitsOp2U g o && fitsMask g mk &&
      (if f.getLsbD 2 then o == .reg 0 else indexOk f.toNat o)
  | .vext f _ _ o => f.toNat < 8 && fitsOp2U g o && indexOk f.toNat o
  | .vins f _ _ o => f.toNat < 4 && fitsOp2U g o && indexOk f.toNat o
  | .vperm f _ _ _ mk => f.toNat < 4 && fitsMask g mk
  | .vshuf f _ _ c mk => f.toNat < 24 && (f.toNat < 16 || c == 0) && fitsMask g mk
  | .vred f _ _ mk => f.toNat < 32 && (12 ≤ f.toNat || f.toNat % 4 < 3) && fitsMask g mk &&
      (match mk with
       | some m => !m.zero
       | none => true)
  | .vdot f _ _ _ mk => f.toNat < 5 && fitsMask g mk
  | .klog f _ _ _ => f.toNat < 16
  | .kmov f _ _ => f.toNat < 7
  | .vli f _ i mk => f.toNat < 5 && fitsS g i && vliOk g f i && fitsMask g mk
  | .tdecl _ _ | .tdeclU _ _ => true
  | .tld _ k | .tst _ k | .tdrop k | .tdropAll k | .tqry _ k | .twait _ k => keyFits g k
  | .tget f _ _ _ _ => g && f.toNat ≤ 16
  | .tstv f _ k => keyFits g k && f.toNat < 8
  | .tunp f _ _ => f.toNat < 4
  | .tew f _ _ _ d => f.toNat < 7 && (if f.toNat = 6 then g else d == 0)
  | .tmap f _ _ c => f.toNat < 10 && (8 ≤ f.toNat || c == 0)
  | .tmma f _ _ _ d => f.toNat < 2 && (if f.toNat = 1 then g else d == 0)
  | .tred f _ _ => f.toNat < 7 && f.toNat % 4 < 3
  | .tidx f _ _ c i => f.toNat < 5 && (2 ≤ f.toNat || c == 0) && (if f.toNat = 2 then fitsS g i else i == 0)
  | .tcvt f _ _ => f.toNat < 7 || f.toNat ∈ [9, 10, 12] || (32 ≤ f.toNat && f.toNat < 44)
  | .tforce _ _ _ | .tforceM _ | .tforceQ _ _ | .thclr _ | .thclrAll => true
  | .tadam _ _ _ _ => g
  | .tfill _ _ i => fitsS g i
  | .tldp _ _ _ _ | .tstp _ _ _ _ => g
  | .mringSet _ _ _ | .mringPush _ _ _ | .mringRst _ _ => true
  | .mma f _ _ => f.toNat < 8
  | .mfmt _ o => fitsOp2U g o && (match o with
      | .reg _ => true
      | .imm i => !g || decide (i.toNat < 0x8000))
  | .mfmtQ _ | .mepi _ _ _ | .mepiRst _ => true
  | .mdrain f _ d => f.toNat / 16 == d.code && f.toNat % 16 ∈ [0, 1, 2, 3, 4, 6, 8] && (d.code ≠ 3 || g)
  | .mstat _ | .mstatR _ _ | .mstatC _ => true
  | .tel f _ | .teln f _ _ _ => f.toNat < 2
  | .telq _ | .telqW _ | .ueret => true
  | .spawn _ _ => true
  | .mig n m => n.toNat ≤ 8 && fitsS g m.disp
  | .migC n _ => n.toNat ≤ 8
  | .exit | .yield | .post _ | .postN _ _ | .postR _ | .postRn _ _ => true
  | .rcbopGet _ _ o | .rcbopSet _ _ o => fitsOp2U g o && (match o with
      | .reg _ => true
      | .imm i => decide (i.toNat < 32))
  | .rcbopCreate _ _ _ | .rcbopHold _ _ | .rcbopRelease _ _ | .rcbopRetire _ _ => true
  | .sleep f o => f.toNat < 2 && fitsOp2U g o
  | .join _ _ | .joinQ _ _ => true
  | .dreg _ _ | .dregU _ _ | .dregQ _ _ | .dmodeFwd | .dmodeRev | .dmodeQ _ => true
  | .dadj _ _ | .dadjL _ _ | .dadjX _ _ | .dadjP _ _ | .dseed _ _ | .dseedV _ _ => true
  | .dseedT _ k | .dclrT k => keyFits g k
  | .tapeMark _ | .tapePop _ | .tapeRewind _ _ | .tapeQuery _ | .dclr _ _ | .dclrR _ _ _ => true
  | .trap _ | .trapRet _ _ | .sysc _ | .syscFw _ | .eret => true
  | .sget _ n => n.toNat ∈ superReadable
  | .sput _ n => n.toNat ∈ superWritable
  | .tlbiAll s | .tlbiAsid s _ | .tlbiVa s _ _ => s.toNat < 6
  | .tlbiRange s _ _ _ => g && s.toNat < 6
  | .ctxsw _ _ | .ctxswFl _ _ | .ctxswQ _ _ | .preempt _ _ | .preemptH _ _ => true
  | .gangHalt _ _ | .gangResume _ _ | .gangRead _ _ => true
  | .keyopGen _ _ | .keyopLoad _ _ _ | .keyopClr _ _ | .keyopQ _ _ | .capr _ _ | .caprF _ _ => true
  | .errqPop _ | .errqQ _ | .errqInj _ _ | .wfe => true
  | .abind _ _ _ | .abindU _ _ | .abindS _ _ | .abindSu _ _ | .abindX _ _ _ | .abindRt _ _ _ | .abindLf _ _ => true
  | .xred _ _ | .xredMax _ _ => true
  | .lstat _ o => fitsOp2U g o && (match o with
      | .reg _ => true
      | .imm i => decide (i.toNat < 8))
  | .lstatD _ o => fitsOp2U g o && (match o with
      | .reg _ => true
      | .imm i => decide (i.toNat < 1024))
  | .lstatH _ => true
  | .icsyncInvalidateAtCore .. | .pageOpSlotGrant .. | .pageSweepAtCore .. | .pageOpCompletion .. | .pageQueueRetry ..
  | .vhistGrant .. | .longFunctionResult .. | .descriptorDropAtCell .. | .mintReference .. | .mintDrop ..
  | .mintReserve .. | .mintCreate .. | .pinRelease .. | .mintReplyArrival .. | .versionWakeArrival .. | .quotaRetry ..
  | .forceNodeStep .. | .forceCompletion .. | .poolSourceCopy .. | .lockedStoreRelease .. | .matrixCommandAtHead ..
  | .kstepGrant .. | .kstepRetire .. | .epilogueRow .. | .mdrainCompletion .. | .tellerOpStart .. | .redaddSegment ..
  | .tellerFault .. | .tellerOpCompletion .. | .userEventEntry .. | .sleepTimeReached .. | .dispatcherRecordArrival ..
  | .spillRefill .. | .residencyProbe .. | .placement .. | .migrationPacketArrival .. | .parkLimitExpiry ..
  | .stallLimitExpiry .. | .regionTableUpdateAtCore .. | .tapePush .. | .adjointTileContribution .. | .cfenceFence ..
  | .cfenceRestore .. | .creset .. | .cellResetEnd .. | .slretEnter .. | .slretWake .. | .retentionDataWake ..
  | .tsplitWrite .. | .tarenaWrite .. | .sevtClear .. | .tlbiShootdownAtCore .. | .preemptArrival ..
  | .imageWritebackCommand .. | .imageLineFetchArrival .. | .imageLost .. | .haltTreeArrival ..
  | .xredContributionAtRoot .. | .xredRootTimeout .. | .xredResultArrival .. | .lineFetchArrival ..
  | .longResultArrival .. | .lineFillArrival .. | .fillAtHome .. | .poolBankAccess .. | .writeThroughAtHome ..
  | .writeBackMerge .. | .writeAckArrival .. | .atomicAtHome .. | .contributionAtHome .. | .contributionAckArrival ..
  | .releaseAtHome .. | .acquireAtHome .. | .drainCommandArrival .. | .drainCompletion .. | .barrierArrivalAtHome ..
  | .waitRegistration .. | .wakeAtHome .. | .waiterWakeArrival .. | .waiterPollRetry .. | .waitDeadlineExpiry ..
  | .suspendedPollerRequeue .. | .getsAtHome .. | .getmAtHome .. | .putmAtHome .. | .puteAtHome ..
  | .forwardedRequest .. | .invalidateAtProxy .. | .deliverRetry .. | .softErrorCorrected .. | .uncorrectableError ..
  | .errorWindowEnd .. | .powerWindowProjection .. | .coldReset | .coreRelease | .hostDoorbell | .spdmRequest
  | .linkStateChange .. | .flitRetransmit .. | .linkMessageArrival .. | .remoteWordAccess .. | .remoteKeyRequest ..
  | .arrivalNotice .. | .shadowFetchReply .. | .hostHdmAccess .. | .bisnpResponse .. | .hostSnoop ..
  | .hostFillReply .. | .bridgeDeviceAccess .. | .cxlLinkStateChange .. => false

/-- An instruction as it stands in a line is well formed. -/
def WellFormed (i : Insn) : Bool := wfOp i.grd.isSome i.op

end Sys2Proof
end

