-- ==== Sys2Proof/Decode.lean ====
section
/-! DEFINITION. Decoding: head and tail layouts (R36 to R43), the opcode map (R50), the field use of every major (R71,
R103, R118, R143, R147, R173, R176, R178, R191, R203, R228, R229, R238, R269, R297, R320, R341, R347, R356, R398,
R423), the line (R26 to R28), and the encoder. `none` is a pattern that raises `ILLEGAL_OP` (R47). -/

namespace Sys2Proof

/-- The fields of a head and its tail, whatever the layout: absent fields are zero (R38, R43). `i` is `I32`, `I16`
zero-extended, or the whole T2J tail, whose layout is that of `I32` in T4J (R39). -/
structure Fields where
  a : R5
  b : R5
  c : R5
  d : R5
  f : F6
  e : F6
  i : BitVec 32
  deriving DecidableEq, Repr

/-- The majors marked J in the opcode map (R50). -/
def isJ (op : Nat) : Bool := op ∈ [0x1C, 0x1D, 0x1E, 0x20]

/-- The fields of an instruction with the given tail length (R38, R39). -/
def fieldsOf (op tl : Nat) (a : R5) (t : BitVec 64) : Fields :=
  match tl with
  | 0 => ⟨a, 0, 0, 0, 0, 0, 0⟩
  | 1 => ⟨a, t.extractLsb' 0 5, t.extractLsb' 5 5, 0, t.extractLsb' 10 6, 0, 0⟩
  | 2 => if isJ op then ⟨a, 0, 0, 0, 0, 0, t.extractLsb' 0 32⟩
      else ⟨a, t.extractLsb' 0 5, t.extractLsb' 5 5, 0, t.extractLsb' 10 6, 0, (t.extractLsb' 16 16).setWidth 32⟩
  | _ => ⟨a, t.extractLsb' 0 5, t.extractLsb' 5 5, t.extractLsb' 16 5, t.extractLsb' 10 6, t.extractLsb' 26 6,
      t.extractLsb' 32 32⟩

/-- The guard of a T4 tail (R41). -/
def guardOf (tl : Nat) (t : BitVec 64) : Option Guard :=
  if tl = 3 then some ⟨t.extractLsb' 21 4, t.getLsbD 25⟩ else none

/-- Answer `v` where the form is assigned and its reserved fields are zero. -/
def only {α : Type} (c : Bool) (v : α) : Option α := if c then some v else none

/-- Majors with a head only: `TL` 0, or 3 with every field zero (R43). -/
def Fields.bare (x : Fields) (tl : Nat) : Bool :=
  (tl == 0 || tl == 3) && x.a == 0 && x.b == 0 && x.c == 0 && x.d == 0 && x.f == 0 && x.e == 0 && x.i == 0

/-- The `TL` 1 form, or the same under a guard with `I32`, `D` and `E` zero (R71). -/
def Fields.t1 (x : Fields) (tl : Nat) : Bool := (tl == 1 || tl == 3) && x.d == 0 && x.e == 0 && x.i == 0

/-- The `TL` 1 form that also names `D` in `TL` 3. -/
def Fields.t1d (x : Fields) (tl : Nat) : Bool := (tl == 1 || tl == 3) && x.e == 0 && x.i == 0

/-- The `TL` 2 form, or the same with `I32` under a guard and `D` and `E` zero (R71). -/
def Fields.t2 (x : Fields) (tl : Nat) : Bool := (tl == 2 || tl == 3) && x.d == 0 && x.e == 0

/-- The signed immediate of the form (R40). -/
def Fields.immS (x : Fields) (tl : Nat) : BitVec 32 := if tl = 2 then (x.i.setWidth 16).signExtend 32 else x.i

/-- The second operand of the ALU mould, `D` and `E`[5:1] zero (R42). -/
def Fields.op2 (x : Fields) (tl : Nat) (signed : Bool) : Option Op2 :=
  if x.d ≠ 0 then none
  else if (tl = 1 ∨ (tl = 3 ∧ x.e = 0)) then only (x.i == 0) (.reg x.c)
  else if (tl = 2 ∨ (tl = 3 ∧ x.e = 1)) then only (x.c == 0) (.imm (if signed then x.immS tl else x.i))
  else none

/-- The mask of R204; `E`[0] is checked by the caller. -/
def Fields.mask (x : Fields) : Option (Option MaskOp) :=
  if x.e.extractLsb' 3 3 ≠ 0 then none
  else if x.e.getLsbD 1 then some (some ⟨x.d, x.e.getLsbD 2⟩)
  else only (!x.e.getLsbD 2 && x.d == 0) none

/-- A vector form of `TL` 1 and 3 with its mask (R203, R204). -/
def Fields.vmask (x : Fields) (tl : Nat) : Option (Option MaskOp) :=
  if (tl = 1 ∨ tl = 3) ∧ x.i = 0 ∧ x.e.getLsbD 0 = false then x.mask else none

/-- The second operand of a vector form by `E`[0] (R203). -/
def Fields.vop2 (x : Fields) (tl : Nat) (signed : Bool) : Option Op2 :=
  if tl = 1 ∨ (tl = 3 ∧ x.e.getLsbD 0 = false) then only (x.i == 0) (.reg x.c)
  else if tl = 2 ∨ (tl = 3 ∧ x.e.getLsbD 0 = true) then only (x.c == 0) (.imm (if signed then x.immS tl else x.i))
  else none

/-- A key (R229): the long form only. -/
def Fields.key (x : Fields) (tl : Nat) : Option KeyOp :=
  if tl ≠ 3 then none
  else if x.e.getLsbD 5 then
    only (x.e.setWidth 5 == 0#5 && x.i.extractLsb' 24 8 == 0#8) ⟨x.b, x.c, x.d, .imm (x.i.setWidth 24)⟩
  else only (x.i == 0) ⟨x.b, x.c, x.d, .reg (x.e.setWidth 5)⟩

/-- A jump target (R39). -/
def Fields.target (x : Fields) (tl : Nat) : Option Target :=
  only ((tl == 2 || tl == 3) && x.b == 0 && x.c == 0 && x.d == 0 && x.f == 0 && x.e == 0)
    ⟨x.i.extractLsb' 5 27, x.i.extractLsb' 0 5⟩

/-- A memory operand of the `TL` 2 form (R103, R118). -/
def Fields.mem (x : Fields) (tl : Nat) : MemOp := ⟨x.b, x.immS tl⟩

/-- A memory operand of the `TL` 1 form, whose long form has a displacement (R118). -/
def Fields.mem1 (x : Fields) : MemOp := ⟨x.b, x.i⟩

/-- Majors 0x00 to 0x23 (R71). -/
def decScalar (op tl : Nat) (x : Fields) : Option Instr :=
  match op with
  | 0x00 => only (x.bare tl) .nop
  | 0x01 => (x.op2 tl true).map (.add x.f x.a x.b)
  | 0x02 => (x.op2 tl true).map (.sub x.f x.a x.b)
  | 0x03 => (x.op2 tl true).map (.mul x.f x.a x.b)
  | 0x04 => (x.op2 tl true).map (.mulh x.f x.a x.b)
  | 0x05 => (x.op2 tl true).map (.div x.f x.a x.b)
  | 0x06 => (x.op2 tl true).map (.rem x.f x.a x.b)
  | 0x07 => (x.op2 tl true).map (.and x.f x.a x.b)
  | 0x08 => (x.op2 tl true).map (.or x.f x.a x.b)
  | 0x09 => (x.op2 tl true).map (.xor x.f x.a x.b)
  | 0x0A => (x.op2 tl true).map (.andn x.f x.a x.b)
  | 0x0B => (x.op2 tl true).map (.shl x.f x.a x.b)
  | 0x0C => (x.op2 tl true).map (.shr x.f x.a x.b)
  | 0x0D => (x.op2 tl true).map (.sar x.f x.a x.b)
  | 0x0E => (x.op2 tl true).map (.rol x.f x.a x.b)
  | 0x0F => (x.op2 tl true).map (.min x.f x.a x.b)
  | 0x10 => (x.op2 tl true).map (.max x.f x.a x.b)
  | 0x11 => only (x.t1 tl && x.c == 0) (.bcnt x.f x.a x.b)
  | 0x12 => only (x.t1 tl && x.c == 0) (.brev x.f x.a x.b)
  | 0x13 => (x.op2 tl false).map (.fext x.f x.a x.b)
  | 0x14 => if x.f = 0 then (x.op2 tl false).map (.fins x.a x.b) else none
  | 0x15 => only (x.t1 tl && x.c == 0) (.sext x.f x.a x.b)
  | 0x16 => only (x.t2 tl && x.b == 0 && x.c == 0) (.li x.f x.a (if x.f = 1 then x.i else x.immS tl))
  | 0x17 => only (x.t1 tl) (.sel x.f x.a x.b x.c)
  | 0x18 => (x.op2 tl true).map (.lea x.f x.a x.b)
  | 0x19 => (x.op2 tl true).map (.cmp x.f x.a x.b)
  | 0x1A => only (x.t1 tl) (.plog x.f x.a x.b x.c)
  | 0x1B => match x.f.toNat with
      | 0 => only (x.t1 tl && x.c == 0) (.pmov x.a x.b)
      | 1 => only (x.t1 tl && x.c == 0) (.pmovP x.a x.b)
      | 2 => only (x.t1 tl && x.c == 0 && x.b == 0) (.pmovGp x.a)
      | 3 => only (x.t1 tl && x.c == 0 && x.a == 0) (.pmovSp x.b)
      | _ => none
  | 0x1C => (x.target tl).map (.br x.a)
  | 0x1D => if x.a = 0 then (x.target tl).map .jmp else none
  | 0x1E => (x.target tl).map (.call x.a)
  | 0x1F => only (x.t1 tl && x.c == 0 && x.f == 0) (.jr x.a x.b)
  | 0x20 => (x.target tl).map (.loop x.a)
  | 0x21 => only (x.t2 tl && x.b == 0 && x.c == 0 && x.f == 0 && x.i.toNat < 4096) (.getc x.a (x.i.setWidth 12))
  | 0x22 => only (x.t2 tl && x.a == 0 && x.c == 0 && x.f == 0 && x.i.toNat < 4096) (.putc x.b (x.i.setWidth 12))
  | 0x23 => (x.op2 tl true).map (.paddr x.f x.a x.b)
  | _ => none

/-- Majors 0x30 to 0x51 (R103, R114, R118). -/
def decMemory (op tl : Nat) (x : Fields) : Option Instr :=
  match op with
  | 0x30 => only (x.t2 tl && x.c == 0) (.ld x.f x.a (x.mem tl))
  | 0x31 => only (x.t2 tl && x.c == 0) (.st x.f x.a (x.mem tl))
  | 0x32 => only (x.t2 tl) (.ldv x.f x.a (x.mem tl) x.c)
  | 0x33 => only (x.t2 tl) (.stv x.f x.a (x.mem tl) x.c)
  | 0x34 => only (x.t1d tl) (.ldg x.f x.a x.b x.c x.d)
  | 0x35 => only (x.t1d tl) (.sts x.f x.a x.b x.c x.d)
  | 0x36 => only (x.t2 tl && x.c == 0) (.ldm x.f x.a (x.mem tl))
  | 0x37 => only (x.t2 tl && x.a == 0 && x.c == 0) (.pref x.f (x.mem tl))
  | 0x38 => if x.t2 tl && x.a == 0 && x.c == 0 then match x.f.toNat with
      | 0 => some (.cmoClean (x.mem tl))
      | 1 => some (.cmoFlush (x.mem tl))
      | 2 => some (.cmoInval (x.mem tl))
      | 3 => some (.cmoZero (x.mem tl))
      | _ => none
    else none
  | 0x48 => only ((tl == 1 || tl == 3) && x.e == 0) (.amo x.f x.a x.mem1 x.c x.d)
  | 0x49 => only ((tl == 1 || tl == 3) && x.e == 0) (.cas x.f x.a x.mem1 x.c x.d)
  | 0x4A => only ((tl == 1 || tl == 3) && x.e == 0 && x.d == 0 && x.a == 0) (.red x.f x.mem1 x.c)
  | 0x4B => only ((tl == 1 || tl == 3) && x.e == 0 && x.d == 0) (.redv x.f x.a x.mem1 x.c)
  | 0x4C => only (x.t2 tl && x.c == 0) (.acq x.f x.a (x.mem tl))
  | 0x4D => only (x.t2 tl && x.c == 0) (.rel x.f x.a (x.mem tl))
  | 0x4E => if x.t2 tl && x.c == 0 then match x.f.toNat with
      | 0 => some (.bar x.a (x.mem tl))
      | 1 => some (.barN x.a (x.mem tl))
      | _ => none
    else none
  | 0x4F => only (tl == 3 && x.e.extractLsb' 4 2 == 0#2) (.waitw x.f x.a (x.mem tl) x.c x.d (x.e.setWidth 4))
  | 0x50 => if x.t2 tl && x.a == 0 && x.c == 0 then match x.f.toNat with
      | 0 => some (.wake (x.mem tl))
      | 1 => some (.wakeT (x.mem tl))
      | _ => none
    else none
  | 0x51 => if (tl == 1 || tl == 3) && x.e == 0 && x.d == 0 && x.c == 0 then match x.f.toNat with
      | 0 => some (.pend x.a x.mem1)
      | 1 => some (.pendC x.a x.mem1)
      | _ => none
    else none
  | _ => none

/-- Majors 0x60 to 0x6D (R143, R147, R173, R176, R178, R191). -/
def decFence (op tl : Nat) (x : Fields) : Option Instr :=
  match op with
  | 0x60 => if x.t1 tl && x.a == 0 && x.b == 0 && x.c == 0 && !x.f.getLsbD 5 then
      match (x.f.extractLsb' 3 2).toNat with
      | 0 => some (.fenceFull (x.f.setWidth 3))
      | 1 => some (.fenceAcq (x.f.setWidth 3))
      | 2 => some (.fenceRel (x.f.setWidth 3))
      | _ => only (x.f.setWidth 3 == 0#3) .fenceAck
    else none
  | 0x61 => if x.t1 tl && x.a == 0 && x.f.extractLsb' 4 2 == 0#2 then
      if x.f.getLsbD 3 then some (.icsyncRanged (x.f.setWidth 3) x.b x.c)
      else only (x.b == 0 && x.c == 0) (.icsync (x.f.setWidth 3))
    else none
  | 0x62 => if x.t1 tl then match x.f.toNat with
      | 0 => some (.pgmode false x.a x.b x.c)
      | 1 => some (.pgmode true x.a x.b x.c)
      | 2 => only (x.b == 0) (.pgmodeCf x.a x.c)
      | _ => none
    else none
  | 0x63 => if x.t1 tl then match x.f.toNat with
      | 0 => some (.pgmig false x.a x.b x.c)
      | 1 => some (.pgmig true x.a x.b x.c)
      | _ => none
    else none
  | 0x64 => if x.t1 tl && x.c == 0 then match x.f.toNat with
      | 0 => some (.pgq x.a x.b)
      | 1 => some (.pgqL x.a x.b)
      | 2 => only (x.b == 0) (.pgqD x.a)
      | _ => none
    else none
  | 0x68 => only (x.t1 tl) (.vcvt x.f x.a x.b x.c)
  | 0x69 => only (x.t1 tl) (if x.f.getLsbD 5 then .vqntX x.f x.a x.b x.c else .vqnt x.f x.a x.b x.c)
  | 0x6A => only (x.t1 tl) (.vdq x.f x.a x.b x.c)
  | 0x6B => only (x.t1 tl && x.c == 0) (.vsr x.f x.a x.b)
  | 0x6C => only (x.t1 tl && x.a == 0) (.vhist x.f x.b x.c)
  | 0x6D => if x.t2 tl && x.c == 0 then match x.f.toNat with
      | 0 => some (.hread x.a x.b x.i)
      | 1 => some (.hreadC x.a x.b x.i)
      | 2 => some (.hreadInit x.a x.b (x.immS tl))
      | _ => none
    else none
  | _ => none

/-- Majors 0x70 to 0x8B (R203). -/
def decVector (op tl : Nat) (x : Fields) : Option Instr :=
  match op with
  | 0x70 => (x.vmask tl).map (.vadd x.f x.a x.b x.c)
  | 0x71 => (x.vmask tl).map (.vsub x.f x.a x.b x.c)
  | 0x72 => (x.vmask tl).map (.vmul x.f x.a x.b x.c)
  | 0x73 => (x.vmask tl).map (.vfma x.f x.a x.b x.c)
  | 0x74 => (x.vmask tl).map (.vmin x.f x.a x.b x.c)
  | 0x75 => (x.vmask tl).map (.vmax x.f x.a x.b x.c)
  | 0x76 => (x.vmask tl).map (.vsgn x.f x.a x.b x.c)
  | 0x77 => if x.c = 0 then (x.vmask tl).map (.vrcp x.f x.a x.b) else none
  | 0x78 => if x.c = 0 then (x.vmask tl).map (.vrsq x.f x.a x.b) else none
  | 0x79 => if x.c = 0 then (x.vmask tl).map (.vsqrt x.f x.a x.b) else none
  | 0x7A => (x.vmask tl).map (.vdiv x.f x.a x.b x.c)
  | 0x7B => if x.c = 0 then (x.vmask tl).map (.vexp2 x.f x.a x.b) else none
  | 0x7C => if x.c = 0 then (x.vmask tl).map (.vlog2 x.f x.a x.b) else none
  | 0x7D => (x.vmask tl).map (.vcmp x.f x.a x.b x.c)
  | 0x7E => only (x.t1 tl) (.vsel x.f x.a x.b x.c)
  | 0x7F => (x.vmask tl).map (.vlogic x.f x.a x.b x.c)
  | 0x80 => (x.vop2 tl true).bind fun o => x.mask.map (.vshift x.f x.a x.b o)
  | 0x81 => (x.vmask tl).map (.viop x.f x.a x.b x.c)
  | 0x82 => (x.vop2 tl false).bind fun o => x.mask.map (.vbcast x.f x.a x.b o)
  | 0x83 => (x.op2 tl false).map (.vext x.f x.a x.b)
  | 0x84 => (x.op2 tl false).map (.vins x.f x.a x.b)
  | 0x85 => (x.vmask tl).map (.vperm x.f x.a x.b x.c)
  | 0x86 => (x.vmask tl).map (.vshuf x.f x.a x.b x.c)
  | 0x87 => if x.c = 0 then (x.vmask tl).map (.vred x.f x.a x.b) else none
  | 0x88 => (x.vmask tl).map (.vdot x.f x.a x.b x.c)
  | 0x89 => only (x.t1 tl) (.klog x.f x.a x.b x.c)
  | 0x8A => only (x.t1 tl && x.c == 0) (.kmov x.f x.a x.b)
  | 0x8B => if (tl = 2 ∨ tl = 3) ∧ x.b = 0 ∧ x.c = 0 ∧ x.e.getLsbD 0 = false then
      x.mask.map (.vli x.f x.a (x.immS tl)) else none
  | _ => none

/-- Majors 0xA0 to 0xBB (R228, R229, R238, R269). -/
def decTile (op tl : Nat) (x : Fields) : Option Instr :=
  match op with
  | 0xA0 => if x.t1 tl && x.c == 0 then match x.f.toNat with
      | 0 => some (.tdecl x.a x.b)
      | 1 => some (.tdeclU x.a x.b)
      | _ => none
    else none
  | 0xA1 => if x.f = 0 then (x.key tl).map (.tld x.a) else none
  | 0xA2 => if x.f = 0 then (x.key tl).map (.tst x.a) else none
  | 0xA3 => if x.a = 0 then (x.key tl).bind fun k => match x.f.toNat with
      | 0 => some (.tdrop k)
      | 1 => some (.tdropAll k)
      | _ => none
    else none
  | 0xA4 => if x.f = 0 then (x.key tl).map (.tqry x.a) else none
  | 0xA5 => if x.f = 0 then (x.key tl).map (.twait x.a) else none
  | 0xA6 => only (tl == 3 && x.e == 0 && x.i == 0) (.tget x.f x.a x.b x.c x.d)
  | 0xA7 => (x.key tl).map (.tstv x.f x.a)
  | 0xA8 => only (x.t1 tl && x.c == 0) (.tunp x.f x.a x.b)
  | 0xB0 => only (x.t1d tl) (.tew x.f x.a x.b x.c x.d)
  | 0xB1 => only (x.t1 tl) (.tmap x.f x.a x.b x.c)
  | 0xB2 => only (x.t1d tl) (.tmma x.f x.a x.b x.c x.d)
  | 0xB3 => only (x.t1 tl && x.c == 0) (.tred x.f x.a x.b)
  | 0xB4 => only (x.t2 tl) (.tidx x.f x.a x.b x.c (x.immS tl))
  | 0xB5 => only (x.t1 tl && x.c == 0) (.tcvt x.f x.a x.b)
  | 0xB6 => if x.t1 tl then match x.f.toNat with
      | 0 => some (.tforce x.a x.b x.c)
      | 1 => only (x.b == 0 && x.c == 0) (.tforceM x.a)
      | 2 => only (x.c == 0) (.tforceQ x.a x.b)
      | _ => none
    else none
  | 0xB7 => if x.t1 tl && x.b == 0 && x.c == 0 then match x.f.toNat with
      | 0 => some (.thclr x.a)
      | 1 => only (x.a == 0) .thclrAll
      | _ => none
    else none
  | 0xB8 => only (tl == 3 && x.f == 0 && x.e == 0 && x.i == 0) (.tadam x.a x.b x.c x.d)
  | 0xB9 => only (x.t2 tl && x.c == 0 && x.f == 0) (.tfill x.a x.b (x.immS tl))
  | 0xBA => only (tl == 3 && x.f == 0 && x.e == 0 && x.d == 0) (.tldp x.a x.b x.c x.i)
  | 0xBB => only (tl == 3 && x.f == 0 && x.e == 0 && x.d == 0) (.tstp x.a x.b x.c x.i)
  | _ => none

/-- The destination of MDRAIN by `F`[5:4] (R302). -/
def Fields.drain (x : Fields) (tl : Nat) : Option DrainDst :=
  match (x.f.extractLsb' 4 2).toNat with
  | 0 => only (x.t1 tl) (.pool x.b x.c)
  | 1 => only (x.t1 tl && x.c == 0) (.ring x.b)
  | 2 => only (x.t1 tl) (.mem x.b x.c)
  | _ => (x.key tl).map .tile

/-- Majors 0xC0 to 0xE1 (R297, R320, R341, R347, R356). -/
def decEngine (op tl : Nat) (x : Fields) : Option Instr :=
  match op with
  | 0xC0 => if x.t1 tl && x.c == 0 then match (x.f.extractLsb' 2 4).toNat with
      | 0 => some (.mringSet (x.f.setWidth 2) x.a x.b)
      | 1 => some (.mringPush (x.f.setWidth 2) x.a x.b)
      | 2 => only (x.b == 0) (.mringRst (x.f.setWidth 2) x.a)
      | _ => none
    else none
  | 0xC1 => only (x.t1 tl && x.b == 0 && x.c == 0 && !x.a.getLsbD 4) (.mma x.f (x.a.setWidth 2) (x.a.extractLsb' 2 2))
  | 0xC2 => match x.f.toNat with
      | 0 => if x.d = 0 ∧ x.c = 0 then
          if tl = 1 ∨ (tl = 3 ∧ x.e = 0) then only (x.i == 0) (.mfmt x.a (.reg x.b))
          else if tl = 2 ∨ (tl = 3 ∧ x.e = 1) then only (x.b == 0) (.mfmt x.a (.imm x.i))
          else none
        else none
      | 1 => only (x.t1 tl && x.b == 0 && x.c == 0) (.mfmtQ x.a)
      | _ => none
  | 0xC3 => if x.t1 tl then match x.f.toNat with
      | 0 => some (.mepi x.a x.b x.c)
      | 1 => only (x.b == 0 && x.c == 0) (.mepiRst x.a)
      | _ => none
    else none
  | 0xC4 => (x.drain tl).map (.mdrain x.f x.a)
  | 0xC5 => if x.t1 tl && x.c == 0 then match x.f.toNat with
      | 0 => only (x.b == 0) (.mstat x.a)
      | 1 => some (.mstatR x.a x.b)
      | 2 => only (x.b == 0) (.mstatC x.a)
      | _ => none
    else none
  | 0xC8 => only (x.t1 tl && x.a == 0 && x.c == 0) (.tel x.f x.b)
  | 0xC9 => only (x.t1 tl) (.teln x.f x.a x.b x.c)
  | 0xCA => if x.t1 tl && x.b == 0 && x.c == 0 then match x.f.toNat with
      | 0 => some (.telq x.a)
      | 1 => some (.telqW x.a)
      | _ => none
    else none
  | 0xCB => only (x.bare tl) .ueret
  | 0xCC => only (x.t1 tl && x.c == 0 && x.f == 0) (.spawn x.a x.b)
  | 0xCD => if x.a ≠ 0 ∨ x.c ≠ 0 ∨ x.d ≠ 0 ∨ x.e ≠ 0 ∨ x.f.getLsbD 5 then none
      else if x.f.getLsbD 4 then only ((tl == 1 || tl == 3) && x.i == 0) (.migC (x.f &&& 15#6) x.b)
      else only (tl == 1 || tl == 2 || tl == 3) (.mig x.f (x.mem tl))
  | 0xCE => only (x.bare tl) .exit
  | 0xCF => only (x.bare tl) .yield
  | 0xD0 => if x.t1 tl && x.c == 0 then match x.f.toNat with
      | 0 => only (x.a == 0) (.post x.b)
      | 1 => some (.postN x.a x.b)
      | 2 => only (x.a == 0) (.postR x.b)
      | 3 => some (.postRn x.a x.b)
      | _ => none
    else none
  | 0xD1 => match x.f.toNat with
      | 0 => (x.op2 tl false).map (.rcbopGet x.a x.b)
      | 1 => (x.op2 tl false).map (.rcbopSet x.a x.b)
      | 2 => only (x.t1 tl) (.rcbopCreate x.a x.b x.c)
      | 3 => only (x.t1 tl && x.c == 0) (.rcbopHold x.a x.b)
      | 4 => only (x.t1 tl && x.c == 0) (.rcbopRelease x.a x.b)
      | 5 => only (x.t1 tl && x.c == 0) (.rcbopRetire x.a x.b)
      | _ => none
  | 0xD2 => if x.a = 0 ∧ x.b = 0 then (x.op2 tl false).map (.sleep x.f) else none
  | 0xD3 => if x.t1 tl && x.c == 0 then match x.f.toNat with
      | 0 => some (.join x.a x.b)
      | 1 => some (.joinQ x.a x.b)
      | _ => none
    else none
  | 0xDC => if x.t1 tl && x.c == 0 then match x.f.toNat with
      | 0 => some (.dreg x.a x.b)
      | 1 => some (.dregU x.a x.b)
      | 2 => some (.dregQ x.a x.b)
      | _ => none
    else none
  | 0xDD => if x.t1 tl && x.b == 0 && x.c == 0 then match x.f.toNat with
      | 0 => only (x.a == 0) .dmodeFwd
      | 1 => only (x.a == 0) .dmodeRev
      | 2 => some (.dmodeQ x.a)
      | _ => none
    else none
  | 0xDE => if x.t1 tl && x.c == 0 then match x.f.toNat with
      | 0 => some (.dadj x.a x.b)
      | 1 => some (.dadjL x.a x.b)
      | 2 => some (.dadjX x.a x.b)
      | 3 => some (.dadjP x.a x.b)
      | _ => none
    else none
  | 0xDF => match x.f.toNat with
      | 0 => only (x.t1 tl && x.a == 0) (.dseed x.b x.c)
      | 1 => only (x.t1 tl && x.a == 0) (.dseedV x.b x.c)
      | 2 => (x.key tl).map (.dseedT x.a)
      | _ => none
  | 0xE0 => if x.t1 tl && x.c == 0 then match x.f.toNat with
      | 0 => only (x.b == 0) (.tapeMark x.a)
      | 1 => only (x.b == 0) (.tapePop x.a)
      | 2 => some (.tapeRewind x.a x.b)
      | 3 => only (x.b == 0) (.tapeQuery x.a)
      | _ => none
    else none
  | 0xE1 => match x.f.toNat with
      | 0 => only (x.t1 tl && x.c == 0) (.dclr x.a x.b)
      | 1 => only (x.t1 tl) (.dclrR x.a x.b x.c)
      | 2 => if x.a = 0 then (x.key tl).map .dclrT else none
      | _ => none
  | _ => none

/-- Majors 0xE4 to 0xFA (R398, R403 to R408, R423). -/
def decSystem (op tl : Nat) (x : Fields) : Option Instr :=
  match op with
  | 0xE4 => if x.t2 tl && x.a == 0 && x.c == 0 && x.i.toNat < 65536 then match x.f.toNat with
      | 0 => only (x.b == 0) (.trap (x.i.setWidth 16))
      | 1 => some (.trapRet x.b (x.i.setWidth 16))
      | _ => none
    else none
  | 0xE5 => if x.t2 tl && x.a == 0 && x.b == 0 && x.c == 0 && x.i.toNat < 65536 then match x.f.toNat with
      | 0 => some (.sysc (x.i.setWidth 16))
      | 1 => some (.syscFw (x.i.setWidth 16))
      | _ => none
    else none
  | 0xE6 => only (x.bare tl) .eret
  | 0xE7 => only (x.t2 tl && x.b == 0 && x.c == 0 && x.f == 0 && x.i.toNat < 4096) (.sget x.a (x.i.setWidth 12))
  | 0xE8 => only (x.t2 tl && x.a == 0 && x.c == 0 && x.f == 0 && x.i.toNat < 4096) (.sput x.b (x.i.setWidth 12))
  | 0xE9 => if x.t1d tl && x.a == 0 && !x.f.getLsbD 5 then match (x.f.extractLsb' 3 2).toNat with
      | 0 => only (x.b == 0 && x.c == 0 && x.d == 0) (.tlbiAll (x.f.setWidth 3))
      | 1 => only (x.c == 0 && x.d == 0) (.tlbiAsid (x.f.setWidth 3) x.b)
      | 2 => only (x.d == 0) (.tlbiVa (x.f.setWidth 3) x.b x.c)
      | _ => some (.tlbiRange (x.f.setWidth 3) x.b x.c x.d)
    else none
  | 0xEA => if x.t1 tl && x.c == 0 then match x.f.toNat with
      | 0 => some (.ctxsw x.a x.b)
      | 1 => some (.ctxswFl x.a x.b)
      | 2 => some (.ctxswQ x.a x.b)
      | _ => none
    else none
  | 0xEB => if x.t1 tl && x.c == 0 then match x.f.toNat with
      | 0 => some (.preempt x.a x.b)
      | 1 => some (.preemptH x.a x.b)
      | _ => none
    else none
  | 0xEC => if x.t1 tl && x.c == 0 then match x.f.toNat with
      | 0 => some (.gangHalt x.a x.b)
      | 1 => some (.gangResume x.a x.b)
      | 2 => some (.gangRead x.a x.b)
      | _ => none
    else none
  | 0xED => if x.t1 tl then match x.f.toNat with
      | 0 => only (x.c == 0) (.keyopGen x.a x.b)
      | 1 => some (.keyopLoad x.a x.b x.c)
      | 2 => only (x.c == 0) (.keyopClr x.a x.b)
      | 3 => only (x.c == 0) (.keyopQ x.a x.b)
      | _ => none
    else none
  | 0xEE => if x.t1 tl && x.c == 0 then match x.f.toNat with
      | 0 => some (.capr x.a x.b)
      | 1 => some (.caprF x.a x.b)
      | _ => none
    else none
  | 0xEF => if x.t1 tl && x.c == 0 then match x.f.toNat with
      | 0 => only (x.b == 0) (.errqPop x.a)
      | 1 => only (x.b == 0) (.errqQ x.a)
      | 2 => some (.errqInj x.a x.b)
      | _ => none
    else none
  | 0xF0 => only (x.bare tl) .wfe
  | 0xF8 => if x.t1 tl then match x.f.toNat with
      | 0 => some (.abind x.a x.b x.c)
      | 1 => only (x.c == 0) (.abindU x.a x.b)
      | 2 => only (x.c == 0) (.abindS x.a x.b)
      | 3 => only (x.c == 0) (.abindSu x.a x.b)
      | 4 => some (.abindX x.a x.b x.c)
      | 5 => some (.abindRt x.a x.b x.c)
      | 6 => only (x.c == 0) (.abindLf x.a x.b)
      | _ => none
    else none
  | 0xF9 => if x.t1 tl && x.c == 0 then match x.f.toNat with
      | 0 => some (.xred x.a x.b)
      | 1 => some (.xredMax x.a x.b)
      | _ => none
    else none
  | 0xFA => if x.c = 0 ∧ x.d = 0 then
      match x.f.toNat, (tl = 1 ∨ (tl = 3 ∧ x.e = 0) : Bool), (tl = 2 ∨ (tl = 3 ∧ x.e = 1) : Bool) with
      | 0, true, _ => only (x.i == 0) (.lstat x.a (.reg x.b))
      | 1, true, _ => only (x.i == 0) (.lstatD x.a (.reg x.b))
      | 2, true, _ => only (x.i == 0 && x.b == 0) (.lstatH x.a)
      | 0, _, true => only (x.b == 0) (.lstat x.a (.imm x.i))
      | 1, _, true => only (x.b == 0) (.lstatD x.a (.imm x.i))
      | _, _, _ => none
    else none
  | _ => none

/-- The operation of a major and its fields, its reserved fields being zero (R47, R50). -/
def decodeOp (op tl : Nat) (x : Fields) : Option Instr :=
  if op < 0x30 then decScalar op tl x
  else if op < 0x60 then decMemory op tl x
  else if op < 0x70 then decFence op tl x
  else if op < 0xA0 then decVector op tl x
  else if op < 0xC0 then decTile op tl x
  else if op < 0xE4 then decEngine op tl x
  else decSystem op tl x

/-- Decode one instruction from its head and its tail, zero-extended (R47): `none` raises `ILLEGAL_OP`. -/
def decode (head : BitVec 16) (tail : BitVec 64) : Option Insn :=
  let op := (head.extractLsb' 5 8).toNat
  let tl := (head.extractLsb' 13 2).toNat
  let g := guardOf tl tail
  match decodeOp op tl (fieldsOf op tl (head.setWidth 5) tail) with
  | none => none
  | some i => only (wfOp g.isSome i) ⟨head.getLsbD 15, g, i⟩

/-! ## The line (R26 to R28) -/

/-- The 16-bit value at byte `k` of a line. -/
def half (l : List Byte) (k : Nat) : Nat := valueOf ((l.drop k).take 2)

/-- `N` of the line header. -/
def lineN (l : List Byte) : Nat := half l 0 / 2048

/-- Head `k` of a line (R27). -/
def lineHead (l : List Byte) (k : Nat) : BitVec 16 := BitVec.ofNat 16 (half l (2 + 2 * k))

/-- The tail length of a head in bytes (R28). -/
def tailBytes (h : BitVec 16) : Nat :=
  match (h.extractLsb' 13 2).toNat with
  | 0 => 0
  | 1 => 2
  | 2 => 4
  | _ => 8

/-- `C(k)`: the tail bytes of the instructions before `k` (R28). -/
def tailSum (l : List Byte) : Nat → Nat
  | 0 => 0
  | k + 1 => tailSum l k + tailBytes (lineHead l k)

/-- The tail of instruction `k`, zero-extended (R28). -/
def lineTail (l : List Byte) (k : Nat) : BitVec 64 :=
  BitVec.ofNat 64 (valueOf ((l.drop (64 - tailSum l (k + 1))).take (tailBytes (lineHead l k))))

/-- The line checks of R32 in order: 0 when the line may be entered at `slot`, else the number of the check. -/
def lineCheck (l : List Byte) (slot : Nat) : Nat :=
  if lineN l = 0 then 1
  else if half l 0 % 2048 ≠ 0 then 2
  else if 2 + 2 * lineN l + tailSum l (lineN l) > 64 then 3
  else if lineN l ≤ slot then 4
  else 0

/-! ## The encoder -/

/-- The tail forms: a head only, `TL` 1, `TL` 2, or a jump (R38). -/
inductive Form where
  | bare
  | t1
  | t2
  | j
  deriving DecidableEq, Repr

/-- Head and tail from the fields: `TL` is 3 under a guard and else that of the form (R36, R38, R39). -/
def packWords (sw : Bool) (grd : Option Guard) (op : BitVec 8) (fm : Form) (x : Fields) : BitVec 16 × BitVec 64 :=
  match grd with
  | some g => (BitVec.ofBool sw ++ 3#2 ++ op ++ x.a,
      x.i ++ x.e ++ BitVec.ofBool g.n ++ g.g ++ x.d ++ x.f ++ x.c ++ x.b)
  | none => match fm with
      | .bare => (BitVec.ofBool sw ++ 0#2 ++ op ++ x.a, 0)
      | .t1 => (BitVec.ofBool sw ++ 1#2 ++ op ++ x.a, (x.f ++ x.c ++ x.b : BitVec 16).setWidth 64)
      | .t2 => (BitVec.ofBool sw ++ 2#2 ++ op ++ x.a, (x.i.setWidth 16 ++ x.f ++ x.c ++ x.b : BitVec 32).setWidth 64)
      | .j => (BitVec.ofBool sw ++ 2#2 ++ op ++ x.a, x.i.setWidth 64)

/-- What the encoder gives an instruction: its major, form and fields. -/
structure Enc where
  op : BitVec 8
  form : Form
  x : Fields
  deriving DecidableEq, Repr

/-- A `TL` 1 form. -/
def encT1 (op : BitVec 8) (f : F6) (a b c : R5) : Enc := ⟨op, .t1, ⟨a, b, c, 0, f, 0, 0⟩⟩

/-- A `TL` 2 form. -/
def encT2 (op : BitVec 8) (f : F6) (a b c : R5) (i : BitVec 32) : Enc := ⟨op, .t2, ⟨a, b, c, 0, f, 0, i⟩⟩

/-- A jump (R39). -/
def encJ (op : BitVec 8) (a : R5) (t : Target) : Enc := ⟨op, .j, ⟨a, 0, 0, 0, 0, 0, t.disp ++ t.slot⟩⟩

/-- The ALU mould (R42). -/
def encOp2 (op : BitVec 8) (f : F6) (a b : R5) : Op2 → Enc
  | .reg c => ⟨op, .t1, ⟨a, b, c, 0, f, 0, 0⟩⟩
  | .imm i => ⟨op, .t2, ⟨a, b, 0, 0, f, 1, i⟩⟩

/-- The mould whose register operand stands in `B` (MFMT, LSTAT). -/
def encOpB (op : BitVec 8) (f : F6) (a : R5) : Op2 → Enc
  | .reg b => ⟨op, .t1, ⟨a, b, 0, 0, f, 0, 0⟩⟩
  | .imm i => ⟨op, .t2, ⟨a, 0, 0, 0, f, 1, i⟩⟩

/-- `D` and `E` of a mask (R204). -/
def encMask (x : Fields) : Option MaskOp → Fields
  | none => x
  | some m => { x with d := m.d, e := x.e ||| (if m.zero then 6#6 else 2#6) }

/-- A masked `TL` 1 form. -/
def encV (op : BitVec 8) (f : F6) (a b c : R5) (mk : Option MaskOp) : Enc :=
  ⟨op, .t1, encMask ⟨a, b, c, 0, f, 0, 0⟩ mk⟩

/-- A masked form of the ALU mould. -/
def encVOp2 (op : BitVec 8) (f : F6) (a b : R5) (o : Op2) (mk : Option MaskOp) : Enc :=
  ⟨op, (encOp2 op f a b o).form, encMask (encOp2 op f a b o).x mk⟩

/-- A form with a key (R229). -/
def encKey (op : BitVec 8) (f : F6) (a : R5) (k : KeyOp) : Enc :=
  match k.ver with
  | .reg e => ⟨op, .t1, ⟨a, k.b, k.c, k.d, f, e.setWidth 6, 0⟩⟩
  | .imm v => ⟨op, .t1, ⟨a, k.b, k.c, k.d, f, 32#6, v.setWidth 32⟩⟩

/-- A `TL` 1 form whose long form has a displacement and `D` (R118). -/
def encMem1 (op : BitVec 8) (f : F6) (a : R5) (m : MemOp) (c d : R5) : Enc := ⟨op, .t1, ⟨a, m.b, c, d, f, 0, m.disp⟩⟩

/-- A `TL` 1 form that names `D` in the long form. -/
def encD (op : BitVec 8) (f : F6) (a b c d : R5) (i : BitVec 32) : Enc := ⟨op, .t1, ⟨a, b, c, d, f, 0, i⟩⟩

/-- A head only. -/
def encBare (op : BitVec 8) : Enc := ⟨op, .bare, ⟨0, 0, 0, 0, 0, 0, 0⟩⟩

/-- The encoding of every instruction; the events have none (R50). -/
def encodeOp : Instr → Option Enc
  | .nop => some (encBare 0x00)
  | .add f a b o => some (encOp2 0x01 f a b o)
  | .sub f a b o => some (encOp2 0x02 f a b o)
  | .mul f a b o => some (encOp2 0x03 f a b o)
  | .mulh f a b o => some (encOp2 0x04 f a b o)
  | .div f a b o => some (encOp2 0x05 f a b o)
  | .rem f a b o => some (encOp2 0x06 f a b o)
  | .and f a b o => some (encOp2 0x07 f a b o)
  | .or f a b o => some (encOp2 0x08 f a b o)
  | .xor f a b o => some (encOp2 0x09 f a b o)
  | .andn f a b o => some (encOp2 0x0A f a b o)
  | .shl f a b o => some (encOp2 0x0B f a b o)
  | .shr f a b o => some (encOp2 0x0C f a b o)
  | .sar f a b o => some (encOp2 0x0D f a b o)
  | .rol f a b o => some (encOp2 0x0E f a b o)
  | .min f a b o => some (encOp2 0x0F f a b o)
  | .max f a b o => some (encOp2 0x10 f a b o)
  | .bcnt f a b => some (encT1 0x11 f a b 0)
  | .brev f a b => some (encT1 0x12 f a b 0)
  | .fext f a b o => some (encOp2 0x13 f a b o)
  | .fins a b o => some (encOp2 0x14 0 a b o)
  | .sext f a b => some (encT1 0x15 f a b 0)
  | .li f a i => some (encT2 0x16 f a 0 0 i)
  | .sel f a b c => some (encT1 0x17 f a b c)
  | .lea f a b o => some (encOp2 0x18 f a b o)
  | .cmp f a b o => some (encOp2 0x19 f a b o)
  | .plog f a b c => some (encT1 0x1A f a b c)
  | .pmov a b => some (encT1 0x1B 0 a b 0)
  | .pmovP a b => some (encT1 0x1B 1 a b 0)
  | .pmovGp a => some (encT1 0x1B 2 a 0 0)
  | .pmovSp b => some (encT1 0x1B 3 0 b 0)
  | .br a t => some (encJ 0x1C a t)
  | .jmp t => some (encJ 0x1D 0 t)
  | .call a t => some (encJ 0x1E a t)
  | .jr a b => some (encT1 0x1F 0 a b 0)
  | .loop a t => some (encJ 0x20 a t)
  | .getc a n => some (encT2 0x21 0 a 0 0 (n.setWidth 32))
  | .putc b n => some (encT2 0x22 0 0 b 0 (n.setWidth 32))
  | .paddr f a b o => some (encOp2 0x23 f a b o)
  | .ld f a m => some (encT2 0x30 f a m.b 0 m.disp)
  | .st f a m => some (encT2 0x31 f a m.b 0 m.disp)
  | .ldv f a m c => some (encT2 0x32 f a m.b c m.disp)
  | .stv f a m c => some (encT2 0x33 f a m.b c m.disp)
  | .ldg f a b c d => some (encD 0x34 f a b c d 0)
  | .sts f a b c d => some (encD 0x35 f a b c d 0)
  | .ldm f a m => some (encT2 0x36 f a m.b 0 m.disp)
  | .pref f m => some (encT2 0x37 f 0 m.b 0 m.disp)
  | .cmoClean m => some (encT2 0x38 0 0 m.b 0 m.disp)
  | .cmoFlush m => some (encT2 0x38 1 0 m.b 0 m.disp)
  | .cmoInval m => some (encT2 0x38 2 0 m.b 0 m.disp)
  | .cmoZero m => some (encT2 0x38 3 0 m.b 0 m.disp)
  | .amo f a m c d => some (encMem1 0x48 f a m c d)
  | .cas f a m c d => some (encMem1 0x49 f a m c d)
  | .red f m c => some (encMem1 0x4A f 0 m c 0)
  | .redv f a m c => some (encMem1 0x4B f a m c 0)
  | .acq f a m => some (encT2 0x4C f a m.b 0 m.disp)
  | .rel f a m => some (encT2 0x4D f a m.b 0 m.disp)
  | .bar a m => some (encT2 0x4E 0 a m.b 0 m.disp)
  | .barN a m => some (encT2 0x4E 1 a m.b 0 m.disp)
  | .waitw f a m c d pe => some ⟨0x4F, .t2, ⟨a, m.b, c, d, f, pe.setWidth 6, m.disp⟩⟩
  | .wake m => some (encT2 0x50 0 0 m.b 0 m.disp)
  | .wakeT m => some (encT2 0x50 1 0 m.b 0 m.disp)
  | .pend a m => some (encMem1 0x51 0 a m 0 0)
  | .pendC a m => some (encMem1 0x51 1 a m 0 0)
  | .fenceFull s => some (encT1 0x60 (s.setWidth 6) 0 0 0)
  | .fenceAcq s => some (encT1 0x60 (8#6 ||| s.setWidth 6) 0 0 0)
  | .fenceRel s => some (encT1 0x60 (16#6 ||| s.setWidth 6) 0 0 0)
  | .fenceAck => some (encT1 0x60 24 0 0 0)
  | .icsync s => some (encT1 0x61 (s.setWidth 6) 0 0 0)
  | .icsyncRanged s b c => some (encT1 0x61 (8#6 ||| s.setWidth 6) 0 b c)
  | .pgmode n a b c => some (encT1 0x62 (if n then 1 else 0) a b c)
  | .pgmodeCf a c => some (encT1 0x62 2 a 0 c)
  | .pgmig n a b c => some (encT1 0x63 (if n then 1 else 0) a b c)
  | .pgq a b => some (encT1 0x64 0 a b 0)
  | .pgqL a b => some (encT1 0x64 1 a b 0)
  | .pgqD a => some (encT1 0x64 2 a 0 0)
  | .vcvt f a b c => some (encT1 0x68 f a b c)
  | .vqntX f a b c => some (encT1 0x69 f a b c)
  | .vqnt f a b c => some (encT1 0x69 f a b c)
  | .vdq f a b c => some (encT1 0x6A f a b c)
  | .vsr f a b => some (encT1 0x6B f a b 0)
  | .vhist f b c => some (encT1 0x6C f 0 b c)
  | .hread a b i => some (encT2 0x6D 0 a b 0 i)
  | .hreadC a b i => some (encT2 0x6D 1 a b 0 i)
  | .hreadInit a b i => some (encT2 0x6D 2 a b 0 i)
  | .vadd f a b c mk => some (encV 0x70 f a b c mk)
  | .vsub f a b c mk => some (encV 0x71 f a b c mk)
  | .vmul f a b c mk => some (encV 0x72 f a b c mk)
  | .vfma f a b c mk => some (encV 0x73 f a b c mk)
  | .vmin f a b c mk => some (encV 0x74 f a b c mk)
  | .vmax f a b c mk => some (encV 0x75 f a b c mk)
  | .vsgn f a b c mk => some (encV 0x76 f a b c mk)
  | .vrcp f a b mk => some (encV 0x77 f a b 0 mk)
  | .vrsq f a b mk => some (encV 0x78 f a b 0 mk)
  | .vsqrt f a b mk => some (encV 0x79 f a b 0 mk)
  | .vdiv f a b c mk => some (encV 0x7A f a b c mk)
  | .vexp2 f a b mk => some (encV 0x7B f a b 0 mk)
  | .vlog2 f a b mk => some (encV 0x7C f a b 0 mk)
  | .vcmp f a b c mk => some (encV 0x7D f a b c mk)
  | .vsel f a b c => some (encT1 0x7E f a b c)
  | .vlogic f a b c mk => some (encV 0x7F f a b c mk)
  | .vshift f a b o mk => some (encVOp2 0x80 f a b o mk)
  | .viop f a b c mk => some (encV 0x81 f a b c mk)
  | .vbcast f a b o mk => some (encVOp2 0x82 f a b o mk)
  | .vext f a b o => some (encOp2 0x83 f a b o)
  | .vins f a b o => some (encOp2 0x84 f a b o)
  | .vperm f a b c mk => some (encV 0x85 f a b c mk)
  | .vshuf f a b c mk => some (encV 0x86 f a b c mk)
  | .vred f a b mk => some (encV 0x87 f a b 0 mk)
  | .vdot f a b c mk => some (encV 0x88 f a b c mk)
  | .klog f a b c => some (encT1 0x89 f a b c)
  | .kmov f a b => some (encT1 0x8A f a b 0)
  | .vli f a i mk => some ⟨0x8B, .t2, encMask ⟨a, 0, 0, 0, f, 0, i⟩ mk⟩
  | .tdecl a b => some (encT1 0xA0 0 a b 0)
  | .tdeclU a b => some (encT1 0xA0 1 a b 0)
  | .tld a k => some (encKey 0xA1 0 a k)
  | .tst a k => some (encKey 0xA2 0 a k)
  | .tdrop k => some (encKey 0xA3 0 0 k)
  | .tdropAll k => some (encKey 0xA3 1 0 k)
  | .tqry a k => some (encKey 0xA4 0 a k)
  | .twait a k => some (encKey 0xA5 0 a k)
  | .tget f a b c d => some (encD 0xA6 f a b c d 0)
  | .tstv f a k => some (encKey 0xA7 f a k)
  | .tunp f a b => some (encT1 0xA8 f a b 0)
  | .tew f a b c d => some (encD 0xB0 f a b c d 0)
  | .tmap f a b c => some (encT1 0xB1 f a b c)
  | .tmma f a b c d => some (encD 0xB2 f a b c d 0)
  | .tred f a b => some (encT1 0xB3 f a b 0)
  | .tidx f a b c i => some (encT2 0xB4 f a b c i)
  | .tcvt f a b => some (encT1 0xB5 f a b 0)
  | .tforce a b c => some (encT1 0xB6 0 a b c)
  | .tforceM a => some (encT1 0xB6 1 a 0 0)
  | .tforceQ a b => some (encT1 0xB6 2 a b 0)
  | .thclr a => some (encT1 0xB7 0 a 0 0)
  | .thclrAll => some (encT1 0xB7 1 0 0 0)
  | .tadam a b c d => some (encD 0xB8 0 a b c d 0)
  | .tfill a b i => some (encT2 0xB9 0 a b 0 i)
  | .tldp a b c i => some (encD 0xBA 0 a b c 0 i)
  | .tstp a b c i => some (encD 0xBB 0 a b c 0 i)
  | .mringSet r a b => some (encT1 0xC0 (r.setWidth 6) a b 0)
  | .mringPush r a b => some (encT1 0xC0 (4#6 ||| r.setWidth 6) a b 0)
  | .mringRst r a => some (encT1 0xC0 (8#6 ||| r.setWidth 6) a 0 0)
  | .mma f ra rb => some (encT1 0xC1 f (0#1 ++ rb ++ ra) 0 0)
  | .mfmt a o => some (encOpB 0xC2 0 a o)
  | .mfmtQ a => some (encT1 0xC2 1 a 0 0)
  | .mepi a b c => some (encT1 0xC3 0 a b c)
  | .mepiRst a => some (encT1 0xC3 1 a 0 0)
  | .mdrain f a d => match d with
      | .pool b c => some (encT1 0xC4 f a b c)
      | .ring b => some (encT1 0xC4 f a b 0)
      | .mem b c => some (encT1 0xC4 f a b c)
      | .tile k => some (encKey 0xC4 f a k)
  | .mstat a => some (encT1 0xC5 0 a 0 0)
  | .mstatR a b => some (encT1 0xC5 1 a b 0)
  | .mstatC a => some (encT1 0xC5 2 a 0 0)
  | .tel f b => some (encT1 0xC8 f 0 b 0)
  | .teln f a b c => some (encT1 0xC9 f a b c)
  | .telq a => some (encT1 0xCA 0 a 0 0)
  | .telqW a => some (encT1 0xCA 1 a 0 0)
  | .ueret => some (encBare 0xCB)
  | .spawn a b => some (encT1 0xCC 0 a b 0)
  | .mig n m => some (encT2 0xCD n 0 m.b 0 m.disp)
  | .migC n b => some (encT1 0xCD (16#6 ||| n) 0 b 0)
  | .exit => some (encBare 0xCE)
  | .yield => some (encBare 0xCF)
  | .post b => some (encT1 0xD0 0 0 b 0)
  | .postN a b => some (encT1 0xD0 1 a b 0)
  | .postR b => some (encT1 0xD0 2 0 b 0)
  | .postRn a b => some (encT1 0xD0 3 a b 0)
  | .rcbopGet a b o => some (encOp2 0xD1 0 a b o)
  | .rcbopSet a b o => some (encOp2 0xD1 1 a b o)
  | .rcbopCreate a b c => some (encT1 0xD1 2 a b c)
  | .rcbopHold a b => some (encT1 0xD1 3 a b 0)
  | .rcbopRelease a b => some (encT1 0xD1 4 a b 0)
  | .rcbopRetire a b => some (encT1 0xD1 5 a b 0)
  | .sleep f o => some (encOp2 0xD2 f 0 0 o)
  | .join a b => some (encT1 0xD3 0 a b 0)
  | .joinQ a b => some (encT1 0xD3 1 a b 0)
  | .dreg a b => some (encT1 0xDC 0 a b 0)
  | .dregU a b => some (encT1 0xDC 1 a b 0)
  | .dregQ a b => some (encT1 0xDC 2 a b 0)
  | .dmodeFwd => some (encT1 0xDD 0 0 0 0)
  | .dmodeRev => some (encT1 0xDD 1 0 0 0)
  | .dmodeQ a => some (encT1 0xDD 2 a 0 0)
  | .dadj a b => some (encT1 0xDE 0 a b 0)
  | .dadjL a b => some (encT1 0xDE 1 a b 0)
  | .dadjX a b => some (encT1 0xDE 2 a b 0)
  | .dadjP a b => some (encT1 0xDE 3 a b 0)
  | .dseed b c => some (encT1 0xDF 0 0 b c)
  | .dseedV b c => some (encT1 0xDF 1 0 b c)
  | .dseedT a k => some (encKey 0xDF 2 a k)
  | .tapeMark a => some (encT1 0xE0 0 a 0 0)
  | .tapePop a => some (encT1 0xE0 1 a 0 0)
  | .tapeRewind a b => some (encT1 0xE0 2 a b 0)
  | .tapeQuery a => some (encT1 0xE0 3 a 0 0)
  | .dclr a b => some (encT1 0xE1 0 a b 0)
  | .dclrR a b c => some (encT1 0xE1 1 a b c)
  | .dclrT k => some (encKey 0xE1 2 0 k)
  | .trap i => some (encT2 0xE4 0 0 0 0 (i.setWidth 32))
  | .trapRet b i => some (encT2 0xE4 1 0 b 0 (i.setWidth 32))
  | .sysc i => some (encT2 0xE5 0 0 0 0 (i.setWidth 32))
  | .syscFw i => some (encT2 0xE5 1 0 0 0 (i.setWidth 32))
  | .eret => some (encBare 0xE6)
  | .sget a n => some (encT2 0xE7 0 a 0 0 (n.setWidth 32))
  | .sput b n => some (encT2 0xE8 0 0 b 0 (n.setWidth 32))
  | .tlbiAll s => some (encT1 0xE9 (s.setWidth 6) 0 0 0)
  | .tlbiAsid s b => some (encT1 0xE9 (8#6 ||| s.setWidth 6) 0 b 0)
  | .tlbiVa s b c => some (encT1 0xE9 (16#6 ||| s.setWidth 6) 0 b c)
  | .tlbiRange s b c d => some (encD 0xE9 (24#6 ||| s.setWidth 6) 0 b c d 0)
  | .ctxsw a b => some (encT1 0xEA 0 a b 0)
  | .ctxswFl a b => some (encT1 0xEA 1 a b 0)
  | .ctxswQ a b => some (encT1 0xEA 2 a b 0)
  | .preempt a b => some (encT1 0xEB 0 a b 0)
  | .preemptH a b => some (encT1 0xEB 1 a b 0)
  | .gangHalt a b => some (encT1 0xEC 0 a b 0)
  | .gangResume a b => some (encT1 0xEC 1 a b 0)
  | .gangRead a b => some (encT1 0xEC 2 a b 0)
  | .keyopGen a b => some (encT1 0xED 0 a b 0)
  | .keyopLoad a b c => some (encT1 0xED 1 a b c)
  | .keyopClr a b => some (encT1 0xED 2 a b 0)
  | .keyopQ a b => some (encT1 0xED 3 a b 0)
  | .capr a b => some (encT1 0xEE 0 a b 0)
  | .caprF a b => some (encT1 0xEE 1 a b 0)
  | .errqPop a => some (encT1 0xEF 0 a 0 0)
  | .errqQ a => some (encT1 0xEF 1 a 0 0)
  | .errqInj a b => some (encT1 0xEF 2 a b 0)
  | .wfe => some (encBare 0xF0)
  | .abind a b c => some (encT1 0xF8 0 a b c)
  | .abindU a b => some (encT1 0xF8 1 a b 0)
  | .abindS a b => some (encT1 0xF8 2 a b 0)
  | .abindSu a b => some (encT1 0xF8 3 a b 0)
  | .abindX a b c => some (encT1 0xF8 4 a b c)
  | .abindRt a b c => some (encT1 0xF8 5 a b c)
  | .abindLf a b => some (encT1 0xF8 6 a b 0)
  | .xred a b => some (encT1 0xF9 0 a b 0)
  | .xredMax a b => some (encT1 0xF9 1 a b 0)
  | .lstat a o => some (encOpB 0xFA 0 a o)
  | .lstatD a o => some (encOpB 0xFA 1 a o)
  | .lstatH a => some (encT1 0xFA 2 a 0 0)
  | _ => none

/-- The head and the tail, zero-extended, of a well-formed instruction. -/
def encode (i : Insn) : Option (BitVec 16 × BitVec 64) :=
  match encodeOp i.op with
  | none => none
  | some e => some (packWords i.sw i.grd e.op e.form e.x)

/-- The decoder's answer for an instruction numbered as the opcode table numbers it: 16 bits are a head; more bits hold the
tail lowest and the head above it. -/
def decodeTableWord (nbits w : Nat) : Option Instr :=
  let tw := nbits - 16
  let head := BitVec.ofNat 16 (w / 2 ^ tw)
  match decode head (BitVec.ofNat 64 (w % 2 ^ tw)) with
  | none => none
  | some i => only (tailBytes head * 8 == tw) i.op

end Sys2Proof
end

