-- ==== Sys2Proof/Config.lean ====
section
/-! DEFINITION. What an implementation fixes, and the free values: opaque constants with no body, one for each value
the spec leaves open (log 3, 5, 7). The figures of R9, R12 and R18 stand here by name. -/

namespace Sys2Proof.Config

/-- A value the spec leaves open, numbered by the draw counter of the state (log 3). -/
opaque freeWord : Nat → Word
/-- The environment's choice of what happens next while messages are in flight: 0 issues an instruction, k + 1 delivers
the k-th message (counted modulo the number in flight). Networks give no order between messages of different
channels (R14, R15; log 3). -/
opaque next : Nat → Nat
/-- Whether the ROM's signature check of the firmware succeeds (R394; log 5). -/
opaque romVerifies : Bool
/-- The values firmware writes at bring-up, by register number (R397 step 4; log 5). -/
opaque firmwareWrites : Nat → Word
/-- The package cycle in which firmware releases the cores, as a count of cycles after cold reset (R397 step 6; log 5). -/
opaque releaseCycle : Nat
/-- Bytes of HBM that firmware writes at bring-up: the ASID table and page tables, the supervisor image, the root RCB (R397 steps 4
and 5; log 5). -/
opaque bootMemory : List (Nat × Byte)
/-- Whether a 72-byte blob unwraps under the device wrapping key (AES-KW, R406; log 5). -/
opaque unwraps : List Byte → Bool
/-- The version of a capability record, by id: not in the spec (R396; log 7). -/
opaque capVersion : Nat → Nat
/-- Words of the body of a capability record, by id: not in the spec (R396; log 7). -/
opaque capBodyWords : Nat → Nat
/-- A word of the body of a capability record, by id, number and what the record reports of the machine: the spec names the contents and
gives no layout (R396; log 7). -/
opaque capBody : Nat → Nat → List Nat → Word
/-- Bytes of an image whose layout the spec reserves to hardware or does not give (thunk nodes, the blocked-wait record), by a free number
and byte (R380; log 7). -/
opaque imageByte : Nat → Nat → Byte
/-- The 32 bytes in which an image holds the pending bits: the spec names the bits of the x, v, k and p registers and gives no layout within
the bytes (R380; log 7). -/
opaque pendingBytes : BitVec 24 → BitVec 8 → BitVec 4 → BitVec 16 → BitVec 256
/-- Whether a unit location exists (class, instance, location) for ERRQ.INJ: the spec gives no ranges (R408; log 7). -/
opaque locationExists : Nat → Nat → Nat → Bool

/-- What a measurement register holds, by block: the spec gives no value (R394, R395; log 54). -/
opaque measurement : Nat → BitVec 384

/-- The scale byte of an NX4 block whose elements come from blocks of different scales, as a transposed view gives: the spec states
none (R276; log 3). -/
opaque mixedScale : List Nat → Byte

/-- Cores of the package (R9). -/
def cores : Nat := 8192
/-- Cells of the package (R12). -/
def cells : Nat := 1024
/-- L2 slices of the package (R12). -/
def slices : Nat := 2048
/-- Bytes of a core's pool: `PBLIM` (R92). -/
def poolBytes : Nat := 131072
/-- Tills per slice (R122). -/
def tillEntries : Nat := 1024
/-- Word waiters per slice (R131). -/
def waiterEntries : Nat := 2048
/-- Release records per slice (R127). -/
def recordEntries : Nat := 512
/-- Mint entries per slice (R232). -/
def mintEntries : Nat := 4096
/-- Floors per Mint (R234). -/
def floorEntries : Nat := 1024
/-- Array descriptors per directory slice (R227). -/
def directoryEntries : Nat := 64
/-- Range-lock entries per cell (R313). -/
def lockEntries : Nat := 64
/-- Teller operations in flight per cell (R306). -/
def tellerInFlight : Nat := 64
/-- Entries of a page unit's replay queue (R170). -/
def pageQueue : Nat := 256
/-- Records of a dispatcher's store (R331). -/
def dispatcherStore : Nat := 256
/-- Entries of a die's error queue (R392). -/
def errorQueue : Nat := 256

end Sys2Proof.Config
end

