-- ==== Sys2Proof/Machine/State.lean ====
section
/-! DEFINITION. The machine's state as plain data: everything the spec gives the machine (INVENTORY.md, '## State'), the
reasons a step can stop, and the state right after cold reset. -/

namespace Sys2Proof.Machine

/-- Why the machine stops with a fault. -/
inductive Fault where
  /-- Memory that a step cannot go on without does not exist (R91). Raised by nothing: where hardware names memory physically at an
  address that does not exist, the step has the effect that log 51 gives. Safe. -/
  | noSuchMemory (pa : Nat)
  deriving DecidableEq, Repr

/-- Why a step is refused. -/
inductive Refusal where
  /-- The dispatch has no meaning for the instruction yet. Raised by Dispatch only; safe. -/
  | notModelled (mnemonic : String)
  deriving DecidableEq, Repr

/-- What a step or a meaning answers. -/
abbrev Out (σ : Type) := Host.Outcome σ Fault Refusal

/-- The three modes of a context (R369). -/
inductive Mode where
  | user
  | supervisor
  | firmware
  deriving DecidableEq, Repr

/-- `IMSTATE` of an image (R380), with `queued` for a ready record that waits at a dispatcher (a suspended thread, R337). -/
inductive ImState where
  | free
  | resident
  | suspended
  | held
  | killed
  deriving DecidableEq, Repr

/-- What a context waits for (R37, R64, R116, R144, R337). The conditions are evaluated each cycle; `reply` ends only by the
event that answers. -/
inductive Park where
  /-- A reply (AMO, CAS, ACQ, TST, ...): ended by the event; no park limit. -/
  | reply
  /-- A word wait or barrier (BAR, WAITW, JOIN): ended by the event; the park limit counts (R133). -/
  | word
  /-- A version wait: a demand or TWAIT on a PENDING version; the park limit counts (R236). -/
  | version
  /-- A task ring or dispatcher store without room (R342); the park limit counts. -/
  | ring
  /-- A Teller query that waits for no transfer outstanding (TELQ.W, R321); the park limit counts. -/
  | teller
  /-- SLEEP until a tick (R346); the park limit counts. -/
  | sleep (tick : Nat)
  /-- An allocation stalled at a full Mint, quota or storage (R235). -/
  | quota (code : Nat)
  /-- A switch marker: until no long result is outstanding (R37). -/
  | allLong
  /-- Until no long result is outstanding, `ACKC` = 0 and `PENDC` = 0 (R111, R128, R358). -/
  | quiet
  /-- Until every earlier access of the context is performed; writes to host and remote memory count at SYSTEM scope only (R144). -/
  | performed (system : Bool)
  /-- Until `ACKC` = 0 (FENCE.ACK, TAPE.POP). -/
  | acks
  /-- Until no load of the thread is in flight (FENCE.ACQ). -/
  | loads
  /-- Until `PENDC` = 0 (R158, R360). -/
  | pendcZero
  /-- Until no write-back of the core is in flight (R144). -/
  | writeBacks (core : Nat)
  /-- Until every plane-6 acknowledgement has returned (R148, R402, R357). -/
  | plane6
  /-- Until the matrix queue has room (R288). -/
  | matrixRoom
  /-- Until every earlier store of the context to its own pool is performed (R298). -/
  | poolStores
  /-- Until the Teller FIFO, quota or range-lock table has room (R312). -/
  | tellerRoom
  /-- Until the statistics unit grants (R197). -/
  | statistics
  /-- Until `SEVT`[7:0] of the die is not zero (R409). -/
  | event
  /-- Until an entry of a cell's range-lock table is gone (R94, R280). -/
  | lock (cell entry : Nat)
  /-- Until a line arrives, asked for under a number (R34, R64). -/
  | fetch (serial : Nat)
  /-- Until no page operation holds an address (R102, R170). -/
  | page (pa : Nat)
  /-- Until the thread's Teller operations and Mint replies are done (EXIT, R346). -/
  | exit
  /-- A collective that has not answered (R420); the park limit counts. -/
  | collect
  /-- Until the lines of the image that a mask names are present (R64). -/
  | image (mask : Nat)
  deriving DecidableEq, Repr

/-- A rectangle of a tile, bounds inclusive (R257). -/
structure Rect where
  r0 : Nat
  r1 : Nat
  c0 : Nat
  c1 : Nat
  deriving DecidableEq, Repr

/-- A reference to a version (R250, R252): a number shared by the handles and slots that share its pin, the key, its home slice or the
slice of its shadow, the remote device that owns it, shape and format, and whether its array is differentiable. -/
structure Ref where
  id : Nat
  key : Key
  home : Nat
  dev : Option Nat
  rows : Nat
  cols : Nat
  fmt : Nat
  blk : Nat
  diff : Bool
  deriving DecidableEq, Repr

/-- What a handle holds (R250). -/
inductive Handle where
  | empty
  | version (r : Ref)
  | node (i : Nat)
  deriving DecidableEq, Repr

/-- A map step (R255): kind as TIDX numbers it (1 transpose, 2 window, 3 row broadcast, 4 column broadcast), its two parameters, the
shape of its result, its fill bits. -/
structure MapStep where
  kind : Nat
  a : Int
  b : Int
  rows : Nat
  cols : Nat
  fill : Nat
  deriving DecidableEq, Repr

/-- What a source slot names (R251). -/
inductive Base where
  | ref (r : Ref)
  | entry (i : Nat)
  deriving DecidableEq, Repr

/-- A source slot: what it names with its shape and format, and the steps through which it is seen, the one nearest the output
first (R251, R255). -/
structure Slot where
  base : Base
  rows : Nat
  cols : Nat
  fmt : Nat
  blk : Nat
  steps : List MapStep
  deriving DecidableEq, Repr

/-- The source of a POOL node (R265): the cell and entry of its lock, its anonymous key, the pool byte it starts at, its pitch. -/
structure PoolSrc where
  cell : Nat
  entry : Nat
  ref : Ref
  base : Nat
  pitch : Nat
  deriving DecidableEq, Repr

/-- A thunk node (R251): operation numbered as `QOP`, the instruction's `F`, shape, format and NX4 block code, sources, operand or fill
bits, rounding and draw base, creating PC, forced-region record, order of creation, pool source. -/
structure Node where
  op : Nat
  f : Nat
  rows : Nat
  cols : Nat
  fmt : Nat
  blk : Nat
  srcs : List Slot
  opnd : Nat
  rm : Nat
  drawKey : Word
  drawLtn : Nat
  drawCtr : Word
  pc : Word
  region : Option Rect
  order : Nat
  pool : Option PoolSrc
  deriving DecidableEq, Repr

/-- A force in progress (R257 to R262): the number that a fault reports, what is forced, the rectangle computed of each entry, the
versions to read, each with every rectangle demanded of it and the PC of the node that demands it, elements read so far by reference number, entries
still to compute, elements computed so far, flags met, the fault (`THPC`, `THCAUSE`, address), and whether it is complete. -/
structure Force where
  handle : Nat
  root : Base
  rects : SMap Rect
  leafs : List (Ref × Rect × Word)
  read : SMap (List Nat)
  todo : List Nat
  vals : SMap (List Nat)
  nf : Bool
  sat : Bool
  fault : Option (Word × Nat × Word)
  done : Bool
  deriving DecidableEq, Repr

/-- What an entry of a range-lock table holds (R94, R279, R313): kind 0 Teller source, 1 Teller destination, 2 TLDP source of a thread
at the basic level, 3 TLDP source of a thread at the expert level (R266);
whether it is a range of word memory (virtual, of a space) or of the cell's pools (unified addresses), its bounds, and its owner:
a Teller operation, or a number shared by the nodes of a TLDP. -/
structure Lock where
  kind : Nat
  word : Bool
  asid : Nat
  lo : Nat
  hi : Nat
  owner : Nat
  deriving DecidableEq, Repr

/-- A Teller operation (R306 to R317): its number, thread, mode and RCB, request words, rows, row length, strides, handler, the key of TOVER
and FROMV, its locks by cell and entry; whether it runs; the units (beats, or elements of a REDADD) not yet moved; bytes done; the
tile's bytes; replays; how it is to end, once that is known: 0 done, 1 cancelled; and the cause that stopped it (0 none, 1 replayable,
2 cancel only). -/
structure TelOp where
  id : Nat
  src : Src
  mode : Mode
  rcb : Nat
  rcbAsid : Nat
  q : List Word
  rows : Nat
  rlen : Nat
  sstr : Int
  dstr : Int
  hnd : Word
  key : Option KeyReq
  locks : List (Nat × Nat)
  started : Bool
  ready : Bool
  left : List Nat
  bytes : Nat
  tile : List Byte
  /-- Aligned source words of which a unit has used only a part, by row and word: read once, whole (R314). -/
  part : List (Nat × List (Byte × Bool))
  applied : List Nat
  acks : Nat
  replays : Nat
  finish : Option Nat
  stopped : Nat
  posted : Bool
  deriving DecidableEq, Repr

/-- A thread: its context image and what the core holds of it (R380, R68, R69, R377, R251). -/
structure Ctx where
  thid : Word
  rcb : Word
  asid : Nat
  mode : Mode
  pc : Word
  x : Vector Word 24
  v : Vector Vec 8
  k : Vector Mask 4
  /-- The predicate word (R68). -/
  pred : BitVec 32
  /-- Pending bits of R66. -/
  xPend : BitVec 24
  vPend : BitVec 8
  kPend : BitVec 4
  pPend : BitVec 16
  /-- Long results outstanding, those to x0 and p0 included (R37, R45). -/
  longs : Nat
  /-- Poisoned scalar and vector registers with the load's address (R101). -/
  xPois : SMap Word
  vPois : SMap Word
  evid : BitVec 16
  evpc : Word
  uehnd : Word
  srkey : Word
  srctr : Word
  tapeb : Word
  tapel : Word
  tapep : Word
  thpc : Word
  thcause : Word
  fltpc : Word
  fltaddr : Word
  fltcode : BitVec 32
  uthnd : Word
  sepc : Word
  scause : Word
  saddr : Word
  sstat : BitVec 4
  sscr0 : Word
  sscr1 : Word
  fepc : Word
  fcause : Word
  fstat : BitVec 4
  slrstat : Word
  cstat : Word
  /-- Contributions and write acknowledgements outstanding (R97, R126). -/
  pendc : Nat
  ackc : Nat
  /-- Teller transfers outstanding (R312). -/
  telout : Nat
  /-- Pending user events: `TRID` and handler (R318). -/
  events : List (Word × Word)
  /-- Kernel entry, `KHTRAPS`, register count, carried-vector default, service role, park limit (R46, R61, R330, R380). -/
  kentry : Word
  khtraps : BitVec 32
  khthk : Word
  khregs : Nat
  khvec : Nat
  service : Bool
  parkLimit : Nat
  /-- Logical thread number, creation tick, last core (R326, R335). -/
  ltn : Nat
  stamp : Nat
  lastCore : Nat
  /-- Core and slot while resident. -/
  core : Nat
  slot : Nat
  /-- The core on which the instruction in flight was issued: a fence acts on that core's cache (R146). -/
  issuedOn : Nat
  imstate : ImState
  /-- `IMVALID`, the lines held in a register region, the core that holds them, and the cycle of the last pre-emption (R380, R381). -/
  imvalid : BitVec 32
  held : BitVec 32
  heldCore : Nat
  evictSince : Nat
  /-- The cycle in which an instruction last needed a held line, the lines to fetch before the next instruction, the nodes that lines 9
  to 24 of the arena hold, and whether a core has discarded its clean lines for the new thread (R381, R46, R380, R329). -/
  lineUse : SMap Nat
  ahead : BitVec 32
  nodesAt : SMap Node
  started : Bool
  /-- The split of its kernel: `PBREG` and `PBPAD` in bytes (R61, R92). -/
  split : Nat × Nat
  /-- Why the context is parked, if it is; the cycle at which a counted park began, the tick at which a stall began and its cause. -/
  park : Option Park
  parkSince : Option Nat
  stallSince : Option Nat
  stallCode : Nat
  /-- The park limit of the counted park, and whether the limit is the kernel's own (R329, R348). -/
  parkFor : Nat
  parkOwn : Bool
  /-- Whether the instruction at the PC has issued and is to be issued again, how far an instruction that acts in steps has come,
  and the acknowledgements it still awaits, or the thread that a SPAWN has created. -/
  midway : Bool
  stage : Nat
  awaits : Nat
  /-- The copy of the current line: its address and 64 bytes (R34). -/
  line : Option (Word × List Byte)
  /-- The cycle of the last issue (R63). -/
  lastIssue : Option Nat
  /-- The switch marker of the instruction in issue (R37). -/
  sw : Bool
  /-- Halted by a gang stop (R388). -/
  halted : Bool
  /-- The park limit is reached and the suspension goes on (R337); a ready record names the thread. -/
  suspending : Bool
  queued : Bool
  /-- A result kept for an instruction that acts in steps. -/
  hold : Word
  /-- The bytes of a structure that an instruction has read from memory, and the Mint request it waits for. -/
  buf : List Byte
  /-- The uncorrectable-error marks of the words of such a structure (R101). -/
  bufBad : List Bool
  keyReq : Option KeyReq
  /-- The lanes with which an instruction in flight has passed its address phase (R98, R284). -/
  passed : List Lane
  /-- The request of a TEL that has passed its checks and waits for room, with its locks (R312). -/
  telReq : Option (TelOp × List (Nat × Lock))
  /-- Handles, thunk table, anonymous counter, and the force in progress (R250, R251, R264, R260). -/
  handles : Vector Handle 32
  thunks : SMap Node
  anon : Nat
  force : Option Force
  deriving DecidableEq, Repr

/-- A line of a pool cache (R96): data, valid and dirty masks by byte, poison by 8-byte word, the contexts that wrote it,
the key slot, whether its page is NC or RDUP, and the order of last use. -/
structure CacheLine where
  data : BitVec 1024
  valid : BitVec 128
  dirty : BitVec 128
  pois : BitVec 16
  writers : BitVec 16
  key : Nat
  nc : Bool
  used : Nat
  deriving DecidableEq, Repr

/-- A translation held by a TLB (R385, R387): space, virtual page number in 64 KiB units, 2 MiB or not, the leaf, and
the address of the leaf's entry. -/
structure TlbEntry where
  asid : Nat
  vpn : Nat
  big : Bool
  leaf : Word
  pte : Nat
  deriving DecidableEq, Repr

/-- A differentiable region of word memory or of a pool (R351): primal base, adjoint base, element count, element format. -/
structure Region where
  base : Nat
  adj : Nat
  cnt : Nat
  fmt : Nat
  deriving DecidableEq, Repr

/-- An operand ring (R290, R291): slots, bytes of a slot, pool offset of slot 0, head, tail, occupancy. -/
structure Ring where
  cnt : Nat
  size : Nat
  base : Nat
  head : Nat
  tail : Nat
  occ : Nat
  deriving DecidableEq, Repr

/-- Where an MDRAIN writes (R302): rows of a pool or of word memory, each lane with its place; a ring; or a version. -/
inductive DrainTo where
  | rows (lanes : List Lane)
  | ring (r : Nat)
  | tile (q : KeyReq)
  deriving DecidableEq, Repr

/-- A queued matrix command (R288): the thread and its result register come first; `drain` carries its output format, where it
writes, and the draw base of its thread; `force` stands for the products of a force (R304). -/
inductive MatCmd where
  | mfmt (src : Src) (a : R5) (fctx : Nat)
  | mfmtQ (src : Src) (a : R5)
  | mepi (src : Src) (a : R5) (off cnt : Nat)
  | mepiRst (src : Src) (a : R5)
  | mma (src : Src) (ra rb : Nat) (zero popA popB : Bool) (weight : Nat)
  | drain (src : Src) (a : R5) (fmt : Nat) (dst : DrainTo) (key : Word) (ltn : Nat) (ctr : Word)
  | force (src : Src) (entry : Nat)
  deriving DecidableEq, Repr

/-- The matrix state of a core (R287): queue, accumulator in row order (empty for all zero) with its class, whether an MMA has
written it since the last drain, rings, format context in force and issued, program words, `ALOST`, commands retired, credit, whether
a k-step is granted, and the drain in progress: its next row and the elements converted so far, with the flags met. -/
structure Matrix where
  queue : List MatCmd
  acc : List Nat
  int : Bool
  undrained : Bool
  rings : SMap Ring
  fctx : Nat
  issued : Nat
  prog : List Nat
  lost : Bool
  retired : Nat
  credit : Nat
  granted : Bool
  row : Nat
  out : List Nat
  nf : Bool
  sat : Bool
  deriving DecidableEq, Repr

/-- A core (R92, R96, R34, R387, R388). -/
structure Core where
  released : Bool
  /-- The cycle count at which `CYCLE` starts (R69). -/
  cycle0 : Nat
  fenced : Bool
  stopped : Bool
  /-- `PBREG` and `PBPAD`, and the scratchpad's ASID, once set (R445). -/
  split : Option (Nat × Nat)
  padAsid : Option Nat
  /-- Threads by context slot. -/
  slots : SMap Nat
  /-- Pool-cache lines by tag, 128 × line number + key slot, and the use counter (R96). -/
  cache : SMap CacheLine
  uses : Nat
  /-- Lines of the instruction line cache: space, line address, bytes (R34). -/
  icache : List (Nat × Word × List Byte)
  tlb : List TlbEntry
  /-- Latched `CYCLE`, injected and ejected counts of the last halt, and whether latched (R388, R405). -/
  latch : Nat × Nat × Nat × Bool
  /-- The core's copy of the region slots of its scratchpad's space (R352). -/
  regions : SMap Region
  /-- The core's matrix state (R287). -/
  matrix : Matrix
  /-- Whether a split has been set whose write-backs may still be in flight: the core issues nothing until they are done (R445). -/
  settling : Bool
  /-- Packets that wait for a slot (R340). -/
  arrivals : List Packet
  deriving DecidableEq, Repr

/-- A slot of a statistics unit (R196): owner, base, 64 bins, zero, non-finite and total counters. -/
structure StatSlot where
  owner : Option Nat
  base : Int
  bins : SMap Nat
  zeros : Nat
  nonfinite : Nat
  total : Nat
  deriving DecidableEq, Repr

/-- A cell (R12, R94, R196, R227, R387, R389). -/
structure Cell where
  stats : SMap StatSlot
  tlb : List TlbEntry
  fenced : Bool
  /-- The cycle at which a reset ends (R389). -/
  resetUntil : Option Nat
  /-- The range-lock table, by entry number (R94). -/
  locks : SMap Lock
  /-- Cached array descriptors by space, most recently used last (R227). -/
  descs : List (Nat × Desc)
  /-- The Teller's FIFOs by core, its in-flight set, and the core whose FIFO it looks at next (R306). -/
  fifos : SMap (List TelOp)
  flight : List TelOp
  turn : Nat
  /-- The core that was granted a k-step last (R289), and the one whose VHIST was granted last (R197). -/
  granted : Nat
  statTurn : Nat
  /-- Messages cut by a reset of their sender's cell that the cell, as their receiver, has discarded (R389). -/
  discarded : Nat
  deriving DecidableEq, Repr

/-- What a till holds (R120): format, exact sum in units of 2^-149, flags. -/
structure TillSum where
  fmt : Nat
  sum : Int
  pinf : Bool
  ninf : Bool
  nan : Bool
  negz : Bool
  deriving DecidableEq, Repr

/-- Storage of the Mint: whether it lies in the die's arena, first granule and length in granules (R233, R379). -/
structure Run where
  arena : Bool
  start : Nat
  len : Nat
  deriving DecidableEq, Repr

/-- An entry of a till table: a till of a word (element address, core), or a core's till block of an adjoint tile, with
the sums of its elements and the storage and RCB it is charged to (R120, R355). -/
inductive TillEntry where
  | word (addr core : Nat) (t : TillSum)
  | block (k : Key) (core : Nat) (cells : SMap TillSum) (run : Run) (rcb : Nat)
  deriving DecidableEq, Repr

/-- States of a Mint entry; `waiting` and `held` are the states of a shadow entry (R232, R417). -/
inductive MintSt where
  | pending
  | creating
  | present
  | dead
  | waiting
  | held
  deriving DecidableEq, Repr

/-- An adjoint tile: FP32 values in row order, storage, and the RCB and space it is charged to (R355). -/
structure Adjoint where
  vals : List Nat
  run : Run
  rcb : Nat
  asid : Nat
  deriving DecidableEq, Repr

/-- What waits on a key (R236): a thread, or a Teller operation. -/
inductive KeyWaiter where
  | thread (tid : Nat)
  | teller (cell op : Nat)
  deriving DecidableEq, Repr

/-- A Mint entry (R232): key, state, the state before a reservation, bytes and storage of the version, readers remaining,
early reads, drop-all, pins, waiters in order, devices waiting, the RCB charged, the adjoint tile. -/
structure MintEntry where
  key : Key
  st : MintSt
  prior : Option MintSt
  data : List Byte
  run : Option Run
  readers : Nat
  early : Nat
  dropAll : Bool
  pins : Nat
  waiters : List KeyWaiter
  devs : List Nat
  rcb : Nat
  asid : Nat
  adj : Option Adjoint
  /-- 8-byte words of the storage that carry an uncorrectable-error mark (R101). -/
  marks : List Nat
  deriving DecidableEq, Repr

/-- A directory state of a line at its home (R163). -/
inductive Dir where
  | sh (dies : List Nat)
  | ex (die : Nat)
  | ow (die : Nat) (dies : List Nat)
  deriving DecidableEq, Repr

/-- An L2 slice (R119 to R137, R163, R169). -/
structure Slice where
  /-- Sequence counters by line number (R119). -/
  seqs : SMap Nat
  /-- Till entries in order of allocation (R120). -/
  tills : List TillEntry
  efs : Bool
  nff : Bool
  efcnt : Nat
  /-- Waiters in order of registration (R131). -/
  waiters : List Waiter
  /-- Release records: word address and cores (R127). -/
  records : List (Nat × List Nat)
  /-- Directory entries by line number, most recently used last (R163, R165). -/
  dir : List (Nat × Dir)
  /-- Lines that take a way of the slice, homed lines and copies of other dies' lines alike (R162, R446). -/
  l2 : List Nat
  retained : Bool
  /-- Mint entries in order of allocation, and floors by tile (space, array, i, j) (R232, R234). -/
  mint : List MintEntry
  /-- Array descriptors of the directory, by space (R227). -/
  arrays : List (Nat × Desc)
  floors : List (Nat × Nat × Nat × Nat × Nat)
  deriving DecidableEq, Repr

/-- The copy of a line that a die holds away from its home (R162 to R166): MOESI state (`nc` for an untracked copy), data,
dirty bytes of an NC copy, poison, and the sequence counter of an owner. -/
inductive CopyState where
  | m
  | o
  | e
  | s
  | nc
  deriving DecidableEq, Repr

/-- A die's copy of a line (R162, R163): its state, data, dirty bytes of an NC copy, marks of its 8-byte words, an owner's sequence counter,
and the key slot of the access that used it last (R406). -/
structure Proxy where
  st : CopyState
  data : BitVec 1024
  dirty : BitVec 128
  pois : BitVec 16
  seq : Nat
  key : Nat
  deriving DecidableEq, Repr

/-- What a drain of recorded cores is for (R129, R134, R135, R127). -/
inductive Drain where
  | acq (q : MemReq) (n : Nat)
  | bar (w : Waiter) (val : Word)
  | wait (w : Waiter) (val : Word)
  | rel (q : MemReq) (n : Nat) (val : Word)
  | arrive (w : Waiter)
  deriving DecidableEq, Repr

/-- A drain in progress: the word's line, the cores to drain, those not yet commanded, and what follows (R129). -/
structure Job where
  line : Nat
  cores : List Nat
  left : List Nat
  next : Drain
  deriving DecidableEq, Repr

/-- What a contributor brings to the byte merge of one line (R175): its die, its place among the die's contributors (the die's copy is
0), the line, its dirty bytes, its data and its marks. -/
structure Contribution where
  die : Nat
  order : Nat
  line : Nat
  mask : BitVec 128
  data : BitVec 1024
  pois : BitVec 16
  deriving DecidableEq, Repr

/-- A page operation in a slot (R170): the operation, the leaf's frame and size, the new frame of PGMIG, the address of the
leaf's entry, the leaf, the cores that have not acknowledged the sweep, the accesses queued, the bytes swept per contributor,
accesses replayed, overlaps, and whether poisoned data was met. -/
structure PageRun where
  op : PageOp
  base : Nat
  size : Nat
  dest : Option Nat
  pte : Nat
  leaf : Word
  waiting : List Nat
  queue : List Held
  swept : List Contribution
  replayed : Nat
  overlaps : Nat
  bad : Bool
  deriving DecidableEq, Repr

/-- A die (R12, R377 to R379, R387, R391, R392, R409). -/
structure Die where
  tsplit : Nat
  tsplitSticky : Bool
  tarena : Word
  tarlen : Word
  tarlenSticky : Bool
  sevt : BitVec 8
  pwrthr : Nat
  /-- Whether issue is being spaced out (R24). -/
  throttled : Bool
  errq : List Word
  errOverflow : Nat
  /-- Corrected errors of the window: class, instance, location, count (R391). -/
  errCounts : List (Nat × Nat × Nat × Nat)
  /-- Armed test errors (R408). -/
  armed : List (Nat × Nat × Nat)
  tlb : List TlbEntry
  mcf : Bool
  pqref : Nat
  pqrec : Nat
  /-- Page-operation slots in use, and operations that wait for one (R170). -/
  pages : SMap PageRun
  pageWait : List PageOp
  deriving DecidableEq, Repr

/-- A device link (R411, R425): state 0 DOWN, 1 TRAINING, 2 UP, 3 FENCED; peer device and link; retransmissions; corrected lane
errors of the window. -/
structure LinkPort where
  state : Nat
  peer : Nat
  peerLink : Nat
  retrans : Nat
  lanes : Nat
  deriving DecidableEq, Repr

/-- An export entry (R414), with the exported space, which is that of its RCB. -/
structure Export where
  rcb : Nat
  asid : Nat
  win : Nat
  len : Nat
  dev : Nat
  rights : Nat
  deriving DecidableEq, Repr

/-- A binding of a remote device to an address space (R414, R424): the space, slot, device and export, and the exported space, as the
owner answered it. -/
structure Binding where
  asid : Nat
  slot : Nat
  dev : Nat
  xport : Nat
  space : Nat
  deriving DecidableEq, Repr

/-- What waits for a reply over a link (R413, R415, R416, R424). -/
inductive RemoteWait where
  | load (q : MemReq) (lane : Nat)
  | store (src : Src) (addr : Word)
  | atom (q : MemReq) (op : AtomOp)
  | key (q : KeyReq)
  | shadow (slice : Nat) (k : Key)
  | bind (tid : Nat) (a : R5) (form : Nat) (dev arr : Nat) (xport : Nat)
  | none
  deriving DecidableEq, Repr

/-- A half of a line of the bridge cache (R422): 1 S, 2 E, 3 M, its 64 bytes, and the marks of its 8-byte words (R101). -/
structure Half where
  st : Nat
  data : BitVec 512
  pois : BitVec 8
  deriving DecidableEq, Repr

/-- A Vault key slot that holds keys: owner ASID and `ANY` (R393). -/
structure KeySlot where
  owner : Nat
  any : Bool
  deriving DecidableEq, Repr

/-- A sector's dispatcher (R331, R333): its records in order of arrival, the records of the spill-hold buffer, and the RCBs, each with
its space, whose spill met a fault that the handler has not returned from. -/
structure Dispatcher where
  records : List TaskRec
  hold : List TaskRec
  faulted : List (Nat × Nat)
  deriving DecidableEq, Repr

/-- A collective at its root (R420): tag, tile and output version, operation, format, shape, members, what has arrived (device, link
reference, elements, non-finite flag), the tick of the first arrival, and whether it has failed. -/
structure Collect where
  tag : Nat
  i : Nat
  j : Nat
  ver : Nat
  op : Nat
  fmt : Nat
  shape : Nat
  n : Nat
  parts : List (Nat × List Byte × Bool)
  since : Nat
  failed : Bool
  deriving DecidableEq, Repr

/-- What the device sends to the host (R394, R421, R422): the answer to a read, marked poisoned or not; the dirty half that answers a snoop;
a dirty half that leaves the bridge cache; a back-invalidation of a half; the report that the firmware failed its check. -/
inductive HostMsg where
  | read (pa : Nat) (data : BitVec 512) (poisoned : Bool)
  | snooped (half : Nat) (data : BitVec 512) (pois : BitVec 8)
  | written (half : Nat) (data : BitVec 512) (pois : BitVec 8)
  | invalidate (half : Nat)
  | verifyFailed
  deriving DecidableEq, Repr

/-- The machine. -/
structure State where
  /-- The package cycle count (R16). -/
  pcyc : Nat
  /-- Messages in flight and inputs not yet delivered, oldest first (R14, R138). -/
  pending : List Event
  /-- Events that a time has brought about in this cycle, to be delivered before anything else. -/
  due : List Event
  /-- The highest plane of the messages that each home slice has accepted in this cycle (R430). -/
  accepted : SMap Nat
  /-- Events that a later cycle brings about. -/
  timers : List (Nat × Event)
  /-- The issuing thread, the position of the core whose turn it is, and the counter of free values: the model's own (log 6, 3). -/
  cur : Nat
  turn : Nat
  draws : Nat
  /-- Bytes of HBM by physical address, and of the pools from 2^48 on (R91, R92); host memory is outside the machine (R422). -/
  mem : List Host.Cell
  /-- 8-byte words that carry an uncorrectable-error mark, by byte address divided by 8 (R101). -/
  poisoned : List Nat
  /-- The key slot under which each line of HBM stands, by line number, once an access has gone through one; 128 where the keys are
  gone (R393, R406). -/
  lineKeys : SMap Nat
  threads : SMap Ctx
  cores : SMap Core
  cells : SMap Cell
  slices : SMap Slice
  dies : SMap Die
  /-- Die copies by 4 × line + die (R162). -/
  proxies : SMap Proxy
  /-- Drains in progress, and the number the next one takes. -/
  jobs : SMap Job
  serial : Nat
  /-- Mint requests that wait for quota (1), room (2) or a pin (3), by cause, in order of arrival (R235, R428). -/
  stalled : List (Nat × Event)
  /-- Dispatchers by sector; the records in spill rings, by space, ring base and count (R330, R333); the serial of RCBs (R348). -/
  dispatchers : SMap Dispatcher
  spilled : List (Nat × Nat × Nat × TaskRec)
  rcbSerial : Nat
  /-- The Teller operation that a fault record reports, by the record's place: place, cell, operation (R315, R376). -/
  stops : List (Nat × Nat × Nat)
  /-- Halts and releases of subtrees, oldest first: address space, RCB, and whether it is halted (R388, R405). -/
  halts : List (Nat × Nat × Bool)
  /-- Collectives at this device's unit (R420). -/
  collects : List Collect
  /-- Region slots of each address space: the master copies (R352). -/
  regionTables : SMap (SMap Region)
  svec : Word
  asidtb : Word
  devid : BitVec 10
  fvec : Word
  /-- Vault slots that hold keys (R393). -/
  vault : SMap KeySlot
  /-- Device links, route table, export table, bindings, subscriptions as (space, device, array), subscribers as (array's space,
array, device), messages sent as (link, destination, message), and requests that wait for a reply (R411 to R418). -/
  links : SMap LinkPort
  routes : SMap Nat
  exports : SMap Export
  bindings : List Binding
  subs : List (Nat × Nat × Nat)
  subscribers : List (Nat × Nat × Nat)
  sent : List (Nat × Nat × LinkMsg)
  remotes : SMap RemoteWait
  /-- The bridge cache by 64-byte half, accesses that wait for a half, host-owned frames, refused host accesses, snoops in
  flight, the CXL link (R421, R422, R425). -/
  bridge : SMap Half
  bridgeWait : List (MemReq × BankOp)
  hostFrames : List Nat
  hostRefused : Nat
  snoops : Nat
  cxlUp : Bool
  /-- Messages sent to the host, oldest first (R394, R421, R422). -/
  toHost : List HostMsg
  /-- The measurement registers, by block (R394, R395). -/
  measured : SMap (BitVec 384)
  /-- Whether firmware runs: set when the ROM accepts it (R394). -/
  firmwareUp : Bool
  deriving DecidableEq, Repr

/-- The matrix state after core reset (R287): the format context is 0x0033 and the program one END word. -/
def Matrix.initial : Matrix :=
  { queue := [], acc := [], int := false, undrained := false, rings := [], fctx := 0x33, issued := 0x33, prog := [0], lost := false,
    retired := 0, credit := 0, granted := false, row := 0, out := [], nf := false, sat := false }

/-- A core as it leaves reset: no split, an empty pool cache (R445). -/
def Core.initial : Core :=
  { released := false, cycle0 := 0, fenced := false, stopped := false, split := none, padAsid := none, slots := [],
    cache := [], uses := 0, icache := [], tlb := [], latch := (0, 0, 0, false), regions := [],
    matrix := Matrix.initial, settling := false, arrivals := [] }

/-- A statistics slot at reset (R196). -/
def StatSlot.initial : StatSlot :=
  { owner := none, base := 0, bins := [], zeros := 0, nonfinite := 0, total := 0 }

/-- A cell as it leaves reset. -/
def Cell.initial : Cell :=
  { stats := [], tlb := [], fenced := false, resetUntil := none, locks := [], descs := [], fifos := [], flight := [], turn := 0,
    granted := 0, statTurn := 0, discarded := 0 }

/-- A slice at reset: every counter 0, every table empty (R119). -/
def Slice.initial : Slice :=
  { seqs := [], tills := [], efs := false, nff := false, efcnt := 0, waiters := [], records := [], dir := [], l2 := [],
    retained := false, mint := [], arrays := [], floors := [] }

/-- A die at reset (R379). -/
def Die.initial : Die :=
  { tsplit := 0, tsplitSticky := false, tarena := 0, tarlen := 0, tarlenSticky := false, sevt := 0, pwrthr := 0, throttled := false,
    errq := [], errOverflow := 0, errCounts := [], armed := [], tlb := [], mcf := false, pqref := 0, pqrec := 0, pages := [],
    pageWait := [] }

/-- The machine right after cold reset (R16, R379, R394, R397, R445): the ROM has not yet run, which is the one event that
awaits delivery (log 4). -/
def State.reset : State :=
  { pcyc := 0, pending := [.coldReset], due := [], accepted := [], timers := [], cur := 0, turn := 0, draws := 0, mem := [],
    poisoned := [], lineKeys := [], threads := [], cores := [], cells := [], slices := [], dies := [], proxies := [], jobs := [], serial := 0, stalled := [],
    dispatchers := [], spilled := [], rcbSerial := 0, stops := [], halts := [], collects := [], regionTables := [], svec := 0,
    asidtb := 0, devid := 0, fvec := 0, vault := [], links := [],
    routes := [], exports := [], bindings := [], subs := [], subscribers := [], sent := [], remotes := [], bridge := [],
    bridgeWait := [], hostFrames := [], hostRefused := 0, snoops := 0, cxlUp := false, toHost := [], measured := [], firmwareUp := false }

/-- A thread with every register zero and p0 set, in user mode and not resident (R329, R330). -/
def Ctx.blank : Ctx :=
  { thid := 0, rcb := 0, asid := 0, mode := .user, pc := 0, x := Vector.replicate 24 0, v := Vector.replicate 8 0,
    k := Vector.replicate 4 0, pred := 1, xPend := 0, vPend := 0, kPend := 0, pPend := 0, longs := 0, xPois := [], vPois := [],
    evid := 0, evpc := 0, uehnd := 0, srkey := 0, srctr := 0, tapeb := 0, tapel := 0, tapep := 0, thpc := 0,
    thcause := 0, fltpc := 0, fltaddr := 0, fltcode := 0, uthnd := 0, sepc := 0, scause := 0, saddr := 0, sstat := 0,
    sscr0 := 0, sscr1 := 0, fepc := 0, fcause := 0, fstat := 0, slrstat := 0, cstat := 0, pendc := 0, ackc := 0,
    telout := 0, events := [], kentry := 0, khtraps := 0, khthk := 0, khregs := 24, khvec := 0, service := false,
    parkLimit := 0, ltn := 0, stamp := 0, lastCore := 0, core := 0, slot := 0, issuedOn := 0, imstate := .suspended, imvalid := 0,
    held := 0, heldCore := 0, evictSince := 0, split := (0, 0), park := none, parkSince := none, stallSince := none, stallCode := 0,
    parkFor := 0, parkOwn := false, lineUse := [], ahead := 0, nodesAt := [], started := false, telReq := none, midway := false, stage := 0,
    awaits := 0, line := none, lastIssue := none, sw := false, halted := false, suspending := false,
    queued := false, hold := 0, buf := [], bufBad := [], keyReq := none, passed := [], handles := Vector.replicate 32 .empty, thunks := [], anon := 0, force := none }

end Sys2Proof.Machine
end

