-- ==== Sys2Proof/Machine/Ops.lean ====
section
/-! DEFINITION. The named operations over contexts and registers: reading and writing a thread's registers (R45, R66,
R68, R101), moving the program counter (R31, R32, R39), parking (R37), taking a trap and returning from one (R370 to R374,
R400), and free values. -/

namespace Sys2Proof.Machine

/-! ## Units of the state -/

/-- The thread whose image stands at `tid`. -/
def State.ctx (s : State) (tid : Nat) : Ctx := s.threads.get tid Ctx.blank

/-- Put a thread back. -/
def State.setCtx (s : State) (tid : Nat) (c : Ctx) : State := { s with threads := s.threads.set tid c }

/-- The issuing thread. -/
def State.me (s : State) : Ctx := s.ctx s.cur

/-- Put the issuing thread back. -/
def State.setMe (s : State) (c : Ctx) : State := s.setCtx s.cur c

/-- Change a thread. -/
def State.modCtx (s : State) (tid : Nat) (f : Ctx → Ctx) : State := s.setCtx tid (f (s.ctx tid))

/-- A core by package core number (R11). -/
def State.core (s : State) (q : Nat) : Core := s.cores.get q Core.initial

/-- Put a core back. -/
def State.setCore (s : State) (q : Nat) (c : Core) : State := { s with cores := s.cores.set q c }

/-- A cell by y × 32 + x. -/
def State.cell (s : State) (k : Nat) : Cell := s.cells.get k Cell.initial

/-- Put a cell back. -/
def State.setCell (s : State) (k : Nat) (c : Cell) : State := { s with cells := s.cells.set k c }

/-- A slice by package slice number (R11). -/
def State.slice (s : State) (k : Nat) : Slice := s.slices.get k Slice.initial

/-- Put a slice back. -/
def State.setSlice (s : State) (k : Nat) (c : Slice) : State := { s with slices := s.slices.set k c }

/-- A die. -/
def State.die (s : State) (k : Nat) : Die := s.dies.get k Die.initial

/-- Put a die back. -/
def State.setDie (s : State) (k : Nat) (c : Die) : State := { s with dies := s.dies.set k c }

/-- Put a message in flight (R14). -/
def State.post (s : State) (e : Event) : State := { s with pending := s.pending ++ [e] }

/-- Put a message in flight ahead of the others: one that an older request waits for. -/
def State.postFront (s : State) (e : Event) : State := { s with pending := e :: s.pending }

/-- Let a later cycle bring about an event. -/
def State.at (s : State) (cycle : Nat) (e : Event) : State := { s with timers := s.timers ++ [(cycle, e)] }

/-- Take a fresh free value (log 3). -/
def State.draw (s : State) : Word × State := (Config.freeWord s.draws, { s with draws := s.draws + 1 })

/-- The package time base (R16). -/
def State.ticks (s : State) : Nat := s.pcyc * 10 / 33

/-- The cycle in which a tick begins (R16). -/
def cycleOfTick (t : Nat) : Nat := ceilDiv (t * 33) 10

/-- A deadline from a limit in ticks counted from a tick; none for a limit of 0 (R132). -/
def deadlineFrom (tick : Nat) (limit : Word) : Option Nat := if limit = 0 then none else some (tick + limit.toNat)

/-! ## Coordinates (R10, R11) -/

/-- The cell of a core. -/
def cellOf (core : Nat) : Nat := core / 8

/-- y of a cell. -/
def cellY (cell : Nat) : Nat := cell / 32

/-- x of a cell. -/
def cellX (cell : Nat) : Nat := cell % 32

/-- The die of a cell. -/
def dieOfCell (cell : Nat) : Nat := 2 * (cellY cell / 16) + cellX cell / 16

/-- The die of a core. -/
def dieOf (core : Nat) : Nat := dieOfCell (cellOf core)

/-- The sector of a cell, numbered 16 × die + index within the die. -/
def sectorOf (cell : Nat) : Nat := 16 * dieOfCell cell + ((cellY cell % 16) / 4) * 4 + (cellX cell % 16) / 4

/-- The die of a slice. -/
def dieOfSlice (slice : Nat) : Nat := dieOfCell (slice / 2)

/-! ## Registers (R45, R66, R101) -/

/-- Read a scalar register: x0 reads as zero. -/
def Ctx.xr (c : Ctx) (r : R5) : Word := if r = 0 then 0 else c.x[r.toNat]?.getD 0

/-- Write a scalar register: a write to x0 is discarded, and a write clears poison. -/
def Ctx.setX (c : Ctx) (r : R5) (w : Word) : Ctx :=
  if r = 0 then c else { c with x := c.x.setIfInBounds r.toNat w, xPois := c.xPois.erase r.toNat }

/-- Read a vector register. -/
def Ctx.vr (c : Ctx) (r : R5) : Vec := c.v[r.toNat]?.getD 0

/-- Write a vector register; a write clears poison. -/
def Ctx.setV (c : Ctx) (r : R5) (w : Vec) : Ctx :=
  { c with v := c.v.setIfInBounds r.toNat w, vPois := c.vPois.erase r.toNat }

/-- Read a mask register. -/
def Ctx.kr (c : Ctx) (r : R5) : Mask := c.k[r.toNat]?.getD 0

/-- Write a mask register. -/
def Ctx.setK (c : Ctx) (r : R5) (w : Mask) : Ctx := { c with k := c.k.setIfInBounds r.toNat w }

/-- Read a predicate: p0 reads as 1. -/
def Ctx.pr (c : Ctx) (i : Nat) : Bool := i == 0 || c.pred.getLsbD i

/-- Bit `i` of a 32-bit word, set or cleared. -/
def putBit (w : BitVec 32) (i : Nat) (b : Bool) : BitVec 32 :=
  if b then w ||| BitVec.twoPow 32 i else w &&& ~~~(BitVec.twoPow 32 i)

/-- Write a predicate: a write to p0 is discarded. -/
def Ctx.setP (c : Ctx) (i : Nat) (b : Bool) : Ctx := if i = 0 then c else { c with pred := putBit c.pred i b }

/-- Issue of a long instruction sets the pending bit of a scalar destination; x0 carries none but is awaited (R45, R66). -/
def Ctx.pendX (c : Ctx) (r : R5) : Ctx :=
  { c with longs := c.longs + 1, xPend := if r = 0 then c.xPend else c.xPend ||| BitVec.twoPow 24 r.toNat }

/-- Issue of a long instruction sets the pending bit of a vector destination (R66). -/
def Ctx.pendV (c : Ctx) (r : R5) : Ctx :=
  { c with longs := c.longs + 1, vPend := c.vPend ||| BitVec.twoPow 8 r.toNat }

/-- The returning result writes the scalar register and clears its pending bit (R66). -/
def Ctx.landX (c : Ctx) (r : R5) (w : Word) : Ctx :=
  let c := { c with longs := c.longs - 1, xPend := c.xPend &&& ~~~(BitVec.twoPow 24 r.toNat) }
  c.setX r w

/-- The returning result writes the vector register and clears its pending bit (R66). -/
def Ctx.landV (c : Ctx) (r : R5) (w : Vec) : Ctx :=
  let c := { c with longs := c.longs - 1, vPend := c.vPend &&& ~~~(BitVec.twoPow 8 r.toNat) }
  c.setV r w

/-! ## The program counter (R31, R32, R39) -/

/-- `N` of the line the context holds; 31 where it holds none, which does not happen at issue (R34). -/
def Ctx.lineCount (c : Ctx) : Nat :=
  match c.line with
  | some l => lineN l.2
  | none => 31

/-- The PC after the current instruction (R31). -/
def Ctx.nextPc (c : Ctx) : Word :=
  if (c.pc.toNat % 64) + 1 < c.lineCount then c.pc + 1
  else BitVec.ofNat 64 (((c.pc.toNat / 64 + 1) % 2 ^ 58) * 64)

/-- Control enters the line of `t`: its copy is fetched anew and checked (R32, R34). -/
def Ctx.enter (c : Ctx) (t : Word) : Ctx := { c with pc := t, line := none }

/-- Execution moves on to the next instruction, into the next line after the last slot (R31, R32). -/
def Ctx.moveOn (c : Ctx) : Ctx :=
  if (c.pc.toNat % 64) + 1 < c.lineCount then { c with pc := c.nextPc } else c.enter c.nextPc

/-- The instruction is complete: a step's progress is forgotten, and its switch marker parks the context until no long result
is outstanding (R37). -/
def Ctx.complete (c : Ctx) : Ctx :=
  { c with midway := false, stage := 0, awaits := 0, buf := [], bufBad := [], keyReq := none, telReq := none, passed := [], force := none, parkSince := none,
           stallSince := none, sw := false,
           park := if c.sw && c.longs != 0 then some .allLong else none }

/-- Whether nothing of a context is outstanding: no long result, no acknowledgement, no contribution (R111, R128, R358). -/
def Ctx.settled (c : Ctx) : Bool := c.longs == 0 && c.ackc == 0 && c.pendc == 0

/-- Complete and move on. -/
def Ctx.advance (c : Ctx) : Ctx := c.moveOn.complete

/-- Complete with the PC set by the instruction. -/
def Ctx.jump (c : Ctx) (t : Word) : Ctx := (c.enter t).complete

/-- A branch target (R39). -/
def Ctx.target (c : Ctx) (t : Target) : Word :=
  BitVec.ofNat 64 (((c.pc.toNat / 64 + (t.disp.toInt % 2 ^ 58).toNat) % 2 ^ 58) * 64 + t.slot.toNat)

/-- Park the issuing thread in a park that the park limit does not count (R37, R337). -/
def State.parkMe (s : State) (p : Park) : State := s.setMe { s.me with park := some p, parkSince := none, midway := true }

/-- A thread's park counts toward the park limit from now on, unless it counts already (R337). -/
def State.countPark (s : State) (tid : Nat) : State :=
  let c := s.ctx tid
  if c.parkSince.isSome then s
  else (s.at (s.pcyc + c.parkLimit) (.parkLimitExpiry tid)).setCtx tid { c with parkSince := some s.pcyc, parkFor := c.parkLimit }

/-- Park the issuing thread in a park that the park limit counts (R133, R337). -/
def State.parkCounted (s : State) (p : Park) : State :=
  let s := s.countPark s.cur
  s.setMe { s.me with park := some p, midway := true }

/-- Park the issuing thread until a reply, at a later stage of its instruction. -/
def State.parkStage (s : State) (stage : Nat) : State :=
  s.setMe { s.me with park := some .reply, parkSince := none, midway := true, stage := stage }

/-- The issuing thread moves on. -/
def State.done (s : State) : State := s.setMe s.me.advance

/-- The issuing thread, changed, moves on. -/
def State.finish (s : State) (f : Ctx → Ctx) : State := s.setMe (f s.me).advance

/-! ## Traps (R370 to R374, R400) -/

/-- Trap codes (R370). -/
def trapIllegalLine : Nat := 0x01
def trapIllegalOp : Nat := 0x02
def trapBadOperand : Nat := 0x03
def trapPendingRead : Nat := 0x04
def trapPriv : Nat := 0x05
def trapAddrAlign : Nat := 0x06
def trapAddrSpace : Nat := 0x07
def trapXlateMiss : Nat := 0x08
def trapXlatePerm : Nat := 0x09
def trapPageMode : Nat := 0x0A
def trapRangeLocked : Nat := 0x0B
def trapWriteOnce : Nat := 0x0C
def trapVersionDead : Nat := 0x0D
def trapQuotaStall : Nat := 0x0E
def trapThunkFull : Nat := 0x0F
def trapThunkFault : Nat := 0x10
def trapTapeFull : Nat := 0x11
def trapDiffShape : Nat := 0x12
def trapTellerFault : Nat := 0x13
def trapTaskRingFull : Nat := 0x15
def trapMemPoison : Nat := 0x16
def trapLinkDown : Nat := 0x17
def trapGangHalt : Nat := 0x18
def trapSyscall : Nat := 0x19
def trapSwtrap : Nat := 0x1A
def trapCutMessage : Nat := 0x1C
def trapImageLost : Nat := 0x1D

/-- What a precise trap reports: code, the detail in [15:8], [31:16], and `FLTADDR` (R49, R100). -/
structure Trap where
  code : Nat
  detail : Nat
  hi : Nat
  addr : Word
  deriving DecidableEq, Repr

/-- The `FLTCODE` word (R49). -/
def Trap.word (t : Trap) : Nat := (t.code % 256) + 256 * (t.detail % 256) + 65536 * (t.hi % 65536)

/-- The head and tail of the instruction at the PC, from the line the context holds (R27, R28). -/
def Ctx.fetched (c : Ctx) : BitVec 16 × BitVec 64 :=
  match c.line with
  | some (_, bytes) => (lineHead bytes (c.pc.toNat % 64), lineTail bytes (c.pc.toNat % 64))
  | none => (0, 0)

/-- A decode trap: the tail in `FLTADDR`, the head in [31:16] (R49). -/
def decodeTrap (code field : Nat) (w : BitVec 16 × BitVec 64) : Trap := ⟨code, field, w.1.toNat, w.2⟩

/-- The trap of an instruction that its effect finds illegal or out of range: filled as a decode trap, with a detail code (R49). -/
def Ctx.opTrap (c : Ctx) (code detail : Nat) : Trap := decodeTrap code detail c.fetched

/-- Whether R370 lets the user handler take a code; a HOSTOWN page's `PAGE_MODE` (mode 3) goes to the supervisor. -/
def Trap.routable (t : Trap) : Bool :=
  (1 ≤ t.code && t.code ≤ 0x12 && t.code ≠ trapPriv && !(t.code == trapPageMode && t.detail == 3)) ||
    t.code == trapTaskRingFull || t.code == trapMemPoison || t.code == trapLinkDown || t.code == trapSwtrap

/-- R371: whether a trap goes to the context's user handler. -/
def Ctx.toUserHandler (c : Ctx) (t : Trap) : Bool :=
  c.mode == .user && t.routable && c.khtraps.getLsbD t.code && c.uthnd != 0

/-- The two-bit code of a mode in `PM` (R377). -/
def Mode.code : Mode → BitVec 2
  | .user => 0
  | .supervisor => 1
  | .firmware => 2

/-- `UEN` (R68). -/
def Ctx.uen (c : Ctx) : Bool := c.pred.getLsbD 16

/-- `REV` (R68). -/
def Ctx.rev (c : Ctx) : Bool := c.pred.getLsbD 17

/-- `RM` (R68). -/
def Ctx.rm (c : Ctx) : Nat := (c.pred.extractLsb' 20 3).toNat

/-- What every trap does to the instruction in issue: it is abandoned, and its switch marker does not act (R37). -/
def Ctx.abandon (c : Ctx) : Ctx :=
  { c with park := none, parkSince := none, stallSince := none, midway := false, stage := 0, awaits := 0, buf := [], bufBad := [], keyReq := none,
           telReq := none, passed := [], force := none, sw := false }

/-- The status word a trap saves: `INT`, `PUEN`, `PM` (R373). -/
def Ctx.savedStatus (c : Ctx) : BitVec 4 := 1#1 ++ BitVec.ofBool c.uen ++ c.mode.code

/-- Entry to firmware at `FVEC` (R374). -/
def Ctx.enterFirmware (c : Ctx) (fvec epc : Word) (t : Trap) : Ctx :=
  { c.abandon with fepc := epc, fcause := BitVec.ofNat 64 t.word, fstat := c.savedStatus, mode := .firmware,
                   pred := putBit c.pred 16 false, pc := fvec, line := none }

/-- What a supervisor trap saves before it looks at `SSTAT.INT` (R373). -/
def Ctx.saveSuper (c : Ctx) (epc : Word) (t : Trap) : Ctx :=
  { c with sepc := epc, scause := BitVec.ofNat 64 t.word, saddr := t.addr }

/-- Entry to the supervisor at `SVEC` (R373). -/
def Ctx.enterSuper (c : Ctx) (svec epc : Word) (t : Trap) : Ctx :=
  { (c.abandon).saveSuper epc t with sstat := c.savedStatus, mode := .supervisor, pred := putBit c.pred 16 false,
                                     pc := svec, line := none }

/-- Entry to the user handler (R372). -/
def Ctx.enterUser (c : Ctx) (t : Trap) : Ctx :=
  { c.abandon with fltpc := c.pc, fltaddr := t.addr, fltcode := BitVec.ofNat 32 t.word, pc := c.uthnd, line := none }

/-- The contexts of a die's cores that WFE has parked go on (R409). -/
def State.wakeEvents (s : State) (die : Nat) : State :=
  { s with threads := s.threads.map fun e =>
      (e.1, if e.2.park == some .event && dieOf e.2.core == die then { e.2 with park := none } else e.2) }

/-- Queue an error entry at a die, whose event wakes; when the queue is full it only counts (R392, R409). -/
def State.queueError (s : State) (die : Nat) (w : Word) : State :=
  let d := s.die die
  if d.errq.length < Config.errorQueue then (s.setDie die { d with errq := d.errq ++ [w] }).wakeEvents die
  else s.setDie die { d with errOverflow := d.errOverflow + 1 }

/-- An error entry (R392). -/
def errorEntry (kind cls inst loc cnt : Nat) : Word :=
  BitVec.ofNat 64 (cnt % 65536 + 65536 * (loc % 2 ^ 24) + 2 ^ 40 * (inst % 65536) + 2 ^ 56 * (cls % 16) + 2 ^ 60 * (kind % 16))

/-- A trap that would enter firmware while `FSTAT.INT` is set: the core stops every context and an entry of class 15 is queued;
the spec does not state the entry's kind and location, which are free (R374; log 8). -/
def State.stopCore (s : State) (core : Nat) : State :=
  let (w, s) := s.draw
  (s.setCore core { s.core core with stopped := true }).queueError (dieOf core)
    (errorEntry (w.toNat % 16) 15 core (w.toNat / 16) 0)

/-- A trap of a thread enters firmware (R374). -/
def State.firmwareTrap (s : State) (tid : Nat) (epc : Word) (t : Trap) : State :=
  if (s.ctx tid).fstat.getLsbD 3 then s.stopCore (s.ctx tid).core
  else s.modCtx tid (fun c => c.enterFirmware s.fvec epc t)

/-- A trap that the user handler does not take: to the supervisor, or to firmware when it is a double trap or was raised in
firmware mode (R373, R374). -/
def State.superTrap (s : State) (tid : Nat) (epc : Word) (t : Trap) : State :=
  let c := s.ctx tid
  match c.mode with
  | .firmware => s.firmwareTrap tid epc t
  | _ => if c.sstat.getLsbD 3 then (s.setCtx tid (c.saveSuper epc t)).firmwareTrap tid epc t
      else s.setCtx tid (c.enterSuper s.svec epc t)

/-- `TrapP`: a thread takes a precise trap at its PC (R7, R371 to R374). -/
def State.trap (s : State) (tid : Nat) (t : Trap) : State :=
  let c := s.ctx tid
  if c.toUserHandler t then s.setCtx tid (c.enterUser t) else s.superTrap tid c.pc t

/-- The issuing thread takes a precise trap. -/
def State.trapMe (s : State) (t : Trap) : State := s.trap s.cur t

/-- The mode that `PM` names for a return to `below` or lower: anything else is user mode (R400). -/
def modeOfPm (pm : Nat) (fromFirmware : Bool) : Mode :=
  if pm = 1 then .supervisor else if pm = 2 ∧ fromFirmware then .firmware else .user

/-- ERET (R400): return from the current mode. -/
def Ctx.returnFrom (c : Ctx) : Ctx :=
  match c.mode with
  | .firmware => ({ c with mode := modeOfPm (c.fstat.setWidth 2).toNat true,
                           pred := putBit c.pred 16 (c.fstat.getLsbD 2), fstat := c.fstat &&& 7#4 }).jump c.fepc
  | _ => ({ c with mode := modeOfPm (c.sstat.setWidth 2).toNat false,
                   pred := putBit c.pred 16 (c.sstat.getLsbD 2), sstat := c.sstat &&& 7#4 }).jump c.sepc

end Sys2Proof.Machine
end

