-- ==== Sys2Proof/Machine/Mem.lean ====
section
/-! DEFINITION. Bytes of memory in canonical form (R91, R92), values and lines built from them (R2), poison marks (R101), the home
slice of a line (R446) and the kinds of physical address (R91). -/

namespace Sys2Proof.Machine

/-! ## Bytes -/

/-- The byte at an address; an address not listed reads as zero (R397 for HBM, R445 for pools; log 2). -/
def memGet : List Host.Cell → Nat → Byte
  | [], _ => 0
  | (k, b) :: r, a => if k = a then b else memGet r a

/-- List a byte that is not zero, keeping addresses rising. -/
def memIns : List Host.Cell → Nat → Byte → List Host.Cell
  | [], a, b => [(a, b)]
  | (k, c) :: r, a, b =>
    if a < k then (a, b) :: (k, c) :: r
    else if a = k then (a, b) :: r
    else (k, c) :: memIns r a b

/-- Write a byte, keeping addresses rising and no entry zero. -/
def memPut (m : List Host.Cell) (a : Nat) (b : Byte) : List Host.Cell :=
  if b = 0 then m.filter (fun e => e.1 ≠ a) else memIns m a b

/-- The canonical form: addresses strictly rising, no byte equal to what an unlisted address reads as. -/
def Memory.wf : List Host.Cell → Bool
  | [] => true
  | [(_, b)] => b != 0
  | (a, b) :: (k, c) :: r => b != 0 && decide (a < k) && Memory.wf ((k, c) :: r)

/-- One byte of the machine's memory, by unified address. -/
def State.byte (s : State) (a : Nat) : Byte := memGet s.mem a

/-- The bytes from `a` on. -/
def State.readBytes (s : State) (a : Nat) : Nat → List Byte
  | 0 => []
  | n + 1 => s.byte a :: s.readBytes (a + 1) n

/-- The little-endian value of `n` bytes at `a` (R2). -/
def State.read (s : State) (a n : Nat) : Nat := valueOf (s.readBytes a n)

/-- Write a run of bytes. -/
def memPutList (m : List Host.Cell) (a : Nat) : List Byte → List Host.Cell
  | [] => m
  | b :: bs => memPutList (memPut m a b) (a + 1) bs

/-- Write a run of bytes into the machine's memory. -/
def State.writeBytes (s : State) (a : Nat) (bs : List Byte) : State := { s with mem := memPutList s.mem a bs }

/-- Write `n` bytes of a value (R2). -/
def State.write (s : State) (a n v : Nat) : State := s.writeBytes a (bytesOf n v)

/-- The 8-byte words that `n` bytes at `a` touch. -/
def wordsOf (a n : Nat) : List Nat := (List.range (ceilDiv (a % 8 + n) 8)).map (a / 8 + ·)

/-- Whether any word of the range carries an uncorrectable-error mark (R101). -/
def State.poisonAt (s : State) (a n : Nat) : Bool := (wordsOf a n).any (s.poisoned.contains ·)

/-- Mark the words of a range (R101). -/
def State.poison (s : State) (a n : Nat) : State :=
  { s with poisoned := s.poisoned ++ (wordsOf a n).filter (!s.poisoned.contains ·) }

/-- A write of good data removes the mark of each word it covers whole (log 2). -/
def State.cleanse (s : State) (a n : Nat) : State :=
  { s with poisoned := s.poisoned.filter fun w => !(a ≤ 8 * w && 8 * w + 8 ≤ a + n) }

/-- Write a value together with its mark (R101). -/
def State.writeMarked (s : State) (a n v : Nat) (bad : Bool) : State :=
  if bad then (s.write a n v).poison a n else (s.write a n v).cleanse a n

/-- Sixty-four bytes that the host supplies: free values (R421, R422; log 3). -/
def State.hostData (s : State) : Nat × State :=
  (List.range 8).foldl (fun (a : Nat × State) i =>
    let (v, s) := a.2.draw
    (a.1 + v.toNat * 2 ^ (64 * i), s)) (0, s)

/-! ## Bytes under masks -/

/-- Replace the bytes of `old` that the mask names by those of `new` (R96). -/
def mergeBytes : Nat → Nat → Nat → Nat → Nat
  | 0, _, _, _ => 0
  | n + 1, old, new, mask => (if mask % 2 = 1 then new % 256 else old % 256) + 256 * mergeBytes n (old / 256) (new / 256) (mask / 2)

/-- A mask of `n` bytes from byte `k` on. -/
def byteMask (k n : Nat) : Nat := (2 ^ n - 1) * 2 ^ k

/-- The 128-byte line that holds an address (R96). -/
def lineOf (a : Nat) : Nat := a / 128

/-- A line of memory as a number. -/
def State.readLine (s : State) (line : Nat) : Nat := s.read (128 * line) 128

/-- Write the bytes of a line that the mask names. -/
def State.writeLine (s : State) (line v mask : Nat) : State :=
  s.write (128 * line) 128 (mergeBytes 128 (s.readLine line) v mask)

/-! ## Physical addresses (R91, R446) -/

/-- Where a physical address leads. -/
inductive Backing where
  | hbm
  | host
  | remote (slot : Nat)
  | reserved
  deriving DecidableEq, Repr

/-- R91's decode of a physical address. -/
def targetOf (pa : Nat) : Machine.Backing :=
  if bitOf pa 47 then .host
  else if bitsOf pa 46 40 = 0 then .hbm
  else if bitsOf pa 46 40 < 64 then .remote (bitsOf pa 46 40) else .reserved

/-- Whether a device physical address exists: the upper half of each die holds nothing (R91). -/
def hbmExists (pa : Nat) : Bool := pa < 2 ^ 40 && !bitOf pa 37

/-- The first byte of a pool offset in the unified space. -/
def poolBase (core : Nat) : Nat := 2 ^ 48 + core * 2 ^ 17

/-- Whether a unified address lies in a pool. -/
def isPool (a : Nat) : Bool := 2 ^ 48 ≤ a

/-- The core that owns a pool byte. -/
def poolCore (a : Nat) : Nat := (a - 2 ^ 48) / 2 ^ 17

/-- The home die of a line of HBM (R446). -/
def homeDie (line : Nat) : Nat := line / 2 ^ 31 % 4

/-- The slice number within a die that a line takes on every die (R446). -/
def sliceIndex (line : Nat) : Nat :=
  bitsOf line 8 0 ^^^ bitsOf line 17 9 ^^^ bitsOf line 26 18 ^^^ bitsOf line 29 27

/-- The package slice number of index `k` on a die (R446, R11). -/
def sliceAt (die k : Nat) : Nat :=
  let y := k / 2 / 16 + 16 * (die / 2)
  let x := k / 2 % 16 + 16 * (die % 2)
  (y * 32 + x) * 2 + k % 2

/-- The home slice of a line of HBM (R446). -/
def homeSlice (line : Nat) : Nat := sliceAt (homeDie line) (sliceIndex line)

/-- The number of a line by home slice and set, as the directory cache groups it (R165, R446). -/
def dirSet (line : Nat) : Nat := line % 2 ^ 30 / 512 % 1024

/-- The set that a line takes in a slice, at its home and in the proxy slices alike (R446). -/
def l2Set (line : Nat) : Nat := line % 2 ^ 30 / 512 % 256

end Sys2Proof.Machine
end

