-- ==== Sys2Proof/Machine/Fabric.lean ====
section
/-! DEFINITION. Messages between devices: routes, sending, and what happens when a message cannot be delivered (R412, R413,
R415); and the fault records that report a fault to a domain are asked for here (R375). -/

namespace Sys2Proof.Machine

/-- A link as it stands at reset. -/
def LinkPort.initial : LinkPort := { state := 0, peer := 0, peerLink := 0, retrans := 0, lanes := 0 }

/-- A link. -/
def State.link (s : State) (k : Nat) : LinkPort := s.links.get k LinkPort.initial

/-- The route to a device, where it is valid and its link is UP (R412). -/
def State.route (s : State) (dev : Nat) : Option Nat :=
  match s.routes.find? dev with
  | none => none
  | some l => if (s.link l).state = 2 then some l else none

/-- Send a message over a link. -/
def State.sendOn (s : State) (link dev : Nat) (m : LinkMsg) : State := { s with sent := s.sent ++ [(link, dev, m)] }

/-- Answer another device: the reply leaves by that device's own route entry, and is dropped where the entry is invalid or its link is
not UP (R412). -/
def State.replyTo (s : State) (dev ref status : Nat) (val : Word) (data : List Byte) : State :=
  match s.route dev with
  | none => s
  | some l => s.sendOn l dev (.reply ref status val data)

/-- Take a reference for a request and keep what waits for its reply. -/
def State.await (s : State) (w : RemoteWait) : Nat × State :=
  (s.serial, { s with serial := s.serial + 1, remotes := s.remotes.set s.serial w })

/-- The binding slot of an address space (R414). -/
def State.binding (s : State) (asid slot : Nat) : Option Binding :=
  s.bindings.find? fun b => b.asid == asid && b.slot == slot

/-- `LINK_DOWN` toward a device (R413). -/
def State.linkDown (s : State) (dev : Nat) : Trap :=
  ⟨trapLinkDown, 0, 0, BitVec.ofNat 64 (dev % 1024 + 65536 * (s.routes.get dev 0 % 8))⟩

/-- A fault record of a thread (R375). -/
def State.threadRecord (s : State) (tid code : Nat) (pc addr : Word) : FaultRec :=
  let c := s.ctx tid
  { rcb := c.rcb.toNat, asid := c.asid, code := code, pc := pc, thid := c.thid, addr := addr, q := [], done := 0,
    home := c.rcb.toNat, redir := false, waited := false }

/-- Ask for a fault record to be delivered (R375). -/
def State.deliver (s : State) (r : FaultRec) : State := s.post (.deliverRetry r)

/-- The offset in a remote window of a lane: physical address [39:0] (R414). -/
def remoteOffset (l : Lane) : Nat := l.pa % 2 ^ 40

/-- Send the first unbound lane of a remote load; the thread waits for the reply, and an undeliverable message raises
`LINK_DOWN` (R413, R415). -/
def State.remoteLoad (s : State) (q : MemReq) : State :=
  match q.lanes.zipIdx.find? (fun p => p.1.kmask != 2 ^ p.1.n - 1) with
  | none => s
  | some (l, i) =>
    match s.binding q.src.asid (bitsOf l.pa 46 40) with
    | none => s.trap q.src.tid (s.linkDown 0)
    | some b => match s.route b.dev with
      | none => s.trap q.src.tid (s.linkDown b.dev)
      | some k =>
        let (r, s) := s.await (.load q i)
        s.sendOn k b.dev (.remoteWord ⟨s.devid.toNat, k, b.xport, remoteOffset l, l.n, none, none, r⟩)

/-- Send a remote store; when it cannot be delivered it is acknowledged, its data is lost, and the domain is told (R413). -/
def State.remoteStore (s : State) (src : Src) (l : Lane) (v : Nat) : State :=
  let lost (s : State) : State :=
    (s.modCtx src.tid fun c => { c with ackc := c.ackc - 1 }).deliver
      (s.threadRecord src.tid trapLinkDown src.pc (BitVec.ofNat 64 l.va))
  match s.binding src.asid (bitsOf l.pa 46 40) with
  | none => lost s
  | some b => match s.route b.dev with
    | none => lost s
    | some k =>
      let (r, s) := s.await (.store src (BitVec.ofNat 64 l.va))
      s.sendOn k b.dev (.remoteWord ⟨s.devid.toNat, k, b.xport, remoteOffset l, l.n, none, some v, r⟩)

/-- Send the exchange of one differentiable element to its remote home; the thread goes on, as with a store, and the old value comes
with the reply (R109, R363, R415). An exchange that cannot be delivered is acknowledged and writes no entry, as a lost store is
(R413; log 63). -/
def State.remoteSwap (s : State) (q : MemReq) (op : AtomOp) : State :=
  match q.lanes, op with
  | l :: _, .tapeSwap (v :: _) _ _ _ =>
    let lost (s : State) : State :=
      (s.modCtx q.src.tid fun c => { c with ackc := c.ackc - 1 }).deliver
        (s.threadRecord q.src.tid trapLinkDown q.src.pc (BitVec.ofNat 64 l.va))
    (match s.binding q.src.asid (bitsOf l.pa 46 40) with
      | none => lost s
      | some b => match s.route b.dev with
        | none => lost s
        | some k =>
          let (r, s) := s.await (.atom q op)
          s.sendOn k b.dev (.remoteWord ⟨s.devid.toNat, k, b.xport, remoteOffset l, l.n, some (.amo 8 (BitVec.ofNat 64 v) 0), none, r⟩))
  | _, _ => s

/-- Send the operation of one lane to its remote home; the thread waits for the reply (R415). -/
def State.remoteLane (s : State) (q : MemReq) (op : AtomOp) (l : Lane) : State :=
  match s.binding q.src.asid (bitsOf l.pa 46 40) with
  | none => s.trap q.src.tid (s.linkDown 0)
  | some b => match s.route b.dev with
    | none => s.trap q.src.tid (s.linkDown b.dev)
    | some k =>
      let (r, s) := s.await (.atom q op)
      s.sendOn k b.dev (.remoteWord ⟨s.devid.toNat, k, b.xport, remoteOffset l, l.n, some op, none, r⟩)

/-- Send a remote atomic; the thread waits for the reply (R415). -/
def State.remoteAtom (s : State) (q : MemReq) (op : AtomOp) : State :=
  match q.lanes with
  | [] => s
  | l :: _ => s.remoteLane q op l

end Sys2Proof.Machine
end

