-- ==== Sys2Proof/Machine/Float.lean ====
section
/-! DEFINITION. Number formats and exact arithmetic: decoding (R181 to R185), RoundTo and Sat (R186, R187), the exact
operations the vector, tile and matrix chapters round once (R206 to R210, R222), and SRGen (R190). A finite value is a sign
and an exact fraction; nothing is rounded but by RoundTo. -/

namespace Sys2Proof.Machine

/-- A value: NaN with its sign, an infinity, or a sign and the fraction `n / d` with `d` positive. -/
inductive FV where
  | nan (neg : Bool)
  | inf (neg : Bool)
  | fin (neg : Bool) (n d : Nat)
  deriving DecidableEq, Repr

/-- A floating-point format (R181): width, fraction bits, bias, exponent of the largest finite value. -/
structure Fmt where
  w : Nat
  p : Nat
  bias : Nat
  emax : Nat
  hasInf : Bool
  deriving DecidableEq, Repr

def fp32 : Fmt := ⟨32, 23, 127, 127, true⟩
def bf16 : Fmt := ⟨16, 7, 127, 127, true⟩
def fp16 : Fmt := ⟨16, 10, 15, 15, true⟩
def e4m3 : Fmt := ⟨8, 3, 7, 8, false⟩
def e5m2 : Fmt := ⟨8, 2, 15, 15, true⟩

/-- The floating-point format of a code of R180, FP32 for the codes that name none. -/
def Fmt.ofCode (c : Nat) : Fmt :=
  match c with
  | 1 => bf16
  | 2 => fp16
  | 3 => e4m3
  | 4 => e5m2
  | _ => fp32

/-- Whether a code of R180 is a floating-point format other than NX4. -/
def isFloatCode (c : Nat) : Bool := c < 5

/-- The element width in bits of a code of R180. -/
def codeWidth (c : Nat) : Nat :=
  match c with
  | 0 => 32
  | 1 => 16
  | 2 => 16
  | 3 => 8
  | 4 => 8
  | 5 => 4
  | 6 => 8
  | 7 => 16
  | 8 => 32
  | 9 => 64
  | 10 => 8
  | 11 => 16
  | 12 => 32
  | _ => 64

/-- Whether an integer code of R180 is signed. -/
def codeSigned (c : Nat) : Bool := 6 ≤ c && c ≤ 9

/-- The sign bit of a pattern. -/
def Fmt.sign (f : Fmt) (b : Nat) : Bool := b.testBit (f.w - 1)

/-- The value of a pattern (R181). -/
def Fmt.decode (f : Fmt) (b : Nat) : FV :=
  let e := bitsOf b (f.w - 2) f.p
  let m := b % 2 ^ f.p
  let top := 2 ^ (f.w - 1 - f.p) - 1
  let s := f.sign b
  if e = top ∧ f.hasInf then (if m = 0 then .inf s else .nan s)
  else if e = top ∧ m = 2 ^ f.p - 1 then .nan s
  else
    let sig := if e = 0 then m else m + 2 ^ f.p
    let ee := if e = 0 then 1 else e
    -- sig × 2^(ee − bias − p)
    if ee ≥ f.bias + f.p then .fin s (sig * 2 ^ (ee - f.bias - f.p)) 1 else .fin s sig (2 ^ (f.bias + f.p - ee))

/-- The canonical NaN (R182). -/
def Fmt.canonicalNan (f : Fmt) (neg : Bool) : Nat :=
  (if neg then 2 ^ (f.w - 1) else 0) +
    (if f.hasInf then 2 ^ (f.w - 1) - 2 ^ f.p + 2 ^ (f.p - 1) else 2 ^ (f.w - 1) - 1)

/-- The infinity of a sign. -/
def Fmt.infinity (f : Fmt) (neg : Bool) : Nat := (if neg then 2 ^ (f.w - 1) else 0) + (2 ^ (f.w - 1) - 2 ^ f.p)

/-- The magnitude code of the largest finite value. -/
def Fmt.maxCode (f : Fmt) : Nat := if f.hasInf then 2 ^ (f.w - 1) - 2 ^ f.p - 1 else 2 ^ (f.w - 1) - 2

/-- The largest finite value as an integer or fraction. -/
def Fmt.maxValue (f : Fmt) : FV := f.decode f.maxCode

/-- Whether a pattern is a NaN or an infinity (R188). -/
def Fmt.nonfinite (f : Fmt) (b : Nat) : Bool :=
  match f.decode b with
  | .fin _ _ _ => false
  | _ => true

/-- floor(log2 (n / d)) for positive `n` and `d`. -/
def log2Floor (n d : Nat) : Int :=
  let e : Int := (Nat.log2 n : Int) - (Nat.log2 d : Int)
  if (if e ≥ 0 then n ≥ d * 2 ^ e.toNat else n * 2 ^ (-e).toNat ≥ d) then e else e - 1

/-- `a × 2^e` as a fraction over `b`. -/
def scale2 (a b : Nat) (e : Int) : Nat × Nat := if e ≥ 0 then (a * 2 ^ e.toNat, b) else (a, b * 2 ^ (-e).toNat)

/-- Whether the neighbour of larger magnitude is chosen between neighbours `lo` and `lo + 1` (in units), the rest being
`rem / den` of a unit (R186). -/
def roundsUp (m : Nat) (neg : Bool) (rnd lo rem den : Nat) : Bool :=
  if rem = 0 then false
  else match m with
    | 0 => 2 * rem > den || (2 * rem == den && lo % 2 == 1)
    | 1 => false
    | 2 => neg
    | 3 => !neg
    | _ => rem * 65536 / den + rnd ≥ 65536

/-- RoundTo of a finite magnitude into a floating-point format: the magnitude's code (R186). -/
def Fmt.roundMag (f : Fmt) (m : Nat) (neg : Bool) (rnd n d : Nat) : Nat :=
  if n = 0 then 0
  else
    let e := log2Floor n d
    if e > (f.emax : Int) then
      let sat := if f.hasInf then f.infinity false - 1 else f.maxCode
      match m with
      | 1 => sat
      | 2 => if neg then f.infinity false else sat
      | 3 => if neg then sat else f.infinity false
      | _ => f.infinity false
    else
      let emin : Int := 1 - (f.bias : Int)
      let ee := if e < emin then emin else e
      -- units of 2^(ee − p)
      let (a, b) := scale2 n d ((f.p : Int) - ee)
      let lo := a / b
      let r := if roundsUp m neg rnd lo (a % b) b then lo + 1 else lo
      (ee - emin).toNat * 2 ^ f.p + r

/-- RoundTo: the pattern of a value in a format (R182, R186). -/
def Fmt.round (f : Fmt) (m rnd : Nat) : FV → Nat
  | .nan s => f.canonicalNan s
  | .inf s => f.infinity s
  | .fin s n d => (if s then 2 ^ (f.w - 1) else 0) + f.roundMag m s rnd n d

/-- Sat of a format: the clamped value, and whether it changed (R187). -/
def Fmt.sat (f : Fmt) (v : FV) : FV × Bool :=
  match v with
  | .nan s => (.nan s, false)
  | .inf s => (match f.maxValue with
      | .fin _ n d => (.fin s n d, true)
      | w => (w, true))
  | .fin s n d => (match f.maxValue with
      | .fin _ a b => if n * b > a * d then (.fin s a b, true) else (.fin s n d, false)
      | _ => (.fin s n d, false))

/-- Conversion into a format with or without SAT: pattern, and whether Sat changed the value (R187). -/
def Fmt.convert (f : Fmt) (sat : Bool) (m rnd : Nat) (v : FV) : Nat × Bool :=
  if sat || !f.hasInf then
    let (v', c) := f.sat v
    (f.round m rnd v', c)
  else (f.round m rnd v, false)

/-- RoundTo the integers (R186). -/
def roundInt (m rnd : Nat) (neg : Bool) (n d : Nat) : Int :=
  let lo := n / d
  let r := if roundsUp m neg rnd lo (n % d) d then lo + 1 else lo
  if neg then -(r : Int) else (r : Int)

/-- Sat of an integer type (R183): the clamped integer and whether it changed. -/
def satInt (w : Nat) (signed : Bool) (v : Int) : Int × Bool :=
  let lo : Int := if signed then -(2 ^ (w - 1)) else 0
  let hi : Int := if signed then 2 ^ (w - 1) - 1 else 2 ^ w - 1
  if v < lo then (lo, true) else if v > hi then (hi, true) else (v, false)

/-- The low `w` bits of an integer. -/
def intBits (w : Nat) (v : Int) : Nat := (v % 2 ^ w).toNat

/-- Conversion of a value into an integer type: bits, and whether `SATS` is to be set (R187, R188, R192). -/
def convertInt (w : Nat) (signed : Bool) (m rnd : Nat) : FV → Nat × Bool
  | .nan _ => (0, true)
  | .inf s => (intBits w (satInt w signed (if s then -(2 ^ 64) else 2 ^ 64)).1, true)
  | .fin s n d =>
    let (v, c) := satInt w signed (roundInt m rnd s n d)
    (intBits w v, c)

/-- An integer as a value. -/
def FV.ofInt (v : Int) : FV := .fin (v < 0) v.natAbs 1

/-- The sign of a value. -/
def FV.neg? : FV → Bool
  | .nan s => s
  | .inf s => s
  | .fin s _ _ => s

/-- Whether a value is a NaN. -/
def FV.isNan : FV → Bool
  | .nan _ => true
  | _ => false

/-- Whether a value is a zero. -/
def FV.isZero : FV → Bool
  | .fin _ n _ => n == 0
  | _ => false

/-- The negated value; a NaN keeps its sign (R182 takes the operand's). -/
def FV.negate : FV → FV
  | .nan s => .nan s
  | .inf s => .inf (!s)
  | .fin s n d => .fin (!s) n d

/-- A finite value's exact numerator over a denominator. -/
def FV.num (neg : Bool) (n : Nat) : Int := if neg then -(n : Int) else n

/-- The exact sum; a zero sum has sign + but in mode 2, and (−0) + (−0) is −0 (R206). -/
def FV.add (m : Nat) (a b : FV) : FV :=
  match a, b with
  | .nan s, _ => .nan s
  | _, .nan s => .nan s
  | .inf s, .inf t => if s = t then .inf s else .nan false
  | .inf s, _ => .inf s
  | _, .inf t => .inf t
  | .fin s n d, .fin t k e =>
    let (x, y, den) :=
      if d = e then (FV.num s n, FV.num t k, d)
      else if d % e = 0 then (FV.num s n, FV.num t (k * (d / e)), d)
      else if e % d = 0 then (FV.num s (n * (e / d)), FV.num t k, e)
      else (FV.num s (n * e), FV.num t (k * d), d * e)
    let z := x + y
    if z = 0 then (if n = 0 ∧ k = 0 ∧ s ∧ t then .fin true 0 1 else .fin (m == 2) 0 1)
    else .fin (z < 0) z.natAbs den

/-- The exact product (R206). The sign of a zero or infinite one is the exclusive or of the operands' signs (log 84). -/
def FV.mul (a b : FV) : FV :=
  match a, b with
  | .nan s, _ => .nan s
  | _, .nan s => .nan s
  | .inf s, .inf t => .inf (s != t)
  | .inf s, .fin t k _ => if k = 0 then .nan false else .inf (s != t)
  | .fin s n _, .inf t => if n = 0 then .nan false else .inf (s != t)
  | .fin s n d, .fin t k e => .fin (s != t) (n * k) (d * e)

/-- The exact quotient (R206). The sign of a zero or infinite one is the exclusive or of the operands' signs (log 84). -/
def FV.div (a b : FV) : FV :=
  match a, b with
  | .nan s, _ => .nan s
  | _, .nan s => .nan s
  | .inf _, .inf _ => .nan false
  | .inf s, .fin t _ _ => .inf (s != t)
  | .fin s _ _, .inf t => .fin (s != t) 0 1
  | .fin s n d, .fin t k e =>
    if k = 0 then (if n = 0 then .nan false else .inf (s != t)) else .fin (s != t) (n * e) (d * k)

/-- Order of two values, neither a NaN: less than, exactly; −0 and +0 are equal. -/
def FV.lt (a b : FV) : Bool :=
  match a, b with
  | .inf s, .inf t => s && !t
  | .inf s, _ => s
  | _, .inf t => !t
  | .fin s n d, .fin t k e => decide (FV.num s n * (e : Int) < FV.num t k * (d : Int))
  | _, _ => false

/-- Equality of two values, neither a NaN; −0 = +0. -/
def FV.eq (a b : FV) : Bool := !a.isNan && !b.isNan && !a.lt b && !b.lt a

/-- The order of VMIN and VMAX, with −0 below +0 (R208). -/
def FV.below (a b : FV) : Bool := a.lt b || (a.eq b && a.neg? && !b.neg?)

/-- VMIN and VMAX with `N` (R208): the lesser or greater; a NaN wins, or the other operand in `.NUM`. -/
def FV.minMax (max num : Bool) (a b : FV) : FV :=
  match a, b with
  | .nan s, .nan _ => .nan s
  | .nan s, b => if num then b else .nan s
  | a, .nan t => if num then a else .nan t
  | a, b => if max then (if a.below b then b else a) else (if b.below a then b else a)

/-- floor(√n), by halving the interval `fuel` times. -/
def isqrtLoop : Nat → Nat → Nat → Nat → Nat
  | 0, _, lo, _ => lo
  | fuel + 1, n, lo, hi =>
    let mid := (lo + hi + 1) / 2
    if mid * mid ≤ n then isqrtLoop fuel n mid hi else isqrtLoop fuel n lo (mid - 1)

/-- floor(√n). -/
def isqrt (n : Nat) : Nat := isqrtLoop (Nat.log2 n / 2 + 2) n 0 (2 ^ (Nat.log2 n / 2 + 1))

/-- √(n / d) as a fraction that every rounding of R186 treats as the exact root: exact where the root is, and otherwise an odd
multiple of 2^-401 beside it, which is no representable value, midpoint or threshold of a format (R206). -/
def sqrtFrac (n d : Nat) : Nat × Nat :=
  let r := isqrt (n * 2 ^ 800 / d)
  if r * r * d = n * 2 ^ 800 then (r, 2 ^ 400) else (2 * r + 1, 2 ^ 401)

/-- √a (R206). -/
def FV.sqrt : FV → FV
  | .nan s => .nan s
  | .inf s => if s then .nan false else .inf false
  | .fin s n d => if n = 0 then .fin s 0 1 else if s then .nan false
      else .fin false (sqrtFrac n d).1 (sqrtFrac n d).2

/-- 1 ÷ √a (R210). -/
def FV.rsqrt : FV → FV
  | .nan s => .nan s
  | .inf s => if s then .nan false else .fin false 0 1
  | .fin s n d => if n = 0 then .inf s else if s then .nan false
      else .fin false (sqrtFrac d n).1 (sqrtFrac d n).2

/-- floor(ln 2 × 2^384). -/
def ln2 : Nat :=
  27311389503436327984859642001965014295881604093268141717219425985154158335678826923825841039545353940567474963094288

/-- The sum of the exponential series of `y / 2^384`, in units of 2^-384. -/
def expSeries : Nat → Nat → Nat → Nat → Nat
  | 0, _, _, _ => 0
  | fuel + 1, k, term, y => term + expSeries fuel (k + 1) (term * y / 2 ^ 384 / k) y

/-- 2^(i + f / 2^384) for a fraction below 1, as a fraction treated like `sqrtFrac`'s: its 320 leading bits and an odd digit. -/
def exp2Frac (i : Int) (f : Nat) : Nat × Nat :=
  if f = 0 then scale2 1 1 i
  else
    let y := f * ln2 / 2 ^ 384
    let v := expSeries 100 1 (2 ^ 384) y
    scale2 (2 * (v / 2 ^ 64) + 1) (2 ^ 321) i

/-- 2^a (R206). Beyond ±1,000 every format overflows or underflows alike. -/
def FV.exp2 : FV → FV
  | .nan s => .nan s
  | .inf s => if s then .fin false 0 1 else .inf false
  | .fin s n d =>
    if n = 0 then .fin false 1 1
    else if n > 1000 * d then (if s then .fin false 1 (2 ^ 1000) else .fin false (2 ^ 1000) 1)
    else
      let z := FV.num s n
      let i := z.fdiv d
      let r := (z.fmod d).toNat
      let q := exp2Frac i (r * 2 ^ 384 / d)
      .fin false q.1 q.2

/-- The next `fuel` binary digits of log2 of `x / 2^384`, for `x / 2^384` in [1, 2). -/
def log2Digits : Nat → Nat → Nat → Nat
  | 0, _, acc => acc
  | fuel + 1, x, acc =>
    let y := x * x / 2 ^ 384
    if y ≥ 2 ^ 385 then log2Digits fuel (y / 2) (2 * acc + 1) else log2Digits fuel y (2 * acc)

/-- log2 a (R206): exact at powers of two, and otherwise 128 binary digits and an odd one. -/
def FV.log2 : FV → FV
  | .nan s => .nan s
  | .inf s => if s then .nan false else .inf false
  | .fin s n d =>
    if n = 0 then .inf true
    else if s then .nan false
    else
      let e := log2Floor n d
      let (a, b) := scale2 n d (-e)
      if a = b then FV.ofInt e
      else
        let f := log2Digits 128 (a * 2 ^ 384 / b) 0
        let z : Int := e * 2 ^ 129 + (2 * (f : Int) + 1)
        .fin (z < 0) z.natAbs (2 ^ 129)

/-! ## NX4 (R184) -/

/-- Decode of a block type and code, in sixteenths (R184). -/
def nxSixteenths (t c : Nat) : Bool × Nat :=
  let neg := c ≥ 8
  match t with
  | 0 => (neg, if neg then 16 * (16 - c) else 16 * c)
  | 1 => (neg, [0, 8, 16, 24, 32, 48, 64, 96].getD (c % 8) 0)
  | 2 => if c = 8 then (false, 0) else (neg, 2 ^ (c % 8))
  | _ => (neg, [0, 16, 32, 48, 64, 96, 128, 192].getD (c % 8) 0)

/-- The value of a code under a scale byte (R184). -/
def nxDecode (scale c : Nat) : FV :=
  let e := scale % 64
  if e = 63 then .nan false
  else
    let (s, k) := nxSixteenths (scale / 64 % 4) c
    let q := scale2 k 16 ((e : Int) - 31)
    .fin s q.1 q.2

/-- The auto-scale bound M (R184). -/
def nxBound (t : Nat) : Nat := [7, 6, 8, 12].getD t 0

/-- The magnitudes of a type in sixteenths, ascending, and their codes without sign, for one sign (R184). -/
def nxGrid (t : Nat) (neg : Bool) : List (Nat × Nat) :=
  match t, neg with
  | 0, false => [(0, 0), (16, 1), (32, 2), (48, 3), (64, 4), (80, 5), (96, 6), (112, 7)]
  | 0, true => [(0, 0), (16, 15), (32, 14), (48, 13), (64, 12), (80, 11), (96, 10), (112, 9), (128, 8)]
  | 1, false => [(0, 0), (8, 1), (16, 2), (24, 3), (32, 4), (48, 5), (64, 6), (96, 7)]
  | 1, true => [(0, 8), (8, 9), (16, 10), (24, 11), (32, 12), (48, 13), (64, 14), (96, 15)]
  | 2, false => [(0, 8), (1, 0), (2, 1), (4, 2), (8, 3), (16, 4), (32, 5), (64, 6), (128, 7)]
  | 2, true => [(0, 8), (2, 9), (4, 10), (8, 11), (16, 12), (32, 13), (64, 14), (128, 15)]
  | _, false => [(0, 0), (16, 1), (32, 2), (48, 3), (64, 4), (96, 5), (128, 6), (192, 7)]
  | _, true => [(0, 8), (16, 9), (32, 10), (48, 11), (64, 12), (96, 13), (128, 14), (192, 15)]

/-- RoundTo a grid: the code of the chosen neighbour of `n / d` sixteenths, which lies within the grid (R186, R194). -/
def nxRound (m rnd : Nat) (neg : Bool) (n d : Nat) : List (Nat × Nat) → Nat
  | [] => 0
  | [(_, c)] => c
  | (a, c) :: (b, c') :: r =>
    if n ≥ b * d then nxRound m rnd neg n d ((b, c') :: r)
    else
      -- a ≤ v < b: the tie goes to the code with bit 0 clear, and to the smaller magnitude when both have it clear
      let rem := n - a * d
      let den := (b - a) * d
      if rem = 0 then c
      else
        let up := match m with
          | 0 => decide (2 * rem > den) || (2 * rem == den && c % 2 == 1 && c' % 2 == 0)
          | 1 => false
          | 2 => neg
          | 3 => !neg
          | _ => decide (rem * 65536 / den + rnd ≥ 65536)
        if up then c' else c

/-- Quantise a value under type `t` and exponent `e`: the code and whether `SATS` is to be set (R194). -/
def nxQuantise (t e m rnd : Nat) (v : FV) : Nat × Bool :=
  if e = 63 then (0, false)
  else match v with
    | .nan _ => ((if t = 2 then 8 else 0), true)
    | .inf s => (((nxGrid t s).getLast?.getD (0, 0)).2, true)
    | .fin s n d =>
      -- in sixteenths of 2^(e − 31)
      let (a, b) := scale2 (16 * n) d (31 - (e : Int))
      let top := ((nxGrid t s).getLast?.getD (0, 0))
      if a > top.1 * b then (top.2, true) else (nxRound m rnd s a b (nxGrid t s), false)

/-! ## SRGen (R190) -/

/-- Rotate a 64-bit word left. -/
def rotl (a : Word) (k : Nat) : Word := a.rotateLeft k

/-- One round of SRGen. -/
def srRound (k : Word) (rb ra : Nat) (p : Word × Word) : Word × Word :=
  let a := p.1 + p.2 + k
  let b := rotl p.2 rb ^^^ a
  (rotl a ra + b, b)

/-- SRGen (R190). -/
def srGen (key : Word) (ltn : Nat) (ctr : Word) : Word :=
  let a := key ^^^ 0x7A31C58E0D96B24F#64
  let b := (BitVec.ofNat 64 (ltn * 2 ^ 32)) ^^^ ctr ^^^ 0xE2C419B75F086D3A#64
  let p := srRound 0x9B1DE4A73C5286F3#64 23 37 (a, b)
  let p := srRound 0x5E8C27D1B9A40F6D#64 41 11 p
  let p := srRound 0xD47A6E0315BFC928#64 13 29 p
  let p := srRound 0x2F93B85CE0617A4D#64 57 5 p
  p.1 ^^^ p.2

end Sys2Proof.Machine
end

