-- ==== Sys2Proof/Machine/Home.lean ====
section
/-! DEFINITION. What a home slice does with a line: the directory and its recalls (R163 to R165), sequence tags (R119), tills and
their folds (R120 to R122), page operations that hold a line (R102, R170), and the walk over waiters (R131). -/

namespace Sys2Proof.Machine

/-! ## Directory -/

/-- The directory state of a line, none for U (R163). -/
def dirFind : List (Nat × Dir) → Nat → Option Dir
  | [], _ => none
  | (l, d) :: r, line => if l = line then some d else dirFind r line

/-- The directory state of a line at its home. -/
def State.dirOf (s : State) (line : Nat) : Option Dir := dirFind (s.slice (homeSlice line)).dir line

/-- A die's copy of a line. -/
def State.proxy (s : State) (line die : Nat) : Option Proxy := s.proxies.find? (4 * line + die)

/-- Ways that a slice of a die gives to lines: 16, less 2 for each 64 KiB of tile SRAM (R378). -/
def State.l2Ways (s : State) (die : Nat) : Nat := 16 - 2 * (s.die die).tsplit

/-- A line leaves a slice. -/
def State.l2Leave (s : State) (k line : Nat) : State := s.setSlice k { s.slice k with l2 := (s.slice k).l2.filter (· ≠ line) }

/-- Evict a line from a slice: a copy of another die's line is put to its home (R162, R164, R166); a homed line goes to HBM, where
its bytes already count as standing. -/
def State.l2Evict (s : State) (k line : Nat) : State :=
  let die := dieOfSlice k
  let t := s.l2Leave k line
  match s.proxy line die with
  | none => t
  | some p => match p.st with
    | .e | .s => t.post (.puteAtHome line die)
    | .m | .o | .nc => t.post (.putmAtHome line die)

/-- The lines of a slice that share a line's set. -/
def State.l2Peers (s : State) (k line : Nat) : List Nat := (s.slice k).l2.filter fun l => l2Set l == l2Set line

/-- The errors armed at the HBM page of a line show: the page is accessed (R392, R408). -/
def State.pageErrors (s : State) (line : Nat) : State :=
  s.dies.foldl (fun (s : State) e =>
    (e.2.armed.filter fun x => x.1 == 8 && x.2.2 == line / 512 % 2 ^ 24).foldl (fun (s : State) x =>
      let ev : Event := .softErrorCorrected e.1 x.1 x.2.1 x.2.2
      if s.due.contains ev then s else { s with due := s.due ++ [ev] }) s) s

/-- A line takes a way of its slice on a die, for which its page is read; a full set gives one up, which a free value names (R162, R446;
log 52). -/
def State.l2Take (s : State) (line die : Nat) : State :=
  let k := sliceAt die (sliceIndex line)
  if (s.slice k).l2.contains line then s
  else
    let s := s.pageErrors line
    let peers := s.l2Peers k line
    let s := if peers.length < s.l2Ways die then s
      else
        let (v, s) := s.draw
        s.l2Evict k (peers.getD (v.toNat % peers.length) 0)
    s.setSlice k { s.slice k with l2 := (s.slice k).l2 ++ [line] }

/-- Evict lines of a line's set until the slice's ways suffice (R378; log 52). -/
def State.l2Shrink (s : State) (k line : Nat) : Nat → State
  | 0 => s
  | fuel + 1 =>
    let peers := s.l2Peers k line
    if peers.length ≤ s.l2Ways (dieOfSlice k) then s
    else
      let (v, s) := s.draw
      (s.l2Evict k (peers.getD (v.toNat % peers.length) 0)).l2Shrink k line fuel

/-- The slices of a die give up the ways that a raised split takes (R378). -/
def State.l2Split (s : State) (die : Nat) : State :=
  ((s.slices.map Prod.fst).filter fun k => dieOfSlice k == die).foldl (fun s k =>
    (s.slice k).l2.foldl (fun s l => s.l2Shrink k l 16) s) s

/-- Put a die's copy; it takes a way of the die's proxy slice (R162). -/
def State.setProxy (s : State) (line die : Nat) (p : Proxy) : State :=
  let s := s.l2Take line die
  { s with proxies := s.proxies.set (4 * line + die) p }

/-- Drop a die's copy. -/
def State.dropProxy (s : State) (line die : Nat) : State :=
  let s := s.l2Leave (sliceAt die (sliceIndex line)) line
  { s with proxies := s.proxies.erase (4 * line + die) }

/-- The sequence counter of a line as its home holds it (R119). -/
def State.seqOf (s : State) (line : Nat) : Nat := (s.slice (homeSlice line)).seqs.get line 0

/-- Set the sequence counter at the home. -/
def State.setSeq (s : State) (line n : Nat) : State :=
  let k := homeSlice line
  s.setSlice k { s.slice k with seqs := (s.slice k).seqs.set line (n % 65536) }

/-- Increment the counter and take the new value as the tag (R119). -/
def State.tag (s : State) (line : Nat) : Nat × State :=
  let n := (s.seqOf line + 1) % 65536
  (n, s.setSeq line n)

/-- Poison marks of a line, one bit for each 8-byte word. -/
def State.linePoison (s : State) (line : Nat) : BitVec 16 :=
  BitVec.ofNat 16 (ofLanes 1 ((List.range 16).map fun i => (s.poisoned.contains (16 * line + i)).toNat))

/-- Set the marks of a line's words that a mask of words names. -/
def State.markLine (s : State) (line : Nat) (marks words : BitVec 16) : State :=
  { s with poisoned := s.poisoned.filter (fun w => !(w / 16 = line && words.getLsbD (w % 16))) ++
      ((List.range 16).filter fun i => marks.getLsbD i && words.getLsbD i).map (16 * line + ·) }

/-- A write at a slice in retention wakes it (R169). -/
def State.awake (s : State) (k : Nat) : State := if (s.slice k).retained then s.setSlice k { s.slice k with retained := false } else s

/-- A write into a die's copy of a line wakes the proxy slice (R162, R169). -/
def State.awakeCopy (s : State) (line die : Nat) : State := s.awake (sliceAt die (sliceIndex line))

/-- The home keeps a clean copy of a dirty copy's data and marks; the counter stays with the owner (R163, R164, R178). -/
def State.copyHome (s : State) (line die : Nat) : State :=
  match s.proxy line die with
  | none => s
  | some p => match p.st with
    | .m | .o => ((s.awake (homeSlice line)).writeLine line p.data.toNat (2 ^ 128 - 1)).markLine line p.pois 0xFFFF#16
    | _ => s

/-- "Data to home": a dirty copy's data, marks and counter go to the home slice (R163, R164). -/
def State.bringHome (s : State) (line die : Nat) : State :=
  match s.proxy line die with
  | none => s
  | some p => match p.st with
    | .m | .o => (s.copyHome line die).setSeq line p.seq
    | _ => s

/-- What the directory says of a line when a die's copy is gone (R164). -/
def Dir.without (d : Dir) (die : Nat) : Option Dir :=
  match d with
  | .sh ds => let r := ds.filter (· ≠ die)
    if r.isEmpty then none else some (.sh r)
  | .ex x => if x = die then none else some (.ex x)
  | .ow x ds => let r := ds.filter (· ≠ die)
    if x ≠ die then some (.ow x r) else if r.isEmpty then none else some (.sh r)

/-- Replace a line's directory entry; a changed entry becomes the most recently used (R163, R165). -/
def State.putDir (s : State) (line : Nat) (d : Option Dir) : State :=
  let k := homeSlice line
  let r := (s.slice k).dir.filter (fun e => e.1 ≠ line)
  s.setSlice k { s.slice k with dir := match d with
    | none => r
    | some d => r ++ [(line, d)] }

/-- The home recalls a line: dirty data comes home, every remote copy is gone (R164). -/
def State.recall (s : State) (line : Nat) : State :=
  match s.dirOf line with
  | none => s
  | some (.sh ds) => (ds.foldl (fun s d => s.dropProxy line d) s).putDir line none
  | some (.ex d) => ((s.bringHome line d).dropProxy line d).putDir line none
  | some (.ow d ds) => ((d :: ds).foldl (fun s d => s.dropProxy line d) (s.bringHome line d)).putDir line none

/-- A home-die read: an exclusive holder downgrades and supplies, an owner supplies; the home keeps a clean copy (R164). -/
def State.downgrade (s : State) (line : Nat) : State :=
  match s.dirOf line with
  | some (.ex d) => match s.proxy line d with
    | some p => if p.st = .m then ((s.copyHome line d).setProxy line d { p with st := .o }).putDir line (some (.ow d []))
        else (s.setProxy line d { p with st := .s }).putDir line (some (.sh [d]))
    | none => s.putDir line none
  | some (.ow d _) => s.copyHome line d
  | _ => s

/-- Entries of a line's directory set at its home, least recently used first (R165). -/
def State.dirPeers (s : State) (line : Nat) : List Nat :=
  ((s.slice (homeSlice line)).dir.filter (fun e => dirSet e.1 = dirSet line)).map Prod.fst

/-- Count a recall on a die (R165, R178). -/
def State.countRecall (s : State) (die : Nat) : State :=
  s.setDie die { s.die die with pqrec := min ((s.die die).pqrec + 1) 65535 }

/-- Make room for a new directory entry (R165). -/
def State.dirRoom (s : State) (line : Nat) : State :=
  if (s.dirOf line).isSome then s
  else match s.dirPeers line with
    | l :: r => if r.length < 15 then s else (s.recall l).countRecall (homeDie line)
    | [] => s

/-! ## Tills -/

/-- An empty till of a format (R120). -/
def TillSum.empty (fmt : Nat) : TillSum := { fmt := fmt, sum := 0, pinf := false, ninf := false, nan := false, negz := true }

/-- A finite value in units of 2^-149: exact for FP32, BF16 and FP16 (R120). -/
def fixedOf (neg : Bool) (n d : Nat) : Int := FV.num neg (n * 2 ^ 149 / d)

/-- Add a contribution to a till (R120). -/
def TillSum.add (t : TillSum) (v : FV) : TillSum :=
  let t := match v with
    | .nan _ => { t with nan := true }
    | .inf false => { t with pinf := true }
    | .inf true => { t with ninf := true }
    | .fin s n d => { t with sum := t.sum + fixedOf s n d }
  let t := if v.isZero && v.neg? then t else { t with negz := false }
  { t with pinf := t.pinf || decide (t.sum ≥ 2 ^ 319), ninf := t.ninf || decide (t.sum ≤ -(2 ^ 319)) }

/-- The value of a till (R120). -/
def TillSum.value (t : TillSum) : FV :=
  if t.nan || (t.pinf && t.ninf) then .nan false
  else if t.pinf then .inf false
  else if t.ninf then .inf true
  else if t.sum = 0 then .fin t.negz 0 1
  else .fin (decide (t.sum < 0)) t.sum.natAbs (2 ^ 149)

/-- A till of a word: its element, core and sum. -/
def TillEntry.asWord : TillEntry → Option (Nat × Nat × TillSum)
  | .word a c t => some (a, c, t)
  | .block _ _ _ _ _ => none

/-- Insert by core number. -/
def insertByCore {α : Type} (e : Nat × α) : List (Nat × α) → List (Nat × α)
  | [] => [e]
  | x :: r => if e.1 ≤ x.1 then e :: x :: r else x :: insertByCore e r

/-- The tills of an element in ascending package core number (R121). -/
def tillsOf (ts : List TillEntry) (a : Nat) : List (Nat × TillSum) :=
  ((ts.filterMap TillEntry.asWord).filter (fun e => e.1 = a)).foldl (fun r e => insertByCore e.2 r) []

/-- Fold the sums into a value, one IEEE addition for each, in the list's order (R121). -/
def foldSums (f : Fmt) (w : Nat) (ts : List TillSum) : Nat :=
  ts.foldl (fun w t => f.round 0 0 (FV.add 0 (f.decode w) t.value)) w

/-- Set the slice's non-finite flag (R121, R137). -/
def State.setNff (s : State) (k : Nat) (b : Bool) : State :=
  if b then s.setSlice k { s.slice k with nff := true } else s

/-- Fold(a): every till of an element goes into the word, as one write at the home (R121). -/
def State.foldAddr (s : State) (a : Nat) : State :=
  let line := lineOf a
  let k := homeSlice line
  match tillsOf (s.slice k).tills a with
  | [] => s
  | (c, t) :: r =>
    let f := Fmt.ofCode t.fmt
    let s := s.recall line
    let w := foldSums f (s.read a (f.w / 8)) (((c, t) :: r).map Prod.snd)
    let s := s.setSlice k { s.slice k with tills := (s.slice k).tills.filter (fun e => match e with
      | .word b _ _ => b ≠ a
      | .block _ _ _ _ _ => true) }
    ((s.write a (f.w / 8) w).tag line).2.setNff k (f.nonfinite w)

/-- The elements of a line that hold tills, in order of allocation. -/
def State.tilledOn (s : State) (line : Nat) : List Nat :=
  ((((s.slice (homeSlice line)).tills.filterMap TillEntry.asWord).map Prod.fst).filter (fun a => lineOf a = line)).dedup

/-- Before any read or write of a line the home folds every till held for it (R121). -/
def State.foldLine (s : State) (line : Nat) : State := (s.tilledOn line).foldl State.foldAddr s

/-! ## Keys of HBM (R393, R406) -/

/-- The bytes of a line are what decryption with other keys than its own gives: free values (R393; log 37). -/
def State.scramble (s : State) (line : Nat) : State :=
  (List.range 16).foldl (fun (s : State) i =>
    let (v, s) := s.draw
    s.write (128 * line + 8 * i) 8 v.toNat) s

/-- An access reaches a line of HBM through a key slot: a line that stands under another slot's keys, or under keys that are gone, is
scrambled (R393). -/
def State.rekey (s : State) (line key : Nat) : State :=
  match s.lineKeys.find? line with
  | none => { s with lineKeys := s.lineKeys.set line key }
  | some k => if k = key then s else { s.scramble line with lineKeys := s.lineKeys.set line key }

/-- The home makes ready to read a line: tills folded, an owner's data fetched, a way of the slice taken (R121, R162, R164). -/
def State.homeRead (s : State) (line : Nat) : State := ((s.foldLine line).downgrade line).l2Take line (homeDie line)

/-- The home makes ready to write a line: tills folded, remote copies gone, a retained slice awake (R121, R164, R169). -/
def State.homeWrite (s : State) (line : Nat) : State :=
  (((s.foldLine line).recall line).awake (homeSlice line)).l2Take line (homeDie line)

/-- The value that `n` bytes hold at their home, an exclusive die's data included, with no step of the home: what a table walk
or PGQ finds (R179, R386). -/
def State.view (s : State) (a n : Nat) : Nat :=
  let line := lineOf a
  let owner := match s.dirOf line with
    | some (.ex d) => s.proxy line d
    | some (.ow d _) => s.proxy line d
    | _ => none
  match owner with
  | some p => p.data.toNat / 2 ^ (8 * (a % 128)) % 2 ^ (8 * n)
  | none => s.read a n

/-- The till block's key. -/
def TillEntry.key? : TillEntry → Option Key
  | .word _ _ _ => none
  | .block k _ _ _ _ => some k

/-- The till blocks of an adjoint tile in ascending package core number (R355). -/
def blocksOf (ts : List TillEntry) (k : Key) : List (Nat × SMap TillSum) :=
  (ts.filterMap fun e => match e with
    | .block k' c cells _ _ => if k' = k then some (c, cells) else none
    | .word _ _ _ => none).foldl (fun r e => insertByCore e r) []

/-- The RCBs charged for the till blocks of an adjoint tile (R355). -/
def blockRcbs (ts : List TillEntry) (k : Key) : List Nat :=
  ts.filterMap fun e => match e with
    | .block k' _ _ _ rcb => if k' = k then some rcb else none
    | .word _ _ _ => none

/-- The charges of freed till blocks are given up at their RCBs' homes (R355, R428). -/
def State.release (s : State) (k : Key) (rcbs : List Nat) : State :=
  rcbs.foldl (fun s r => s.post (.quotaRetry r k.asid true)) s

/-- One element of an adjoint tile after its till blocks are folded (R355). -/
def foldCell (bs : List (Nat × SMap TillSum)) (i w : Nat) : Nat :=
  foldSums fp32 w (bs.filterMap fun b => b.2.find? i)

/-- The request of a stalled event. -/
def eventReq (e : Event) : Option KeyReq :=
  match e with
  | .mintReference q | .mintDrop q | .mintReserve q | .mintCreate q _ | .adjointTileContribution q _ _ => some q
  | _ => none

/-- Send the stalled requests that a test names again, in order. -/
def State.retryStalled (s : State) (p : Nat → KeyReq → Bool) : State :=
  let hit (e : Nat × Event) : Bool := match eventReq e.2 with
    | some q => p e.1 q
    | none => false
  { s with pending := s.pending ++ (s.stalled.filter hit).map Prod.snd, stalled := s.stalled.filter fun e => !hit e }

/-- An entry or storage is freed at a slice: what waits for room on its die tries again (R235). -/
def State.wakeRoom (s : State) (slice : Nat) : State :=
  s.retryStalled fun code q => code == 2 && dieOfSlice q.home == dieOfSlice slice

/-- Fold every till block of an adjoint tile into the tile and free them, for what waits for room (R235, R355). -/
def State.foldBlocks (s : State) (slice : Nat) (k : Key) : State :=
  let sl := s.slice slice
  match blocksOf sl.tills k with
  | [] => s
  | bs =>
    let upd (e : MintEntry) : MintEntry := if e.key = k then
        { e with adj := e.adj.map fun a => { a with vals := a.vals.zipIdx.map fun p => foldCell bs p.2 p.1 } } else e
    let mint := sl.mint.map upd
    let nf := mint.any fun e => e.key = k && (match e.adj with
      | some a => a.vals.any fp32.nonfinite
      | none => false)
    let s := (s.setSlice slice { sl with mint := mint, tills := sl.tills.filter (fun e => e.key? ≠ some k) }).setNff slice nf
    (s.release k (blockRcbs sl.tills k)).wakeRoom slice

/-- Free the entry of a full till table that was allocated earliest (R122). -/
def State.earlyFold (s : State) (slice : Nat) : State :=
  let s' := match (s.slice slice).tills with
    | [] => s
    | .word a _ _ :: _ => s.foldAddr a
    | .block k _ _ _ _ :: _ => s.foldBlocks slice k
  s'.setSlice slice { s'.slice slice with efs := true, efcnt := min ((s'.slice slice).efcnt + 1) 65535 }

/-- Add a contribution to the core's till of an element, the list holding it. -/
def addToTill (a c : Nat) (v : FV) : List TillEntry → List TillEntry
  | [] => []
  | .word b d t :: r => if b = a ∧ d = c then .word b d (t.add v) :: r else .word b d t :: addToTill a c v r
  | e :: r => e :: addToTill a c v r

/-- The elements whose tills a contribution folds first: the same element's tills of another format or width (R120), and tills of another
element that shares bytes with it, of which the spec says nothing (log 59). -/
def clashes (ts : List TillEntry) (a fmt : Nat) : List Nat :=
  (ts.filterMap TillEntry.asWord).filterMap fun e =>
    let w := (Fmt.ofCode e.2.2.fmt).w / 8
    if (e.1 < a + (Fmt.ofCode fmt).w / 8 ∧ a < e.1 + w) ∧ ¬(e.1 = a ∧ e.2.2.fmt = fmt) then some e.1 else none

/-- A floating-point contribution of a core reaches its element's home (R120). -/
def State.contribute (s : State) (a c fmt : Nat) (v : FV) : State :=
  let k := homeSlice (lineOf a)
  let s := (clashes (s.slice k).tills a fmt).foldl State.foldAddr s
  let present := (s.slice k).tills.any fun e => match e with
    | .word b d _ => b == a && d == c
    | .block _ _ _ _ _ => false
  if present then s.setSlice k { s.slice k with tills := addToTill a c v (s.slice k).tills }
  else
    let s := if (s.slice k).tills.length ≥ Config.tillEntries then s.earlyFold k else s
    s.setSlice k { s.slice k with tills := (s.slice k).tills ++ [.word a c ((TillSum.empty fmt).add v)], retained := false }

/-! ## Waiters -/

/-- Word-waiter entries of a slice in use: word waiters and waiters of keys (R131, R236). -/
def Slice.waiting (sl : Slice) : Nat := sl.waiters.length + (sl.mint.map fun e => e.waiters.length + e.devs.length).sum

/-- Whether a waiter's condition holds of the value of its word (R134, R135, R349). -/
def waitHolds (w : WaitCond) (v : Nat) : Bool :=
  match w with
  | .word cond wide cmp =>
    let n := if wide then 64 else 32
    let x := v % 2 ^ n
    let y := cmp.toNat % 2 ^ n
    match cond with
    | 0 => x == y
    | 1 => x != y
    | 2 => signedOf n x < signedOf n y
    | 3 => signedOf n x ≥ signedOf n y
    | 4 => x < y
    | 5 => x ≥ y
    | 6 => (x &&& y) != 0
    | _ => (x &&& y) == 0
  | .phase p => v / 2 ^ 32 != p

/-- The word a waiter watches, as it stands at the home. -/
def State.waiterValue (s : State) (w : Waiter) : Word := BitVec.ofNat 64 (s.read w.lane.pa w.lane.n)

/-- The cores recorded for a word (R127). -/
def State.recorded (s : State) (word : Nat) : List Nat :=
  (((s.slice (homeSlice (lineOf word))).records.filter (fun e => e.1 = word)).map Prod.snd).flatten

/-- Clear a word's record (R129). -/
def State.clearRecord (s : State) (word : Nat) : State :=
  let k := homeSlice (lineOf word)
  s.setSlice k { s.slice k with records := (s.slice k).records.filter (fun e => e.1 ≠ word) }

/-- Command every core of a drain to write back (R129); with none to command the drain is complete at once. -/
def State.startDrain (s : State) (line : Nat) (cores : List Nat) (d : Drain) : State :=
  let j := s.serial
  let s := { s with serial := j + 1, jobs := s.jobs.set j ⟨line, cores, cores, d⟩ }
  match cores with
  | [] => s.postFront (.drainCompletion j)
  | cs => cs.foldl (fun s q => s.post (.drainCommandArrival q j)) s

/-- A satisfied waiter: its acquire drains first, and the record stands until the drain is over; then it is woken with its result
(R131, R135). -/
def State.satisfy (s : State) (w : Waiter) : State :=
  let v := s.waiterValue w
  let w := { w with lane := { w.lane with bad := s.poisonAt w.lane.pa w.lane.n } }
  if w.acq then
    let word := w.lane.pa / 8 * 8
    s.startDrain (lineOf word) (s.recorded word) (.wait w v)
  else s.post (.waiterWakeArrival w v 1)

/-- Whether a waiter waits for a barrier's next phase (R134). -/
def forPhase (w : Waiter) : Bool :=
  match w.cond with
  | .phase _ => true
  | .word _ _ _ => false

/-- Whether the BAR that completed a phase of a word is still draining: the phase's waiters succeed only after that (R134). -/
def State.phaseDrains (s : State) (a : Nat) : Bool := s.jobs.any fun j => match j.2.next with
  | .bar w _ => w.lane.pa == a
  | .acq _ _ | .wait _ _ | .rel _ _ _ | .arrive _ => false

/-- Whether a deadline has passed: its cycle is over (R132). -/
def State.passed (s : State) (d : Option Nat) : Bool :=
  match d with
  | none => false
  | some d => decide (cycleOfTick d < s.pcyc)

/-- Walk a line's waiters in order of registration (R131, R134): one whose deadline has passed is not satisfied any more (R132). `drained`
is the walk at the end of the drain of a phase: the phase was complete before, and its waiters succeed whatever their deadlines. -/
def State.walkLine (s : State) (line : Nat) (drained : Bool) : State :=
  let k := homeSlice line
  let hit (w : Waiter) : Bool := lineOf w.lane.pa = line && waitHolds w.cond (s.waiterValue w).toNat &&
    !(forPhase w && s.phaseDrains w.lane.pa) && ((drained && forPhase w) || !s.passed w.deadline)
  let ws := (s.slice k).waiters
  (ws.filter hit).foldl State.satisfy (s.setSlice k { s.slice k with waiters := ws.filter (fun w => !hit w) })

/-- The walk that follows a write at a line's home, or a WAKE (R131, R136). -/
def State.walkWaiters (s : State) (line : Nat) : State := s.walkLine line false

/-- A write performed at the home: one tag, then the waiters are walked (R119, R131). -/
def State.homeStore (s : State) (a n v : Nat) (bad : Bool) : Nat × State :=
  let line := lineOf a
  let (t, s) := ((s.homeWrite line).writeMarked a n v bad).tag line
  (t, s.walkWaiters line)

/-! ## Page operations -/

/-- Whether a physical address lies in the page of the operation: the page, the new frame, the copies of an RDUP page, those that the
operation makes among them (R170). -/
def PageRun.inPage (r : PageRun) (pa : Nat) : Bool :=
  (r.base ≤ pa && pa < r.base + r.size) ||
    (match r.dest with
      | some d => d ≤ pa && pa < d + r.size
      | none => false) ||
    (pa < 2 ^ 40 && r.base % 2 ^ 38 ≤ pa % 2 ^ 38 && pa % 2 ^ 38 < r.base % 2 ^ 38 + r.size &&
      ((bitsOf r.leaf.toNat 61 59 == 2 && bitOf r.leaf.toNat (48 + pa / 2 ^ 38 % 4)) ||
        (!r.op.migrate && r.op.mode == 2 && bitOf r.op.mask (pa / 2 ^ 38 % 4))))

/-- Whether a physical address lies in a page held by the operation, or in the line that holds its leaf (R170). -/
def PageRun.holds (r : PageRun) (pa : Nat) : Bool := r.inPage pa || lineOf pa == lineOf r.pte

/-- The page operation that holds an address, by die and slot (R170). -/
def State.pageHolding (s : State) (pa : Nat) : Option (Nat × Nat) :=
  ((List.range 4).flatMap fun d => (s.die d).pages.filterMap fun e =>
    if e.2.holds pa then some (d, e.1) else none).head?

/-- Where a word that hardware reaches by a translation lies: in a page that a PGMIG moves, at its old place until the operation ends, so that
the copy takes it along (R170, R176; log 57). -/
def State.oldPlace (s : State) (pa : Nat) : Nat :=
  (((List.range 4).flatMap fun d => (s.die d).pages.filterMap fun e => match e.2.dest with
    | some n => if n ≤ pa && pa < n + e.2.size then some (e.2.base + (pa - n)) else none
    | none => none).head?).getD pa

/-- A refusal by a full queue is counted, and the access is to be sent again after a wait (R171). -/
def State.refuseFull (s : State) (die slot wait : Nat) (h : Held) : State :=
  (s.setDie die { s.die die with pqref := min ((s.die die).pqref + 1) 65535 }).at (s.pcyc + wait) (.pageQueueRetry die slot wait h)

/-- Who sent an access: a context, a Teller operation, or another device's request (R171). -/
def heldSender : Held → Nat × Nat × Nat
  | .fill ⟨q, _⟩ | .wt q _ | .atom q _ | .contrib q _ _ | .rel q _ _ | .acq q _ | .wake q _ => (0, q.src.tid, 0)
  | .bar w | .wait w => (0, w.src.tid, 0)
  | .teller cell op _ _ => (1, cell, op)
  | .remote m _ => (2, m.dev, m.ref)

/-- Queue an access at a slot; a full queue refuses it with a retry answer. What stands in the list beyond the slot's queue is held by
its sender, in the order in which it was refused; while a sender holds one, its later accesses to the page are not sent (R170, R171;
log 57). -/
def State.hold (s : State) (die slot : Nat) (h : Held) : State :=
  match (s.die die).pages.find? slot with
  | none => s
  | some r =>
    let t := s.setDie die { s.die die with pages := (s.die die).pages.set slot { r with queue := r.queue ++ [h] } }
    if r.queue.length < Config.pageQueue || (r.queue.drop Config.pageQueue).any (heldSender · == heldSender h) then t
    else t.refuseFull die slot 64 h

/-- Perform an access at the home unless a page operation holds the page (R102, R170). -/
def State.enterHome (s : State) (pa : Nat) (h : Held) (k : State → State) : State :=
  match s.pageHolding pa with
  | some (d, slot) => s.hold d slot h
  | none => k s

end Sys2Proof.Machine
end

