-- ==== Sys2Proof/Machine/Flags.lean ====
section
/-! DEFINITION. The sticky flags and the stochastic draws of a context (R68, R188, R189), and the rounding of one element with
the flags it sets. -/

namespace Sys2Proof.Machine

/-- Set `NFS` when told to; nothing clears it here (R68, R188). -/
def Ctx.setNfs (c : Ctx) (b : Bool) : Ctx := if b then { c with pred := putBit c.pred 18 true } else c

/-- Set `SATS` when told to (R68, R188). -/
def Ctx.setSats (c : Ctx) (b : Bool) : Ctx := if b then { c with pred := putBit c.pred 19 true } else c

/-- Set both flags when told to (R188). -/
def Ctx.raise (c : Ctx) (nf sat : Bool) : Ctx := (c.setNfs nf).setSats sat

/-- LTN: the thread's logical number, `THID`[31:0] (R189). -/
def Ctx.drawLtn (c : Ctx) : Nat := c.thid.toNat % 2 ^ 32

/-- The 16-bit draw of result element `i` (R189). -/
def drawAt (key : Word) (ltn : Nat) (ctr : Word) (i : Nat) : Nat :=
  bitsOf (srGen key ltn (ctr + BitVec.ofNat 64 (i / 4))).toNat (16 * (i % 4) + 15) (16 * (i % 4))

/-- The draw of element `i` in rounding mode `m`; only the stochastic mode draws (R189). -/
def Ctx.rnd (c : Ctx) (m i : Nat) : Nat := if m ≤ 3 then 0 else drawAt c.srkey c.drawLtn c.srctr i

/-- The step of `SRCTR` for `e` result elements in mode `m` (R189). -/
def Ctx.stepSr (c : Ctx) (m e : Nat) : Ctx :=
  if m ≤ 3 then c else { c with srctr := c.srctr + BitVec.ofNat 64 (ceilDiv e 4) }

/-- One element as written: its bits, whether it is a NaN or an infinity, and whether Sat acted or a NaN became an integer
(R188). -/
structure Elem where
  bits : Nat
  nf : Bool := false
  sat : Bool := false
  deriving DecidableEq, Repr

/-- Element `i` rounded once into a floating-point format, without Sat (R186, R188). -/
def Ctx.rounded (c : Ctx) (f : Fmt) (m i : Nat) (v : FV) : Elem :=
  let b := f.round m (c.rnd m i) v
  { bits := b, nf := f.nonfinite b }

/-- Element `i` converted into a floating-point format, with Sat where the form has it and always for E4M3 (R187). -/
def Ctx.converted (c : Ctx) (f : Fmt) (sat : Bool) (m i : Nat) (v : FV) : Elem :=
  let r := f.convert sat m (c.rnd m i) v
  { bits := r.1, nf := f.nonfinite r.1, sat := r.2 }

/-- Element `i` converted into an integer format (R187, R188, R192). -/
def Ctx.convertedInt (c : Ctx) (w : Nat) (signed : Bool) (m i : Nat) (v : FV) : Elem :=
  let r := convertInt w signed m (c.rnd m i) v
  { bits := r.1, sat := r.2 }

/-- A floating-point pattern copied or chosen: `NFS` by its class, no rounding (R188). -/
def Elem.pattern (f : Fmt) (b : Nat) : Elem := { bits := b, nf := f.nonfinite b }

/-- An integer result clamped into a width: `SATS` when it was (R183, R215). -/
def Elem.clamped (w : Nat) (signed : Bool) (v : Int) : Elem :=
  let r := satInt w signed v
  { bits := intBits w r.1, sat := r.2 }

/-- An integer result modulo 2^w. -/
def Elem.wrapped (w : Nat) (v : Int) : Elem := { bits := intBits w v }

/-- The flags that a run of written elements raises (R188). -/
def Ctx.raiseAll (c : Ctx) (es : List Elem) : Ctx := c.raise (es.any Elem.nf) (es.any Elem.sat)

/-- The predicate word as PMOV.SP writes it: p1 to p15, `UEN`, `NFS`, `SATS` and `RM`; `REV` and the reserved bits stay (R83). -/
def Ctx.writePred (c : Ctx) (w : Word) : Ctx :=
  let rm : BitVec 3 := if (w.extractLsb' 20 3).toNat ≤ 4 then w.extractLsb' 20 3 else 0
  { c with pred := c.pred.extractLsb' 23 9 ++ rm ++ w.extractLsb' 19 1 ++ w.extractLsb' 18 1 ++ c.pred.extractLsb' 17 1 ++
      w.extractLsb' 16 1 ++ w.extractLsb' 1 15 ++ c.pred.extractLsb' 0 1 }

end Sys2Proof.Machine
end

