-- ==== Sys2Proof/Machine/Operands.lean ====
section
/-! DEFINITION. Operand forms: the second operand of the ALU mould (R42), vector lanes and their masks (R200, R204), and pool
addresses (R86, R90). -/

namespace Sys2Proof.Machine

/-- The second operand (R42). -/
def Ctx.op2 (c : Ctx) : Op2 → Word
  | .reg r => c.xr r
  | .imm i => sext32 i

/-- The second operand where the immediate is unsigned (R40). -/
def Ctx.op2U (c : Ctx) : Op2 → Word
  | .reg r => c.xr r
  | .imm i => i.setWidth 64

/-- Whether lane `i` is active (R204). -/
def Ctx.active (c : Ctx) (mk : Option MaskOp) (i : Nat) : Bool :=
  match mk with
  | none => true
  | some m => (c.kr m.d).getLsbD i

/-- Whether the form zeroes inactive lanes (R204). -/
def zeroing (mk : Option MaskOp) : Bool :=
  match mk with
  | none => false
  | some m => m.zero

/-- Lane `i` of width `w` of a vector register. -/
def Ctx.lane (c : Ctx) (w : Nat) (r : R5) (i : Nat) : Nat := laneOf w (c.vr r).toNat i

/-- The vector of lanes of width `w` that a masked form writes: active lanes from `f`, inactive lanes kept or zero (R204). -/
def Ctx.maskedVec (c : Ctx) (w : Nat) (a : R5) (mk : Option MaskOp) (f : Nat → Elem) : Vec :=
  vecOfLanes w ((List.range (512 / w)).map fun i =>
    if c.active mk i then (f i).bits else if zeroing mk then 0 else c.lane w a i)

/-- The elements that the active lanes write (R204: an inactive lane sets no flag). -/
def Ctx.activeElems (c : Ctx) (w : Nat) (mk : Option MaskOp) (f : Nat → Elem) : List Elem :=
  ((List.range (512 / w)).filter (c.active mk)).map f

/-- The effect of a short lane-wise instruction: destination, flags, and the step of `SRCTR` for `e` draws (R202, R204). -/
def Ctx.writeLanes (c : Ctx) (w : Nat) (a : R5) (mk : Option MaskOp) (m e : Nat) (f : Nat → Elem) : Ctx :=
  ((c.setV a (c.maskedVec w a mk f)).raiseAll (c.activeElems w mk f)).stepSr m e

/-- The floating-point format of a form's code, with FP32, BF16 and FP16 numbered 0 to 2 (R200). -/
def vfmt (code : Nat) : Fmt := Fmt.ofCode (code % 4)

/-- The predicate of a truth table (R82, R213, R223). -/
def tableBit (t : Nat) (b c : Bool) : Bool := t.testBit (2 * b.toNat + c.toNat)

/-- A truth table over bit vectors of any width, bit by bit (R213, R223). -/
def tableBits {w : Nat} (t : Nat) (b c : BitVec w) : BitVec w :=
  (if t.testBit 0 then ~~~b &&& ~~~c else 0) ||| (if t.testBit 1 then ~~~b &&& c else 0) |||
    (if t.testBit 2 then b &&& ~~~c else 0) ||| (if t.testBit 3 then b &&& c else 0)

/-- A place in a pool: cell row and column, core within the cell, offset (R90). -/
structure PoolAddr where
  y : Nat
  x : Nat
  core : Nat
  off : Nat
  deriving DecidableEq, Repr

/-- Package core number of a pool address (R11). -/
def PoolAddr.pkgCore (p : PoolAddr) : Nat := (p.y * 32 + p.x) * 8 + p.core

/-- The absolute form (R86). -/
def PoolAddr.absolute (p : PoolAddr) : Word :=
  BitVec.ofNat 64 (2 ^ 63 + p.y * 2 ^ 25 + p.x * 2 ^ 20 + p.core * 2 ^ 17 + p.off)

/-- The relative form seen from a cell (R86). -/
def PoolAddr.relative (p : PoolAddr) (ycur xcur : Nat) : Word :=
  BitVec.ofNat 64 (3 * 2 ^ 62 + ((p.y + 32 - ycur) % 32) * 2 ^ 25 + ((p.x + 32 - xcur) % 32) * 2 ^ 20 +
    p.core * 2 ^ 17 + p.off)

/-- The pool location of an address in either form, resolved at a core (R86, R90); none where the form or a reserved bit says it
is no pool address. -/
def poolAddr (a : Word) (core : Nat) : Option PoolAddr :=
  let n := a.toNat
  if bitOf n 63 = false ∨ bitsOf n 61 30 ≠ 0 then none
  else
    let y := bitsOf n 29 25
    let x := bitsOf n 24 20
    let cell := cellOf core
    some (if bitOf n 62 then ⟨(cellY cell + y) % 32, (cellX cell + x) % 32, bitsOf n 19 17, bitsOf n 16 0⟩
      else ⟨y, x, bitsOf n 19 17, bitsOf n 16 0⟩)

end Sys2Proof.Machine
end

