-- ==== Sys2Proof/Machine/Xlate.lean ====
section
/-! DEFINITION. The address phase (R98 to R100): spaces (R89, R90), page tables and translation caches (R384 to R387), permissions
and key slots (R386, R393), page modes (R102, R161), pool checks (R93), range locks (R94), differentiable regions (R353), and the
update of A and D (R386). -/

namespace Sys2Proof.Machine

/-- An address in its space. -/
inductive Ea where
  | word (va : Nat)
  | pool (p : PoolAddr)
  deriving DecidableEq, Repr

/-- Why an address phase does not pass: a precise trap, or a store into a TLDP source that must wait for a copy (R94). -/
inductive Stop where
  | trap (t : Trap)
  | source (cell entry : Nat)
  deriving DecidableEq, Repr

/-- Base plus displacement as a 64-bit pattern (R100: what `FLTADDR` holds). -/
def formed (base : Word) (disp : Int) : Word := base + wordOfInt disp

/-- `ADDR_SPACE` with its detail code (R100). -/
def spaceTrap (code : Nat) (a : Word) (lane : Nat) : Stop := .trap ⟨trapAddrSpace, code, lane, a⟩

/-- Resolve base and displacement (R89, R90). -/
def resolve (core : Nat) (base : Word) (disp : Int) (lane : Nat) : Except Stop Ea :=
  let n := base.toNat
  let a := formed base disp
  match bitsOf n 63 62 with
  | 0 =>
    if bitsOf n 61 53 ≠ 0 then .error (spaceTrap 2 a lane)
    else
      let va : Int := (n % 2 ^ 53 : Nat) + disp
      if va < 0 ∨ va ≥ 2 ^ 53 then .error (spaceTrap 3 a lane) else .ok (.word va.toNat)
  | 1 => .error (spaceTrap 1 a lane)
  | _ => match poolAddr base core with
    | none => .error (spaceTrap 2 a lane)
    | some p =>
      let off : Int := p.off + disp
      if off < 0 ∨ off ≥ 2 ^ 17 then .error (spaceTrap 3 a lane) else .ok (.pool { p with off := off.toNat })

/-! ## Page tables (R384, R385) -/

/-- A leaf as found: its entry, the entry's physical address, whether it maps 2 MiB. -/
structure Leaf where
  word : Word
  pte : Nat
  big : Bool
  deriving DecidableEq, Repr

/-- Physical address [47:16] of a leaf, as an address. -/
def Leaf.base (l : Leaf) : Nat := bitsOf l.word.toNat 47 16 * 65536
/-- Bytes a leaf maps. -/
def Leaf.size (l : Leaf) : Nat := if l.big then 2 ^ 21 else 2 ^ 16
/-- `MODE` of a leaf (R161). -/
def Leaf.mode (l : Leaf) : Nat := bitsOf l.word.toNat 61 59
/-- `KEYID` of a leaf. -/
def Leaf.key (l : Leaf) : Nat := bitsOf l.word.toNat 58 52
/-- `DMASK` of a leaf. -/
def Leaf.mask (l : Leaf) : Nat := bitsOf l.word.toNat 51 48
/-- The physical address a leaf gives a virtual one. -/
def Leaf.pa (l : Leaf) (va : Nat) : Nat := l.base + va % l.size

/-- Whether a leaf word is well formed (R91, R385). -/
def leafOk (w : Nat) (big : Bool) : Bool :=
  let pa := bitsOf w 47 16 * 65536
  bitsOf w 7 0 == 0 && (!big || bitsOf pa 20 16 == 0) && (match targetOf pa with
    | .hbm => !bitOf pa 37 && bitsOf w 15 14 == bitsOf pa 39 38
    | .reserved => false
    | _ => bitsOf w 15 14 == 0)

/-- Whether a word is a valid pointer to a table of `align` bytes (R385). -/
def pointerOk (w align : Nat) : Bool :=
  bitOf w 63 && bitsOf w 62 48 == 0 && bitsOf w 7 0 == 0 && w % 2 ^ 48 % align == 0 && hbmExists (w % 2 ^ 48)

/-- The table index of a level (R385). -/
def levelIndex (level va : Nat) : Nat :=
  match level with
  | 0 => bitsOf va 52 45
  | 1 => bitsOf va 44 33
  | 2 => bitsOf va 32 21
  | _ => bitsOf va 20 16

/-- The levels of a walk from a table on; the answer is the leaf, or the level that had none (R385, R386). -/
def State.walkFrom (s : State) (va : Nat) : Nat → Nat → Nat → Except Nat Leaf
  | 0, level, _ => .error level
  | fuel + 1, level, table =>
    let pte := table + 8 * levelIndex level va
    let w := s.view pte 8
    if !bitOf w 63 then .error level
    else if bitOf w 62 then
      if (level == 2 || level == 3) && leafOk w (level == 2) then .ok ⟨BitVec.ofNat 64 w, pte, level == 2⟩ else .error level
    else if level < 3 && pointerOk w (if level = 2 then 256 else 32768) then
      s.walkFrom va fuel (level + 1) (w % 2 ^ 48)
    else .error level

/-- The entry of the ASID table is valid (R384); where no memory holds the entry it is absent, and a walk misses (R386; log 51). -/
def State.asidValid (s : State) (asid : Nat) : Bool :=
  hbmExists (s.asidtb.toNat + 16 * asid + 8) && bitOf (s.view (s.asidtb.toNat + 16 * asid + 8) 1) 0

/-- A table walk (R384 to R386). -/
def State.walk (s : State) (asid va : Nat) : Except Nat Leaf :=
  if s.asidValid asid then s.walkFrom va 4 0 (s.view (s.asidtb.toNat + 16 * asid) 8 / 2048 * 2048) else .error 0

/-! ## Translation caches (R387) -/

/-- Whether a cached translation serves an address. -/
def TlbEntry.serves (e : TlbEntry) (asid va : Nat) : Bool :=
  e.asid == asid && (if e.big then e.vpn / 32 == va / 2 ^ 21 else e.vpn == va / 2 ^ 16)

/-- The translation a core finds: its own TLB, its cell's, its die's (R387). -/
def State.cached (s : State) (core asid va : Nat) : Option Leaf :=
  let f (l : List TlbEntry) := l.find? (·.serves asid va)
  let hit := (f (s.core core).tlb).or ((f (s.cell (cellOf core)).tlb).or (f (s.die (dieOf core)).tlb))
  hit.map fun e => ⟨e.leaf, e.pte, e.big⟩

/-- Whether an entry still names the leaf of a cached translation (R386). -/
def sameLeaf (a b : Nat) : Bool := bitOf a 63 && bitsOf a 62 48 == bitsOf b 62 48 && bitsOf a 47 16 == bitsOf b 47 16

/-- The leaf that serves an access: a cached one when its A and D bits need no update, a cached one re-read that is still the leaf and
grants the access, or a walk's (R386). -/
def State.leafFor (s : State) (core asid va : Nat) (store : Bool) (grants : Leaf → Bool) : Except Nat Leaf :=
  match s.cached core asid va with
  | some l =>
    if bitOf l.word.toNat 13 && (!store || bitOf l.word.toNat 12) then .ok l
    else
      let cur := s.view l.pte 8
      let now := { l with word := BitVec.ofNat 64 cur }
      if sameLeaf cur l.word.toNat && grants now then .ok now else s.walk asid va
  | none => s.walk asid va

/-- Put a translation into a cache of `cap` entries; a free value names the victim (R387: replacement is not stated). -/
def tlbInsert (l : List TlbEntry) (cap : Nat) (e : TlbEntry) (victim : Nat) : List TlbEntry :=
  let l := l.filter fun x => !(x.asid == e.asid && x.vpn == e.vpn && x.big == e.big)
  (if l.length < cap then l else l.eraseIdx (victim % cap)) ++ [e]

/-- Fill the three caches with a translation. -/
def State.fillTlbs (s : State) (core asid va : Nat) (l : Leaf) : State :=
  let e : TlbEntry := { asid := asid, vpn := if l.big then va / 2 ^ 21 * 32 else va / 2 ^ 16, big := l.big, leaf := l.word,
                        pte := l.pte }
  let (v, s) := s.draw
  let s := s.setCore core { s.core core with tlb := tlbInsert (s.core core).tlb 32 e v.toNat }
  let k := cellOf core
  let s := s.setCell k { s.cell k with tlb := tlbInsert (s.cell k).tlb 512 e v.toNat }
  let d := dieOf core
  s.setDie d { s.die d with tlb := tlbInsert (s.die d).tlb 16384 e v.toNat }

/-- Set A, and D for a store, where the entry has them clear: an AMO.OR at the entry's home, with its tag; an entry already set is not
written (R386). -/
def State.touchLeaf (s : State) (l : Leaf) (store : Bool) : Leaf × State :=
  let bits := 2 ^ 13 + if store then 2 ^ 12 else 0
  if bits ||| l.word.toNat = l.word.toNat then (l, s)
  else
    let cur := s.view l.pte 8
    let now : Leaf := { l with word := BitVec.ofNat 64 (bits ||| cur) }
    if bits ||| cur = cur then (now, s) else (now, (s.homeStore l.pte 8 (bits ||| cur) false).2)

/-! ## Permissions, modes, locks, regions -/

/-- The key slot of a leaf serves the mode and space (R393). -/
def State.keyOk (s : State) (mode : Mode) (asid key : Nat) : Bool :=
  match s.vault.find? key with
  | none => false
  | some k => mode != .user || k.any || k.owner == asid

/-- The detail bits of `XLATE_PERM`, zero when the access is granted (R386). -/
def State.permBits (s : State) (mode : Mode) (asid : Nat) (l : Leaf) (r w x : Bool) : Nat :=
  let n := l.word.toNat
  (r && !bitOf n 8).toNat + 2 * (w && !bitOf n 9).toNat + 4 * (mode == .user && !bitOf n 11).toNat +
    8 * (!s.keyOk mode asid l.key).toNat + 16 * (x && !bitOf n 10).toNat

/-- Whether two dies share a boundary (R10, R167). -/
def adjacent (a b : Nat) : Bool := a != b && a + b != 3

/-- The die whose copy of an RDUP page a core reads (R167). -/
def nearestCopy (mask die : Nat) : Nat :=
  if bitOf mask die then die
  else ((List.range 4).find? (fun d => bitOf mask d && adjacent d die)).getD
    (((List.range 4).find? (bitOf mask)).getD die)

/-- Whether a page mode refuses the access (R102, R161). `rdup` tells whether RDUP pages are accepted. -/
def modeRefuses (l : Leaf) (rdup : Bool) : Bool :=
  match targetOf l.base with
  | .hbm => match l.mode with
    | 0 | 1 | 4 => false
    | 2 => !rdup || l.mask == 0 || !bitOf l.mask (bitsOf l.base 39 38)
    | _ => true
  | _ => l.mode != 0 && l.mode != 1

/-- The first lock an access meets, with its entry (R94, R313): a store meets every kind, a load only a destination. -/
def lockHit (ls : SMap Lock) (word : Bool) (asid a n : Nat) (store : Bool) : Option (Nat × Lock) :=
  List.find? (fun e => e.2.word == word && (!word || e.2.asid == asid) && decide (e.2.lo < a + n && a ≤ e.2.hi) &&
    (store || e.2.kind == 1)) ls

/-- The address by which regions are compared: a virtual address, or a pool address in absolute form (R352, R353). -/
def Ea.regionAddr : Ea → Nat
  | .word va => va
  | .pool p => p.absolute.toNat

/-- Bytes of an element of a region (R351). -/
def Region.width (r : Region) : Nat := if r.fmt = 0 then 4 else 2

/-- The region whose primal range an access of `n` bytes meets (R353). -/
def regionOf (rs : SMap Region) (a n : Nat) : Option (Nat × Region) :=
  List.find? (fun e => decide (a < e.2.base + e.2.cnt * e.2.width && e.2.base < a + n)) rs

/-- The region whose adjoint range an access meets (R363). -/
def adjointOf (rs : SMap Region) (a n : Nat) : Option (Nat × Region) :=
  List.find? (fun e => decide (a < e.2.adj + 4 * e.2.cnt && e.2.adj < a + n)) rs

/-- The virtual address of an element's adjoint cell (R353). -/
def Region.cell (r : Region) (a : Nat) : Nat := r.adj + (a - r.base) / r.width * 4

/-- The region slots of a core as its contexts of a space see them (R352). -/
def State.regionsFor (s : State) (core asid : Nat) : SMap Region :=
  if (s.core core).padAsid = some asid then (s.core core).regions else s.regionTables.get asid []

/-! ## The phase for one access -/

/-- What an access asks of the phase: bytes, whether it must be aligned, permissions, the detail code by which it refuses pools
and the one by which it refuses host and remote memory, whether it accepts remote memory all the same, whether it accepts RDUP pages, whether locks see it as a store, whether
they see it at all, and whether an element of a region may be reached. -/
structure Need where
  n : Nat
  align : Bool := true
  r : Bool := false
  w : Bool := false
  noPool : Option Nat := none
  onlyDevice : Option Nat := none
  remote : Bool := false
  rdup : Bool := false
  store : Bool := false
  locks : Bool := true
  deriving DecidableEq, Repr

/-- A place that the phase has accepted: its lane, target, leaf, and the region in which its address lies (R353). -/
structure Place where
  lane : Lane
  target : Machine.Backing
  far : Bool
  leaf : Option Leaf
  region : Option (Nat × Region)
  deriving DecidableEq, Repr

/-- The bank's check of a pool access (R93): the detail code of a refusal. -/
def State.bankRefuses (s : State) (core off n asid : Nat) : Option Nat :=
  let q := s.core core
  match q.split with
  | none => some 4
  | some (reg, pad) =>
    if off < reg || pad < off + n then some 4
    else if q.padAsid ≠ some asid then some 5 else none

/-- Whether a core of a fenced or resetting cell takes no access (R389, R390). -/
def State.coreGone (s : State) (core : Nat) : Bool :=
  (s.core core).fenced || (s.cell (cellOf core)).fenced || (s.cell (cellOf core)).resetUntil.isSome

/-- A pool access: the checks made in the phase when the owner lies in the issuing core's sector (R93, R94, R98). -/
def State.placePool (s : State) (c : Ctx) (need : Need) (idx : Nat) (a : Word) (p : PoolAddr) : Except Stop Place :=
  let q := p.pkgCore
  let far := sectorOf (cellOf q) != sectorOf (cellOf c.core)
  let ua := poolBase q + p.off
  let ok : Place := { lane := ⟨ua, p.absolute.toNat, need.n, idx, 0, 0, 0, 0, false⟩, target := .hbm, far := far, leaf := none,
                      region := regionOf (s.regionsFor c.core c.asid) p.absolute.toNat 1 }
  match need.noPool with
  | some code => .error (spaceTrap code a idx)
  | none =>
    if need.align && p.off % need.n != 0 then .error (.trap ⟨trapAddrAlign, need.n, idx, a⟩)
    else if far then .ok ok
    else match s.bankRefuses q p.off need.n c.asid with
      | some code => .error (spaceTrap code a idx)
      | none =>
        match lockHit (s.cell (cellOf q)).locks false c.asid ua need.n need.store with
        | some (k, l) => if l.kind == 2 then .error (.source (cellOf q) k)
            else .error (.trap ⟨trapRangeLocked, k, idx, a⟩)
        | none => .ok ok

/-- A translated access (R98, steps 2 to 5). -/
def State.placeWord (s : State) (c : Ctx) (need : Need) (idx : Nat) (a : Word) (va : Nat) : Except Stop Place :=
  if need.align && va % need.n != 0 then .error (.trap ⟨trapAddrAlign, need.n, idx, a⟩)
  else match s.leafFor c.core c.asid va need.w (fun l => s.permBits c.mode c.asid l need.r need.w false == 0) with
    | .error level => .error (.trap ⟨trapXlateMiss, level, idx, BitVec.ofNat 64 va⟩)
    | .ok l =>
      let bits := s.permBits c.mode c.asid l need.r need.w false
      if bits ≠ 0 then .error (.trap ⟨trapXlatePerm, bits, idx, BitVec.ofNat 64 va⟩)
      else if modeRefuses l need.rdup then .error (.trap ⟨trapPageMode, l.mode, idx, BitVec.ofNat 64 va⟩)
      else
        let t := targetOf l.base
        let pa := l.pa va
        let pa := if t = .hbm ∧ l.mode = 2 then pa % 2 ^ 38 + 2 ^ 38 * nearestCopy l.mask (dieOf c.core) else pa
        match (if t = .hbm || (need.remote && t ≠ .host) then none else need.onlyDevice) with
        | some code => .error (spaceTrap code a idx)
        | none =>
          match (if need.locks then lockHit (s.cell (cellOf c.core)).locks true c.asid va need.n need.store else none) with
          | some (k, _) => .error (.trap ⟨trapRangeLocked, k, idx, a⟩)
          | none => .ok { lane := ⟨pa, va, need.n, idx, l.key, l.mode, 0, 0, false⟩, target := t, far := false, leaf := some l,
                          region := regionOf (s.regionsFor c.core c.asid) va 1 }

/-- The phase of one access or lane, but for the tape bound and the update of A and D (R98). -/
def State.place (s : State) (c : Ctx) (need : Need) (idx : Nat) (base : Word) (disp : Int) : Except Stop Place :=
  match resolve c.core base disp idx with
  | .error e => .error e
  | .ok (.word va) => s.placeWord c need idx (formed base disp) va
  | .ok (.pool p) => s.placePool c need idx (formed base disp) p

/-- The step of R98 at which a check stands. A refusal with code 6 is the space check's where the address is a pool address, and
follows the page mode where it is a host or remote one (log 12). -/
def Stop.step : Stop → Nat
  | .source _ _ => 5
  | .trap t =>
    if t.code = trapAddrSpace then
      if t.detail < 4 then 1 else if t.detail < 6 then 5 else if t.addr.getLsbD 63 then 1 else 4
    else if t.code = trapAddrAlign then 2
    else if t.code = trapXlateMiss ∨ t.code = trapXlatePerm then 3
    else if t.code = trapPageMode then 4
    else if t.code = trapRangeLocked then 5 else 6

/-- The check that an access reports among those that its lanes fail, listed in lane order: the earliest step of R98, then the
lowest lane (R100; log 12). -/
def firstStop : List Stop → Option Stop
  | [] => none
  | e :: r => match firstStop r with
    | none => some e
    | some x => if e.step ≤ x.step then some e else some x

/-- The failed checks among the lanes' results. -/
def stopsOf {α : Type} (rs : List (Except Stop α)) : List Stop := rs.filterMap fun
  | .error e => some e
  | .ok _ => none

/-- The phase of several lanes: all pass, or one check is reported (R98, R100). -/
def allPass {α : Type} (rs : List (Except Stop α)) : Except Stop (List α) :=
  match firstStop (stopsOf rs) with
  | some e => .error e
  | none => .ok (rs.filterMap fun
    | .ok p => some p
    | .error _ => none)

/-- The phase of several lanes of one kind (R98, R100). -/
def placeAll (f : Nat → Except Stop Place) (is : List Nat) : Except Stop (List Place) := allPass (is.map f)

/-- `DIFF_SHAPE` of a region slot (R110). -/
def shapeTrap (slot lane : Nat) (a : Nat) : Trap := ⟨trapDiffShape, slot, lane, BitVec.ofNat 64 a⟩

/-- The end of the phase for a passed place: translation caches, then A and D (R98 step 7, R386). -/
def State.settle (s : State) (core asid : Nat) (store : Bool) (p : Place) : State :=
  match p.leaf with
  | none => s
  | some l =>
    let (l, s) := s.touchLeaf l store
    s.fillTlbs core asid p.lane.va l

/-- The end of the phase for every lane. -/
def State.settleAll (s : State) (core asid : Nat) (store : Bool) (ps : List Place) : State :=
  ps.foldl (fun s p => s.settle core asid store p) s

/-- Whether the copy of a TLDP source has been asked for and goes on. -/
def State.copying (s : State) (cell entry : Nat) : Bool :=
  let hit (e : Event) : Bool := match e with
    | .poolSourceCopy c k => c == cell && k == entry
    | _ => false
  s.pending.any hit || s.due.any hit || s.timers.any fun e => hit e.2

/-- The copy of a TLDP source is asked for, once (R266). -/
def State.startCopy (s : State) (cell entry : Nat) : State :=
  if s.copying cell entry then s else s.postFront (.poolSourceCopy cell entry)

/-- What a failed phase does to the issuing thread: the trap, or the wait for the copy of a TLDP source (R94, R98). -/
def State.stopMe (s : State) : Stop → State
  | .trap t => s.trapMe t
  | .source cell entry => (s.startCopy cell entry).parkMe (.lock cell entry)

/-- The issuing thread as the source of a request (R138). -/
def State.src (s : State) : Src := ⟨s.cur, s.me.core, s.me.asid, s.me.pc⟩

end Sys2Proof.Machine
end

