-- ==== Sys2Proof/Machine/Cache.lean ====
section
/-! DEFINITION. The pool cache of a core (R96): lookup, allocation and eviction, stores, write-backs, self-invalidation (R129); and
the requests that leave the core: grouping of lanes by line, loads and the place where each lane binds (R95, R97, R106). -/

namespace Sys2Proof.Machine

/-! ## Lines -/

/-- Sets of a core's pool cache: one for each KiB of its cache region (R96). -/
def State.cacheSets (s : State) (core : Nat) : Nat :=
  match (s.core core).split with
  | none => 0
  | some (_, pad) => (Config.poolBytes - pad) / 1024

/-- The tag of a line: its number and the key slot of its page (R96). -/
def tagOf (line key : Nat) : Nat := 128 * line + key % 128

/-- The line of a tag. -/
def tagLine (tag : Nat) : Nat := tag / 128

/-- The tag under which a lane's line is cached. -/
def laneTag (l : Lane) : Nat := tagOf (lineOf l.pa) l.key

/-- A line of a core's pool cache, by tag. -/
def State.cacheLine (s : State) (core tag : Nat) : Option CacheLine := (s.core core).cache.find? tag

/-- Put a line, as the most recently used. -/
def State.putLine (s : State) (core tag : Nat) (l : CacheLine) : State :=
  let q := s.core core
  s.setCore core { q with cache := q.cache.set tag { l with used := q.uses }, uses := q.uses + 1 }

/-- Change a line without using it. -/
def State.keepLine (s : State) (core tag : Nat) (l : CacheLine) : State :=
  let q := s.core core
  s.setCore core { q with cache := q.cache.set tag l }

/-- A load hit makes its line the most recently used (R96). -/
def State.touchLine (s : State) (core tag : Nat) : State :=
  match s.cacheLine core tag with
  | none => s
  | some l => s.putLine core tag l

/-- Drop a line. -/
def State.dropLine (s : State) (core tag : Nat) : State :=
  let q := s.core core
  s.setCore core { q with cache := q.cache.erase tag }

/-- A fill of a core does not install the lines that the test names (log 13). -/
def quietFill (r : FillReq) (core : Nat) (p : Nat → Bool) : FillReq :=
  if r.req.src.core == core then { r with skip := r.skip ++ (r.req.lanes.map fun l => lineOf l.pa).filter p } else r

/-- The same for a fill that a page operation holds. -/
def quietHeld (h : Held) (core : Nat) (p : Nat → Bool) : Held :=
  match h with
  | .fill r => .fill (quietFill r core p)
  | h => h

/-- The same for a fill in flight. -/
def quietEvent (e : Event) (core : Nat) (p : Nat → Bool) : Event :=
  match e with
  | .fillAtHome r => .fillAtHome (quietFill r core p)
  | .lineFillArrival q ls => if q.src.core == core then .lineFillArrival q (ls.filter fun l => !p l.1) else e
  | .pageQueueRetry d k w h => .pageQueueRetry d k w (quietHeld h core p)
  | e => e

/-- Keep fills of some lines that are on their way, or held at a page operation, from installing. -/
def State.noInstall (s : State) (core : Nat) (p : Nat → Bool) : State :=
  let quiet (d : Die) : Die := { d with pages := d.pages.map fun r => (r.1, { r.2 with queue := r.2.queue.map (quietHeld · core p) }) }
  { s with pending := s.pending.map (quietEvent · core p), due := s.due.map (quietEvent · core p),
           timers := s.timers.map fun e => (e.1, quietEvent e.2 core p), dies := s.dies.map fun e => (e.1, quiet e.2) }

/-- Post the write-back of a line's dirty bytes; with a thread it counts in the thread's `ACKC` (R96, R97). A fill of the line that
is still in flight is older than these bytes, and does not install. -/
def State.postWriteBack (s : State) (tid : Option Nat) (core tag : Nat) (l : CacheLine) : State :=
  if l.dirty = 0 then s
  else
    let s := s.noInstall core (· == tagLine tag)
    let s := s.post (.writeBackMerge tid core (tagLine tag) l.key l.data l.dirty l.nc l.pois)
    match tid with
    | none => s
    | some t => s.modCtx t fun c => { c with ackc := c.ackc + 1 }

/-- Write back a line's dirty bytes and keep it clean. -/
def State.cleanLine (s : State) (tid : Option Nat) (core tag : Nat) : State :=
  match s.cacheLine core tag with
  | none => s
  | some l => (s.postWriteBack tid core tag l).keepLine core tag { l with dirty := 0, writers := 0 }

/-- Write back a line's dirty bytes and discard it. -/
def State.flushLine (s : State) (tid : Option Nat) (core tag : Nat) : State :=
  match s.cacheLine core tag with
  | none => s
  | some l => (s.postWriteBack tid core tag l).dropLine core tag

/-- The least recently used line among some. -/
def oldestLine : List (Nat × CacheLine) → Option Nat
  | [] => none
  | e :: r => match oldestLine r with
    | none => some e.1
    | some k => match List.find? (fun x => x.1 == k) r with
      | some x => if e.2.used ≤ x.2.used then some e.1 else some k
      | none => some e.1

/-- Make room for a line in its set, which does not depend on its key: the least recently used of eight leaves (R96). -/
def State.cacheRoom (s : State) (core tag : Nat) : State :=
  let n := s.cacheSets core
  if (s.cacheLine core tag).isSome then s
  else
    let peers := (s.core core).cache.filter fun e => tagLine e.1 % n = tagLine tag % n
    if peers.length < 8 then s
    else match oldestLine peers with
      | some k => s.flushLine none core k
      | none => s

/-- A line with nothing valid. -/
def CacheLine.empty (key : Nat) (nc : Bool) : CacheLine :=
  { data := 0, valid := 0, dirty := 0, pois := 0, writers := 0, key := key, nc := nc, used := 0 }

/-- The words of a line that a byte mask covers whole. -/
def wholeWords (mask : BitVec 128) : BitVec 16 :=
  BitVec.ofNat 16 (ofLanes 1 ((List.range 16).map fun i => (bitsOf mask.toNat (8 * i + 7) (8 * i) == 255).toNat))

/-- The words of a line that `n` bytes from an offset on touch. -/
def touchedWords (off n : Nat) : BitVec 16 :=
  BitVec.ofNat 16 (ofLanes 1 ((List.range 16).map fun i => (decide (8 * i < off + n) && decide (off < 8 * i + 8)).toNat))

/-- The marks of a line's words after `n` bytes at an offset are written: a marked write marks every word it touches, another removes the
mark of each word that it covers whole (R101; log 2). -/
def marksAfter (old : BitVec 16) (off n : Nat) (bad : Bool) : BitVec 16 :=
  if bad then old ||| touchedWords off n else old &&& ~~~wholeWords (BitVec.ofNat 128 (byteMask off n))

/-- Marks after a merge: words the mask covers whole take the line's mark, others keep theirs (R101). -/
def mergeMarks (old new : BitVec 16) (mask : BitVec 128) : BitVec 16 := (old &&& ~~~wholeWords mask) ||| (new &&& wholeWords mask)

/-- Write bytes into a line, a plain store: valid and dirty, no fetch (R96). -/
def CacheLine.store (l : CacheLine) (slot : Nat) (off n v : Nat) : CacheLine :=
  let m := BitVec.ofNat 128 (byteMask off n)
  { l with data := BitVec.ofNat 1024 (mergeBytes 128 l.data.toNat (v * 2 ^ (8 * off)) m.toNat), valid := l.valid ||| m,
           dirty := l.dirty ||| m, pois := l.pois &&& ~~~wholeWords m, writers := l.writers ||| BitVec.twoPow 16 slot }

/-- A plain store of one lane into the core's pool cache (R96). -/
def State.storeCached (s : State) (core slot : Nat) (l : Lane) (v : Nat) : State :=
  let s := s.cacheRoom core (laneTag l)
  let e := (s.cacheLine core (laneTag l)).getD (CacheLine.empty l.key (l.mode == 1))
  s.putLine core (laneTag l) (e.store slot (l.pa % 128) l.n v)

/-- A write-through store updates the bytes of a line the core holds, and their marks, and never allocates (R97, R101). -/
def State.updateCached (s : State) (core : Nat) (l : Lane) (v : Nat) : State :=
  match s.cacheLine core (laneTag l) with
  | none => s
  | some e =>
    let m := BitVec.ofNat 128 (byteMask (l.pa % 128) l.n)
    s.putLine core (laneTag l) { e with
      data := BitVec.ofNat 1024 (mergeBytes 128 e.data.toNat (v * 2 ^ (8 * (l.pa % 128))) m.toNat),
      valid := e.valid ||| m, pois := marksAfter e.pois (l.pa % 128) l.n l.bad }

/-- Fill a line from its home: the bytes that are not dirty, and the marks of the words that are not dirty throughout (R96, R101). -/
def State.fillCached (s : State) (core line key mode : Nat) (data : BitVec 1024) (pois : BitVec 16) : State :=
  if s.cacheSets core = 0 then s
  else
    let s := s.cacheRoom core (tagOf line key)
    let e := (s.cacheLine core (tagOf line key)).getD (CacheLine.empty key (mode == 1))
    s.putLine core (tagOf line key) { e with
      data := BitVec.ofNat 1024 (mergeBytes 128 data.toNat e.data.toNat e.dirty.toNat), valid := BitVec.allOnes 128,
      pois := mergeMarks pois e.pois e.dirty }

/-- Clear the valid bits of the bytes that are not dirty, and the marks of the words that these bytes belong to. -/
def CacheLine.keepDirty (l : CacheLine) : CacheLine := { l with valid := l.dirty, pois := l.pois &&& wholeWords l.dirty }

/-- SelfInvalidateClean: the valid bits of every byte that is not dirty (R112, R129). -/
def State.selfInvalidate (s : State) (core : Nat) : State :=
  let q := s.core core
  let s := s.setCore core { q with cache := (q.cache.filter fun e => e.2.dirty ≠ 0).map fun e =>
    (e.1, e.2.keepDirty) }
  s.noInstall core (fun _ => true)

/-- Write back every dirty line of a core that satisfies a test, keeping the lines (R112, R128, R144). -/
def State.cleanAll (s : State) (tid : Option Nat) (core : Nat) (p : CacheLine → Bool) : State :=
  ((s.core core).cache.filter fun e => e.2.dirty ≠ 0 && p e.2).foldl (fun s e => s.cleanLine tid core e.1) s

/-- The tags under which a core holds some lines. -/
def State.heldTags (s : State) (core : Nat) (lines : List Nat) : List Nat :=
  ((s.core core).cache.map Prod.fst).filter fun t => lines.contains (tagLine t)

/-- Whether a core's pool cache holds a line, under any key. -/
def State.holdsLine (s : State) (core line : Nat) : Bool := !(s.heldTags core [line]).isEmpty

/-- Before an atomic leaves, the core writes back and discards the lines it touches (R116). -/
def State.yieldLines (s : State) (core : Nat) (lines : List Nat) : State :=
  ((s.heldTags core lines).foldl (fun s t => s.flushLine none core t) s).noInstall core (fun l => lines.contains l)

/-- Whether a write-back of a core is in flight (R144). -/
def State.writingBack (s : State) (core : Nat) : Bool :=
  s.pending.any fun e => match e with
    | .writeBackMerge _ q _ _ _ _ _ _ => q == core
    | _ => false

/-! ## Requests -/

/-- Whether a request is the fetch of a line that its context does not wait for any more. -/
def State.stale (s : State) (q : MemReq) : Bool :=
  match q.dst with
  | .code n => (s.ctx q.src.tid).park ≠ some (.fetch n)
  | .none | .x _ _ _ | .v _ _ | .buf | .decl _ => false

/-- The contexts of a core that wait for a line which the test names, by space and line address, ask for it anew: what they asked for
was read through a translation, or from bytes, that are gone (R34, R148, R402). -/
def State.refetch (s : State) (core : Nat) (p : Nat → Word → Bool) : State :=
  { s with threads := s.threads.map fun e => (e.1, match e.2.park with
    | some (.fetch _) => if e.2.core == core && p e.2.asid (e.2.pc &&& ~~~63#64) then { e.2 with park := none } else e.2
    | _ => e.2) }

/-- Whether every byte of a lane is bound. -/
def laneBound (l : Lane) : Bool := l.kmask == 2 ^ l.n - 1

/-- The lines that lanes of device memory touch. -/
def linesOf (ls : List Lane) : List Nat := ((ls.filter fun l => !isPool l.pa).map fun l => lineOf l.pa).dedup

/-- Bind bytes of a lane that are not bound yet. -/
def laneBind (l : Lane) (v mask : Nat) (bad : Bool) : Lane :=
  { l with kval := mergeBytes l.n v l.kval l.kmask, kmask := l.kmask ||| (mask % 2 ^ l.n), bad := l.bad || bad }

/-- Bind what a core's pool cache holds of a lane: all of it where every byte is valid, else only the dirty bytes, which a fill
leaves as they are; the others come from one read of the line, so that a lane is never torn (R96, R115). -/
def State.bindCached (s : State) (core : Nat) (l : Lane) : Lane :=
  if isPool l.pa then l
  else match s.cacheLine core (laneTag l) with
    | none => l
    | some e =>
      let off := l.pa % 128
      let valid := e.valid.toNat / 2 ^ off % 2 ^ l.n
      let m := if valid = 2 ^ l.n - 1 then valid else e.dirty.toNat / 2 ^ off % 2 ^ l.n
      laneBind l (e.data.toNat / 2 ^ (8 * off)) m
        (m != 0 && (wordsOf off l.n).any (fun w => e.pois.getLsbD w))

/-- The value of a register from a load's lanes (R105, R106). A poisoned register holds the address of the lane that met the mark, the
lowest of them, a pool address in absolute form (R101; log 60). -/
def loadWrites (d : Dst) (ls : List Lane) : List RegWrite :=
  match d with
  | .none => []
  | .x r n signed =>
    let v := (ls.headD ⟨0, 0, 0, 0, 0, 0, 0, 0, false⟩).kval
    let l := ls.headD ⟨0, 0, 0, 0, 0, 0, 0, 0, false⟩
    [.x r (if signed then sextWord (8 * n) v else BitVec.ofNat 64 v)
      (if l.bad then some (BitVec.ofNat 64 l.va) else none)]
  | .v r w =>
    let v := ls.foldl (fun acc l => acc + l.kval * 2 ^ (8 * w * l.idx)) 0
    let m := ls.foldl (fun acc l => acc ||| byteMask (w * l.idx) w) 0
    [.v r (BitVec.ofNat 512 v) (BitVec.ofNat 64 m) ((ls.find? Lane.bad).map fun l => BitVec.ofNat 64 l.va)]
  | .buf => [.buf (ls.flatMap fun l => bytesOf l.n l.kval) (ls.map Lane.bad)]
  | .code _ => []
  | .decl a => [.decl a (ls.flatMap fun l => bytesOf l.n l.kval)]

/-- A reply that writes registers, for an instruction that is complete already or that waits parked. -/
def Reply.of (tid : Nat) (ws : List RegWrite) (complete : Bool) : Reply :=
  { tid := tid, writes := ws, nfs := false, sats := false, acquire := false, complete := complete }

/-- Where a lane that is not bound must go (R95): 0 nowhere, 1 a pool of the sector, 2 a pool beyond it, 3 its home, 4 the
bridge, 5 another device. -/
def laneRoute (core : Nat) (l : Lane) : Nat :=
  if laneBound l then 0
  else if isPool l.pa then (if sectorOf (cellOf (poolCore l.pa)) = sectorOf (cellOf core) then 1 else 2)
  else match targetOf l.pa with
    | .hbm => 3
    | .host => 4
    | _ => 5

/-- Bind the lanes that lie in pools of the core's sector: the bank performs them now (R95); one whose core is gone answers zero (R389,
R390). -/
def State.bindNear (s : State) (core : Nat) (l : Lane) : Lane :=
  if laneRoute core l = 1 then
    if s.coreGone (poolCore l.pa) then laneBind l 0 (2 ^ l.n - 1) false else laneBind l (s.read l.pa l.n) (2 ^ l.n - 1) (s.poisonAt l.pa l.n) else l

/-- Send a load on: to the next place that binds some of its lanes, or back to the register when all are bound (R95). A load that
was issued before goes ahead of the messages posted since, so that it keeps its place in the order of its core (R115). -/
def State.routeLoad (s : State) (q : MemReq) (first : Bool := false) : State :=
  let ls := q.lanes.map (s.bindNear q.src.core)
  let q := { q with lanes := ls }
  let rs := ls.map (laneRoute q.src.core)
  let post (s : State) (e : Event) : State := if first then s.post e else s.postFront e
  if rs.contains 2 then post s (.poolBankAccess q .load)
  else if rs.contains 3 then post s (.fillAtHome ⟨q, []⟩)
  else if rs.contains 4 then post s (.bridgeDeviceAccess q .load)
  else if rs.contains 5 then s.remoteLoad q
  else match q.dst with
    | .none => s
    | .code n => s.post (.lineFetchArrival q.src.tid ⟨n, ls.flatMap fun l => bytesOf l.n l.kval⟩)
    | d => s.post (.longResultArrival (Reply.of q.src.tid (loadWrites d ls) q.parked))

/-- Lanes that follow one another on one line, or in one pool, with their values: each run is one message (R97; log 14). -/
def runsOf : List (Lane × Nat) → List (List (Lane × Nat))
  | [] => []
  | x :: r => match runsOf r with
    | (y :: ys) :: gs => if lineOf x.1.pa = lineOf y.1.pa then (x :: y :: ys) :: gs else [x] :: (y :: ys) :: gs
    | gs => [x] :: gs

/-- Raise a thread's `ACKC`. -/
def State.addAck (s : State) (tid n : Nat) : State := s.modCtx tid fun c => { c with ackc := c.ackc + n }

/-- Post one message of a write-through store (R97). -/
def State.postThrough (s : State) (src : Src) (g : List (Lane × Nat)) : State :=
  let q : MemReq := ⟨src, g.map Prod.fst, .none, true, false⟩
  let s := g.foldl (fun s e => s.updateCached src.core e.1 e.2) s
  let s := s.noInstall src.core (fun l => (linesOf q.lanes).contains l)
  match g with
  | [] => s
  | (l, _) :: _ => match laneRoute src.core { l with kmask := 0 } with
    | 3 => (s.addAck src.tid 1).post (.writeThroughAtHome q (g.map Prod.snd))
    | 1 | 2 => (s.addAck src.tid 1).post (.poolBankAccess q (.store (g.map Prod.snd) true))
    | 4 => (s.addAck src.tid 1).post (.bridgeDeviceAccess q (.store (g.map Prod.snd) true))
    | _ => g.foldl (fun s e => s.remoteStore src e.1 e.2) (s.addAck src.tid g.length)

/-- A write-through store of lanes and values. -/
def State.writeThrough (s : State) (src : Src) (ls : List (Lane × Nat)) : State :=
  (runsOf ls).foldl (fun s g => s.postThrough src g) s

/-- Perform one lane of a forward store that pushes nothing: in the pool cache at once, or as a write-through store, as one to a page
in TRANSITION is, which the pool cache does not take (R102, R170); to a bank of the sector it is on its way, and the context's next access finds it performed (R96, R97, R140, R160). -/
def State.storeLane (s : State) (src : Src) (slot : Nat) (wt : Bool) (l : Lane) (v : Nat) : Option State :=
  match laneRoute src.core { l with kmask := 0 } with
  | 1 => some (s.post (.poolBankAccess ⟨src, [l], .none, true, false⟩ (.store [v] false)))
  | 3 => if wt || s.cacheSets src.core == 0 || (s.pageHolding l.pa).isSome then none else some (s.storeCached src.core slot l v)
  | _ => none

/-- A forward store of lanes in ascending order (R106, R107): what cannot be performed at once goes out as write-through. -/
def State.storeLanes (s : State) (src : Src) (slot : Nat) (wt : Bool) (ls : List (Lane × Nat)) : State :=
  let r := ls.foldl (fun (a : State × List (Lane × Nat)) e =>
    match a.1.storeLane src slot wt e.1 e.2 with
    | some s => (s, a.2)
    | none => (a.1, a.2 ++ [e])) (s, [])
  r.1.writeThrough src r.2

end Sys2Proof.Machine
end

