-- ==== Sys2Proof/Machine/Image.lean ====
section
/-! DEFINITION. Context images (R380 to R383): the lines of a thread's image as they stand in its arena, which lines a core's register
region holds, and their write-back. A thread's registers stand in `Ctx`; a line of the arena is written from it. -/

namespace Sys2Proof.Machine

/-! ## Lines (R380) -/

/-- Registers of 8 bytes. -/
def wordBytes (ws : List Nat) : List Byte := ws.flatMap (bytesOf 8)

/-- A line filled up with zeros. -/
def padLine (bs : List Byte) : List Byte := bs ++ List.replicate (128 - bs.length) 0

/-- `IMSTATE` (R380). -/
def ImState.code : ImState → Nat
  | .free => 0
  | .resident => 1
  | .suspended => 2
  | .held => 3
  | .killed => 4

/-- A handle in its 2 bytes (R380): the kinds in the order in which R250 gives them. -/
def handleCode : Handle → Nat
  | .empty => 0
  | .version _ => 2 ^ 14
  | .node i => 2 ^ 15 + i % 32

/-- The key of a VERSION handle in its 8 bytes; zero for any other (R380). -/
def handleKey : Handle → Nat
  | .version r => r.key.arr % 65536 * 2 ^ 48 + r.key.i % 4096 * 2 ^ 36 + r.key.j % 4096 * 2 ^ 24 + r.key.ver % 2 ^ 24
  | _ => 0

/-- The poison bits of x1 to x23 (R380). -/
def Ctx.poisonBits (c : Ctx) : Nat := ofLanes 1 ((List.range 23).map fun i => (c.xPois.find? (i + 1)).isSome.toNat)

/-- Line `n` of a thread's image; `free` gives the bytes whose layout the spec does not give (log 7). -/
def Ctx.imageLine (c : Ctx) (n : Nat) (free : Nat → Byte) : List Byte :=
  match n with
  | 0 =>
    bytesOf 4 c.imvalid.toNat ++ bytesOf 1 c.imstate.code ++ bytesOf 1 c.mode.code.toNat ++ bytesOf 2 0 ++
      wordBytes [c.thid.toNat, c.rcb.toNat, c.pc.toNat] ++ bytesOf 4 c.pred.toNat ++ bytesOf 4 c.telout ++
      wordBytes [c.srkey.toNat, c.srctr.toNat] ++ bytesOf 4 c.anon ++ bytesOf 4 c.poisonBits ++
      (List.range 32).map free ++ bytesOf 32 (Config.pendingBytes c.xPend c.vPend c.kPend c.pPend).toNat
  | 1 => wordBytes ((List.range 16).map fun i => (c.x[i + 1]?.getD 0).toNat)
  | 2 => padLine (wordBytes ((List.range 7).map fun i => (c.x[i + 17]?.getD 0).toNat))
  | 3 => padLine (wordBytes [c.evid.toNat, c.evpc.toNat, c.uehnd.toNat, c.tapeb.toNat, c.tapel.toNat, c.tapep.toNat, c.thpc.toNat,
      c.thcause.toNat, c.fltpc.toNat, c.fltaddr.toNat, c.fltcode.toNat, c.uthnd.toNat, c.parkLimit, c.kentry.toNat,
      c.khregs % 256 + 256 * (c.khvec % 256)])
  | 8 => (List.range 4).flatMap (fun i => bytesOf 16 (c.k[i]?.getD 0).toNat) ++ c.handles.toList.flatMap fun h => bytesOf 2 (handleCode h)
  | 29 => padLine (wordBytes [c.sepc.toNat, c.scause.toNat, c.saddr.toNat, c.sstat.toNat, c.sscr0.toNat, c.sscr1.toNat, c.fepc.toNat,
      c.fcause.toNat, c.fstat.toNat])
  | 30 => wordBytes ((c.handles.toList.take 16).map handleKey)
  | 31 => wordBytes ((c.handles.toList.drop 16).map handleKey)
  | n =>
    if n < 8 then (List.range 2).flatMap fun i => bytesOf 64 (c.v[2 * (n - 4) + i]?.getD 0).toNat
    else if n < 25 then (List.range 128).map free
    else padLine (((c.events.drop (8 * (n - 25))).take 8).flatMap fun e => wordBytes [e.1.toNat, e.2.toNat])

/-- The bytes of a line that the thread's registers determine: those of the blocked-wait record and of the nodes are free. -/
def imageKnown (n : Nat) (bs : List Byte) : List Byte := if n = 0 then bs.take 64 ++ bs.drop 96 else if 9 ≤ n ∧ n < 25 then [] else bs

/-! ## The arena and the register region (R381) -/

/-- The lines of thunk nodes, whose bytes are reserved to hardware: `nodesAt` says what those of the arena hold. -/
def nodeLine (n : Nat) : Bool := decide (9 ≤ n ∧ n < 25)

/-- The entries of the thunk table in a line of nodes. -/
def nodesOf (n : Nat) : List Nat := [2 * (n - 9), 2 * (n - 9) + 1]

/-- Whether the arena's line is what the thread's registers give, so far as they give it. The bytes of `IMVALID` and `IMSTATE` are
written as they change. -/
def State.imageSame (s : State) (tid n : Nat) : Bool :=
  let c := s.ctx tid
  c.imvalid.getLsbD n && (if nodeLine n then (nodesOf n).all fun i => c.thunks.find? i == c.nodesAt.find? i
    else imageKnown n (c.imageLine n fun _ => 0) == imageKnown n (s.readBytes (tid + 128 * n) 128))

/-- The nodes that a line of the arena holds once it is written. -/
def Ctx.keepNodes (c : Ctx) (n : Nat) : Ctx :=
  if nodeLine n then
    { c with nodesAt := (nodesOf n).foldl (fun (m : SMap Node) i => match c.thunks.find? i with
        | some x => m.set i x
        | none => m.erase i) c.nodesAt }
  else c

/-- Whether a line of an image holds something else than before, `IMVALID` and `IMSTATE` apart. -/
def lineChanged (old new : Ctx) (n : Nat) : Bool :=
  if nodeLine n then (nodesOf n).any fun i => new.thunks.find? i != old.thunks.find? i
  else if n = 0 then (new.imageLine 0 fun _ => 0).drop 5 != (old.imageLine 0 fun _ => 0).drop 5
  else (new.imageLine n fun _ => 0) != (old.imageLine n fun _ => 0)

/-- The bytes of `IMVALID` and `IMSTATE` in the arena. -/
def State.writeHeader (s : State) (tid : Nat) : State :=
  s.writeBytes tid (((s.ctx tid).imageLine 0 fun _ => 0).take 5)

/-- Write a line of an image to its arena and set its `IMVALID` bit (R381). -/
def State.putImageLine (s : State) (tid n : Nat) : State :=
  let (_, s) := s.draw
  let s := s.modCtx tid fun c => { c.keepNodes n with imvalid := c.imvalid ||| BitVec.twoPow 32 n }
  let s := s.writeBytes (tid + 128 * n) ((s.ctx tid).imageLine n (Config.imageByte s.draws))
  (s.cleanse (tid + 128 * n) 128).writeHeader tid

/-- The lines of an image that a register region holds. -/
def Ctx.heldLines (c : Ctx) : List Nat := (List.range 32).filter c.held.getLsbD

/-- The held lines that differ from the arena: the dirty ones (R381; log 18). -/
def State.dirtyLines (s : State) (tid : Nat) : List Nat := (s.ctx tid).heldLines.filter fun n => !s.imageSame tid n

/-- Write back every dirty line of an image (R381, R403). -/
def State.writeBackImage (s : State) (tid : Nat) : State := (s.dirtyLines tid).foldl (fun s n => s.putImageLine tid n) s

/-- The region gives up the lines of an image after writing back the dirty ones (R445). -/
def State.dropImage (s : State) (tid : Nat) : State := (s.writeBackImage tid).modCtx tid fun c => { c with held := 0 }

/-- After a step: the lines of images whose registers have changed since are no longer current in their arenas (R380). -/
def State.staleLines (s old : State) : State :=
  s.threads.foldl (fun (t : State) (e : Nat × Ctx) =>
    if e.2.imvalid == 0#32 || old.threads.find? e.1 == some e.2 then t
    else
      let c := old.ctx e.1
      match (List.range 32).filter fun n => e.2.imvalid.getLsbD n && lineChanged c e.2 n && !s.imageSame e.1 n with
      | [] => t
      | ns => (t.modCtx e.1 fun d => { d with imvalid := ns.foldl (fun m n => m &&& ~~~BitVec.twoPow 32 n) d.imvalid }).writeHeader e.1) s

/-- A thread that is not resident has changed: its lines that no region holds are brought up to date in the arena (R201, R381). -/
def State.syncImage (s : State) (tid : Nat) : State :=
  let c := s.ctx tid
  match c.imstate with
  | .suspended | .held =>
    (((List.range 32).filter fun n => !c.held.getLsbD n && !s.imageSame tid n).foldl (fun s n => s.putImageLine tid n) s).writeHeader tid
  | _ => s

end Sys2Proof.Machine
end

