-- ==== Sys2Proof/Machine/Sched.lean ====
section
/-! DEFINITION. Wake (R7, R337): the end of a wait of a thread that may have been suspended meanwhile; its ready record (R331, R332);
and the fields of its RCB as hardware reads them (R323). -/

namespace Sys2Proof.Machine

/-- The ready record of an existing thread (R331); it keeps the stamp of its task (R334). -/
def State.readyRecord (s : State) (tid : Nat) (pinned : Option Nat) : TaskRec :=
  let c := s.ctx tid
  { entry := c.pc, own := c.pc, rcb := c.rcb.toNat, asid := c.asid, ltn := c.ltn, flags := 0, opnd := 0, args := [], stamp := c.stamp,
    superv := c.mode != .user, service := c.service, thread := some tid, pinned := pinned, bypass := 0,
    probed := false, hit := false, load := none }

/-- Queue a suspended thread at the dispatcher of the sector where it last ran, once (R332, R337). -/
def State.requeue (s : State) (tid : Nat) : State :=
  let s := s.syncImage tid
  let c := s.ctx tid
  if c.imstate == .suspended && !c.queued then
    (s.setCtx tid { c with queued := true }).post
      (.dispatcherRecordArrival (sectorOf (cellOf c.core)) (s.readyRecord tid none) none)
  else s

/-- A wait of a thread has its result: the instruction is complete, and a suspended thread is queued (R7, R133, R337). -/
def State.wakeWith (s : State) (tid : Nat) (f : Ctx → Ctx) : State :=
  (s.modCtx tid fun c => (f c).advance).requeue tid

/-- A wait of a thread ends in a precise trap; a suspended thread is queued. -/
def State.wakeTrap (s : State) (tid : Nat) (t : Trap) : State := (s.trap tid t).requeue tid

/-- A parked instruction may go on: it is issued again. -/
def State.wakeAgain (s : State) (tid : Nat) : State :=
  (s.modCtx tid fun c => { c with park := none }).requeue tid

/-- The physical address of a word of a structure that hardware reaches by a virtual address of a space; none where no leaf maps
it. -/
def State.hwAddr (s : State) (asid va : Nat) : Option Nat :=
  match s.walk asid va with
  | .error _ => none
  | .ok l => if targetOf l.base = .hbm then some (s.oldPlace (l.pa va)) else none

/-- A word of an RCB (R323), as its home holds it; none where the RCB is not mapped. -/
def State.rcbWord? (s : State) (rcb asid idx : Nat) : Option Nat :=
  (s.hwAddr asid (rcb + 8 * idx)).map fun pa => s.view pa 8

/-- A word of an RCB; zero where it is not mapped. -/
def State.rcbWord (s : State) (rcb asid idx : Nat) : Nat := (s.rcbWord? rcb asid idx).getD 0

/-- Hardware writes a word of an RCB at its home; the first write of the page sets A and D (R323, R386; log 90). -/
def State.setRcbWord (s : State) (rcb asid idx v : Nat) : State :=
  match s.walk asid (rcb + 8 * idx) with
  | .error _ => s
  | .ok l =>
    if targetOf l.base = .hbm then ((s.touchLeaf l true).2.homeStore (s.oldPlace (l.pa (rcb + 8 * idx))) 8 (v % 2 ^ 64) false).2
    else s

end Sys2Proof.Machine
end

