-- ==== Sys2Proof/Machine/Path.lean ====
section
/-! DEFINITION. The steps by which word-memory requests are performed: results arriving, fills, banks, write-through stores,
write-backs, acknowledgements, and the directory's messages (R66, R93, R96, R97, R164, R166, R363). -/

namespace Sys2Proof.Machine

/-- Apply one register write of a reply (R66, R101): `long` clears the pending bit. -/
def applyWrite (long : Bool) (c : Ctx) : RegWrite → Ctx
  | .x r v p =>
    let c := if long then c.landX r v else c.setX r v
    match p with
    | some a => if r = 0 then c else { c with xPois := c.xPois.set r.toNat a }
    | none => c
  | .v r v bytes p =>
    let w := BitVec.ofNat 512 (mergeBytes 64 (c.vr r).toNat v.toNat bytes.toNat)
    let c := if long then c.landV r w else c.setV r w
    match p with
    | some a => { c with vPois := c.vPois.set r.toNat a }
    | none => c
  | .p r b => c.setP r.toNat b
  | .buf bs bad => { c with buf := c.buf ++ bs, bufBad := c.bufBad ++ bad }
  | .decl _ _ => c

/-- Whether a reply carries a structure, after which its instruction goes on. -/
def RegWrite.isBuf : RegWrite → Bool
  | .buf _ _ => true
  | _ => false

/-- Whether a copy holds nothing newer than its home: what a slice in retention does not supply itself (R169). -/
def Proxy.clean (p : Proxy) : Bool :=
  match p.st with
  | .m | .o => false
  | .nc => p.dirty == 0
  | .e | .s => true

/-- A die fills its NC copy of a line from the home (R121, R166). A slice in retention takes it and stays retained (R169; log 81). -/
def State.ncFill (s : State) (line die : Nat) : State :=
  let s := s.homeRead line
  s.setProxy line die ⟨.nc, BitVec.ofNat 1024 (s.readLine line), 0, s.linePoison line, 0, 0⟩

/-- What a core of a die reads of a line, where no GetS is needed: the home, the die's copy, or an NC copy made now (R162, R164,
R166, R167). A clean copy in a slice in retention is not read: the home supplies the line, and the directory stays (R169). -/
def State.lineFor (s : State) (die line mode : Nat) (na : Bool) : Option (State × Nat × BitVec 16) :=
  if na || homeDie line == die || mode == 2 then
    let s := s.homeRead line
    some (s, s.readLine line, s.linePoison line)
  else match s.proxy line die with
    | some p =>
      if (s.slice (sliceAt die (sliceIndex line))).retained && p.clean then
        let s := s.foldLine line
        some (s, s.view (128 * line) 128, s.linePoison line)
      else some (s, p.data.toNat, p.pois)
    | none =>
      if mode = 1 then
        let s := s.ncFill line die
        some (s, s.readLine line, s.linePoison line)
      else none

/-- The device-memory lines of a request that still have unbound bytes, each with its page mode. -/
def unboundLines (q : MemReq) : List (Nat × Nat) :=
  ((q.lanes.filter fun l => laneRoute q.src.core l == 3).map fun l => (lineOf l.pa, l.mode)).dedup

/-- Read every line of a fill; the lines that need a GetS first are listed. -/
def State.readLines (s : State) (die : Nat) (na : Bool) :
    List (Nat × Nat) → State × List (Nat × BitVec 1024 × BitVec 16) × List Nat
  | [] => (s, [], [])
  | (line, mode) :: r => match s.lineFor die line mode na with
    | none =>
      let t := s.readLines die na r
      (t.1, t.2.1, line :: t.2.2)
    | some (s, d, p) =>
      let t := s.readLines die na r
      (t.1, (line, BitVec.ofNat 1024 d, p) :: t.2.1, t.2.2)

/-- Bind a lane from the lines of a fill. -/
def bindFrom (ls : List (Nat × BitVec 1024 × BitVec 16)) (l : Lane) : Lane :=
  match ls.find? (fun e => e.1 = lineOf l.pa && !isPool l.pa) with
  | none => l
  | some (_, d, p) => laneBind l (d.toNat / 2 ^ (8 * (l.pa % 128))) (2 ^ l.n - 1)
      ((wordsOf (l.pa % 128) l.n).any fun w => p.getLsbD w)

/-- A die's copy of a line carries the key slot of the access that uses it (R96, R406). -/
def State.tagCopy (s : State) (line die key : Nat) : State :=
  match s.proxy line die with
  | some p => if p.key = key then s else { s with proxies := s.proxies.set (4 * line + die) { p with key := key } }
  | none => s

/-- The copies that a fill uses carry its key slots. -/
def State.tagCopies (s : State) (die : Nat) (q : MemReq) : State :=
  if q.na then s else q.lanes.foldl (fun s l => s.tagCopy (lineOf l.pa) die l.key) s

/-- FILL_AT_HOME: the home, or the die's copy, serves a fill; a die without a copy sends GetS first (R96, R164). The lines of `f.skip` are
bound but not installed. -/
def execFillAtHome (f : FillReq) (s : State) : Out State :=
  let q := f.req
  let die := dieOf q.src.core
  match (unboundLines q).find? (fun e => (s.pageHolding (128 * e.1)).isSome) with
  | some e => .next (s.enterHome (128 * e.1) (.fill f) id)
  | none =>
    let r := s.readLines die q.na (unboundLines q)
    match r.2.2 with
    | [] => .next ((r.1.tagCopies die q).post (.lineFillArrival { q with lanes := q.lanes.map (bindFrom r.2.1) }
        (r.2.1.filter fun e => !f.skip.contains e.1)))
    | line :: _ => .next ((s.postFront (.fillAtHome f)).postFront (.getsAtHome line die))

/-- LINE_FILL_ARRIVAL: the bytes that are not dirty are filled, unless the load allocates nothing; the load goes on (R96, R104). -/
def execLineFillArrival (q : MemReq) (lines : List (Nat × BitVec 1024 × BitVec 16)) (s : State) : Out State :=
  let s := if q.na then s else lines.foldl (fun s e =>
    match q.lanes.find? (fun l => lineOf l.pa == e.1) with
    | some l => s.fillCached q.src.core e.1 l.key l.mode e.2.1 e.2.2
    | none => s) s
  .next (s.routeLoad q)

/-- The record of a pool access refused beyond the sector (R93); its address is the absolute form of the pool address (log 60). -/
def State.refusePool (s : State) (src : Src) (l : Lane) (code detail : Nat) : State :=
  s.deliver { s.threadRecord src.tid (code + 256 * detail) src.pc (BitVec.ofNat 64 l.va) with asid := src.asid }

/-- What a bank answers to one access (R93, R94): 0 performed, or the code and detail of a refusal, or the source of a TLDP to copy
first. -/
inductive BankAnswer where
  | ok
  | gone
  | refused (code detail : Nat)
  | source (cell entry : Nat)
  deriving DecidableEq, Repr

/-- Whether a lane lies in a pool of the sector of the request's core: its address phase has checked it (R93). -/
def nearLane (src : Src) (l : Lane) : Bool := laneRoute src.core { l with kmask := 0 } == 1

/-- The bank's checks (R93, R94, R389). -/
def State.bankChecks (s : State) (src : Src) (l : Lane) (store : Bool) : BankAnswer :=
  let q := poolCore l.pa
  if s.coreGone q then .gone
  else match s.bankRefuses q (l.pa - poolBase q) l.n src.asid with
    | some d => .refused trapAddrSpace d
    | none => match lockHit (s.cell (cellOf q)).locks false src.asid l.pa l.n store with
      | some (k, x) => if x.kind == 2 then .source (cellOf q) k else .refused trapRangeLocked k
      | none => .ok

/-- Whether an operation comes to its bank long after its instruction issued: a drain's rows, whose writes are counted within the
sector too (R302). -/
def bankLate : BankOp → Bool
  | .store _ counted => counted
  | _ => false

/-- What a bank answers to an access that arrives: the checks are made there for one from beyond the sector and for a late one, and were
made at issue for another from within it (R93, R98, R266). -/
def State.bankAnswer (s : State) (src : Src) (late : Bool) (l : Lane) (store : Bool) : BankAnswer :=
  if nearLane src l && !late then (if s.coreGone (poolCore l.pa) then .gone else .ok) else s.bankChecks src l store

/-- A load of one lane at a bank: a refusal gives zero (R93). -/
def State.bankLoad (s : State) (src : Src) (l : Lane) : State × Lane :=
  if laneRoute src.core l ≠ 2 then (s, l)
  else match s.bankAnswer src false l false with
    | .ok => (s, laneBind l (s.read l.pa l.n) (2 ^ l.n - 1) (s.poisonAt l.pa l.n))
    | .refused c d => (s.refusePool src l c d, laneBind l 0 (2 ^ l.n - 1) false)
    | _ => (s, laneBind l 0 (2 ^ l.n - 1) false)

/-- A store of one lane at a bank: a refusal discards it (R93). -/
def State.bankStore (s : State) (src : Src) (late : Bool) (l : Lane) (v : Nat) : State :=
  match s.bankAnswer src late l true with
  | .ok => s.writeMarked l.pa l.n v l.bad
  | .refused c d => s.refusePool src l c d
  | _ => s

/-- Pair the lanes of an exchange with their values, entries, slots and addresses. -/
def swapParts (ls : List Lane) (vals : List Nat) (es : List Lane) (slots addrs : List Nat) :
    List (Lane × Nat × Lane × Nat × Nat) :=
  ls.zip (vals.zip (es.zip (slots.zip addrs)))

/-- The exchange of a pushing store at a bank (R109). -/
def State.swapAtBank (s : State) (q : MemReq) : List (Lane × Nat × Lane × Nat × Nat) → State
  | [] => s
  | (l, v, e, slot, addr) :: r =>
    match s.bankAnswer q.src false l true with
    | .ok =>
      let old := s.read l.pa l.n
      let bad := s.poisonAt l.pa l.n
      ((s.writeMarked l.pa l.n v false).post (.tapePush q.src e addr old l.n slot 0 bad)).swapAtBank q r
    | .refused c d => ((s.refusePool q.src l c d).post (.tapePush q.src e addr 0 l.n slot 0 false)).swapAtBank q r
    | _ => (s.post (.tapePush q.src e addr 0 l.n slot 0 false)).swapAtBank q r

/-- The TLDP source that a store at a bank must first have copied (R94, R280). -/
def State.bankSource (s : State) (src : Src) (late : Bool) (ls : List Lane) : Option (Nat × Nat) :=
  (ls.filterMap fun l => match s.bankAnswer src late l true with
    | .source c e => some (c, e)
    | _ => none).head?

/-- Whether a message is a store on its way to a pool of the sector of its core, and satisfies a test. -/
def nearStore (p : MemReq → Bool) (e : Event) : Bool :=
  match e with
  | .poolBankAccess q (.store _ false) => q.lanes.all (nearLane q.src) && p q
  | _ => false

/-- Some stores on their way to pools of the sector are performed, in the order in which they were issued. -/
def State.landThose (s : State) (p : MemReq → Bool) : State :=
  (s.pending.filter (nearStore p)).foldl (fun s e => match e with
    | .poolBankAccess q (.store vs _) => (q.lanes.zip vs).foldl (fun (s : State) (x : Lane × Nat) => s.bankStore q.src false x.1 x.2) s
    | _ => s) { s with pending := s.pending.filter fun e => !nearStore p e }

/-- The thread's stores on their way to pools of the sector are performed (R115). -/
def State.landStores (s : State) (tid : Nat) : State := s.landThose fun q => q.src.tid == tid

/-- The stores on their way to some bytes of a pool that have passed the bank's checks are performed, before a lock of the bytes is entered
(R94, R266). -/
def State.landOn (s : State) (lo hi : Nat) : State := s.landThose fun q => q.lanes.any fun l => decide (l.pa ≤ hi) && decide (lo < l.pa + l.n)

/-- The pool access that a message carries, one held at its bank included (R266). -/
def bankAccess : Event → Option (MemReq × BankOp)
  | .poolBankAccess q op | .lockedStoreRelease q op => some (q, op)
  | _ => none

/-- Whether an operation of a bank writes (R94). -/
def bankWrites : BankOp → Bool
  | .load => false
  | _ => true

/-- Whether a message is a write of a thread to some bytes of a pool: a store, an exchange or a reduction. -/
def storeTo (tid a n : Nat) (e : Event) : Bool :=
  match bankAccess e with
  | some (q, op) => bankWrites op && q.src.tid == tid && q.lanes.any fun l => decide (l.pa < a + n ∧ a < l.pa + l.n)
  | none => false

/-- Whether one of the thread's writes on its way to a pool reaches some of its bytes (R139, R298). -/
def State.storesTo (s : State) (tid a n : Nat) : Bool :=
  s.pending.any (storeTo tid a n) || s.timers.any (fun e => storeTo tid a n e.2) || s.due.any (storeTo tid a n)

/-- WRITE_ACK_ARRIVAL (R97, R119). -/
def execWriteAckArrival (tid : Nat) (_tag : Nat) (s : State) : Out State :=
  .next (s.modCtx tid fun c => { c with ackc := c.ackc - 1 })

/-- The answer to a write-through: an acknowledgement, or the status of the optimiser step that ends with it (R97, R283). -/
def State.answerWrite (s : State) (q : MemReq) (tag : Nat) : State :=
  match q.dst with
  | .x r _ _ => s.post (.longResultArrival (Reply.of q.src.tid [.x r 0 none] false))
  | _ => s.post (.writeAckArrival q.src.tid tag)

/-- A write-through store from a die updates the bytes, and their marks, of the die's NC copy, where there is one (R101, R166). The lanes lie
on one line. -/
def State.updateCopy (s : State) (die : Nat) (ls : List (Lane × Nat)) : State :=
  match ls with
  | [] => s
  | (l, _) :: _ =>
    let line := lineOf l.pa
    match s.proxy line die with
    | none => s
    | some p =>
      if p.st ≠ CopyState.nc then s
      else
        let d := ls.foldl (fun (d : Nat) (e : Lane × Nat) => mergeBytes 128 d (e.2 * 2 ^ (8 * (e.1.pa % 128)))
          (byteMask (e.1.pa % 128) e.1.n)) p.data.toNat
        let m := ls.foldl (fun (m : BitVec 16) (e : Lane × Nat) => marksAfter m (e.1.pa % 128) e.1.n e.1.bad) p.pois
        (s.setProxy line die { p with data := BitVec.ofNat 1024 d, pois := m }).awakeCopy line die

/-- WRITE_THROUGH_AT_HOME: one message, performed on its line with one tag; a die's NC copy takes the bytes too (R97, R119,
R166). -/
def execWriteThroughAtHome (q : MemReq) (vals : List Nat) (s : State) : Out State :=
  match q.lanes with
  | [] => .next s
  | l :: _ => .next (s.enterHome l.pa (.wt q vals) fun s =>
      let line := lineOf l.pa
      let s := s.homeWrite line
      let s := (q.lanes.zip vals).foldl (fun (s : State) (e : Lane × Nat) => s.writeMarked e.1.pa e.1.n e.2 e.1.bad) s
      let s := s.updateCopy (dieOf q.src.core) (q.lanes.zip vals)
      let (t, s) := s.tag line
      (s.walkWaiters line).answerWrite q t)

/-- Acknowledge a write-back that counts for a thread (R97). -/
def State.ackTo (s : State) (tid : Option Nat) (tag : Nat) : State :=
  match tid with
  | none => s
  | some t => s.post (.writeAckArrival t tag)

/-- Whether a slice lies in a cell under reset, which answers with the destination-reset response (R146, R389). -/
def State.sliceGone (s : State) (k : Nat) : Bool := (s.cell (k / 2)).resetUntil.isSome

/-- Whether a write-back of a line finds the slice that it needs under reset: the die's own for the line, or, where the die must ask for the
line first, the line's home (R146). -/
def State.mergeGone (s : State) (line die : Nat) (nc : Bool) : Bool :=
  s.sliceGone (sliceAt die (sliceIndex line)) || (s.sliceGone (homeSlice line) && !(match s.proxy line die with
    | some p => nc || p.st == .m || p.st == .e
    | none => false))

/-- WRITE_BACK_MERGE: dirty bytes merge at the home, or at the die's copy after GetM; page operations let them pass (R96, R119, R163,
R164, R166, R170). Where the slice it needs lies in a cell under reset it is acknowledged and its data lost (R146). -/
def execWriteBackMerge (tid : Option Nat) (core line key : Nat) (data : BitVec 1024) (mask : BitVec 128) (nc : Bool)
    (pois : BitVec 16) (s : State) : Out State :=
  let die := dieOf core
  if s.mergeGone line die nc then .next (s.ackTo tid 0)
  else if homeDie line = die then
    let s := s.homeWrite line
    let s := (s.writeLine line data.toNat mask.toNat).markLine line pois (wholeWords mask)
    let (t, s) := s.tag line
    .next ((s.walkWaiters line).ackTo tid t)
  else if nc then
    let s := if (s.proxy line die).isSome then s else s.ncFill line die
    let p : Proxy := (s.proxy line die).getD ⟨.nc, BitVec.ofNat 1024 (s.readLine line), 0, s.linePoison line, 0, 0⟩
    .next (((s.setProxy line die { p with
      data := BitVec.ofNat 1024 (mergeBytes 128 p.data.toNat data.toNat mask.toNat), dirty := p.dirty ||| mask,
      pois := mergeMarks p.pois pois mask, key := key }).awakeCopy line die).ackTo tid 0)
  else match s.proxy line die with
    | some p => if p.st = .m ∨ p.st = .e then
        let t := (p.seq + 1) % 65536
        .next (((s.setProxy line die { p with
          st := .m, data := BitVec.ofNat 1024 (mergeBytes 128 p.data.toNat data.toNat mask.toNat), seq := t,
          pois := mergeMarks p.pois pois mask, key := key }).awakeCopy line die).ackTo tid t)
      else .next ((s.postFront (.writeBackMerge tid core line key data mask nc pois)).postFront (.getmAtHome line die))
    | none => .next ((s.postFront (.writeBackMerge tid core line key data mask nc pois)).postFront (.getmAtHome line die))

/-- TAPE_PUSH: the exchange's reply is acknowledged and its entry written through (R109, R363). -/
def execTapePush (src : Src) (entry : Lane) (addr old width slot tag : Nat) (poison : Bool) (s : State) : Out State :=
  let v := addr % 2 ^ 64 + 2 ^ 64 * (old % 2 ^ 32) + 2 ^ 96 * width + 2 ^ 104 * slot + 2 ^ 112 * tag
  let s := s.modCtx src.tid fun c => { c with ackc := c.ackc - 1 }
  .next (s.writeThrough src [({ entry with bad := poison }, v)])

/-! ## The directory's messages (R164) -/

/-- Give a die a copy with the home's data. A slice in retention takes it and stays retained (R169; log 81). -/
def State.grant (s : State) (line die : Nat) (st : CopyState) : State :=
  s.setProxy line die ⟨st, BitVec.ofNat 1024 (s.readLine line), 0, s.linePoison line, s.seqOf line, 0⟩

/-- GETS_AT_HOME: tills are folded first, whatever the directory state (R121, R164). -/
def execGetsAtHome (line die : Nat) (s : State) : Out State :=
  let s := (s.foldLine line).l2Take line (homeDie line)
  match s.dirOf line with
  | none => .next (((s.dirRoom line).grant line die .e).putDir line (some (.ex die)))
  | some (.sh ds) => .next ((s.grant line die .s).putDir line (some (.sh (if ds.contains die then ds else ds ++ [die]))))
  | some (.ex d) => if d = die then .next s else .next (s.postFront (.forwardedRequest line d die false))
  | some (.ow d _) => if d = die then .next s else .next (s.postFront (.forwardedRequest line d die false))

/-- GETM_AT_HOME: tills are folded first, whatever the directory state (R121, R164). -/
def execGetmAtHome (line die : Nat) (s : State) : Out State :=
  let s := (s.foldLine line).l2Take line (homeDie line)
  match s.dirOf line with
  | none => .next (((s.dirRoom line).grant line die .e).putDir line (some (.ex die)))
  | some (.sh ds) =>
    let s := (ds.filter (· ≠ die)).foldl (fun s d => s.dropProxy line d) s
    match s.proxy line die with
    | some p => .next ((s.setProxy line die { p with st := .e, seq := s.seqOf line }).putDir line (some (.ex die)))
    | none => .next ((s.grant line die .e).putDir line (some (.ex die)))
  | some (.ex d) => if d = die then .next s else .next (s.postFront (.forwardedRequest line d die true))
  | some (.ow d ds) =>
    if d = die then
      let s := ds.foldl (fun s x => s.dropProxy line x) s
      match s.proxy line die with
      | some p => .next ((s.setProxy line die { p with st := .m }).putDir line (some (.ex die)))
      | none => .next (s.putDir line none)
    else .next (s.postFront (.forwardedRequest line d die true))

/-- FORWARDED_REQUEST: the owner supplies another die, and gives the line up where it is asked to (R164). -/
def execForwardedRequest (line owner dest : Nat) (excl : Bool) (s : State) : Out State :=
  match s.proxy line owner with
  | none => .next (s.postFront (if excl then .getmAtHome line dest else .getsAtHome line dest))
  | some p =>
    let dirty := p.st = .m ∨ p.st = .o
    let others := match s.dirOf line with
      | some (.ow _ ds) => ds
      | _ => []
    if excl then
      let s := (owner :: others).foldl (fun s d => s.dropProxy line d) s
      .next ((s.setProxy line dest { p with st := if dirty then .m else .e }).putDir line (some (.ex dest)))
    else if dirty then
      let s := (s.setProxy line owner { p with st := .o }).setProxy line dest { p with st := .s }
      .next (s.putDir line (some (.ow owner (if others.contains dest then others else others ++ [dest]))))
    else
      let s := (s.setProxy line owner { p with st := .s }).setProxy line dest { p with st := .s }
      .next (s.putDir line (some (.sh [owner, dest])))

/-- INVALIDATE_AT_PROXY: the die's shared copy is gone (R164). -/
def execInvalidateAtProxy (line die : Nat) (s : State) : Out State :=
  match s.proxy line die with
  | none => .next s
  | some p => match p.st with
    | .m | .o => .next s
    | _ =>
      let s := s.dropProxy line die
      match s.dirOf line with
      | some (.sh ds) => let r := ds.filter (· ≠ die)
        .next (s.putDir line (if r.isEmpty then none else some (.sh r)))
      | some (.ow d ds) => .next (s.putDir line (some (.ow d (ds.filter (· ≠ die)))))
      | some (.ex d) => .next (if d = die then s.putDir line none else s)
      | none => .next s

/-- PUTM_AT_HOME: a dirty copy is evicted: tills are folded, then its data goes home; an NC copy's dirty bytes merge (R121, R164,
R166). -/
def execPutmAtHome (line die : Nat) (s : State) : Out State :=
  let s := s.foldLine line
  match s.proxy line die with
  | none => .next s
  | some p => match p.st with
    | .nc =>
      let s := s.dropProxy line die
      if p.dirty = 0 then .next s
      else
        let s := ((s.awake (homeSlice line)).writeLine line p.data.toNat p.dirty.toNat).markLine line p.pois (wholeWords p.dirty)
        .next ((s.tag line).2.walkWaiters line)
    | .m | .o =>
      let s := (s.bringHome line die).dropProxy line die
      match s.dirOf line with
      | some (.ow _ ds) => .next (s.putDir line (if ds.isEmpty then none else some (.sh ds)))
      | _ => .next (s.putDir line none)
    | _ => .next s

/-- PUTE_AT_HOME: a clean copy is evicted (R164). -/
def execPuteAtHome (line die : Nat) (s : State) : Out State :=
  match s.proxy line die with
  | none => .next s
  | some p => match p.st with
    | .m | .o | .nc => .next s
    | _ =>
      let s := s.dropProxy line die
      match s.dirOf line with
      | some (.sh ds) => let r := ds.filter (· ≠ die)
        .next (s.putDir line (if r.isEmpty then none else some (.sh r)))
      | some (.ow d ds) => .next (s.putDir line (some (.ow d (ds.filter (· ≠ die)))))
      | _ => .next (s.putDir line none)

end Sys2Proof.Machine
end

