-- ==== Sys2Proof/Machine/WordMem.lean ====
section
/-! DEFINITION. Word memory and pool access: LD, ST, LDV, STV, LDG, STS, PREF and CMO with their reverse forms and the tape
(R104 to R114, R363). LDM stands with the threads. -/

namespace Sys2Proof.Machine

/-- One lane of a memory instruction before its address phase: number, base, displacement, and the value of the register's lane. -/
structure LaneAcc where
  idx : Nat
  base : Word
  disp : Int
  val : Nat
  deriving DecidableEq, Repr

/-- A lane that has passed its phase, with its value and, where it is differentiable and inverts or pushes, the adjoint cell's
place. -/
structure LaneOk where
  place : Place
  val : Nat
  adj : Option Place
  deriving DecidableEq, Repr

/-- The phase of a lane that may be differentiable (R98, R110, R353): in reverse mode its adjoint cell is placed too. A reverse load reduces
into the cell, as RED, which remote memory refuses; the exchange of a reverse store, as AMO, is performed there (R108, R117, R415; log 28). -/
def State.placeLane (s : State) (c : Ctx) (store : Bool) (w : Nat) (l : LaneAcc) : Except Stop LaneOk :=
  match s.place c { n := w, r := !store, w := store, rdup := !store, store := store } l.idx l.base l.disp with
  | .error e => .error e
  | .ok p => match p.region with
    | none => .ok ⟨p, l.val, none⟩
    | some (slot, r) =>
      if !c.rev && !store then .ok ⟨p, l.val, none⟩
      else if r.width ≠ w then .error (.trap (shapeTrap slot l.idx (formed l.base l.disp).toNat))
      else if c.rev then
        match s.place c { n := 4, r := true, w := true, noPool := some 6, onlyDevice := some 6, remote := store, store := true } l.idx
            (BitVec.ofNat 64 (r.cell p.lane.va)) 0 with
        | .error e => .error e
        | .ok a => .ok ⟨p, l.val, some a⟩
      else .ok ⟨p, l.val, some p⟩

/-- The phase of every lane (R98, R100). -/
def State.placeLanes (s : State) (c : Ctx) (store : Bool) (w : Nat) (ls : List LaneAcc) : Except Stop (List LaneOk) :=
  allPass (ls.map (s.placeLane c store w))

/-- The tape bound for the pushes of an instruction (R98 step 6, R109, R363): the entries' places. -/
def State.placeTape (s : State) (c : Ctx) (addr : Word) (lane n : Nat) : Except Stop (List Place) :=
  if bitsOf c.tapeb.toNat 63 62 ≠ 0 then .error (spaceTrap 2 addr lane)
  else if c.tapep.toNat + 16 * n > c.tapel.toNat then .error (.trap ⟨trapTapeFull, 0, n, addr⟩)
  else placeAll (fun k =>
    let e := c.tapep + BitVec.ofNat 64 (16 * k)
    match s.place c { n := 16, w := true, store := true } lane e 0 with
    | .error x => .error x
    | .ok p =>
      let rs := s.regionsFor c.core c.asid
      match (regionOf rs e.toNat 16).or (adjointOf rs e.toNat 16) with
      | some (slot, _) => .error (.trap (shapeTrap slot lane e.toNat))
      | none => .ok p) (List.range n)

/-- The end of the phase for lanes and their adjoint cells. -/
def State.settleLanes (s : State) (c : Ctx) (store : Bool) (ls : List LaneOk) : State :=
  ls.foldl (fun s l =>
    let s := s.settle c.core c.asid store l.place
    match l.adj with
    | some a => s.settle c.core c.asid true a
    | none => s) s

/-- The lanes that a load or store inverts or pushes. -/
def diffLanes (ls : List LaneOk) : List LaneOk := ls.filter fun l => l.adj.isSome

/-- The lanes performed as in forward mode. -/
def plainLanes (ls : List LaneOk) : List LaneOk := ls.filter fun l => l.adj.isNone

/-- The adjoint lanes of differentiable lanes, under the numbers of the primal lanes. -/
def adjLanes (ls : List LaneOk) : List Lane := ls.filterMap fun l => l.adj.map fun a => { a.lane with idx := l.place.lane.idx }

/-- The FP32 pattern that a register's lane contributes (R108): 16-bit lanes in the region's format. -/
def contributed (w : Nat) (vector : Bool) (l : LaneOk) : Nat :=
  match l.place.region with
  | some (_, r) => if vector && w == 2 then fp32.round 0 0 ((Fmt.ofCode r.fmt).decode l.val) else l.val % 2 ^ 32
  | none => l.val % 2 ^ 32

/-- Post contributions to adjoint cells, counted once in `PENDC` (R108, R126). -/
def State.contributeLanes (s : State) (w : Nat) (vector : Bool) (ds : List LaneOk) : State :=
  match ds with
  | [] => s
  | ds =>
    let ls := adjLanes ds
    let s := s.yieldLines s.me.core (linesOf ls)
    (s.post (.contributionAtHome ⟨s.src, ls, .none, true, false⟩ 16 (ds.map (contributed w vector)))).setMe
      { s.me with pendc := s.me.pendc + 1 }

/-- Issue the loads of plain lanes: bound in the pool cache, whose lines a hit uses, or sent on; with no cache region they are bound
at the home slice and allocate nothing (R95, R96). A load of another device's memory waits parked (R415). -/
def State.loadLanes (s : State) (dst : Dst) (na : Bool) (ls : List LaneOk) (pend : Ctx → Ctx) : State :=
  let remote := ls.any fun l => match l.place.target with
    | .remote _ => true
    | _ => false
  let core := s.me.core
  let q : MemReq := ⟨s.src, ls.map fun l => s.bindCached core l.place.lane, dst, na || s.cacheSets core == 0, remote⟩
  let s := ((q.lanes.filter fun l => l.kmask != 0).map laneTag).dedup.foldl (fun s t => s.touchLine core t) s
  if remote then (s.parkMe .reply).routeLoad q true
  else (s.finish pend).routeLoad q true

/-- The address of the load that poisoned the data register of a load or store (R101). -/
def Ctx.dataPoison (c : Ctx) (d : Dst) : Option Word :=
  match d with
  | .x r _ _ => c.xPois.find? r.toNat
  | .v r _ => c.vPois.find? r.toNat
  | .none | .buf | .code _ | .decl _ => none

/-- `MEM_POISON` of a register field (R101). -/
def poisonTrap (field : Nat) (a : Word) : Trap := ⟨trapMemPoison, field, 0, a⟩

/-- A load instruction: forward, or inverted where the lanes are differentiable (R105 to R108). -/
def State.loadInstr (s : State) (w : Nat) (vector na : Bool) (dst : Dst) (pend : Ctx → Ctx) (ls : List LaneAcc) : State :=
  let c := s.me
  match s.placeLanes c false w ls with
  | .error e => s.stopMe e
  | .ok ps =>
    let ds := diffLanes ps
    match (if ds.isEmpty then none else c.dataPoison dst) with
    | some a => s.trapMe (poisonTrap 0 a)
    | none =>
    let s := (s.settleLanes c false ps).contributeLanes w vector ds
    match plainLanes ps with
    | [] => if ds.isEmpty then s.loadLanes dst na [] pend else s.done
    | ns => s.loadLanes dst na ns pend

/-- A core that holds the line of an exchanged element writes back its dirty bytes, so that the exchange finds them, and keeps the
new value in the line (R97). -/
def State.exchangeCached (s : State) (core : Nat) (l : Lane) (v : Nat) : State :=
  ((s.cleanLine none core (laneTag l)).updateCached core l v).noInstall core (· == lineOf l.pa)

/-- The exchange that pushes: old values return to the tape. Each place performs its own lanes: the homes, the banks, those of the sector
at once and after the context's stores on their way to them (R115), the bridge, and other devices (R97, R109, R363). -/
def State.pushLanes (s : State) (ds : List LaneOk) (es : List Place) : State :=
  let op (l : List (LaneOk × Place)) : AtomOp :=
    .tapeSwap (l.map fun p => p.1.val) (l.map fun p => p.2.lane)
      (l.map fun p => (p.1.place.region.map Prod.fst).getD 0) (l.map fun p => p.1.place.lane.va)
  let core := s.me.core
  let all := ds.zip es
  let at_ (r : Nat) := all.filter fun p => laneRoute core { p.1.place.lane with kmask := 0 } == r
  let lanes (l : List (LaneOk × Place)) : List Lane := l.map fun p => p.1.place.lane
  let one (l : List (LaneOk × Place)) : MemReq := ⟨s.src, lanes l, .none, true, false⟩
  let s := (at_ 3).foldl (fun s p => s.exchangeCached core p.1.place.lane p.1.val) s
  let s := (s.addAck s.cur ds.length).setMe { (s.addAck s.cur ds.length).me with
    tapep := s.me.tapep + BitVec.ofNat 64 (16 * ds.length) }
  let s := if (at_ 3).isEmpty then s else s.post (.atomicAtHome (one (at_ 3)) (op (at_ 3)))
  let near := at_ 1
  let s := if near.isEmpty then s else (s.landStores s.cur).swapAtBank (one near) (swapParts (lanes near) (near.map fun p => p.1.val)
    (near.map fun p => p.2.lane) (near.map fun p => (p.1.place.region.map Prod.fst).getD 0) (near.map fun p => p.1.place.lane.va))
  let s := (at_ 2).foldl (fun s p => s.post (.poolBankAccess (one [p]) (.atom (op [p])))) s
  let s := (at_ 4).foldl (fun s p => s.post (.bridgeDeviceAccess (one [p]) (.atom (op [p])))) s
  (at_ 5).foldl (fun s p => s.remoteSwap (one [p]) (op [p])) s

/-- The lanes of a request that lie in another device's memory and are not done. -/
def awayLanes (q : MemReq) : List Lane := q.lanes.filter fun l => laneRoute q.src.core l == 5

/-- A read-and-clear goes on: cells of another device's memory one request at a time, the highest lane first, then those of this device at
their homes (R107, R108, R415). -/
def State.sendClear (s : State) (q : MemReq) (op : AtomOp) : State :=
  match (awayLanes q).getLast? with
  | some l => s.remoteLane q op l
  | none => s.post (.atomicAtHome q op)

/-- The thread's read-and-clear of adjoint cells, a long operation; with cells of another device the thread waits parked (R108, R415). -/
def State.clearRequest (s : State) (ls : List Lane) (dst : Dst) (op : AtomOp) (pend : Ctx → Ctx) : State :=
  let q : MemReq := ⟨s.src, ls, dst, true, false⟩
  if (awayLanes q).isEmpty then (s.sendClear q op).finish pend
  else (s.parkMe .reply).sendClear { q with parked := true } op

/-- The format and the draw with which each lane of a reverse store is rounded: only 16-bit vector lanes are, into the format of
their own region (R108). -/
def Ctx.reverseRounding (c : Ctx) (w : Nat) (vector : Bool) (ds : List LaneOk) : List (Nat × Nat) :=
  ds.map fun l => if vector && w == 2 then ((l.place.region.map fun r => r.2.fmt).getD 0, c.rnd c.rm l.place.lane.idx) else (0, 0)

/-- A store instruction: forward, pushing, or inverted (R105 to R109, R363). An inverted 16-bit store steps `SRCTR` only where a lane is
differentiable (R108, R189; log 83). -/
def State.storeInstr (s : State) (w : Nat) (vector wt : Bool) (dst : Dst) (pend : Ctx → Ctx) (ls : List LaneAcc) : State :=
  let c := s.me
  match (if c.rev then none else c.dataPoison dst) with
  | some a => s.trapMe (poisonTrap 0 a)
  | none =>
  match s.placeLanes c true w ls with
  | .error e => s.stopMe e
  | .ok ps =>
    let ds := diffLanes ps
    match (if c.rev && (plainLanes ps).isEmpty then none else c.dataPoison dst) with
    | some a => s.trapMe (poisonTrap 0 a)
    | none =>
    let plain (s : State) : State := s.storeLanes s.src c.slot wt ((plainLanes ps).map fun l => (l.place.lane, l.val))
    if c.rev && !ds.isEmpty then
      if c.pendc ≠ 0 then s.parkMe .pendcZero
      else
        let s := s.settleLanes c true ps
        let s := s.yieldLines c.core (linesOf (adjLanes ds))
        let s := plain (if vector && w == 2 then s.setMe (s.me.stepSr c.rm 32) else s)
        s.clearRequest (adjLanes ds) dst (.readClear c.rm (c.reverseRounding w vector ds)) pend
    else match ds with
      | [] => (plain (s.settleLanes c true ps)).done
      | d :: _ =>
        match s.placeTape c (BitVec.ofNat 64 d.place.lane.va) d.place.lane.idx ds.length with
        | .error e => s.stopMe e
        | .ok es => (plain (((s.settleLanes c true ps).settleAll c.core c.asid true es).pushLanes ds es)).done

/-- Size in bytes of the codes of R104. -/
def accessSize (code : Nat) : Nat :=
  match code % 4 with
  | 0 => 8
  | 1 => 1
  | 2 => 2
  | _ => 4

/-- LD (R104, R105). -/
def execLd (f : F6) (a : R5) (m : MemOp) (s : State) : Out State :=
  let c := s.me
  let n := accessSize f.toNat
  .next (s.loadInstr n false (f.getLsbD 3) (.x a n (f.getLsbD 2)) (·.pendX a)
    [⟨0, c.xr m.b, m.disp.toInt, (c.xr a).toNat⟩])

/-- ST (R104, R105). -/
def execSt (f : F6) (a : R5) (m : MemOp) (s : State) : Out State :=
  let c := s.me
  let n := accessSize f.toNat
  .next (s.storeInstr n false (f.getLsbD 3) (.x a 4 false) (·.pendX a)
    [⟨0, c.xr m.b, m.disp.toInt, (c.xr a).toNat % 2 ^ (8 * n)⟩])

/-- Lane bytes of LDV and STV (R106). -/
def vectorLaneBytes (f : F6) : Nat := laneBits f.toNat / 8

/-- The active lanes of a vector access (R106). -/
def Ctx.vectorLanes (c : Ctx) (f : F6) (a : R5) (m : MemOp) (k : R5) : List LaneAcc :=
  let w := vectorLaneBytes f
  ((List.range (64 / w)).filter fun i => !f.getLsbD 2 || (c.kr k).getLsbD i).map fun i =>
    ⟨i, c.xr m.b, m.disp.toInt + i * w, c.lane (8 * w) a i⟩

/-- LDV (R106). -/
def execLdv (f : F6) (a : R5) (m : MemOp) (k : R5) (s : State) : Out State :=
  .next (s.loadInstr (vectorLaneBytes f) true (f.getLsbD 3) (.v a (vectorLaneBytes f)) (·.pendV a) (s.me.vectorLanes f a m k))

/-- STV (R106). -/
def execStv (f : F6) (a : R5) (m : MemOp) (k : R5) (s : State) : Out State :=
  .next (s.storeInstr (vectorLaneBytes f) true (f.getLsbD 3) (.v a (vectorLaneBytes f)) (·.pendV a) (s.me.vectorLanes f a m k))

/-- Lane bytes of LDG and STS (R107). -/
def gatherLaneBytes (f : F6) : Nat := if f.getLsbD 0 then 8 else 4

/-- The active lanes of a gather or scatter (R107). -/
def Ctx.gatherLanes (c : Ctx) (f : F6) (a b o k : R5) : List LaneAcc :=
  let w := gatherLaneBytes f
  ((List.range (64 / w)).filter fun i => !f.getLsbD 4 || (c.kr k).getLsbD i).map fun i =>
    ⟨i, c.xr b, signedOf (8 * w) (c.lane (8 * w) o i) * 2 ^ bitsOf f.toNat 2 1, c.lane (8 * w) a i⟩

/-- LDG (R107). -/
def execLdg (f : F6) (a b o k : R5) (s : State) : Out State :=
  .next (s.loadInstr (gatherLaneBytes f) true (f.getLsbD 3) (.v a (gatherLaneBytes f)) (·.pendV a) (s.me.gatherLanes f a b o k))

/-- STS (R107): lanes in ascending order; in reverse mode a cell that several lanes address goes to the highest. -/
def execSts (f : F6) (a b o k : R5) (s : State) : Out State :=
  .next (s.storeInstr (gatherLaneBytes f) true (f.getLsbD 3) (.v a (gatherLaneBytes f)) (·.pendV a) (s.me.gatherLanes f a b o k))

/-- PREF: what would trap does nothing, and a full miss queue drops it, which a free value tells, since the queue's length is not
given (log 61); PREF.L2 fills the line into its home slice, where the fill takes a way, and nothing of it into the pool cache (R113). It has
no address phase, so it sets neither A nor D (R98). -/
def execPref (f : F6) (m : MemOp) (s : State) : Out State :=
  let c := s.me
  match s.place c { n := 1, r := true, rdup := true, noPool := some 1 } 0 (c.xr m.b) m.disp.toInt with
  | .error _ => .next s.done
  | .ok p =>
    let home := f.toNat == 1
    if p.target ≠ .hbm ∨ (!home && s.cacheSets c.core == 0) ∨ (s.pageHolding p.lane.pa).isSome then .next s.done
    else
      let l : Lane := { p.lane with pa := lineOf p.lane.pa * 128, n := 128 }
      let l := if home then l else s.bindCached c.core l
      let s := match p.leaf with
        | some leaf => s.fillTlbs c.core c.asid p.lane.va leaf
        | none => s
      if laneBound l then .next s.done
      else
        let (v, s) := s.draw
        .next (if v.getLsbD 0 then s.done else s.done.post (.fillAtHome ⟨⟨s.src, [l], .none, home, false⟩, []⟩))

/-- The phase of a CMO: the line's place, or nothing more to do on a pool address (R114). Range locks meet the 128 bytes that ZERO
stores; the other forms, which are no loads or stores, meet none (R94; log 62). -/
def State.placeCmo (s : State) (c : Ctx) (zero : Bool) (m : MemOp) : Except Stop (Option Place) :=
  match resolve c.core (c.xr m.b) m.disp.toInt 0 with
  | .error e => .error e
  | .ok (.pool _) => .ok none
  | .ok (.word va) =>
    match s.placeWord c { n := 1, align := false, r := !zero, w := zero, rdup := !zero, store := zero, locks := false } 0
        (formed (c.xr m.b) m.disp.toInt) va with
    | .error e => .error e
    | .ok p =>
      match (if zero then lockHit (s.cell (cellOf c.core)).locks true c.asid (va / 128 * 128) 128 true else none) with
      | some (k, _) => .error (.trap ⟨trapRangeLocked, k, 0, formed (c.xr m.b) m.disp.toInt⟩)
      | none =>
      match (if zero then regionOf (s.regionsFor c.core c.asid) (va / 128 * 128) 128 else none) with
      | some (slot, _) => .error (.trap (shapeTrap slot 0 va))
      | none => .ok (some p)

/-- A CMO that writes back: the action on the tag of the line, its write-back counted in `ACKC` (R97, R114). -/
def State.cmo (s : State) (m : MemOp) (act : Nat → State → State) : Out State :=
  let c := s.me
  match s.placeCmo c false m with
  | .error e => .next (s.stopMe e)
  | .ok none => .next s.done
  | .ok (some p) => .next (act (laneTag p.lane) (s.settle c.core c.asid false p)).done

/-- CMO.CLEAN (R114). -/
def execCmoClean (m : MemOp) (s : State) : Out State := s.cmo m fun l s => s.cleanLine (some s.cur) s.me.core l
/-- CMO.FLUSH (R114). -/
def execCmoFlush (m : MemOp) (s : State) : Out State := s.cmo m fun l s => s.flushLine (some s.cur) s.me.core l
/-- CMO.INVAL: a dirty line is flushed (R114). -/
def execCmoInval (m : MemOp) (s : State) : Out State := s.cmo m fun l s => s.flushLine (some s.cur) s.me.core l

/-- CMO.ZERO: the whole line valid, dirty and zero; where no line can be held the zeros go out as write-through stores (R114;
log 15). -/
def execCmoZero (m : MemOp) (s : State) : Out State :=
  let c := s.me
  match s.placeCmo c true m with
  | .error e => .next (s.stopMe e)
  | .ok none => .next s.done
  | .ok (some p) =>
    let s := s.settle c.core c.asid true p
    let lane (i : Nat) : Lane :=
      { p.lane with pa := lineOf p.lane.pa * 128 + 8 * i, va := p.lane.va / 128 * 128 + 8 * i, n := 8, idx := i }
    .next (s.storeLanes s.src c.slot false ((List.range 16).map fun i => (lane i, 0))).done

end Sys2Proof.Machine
end

