-- ==== Sys2Proof/Machine/Atomic.lean ====
section
/-! DEFINITION. Atomics, reductions and synchronisation: AMO, CAS, RED, REDV, ACQ, REL, BAR, WAITW, WAKE, PEND and the steps that
perform them at homes and banks (R116 to R137). -/

namespace Sys2Proof.Machine

/-! ## Values -/

/-- The operation of an AMO or integer RED on `8 × n` bits (R123). -/
def amoValue (op n old b : Nat) : Nat :=
  let w := 8 * n
  let m := 2 ^ w
  match op with
  | 0 => (old + b) % m
  | 1 => old &&& b % m
  | 2 => old ||| b % m
  | 3 => old ^^^ b % m
  | 4 => if signedOf w old ≤ signedOf w b then old else b % m
  | 5 => if signedOf w old ≥ signedOf w b then old else b % m
  | 6 => if old ≤ b % m then old else b % m
  | 7 => if old ≥ b % m then old else b % m
  | _ => b % m

/-- Whether the value written comes from the old one, whose mark it then carries (R117). -/
def atomDerives : AtomOp → Bool
  | .amo op _ _ => op ≤ 7
  | _ => false

/-- What an AMO, a CAS or the clearing of an adjoint cell writes over an old value, if it writes (R108, R123, R124). -/
def atomNew (op : AtomOp) (n old : Nat) : Option Nat :=
  match op with
  | .amo k b _ => some (amoValue k n old b.toNat)
  | .cas cmp new _ => if old = cmp.toNat % 2 ^ (8 * n) then some (new.toNat % 2 ^ (8 * n)) else none
  | .readClear _ _ => some 0
  | _ => none

/-- The tag register of an AMO or CAS; x0 where none is named (R118). -/
def atomTag : AtomOp → R5
  | .amo _ _ t | .cas _ _ t => t
  | _ => 0

/-- The register writes of an AMO or CAS: the old value sign-extended, then the tag (R123, R124). -/
def atomWrites (q : MemReq) (op : AtomOp) (l : Lane) (old tag : Nat) (bad : Bool) : List RegWrite :=
  (match q.dst with
    | .x a _ _ => [RegWrite.x a (sextWord (8 * l.n) old) (if bad then some (BitVec.ofNat 64 l.va) else none)]
    | _ => []) ++ (if atomTag op = 0 then [] else [RegWrite.x (atomTag op) (BitVec.ofNat 64 tag) none])

/-- The address phase of an operation of this chapter (R117): no pool, host or remote memory unless the need says otherwise, no
element of a region. -/
def State.placeAtomic (s : State) (c : Ctx) (need : Need) (idx : Nat) (base : Word) (disp : Int) : Except Stop Place :=
  match s.place c need idx base disp with
  | .error e => .error e
  | .ok p => match p.region with
    | some (slot, _) => .error (.trap (shapeTrap slot idx (formed base disp).toNat))
    | none => .ok p

/-- The need of a synchronisation operation: a home slice (R117). -/
def homeNeed (n : Nat) (r w : Bool) : Need :=
  { n := n, r := r, w := w, noPool := some 6, onlyDevice := some 6, store := w }

/-! ## AMO and CAS -/

/-- The words of an atomic performed in a bank (R116, R119: tag 0); a bank whose core is gone answers zero (R389). -/
def State.atomAtBank (s : State) (q : MemReq) (op : AtomOp) (l : Lane) : State × List RegWrite :=
  if s.coreGone (poolCore l.pa) then (s, atomWrites q op l 0 0 false)
  else
    let old := s.read l.pa l.n
    let bad := s.poisonAt l.pa l.n
    let s := match atomNew op l.n old with
      | some v => s.writeMarked l.pa l.n v (bad && atomDerives op)
      | none => s
    (s, atomWrites q op l old 0 bad)

/-- Issue of an AMO or CAS (R116, R123, R124): parked until the reply. -/
def State.atomInstr (s : State) (n : Nat) (a : R5) (m : MemOp) (op : AtomOp) : Out State :=
  let c := s.me
  match s.placeAtomic c { n := n, r := true, w := true, onlyDevice := some 6, remote := true, store := true } 0
      (c.xr m.b) m.disp.toInt with
  | .error e => .next (s.stopMe e)
  | .ok p =>
    let s := (s.settle c.core c.asid true p).parkMe .reply
    let q : MemReq := ⟨s.src, [p.lane], .x a n true, true, true⟩
    match laneRoute c.core p.lane with
    | 1 =>
      let r := s.atomAtBank q op p.lane
      .next (r.1.post (.longResultArrival (Reply.of s.cur r.2 true)))
    | 2 => .next (s.post (.poolBankAccess q (.atom op)))
    | 3 => .next ((s.yieldLines c.core [lineOf p.lane.pa]).post (.atomicAtHome q op))
    | _ => .next (s.remoteAtom q op)

/-- AMO (R123). -/
def execAmo (f : F6) (a : R5) (m : MemOp) (b d : R5) (s : State) : Out State :=
  let n := if f.getLsbD 0 then 4 else 8
  s.atomInstr n a m (.amo (f.toNat / 2) (s.me.xr b) d)

/-- CAS (R124): the compare value is read at issue. -/
def execCas (f : F6) (a : R5) (m : MemOp) (b d : R5) (s : State) : Out State :=
  let n := if f.getLsbD 0 then 4 else 8
  s.atomInstr n a m (.cas (s.me.xr a) (s.me.xr b) d)

/-! ## RED and REDV -/

/-- Lane bytes of an operation code of RED and REDV (R125). -/
def redBytes (op : Nat) : Nat := if op = 16 then 4 else if op > 16 then 2 else if op % 2 = 1 then 4 else 8

/-- A lane that has been applied is marked as bound. -/
def laneApplied (l : Lane) : Lane := { l with kmask := 2 ^ l.n - 1 }

/-- An integer reduction of one lane at a bank (R116, R125); a bank whose core is gone discards it (R389). -/
def State.redAtBank (s : State) (op : Nat) (l : Lane) (v : Nat) : State :=
  let bad := s.poisonAt l.pa l.n
  if s.coreGone (poolCore l.pa) then s else s.writeMarked l.pa l.n (amoValue (op / 2) l.n (s.read l.pa l.n) v) bad

/-- A reduction of one lane at its home (R119, R120, R125). -/
def State.redAtHome (s : State) (core op : Nat) (l : Lane) (v : Nat) : State :=
  if op ≥ 16 then s.contribute l.pa core (op - 16) ((Fmt.ofCode (op - 16)).decode v)
  else
    let s := s.homeWrite (lineOf l.pa)
    (s.homeStore l.pa l.n (amoValue (op / 2) l.n (s.read l.pa l.n) v) (s.poisonAt l.pa l.n)).2

/-- Send a reduction on to the next place that applies some of its lanes, or acknowledge it after its last (R126). -/
def State.routeRed (s : State) (q : MemReq) (op : Nat) (vals : List Nat) : State :=
  let rs := q.lanes.map (laneRoute q.src.core)
  if rs.contains 3 then s.post (.contributionAtHome q op vals)
  else if rs.contains 2 then s.post (.poolBankAccess q (.red op vals))
  else s.post (.contributionAckArrival q.src.tid)

/-- The phase of every lane of a reduction (R117, R125). -/
def State.placeReds (s : State) (c : Ctx) (op : Nat) (ls : List LaneAcc) : Except Stop (List Place) :=
  let need : Need := { n := redBytes op, r := true, w := true, noPool := if op ≥ 16 then some 6 else none,
                       onlyDevice := some 6, store := true }
  placeAll (fun i => match ls[i]? with
    | none => .error (spaceTrap 3 0 i)
    | some l => s.placeAtomic c need l.idx l.base l.disp) (List.range ls.length)

/-- RED and REDV (R116, R125, R126): every lane checked, then counted once and sent. -/
def State.redInstr (s : State) (op : Nat) (ls : List LaneAcc) : Out State :=
  let c := s.me
  match ls with
  | [] => .next s.done
  | ls =>
    match s.placeReds c op ls with
    | .error e => .next (s.stopMe e)
    | .ok ps =>
      let vals := ls.map LaneAcc.val
      let lanes := ps.map Place.lane
      let s := (s.settleAll c.core c.asid true ps).yieldLines c.core (linesOf lanes)
      let s := (lanes.zip vals).foldl (fun (s : State) (e : Lane × Nat) =>
        if laneRoute c.core e.1 = 1 then s.redAtBank op e.1 e.2 else s) s
      let q : MemReq := ⟨s.src, lanes.map fun l => if laneRoute c.core l = 1 then laneApplied l else l, .none, true, false⟩
      .next ((s.setMe { s.me with pendc := s.me.pendc + 1 }).routeRed q op vals).done

/-- RED (R125). -/
def execRed (f : F6) (m : MemOp) (b : R5) (s : State) : Out State :=
  s.redInstr f.toNat [⟨0, s.me.xr m.b, m.disp.toInt, (s.me.xr b).toNat % 2 ^ (8 * redBytes f.toNat)⟩]

/-- REDV (R125): the active lanes, in the operation's width. -/
def execRedv (f : F6) (a : R5) (m : MemOp) (b : R5) (s : State) : Out State :=
  let c := s.me
  let op := f.toNat % 32
  let w := redBytes op
  s.redInstr op (((List.range (64 / w)).filter fun i => !f.getLsbD 5 || (c.kr a).getLsbD i).map fun i =>
    ⟨i, c.xr m.b, m.disp.toInt + i * w, c.lane (8 * w) b i⟩)

/-- CONTRIBUTION_ACK_ARRIVAL (R126). -/
def execContributionAckArrival (tid : Nat) (s : State) : Out State :=
  .next (s.modCtx tid fun c => { c with pendc := c.pendc - 1 })

/-- The first lane of a request, homed here and not yet performed, whose page is held (R170). -/
def State.heldLane (s : State) (q : MemReq) : Option Lane :=
  q.lanes.find? fun l => laneRoute q.src.core l == 3 && (s.pageHolding l.pa).isSome

/-- Perform a request at its homes unless a page operation holds one of its pages (R102, R170). -/
def State.admitAll (s : State) (q : MemReq) (h : Held) (k : State → State) : State :=
  match s.heldLane q with
  | some l => s.enterHome l.pa h k
  | none => k s

/-- CONTRIBUTION_AT_HOME: every lane that lies in word memory, in ascending order (R116, R120, R126; log 64). -/
def execContributionAtHome (q : MemReq) (op : Nat) (vals : List Nat) (s : State) : Out State :=
  .next (s.admitAll q (.contrib q op vals) fun s =>
    let s := (q.lanes.zip vals).foldl (fun (s : State) (e : Lane × Nat) =>
      if laneRoute q.src.core e.1 = 3 then s.redAtHome q.src.core op e.1 e.2 else s) s
    s.routeRed { q with lanes := q.lanes.map fun l => if laneRoute q.src.core l = 3 then laneApplied l else l } op vals)

/-! ## Atomics at a home -/

/-- One AMO or CAS at its home, with its tag (R119, R123, R124). -/
def State.atomOnce (s : State) (q : MemReq) (op : AtomOp) (l : Lane) : State :=
  let line := lineOf l.pa
  let s := s.homeWrite line
  let old := s.read l.pa l.n
  let bad := s.poisonAt l.pa l.n
  let r := match atomNew op l.n old with
    | some v => s.homeStore l.pa l.n v (bad && atomDerives op)
    | none =>
      let t := s.tag line
      (t.1, t.2.walkWaiters line)
  r.2.post (.longResultArrival (Reply.of q.src.tid (atomWrites q op l old r.1 bad) q.parked))

/-- Read and clear adjoint cells: the highest lane of a cell takes its value (R107, R108). A lane that a page operation has answered is
bound already (R170). -/
def State.readClear (s : State) : List Lane → State × List Lane
  | [] => (s, [])
  | l :: r =>
    let t := s.readClear r
    if laneBound l then (t.1, l :: t.2) else
    let s := t.1.homeWrite (lineOf l.pa)
    ((s.homeStore l.pa l.n 0 false).2, { l with kval := s.read l.pa l.n, kmask := 2 ^ l.n - 1, bad := s.poisonAt l.pa l.n } :: t.2)

/-- The register write of a reverse store: each 16-bit lane is rounded into its region's format, with its draw; a lane of format 0 is
not rounded (R108, R188). -/
def clearedReply (q : MemReq) (rm : Nat) (rounds : List (Nat × Nat)) (ls : List Lane) : Reply :=
  let es := (ls.zip rounds).map fun e =>
    let f := Fmt.ofCode e.2.1
    if e.2.1 = 0 then (e.1, false)
    else
      let v := f.round rm e.2.2 (fp32.decode e.1.kval)
      ({ e.1 with kval := v }, f.nonfinite v)
  { tid := q.src.tid, writes := loadWrites q.dst (es.map Prod.fst), nfs := es.any Prod.snd, sats := false, acquire := false,
    complete := q.parked }

/-- The exchange of a pushing store at its homes: each old value goes to the tape; as the write-through store that it is, it also updates
the NC copy of the core's die (R97, R109, R166, R363). -/
def State.tapeSwap (s : State) (q : MemReq) : List (Lane × Nat × Lane × Nat × Nat) → State
  | [] => s
  | (l, v, e, slot, addr) :: r =>
    let s := s.homeWrite (lineOf l.pa)
    let old := s.read l.pa l.n
    let bad := s.poisonAt l.pa l.n
    let t := (s.updateCopy (dieOf q.src.core) [({ l with bad := false }, v)]).homeStore l.pa l.n v false
    (t.2.post (.tapePush q.src e addr old l.n slot t.1 bad)).tapeSwap q r

/-- The PEND word of a slice for an element (R137). -/
def State.pendWord (s : State) (pa : Nat) : Nat :=
  let sl := s.slice (homeSlice (lineOf pa))
  (tillsOf sl.tills pa).length % 65536 + 2 ^ 16 * sl.efs.toNat + 2 ^ 17 * sl.nff.toNat + 2 ^ 32 * sl.tills.length +
    2 ^ 48 * sl.efcnt

/-- PEND at the home: no fold; the clearing form clears in the same step (R137). -/
def State.pendAtHome (s : State) (q : MemReq) (clear : Bool) (l : Lane) : State :=
  let k := homeSlice (lineOf l.pa)
  let w := s.pendWord l.pa
  let s := if clear then s.setSlice k { s.slice k with efs := false, nff := false, efcnt := 0 } else s
  match q.dst with
  | .x a _ _ => s.post (.longResultArrival (Reply.of q.src.tid [.x a (BitVec.ofNat 64 w) none] q.parked))
  | _ => s

/-- ATOMIC_AT_HOME (R116, R123, R124, R108, R109, R137). -/
def execAtomicAtHome (q : MemReq) (op : AtomOp) (s : State) : Out State :=
  .next (s.admitAll q (.atom q op) fun s =>
    match op, q.lanes with
    | .readClear rm rounds, ls =>
      let r := s.readClear ls
      r.1.post (.longResultArrival (clearedReply q rm rounds r.2))
    | .tapeSwap vals es slots addrs, ls => s.tapeSwap q (swapParts ls vals es slots addrs)
    | .pend clear, l :: _ => s.pendAtHome q clear l
    | op, l :: _ => s.atomOnce q op l
    | _, [] => s)

/-! ## Accesses at banks beyond the sector -/

/-- A refused or absent bank answers an AMO or CAS with zero, and the record goes to the domain (R93). -/
def State.atomAtFarBank (s : State) (q : MemReq) (op : AtomOp) (l : Lane) : State :=
  match s.bankAnswer q.src false l true with
  | .ok =>
    let r := s.atomAtBank q op l
    r.1.post (.longResultArrival (Reply.of q.src.tid r.2 q.parked))
  | .refused c d =>
    (s.refusePool q.src l c d).post (.longResultArrival (Reply.of q.src.tid (atomWrites q op l 0 0 false) q.parked))
  | _ => s.post (.longResultArrival (Reply.of q.src.tid (atomWrites q op l 0 0 false) q.parked))

/-- A reduction of one lane at a bank beyond the sector: a refusal discards it (R93). -/
def State.redAtFarBank (s : State) (src : Src) (op : Nat) (l : Lane) (v : Nat) : State :=
  match s.bankAnswer src false l true with
  | .ok => s.redAtBank op l v
  | .refused c d => s.refusePool src l c d
  | _ => s

/-- What a bank does with an access (R93, R95, R97, R116). -/
def State.atBank (s : State) (q : MemReq) (op : BankOp) : State :=
  match op with
  | .load =>
    let r := q.lanes.foldl (fun (a : State × List Lane) l =>
      let t := a.1.bankLoad q.src l
      (t.1, a.2 ++ [t.2])) (s, [])
    r.1.routeLoad { q with lanes := r.2 }
  | .store vals counted =>
    let s := (q.lanes.zip vals).foldl (fun (s : State) (e : Lane × Nat) => s.bankStore q.src (bankLate op) e.1 e.2) s
    if counted then s.post (.writeAckArrival q.src.tid 0) else s
  | .atom (.tapeSwap vals es slots addrs) => s.swapAtBank q (swapParts q.lanes vals es slots addrs)
  | .atom op => match q.lanes with
    | l :: _ => s.atomAtFarBank q op l
    | [] => s
  | .red op vals =>
    let s := (q.lanes.zip vals).foldl (fun (s : State) (e : Lane × Nat) =>
      if laneRoute q.src.core e.1 = 2 then s.redAtFarBank q.src op e.1 e.2 else s) s
    s.routeRed { q with lanes := q.lanes.map fun l => if laneRoute q.src.core l = 2 then laneApplied l else l } op vals

/-- POOL_BANK_ACCESS: a store into a TLDP source first has it copied (R94). -/
def execPoolBankAccess (q : MemReq) (op : BankOp) (s : State) : Out State :=
  match (if bankWrites op then s.bankSource q.src (bankLate op) q.lanes else none) with
  | some (cell, entry) => .next ((s.startCopy cell entry).postFront (.lockedStoreRelease q op))
  | none => .next (s.atBank q op)

/-! ## Release and acquire -/

/-- The record of a word in a table of records. -/
def recordOf (rs : List (Nat × List Nat)) (word : Nat) : Option (List Nat) := (rs.find? fun e => e.1 = word).map Prod.snd

/-- Record(ea, core): none when the release must be eager (R127). -/
def State.record (s : State) (word core : Nat) : Option State :=
  let k := homeSlice (lineOf word)
  let sl := s.slice k
  match recordOf sl.records word with
  | some cs =>
    if cs.contains core then some s
    else if cs.length ≥ 8 then none
    else some (s.setSlice k { sl with records := sl.records.map fun e => if e.1 = word then (word, e.2 ++ [core]) else e })
  | none =>
    if sl.records.length ≥ Config.recordEntries then none
    else some (s.setSlice k { sl with records := sl.records ++ [(word, [core])] })

/-- The end of a release: the store if it has one, a tag, the walk, the acknowledgement (R128). REL.N too is a write at the home, which
recalls the line first (R164). -/
def State.finishRelease (s : State) (q : MemReq) (n : Nat) (val : Word) : State :=
  match q.lanes with
  | [] => s
  | l :: _ =>
    let line := lineOf l.pa
    let r := if n = 0 then
        let t := (s.homeWrite line).tag line
        (t.1, t.2.walkWaiters line)
      else s.homeStore l.pa n (val.toNat % 2 ^ (8 * n)) false
    r.2.post (.writeAckArrival q.src.tid r.1)

/-- RELEASE_AT_HOME (R127, R128). -/
def execReleaseAtHome (q : MemReq) (n : Nat) (val : Word) (s : State) : Out State :=
  match q.lanes with
  | [] => .next s
  | l :: _ => .next (s.enterHome l.pa (.rel q n val) fun s =>
      let s := s.foldLine (lineOf l.pa)
      match s.record (l.pa / 8 * 8) q.src.core with
      | some s => s.finishRelease q n val
      | none => s.startDrain (lineOf l.pa) [q.src.core] (.rel q n val))

/-- REL: waits until nothing of the context is outstanding, then sends its store (R128). -/
def execRel (f : F6) (a : R5) (m : MemOp) (s : State) : Out State :=
  let c := s.me
  let n := if f.toNat = 1 then 4 else 8
  match s.placeAtomic c (homeNeed n (f.toNat = 2) (f.toNat ≠ 2)) 0 (c.xr m.b) m.disp.toInt with
  | .error e => .next (s.stopMe e)
  | .ok p =>
    if c.longs ≠ 0 || c.ackc ≠ 0 || c.pendc ≠ 0 then .next (s.parkMe .quiet)
    else
      let s := (s.settle c.core c.asid (f.toNat ≠ 2) p).yieldLines c.core [lineOf p.lane.pa]
      .next ((s.addAck s.cur 1).post
        (.releaseAtHome ⟨s.src, [p.lane], .none, true, false⟩ (if f.toNat = 2 then 0 else n) (c.xr a))).done

/-- ACQUIRE_AT_HOME: the recorded cores are drained, in parallel (R129). -/
def execAcquireAtHome (q : MemReq) (n : Nat) (s : State) : Out State :=
  match q.lanes with
  | [] => .next s
  | l :: _ => .next (s.enterHome l.pa (.acq q n) fun s =>
      let s := s.foldLine (lineOf l.pa)
      s.startDrain (lineOf l.pa) (s.recorded (l.pa / 8 * 8)) (.acq q n))

/-- ACQ (R129). -/
def execAcq (f : F6) (a : R5) (m : MemOp) (s : State) : Out State :=
  let c := s.me
  let n := if f.toNat = 1 then 4 else 8
  match s.placeAtomic c (homeNeed n true false) 0 (c.xr m.b) m.disp.toInt with
  | .error e => .next (s.stopMe e)
  | .ok p =>
    let s := (s.settle c.core c.asid false p).yieldLines c.core [lineOf p.lane.pa]
    .next ((s.parkMe .reply).post (.acquireAtHome ⟨s.src, [p.lane], if f.toNat = 2 then .none else .x a n false, true, true⟩
      (if f.toNat = 2 then 0 else n)))

/-- DRAIN_COMMAND_ARRIVAL: the core writes back every dirty line, whichever context wrote it (R129); a core that is gone answers
at once (R130). -/
def execDrainCommandArrival (core job : Nat) (s : State) : Out State :=
  let s := if s.coreGone core then s else s.cleanAll none core (fun _ => true)
  match s.jobs.find? job with
  | none => .next s
  | some j =>
    let left := j.left.filter (· ≠ core)
    let s := { s with jobs := s.jobs.set job { j with left := left } }
    .next (if left.isEmpty then s.post (.drainCompletion job) else s)

/-! ## Barriers and waits -/

/-- The phase of a barrier word (R134). -/
def phaseOf (b : Nat) : Nat := bitsOf b 63 32

/-- A waiter that has expired is told so; a barrier's arrival is withdrawn where the phase still stands (R132, R134). -/
def State.expire (s : State) (w : Waiter) : State :=
  let a := w.lane.pa
  let s := s.homeRead (lineOf a)
  let v := s.read a w.lane.n
  let w' := { w with lane := { w.lane with bad := s.poisonAt a w.lane.n } }
  match w.cond with
  | .word _ _ _ => s.post (.waiterWakeArrival w' (BitVec.ofNat 64 v) 0)
  | .phase p =>
    let s := if phaseOf v = p ∧ v % 65536 ≠ 0 then
        ((s.homeWrite (lineOf a)).homeStore a 8 (v - 1) (s.poisonAt a 8)).2
      else s
    s.post (.waiterWakeArrival w' (BitVec.ofNat 64 (p * 2 ^ 32)) 0)

/-- Evaluate a wait at the home now; else register it, or answer that there is no room (R131, R132). -/
def State.register (s : State) (w : Waiter) : State :=
  let line := lineOf w.lane.pa
  let s := s.homeRead line
  let k := homeSlice line
  if waitHolds w.cond (s.waiterValue w).toNat then s.satisfy w
  else if s.passed w.deadline then s.expire w
  else if (s.slice k).waiting ≥ Config.waiterEntries then s.at (s.pcyc + 1024) (.waiterPollRetry w)
  else
    let s := s.setSlice k { s.slice k with waiters := (s.slice k).waiters ++ [w], retained := false }
    match w.deadline with
    | none => s
    | some d => s.at (cycleOfTick d + 1) (.waitDeadlineExpiry w)

/-- WAIT_REGISTRATION (R131, R135, R349). -/
def execWaitRegistration (w : Waiter) (s : State) : Out State :=
  .next (s.enterHome w.lane.pa (.wait w) fun s => s.register w)

/-- WAIT_DEADLINE_EXPIRY: the end of the deadline cycle (R132). A waiter whose phase is complete but still draining succeeds with the
others of the phase (R134). -/
def execWaitDeadlineExpiry (w : Waiter) (s : State) : Out State :=
  let k := homeSlice (lineOf w.lane.pa)
  if (s.slice k).waiters.contains w && !(forPhase w && s.phaseDrains w.lane.pa) then
    .next ((s.setSlice k { s.slice k with waiters := (s.slice k).waiters.erase w }).expire w)
  else .next s

/-- WAITER_POLL_RETRY: the wait is sent again; a suspended poller is queued first (R131, R133). -/
def execWaiterPollRetry (w : Waiter) (s : State) : Out State :=
  if (s.ctx w.src.tid).imstate == .suspended then .next (s.post (.suspendedPollerRequeue w))
  else .next (s.post (.waitRegistration w))

/-- SUSPENDED_POLLER_REQUEUE (R133). -/
def execSuspendedPollerRequeue (w : Waiter) (s : State) : Out State :=
  .next ((s.requeue w.src.tid).post (.waitRegistration w))

/-- The result register of a wait (R134, R135, R349). -/
def waitResult (w : Waiter) (val : Word) (result : Nat) : Word :=
  let code := if result = 1 then 0 else if result = 0 then 1 else 2
  match w.kind with
  | 0 => if w.lane.n = 4 then sextWord 32 val.toNat else val
  | 3 => BitVec.ofNat 64 code
  | _ => BitVec.ofNat 64 (phaseOf val.toNat * 2 ^ 32 + code)

/-- WAITER_WAKE_ARRIVAL: the results, after the acquire of a successful one; into the image of a suspended thread (R131, R133 to
R135, R349). -/
def execWaiterWakeArrival (w : Waiter) (val : Word) (result : Nat) (s : State) : Out State :=
  let c := s.ctx w.src.tid
  if c.park ≠ some .word then .next s
  else
    let s := if result = 1 && (w.acq || w.kind == 1) then s.selfInvalidate c.core else s
    .next (s.wakeWith w.src.tid fun c =>
      let c := c.setX w.a (waitResult w val result)
      let c := if w.kind = 0 then c.setP w.pe.toNat (result == 1) else c
      if w.kind ≠ 3 && w.lane.bad && w.a != 0 then { c with xPois := c.xPois.set w.a.toNat (BitVec.ofNat 64 w.lane.va) } else c)

/-- A barrier word after an arrival that does not complete the phase, and after one that does (R134). -/
def State.arrive (s : State) (w : Waiter) : State :=
  let a := w.lane.pa
  let line := lineOf a
  let s := s.homeWrite line
  let b := s.read a 8
  let bn := bitsOf b 31 16
  let barr := b % 65536
  let p := phaseOf b
  let w := { w with lane := { w.lane with bad := s.poisonAt a 8 } }
  if bn = 0 ∨ barr ≥ bn then s.post (.waiterWakeArrival w (BitVec.ofNat 64 b) 2)
  else if barr + 1 = bn then
    let v := (p + 1) % 2 ^ 32 * 2 ^ 32 + bn * 2 ^ 16
    let s := ((s.writeMarked a 8 v (s.poisonAt a 8)).tag line).2
    if w.kind = 1 then
      s.startDrain line (s.recorded (a / 8 * 8)) (.bar w (BitVec.ofNat 64 v))
    else (s.walkWaiters line).post (.waiterWakeArrival w (BitVec.ofNat 64 v) 1)
  else
    let s := (s.homeStore a 8 (b + 1) (s.poisonAt a 8)).2
    s.register { w with cond := .phase p }

/-- BARRIER_ARRIVAL_AT_HOME: the release part, possibly eager, then the arrival (R127, R134). -/
def execBarrierArrivalAtHome (w : Waiter) (s : State) : Out State :=
  .next (s.enterHome w.lane.pa (.bar w) fun s =>
    let s := s.foldLine (lineOf w.lane.pa)
    if w.kind ≠ 1 then s.arrive w
    else match s.record (w.lane.pa / 8 * 8) w.src.core with
      | some s => s.arrive w
      | none => s.startDrain (lineOf w.lane.pa) [w.src.core] (.arrive w))

/-- DRAIN_COMPLETION: an acquire clears the word's record, and what the drain was for goes on (R127, R129, R134, R135). -/
def execDrainCompletion (job : Nat) (s : State) : Out State :=
  match s.jobs.find? job with
  | none => .next s
  | some j =>
    let s := { s with jobs := s.jobs.erase job }
    match j.next with
    | .acq q n =>
      match q.lanes with
      | [] => .next s
      | l :: _ =>
        let s := (s.clearRecord (l.pa / 8 * 8)).homeRead (lineOf l.pa)
        let l := laneBind { l with kmask := 0 } (s.read l.pa l.n) (2 ^ l.n - 1) (n != 0 && s.poisonAt l.pa l.n)
        .next (s.post (.longResultArrival { Reply.of q.src.tid (loadWrites q.dst [l]) true with acquire := true }))
    | .bar w v => .next (((s.clearRecord (w.lane.pa / 8 * 8)).walkLine j.line true).post (.waiterWakeArrival w v 1))
    | .wait w v => .next ((s.clearRecord (w.lane.pa / 8 * 8)).post (.waiterWakeArrival w v 1))
    | .rel q n v => .next (s.finishRelease q n v)
    | .arrive w => .next (s.arrive w)

/-- BAR and BAR.N (R134): the limit counts from the first issue, before the wait of the release part. -/
def State.barInstr (s : State) (kind : Nat) (a : R5) (m : MemOp) : Out State :=
  let c := s.me
  match s.placeAtomic c (homeNeed 8 true true) 0 (c.xr m.b) m.disp.toInt with
  | .error e => .next (s.stopMe e)
  | .ok p =>
    let tick := if c.stage = 0 then s.ticks else c.hold.toNat
    if kind = 1 && (c.longs ≠ 0 || c.ackc ≠ 0 || c.pendc ≠ 0) then
      .next (s.setMe { c with stage := 1, hold := BitVec.ofNat 64 tick, park := some .quiet })
    else
      let s := (s.settle c.core c.asid true p).yieldLines c.core [lineOf p.lane.pa]
      .next ((s.parkCounted .word).post (.barrierArrivalAtHome
        ⟨s.src, p.lane, .phase 0, deadlineFrom tick (c.xr a), false, a, 0, kind⟩))

/-- BAR (R134). -/
def execBar (a : R5) (m : MemOp) (s : State) : Out State := s.barInstr 1 a m
/-- BAR.N (R134). -/
def execBarN (a : R5) (m : MemOp) (s : State) : Out State := s.barInstr 2 a m

/-- WAITW (R135). -/
def execWaitw (f : F6) (a : R5) (m : MemOp) (b d : R5) (pe : BitVec 4) (s : State) : Out State :=
  let c := s.me
  let n := if f.getLsbD 3 then 4 else 8
  match s.placeAtomic c (homeNeed n true false) 0 (c.xr m.b) m.disp.toInt with
  | .error e => .next (s.stopMe e)
  | .ok p =>
    let s := (s.settle c.core c.asid false p).yieldLines c.core [lineOf p.lane.pa]
    .next ((s.parkCounted .word).post (.waitRegistration
      ⟨s.src, p.lane, .word (f.toNat % 8) (!f.getLsbD 3) (c.xr b), deadlineFrom s.ticks (c.xr d), f.getLsbD 4, a, pe, 0⟩))

/-- WAKE_AT_HOME: the waiters of the line are walked; the second form then ends those that remain, all at once: none of them is evaluated
against what the withdrawal of another writes (R136; log 80). -/
def execWakeAtHome (q : MemReq) (timeout : Bool) (s : State) : Out State :=
  match q.lanes with
  | [] => .next s
  | l :: _ => .next (s.enterHome l.pa (.wake q timeout) fun s =>
      let line := lineOf l.pa
      let s := (s.homeRead line).walkWaiters line
      if timeout then
        let k := homeSlice line
        let ws := (s.slice k).waiters
        (ws.filter fun w => lineOf w.lane.pa = line).foldl State.expire
          (s.setSlice k { s.slice k with waiters := ws.filter fun w => lineOf w.lane.pa ≠ line })
      else s)

/-- WAKE and WAKE.T (R136). -/
def State.wakeInstr (s : State) (timeout : Bool) (m : MemOp) : Out State :=
  let c := s.me
  match s.placeAtomic c { homeNeed 1 true false with align := false, locks := false } 0 (c.xr m.b) m.disp.toInt with
  | .error e => .next (s.stopMe e)
  | .ok p =>
    let s := (s.settle c.core c.asid false p).yieldLines c.core [lineOf p.lane.pa]
    .next ((s.post (.wakeAtHome ⟨s.src, [p.lane], .none, true, false⟩ timeout)).done)

/-- WAKE (R136). -/
def execWake (m : MemOp) (s : State) : Out State := s.wakeInstr false m
/-- WAKE.T (R136). -/
def execWakeT (m : MemOp) (s : State) : Out State := s.wakeInstr true m

/-- PEND and PEND.C: they read the tables of the slice and no byte of the line, so the own pool cache's line stays (R116, R137;
log 65). -/
def State.pendInstr (s : State) (clear : Bool) (a : R5) (m : MemOp) : Out State :=
  let c := s.me
  match s.placeAtomic c { homeNeed 1 true false with align := false, locks := false, rdup := true } 0 (c.xr m.b)
      m.disp.toInt with
  | .error e => .next (s.stopMe e)
  | .ok p =>
    let s := s.settle c.core c.asid false p
    .next ((s.finish (·.pendX a)).post (.atomicAtHome ⟨s.src, [p.lane], .x a 8 false, true, false⟩ (.pend clear)))

/-- PEND (R137). -/
def execPend (a : R5) (m : MemOp) (s : State) : Out State := s.pendInstr false a m
/-- PEND.C (R137). -/
def execPendC (a : R5) (m : MemOp) (s : State) : Out State := s.pendInstr true a m

end Sys2Proof.Machine
end

