-- ==== Sys2Proof/Machine/Fence.lean ====
section
/-! DEFINITION. FENCE and ICSYNC (R141 to R149). -/

namespace Sys2Proof.Machine

/-- Whether a core lies in a scope measured from another (R141); SYSTEM covers the cores of DEVICE scope (R148). -/
def inScope (me q scope : Nat) : Bool :=
  match scope with
  | 0 | 1 => true
  | 2 => dieOf q == dieOf me
  | 3 => sectorOf (cellOf q) == sectorOf (cellOf me)
  | 4 => cellOf q == cellOf me
  | _ => q == me

/-- The cores of a scope that hold anything: any other core has nothing to write back, discard or change. -/
def State.scopeCores (s : State) (me scope : Nat) : List Nat := (s.cores.map Prod.fst).filter (inScope me · scope)

/-- Whether an operation at a bank or the bridge is a write that its thread counts in `ACKC` (R97, R109). -/
def countedWrite : BankOp → Bool
  | .store _ counted => counted
  | .atom (.tapeSwap _ _ _ _) => true
  | .load | .atom _ | .red _ _ => false

/-- Counted writes of a thread to host memory or another device that are not yet performed (R144). -/
def State.farWrites (s : State) (tid : Nat) : Nat :=
  (s.pending.filter fun e => match e with
    | .bridgeDeviceAccess q op => q.src.tid == tid && countedWrite op
    | _ => false).length +
  (s.bridgeWait.filter fun e => e.1.src.tid == tid && countedWrite e.2).length +
  (s.remotes.filter fun e => match e.2 with
    | .store src _ => src.tid == tid
    | .atom q (.tapeSwap _ _ _ _) => q.src.tid == tid
    | _ => false).length

/-- Whether a request of a thread binds a value for its program (R139). -/
def reqLoads (tid : Nat) (q : MemReq) : Bool := q.src.tid == tid && (match q.dst with
  | .x _ _ _ | .v _ _ | .buf | .decl _ => true
  | .none | .code _ => false)

/-- Whether an access that a page operation holds is a load of a thread. -/
def heldLoads (tid : Nat) : Held → Bool
  | .fill ⟨q, _⟩ | .atom q _ => reqLoads tid q
  | _ => false

/-- Whether a message is a load of a thread whose value is not bound yet (R139). -/
def loadsFor (tid : Nat) : Event → Bool
  | .fillAtHome ⟨q, _⟩ | .lineFillArrival q _ | .poolBankAccess q .load | .bridgeDeviceAccess q .load | .atomicAtHome q _ => reqLoads tid q
  | .pageQueueRetry _ _ _ h => heldLoads tid h
  | .mintReference q => q.src.tid == tid && q.peer.isNone && (match q.use with
      | .tqry _ => true
      | _ => false)
  | _ => false

/-- Whether what waits for another device's answer is a TQRY of a thread (R157). -/
def awaitsTqry (tid : Nat) : RemoteWait → Bool
  | .key q => q.src.tid == tid && (match q.use with
      | .tqry _ => true
      | _ => false)
  | _ => false

/-- Whether a load of a thread, or a TQRY (R157), is in flight, at a page operation, or at the bridge (R139, R144). -/
def State.loading (s : State) (tid : Nat) : Bool :=
  s.pending.any (loadsFor tid) || s.due.any (loadsFor tid) || s.timers.any (fun e => loadsFor tid e.2) ||
    s.bridgeWait.any (fun e => reqLoads tid e.1) || s.remotes.any (fun e => awaitsTqry tid e.2) || s.dies.any fun d => d.2.pages.any fun r => r.2.queue.any (heldLoads tid)

/-- Whether every earlier access of a thread is performed: its loads are bound, its contributions and counted writes acknowledged;
writes to host and remote memory count at SYSTEM scope only (R139, R144). What engines do does not count (R146). -/
def State.quiet (s : State) (tid : Nat) (system : Bool) : Bool :=
  let c := s.ctx tid
  !s.loading tid && c.pendc == 0 && decide (c.ackc ≤ if system then 0 else s.farWrites tid)

/-- The REL part of a fence at a scope, which takes two parts when it has to wait (R144): the answer is either the state
that waits, or the state in which the part is complete. The issuing thread's stage counts from `base`. It acts on the core where the
instruction was issued, also when the thread has been placed elsewhere meanwhile (R146). -/
def State.relPart (s : State) (scope base : Nat) : Except State State :=
  let c := s.me
  if c.stage > base then .ok s
  else if !s.quiet s.cur (scope == 0) then .error (s.parkMe (.performed (scope == 0)))
  else if scope > 4 then .ok s
  else
    let s := s.cleanAll none c.issuedOn (fun _ => true)
    if s.writingBack c.issuedOn then
      .error (s.setMe { s.me with stage := base + 1, midway := true, park := some (.writeBacks c.issuedOn) })
    else .ok s

/-- The ACQ part of a fence (R144). -/
def State.acqPart (s : State) (scope : Nat) : State :=
  if s.loading s.cur then s.parkMe .loads
  else if scope ≤ 4 then (s.selfInvalidate s.me.core).done else s.done

/-- FENCE.FULL (R144). -/
def execFenceFull (scope : BitVec 3) (s : State) : Out State :=
  match s.relPart scope.toNat 0 with
  | .error s => .next s
  | .ok s => .next (s.acqPart scope.toNat)

/-- FENCE.ACQ (R144). -/
def execFenceAcq (scope : BitVec 3) (s : State) : Out State := .next (s.acqPart scope.toNat)

/-- FENCE.REL (R144). -/
def execFenceRel (scope : BitVec 3) (s : State) : Out State :=
  match s.relPart scope.toNat 0 with
  | .error s => .next s
  | .ok s => .next s.done

/-- FENCE.ACK (R144). -/
def execFenceAck (s : State) : Out State := .next (if s.me.ackc ≠ 0 then s.parkMe .acks else s.done)

/-- Ask every core of a list to act over plane 6, and wait for their acknowledgements (R148). -/
def State.askCores (s : State) (cores : List Nat) (e : Nat → Event) : State :=
  match cores with
  | [] => s.done
  | cs => (cs.foldl (fun s q => s.post (e q)) s).setMe { s.me with stage := 9, awaits := cs.length, park := some .plane6 }

/-- One of the acknowledgements that a thread awaits has returned. -/
def State.ackPlane6 (s : State) (tid : Nat) : State := s.modCtx tid fun c => { c with awaits := c.awaits - 1 }

/-- The fence part of ICSYNC, then the cores in its scope (R148); when every acknowledgement has returned it is complete. -/
def State.icsync (s : State) (scope : Nat) (range : Option (Nat × Nat × Nat)) (empty : Bool) : State :=
  if s.me.stage = 9 then s.done
  else match s.relPart scope 0 with
    | .error s => s
    | .ok s =>
      if empty then s.done
      else s.askCores (s.scopeCores s.me.core scope) (fun q => .icsyncInvalidateAtCore s.cur q range)

/-- ICSYNC of every line (R148). -/
def execIcsync (scope : BitVec 3) (s : State) : Out State := .next (s.icsync scope.toNat none false)

/-- ICSYNC of a range; one longer than 2^24 bytes acts on every line (R148). -/
def execIcsyncRanged (scope : BitVec 3) (b l : R5) (s : State) : Out State :=
  let c := s.me
  let base := (c.xr b).toNat
  let len := (c.xr l).toNat
  if bitsOf base 63 62 ≠ 0 then .next (s.trapMe ⟨trapAddrSpace, 1, 0, c.xr b⟩)
  else if bitsOf base 61 53 ≠ 0 then .next (s.trapMe ⟨trapAddrSpace, 2, 0, c.xr b⟩)
  else .next (s.icsync scope.toNat
    (if len > 2 ^ 24 then none else some (c.asid, base / 64 * 64, min (base + len) (2 ^ 53))) (len == 0))

/-- The physical ranges that a virtual range of a space reaches, page by page, every copy of an RDUP page among them; unmapped pages are
skipped (R148). -/
def State.mappedRanges (s : State) (asid lo hi : Nat) : List (Nat × Nat) :=
  ((List.range (ceilDiv hi 65536 - lo / 65536)).map fun k =>
    let page := (lo / 65536 + k) * 65536
    let a := max lo page
    let b := min hi (page + 65536)
    match s.walk asid page with
    | .error _ => []
    | .ok l =>
      let pa := l.pa a
      if targetOf l.base = .hbm ∧ l.mode = 2 then (List.range 4).map fun d => (pa % 2 ^ 38 + d * 2 ^ 38, pa % 2 ^ 38 + d * 2 ^ 38 + (b - a))
      else [(pa, pa + (b - a))]).flatten.filter fun e => e.1 < e.2

/-- Clear the valid bits of the clean bytes of some lines of a core's pool cache (R148). -/
def State.invalidateLines (s : State) (core : Nat) (p : Nat → Bool) : State :=
  let q := s.core core
  let keep := q.cache.filter fun e => !p (tagLine e.1) || e.2.dirty ≠ 0
  let cache := keep.map fun e => (e.1, if p (tagLine e.1) then e.2.keepDirty else e.2)
  (s.setCore core { q with cache := cache }).noInstall core p

/-- ICSYNC_INVALIDATE_AT_CORE (R148). -/
def execIcsyncInvalidateAtCore (tid core : Nat) (range : Option (Nat × Nat × Nat)) (s : State) : Out State :=
  let q := s.core core
  let s := match range with
    | none => ((s.setCore core { q with icache := [] }).selfInvalidate core).refetch core fun _ _ => true
    | some (asid, lo, hi) =>
      let rs := s.mappedRanges asid lo hi
      let named (a : Nat) (va : Word) : Bool := a == asid && decide (lo ≤ va.toNat && va.toNat < hi)
      ((s.setCore core { q with icache := q.icache.filter fun e => !named e.1 e.2.1 }).invalidateLines core
        fun line => rs.any fun r => r.1 / 128 ≤ line && line * 128 < r.2).refetch core named
  .next (s.ackPlane6 tid)

end Sys2Proof.Machine
end

