-- ==== Sys2Proof/Machine/Convert.lean ====
section
/-! DEFINITION. Conversions and the statistics unit: the majors 0x68 to 0x6D (R191 to R199). -/

namespace Sys2Proof.Machine

/-- FP32 lane `i` of the pair `b`, `c` (R192): lanes 0 to 15 of `b`, then of `c`. -/
def Ctx.pairLane (x : Ctx) (w : Nat) (b c : R5) (i : Nat) : Nat :=
  if i < 512 / w then x.lane w b i else x.lane w c (i - 512 / w)

/-- A lane widened exactly to FP32 (R192). -/
def widened (f : Fmt) (bits : Nat) : Elem := Elem.pattern fp32 (fp32.round 0 0 (f.decode bits))

/-- Width of the destination lanes of a VCVT shape (R192). -/
def vcvtWidth (k : Nat) : Nat :=
  if k ∈ [6, 7, 8, 9, 25, 27] then 8 else if k ∈ [0, 1, 22, 23, 24, 26, 30, 31] then 16 else 32

/-- Draws of a VCVT shape (R192). -/
def vcvtDraws (k : Nat) : Nat :=
  if k ∈ [0, 1, 6, 7, 8, 9, 22, 23] then 32 else if k ∈ [18, 19, 20, 21] then 16 else 0

/-- Destination lane `i` of a VCVT shape; none where the shape keeps the lane (R192). -/
def Ctx.vcvtLane (x : Ctx) (k : Nat) (sat : Bool) (b c : R5) (i : Nat) : Option Elem :=
  let f32 (j : Nat) : FV := fp32.decode (x.pairLane 32 b c j)
  let half (f : Fmt) (h : Nat) : Option Elem :=
    if i / 32 = h then some (x.converted f sat x.rm (i % 32) (f32 (i % 32))) else none
  match k with
  | 0 => some (x.converted bf16 sat x.rm i (f32 i))
  | 1 => some (x.converted fp16 sat x.rm i (f32 i))
  | 2 => some (widened bf16 (x.lane 16 b i))
  | 3 => some (widened bf16 (x.lane 16 b (i + 16)))
  | 4 => some (widened fp16 (x.lane 16 b i))
  | 5 => some (widened fp16 (x.lane 16 b (i + 16)))
  | 6 => half e4m3 0
  | 7 => half e4m3 1
  | 8 => half e5m2 0
  | 9 => half e5m2 1
  | 18 => some (x.convertedInt 32 true x.rm i (f32 i))
  | 19 => some (x.rounded fp32 x.rm i (FV.ofInt (signedOf 32 (x.lane 32 b i))))
  | 20 => some (x.rounded fp32 x.rm i (FV.ofInt (x.lane 32 b i)))
  | 21 => some (x.convertedInt 32 false x.rm i (f32 i))
  | 22 => some (x.converted bf16 sat x.rm i (fp16.decode (x.lane 16 b i)))
  | 23 => some (x.converted fp16 sat x.rm i (bf16.decode (x.lane 16 b i)))
  | 24 => some (Elem.clamped 16 true (signedOf 32 (x.pairLane 32 b c i)))
  | 25 => some (Elem.clamped 8 true (signedOf 16 (x.pairLane 16 b c i)))
  | 26 => some (Elem.clamped 16 false (x.pairLane 32 b c i))
  | 27 => some (Elem.clamped 8 false (x.pairLane 16 b c i))
  | 28 => some (Elem.wrapped 32 (signedOf 16 (x.lane 16 b i)))
  | 29 => some (Elem.wrapped 32 (signedOf 16 (x.lane 16 b (i + 16))))
  | 30 => some (Elem.wrapped 16 (signedOf 8 (x.lane 8 b i)))
  | 31 => some (Elem.wrapped 16 (signedOf 8 (x.lane 8 b (i + 32))))
  | k => if k < 14 then some (widened e4m3 (x.lane 8 b (16 * (k - 10) + i)))
      else some (widened e5m2 (x.lane 8 b (16 * (k - 14) + i)))

/-- VCVT (R192). -/
def execVcvt (f : F6) (a b c : R5) (s : State) : Out State :=
  .next (s.finish fun x =>
    let k := f.toNat % 32
    let w := vcvtWidth k
    let es := (List.range (512 / w)).map (x.vcvtLane k (f.getLsbD 5) b c)
    let v := vecOfLanes w ((es.zipIdx).map fun p => match p.1 with
      | some e => e.bits
      | none => x.lane w a p.2)
    ((x.setV a v).raiseAll (es.filterMap id)).stepSr x.rm (vcvtDraws k))

/-- VSR (R193). -/
def execVsr (f : F6) (a b : R5) (s : State) : Out State :=
  .next (s.finish fun x =>
    let m := if f.getLsbD 4 then 4 else x.rm
    let k := f.toNat % 8
    x.writeLanes 32 a none m (if k = 0 then 0 else 16) fun i =>
      let v := fp32.decode (x.lane 32 b i)
      if k = 0 then Elem.pattern fp32 (fp32.round 0 0 v)
      else
        let e := x.converted (Fmt.ofCode k) (f.getLsbD 3) m i v
        { e with bits := fp32.round 0 0 ((Fmt.ofCode k).decode e.bits) })

/-- Raise `e` while the magnitude exceeds the bound of the type, up to 62 (R194). -/
def raiseScale (t n d : Nat) : Nat → Nat → Nat
  | 0, e => e
  | fuel + 1, e =>
    let q := scale2 (nxBound t) 1 ((e : Int) - 31)
    if e < 62 ∧ n * q.2 > q.1 * d then raiseScale t n d fuel (e + 1) else e

/-- One lane's effect on the scale of a block (R194). -/
def scaleStep (t : Nat) (e : Nat) (v : FV) : Nat :=
  match v with
  | .fin _ n d => if e < 63 then raiseScale t n d 63 e else e
  | _ => 63

/-- VQNT.X (R194). -/
def execVqntX (f : F6) (a b c : R5) (s : State) : Out State :=
  .next (s.finish fun x =>
    let t := f.toNat % 4
    let e := ((lanesOf 32 (x.vr b)).map fp32.decode).foldl (scaleStep t) ((x.xr c).toNat % 64)
    x.setX a (BitVec.ofNat 64 (t * 64 + e)))

/-- VQNT (R194). -/
def execVqnt (f : F6) (a b c : R5) (s : State) : Out State :=
  .next (s.finish fun x =>
    let t := f.toNat % 4
    let e := (x.xr c).toNat % 64
    let qs := (List.range 16).map fun i => nxQuantise t e x.rm (x.rnd x.rm i) (fp32.decode (x.lane 32 b i))
    let slot := ofLanes 4 (qs.map Prod.fst)
    let v := vecOfLanes 64 ((List.range 8).map fun q => if q = f.toNat / 4 then slot else x.lane 64 a q)
    ((x.setV a v).setSats (qs.any Prod.snd)).stepSr x.rm 16)

/-- VDQ (R195). -/
def execVdq (f : F6) (a b c : R5) (s : State) : Out State :=
  .next (s.finish fun x =>
    let slot := x.lane 64 b (f.toNat / 4)
    x.writeLanes 32 a none 0 0 fun i =>
      Elem.pattern fp32 (fp32.round 0 0 (nxDecode ((x.xr c).toNat % 256) (laneOf 4 slot i))))

/-! ## The statistics unit -/

/-- A 32-bit counter that saturates (R196). -/
def bumpStat (n : Nat) : Nat := min (n + 1) (2 ^ 32 - 1)

/-- Count one element (R196). -/
def StatSlot.count (t : StatSlot) (v : FV) : StatSlot :=
  let t := { t with total := bumpStat t.total }
  match v with
  | .fin _ n d =>
    if n = 0 then { t with zeros := bumpStat t.zeros }
    else
      let b := log2Floor n d - t.base
      let k := if b < 0 then 0 else min b.toNat 63
      { t with bins := t.bins.set k (bumpStat (t.bins.get k 0)) }
  | _ => { t with nonfinite := bumpStat t.nonfinite }

/-- A slot of a cell's statistics unit. -/
def State.statSlot (s : State) (cell k : Nat) : StatSlot := (s.cell cell).stats.get k StatSlot.initial

/-- Put a slot back. -/
def State.setStat (s : State) (cell k : Nat) (t : StatSlot) : State :=
  s.setCell cell { s.cell cell with stats := (s.cell cell).stats.set k t }

/-- An update of the unit is dropped unless the slot belongs to the address space (R197). -/
def State.applyStat (s : State) (cell asid slot : Nat) (vs : List FV) : State :=
  let t := s.statSlot cell slot
  if t.owner = some asid then s.setStat cell slot (vs.foldl StatSlot.count t) else s

/-- The values of the lanes of a vector in a statistics format (R197). -/
def statLanes (fmt : Nat) (v : Vec) : List FV :=
  (lanesOf (if fmt = 0 then 32 else 16) v).map (Fmt.ofCode fmt).decode

/-- VHIST: the update waits for the unit's grant, and the context is not ready until then (R64, R197). -/
def execVhist (f : F6) (b c : R5) (s : State) : Out State :=
  let x := s.me
  .next ((s.parkMe .statistics).post
    (.vhistGrant s.cur (cellOf x.core) x.asid ((x.xr c).toNat % 16) f.toNat (x.vr b)))

/-- The unit grants a VHIST: the update is applied and the instruction is complete (R197, R199). -/
def execVhistGrant (tid cell asid slot fmt : Nat) (v : Vec) (s : State) : Out State :=
  .next ((s.applyStat cell asid slot (statLanes fmt v)).modCtx tid Ctx.advance)

/-- An item of a slot (R198). -/
def StatSlot.item (t : StatSlot) (k : Nat) : Word :=
  if k < 64 then BitVec.ofNat 64 (t.bins.get k 0)
  else if k = 64 then BitVec.ofNat 64 t.zeros
  else if k = 65 then BitVec.ofNat 64 t.nonfinite
  else if k = 66 then BitVec.ofNat 64 t.total
  else if k = 67 then wordOfInt t.base
  else 1

/-- Clear a counter (R198). -/
def StatSlot.clearItem (t : StatSlot) (k : Nat) : StatSlot :=
  if k < 64 then { t with bins := t.bins.erase k }
  else if k = 64 then { t with zeros := 0 }
  else if k = 65 then { t with nonfinite := 0 }
  else { t with total := 0 }

/-- HREAD (R198): 0 and no effect on a slot of another space. -/
def execHread (a b : R5) (i : BitVec 32) (s : State) : Out State :=
  let x := s.me
  let t := s.statSlot (cellOf x.core) ((x.xr b).toNat % 16)
  .next (s.finish fun x => x.setX a (if t.owner = some x.asid then t.item i.toNat else 0))

/-- HREAD.C (R198). -/
def execHreadC (a b : R5) (i : BitVec 32) (s : State) : Out State :=
  let x := s.me
  let cell := cellOf x.core
  let slot := (x.xr b).toNat % 16
  let t := s.statSlot cell slot
  if t.owner = some x.asid then
    .next ((s.setStat cell slot (t.clearItem i.toNat)).finish fun x => x.setX a (t.item i.toNat))
  else .next (s.finish fun x => x.setX a 0)

/-- HREAD.INIT (R198). -/
def execHreadInit (a b : R5) (i : BitVec 32) (s : State) : Out State :=
  let x := s.me
  .next ((s.setStat (cellOf x.core) ((x.xr b).toNat % 16)
      { StatSlot.initial with owner := some x.asid, base := i.toInt }).finish fun x => x.setX a 0)

end Sys2Proof.Machine
end

