-- ==== Sys2Proof/Machine/Vector.lean ====
section
/-! DEFINITION. The vector majors 0x70 to 0x8B (10_vector.md). -/

namespace Sys2Proof.Machine

/-! ## Floating-point arithmetic (R206 to R210) -/

/-- A short lane-wise operation of one rounding over two operands (R206). -/
def State.vbin (s : State) (f : F6) (a b c : R5) (mk : Option MaskOp) (op : Nat → FV → FV → FV) : Out State :=
  .next (s.finish fun x =>
    let fm := vfmt f.toNat
    x.writeLanes fm.w a mk x.rm (512 / fm.w) fun i =>
      x.rounded fm x.rm i (op x.rm (fm.decode (x.lane fm.w b i)) (fm.decode (x.lane fm.w c i))))

/-- VADD (R206). -/
def execVadd (f : F6) (a b c : R5) (mk : Option MaskOp) (s : State) : Out State := s.vbin f a b c mk FV.add
/-- VSUB (R206). -/
def execVsub (f : F6) (a b c : R5) (mk : Option MaskOp) (s : State) : Out State :=
  s.vbin f a b c mk (fun m x y => FV.add m x y.negate)
/-- VMUL (R206). -/
def execVmul (f : F6) (a b c : R5) (mk : Option MaskOp) (s : State) : Out State :=
  s.vbin f a b c mk (fun _ x y => FV.mul x y)

/-- The fused operations: an invalid product takes the sign of a NaN addend (R207). -/
def fusedValue (m variant : Nat) (a b d : FV) : FV :=
  let p := FV.mul a b
  match p with
  | .nan t => if a.isNan || b.isNan then .nan t else if d.isNan then d else .nan false
  | _ => FV.add m (if variant ≥ 2 then p.negate else p) (if variant % 2 = 1 then d.negate else d)

/-- VFMA (R207). -/
def execVfma (f : F6) (a b c : R5) (mk : Option MaskOp) (s : State) : Out State :=
  .next (s.finish fun x =>
    let fm := vfmt f.toNat
    x.writeLanes fm.w a mk x.rm (512 / fm.w) fun i =>
      x.rounded fm x.rm i (fusedValue x.rm (f.toNat / 4) (fm.decode (x.lane fm.w b i)) (fm.decode (x.lane fm.w c i))
        (fm.decode (x.lane fm.w a i))))

/-- VMIN and VMAX: no rounding, no draw (R208). -/
def State.vminmax (s : State) (max : Bool) (f : F6) (a b c : R5) (mk : Option MaskOp) : Out State :=
  .next (s.finish fun x =>
    let fm := vfmt f.toNat
    x.writeLanes fm.w a mk 0 0 fun i => Elem.pattern fm (fm.round 0 0
      (FV.minMax max (f.getLsbD 2) (fm.decode (x.lane fm.w b i)) (fm.decode (x.lane fm.w c i)))))

/-- VMIN (R208). -/
def execVmin (f : F6) (a b c : R5) (mk : Option MaskOp) (s : State) : Out State := s.vminmax false f a b c mk
/-- VMAX (R208). -/
def execVmax (f : F6) (a b c : R5) (mk : Option MaskOp) (s : State) : Out State := s.vminmax true f a b c mk

/-- VSGN (R209). -/
def execVsgn (f : F6) (a b c : R5) (mk : Option MaskOp) (s : State) : Out State :=
  .next (s.finish fun x =>
    let fm := vfmt f.toNat
    x.writeLanes fm.w a mk 0 0 fun i =>
      let p := x.lane fm.w b i
      let sc := fm.sign (x.lane fm.w c i)
      let neg := match f.toNat / 4 with
        | 0 => sc
        | 1 => !sc
        | 2 => fm.sign p != sc
        | _ => false
      Elem.pattern fm (match fm.decode p with
        | .nan _ => fm.canonicalNan neg
        | _ => p % 2 ^ (fm.w - 1) + (if neg then 2 ^ (fm.w - 1) else 0)))

/-- The seed: the leading 12 significant bits of a correctly rounded value (R210). -/
def Fmt.seed (f : Fmt) (b : Nat) : Nat :=
  if f.nonfinite b then b
  else
    let e := bitsOf b (f.w - 2) f.p
    let sig := b % 2 ^ f.p + (if e = 0 then 0 else 2 ^ f.p)
    b - sig % 2 ^ (Nat.log2 sig - 11)

/-- VRCP and VRSQ: reproducible seeds that ignore `RM` (R210). -/
def State.vseed (s : State) (f : F6) (a b : R5) (mk : Option MaskOp) (op : FV → FV) : Out State :=
  .next (s.finish fun x =>
    let fm := vfmt f.toNat
    x.writeLanes fm.w a mk 0 0 fun i =>
      Elem.pattern fm (fm.seed (fm.round 0 0 (op (fm.decode (x.lane fm.w b i))))))

/-- VRCP (R210). -/
def execVrcp (f : F6) (a b : R5) (mk : Option MaskOp) (s : State) : Out State :=
  s.vseed f a b mk (FV.div (.fin false 1 1))
/-- VRSQ (R210). -/
def execVrsq (f : F6) (a b : R5) (mk : Option MaskOp) (s : State) : Out State := s.vseed f a b mk FV.rsqrt

/-- The long-function unit: flags and draws act at issue, the vector returns after a fixed latency (R201, R206, R188). -/
def State.vlong (s : State) (f : F6) (latency : Nat) (a : R5) (mk : Option MaskOp) (op : Ctx → Fmt → Nat → FV) : Out State :=
  let x := s.me
  let fm := vfmt f.toNat
  let e (i : Nat) : Elem := x.rounded fm x.rm i (op x fm i)
  .next ((s.at (s.pcyc + latency + 1) (.longFunctionResult s.cur a (x.maskedVec fm.w a mk e))).finish fun x =>
    ((x.raiseAll (x.activeElems fm.w mk e)).stepSr x.rm (512 / fm.w)).pendV a)

/-- VSQRT (R206). -/
def execVsqrt (f : F6) (a b : R5) (mk : Option MaskOp) (s : State) : Out State :=
  s.vlong f 20 a mk (fun x fm i => (fm.decode (x.lane fm.w b i)).sqrt)
/-- VDIV (R206). -/
def execVdiv (f : F6) (a b c : R5) (mk : Option MaskOp) (s : State) : Out State :=
  s.vlong f 20 a mk (fun x fm i => (fm.decode (x.lane fm.w b i)).div (fm.decode (x.lane fm.w c i)))
/-- VEXP2 (R206). -/
def execVexp2 (f : F6) (a b : R5) (mk : Option MaskOp) (s : State) : Out State :=
  s.vlong f 16 a mk (fun x fm i => (fm.decode (x.lane fm.w b i)).exp2)
/-- VLOG2 (R206). -/
def execVlog2 (f : F6) (a b : R5) (mk : Option MaskOp) (s : State) : Out State :=
  s.vlong f 16 a mk (fun x fm i => (fm.decode (x.lane fm.w b i)).log2)

/-- The unit returns a vector, into the context or, when it is no longer resident, into its image (R201). -/
def execLongFunctionResult (tid : Nat) (r : R5) (v : Vec) (s : State) : Out State :=
  .next ((s.modCtx tid fun c => c.landV r v).syncImage tid)

/-! ## Compare, select and logic (R211 to R213) -/

/-- A floating-point condition (R211). -/
def fcond (cond : Nat) (a b : FV) : Bool :=
  let un := a.isNan || b.isNan
  match cond with
  | 0 => !un && a.eq b
  | 1 => un || !a.eq b
  | 2 => !un && a.lt b
  | 3 => !un && !b.lt a
  | 4 => !un && b.lt a
  | 5 => !un && !a.lt b
  | 6 => un
  | _ => !un

/-- An integer condition on lanes of `w` bits (R211). -/
def icond (cond w a b : Nat) : Bool :=
  match cond with
  | 6 => a < b
  | 7 => a ≥ b
  | k => cmpLane k (signedOf w a) (signedOf w b)
where
  /-- The signed conditions. -/
  cmpLane (k : Nat) (x y : Int) : Bool :=
    match k with
    | 0 => x == y
    | 1 => x != y
    | 2 => x < y
    | 3 => x ≤ y
    | 4 => x > y
    | _ => x ≥ y

/-- Lane width of a VCMP type (R211). -/
def vcmpWidth (type : Nat) : Nat := if type < 3 then (vfmt type).w else laneBits (type - 3)

/-- The mask whose bits below `n` are as told and whose others are zero (R200). -/
def maskOf (n : Nat) (f : Nat → Bool) : Mask := BitVec.ofNat 128 (ofLanes 1 ((List.range n).map fun i => (f i).toNat))

/-- VCMP (R211). -/
def execVcmp (f : F6) (a b c : R5) (mk : Option MaskOp) (s : State) : Out State :=
  .next (s.finish fun x =>
    let type := f.toNat % 8
    let w := vcmpWidth type
    x.setK a (maskOf (512 / w) fun i =>
      let p := x.lane w b i
      let q := x.lane w c i
      if x.active mk i then
        (if type < 3 then fcond (f.toNat / 8) ((vfmt type).decode p) ((vfmt type).decode q) else icond (f.toNat / 8) w p q)
      else !zeroing mk && (x.kr a).getLsbD i))

/-- VSEL (R212). -/
def execVsel (f : F6) (a b c : R5) (s : State) : Out State :=
  .next (s.finish fun x =>
    let w := laneBits (f.toNat / 4)
    let k := x.kr (BitVec.ofNat 5 (f.toNat % 4))
    x.writeLanes w a none 0 0 fun i => { bits := if k.getLsbD i then x.lane w b i else x.lane w c i })

/-- VLOGIC; under a mask it counts 16 lanes (R204, R213). -/
def execVlogic (f : F6) (a b c : R5) (mk : Option MaskOp) (s : State) : Out State :=
  .next (s.finish fun x =>
    let v := tableBits f.toNat (x.vr b) (x.vr c)
    x.writeLanes 32 a mk 0 0 fun i => { bits := laneOf 32 v.toNat i })

/-! ## Integer operations (R214, R215) -/

/-- A lane shifted by any amount (R214): 0 SHL, 1 SHR, 2 SAR, 3 ROL. -/
def shiftLane (op w n k : Nat) : Nat :=
  match op with
  | 0 => if k < w then n * 2 ^ k % 2 ^ w else 0
  | 1 => if k < w then n / 2 ^ k else 0
  | 2 => intBits w ((signedOf w n).fdiv (2 ^ min k w))
  | _ => (n * 2 ^ (k % w) % 2 ^ w) + n / 2 ^ (w - k % w)

/-- VSHIFT (R214). -/
def execVshift (f : F6) (a b : R5) (o : Op2) (mk : Option MaskOp) (s : State) : Out State :=
  .next (s.finish fun x =>
    let w := laneBits f.toNat
    x.writeLanes w a mk 0 0 fun i =>
      { bits := shiftLane (f.toNat / 4) w (x.lane w b i) (match o with
          | .reg r => x.lane w r i
          | .imm k => k.toNat) })

/-- The lane operations of VIOP on patterns of `w` bits (R215). -/
def viopLane (op w p q : Nat) : Elem :=
  let a := signedOf w p
  let b := signedOf w q
  match op with
  | 0 => Elem.wrapped w (a + b)
  | 1 => Elem.wrapped w (a - b)
  | 2 => Elem.wrapped w (a * b)
  | 3 => Elem.wrapped w ((a * b).fdiv (2 ^ w))
  | 4 => { bits := p * q / 2 ^ w }
  | 5 => Elem.wrapped w (min a b)
  | 6 => Elem.wrapped w (max a b)
  | 7 => { bits := min p q }
  | 8 => { bits := max p q }
  | 9 => Elem.clamped w true (a + b)
  | 10 => Elem.clamped w true (a - b)
  | 11 => Elem.clamped w false ((p : Int) + q)
  | 12 => Elem.clamped w false ((p : Int) - q)
  | 13 => Elem.wrapped w a.natAbs
  | _ => { bits := (p + q + 1) / 2 }

/-- VIOP (R215). -/
def execViop (f : F6) (a b c : R5) (mk : Option MaskOp) (s : State) : Out State :=
  .next (s.finish fun x =>
    let w := laneBits f.toNat
    x.writeLanes w a mk 0 0 fun i => viopLane (f.toNat / 4) w (x.lane w b i) (x.lane w c i))

/-! ## Lane moves (R216 to R220) -/

/-- A lane index: a scalar register modulo the lane count, or an immediate (R216, R217). -/
def Ctx.laneIndex (x : Ctx) (w : Nat) : Op2 → Nat
  | .reg r => (x.xr r).toNat % (512 / w)
  | .imm i => i.toNat

/-- VBCAST: of a lane, or of a scalar (R216). -/
def execVbcast (f : F6) (a b : R5) (o : Op2) (mk : Option MaskOp) (s : State) : Out State :=
  .next (s.finish fun x =>
    let w := laneBits f.toNat
    let v := if f.getLsbD 2 then (x.xr b).toNat % 2 ^ w else x.lane w b (x.laneIndex w o)
    x.writeLanes w a mk 0 0 fun _ => { bits := v })

/-- VEXT (R217). -/
def execVext (f : F6) (a b : R5) (o : Op2) (s : State) : Out State :=
  .next (s.finish fun x =>
    let w := laneBits f.toNat
    let v := x.lane w b (x.laneIndex w o)
    x.setX a (if f.getLsbD 2 then sextWord w v else BitVec.ofNat 64 v))

/-- VINS (R217). -/
def execVins (f : F6) (a b : R5) (o : Op2) (s : State) : Out State :=
  .next (s.finish fun x =>
    let w := laneBits f.toNat
    let k := x.laneIndex w o
    x.writeLanes w a none 0 0 fun i => { bits := if i = k then (x.xr b).toNat % 2 ^ w else x.lane w a i })

/-- VPERM (R218). -/
def execVperm (f : F6) (a b c : R5) (mk : Option MaskOp) (s : State) : Out State :=
  .next (s.finish fun x =>
    let w := laneBits f.toNat
    let n := 512 / w
    x.writeLanes w a mk 0 0 fun i =>
      let t := x.lane w c i % (2 * n)
      { bits := if t < n then x.lane w b t else x.lane w a (t - n) })

/-- The lane that a fixed pattern puts into lane `i` (R219): whether it comes from `c`, and its number. -/
def shufLane (pat n i : Nat) : Bool × Nat :=
  match pat with
  | 0 => (i % 2 == 1, i / 2)
  | 1 => (i % 2 == 1, i / 2 + n / 2)
  | 2 => (i ≥ n / 2, 2 * (i % (n / 2)))
  | 3 => (i ≥ n / 2, 2 * (i % (n / 2)) + 1)
  | 4 => (false, n - 1 - i)
  | _ => (false, i ^^^ 1)

/-- VSHUF (R219). -/
def execVshuf (f : F6) (a b c : R5) (mk : Option MaskOp) (s : State) : Out State :=
  .next (s.finish fun x =>
    let w := laneBits f.toNat
    x.writeLanes w a mk 0 0 fun i =>
      let p := shufLane (f.toNat / 4) (512 / w) i
      { bits := x.lane w (if p.1 then c else b) p.2 })

/-- VLI; the immediate stands extended as its form requires (R220). -/
def execVli (f : F6) (a : R5) (i : BitVec 32) (mk : Option MaskOp) (s : State) : Out State :=
  .next (s.finish fun x =>
    if f.toNat = 4 then x.writeLanes 32 a mk 0 0 fun _ => { bits := i.toNat % 65536 * 65536 }
    else x.writeLanes (laneBits f.toNat) a mk 0 0 fun _ => { bits := (sext32 i).toNat % 2 ^ laneBits f.toNat })

/-! ## Reductions and dot products (R221, R222) -/

/-- One level of the tree: neighbours combined, nodes numbered from `k` (R221). -/
def treeLevel {α : Type} (comb : Nat → α → α → α) : Nat → List α → List α
  | k, x :: y :: r => comb k x y :: treeLevel comb (k + 1) r
  | _, l => l

/-- The whole tree over at most 2^fuel lanes (R221). -/
def treeReduce {α : Type} (comb : Nat → α → α → α) : Nat → Nat → List α → List α
  | 0, _, l => l
  | fuel + 1, k, l => treeReduce comb fuel (k + l.length / 2) (treeLevel comb k l)

/-- A node of a floating-point reduction: its FP32 pattern, and whether a finite pair overflowed (R221). -/
structure RedNode where
  bits : Nat
  nf : Bool
  deriving DecidableEq, Repr

/-- Combine two FP32 nodes (R221): 0 FADD, 1 FMAX, 2 FMIN. A zero sum takes its sign as in VADD (R206; log 85). -/
def Ctx.redCombine (x : Ctx) (op k : Nat) (a b : RedNode) : RedNode :=
  let u := fp32.decode a.bits
  let v := fp32.decode b.bits
  match op with
  | 0 =>
    let r := fp32.round x.rm (x.rnd x.rm k) (FV.add x.rm u v)
    ⟨r, a.nf || b.nf || (fp32.nonfinite r && !fp32.nonfinite a.bits && !fp32.nonfinite b.bits)⟩
  | k => ⟨fp32.round 0 0 (FV.minMax (k == 1) false u v), a.nf || b.nf⟩

/-- Combine two integer nodes of `w` bits (R221). -/
def redCombineInt (op w : Nat) (a b : Nat) : Nat :=
  match op with
  | 3 => (a + b) % 2 ^ w
  | 4 => if signedOf w a ≤ signedOf w b then a else b
  | 5 => if signedOf w a ≤ signedOf w b then b else a
  | 6 => min a b
  | _ => max a b

/-- The identity of an integer reduction (R221). -/
def redIdentity (op w : Nat) : Nat :=
  match op with
  | 3 => 0
  | 4 => 2 ^ (w - 1) - 1
  | 5 => 2 ^ (w - 1)
  | 6 => 2 ^ w - 1
  | _ => 0

/-- The identity of a floating-point reduction (R221). -/
def redIdentityF (op : Nat) : Nat :=
  match op with
  | 0 => 0x80000000
  | 1 => 0xFF800000
  | _ => 0x7F800000

/-- VRED (R221). -/
def execVred (f : F6) (a b : R5) (mk : Option MaskOp) (s : State) : Out State :=
  .next (s.finish fun x =>
    let op := f.toNat / 4
    if op < 3 then
      let fm := vfmt f.toNat
      let n := 512 / fm.w
      let leaves := (List.range n).map fun i => (⟨if x.active mk i then
          fp32.round 0 0 (fm.decode (x.lane fm.w b i)) else redIdentityF op, false⟩ : RedNode)
      let r := (treeReduce (x.redCombine op) 6 0 leaves).headD ⟨0, false⟩
      ((x.setX a (BitVec.ofNat 64 r.bits)).setNfs (r.nf || fp32.nonfinite r.bits)).stepSr
        (if op = 0 then x.rm else 0) (n - 1)
    else
      let w := laneBits f.toNat
      let leaves := (List.range (512 / w)).map fun i => if x.active mk i then x.lane w b i else redIdentity op w
      let r := (treeReduce (fun _ => redCombineInt op w) 6 0 leaves).headD 0
      x.setX a (if op < 6 then sextWord w r else BitVec.ofNat 64 r))

/-- The first NaN of a list of operands. -/
def firstNan : List FV → Option FV
  | [] => none
  | v :: r => if v.isNan then some v else firstNan r

/-- The exact sum of products with the addend, the NaN rules of VDOT applied (R222). A zero sum takes its sign as in VADD (R206; log 85). -/
def dotValue (m : Nat) (ps : List (FV × FV)) (d : FV) : FV :=
  match firstNan (ps.flatMap (fun p => [p.1, p.2]) ++ [d]) with
  | some n => n
  | none => (ps.map fun p => FV.mul p.1 p.2).foldl (FV.add m) d

/-- VDOT (R222). -/
def execVdot (f : F6) (a b c : R5) (mk : Option MaskOp) (s : State) : Out State :=
  .next (s.finish fun x =>
    let k := f.toNat
    if k = 4 then
      x.writeLanes 32 a mk 0 0 fun i => Elem.wrapped 32
        ((List.range 4).foldl (fun acc j => acc + signedOf 8 (x.lane 8 b (4 * i + j)) * signedOf 8 (x.lane 8 c (4 * i + j)))
          (x.lane 32 a i : Int))
    else
      let fm := Fmt.ofCode (k + 1)
      let g := 32 / fm.w
      x.writeLanes 32 a mk x.rm 16 fun i => x.rounded fp32 x.rm i (dotValue x.rm
        ((List.range g).map fun j => (fm.decode (x.lane fm.w b (g * i + j)), fm.decode (x.lane fm.w c (g * i + j))))
        (fp32.decode (x.lane 32 a i))))

/-! ## Mask instructions (R223, R224) -/

/-- KLOG (R223). -/
def execKlog (f : F6) (a b c : R5) (s : State) : Out State :=
  .next (s.finish fun x => x.setK a (tableBits f.toNat (x.kr b) (x.kr c)))

/-- Index of the lowest one bit among `fuel` bits. -/
def lowestOne : Nat → Nat → Nat
  | 0, _ => 0
  | fuel + 1, n => if n % 2 = 1 then 0 else 1 + lowestOne fuel (n / 2)

/-- KMOV (R224). -/
def execKmov (f : F6) (a b : R5) (s : State) : Out State :=
  .next (s.finish fun x => match f.toNat with
    | 0 => x.setK a (x.kr b)
    | 1 => x.setX a ((x.kr b).extractLsb' 0 64)
    | 2 => x.setX a ((x.kr b).extractLsb' 64 64)
    | 3 => x.setK a ((x.kr a).extractLsb' 64 64 ++ x.xr b)
    | 4 => x.setK a (x.xr b ++ (x.kr a).extractLsb' 0 64)
    | 5 => x.setX a (BitVec.ofNat 64 (popCount 128 (x.kr b).toNat))
    | _ => x.setX a (BitVec.ofNat 64 (lowestOne 128 (x.kr b).toNat)))

end Sys2Proof.Machine
end

