-- ==== Sys2Proof/Machine/Engine.lean ====
section
/-! DEFINITION. Arithmetic of the tile engines: elements of tiles (R185, R226), the k-step (R294), element-wise, conversion and reduction
steps of thunk nodes (R270 to R274), and the epilogue processor's program (R295, R296). -/

namespace Sys2Proof.Machine

/-! ## Elements. An NX4 element is held as its code and, from bit 4 on, its block's scale byte. -/

/-- The value of an element of a format of R180. -/
def elemFV (fmt v : Nat) : FV :=
  if isFloatCode fmt then (Fmt.ofCode fmt).decode v
  else if fmt = 5 then nxDecode (v / 16) (v % 16)
  else if codeSigned fmt then FV.ofInt (signedOf (codeWidth fmt) v)
  else FV.ofInt (v % 2 ^ codeWidth fmt)

/-- The elements of a tile's bytes in row-major order (R185). -/
def elemsOf (fmt rows cols blk : Nat) (bs : List Byte) : List Nat :=
  let n := rows * cols
  if fmt = 5 then
    (List.range n).map fun i =>
      bitsOf (bs.getD (i / 2) 0).toNat (4 * (i % 2) + 3) (4 * (i % 2)) + 16 * (bs.getD (n / 2 + i / blockLen blk) 0).toNat
  else (List.range n).map fun i => field bs (i * (codeWidth fmt / 8)) (codeWidth fmt / 8)

/-- The element of a fill of an NX4 view: code 0 under no block's scale (R276). -/
def nxFill : Nat := 16 * 256

/-- The scale byte of a block: that of its elements. Elements of one block that carry different scales, and fill, have no stated byte:
a free value stands for it (log 3). -/
def blockScale (es : List Nat) : Nat :=
  match es with
  | [] => 0
  | e :: r => if e / 16 < 256 && r.all (fun x => x / 16 == e / 16) then e / 16 else (Config.mixedScale (es.map (· / 16))).toNat

/-- The bytes of a tile from its elements (R185). -/
def bytesOfElems (fmt rows cols blk : Nat) (es : List Nat) : List Byte :=
  let n := rows * cols
  if fmt = 5 then
    ((List.range (n / 2)).map fun i => BitVec.ofNat 8 (es.getD (2 * i) 0 % 16 + 16 * (es.getD (2 * i + 1) 0 % 16))) ++
      (List.range (n / blockLen blk)).map fun b =>
        BitVec.ofNat 8 (blockScale ((es.drop (b * blockLen blk)).take (blockLen blk)))
  else (es.take n).flatMap fun e => bytesOf (codeWidth fmt / 8) e

/-- Stochastic draws of a node or a drain: mode, key, logical thread number, counter (R189, R254). -/
structure Draw where
  rm : Nat
  key : Word
  ltn : Nat
  ctr : Word
  deriving DecidableEq, Repr

/-- The draw of element `e`. -/
def Draw.rnd (d : Draw) (e : Nat) : Nat := if d.rm ≤ 3 then 0 else drawAt d.key d.ltn d.ctr e

/-- Element `e` rounded into a format, with Sat where the form has it and always for E4M3 (R187, R270). -/
def Draw.elem (d : Draw) (f : Fmt) (sat : Bool) (e : Nat) (v : FV) : Elem :=
  let r := f.convert sat d.rm (d.rnd e) v
  { bits := r.1, nf := f.nonfinite r.1, sat := r.2 }

/-! ## The k-step (R294) -/

/-- The exact sum of a group of products with R294's special values. -/
def groupSum (ps : List (FV × FV)) : FV :=
  match firstNan (ps.flatMap fun p => [p.1, p.2]) with
  | some n => n
  | none =>
    let qs := ps.map fun p => FV.mul p.1 p.2
    let has (b : Bool) : Bool := qs.any fun q => match q with
      | .inf t => t == b
      | _ => false
    if qs.any FV.isNan || (has true && has false) then .nan false
    else if has true then .inf true
    else if has false then .inf false
    else
      match qs.foldl (FV.add 0) (.fin true 0 1) with
      | .fin _ 0 _ => .fin (qs.all FV.neg?) 0 1
      | v => v

/-- Products summed in one group (R294). -/
def groupLen (fmt : Nat) : Nat := if fmt = 1 ∨ fmt = 2 then 8 else 32

/-- Cut a list into groups. -/
def groupsOf {α : Type} (n : Nat) : Nat → List α → List (List α)
  | 0, _ => []
  | fuel + 1, l => if l.isEmpty then [] else l.take n :: groupsOf n fuel (l.drop n)

/-- One element of a k-step over 64 values of k: pairs of operand values, then the accumulator as an FP32 pattern (R294). -/
def kstepFloat (g : Nat) (ps : List (FV × FV)) (acc : Nat) : Nat :=
  (groupsOf g 64 ps).foldl (fun acc q =>
    fp32.round 0 0 (FV.add 0 (fp32.decode acc) (fp32.decode (fp32.round 0 0 (groupSum q))))) acc

/-- One element of an I8 k-step: wraps in 32 bits (R294). -/
def kstepInt (ps : List (Nat × Nat)) (acc : Nat) : Nat :=
  intBits 32 ((ps.map fun p => signedOf 8 p.1 * signedOf 8 p.2).foldl (· + ·) (acc : Int))

/-- One element of a k-step from the operands' elements (R294): formats, and the exponents of per-tile scales. -/
def kstepElem (afmt bfmt : Nat) (xa xb : Int) (as bs : List Nat) (acc : Nat) : Nat :=
  if afmt = 6 then kstepInt (as.zip bs) acc
  else
    let sc (x : Int) : FV := let q := scale2 1 1 x
      .fin false q.1 q.2
    let va (v : Nat) : FV := if xa = 0 then elemFV afmt v else FV.mul (elemFV afmt v) (sc xa)
    let vb (v : Nat) : FV := if xb = 0 then elemFV bfmt v else FV.mul (elemFV bfmt v) (sc xb)
    kstepFloat (groupLen afmt) ((as.zip bs).map fun p => (va p.1, vb p.2)) acc

/-! ## Steps of thunk nodes -/

/-- A value of TEW (R270). -/
def tewValue (f m : Nat) (a b d : FV) : FV :=
  match f with
  | 0 => FV.add m a b
  | 1 => FV.add m a b.negate
  | 2 => FV.mul a b
  | 3 => FV.div a b
  | _ => fusedValue m 0 a b d

/-- An element of TEW (R270). -/
def tewElem (f fmt : Nat) (dr : Draw) (e a b d : Nat) : Elem :=
  let fm := Fmt.ofCode fmt
  if f = 4 ∨ f = 5 then Elem.pattern fm (fm.round 0 0 (FV.minMax (f == 5) false (fm.decode a) (fm.decode b)))
  else dr.elem fm false e (tewValue f dr.rm (fm.decode a) (fm.decode b) (fm.decode d))

/-- `|a|`, or `a` with its sign inverted, as VSGN (R209, R271). -/
def signElem (fm : Fmt) (neg : Bool) (a : Nat) : Elem :=
  Elem.pattern fm (match fm.decode a with
    | .nan _ => fm.canonicalNan neg
    | _ => a % 2 ^ (fm.w - 1) + (if neg then 2 ^ (fm.w - 1) else 0))

/-- The larger of a value and +0 (R271). -/
def relu (fm : Fmt) (a : Nat) : Nat :=
  match fm.decode a with
  | .nan s => fm.canonicalNan s
  | v => if v.neg? || v.isZero then 0 else a

/-- An element of TMAP (R271); `s` is the FP32 scalar. -/
def tmapElem (f fmt : Nat) (dr : Draw) (e a s : Nat) : Elem :=
  let fm := Fmt.ofCode fmt
  let v := fm.decode a
  let one : FV := .fin false 1 1
  match f with
  | 0 => signElem fm false a
  | 1 => signElem fm (!fm.sign a) a
  | 2 => dr.elem fm false e v.exp2
  | 3 => dr.elem fm false e v.log2
  | 4 => dr.elem fm false e v.sqrt
  | 5 => dr.elem fm false e (FV.div one v)
  | 6 => Elem.pattern fm (relu fm a)
  | 7 => dr.elem fm false e v.rsqrt
  | 8 => dr.elem fm false e (FV.mul v (fp32.decode s))
  | _ => dr.elem fm false e (FV.add dr.rm v (fp32.decode s))

/-- An element of TCVT to a format other than NX4 (R272). -/
def tcvtElem (src dst : Nat) (sat : Bool) (dr : Draw) (e a : Nat) : Elem :=
  let v := elemFV src a
  if isFloatCode dst then dr.elem (Fmt.ofCode dst) sat e v
  else
    let r := convertInt (codeWidth dst) true dr.rm (dr.rnd e) v
    { bits := r.1, sat := r.2 }

/-- A block quantised into NX4: scaled as a chain of VQNT.X, then quantised as VQNT (R194, R272, R296). -/
def nxBlock (t : Nat) (m : Nat) (rnd : Nat → Nat) (first : Nat) (vs : List FV) : List Elem :=
  let e := vs.foldl (scaleStep t) 0
  vs.zipIdx.map fun p =>
    let q := nxQuantise t e m (rnd (first + p.2)) p.1
    { bits := q.1 + 16 * (t * 64 + e), sat := q.2 }

/-- A reduction over a power of two of elements: FP32 nodes rounded to nearest even (R221, R274). -/
def tredValue (op : Nat) (vs : List FV) : FV :=
  let comb (_ a b : Nat) : Nat :=
    if op = 0 then fp32.round 0 0 (FV.add 0 (fp32.decode a) (fp32.decode b))
    else fp32.round 0 0 (FV.minMax (op == 1) false (fp32.decode a) (fp32.decode b))
  fp32.decode ((treeReduce comb 6 0 (vs.map (fp32.round 0 0))).headD 0)

/-! ## The epilogue processor (R295, R296) -/

/-- Fields of a program word (R296). -/
def epOp (w : Nat) : Nat := bitsOf w 31 26
def epD (w : Nat) : Nat := bitsOf w 25 23
def epA (w : Nat) : Nat := bitsOf w 22 20
def epB (w : Nat) : Nat := bitsOf w 19 17
def epC (w : Nat) : Nat := bitsOf w 16 14
def epImm (w : Nat) : Nat := bitsOf w 13 0

/-- Whether a word is well formed: an assigned op, unused fields zero, its immediate in range (R296). -/
def epWordOk (w : Nat) : Bool :=
  let z (d a b c i : Bool) : Bool :=
    (d || epD w == 0) && (a || epA w == 0) && (b || epB w == 0) && (c || epC w == 0) && (i || epImm w == 0)
  match epOp w with
  | 0x00 => z false false false false false
  | 0x01 | 0x08 | 0x09 | 0x0A => z true true false false false
  | 0x02 | 0x03 | 0x04 | 0x06 | 0x07 => z true true true false false
  | 0x05 | 0x0B | 0x0F => z true true true true false
  | 0x0C => z true true false false true && epImm w / 16 == 0 &&
      (let k := epImm w % 8
       k == 1 || k == 2 || k == 4 || (k == 3 && !bitOf (epImm w) 3))
  | 0x0D => z true true false false true && decide (-300 ≤ signedOf 14 (epImm w) ∧ signedOf 14 (epImm w) ≤ 300)
  | 0x0E => z true false false false true
  | 0x10 => z false true false false true && epImm w / 16 == 0
  | 0x11 => z true true false false true && epImm w / 16 == 0 && epImm w % 4 != 3
  | _ => false

/-- The pool offset of an LDB's vector (R296). -/
def epVector (w : Nat) : Nat := (epImm w % 2 ^ 13) * 16

/-- Registers of the processor: eight rows of 64 FP32 patterns. -/
abbrev EpRegs := List (List Nat)

/-- A register. -/
def epReg (rs : EpRegs) (k : Nat) : List Nat := rs.getD k (List.replicate 64 0)

/-- A lane-wise effect of one word that needs nothing but its registers (R296). -/
def epLane (op a b c imm : Nat) : Nat :=
  let r (v : FV) : Nat := fp32.round 0 0 v
  let x := fp32.decode a
  let y := fp32.decode b
  let z := fp32.decode c
  match op with
  | 0x01 => a
  | 0x02 => r (FV.add 0 x y)
  | 0x03 => r (FV.add 0 x y.negate)
  | 0x04 => r (FV.mul x y)
  | 0x05 => r (fusedValue 0 0 x y z)
  | 0x06 => r (FV.minMax true false x y)
  | 0x07 => r (FV.minMax false false x y)
  | 0x08 => match x with
    | .nan _ => fp32.canonicalNan false
    | _ => a % 2 ^ 31
  | 0x09 => r x.exp2
  | 0x0A => r (FV.div (.fin false 1 1) x)
  | 0x0B => r (FV.minMax false false (fp32.decode (r (FV.minMax true false x y))) z)
  | 0x0D =>
    let q := scale2 1 1 (signedOf 14 imm)
    r (FV.mul x (.fin false q.1 q.2))
  | _ => if !x.isNan && (FV.fin false 0 1).lt x then b else c

/-- Quantise and decode again, block by block (R296's QNT). -/
def epQnt (imm : Nat) (l : List Nat) : List Elem :=
  let n := blockLen (imm % 4)
  (groupsOf n 64 (l.map fp32.decode)).flatMap fun b =>
    (nxBlock (imm / 4 % 4) 0 (fun _ => 0) 0 b).map fun e =>
      { e with bits := fp32.round 0 0 (nxDecode (e.bits / 16) (e.bits % 16)) }

/-- The state of one row's run: registers, CVT words met, rows to count by statistics slot. -/
structure EpRow where
  regs : EpRegs
  cvts : Nat
  stats : List (Nat × List Nat)
  deriving DecidableEq, Repr

/-- One program word on row `r`; `vec` reads the FP32 value `i` of the vector at a pool offset (R296). -/
def epStep (dr : Draw) (vec : Nat → Nat → Nat) (r : Nat) (x : EpRow) (w : Nat) : EpRow :=
  let a := epReg x.regs (epA w)
  let put (l : List Nat) : EpRow := { x with regs := x.regs.set (epD w) l }
  match epOp w with
  | 0x0C =>
    let k := epImm w % 8
    let es := a.zipIdx.map fun p =>
      dr.elem (Fmt.ofCode k) (bitOf (epImm w) 3) (4096 * x.cvts + 64 * r + p.2) (fp32.decode p.1)
    { put (es.map fun e => fp32.round 0 0 ((Fmt.ofCode k).decode e.bits)) with cvts := x.cvts + 1 }
  | 0x0E => put ((List.range 64).map fun c => vec (epVector w) (if bitOf (epImm w) 13 then r else c))
  | 0x10 => { x with stats := x.stats ++ [(epImm w % 16, a)] }
  | 0x11 => put ((epQnt (epImm w) a).map Elem.bits)
  | op => put ((List.range 64).map fun c =>
      epLane op (a.getD c 0) ((epReg x.regs (epB w)).getD c 0) ((epReg x.regs (epC w)).getD c 0) (epImm w))

/-- The words before END (R296). -/
def epBody (prog : List Nat) : List Nat := prog.takeWhile fun w => epOp w != 0

/-- Program words up to and including END: `MEPLEN` (R303). -/
def epLength (prog : List Nat) : Nat := (epBody prog).length + 1

/-- The program over one row: what stands in e0 at END (R295). -/
def epRun (dr : Draw) (vec : Nat → Nat → Nat) (prog : List Nat) (r : Nat) (row : List Nat) : EpRow :=
  (epBody prog).foldl (epStep dr vec r)
    { regs := row :: List.replicate 7 (List.replicate 64 0), cvts := 0, stats := [] }

/-- Conversion of one output lane (R295): an I32 element passes unchanged where the program is a lone END with an I32 output. -/
def epOut (dr : Draw) (fmt e v : Nat) : Elem :=
  if isFloatCode fmt then dr.elem (Fmt.ofCode fmt) false e (fp32.decode v)
  else
    let r := convertInt (codeWidth fmt) true dr.rm (dr.rnd e) (fp32.decode v)
    { bits := r.1, sat := r.2 }

end Sys2Proof.Machine
end

