-- ==== Sys2Proof/Machine/Tile.lean ====
section
/-! DEFINITION. Versioned tiles: reading structures from memory, array descriptors and their directory (R225 to R227), keys and homes
(R229 to R231), the RCB's charges (R235, R325, R428), and the Mint's operations on an entry (R232 to R237, R241, R248, R355). -/

namespace Sys2Proof.Machine

/-! ## Structures in memory -/

/-- Ask for a structure of `n` bytes as one load of that size under a need of the address phase; the instruction goes on at the stage
given with the bytes appended to the buffer (R98). -/
def State.readInto (s : State) (stage : Nat) (need : Need) (base : Word) (disp : Int) : State :=
  let c := s.me
  match s.place c need 0 base disp with
  | .error e => s.stopMe e
  | .ok p =>
    let s := s.settle c.core c.asid false p
    let ls := (List.range (need.n / 8)).map fun i =>
      s.bindCached c.core { p.lane with pa := p.lane.pa + 8 * i, va := p.lane.va + 8 * i, n := 8, idx := i }
    (s.parkStage stage).routeLoad ⟨s.src, ls, .buf, true, true⟩ true

/-- Ask for a structure of `n` bytes as a load of that size, aligned on it; the instruction goes on at stage 1. -/
def State.readStruct (s : State) (base : Word) (disp : Int) (n : Nat) : State :=
  s.readInto 1 { n := n, r := true, rdup := true } base disp

/-- A long instruction completes at issue with its result on the way (R65, R66). -/
def State.doneLong (s : State) (a : R5) (w : Word) : State :=
  (s.finish (·.pendX a)).post (.longResultArrival (Reply.of s.cur [.x a w none] false))

/-- An instruction that waited parked completes with a result. -/
def State.doneX (s : State) (a : R5) (w : Word) : State := s.finish (·.setX a w)

/-! ## Descriptors (R225 to R227) -/

/-- Rows or columns of a code. -/
def sizeOf8 (code : Nat) : Nat := 8 * 2 ^ (code % 4)

/-- Bytes of a tile of a shape and format, NX4 scale bytes included (R226). -/
def tileBytes (fmt rows cols blk : Nat) : Nat :=
  rows * cols * codeWidth fmt / 8 + (if fmt = 5 then rows * cols / blockLen blk else 0)

/-- Bytes of a tile of an array. -/
def descBytes (d : Desc) : Nat := tileBytes d.fmt d.rows d.cols d.blk

/-- The descriptor held in 32 bytes (R225). -/
def descOf (bs : List Byte) : Desc :=
  { aid := field bs 0 2, fmt := field bs 4 1 % 16, rows := sizeOf8 (field bs 5 1), cols := sizeOf8 (field bs 5 1 / 4),
    gi := field bs 6 2 % 4096, gj := field bs 8 2 % 4096, blk := field bs 10 1 % 4, diff := bitOf (field bs 10 1) 2,
    hashed := bitOf (field bs 11 1) 7, die := field bs 11 1 % 4, remote := bitOf (field bs 12 2) 15, dev := field bs 12 2 % 1024,
    rdr := field bs 14 2 }

/-- The binding of a space to a device (R414). -/
def State.bindingTo (s : State) (asid dev : Nat) : Option Binding :=
  s.bindings.find? fun b => b.asid == asid && b.dev == dev

/-- R226, and the reserved array id of R264. -/
def State.descValid (s : State) (asid : Nat) (bs : List Byte) : Bool :=
  let d := descOf bs
  field bs 2 2 == 0 && field bs 4 1 / 16 == 0 && field bs 5 1 / 16 == 0 && field bs 6 2 / 4096 == 0 && field bs 8 2 / 4096 == 0 &&
    field bs 10 1 / 8 == 0 && bitsOf (field bs 11 1) 6 2 == 0 && bitsOf (field bs 12 2) 14 10 == 0 && field bs 16 16 == 0 &&
    decide (d.fmt ≤ 13) && d.rdr != 0 && decide (d.rows * d.cols * codeWidth d.fmt / 8 ≤ 16384) &&
    (if d.fmt = 5 then d.blk != 3 && d.cols % blockLen d.blk == 0 else d.blk == 0) &&
    (!d.remote || (s.bindingTo asid d.dev).isSome) && d.aid != 0xFFFF

/-- The slice that holds the directory entry of an array (R227). -/
def directorySlice (asid aid : Nat) : Nat := (asid * 97 + aid * 211) % 2048

/-- The declared descriptor of an array (R227). -/
def State.declared (s : State) (asid aid : Nat) : Option Desc :=
  ((s.slice (directorySlice asid aid)).arrays.find? fun e => e.1 == asid && e.2.aid == aid).map Prod.snd

/-- The descriptor as an instruction on a cell finds it: in the cell's cache of 64, replaced least recently used first, or in the
directory (R227). -/
def State.lookupDesc (s : State) (cell asid aid : Nat) : Option (Desc × State) :=
  let c := s.cell cell
  let hit := c.descs.find? fun e => e.1 == asid && e.2.aid == aid
  match (hit.map Prod.snd).or (s.declared asid aid) with
  | none => none
  | some d =>
    let rest := c.descs.filter fun e => !(e.1 == asid && e.2.aid == aid)
    let rest := if rest.length < 64 then rest else rest.drop 1
    some (d, s.setCell cell { c with descs := rest ++ [(asid, d)] })

/-! ## Keys (R229 to R231) -/

/-- A key in the packed form of `FLTADDR` (R230). -/
def keyPacked (k : Key) : Word :=
  BitVec.ofNat 64 (k.arr % 65536 * 2 ^ 48 + k.i % 4096 * 2 ^ 36 + k.j % 4096 * 2 ^ 24 + k.ver % 2 ^ 24)

/-- The key and readers field that an instruction names (R229). -/
def Ctx.keyOf (c : Ctx) (k : KeyOp) : Key × Nat :=
  let (v, r) := match k.ver with
    | .imm v => (v.toNat, 0)
    | .reg e => ((c.xr e).toNat % 2 ^ 24, bitsOf (c.xr e).toNat 47 32)
  (⟨c.asid, (c.xr k.b).toNat % 65536, (c.xr k.c).toNat, (c.xr k.d).toNat, v⟩, r)

/-- The home slice of a tile of an array (R231). -/
def descHome (d : Desc) (i j : Nat) : Nat :=
  let h := i * 37 + j * 113 + d.aid * 211
  if d.hashed then sliceAt (h % 2048 / 512) (h % 2048 % 512) else sliceAt d.die (h % 512)

/-- A key trap. -/
def keyTrap (code detail : Nat) (k : Key) : Trap := ⟨code, detail, 0, keyPacked k⟩

/-- The descriptor that a request of an instruction past its key phase keeps for a key of its array (R228). -/
def keptDesc (q : KeyReq) (k : Key) : Option Desc :=
  match q.use with
  | .snap d => if d.aid = k.arr then some d else none
  | _ => if q.key.arr = k.arr then some q.desc else none

/-- The key phase (R230): the descriptor of the key's array, which an instruction that is past it keeps (R228). -/
def State.keyPhase (s : State) (c : Ctx) (k : Key) : Except Trap (Desc × State) :=
  match c.keyReq.bind (keptDesc · k) with
  | some d => .ok (d, s)
  | none => match s.lookupDesc (cellOf c.core) c.asid k.arr with
    | none => .error (keyTrap trapAddrSpace 8 k)
    | some (d, s) => if k.i > d.gi ∨ k.j > d.gj then .error (keyTrap trapAddrSpace 7 k) else .ok (d, s)

/-- A request to the Mint of a key by the issuing thread; its stall limit counts from the instruction's first request (R235). -/
def State.keyReqOf (s : State) (k : Key) (d : Desc) (use : KeyUse) (rdr : Nat) : KeyReq :=
  { src := s.src, key := k, home := descHome d k.i k.j, desc := d, use := use, rdr := rdr,
    since := (s.me.keyReq.map KeyReq.since).getD s.ticks, rcb := s.me.rcb.toNat, rcbAsid := s.me.asid, peer := none }

/-! ## Charges (R235, R325, R428) -/

/-- An RCB and its ancestors, nearest first (R325). -/
def State.rcbChain (s : State) (asid : Nat) : Nat → Nat → List Nat
  | 0, _ => []
  | fuel + 1, rcb => if rcb = 0 then [] else rcb :: s.rcbChain asid fuel (s.rcbWord rcb asid 0)

/-- The RCBs that count what a thread of an RCB uses. -/
def State.chain (s : State) (rcb asid : Nat) : List Nat := s.rcbChain asid 8 rcb

/-- Whether one more tile version fits the quota of every level (R325). -/
def State.quotaFits (s : State) (rcb asid : Nat) : Bool :=
  (s.chain rcb asid).all fun r => decide (bitsOf (s.rcbWord r asid 19) 63 32 + 1 ≤ bitsOf (s.rcbWord r asid 4) 63 32)

/-- Change the count of charged versions at every level (R428); a lower one wakes what waits for the quota. -/
def State.charge (s : State) (rcb asid : Nat) (up : Bool) : State :=
  let s := (s.chain rcb asid).foldl (fun (s : State) r =>
    let w := s.rcbWord r asid 19
    let n := bitsOf w 63 32
    s.setRcbWord r asid 19 (w % 2 ^ 32 + 2 ^ 32 * (if up then n + 1 else n - 1))) s
  if up || s.stalled.all (fun e => e.1 != 1) then s else s.post (.quotaRetry rcb asid false)

/-! ## Storage (R233, R379) -/

/-- Granules of 256 bytes that a number of bytes takes (R233). -/
def granules (n : Nat) : Nat := ceilDiv n 256

/-- Whether two runs share a granule. -/
def Run.meets (a : Run) (start len : Nat) : Bool := decide (a.start < start + len ∧ start < a.start + a.len)

/-- First fit: the lowest start below the limit at which a run of the length meets none of those in use, each try going past the run
it met; `block` granules bound a run where they are not 0 (R233, R379). -/
def firstFit (used : List Run) (limit len block : Nat) : Nat → Nat → Option Nat
  | 0, _ => none
  | fuel + 1, at_ =>
    if at_ + len > limit then none
    else if block ≠ 0 ∧ at_ / block ≠ (at_ + len - 1) / block then firstFit used limit len block fuel ((at_ / block + 1) * block)
    else match used.find? (·.meets at_ len) with
      | some r => firstFit used limit len block fuel (r.start + r.len)
      | none => some at_

/-- The runs that the entries of a slice hold, adjoint tiles and till blocks included. -/
def Slice.runs (sl : Slice) : List Run :=
  sl.mint.flatMap (fun e => e.run.toList ++ (e.adj.map Adjoint.run).toList) ++
    sl.tills.filterMap fun t => match t with
      | .block _ _ _ r _ => some r
      | .word _ _ _ => none

/-- The slices of a die that hold something. -/
def State.slicesOf (s : State) (die : Nat) : List Slice := (s.slices.filter fun e => dieOfSlice e.1 = die).map Prod.snd

/-- Storage for a number of bytes at a slice: its tile SRAM first, then the die's arena (R233, R378, R379). -/
def State.findRun (s : State) (slice bytes : Nat) : Option Run :=
  let die := dieOfSlice slice
  let d := s.die die
  let n := granules bytes
  let own := (s.slice slice).runs.filter fun r => !r.arena
  let all := ((s.slicesOf die).flatMap Slice.runs).filter fun r => r.arena
  match firstFit own (d.tsplit * 256) n 0 (own.length + 1) 0 with
  | some k => some ⟨false, k, n⟩
  | none =>
    let blocks := d.tarlen.toNat % 2 ^ 32
    (firstFit all (blocks * 8192) n 8192 (all.length + blocks + 1) 0).map fun k => ⟨true, k, n⟩

/-! ## Stalled requests (R235, R428) -/

/-- The stall limit of an RCB in ticks (R323). -/
def State.stallLimit (s : State) (rcb asid : Nat) : Nat := bitsOf (s.rcbWord rcb asid 5) 63 32

/-- A limit runs out at a time, once. -/
def State.limitAt (s : State) (cycle : Nat) (e : Event) : State := if s.timers.contains (cycle, e) then s else s.at cycle e

/-- The thread of a request stalls: it parks under the park limit, and its stall limit counts from the request's issue (R235). -/
def State.stallThread (s : State) (q : KeyReq) (code : Nat) : State :=
  let tid := q.src.tid
  let s := s.countPark tid
  let s := s.limitAt (cycleOfTick (q.since + s.stallLimit q.rcb q.rcbAsid)) (.stallLimitExpiry tid)
  s.modCtx tid fun c => { c with park := some (.quota code), stallSince := some q.since, stallCode := code, keyReq := some q }

/-- A Teller's request stalls, under the stall limit of its thread's RCB (R235, R315). -/
def State.stallTeller (s : State) (q : KeyReq) (cell op code : Nat) : State :=
  s.limitAt (cycleOfTick (q.since + s.stallLimit q.rcb q.rcbAsid)) (.tellerFault cell op (trapQuotaStall + 256 * code) (keyPacked q.key))

/-- A request finds no quota, room or pin (R235): it is made again once some is freed (R428), and meanwhile the thread parks, a Teller
operation waits, another device is told (log 92). -/
def State.stallReq (s : State) (q : KeyReq) (code : Nat) (e : Event) : State :=
  let s := { s with stalled := s.stalled ++ [(code, e)] }
  match q.peer with
  | some (_, dev, ref) => s.replyTo dev ref (16 + code) 0 []
  | none => match q.use with
    | .tover cell op | .fromv cell op _ => s.stallTeller q cell op code
    | _ => s.stallThread q code

/-- A Mint answers: the thread by a message, another device over its link (R239, R416). -/
def State.mintReply (s : State) (q : KeyReq) (o : MintOutcome) : State :=
  match q.peer with
  | none => s.post (.mintReplyArrival q o)
  | some (_, dev, ref) =>
    let m (status : Nat) (w : Word) (d : List Byte) : State := s.replyTo dev ref status w d
    match o with
      | .ok => m 0 0 []
      | .dead => m 1 0 []
      | .writeOnce st => m (4 + st) 0 []
      | .stall code => m (16 + code) 0 []
      | .word w => m 2 w []
      | .tile d => m 3 0 d
      | .space code => m (32 + code) 0 []
      | .linkDown _ _ => m 64 0 []

/-! ## Entries (R232 to R237) -/

/-- The entry of a key. -/
def State.entry (s : State) (k : Key) (home : Nat) : Option MintEntry := (s.slice home).mint.find? fun e => e.key == k

/-- Change the entry of a key. -/
def State.modEntry (s : State) (k : Key) (home : Nat) (f : MintEntry → MintEntry) : State :=
  s.setSlice home { s.slice home with mint := (s.slice home).mint.map fun e => if e.key = k then f e else e }

/-- Remove the entry of a key. -/
def State.dropEntry (s : State) (k : Key) (home : Nat) : State :=
  s.setSlice home { s.slice home with mint := (s.slice home).mint.filter fun e => e.key ≠ k }

/-- The floor of a key's tile (R234). -/
def Slice.floor (sl : Slice) (k : Key) : Nat :=
  ((sl.floors.find? fun f => f.1 == k.asid && f.2.1 == k.arr && f.2.2.1 == k.i && f.2.2.2.1 == k.j).map fun f => f.2.2.2.2).getD 0

/-- Set the floor of a key's tile. -/
def Slice.setFloor (sl : Slice) (k : Key) (v : Nat) : Slice :=
  { sl with floors := (sl.floors.filter fun f => !(f.1 == k.asid && f.2.1 == k.arr && f.2.2.1 == k.i && f.2.2.2.1 == k.j)) ++
      [(k.asid, k.arr, k.i, k.j, v)] }

/-- Whether a key is DEAD (R232). -/
def State.keyDead (s : State) (k : Key) (home : Nat) : Bool :=
  match s.entry k home with
  | some e => e.st = MintSt.dead
  | none => decide (k.ver < (s.slice home).floor k)

/-- The states of live versions. -/
def MintSt.live : MintSt → Bool
  | .pending | .creating | .present => true
  | _ => false

/-- Whether two keys are versions of one tile. -/
def sameTile (a b : Key) : Bool := a.asid == b.asid && a.arr == b.arr && a.i == b.i && a.j == b.j

/-- The tombstone that is reclaimed: the oldest that qualifies, and none where the floor table has no entry for its tile (R234, R355;
log 30). -/
def Slice.reclaimable (sl : Slice) : Option MintEntry :=
  (sl.mint.find? fun e => e.st = MintSt.dead && e.adj.isNone && (blocksOf sl.tills e.key).isEmpty &&
    !(sl.mint.any fun o => sameTile o.key e.key && o.key.ver < e.key.ver && o.st.live)).filter fun e =>
    decide (sl.floors.length < Config.floorEntries) ||
      sl.floors.any fun f => f.1 == e.key.asid && f.2.1 == e.key.arr && f.2.2.1 == e.key.i && f.2.2.2.1 == e.key.j

/-- A shadow that may be dropped when its slice needs the entry: one with no waiter, those charged to no RCB first (R417, R418). -/
def Slice.droppable (sl : Slice) : Option MintEntry :=
  let free (e : MintEntry) : Bool := e.st = MintSt.held && e.waiters.isEmpty
  (sl.mint.find? fun e => free e && e.rcb == 0).or (sl.mint.find? free)

/-- A shadow that no one waits for leaves its slice (R417). -/
def State.giveShadow (s : State) (home : Nat) (e : MintEntry) : State :=
  let s := s.dropEntry e.key home
  if e.rcb = 0 then s else s.charge e.rcb e.asid false

/-- Storage at a slice, for which shadows that no one waits for leave it one by one (R233, R235, R417). -/
def State.takeRun (s : State) (home bytes : Nat) : Nat → Option (State × Run)
  | 0 => (s.findRun home bytes).map fun r => (s, r)
  | fuel + 1 => match s.findRun home bytes with
    | some r => some (s, r)
    | none => match (s.slice home).droppable with
      | none => none
      | some e => (s.giveShadow home e).takeRun home bytes fuel

/-- Storage for an entry of a slice, and what is done with it (R233, R235, R417): none where there is no room. -/
def State.withRun (s : State) (home bytes : Nat) (k : State → Run → State) : Option State :=
  (s.takeRun home bytes (s.slice home).mint.length).map fun r => k r.1 r.2

/-- Make room for one Mint entry; none where there is none (R234, R235, R417). The floor after version 2^24 − 1 is 2^24, which no version
reaches (log 87). -/
def State.mintRoom (s : State) (home : Nat) : Option State :=
  let sl := s.slice home
  if sl.mint.length < Config.mintEntries then some s
  else match sl.reclaimable with
    | some e => some ((s.setSlice home (sl.setFloor e.key (max (sl.floor e.key) (e.key.ver + 1)))).dropEntry e.key home)
    | none => sl.droppable.map (s.giveShadow home)

/-- A new entry. -/
def MintEntry.new (k : Key) (st : MintSt) (rcb asid : Nat) : MintEntry :=
  { key := k, st := st, prior := none, data := [], run := none, readers := 0, early := 0, dropAll := false, pins := 0, waiters := [],
    devs := [], rcb := rcb, asid := asid, adj := none, marks := [] }

/-- Put a new entry into its slice. -/
def State.addEntry (s : State) (home : Nat) (e : MintEntry) : State :=
  s.setSlice home { s.slice home with mint := (s.slice home).mint ++ [e], retained := false }

/-- Allocate a FREE key (R232, R235): quota first (1), then an entry (2). -/
def State.allocEntry (s : State) (k : Key) (home : Nat) (st : MintSt) (rcb asid : Nat) : Except Nat State :=
  if !s.quotaFits rcb asid then .error 1
  else match s.mintRoom home with
    | none => .error 2
    | some s => .ok ((s.charge rcb asid true).addEntry home (MintEntry.new k st rcb asid))

/-- A version dies: a tombstone, its storage free, its charge released (R232, R237, R428). Tombstones stand in order of death. -/
def State.kill (s : State) (k : Key) (home : Nat) : State :=
  match s.entry k home with
  | none => s
  | some e =>
    let s := (s.dropEntry k home).addEntry home { e with st := .dead, prior := none, data := [], run := none, marks := [], dropAll := false,
                                                         early := 0 }
    ((s.charge e.rcb e.asid false)).wakeRoom home

/-- Reclaim a PRESENT version whose readers and pins are both 0 (R232, R237). -/
def State.reclaim (s : State) (k : Key) (home : Nat) : State :=
  match s.entry k home with
  | none => s
  | some e => if e.st = MintSt.present && e.readers == 0 && e.pins == 0 then s.kill k home else s

/-- Wake a waiter of a key; a message carries the wake to a thread (R236). -/
def State.wakeVersion (s : State) (w : KeyWaiter) (result : Nat) : State :=
  match w with
  | .thread tid => s.post (.versionWakeArrival tid result)
  | .teller cell op => s.post (.tellerOpCompletion cell op)

/-- Wake every waiter of an entry in order of registration (R236). -/
def State.walkKey (s : State) (k : Key) (home result : Nat) : State :=
  match s.entry k home with
  | none => s
  | some e => e.waiters.foldl (fun s t => s.wakeVersion t result) (s.modEntry k home fun e => { e with waiters := [] })

/-- Tell remote devices of a new version: each at most once; the data where it is at most 8 KiB (R236, R417, R418, R427). -/
def State.notify (s : State) (k : Key) (home : Nat) : State :=
  match s.entry k home with
  | none => s
  | some e =>
    let subs := (s.subscribers.filter fun b => b.1 == k.asid && b.2.1 == k.arr).map fun b => b.2.2
    let devs := (e.devs ++ subs).dedup
    let data := if e.data.length ≤ 8192 then some e.data else none
    devs.foldl (fun s d => match s.route d with
      | none => s
      | some l => s.sendOn l d (.notice s.devid.toNat k.asid k.arr k.i k.j k.ver data)) (s.modEntry k home fun e => { e with devs := [] })

/-- Reserve a key for creation (R241): the answer, or a stall. -/
def State.reserve (s : State) (k : Key) (home bytes rcb asid : Nat) : Except MintOutcome State :=
  let st := (s.entry k home).map MintEntry.st
  if s.keyDead k home then .error (.writeOnce 4)
  else if st = some .creating then .error (.writeOnce 2)
  else if st = some .present then .error (.writeOnce 3)
  else
    let r := match st with
      | none => s.allocEntry k home .pending rcb asid
      | some _ => .ok s
    match r with
    | .error code => .error (.stall code)
    | .ok s' => match s'.withRun home bytes fun s run =>
          s.modEntry k home fun e => { e with st := .creating, prior := st, run := some run } with
      | none => .error (.stall 2)
      | some s => .ok s

/-- Whether an entry holds nothing but its reservation: no pin, no waiter, no early read, no adjoint tile. -/
def MintEntry.bare (e : MintEntry) : Bool :=
  e.pins == 0 && e.waiters.isEmpty && e.devs.isEmpty && e.early == 0 && !e.dropAll && e.adj.isNone

/-- Give a reservation back: the key returns to its state before it (R232, R241). A FREE key that something refers to meanwhile keeps its
entry, PENDING, with its charge (R242, R355; log 74). -/
def State.unreserve (s : State) (k : Key) (home : Nat) : State :=
  match s.entry k home with
  | none => s
  | some e =>
    if e.st ≠ MintSt.creating then s
    else match e.prior with
      | some p => (s.modEntry k home fun e => { e with st := p, prior := none, run := none }).wakeRoom home
      | none =>
        if e.bare then ((s.dropEntry k home).charge e.rcb e.asid false).wakeRoom home
        else (s.modEntry k home fun e => { e with st := .pending, run := none }).wakeRoom home

/-- Give back the reservation of a snapshot, and its pin (R248, R285). -/
def State.dropSnap (s : State) (k : Key) (home : Nat) : State :=
  if (s.entry k home).any (fun e => e.st = MintSt.creating) then
    (s.modEntry k home fun e => { e with pins := e.pins - 1 }).unreserve k home
  else s

/-- The version exists (R241): data, readers, state, waiters, notices. -/
def State.create (s : State) (k : Key) (home n0 : Nat) (data : List Byte) : State :=
  let s := s.modEntry k home fun e => { e with
    data := data, st := .present, prior := none, early := 0, dropAll := false,
    readers := if e.dropAll then 0 else if n0 = 65535 then 65535 else n0 - e.early }
  ((s.walkKey k home 0).notify k home).reclaim k home

/-- Release one pin (R237). -/
def State.unpin (s : State) (k : Key) (home : Nat) : State :=
  let s := s.modEntry k home fun e => { e with pins := e.pins - 1 }
  (s.retryStalled fun code q => code == 3 && q.key == k).reclaim k home

/-- Take one pin of a live key; the 65,536th waits (R235). -/
def State.pin (s : State) (k : Key) (home : Nat) : Except Nat State :=
  match s.entry k home with
  | none => .ok s
  | some e => if e.pins ≥ 65535 then .error 3 else .ok (s.modEntry k home fun e => { e with pins := e.pins + 1 })

/-- Consume one reader, or count an early read (R239, R240). -/
def MintEntry.consume (e : MintEntry) : MintEntry :=
  if e.st = MintSt.present then (if e.readers = 0 ∨ e.readers = 65535 then e else { e with readers := e.readers - 1 })
  else { e with early := min (e.early + 1) 65535 }

/-! ## Adjoint tiles (R248, R355) -/

/-- The adjoint tile of a key, allocated zero-filled on first use (R248): a key with no entry gets a DEAD entry that holds only it. -/
def State.needAdj (s : State) (k : Key) (home : Nat) (d : Desc) (rcb asid : Nat) : Except Nat State :=
  match (s.entry k home).bind MintEntry.adj with
  | some _ => .ok s
  | none =>
    if !s.quotaFits rcb asid then .error 1
    else
      let room := match s.entry k home with
        | some _ => some s
        | none => (s.mintRoom home).map fun (s : State) => s.addEntry home (MintEntry.new k .dead 0 0)
      match room with
      | none => .error 2
      | some s' => match s'.withRun home (4 * d.rows * d.cols) fun s run => (s.charge rcb asid true).modEntry k home fun e =>
            { e with adj := some ⟨List.replicate (d.rows * d.cols) 0, run, rcb, asid⟩ } with
        | none => .error 2
        | some s => .ok s

/-- Free the adjoint tile and its charge; an entry that held only it stays a tombstone (R355). -/
def State.dropAdj (s : State) (k : Key) (home : Nat) : State :=
  match (s.entry k home).bind MintEntry.adj with
  | none => s
  | some a => ((s.modEntry k home fun e => { e with adj := none }).charge a.rcb a.asid false).wakeRoom home

/-- Free every till block of a key unread (R355, R365). -/
def State.dropBlocks (s : State) (home : Nat) (k : Key) : State :=
  let sl := s.slice home
  ((s.setSlice home { sl with tills := sl.tills.filter fun t => t.key? ≠ some k }).release k (blockRcbs sl.tills k)).wakeRoom home

/-- The values of an adjoint tile after its fold; zeros where there is none. -/
def State.adjVals (s : State) (k : Key) (home n : Nat) : List Nat :=
  (((s.entry k home).bind MintEntry.adj).map Adjoint.vals).getD (List.replicate n 0)

end Sys2Proof.Machine
end

