-- ==== Sys2Proof/Machine/Thunk.lean ====
section
/-! DEFINITION. Handles and the thunk table (R250 to R252, R263, R265), map steps (R255, R256), demand (R257, R258), and forcing (R259
to R262, R304). -/

namespace Sys2Proof.Machine

/-! ## Handles, slots and references (R250 to R252) -/

/-- A handle. -/
def Ctx.handle (c : Ctx) (h : R5) : Handle := c.handles[h.toNat]?.getD .empty

/-- Rows, columns, format and NX4 block code. -/
structure Shape where
  rows : Nat
  cols : Nat
  fmt : Nat
  blk : Nat
  deriving DecidableEq, Repr

/-- The shape of a version reference. -/
def Ref.shape (r : Ref) : Shape := ⟨r.rows, r.cols, r.fmt, r.blk⟩

/-- The shape of a node. -/
def Node.shape (n : Node) : Shape := ⟨n.rows, n.cols, n.fmt, n.blk⟩

/-- What a handle names, with its shape; none for EMPTY (R250). -/
def Ctx.target? (c : Ctx) (h : R5) : Option (Base × Shape) :=
  match c.handle h with
  | .empty => none
  | .version r => some (.ref r, r.shape)
  | .node i => (c.thunks.find? i).map fun n => (.entry i, n.shape)

/-- Entries that something names. -/
def slotEntries (l : List Slot) : List Nat :=
  l.filterMap fun s => match s.base with
    | .entry i => some i
    | .ref _ => none

/-- Entries of the table that a handle or a live entry names. -/
def Ctx.named (c : Ctx) : List Nat :=
  (c.handles.toList.filterMap fun h => match h with
    | .node i => some i
    | _ => none) ++ c.thunks.flatMap fun e => slotEntries e.2.srcs

/-- Free every entry that nothing names, recursively (R252). -/
def Ctx.prune : Nat → Ctx → Ctx
  | 0, c => c
  | fuel + 1, c => Ctx.prune fuel { c with thunks := c.thunks.filter fun e => c.named.contains e.1 }

/-- Version references that handles, slots and pool sources hold. -/
def Ctx.refs (c : Ctx) : List Ref :=
  (c.handles.toList.filterMap fun h => match h with
    | .version r => some r
    | _ => none) ++
  c.thunks.flatMap fun e => (e.2.srcs.filterMap fun s => match s.base with
    | .ref r => some r
    | .entry _ => none) ++ (e.2.pool.map PoolSrc.ref).toList

/-- Release the pin of a reference: a message to its home or to the device that owns it (R237, R416). -/
def State.releaseRef (s : State) (r : Ref) : State :=
  match r.dev with
  | none => s.post (.pinRelease r.key r.home)
  | some d => match s.bindingTo r.key.asid d, s.route d with
    | some b, some l => s.sendOn l d (.remoteKey ⟨s.devid.toNat, l, b.xport, r.key.arr, r.key.i, r.key.j, r.key.ver, 8, [], b.space, 0, 0, 0⟩)
    | _, _ => s

/-- A POOL node is freed before its copy: its lock goes and its key is given up as TDROP.ALL gives it up (R265). -/
def State.releasePool (s : State) (p : PoolSrc) : State :=
  let cell := s.cell p.cell
  match cell.locks.find? p.entry with
  | some l =>
    if l.kind ≥ 2 ∧ l.owner = p.ref.id then
      (s.setCell p.cell { cell with locks := cell.locks.erase p.entry }).modEntry p.ref.key p.ref.home
        fun e => if e.st = MintSt.pending then { e with dropAll := true } else e
    else s
  | none => s

/-- Change a thread's handles, then release whatever nothing holds any longer (R252). -/
def State.rebind (s : State) (tid : Nat) (f : Ctx → Ctx) : State :=
  let c := s.ctx tid
  let d := Ctx.prune 33 (f c)
  let ids := d.refs.map Ref.id
  let gone := (c.refs.filter fun r => !ids.contains r.id).foldl
    (fun (l : List Ref) r => if l.any (fun x => x.id == r.id) then l else l ++ [r]) []
  let pools := (c.thunks.filter fun e => (d.thunks.find? e.1).isNone).filterMap fun e => e.2.pool
  let s := pools.foldl State.releasePool (s.setCtx tid d)
  gone.foldl State.releaseRef s

/-- Give a handle new content. -/
def Ctx.setHandle (c : Ctx) (h : R5) (x : Handle) : Ctx := { c with handles := c.handles.setIfInBounds h.toNat x }

/-- Bind a handle of a thread (R239, R252). -/
def State.bindHandle (s : State) (tid : Nat) (h : R5) (x : Handle) : State := s.rebind tid fun c => c.setHandle h x

/-- Every handle EMPTY (R267, R278). -/
def State.clearHandles (s : State) (tid : Nat) : State :=
  s.rebind tid fun c => { c with handles := Vector.replicate 32 .empty }

/-- A leaf that holds a version of an array. -/
def State.newRef (s : State) (k : Key) (home : Nat) (dev : Option Nat) (sh : Shape) (diff : Bool) : Ref × State :=
  (⟨s.serial, k, home, dev, sh.rows, sh.cols, sh.fmt, sh.blk, diff⟩, { s with serial := s.serial + 1 })

/-! ## Map steps (R255, R256) -/

/-- The shape that a slot shows. -/
def Slot.shape (s : Slot) : Shape :=
  match s.steps with
  | [] => ⟨s.rows, s.cols, s.fmt, s.blk⟩
  | t :: _ => ⟨t.rows, t.cols, s.fmt, s.blk⟩

/-- The source coordinate of a step (R255). -/
def MapStep.coord (t : MapStep) (r c : Int) : Int × Int :=
  match t.kind with
  | 1 => (c, r)
  | 2 => (r + t.a, c + t.b)
  | 3 => (t.a, c)
  | _ => (r, t.b)

/-- The element of a slot at a coordinate: the fill bits of a step that sends it outside, or the base's element (R255). -/
def slotElem (rows cols : Nat) (vals : Nat → Nat) : List MapStep → Int → Int → Nat
  | [], r, c => vals (r.toNat * cols + c.toNat)
  | t :: ts, r, c =>
    let p := t.coord r c
    let (sr, sc) : Nat × Nat := match ts with
      | [] => (rows, cols)
      | u :: _ => (u.rows, u.cols)
    if 0 ≤ p.1 ∧ p.1 < sr ∧ 0 ≤ p.2 ∧ p.2 < sc then slotElem rows cols vals ts p.1 p.2 else t.fill

/-- Intersect bounds with a shape; none when nothing is left. -/
def clipRect (r0 r1 c0 c1 : Int) (rows cols : Nat) : Option Rect :=
  let r0 := max r0 0
  let c0 := max c0 0
  let r1 := min r1 (rows - 1)
  let c1 := min c1 (cols - 1)
  if r0 ≤ r1 ∧ c0 ≤ c1 then some ⟨r0.toNat, r1.toNat, c0.toNat, c1.toNat⟩ else none

/-- The demand of a step on its source (R255). -/
def MapStep.demand (t : MapStep) (q : Rect) (rows cols : Nat) : Option Rect :=
  match t.kind with
  | 1 => clipRect q.c0 q.c1 q.r0 q.r1 rows cols
  | 2 => clipRect (q.r0 + t.a) (q.r1 + t.a) (q.c0 + t.b) (q.c1 + t.b) rows cols
  | 3 => clipRect t.a t.a q.c0 q.c1 rows cols
  | _ => clipRect q.r0 q.r1 t.b t.b rows cols

/-- The demand of a slot on its base (R255, R258). -/
def slotDemand (rows cols : Nat) : List MapStep → Rect → Option Rect
  | [], q => some q
  | t :: ts, q =>
    let (sr, sc) : Nat × Nat := match ts with
      | [] => (rows, cols)
      | u :: _ => (u.rows, u.cols)
    match t.demand q sr sc with
    | none => none
    | some q => slotDemand rows cols ts q

/-- The smallest rectangle that holds two (R259). -/
def Rect.join (a b : Rect) : Rect := ⟨min a.r0 b.r0, max a.r1 b.r1, min a.c0 b.c0, max a.c1 b.c1⟩

/-- Whether a rectangle holds a coordinate. -/
def Rect.has (q : Rect) (r c : Nat) : Bool := q.r0 ≤ r && r ≤ q.r1 && q.c0 ≤ c && c ≤ q.c1

/-- The rectangle of a whole tile. -/
def Shape.whole (s : Shape) : Rect := ⟨0, s.rows - 1, 0, s.cols - 1⟩

/-- Widen a rectangle along columns to whole blocks of an NX4 tile (R258). -/
def Rect.widen (q : Rect) (fmt blk : Nat) : Rect :=
  if fmt = 5 then { q with c0 := q.c0 / blockLen blk * blockLen blk, c1 := (q.c1 / blockLen blk + 1) * blockLen blk - 1 } else q

/-! ## Demand (R258) -/

/-- What a demand of `q` of a node asks of each of its slots, as the slot shows its source (R258). -/
def Node.demands (n : Node) (q : Rect) : List (Slot × Rect) :=
  match n.op with
  | 1 | 7 => []
  | 4 => n.srcs.zipIdx.map fun p =>
      let sh := p.1.shape
      (p.1, if p.2 = 0 then ⟨q.r0, q.r1, 0, sh.cols - 1⟩ else if p.2 = 1 then ⟨0, sh.rows - 1, q.c0, q.c1⟩ else q)
  | 5 => n.srcs.map fun s =>
      let sh := s.shape
      (s, if n.f < 4 then ⟨q.r0, q.r1, 0, sh.cols - 1⟩ else ⟨0, sh.rows - 1, q.c0, q.c1⟩)
  | 0 => n.srcs.map fun s => (s, q)
  | 6 => n.srcs.map fun s => (s, (q.widen n.fmt n.blk).widen s.fmt s.blk)
  | _ => n.srcs.map fun s => (s, q.widen s.fmt s.blk)

/-- Demand gathered so far: the bounding rectangle of each entry, and every rectangle demanded of a leaf with the PC that demands it. -/
structure Demand where
  rects : SMap Rect
  leafs : List (Ref × Rect × Word)
  deriving DecidableEq, Repr

/-- Demand a rectangle of a version for a node of a PC. -/
def Demand.leaf (d : Demand) (r : Ref) (q : Rect) (pc : Word) : Demand :=
  if d.leafs.contains (r, q, pc) then d else { d with leafs := d.leafs ++ [(r, q, pc)] }

/-- Demand a rectangle of a base for a node of a PC. What is read of a pool source is read of its version, for the node that demands it
(R258, R262, R265). -/
def Demand.want (l : SMap Node) (d : Demand) (b : Base) (q : Rect) (pc : Word) : Demand :=
  match b with
  | .entry i =>
    let d := { d with rects := d.rects.set i (((d.rects.find? i).map (·.join q)).getD q) }
    match (l.find? i).bind Node.pool with
    | some p => d.leaf p.ref q pc
    | none => d
  | .ref r => d.leaf r q pc

/-- Put the entries of a table in order of creation, the youngest first. -/
def insertYoung (e : Nat × Node) : List (Nat × Node) → List (Nat × Node)
  | [] => [e]
  | x :: r => if x.2.order ≤ e.2.order then e :: x :: r else x :: insertYoung e r

/-- The table, youngest entry first: a node's sources are older than it. -/
def Ctx.youngest (c : Ctx) : List (Nat × Node) := c.thunks.foldl (fun l e => insertYoung e l) []

/-- Spread a demand through the nodes that it reaches, the youngest first, so that each node's rectangle is complete when its own
demands are formed; only a conversion to NX4 computes whole blocks (R258, R259). -/
def spread (t : SMap Node) (l : List (Nat × Node)) (d : Demand) : Demand :=
  l.foldl (fun (d : Demand) e => match d.rects.find? e.1 with
    | none => d
    | some q =>
      let q := if e.2.op = 6 then q.widen e.2.fmt e.2.blk else q
      let d := { d with rects := d.rects.set e.1 q }
      (e.2.demands q).foldl (fun (d : Demand) p => match slotDemand p.1.rows p.1.cols p.1.steps p.2 with
          | none => d
          | some r => d.want t p.1.base r e.2.pc) d) d

/-- The force of a rectangle of a base (R257 to R259): nodes are computed oldest first. -/
def Ctx.newForce (c : Ctx) (handle : Nat) (root : Base) (q : Rect) : Force :=
  let l := c.youngest
  let d := spread c.thunks l ((⟨[], []⟩ : Demand).want c.thunks root q c.pc)
  { handle := handle, root := root, rects := d.rects, leafs := d.leafs, read := [],
    todo := ((l.map Prod.fst).filter fun i => (d.rects.find? i).isSome).reverse, vals := [], nf := false, sat := false, fault := none,
    done := false }

/-! ## Computing a node (R254, R259, R270 to R276) -/

/-- The elements of a base, as far as the force has them. -/
def Force.values (f : Force) (b : Base) : Nat → Nat :=
  let l := match b with
    | .entry i => f.vals.get i []
    | .ref r => f.read.get r.id []
  fun k => l.getD k 0

/-- An element of a slot. -/
def Force.at (f : Force) (s : Slot) (r c : Nat) : Nat := slotElem s.rows s.cols (f.values s.base) s.steps r c

/-- The draws of a node. -/
def Node.draw (n : Node) : Draw := ⟨n.rm, n.drawKey, n.drawLtn, n.drawCtr⟩

/-- The empty slot that stands for a source that a node does not have. -/
def Slot.none : Slot := ⟨.entry 32, 0, 0, 0, 0, []⟩

/-- One element of a node, but for the nodes computed block by block (R270 to R276). -/
def Node.elem (n : Node) (f : Force) (r c : Nat) : Elem :=
  let e := r * n.cols + c
  let s (k : Nat) : Slot := n.srcs.getD k Slot.none
  match n.op with
  | 0 => { bits := f.at (s 0) r c }
  | 1 => { bits := n.opnd }
  | 2 => tewElem n.f n.fmt n.draw e (f.at (s 0) r c) (f.at (s 1) r c) (f.at (s 2) r c)
  | 3 => tmapElem n.f n.fmt n.draw e (f.at (s 0) r c) n.opnd
  | 4 =>
    let k := (s 0).shape.cols
    let pad := List.replicate (64 - k) 0
    let as := (List.range k).map (fun x => f.at (s 0) r x) ++ pad
    let bs := (List.range k).map (fun x => f.at (s 1) x c) ++ pad
    let b := kstepElem (s 0).fmt (s 1).fmt 0 0 as bs (if n.srcs.length > 2 then f.at (s 2) r c else 0)
    { bits := b, nf := n.fmt == 0 && fp32.nonfinite b }
  | 5 =>
    let sh := (s 0).shape
    let vs := if n.f < 4 then (List.range sh.cols).map fun x => elemFV n.fmt (f.at (s 0) r x)
      else (List.range sh.rows).map fun x => elemFV n.fmt (f.at (s 0) x c)
    n.draw.elem (Fmt.ofCode n.fmt) false e (tredValue (n.f % 4) vs)
  | 6 =>
    if n.f < 32 then tcvtElem (s 0).fmt n.fmt (bitOf n.f 3) n.draw e (f.at (s 0) r c)
    else
      let len := blockLen n.blk
      let c0 := c / len * len
      let vs := (List.range len).map fun x => elemFV (s 0).fmt (f.at (s 0) r (c0 + x))
      (nxBlock (n.f % 4) n.rm n.draw.rnd (r * n.cols + c0) vs).getD (c - c0) { bits := 0 }
  | _ => { bits := (match n.pool with
      | some p => (f.read.get p.ref.id []).getD e 0
      | none => 0) }

/-- A node's rectangle, as elements of its whole shape (R259). -/
def Node.compute (n : Node) (f : Force) (q : Rect) : List Elem :=
  (List.range (n.rows * n.cols)).map fun e =>
    if q.has (e / n.cols) (e % n.cols) then n.elem f (e / n.cols) (e % n.cols) else { bits := 0 }

/-- Compute the entry of a force that is next, widen its forced-region record, and keep its values and flags (R259). -/
def Ctx.computeEntry (c : Ctx) (f : Force) (i : Nat) : Ctx :=
  match c.thunks.find? i, f.rects.find? i with
  | some n, some q =>
    let es := n.compute f q
    { c with
      thunks := c.thunks.set i { n with region := some ((n.region.map (·.join q)).getD q) },
      force := some { f with todo := f.todo.filter (· ≠ i), vals := f.vals.set i (es.map Elem.bits), nf := f.nf || es.any Elem.nf,
                             sat := f.sat || es.any Elem.sat } }
  | _, _ => { c with force := some { f with todo := f.todo.filter (· ≠ i) } }

/-! ## Forcing (R260 to R262) -/

/-- Begin a force for the issuing thread, which parks at a stage of its instruction (R260). -/
def State.startForce (s : State) (stage handle : Nat) (root : Base) (q : Rect) : State :=
  let s := s.setMe { s.me with force := some (s.me.newForce handle root q) }
  (s.parkStage stage).post (.forceNodeStep s.cur)

/-- A force ends in a fault (R262). -/
def State.faultForce (s : State) (tid : Nat) (f : Force) (pc : Word) (cause : Nat) (addr : Word) : State :=
  (s.modCtx tid fun c => { c with force := some { f with fault := some (pc, cause, addr) } }).post (.forceCompletion tid)

/-- The elements whose bits, or whose block's scale byte, lie on a word of a tile's storage (R185). -/
def elemsOn (r : Ref) (w : Nat) : List Nat :=
  let n := r.rows * r.cols
  if r.fmt = 5 then
    (List.range 8).flatMap fun i =>
      let b := 8 * w + i
      if b < n / 2 then [2 * b, 2 * b + 1]
      else (List.range (blockLen r.blk)).map fun j => (b - n / 2) * blockLen r.blk + j
  else (List.range (64 / codeWidth r.fmt)).map fun i => w * (64 / codeWidth r.fmt) + i

/-- Whether a demanded element lies on marked storage (R258, R262). -/
def leafBad (r : Ref) (q : Rect) (marks : List Nat) : Bool :=
  marks.any fun w => (elemsOn r w).any fun e => decide (e < r.rows * r.cols) && q.has (e / r.cols) (e % r.cols)

/-- The copy of a TLDP range that a key waits for, if it has not begun (R265). -/
def Ctx.poolOf (c : Ctx) (r : Ref) : Option PoolSrc :=
  (c.thunks.filterMap fun e => e.2.pool).find? fun p => p.ref.id == r.id

/-- Whether a thread is a waiter of a key (R236). -/
def State.waits (s : State) (tid : Nat) (k : Key) (home : Nat) : Bool :=
  (s.entry k home).any fun e => e.waiters.contains (.thread tid)

/-- A thread is no waiter of a key any more. -/
def State.unwait (s : State) (tid : Nat) (k : Key) (home : Nat) : State :=
  s.modEntry k home fun e => { e with waiters := e.waiters.filter (· ≠ .thread tid) }

/-- The thread waits on a version: a place in the deferred-read list, or a new try after 1,024 cycles when the waiter table is
full; the wait counts toward the park limit (R236, R260, R261). -/
def State.awaitKey (s : State) (tid : Nat) (k : Key) (home : Nat) : State :=
  let s := (s.countPark tid).modCtx tid fun c => { c with park := some .version }
  if s.waits tid k home then s
  else if (s.slice home).waiting ≥ Config.waiterEntries then s.at (s.pcyc + 1024) (.versionWakeArrival tid 4)
  else s.modEntry k home fun e => { e with waiters := e.waiters ++ [.thread tid] }

/-- A waiting thread runs on. -/
def State.endWait (s : State) (tid : Nat) : State :=
  s.modCtx tid fun c => match c.park with
    | some .version | some .reply => { c with park := some .reply, parkSince := none, stallSince := none }
    | _ => c

/-- A waiting thread looks at its version again: its park and its stall go on (R131, R235, R337). -/
def State.lookAtKey (s : State) (tid : Nat) : State :=
  s.modCtx tid fun c => if c.park = some .version then { c with park := some .reply } else c

/-- The elements of a version are read into a force, unless a demanded one lies on marked storage: the fault is that of a node that
demands it (R242, R258, R259, R262). -/
def State.takeLeaf (s : State) (tid : Nat) (f : Force) (r : Ref) (e : MintEntry) : State :=
  match f.leafs.find? (fun l => l.1.id == r.id && leafBad r l.2.1 e.marks) with
  | some l => s.faultForce tid f l.2.2 trapMemPoison (keyPacked r.key)
  | none => ((s.endWait tid).modCtx tid fun c => { c with
      force := some { f with read := f.read.set r.id (elemsOf r.fmt r.rows r.cols r.blk e.data) } }).post (.forceNodeStep tid)

/-- A wait of a force finds no quota or room: the stall limit runs from the issue, with its cause (R235, R262). -/
def State.stallForce (s : State) (tid code : Nat) : State :=
  let c := s.ctx tid
  if c.stallSince.isSome then s.setCtx tid { c with stallCode := code }
  else
    let since := (c.lastIssue.map fun t => t * 10 / 33).getD s.ticks
    (s.at (cycleOfTick (since + s.stallLimit c.rcb.toNat c.asid)) (.stallLimitExpiry tid)).setCtx tid
      { c with stallSince := some since, stallCode := code }

/-- `VERSION_DEAD` as the cause of a fault (R242). -/
def causeDead : Nat := trapVersionDead + 256 * 4

/-- Ask the owner of a remote version for its data (R417). -/
def State.askOwner (s : State) (d : Nat) (k : Key) (home : Nat) (op : Nat) : Option State :=
  match s.bindingTo k.asid d, s.route d with
  | some b, some l =>
    let (ref, s) := s.await (.shadow home k)
    some (s.sendOn l d (.remoteKey ⟨s.devid.toNat, l, b.xport, k.arr, k.i, k.j, k.ver, op, [], 0, 0, 0, ref⟩))
  | _, _ => none

/-- The descriptor of a reference's array, as far as a request for its version needs it. -/
def leafDesc (r : Ref) : Desc := ⟨r.key.arr, r.fmt, r.rows, r.cols, 4095, 4095, r.blk, r.diff, false, 0, r.dev.isSome, r.dev.getD 0, 1⟩

/-- A force reads a remote leaf through a shadow; one that finds no quota or room for the shadow waits until some is freed (R417, R428). -/
def State.remoteLeaf (s : State) (tid : Nat) (f : Force) (r : Ref) (pc : Word) (d : Nat) : State :=
  let c := s.ctx tid
  let q : KeyReq := { src := ⟨tid, c.core, c.asid, c.pc⟩, key := r.key, home := r.home, desc := leafDesc r, use := .leaf none, rdr := 0,
                      since := s.ticks, rcb := c.rcb.toNat, rcbAsid := c.asid, peer := none }
  let again (code : Nat) : State :=
    (({ s with stalled := s.stalled ++ [(code, Event.mintReference q)] }.countPark tid).modCtx tid fun c => { c with park := some .version }).stallForce
      tid code
  match s.entry r.key r.home with
  | some e => if e.st = MintSt.held then s.takeLeaf tid f r e else s.awaitKey tid r.key r.home
  | none =>
    match s.allocEntry r.key r.home .waiting (s.ctx tid).rcb.toNat (s.ctx tid).asid with
    | .error n => again n
    | .ok s' => match s'.withRun r.home (tileBytes r.fmt r.rows r.cols r.blk) fun s run =>
          s.modEntry r.key r.home fun e => { e with run := some run } with
      | none => again 2
      | some s' => match s'.askOwner d r.key r.home 7 with
        | some s' => s'.awaitKey tid r.key r.home
        | none => s.faultForce tid f pc trapLinkDown (s.linkDown d).addr

/-- One leaf of a force (R242, R261, R265, R417). -/
def State.readLeaf (s : State) (tid : Nat) (f : Force) (r : Ref) (pc : Word) : State :=
  match r.dev with
  | some d => s.remoteLeaf tid f r pc d
  | none =>
    if s.keyDead r.key r.home then s.faultForce tid f pc causeDead (keyPacked r.key)
    else match s.entry r.key r.home with
      | none => s.faultForce tid f pc causeDead (keyPacked r.key)
      | some e =>
        if e.st = MintSt.present then s.takeLeaf tid f r e
        else
          let s := match (s.ctx tid).poolOf r with
            | some p => if e.st = MintSt.pending then s.post (.poolSourceCopy p.cell p.entry) else s
            | none => s
          s.awaitKey tid r.key r.home

/-- Commands that a core's matrix queue holds (R287). -/
def matrixDepth : Nat := 8

/-- Whether a core's matrix queue has room (R288). -/
def State.matrixHasRoom (s : State) (core : Nat) : Bool := decide ((s.core core).matrix.queue.length < matrixDepth)

/-- Set the matrix state of a core. -/
def State.setMatrix (s : State) (core : Nat) (m : Matrix) : State := s.setCore core { s.core core with matrix := m }

/-- Let the head of a core's queue be looked at, unless that is already under way (R288, R289, R295). -/
def State.kickMatrix (s : State) (core : Nat) : State :=
  let m := (s.core core).matrix
  let once (e : Event) : State := if s.pending.contains e then s else s.post e
  match m.queue with
  | [] => s
  | .mma .. :: _ | .force .. :: _ => if m.granted then s else once (.kstepGrant (cellOf core))
  | .drain .. :: _ => once (.epilogueRow core)
  | _ => once (.matrixCommandAtHead core)

/-- Append a command to a core's queue. -/
def State.enqueueMatrix (s : State) (core : Nat) (c : MatCmd) : State :=
  let m := (s.core core).matrix
  (s.setMatrix core { m with queue := m.queue ++ [c] }).kickMatrix core

/-- The issuing or forcing thread as a source. -/
def State.srcOf (s : State) (tid : Nat) : Src := ⟨tid, (s.ctx tid).core, (s.ctx tid).asid, (s.ctx tid).pc⟩

/-- FORCE_NODE_STEP: a source is read, or the next node is computed; a product goes through the forcing core's queue (R260, R304). -/
def execForceNodeStep (tid : Nat) (s : State) : Out State :=
  let c := s.ctx tid
  match c.force with
  | none => .next s
  | some f =>
    if f.done || f.fault.isSome then .next s
    else match f.leafs.find? (fun e => (f.read.find? e.1.id).isNone) with
      | some (r, _, pc) => .next (s.readLeaf tid f r pc)
      | none => match f.todo with
        | [] => .next (s.post (.forceCompletion tid))
        | i :: _ =>
          if ((c.thunks.find? i).map Node.op) = some 4 then
            if (s.core c.core).matrix.queue.contains (.force (s.srcOf tid) i) then .next s
            else if s.matrixHasRoom c.core then .next (s.enqueueMatrix c.core (.force (s.srcOf tid) i))
            else .next (s.at (s.pcyc + 1) (.forceNodeStep tid))
          else .next ((s.setCtx tid (c.computeEntry f i)).post (.forceNodeStep tid))

/-- FORCE_COMPLETION: the outcome is kept and the instruction goes on; the flags of computed elements are set unless the force
faulted (R188, R254, R262). -/
def execForceCompletion (tid : Nat) (s : State) : Out State :=
  match (s.ctx tid).force with
  | none => .next s
  | some f =>
    if f.done then .next s
    else
      let s := s.modCtx tid fun c =>
        let c := if f.fault.isSome then c else c.raise f.nf f.sat
        { c with force := some { f with done := true }, parkSince := none }
      .next (s.wakeAgain tid)

/-- Whether a request of a thread is still on its way. -/
def State.sending (s : State) (q : KeyReq) : Bool :=
  let mine (e : Event) : Bool := eventReq e == some q
  s.pending.any mine || s.due.any mine || s.timers.any (fun e => mine e.2) ||
    s.remotes.any fun e => match e.2 with
      | .key x => x == q
      | _ => false

/-- Whether a request of a thread is still on its way or stalled. -/
def State.asking (s : State) (q : KeyReq) : Bool := s.sending q || s.stalled.any fun e => eventReq e.2 == some q

/-- Take back every request of a thread that a test of its use admits, wherever it waits (R235). -/
def State.takeBack (s : State) (tid : Nat) : State :=
  let mine (e : Event) : Bool := match eventReq e with
    | some q => q.peer.isNone && q.src.tid == tid && (match q.use with
        | .tover _ _ | .fromv _ _ _ => false
        | _ => true)
    | none => false
  { s with pending := s.pending.filter (!mine ·), due := s.due.filter (!mine ·), timers := s.timers.filter (!mine ·.2),
           stalled := s.stalled.filter (!mine ·.2) }

/-- Whether a TWAIT's result is on its way: a wake of the walk, or the Mint's answer (R245). -/
def State.answered (s : State) (tid : Nat) (q : KeyReq) : Bool :=
  (s.pending ++ s.due).any fun e => match e with
    | .versionWakeArrival t r => t == tid && r != 1 && r != 4
    | .mintReplyArrival x _ => x == q
    | _ => false

/-- The TWAIT that a thread is in: its request, register and deadline. -/
def Ctx.twait? (c : Ctx) : Option (KeyReq × R5 × Option Nat) :=
  c.keyReq.bind fun q => match q.use with
    | .twait a d => some (q, a, d)
    | _ => none

/-- A wake of a TWAIT (R245). A result is its own once it waits on the key no longer; the time runs out once the deadline's cycle has ended
and no result is on its way; a request that has not reached its home by then is evaluated there, once (R132). -/
def State.wakeTwait (s : State) (tid result : Nat) (q : KeyReq) (a : R5) (deadline : Option Nat) : State :=
  let waits := s.waits tid q.key q.home || s.asking q
  if result = 1 then
    if (deadline.any fun d => decide (cycleOfTick d < s.pcyc)) && !s.answered tid q && !s.sending q then
      ((s.takeBack tid).unwait tid q.key q.home).wakeWith tid fun c => c.setX a 1
    else s
  else if waits then s
  else if result = 4 then s.post (.mintReference q)
  else if result = 3 then s.wakeTrap tid (s.linkDown q.desc.dev)
  else if result ≥ 32 then s.wakeTrap tid (keyTrap trapAddrSpace (result % 32) q.key)
  else s.wakeWith tid fun c => c.setX a (BitVec.ofNat 64 result)

/-- VERSION_WAKE_ARRIVAL: a TWAIT has its result, or a force looks at the version again; a thread that its park limit has suspended is
queued at its dispatcher, and the force of a pre-empted one goes on (R236, R245, R249, R261). Results: 0 present, 1 timed out, 2 dead, 3 the
link is down, 4 look again, 32 + code a refusal by the owner (R416). -/
def execVersionWakeArrival (tid result : Nat) (s : State) : Out State :=
  let c := s.ctx tid
  match c.force, c.twait? with
  | none, some (q, a, d) => .next (s.wakeTwait tid result q a d)
  | some f, _ =>
    if c.park ≠ some .version then .next s
    else match (if result = 2 ∨ result = 3 ∨ result ≥ 32 then f.leafs.find? (fun e => (f.read.find? e.1.id).isNone && e.1.dev.isSome) else none) with
      | some (r, _, pc) =>
        .next (if result = 3 then s.faultForce tid f pc trapLinkDown (s.linkDown (r.dev.getD 0)).addr
          else if result = 2 then s.faultForce tid f pc causeDead (keyPacked r.key)
          else s.faultForce tid f pc (trapAddrSpace + 256 * (result % 32)) (keyPacked r.key))
      | none =>
      if c.imstate == .suspended && !c.queued then .next (s.wakeAgain tid)
      else .next ((if result = 4 then s.lookAtKey tid else s.endWait tid).post (.forceNodeStep tid))
  | none, _ => .next (if c.park = some .version then s.wakeAgain tid else s)

/-- The precise `THUNK_FAULT` of a force (R262). -/
def State.thunkFault (s : State) (f : Force) (x : Word × Nat × Word) : State :=
  (s.setMe { s.me with thpc := x.1, thcause := BitVec.ofNat 64 (x.2.1 % 2 ^ 32) }).trapMe ⟨trapThunkFault, f.handle, 0, x.2.2⟩

/-- An instruction that demands a rectangle: the force begins, goes on after a suspension, has faulted (what it did first is undone),
or has its elements (R257, R260 to R262). -/
def State.withForce (s : State) (stage handle : Nat) (root : Base) (q : Rect) (undo : State → State) (k : State → List Nat → State) :
    State :=
  match s.me.force with
  | none => s.startForce stage handle root q
  | some f =>
    if !f.done then (s.parkStage stage).post (.forceNodeStep s.cur)
    else match f.fault with
      | some x => (undo s).thunkFault f x
      | none => k s (match f.root with
          | .entry i => f.vals.get i []
          | .ref r => f.read.get r.id [])

/-! ## Sources and the append of a node (R250, R252, R254, R256, R263, R264) -/

/-- A handle as a source, seen through one more step: a VIEW with fewer than two steps gives its own source and steps (R256). -/
def Ctx.slotFor (c : Ctx) (h : R5) (step : Option MapStep) : Option Slot :=
  match c.target? h with
  | none => none
  | some (.ref r, sh) => some ⟨.ref r, sh.rows, sh.cols, sh.fmt, sh.blk, step.toList⟩
  | some (.entry i, sh) =>
    let own : Slot := ⟨.entry i, sh.rows, sh.cols, sh.fmt, sh.blk, step.toList⟩
    match c.thunks.find? i with
    | some n => match n.op, n.srcs with
      | 0, v :: _ =>
        if v.steps.length + step.toList.length ≤ 2 then some { v with steps := step.toList ++ v.steps } else some own
      | _, _ => some own
    | none => none

/-- The lowest free entry of the table. -/
def Ctx.freeEntry (c : Ctx) : Option Nat := (List.range 32).find? fun i => (c.thunks.find? i).isNone

/-- The number that a fault of a materialisation reports (R263). The destination, released in step 2, counts as naming the node (log 89). -/
def Ctx.faultNumber (c : Ctx) (i : Nat) : Nat :=
  ((List.range 32).find? fun h => c.handles[h]?.getD .empty == .node i).getD (32 + i)

/-- A slot that names an entry names the version that replaces it. -/
def Slot.replace (i : Nat) (r : Ref) (s : Slot) : Slot := if s.base = .entry i then { s with base := .ref r } else s

/-- Replace an entry by a version wherever a handle or slot names it (R263). -/
def Ctx.replaceEntry (c : Ctx) (i : Nat) (r : Ref) : Ctx :=
  let ns : SMap Node := c.thunks.map fun e => (e.1, { e.2 with srcs := e.2.srcs.map (Slot.replace i r) })
  { c with handles := c.handles.map (fun h => if h = .node i then .version r else h), thunks := ns.erase i }

/-- The request that makes an anonymous version of the issuing thread (R264), homed on the die of its core; none when the thread's
counter is used up. -/
def State.anonReq (s : State) (sh : Shape) (use : KeyUse) : Option (KeyReq × State) :=
  let c := s.me
  if c.anon ≥ 2 ^ 24 then none
  else
    let k : Key := ⟨c.asid, 0xFFFF, bitsOf c.thid.toNat 23 12, bitsOf c.thid.toNat 11 0, c.anon⟩
    let d : Desc := ⟨0xFFFF, sh.fmt, sh.rows, sh.cols, 4095, 4095, sh.blk, false, false, dieOf c.core, false, 0, 0⟩
    some (s.keyReqOf k d use 0, s.setMe { c with anon := c.anon + 1 })

/-- `QUOTA_STALL` of an anonymous counter that is used up (R264). -/
def State.anonSpent (s : State) : State :=
  let c := s.me
  s.trapMe (keyTrap trapQuotaStall 4 ⟨c.asid, 0xFFFF, bitsOf c.thid.toNat 23 12, bitsOf c.thid.toNat 11 0, 2 ^ 24 - 1⟩)

/-- Stage at which a materialisation's force runs, and at which its version is being made. -/
def stageMat : Nat := 40
/-- The stage at which a materialisation's version is being made. -/
def stageMade : Nat := 41

/-- Materialise an entry, then go on (R263): a force of the whole node, an anonymous version with its data, and every name of the
entry replaced. -/
def State.materialise (s : State) (i : Nat) (n : Node) (k : State → State) : State :=
  if s.me.stage = stageMade then
    match s.me.keyReq with
    | some q =>
      let (r, s) := s.newRef q.key q.home none n.shape false
      let s := s.rebind s.cur fun c => c.replaceEntry i r
      k (s.setMe { s.me with stage := 0, keyReq := none, force := none })
    | none => s
  else s.withForce stageMat (s.me.faultNumber i) (.entry i) n.shape.whole id fun s vals =>
    match s.anonReq n.shape (.anon (bytesOfElems n.fmt n.rows n.cols n.blk vals)) with
    | none => s.anonSpent
    | some (q, s) => ((s.parkStage stageMade).setMe { (s.parkStage stageMade).me with keyReq := some q }).post (.mintReserve q)

/-- The table with a new node under a handle, in the place 32 that is not one of the table's: its sources are referenced and the old
content of the handle is released (R252, R263). -/
def Ctx.withNode (c : Ctx) (a : R5) (n : Node) : Ctx :=
  Ctx.prune 33 { c.setHandle a (.node 32) with thunks := c.thunks.set 32 n }

/-- Move the new node into an entry of the table. -/
def Ctx.settleNode (c : Ctx) (a : R5) (n : Node) (i : Nat) : Ctx :=
  { c.setHandle a (.node i) with thunks := (c.thunks.erase 32).set i n }

/-- Go on when the table has an entry for a node under a handle; with none the oldest live node is materialised first, or
`THUNK_FULL` is raised (R263). -/
def State.withEntry (s : State) (a : R5) (n : Node) (k : Nat → State → State) : State :=
  let c := s.me
  let d := c.withNode a n
  match d.freeEntry with
  | some i => k i s
  | none =>
    if c.khthk.toNat ≠ 0 then s.trapMe ⟨trapThunkFull, 1, 0, 0⟩
    else match (d.youngest.filter fun e => e.1 ≠ 32).getLast? with
      | none => s
      | some (i, m) => s.materialise i m fun s => s.setMe { s.me with park := none, midway := true }

/-- Append a node under a handle (R252, R254, R263). -/
def State.append (s : State) (a : R5) (n : Node) (draws : Nat) : State :=
  s.withEntry a n fun i s =>
    let s := s.rebind s.cur fun c => (c.withNode a n).settleNode a n i
    State.finish { s with serial := s.serial + 1 } fun c => c.stepSr c.rm draws

/-- A node of the issuing thread with the rounding and draw base it captures (R251, R254). -/
def State.newNode (s : State) (op f : Nat) (sh : Shape) (srcs : List Slot) (opnd : Nat) : Node :=
  let c := s.me
  { op := op, f := f, rows := sh.rows, cols := sh.cols, fmt := sh.fmt, blk := sh.blk, srcs := srcs, opnd := opnd, rm := c.rm,
    drawKey := c.srkey, drawLtn := c.drawLtn, drawCtr := c.srctr, pc := c.pc, region := none, order := s.serial, pool := none }

end Sys2Proof.Machine
end

