-- ==== Sys2Proof/Machine/TileVer.lean ====
section
/-! DEFINITION. The majors 0xA0 to 0xA8 (R225 to R249): TDECL, TLD, TST, TDROP, TQRY, TWAIT, TGET, TSTV, TUNP, their reverse forms, and the
steps of the Mint. -/

namespace Sys2Proof.Machine

/-! ## Requests (R230, R416) -/

/-- What a key operation of a use carries beside its key: the readers asked for, the elements to read and clear, or the contributing
core. -/
def remoteCount (q : KeyReq) : Nat :=
  match q.use with
  | .adjTake n => n
  | .contribute => q.src.core
  | _ => q.rdr

/-- The shape of an array as a message carries it: NX4 block code, rows, columns. -/
def remoteShape (d : Desc) : Nat := d.blk * 2 ^ 14 + d.rows * 128 + d.cols

/-- Send a key operation to the device that owns the array; an undeliverable one is answered with `LINK_DOWN` (R413, R416). -/
def State.sendKey (s : State) (q : KeyReq) (op : Nat) (data : List Byte) : State :=
  let lost := s.mintReply q (.linkDown q.desc.dev (s.routes.get q.desc.dev 0))
  match s.bindingTo q.key.asid q.desc.dev with
  | none => lost
  | some b => match s.route q.desc.dev with
    | none => lost
    | some l =>
      let (ref, s) := s.await (.key q)
      s.sendOn l q.desc.dev (.remoteKey ⟨s.devid.toNat, l, b.xport, q.key.arr, q.key.i, q.key.j, q.key.ver, op, data,
        remoteCount q, q.desc.fmt, remoteShape q.desc, ref⟩)

/-- Numbers of the remote key operations. -/
def remoteOp : KeyUse → Nat
  | .tld _ => 0
  | .tdrop false => 1
  | .tdrop true => 2
  | .tqry _ => 3
  | .twait _ _ => 4
  | .fromv _ _ true => 0
  | .fromv _ _ false => 13
  | .contribute => 14
  | .adjRead _ _ => 15
  | .adjTake _ => 16
  | .adjDrop => 17
  | _ => 5

/-- Values of elements as a message carries them: 4 bytes of the element, 4 of its FP32 pattern. -/
def contributionBytes (vals : List (Nat × Nat)) : List Byte := vals.flatMap fun v => bytesOf 4 v.1 ++ bytesOf 4 v.2

/-- The values of elements that a message carries. -/
def contributionsOf (bs : List Byte) : List (Nat × Nat) :=
  (List.range (bs.length / 8)).map fun i => (field bs (8 * i) 4, field bs (8 * i + 4) 4)

/-- What a request sends along. -/
def eventData : Event → List Byte
  | .mintCreate _ data => data
  | .adjointTileContribution _ _ vals => contributionBytes vals
  | _ => []

/-- Ask a Mint, here or on another device; the issuing thread parks for the reply at a stage of its instruction (R239). -/
def State.askMint (s : State) (stage : Nat) (q : KeyReq) (e : Event) : State :=
  let s := s.parkStage stage
  let s := s.setMe { s.me with keyReq := some q }
  if q.desc.remote then s.sendKey q (remoteOp q.use) (eventData e) else s.post e

/-- Whether an instruction acts on the adjoint tile of an array's key, here or at its owner (R248, R354, R416). -/
def Ctx.reverseOn (c : Ctx) (d : Desc) : Bool := c.rev && d.diff && decide (d.fmt < 5)

/-- The shape of an array's tiles. -/
def descShape (d : Desc) : Shape := ⟨d.rows, d.cols, d.fmt, d.blk⟩

/-- An EMPTY handle read as a source (R250). -/
def Ctx.emptyTrap (c : Ctx) : Trap := c.opTrap trapIllegalOp 3

/-! ## TDECL (R228) -/

/-- TDECL: a load of the descriptor, whose long result is the status (R65, R228). -/
def execTdecl (a b : R5) (s : State) : Out State :=
  let c := s.me
  match s.place c { n := 32, r := true, rdup := true } 0 (c.xr b) 0 with
  | .error e => .next (s.stopMe e)
  | .ok p =>
    let quarter (i : Nat) : LaneOk :=
      ⟨{ p with lane := { p.lane with pa := p.lane.pa + 8 * i, va := p.lane.va + 8 * i, n := 8, idx := i } }, 0, none⟩
    .next ((s.settle c.core c.asid false p).loadLanes (.decl a) true ((List.range 4).map quarter) (·.pendX a))

/-- What TDECL does with the descriptor that it has read, and its status (R226 to R228, R264). -/
def State.declare (s : State) (asid : Nat) (bs : List Byte) : State × Nat :=
  let d := descOf bs
  let k := directorySlice asid d.aid
  if !s.descValid asid bs then (s, 1)
  else match s.declared asid d.aid with
    | some e => (s, if e = d then 0 else 2)
    | none =>
      if (s.slice k).arrays.length ≥ Config.directoryEntries then (s, 5)
      else (s.setSlice k { s.slice k with arrays := (s.slice k).arrays ++ [(asid, d)] }, 0)

/-- A register write of a reply as it lands: a descriptor is declared, and its register takes the status (R228). -/
def State.landing (s : State) (tid : Nat) (w : RegWrite) : State × RegWrite :=
  match w with
  | .decl a bs => let r := s.declare (s.ctx tid).asid bs
    (r.1, .x a (BitVec.ofNat 64 r.2) none)
  | w => (s, w)

/-- The register writes of a reply land in their order (R66, R101, R228). -/
def State.landWrites (s : State) (tid : Nat) (long : Bool) (ws : List RegWrite) : State :=
  ws.foldl (fun s w => let r := s.landing tid w
    r.1.modCtx tid fun c => applyWrite long c r.2) s

/-- LONG_RESULT_ARRIVAL: registers, flags, the acquire's self-invalidation, and the end of a reply park (R66, R129, R188). -/
def execLongResultArrival (r : Reply) (s : State) : Out State :=
  let s := if r.acquire then s.selfInvalidate (s.ctx r.tid).core else s
  let s := (s.landWrites r.tid (!r.complete) r.writes).modCtx r.tid fun c => c.raise r.nfs r.sats
  .next (if r.writes.any RegWrite.isBuf then s.wakeAgain r.tid
    else if r.complete then (s.modCtx r.tid Ctx.advance).requeue r.tid else s.syncImage r.tid)

/-- TDECL.U: the descriptor leaves the directory, and every cell drops its copy, tombstones and floors before the instruction
completes (R228). -/
def execTdeclU (a b : R5) (s : State) : Out State :=
  let c := s.me
  let aid := (c.xr b).toNat % 65536
  if c.stage = 1 then .next (s.doneX a 0)
  else if (s.declared c.asid aid).isNone then .next (s.doneLong a 4)
  else if s.slices.any (fun e => e.2.mint.any fun m => m.key.asid == c.asid && m.key.arr == aid && m.st.live) then
    .next (s.doneLong a 3)
  else
    let k := directorySlice c.asid aid
    let s := s.setSlice k { s.slice k with arrays := (s.slice k).arrays.filter fun e => !(e.1 == c.asid && e.2.aid == aid) }
    let s := s.parkStage 1
    let s := s.setMe { s.me with awaits := Config.cells }
    .next ((List.range Config.cells).foldl (fun s cell => s.post (.descriptorDropAtCell s.cur cell c.asid aid)) s)

/-- Remove an array's tombstones and floors from a slice, adjoint tiles and till blocks with them (R228, R355). -/
def State.forgetArray (s : State) (slice asid arr : Nat) : State :=
  let sl := s.slice slice
  let gone := sl.mint.filter fun e => e.key.asid == asid && e.key.arr == arr && e.st = MintSt.dead
  let s := gone.foldl (fun s e => ((s.dropAdj e.key slice).dropBlocks slice e.key).dropEntry e.key slice) s
  (s.setSlice slice { s.slice slice with floors := (s.slice slice).floors.filter fun f => !(f.1 == asid && f.2.1 == arr) }).wakeRoom slice

/-- DESCRIPTOR_DROP_AT_CELL (R228). -/
def execDescriptorDropAtCell (tid cell asid arr : Nat) (s : State) : Out State :=
  let s := s.setCell cell { s.cell cell with descs := (s.cell cell).descs.filter fun e => !(e.1 == asid && e.2.aid == arr) }
  let s := (s.forgetArray (2 * cell) asid arr).forgetArray (2 * cell + 1) asid arr
  let s := s.modCtx tid fun c => { c with awaits := c.awaits - 1 }
  .next (if (s.ctx tid).awaits = 0 then s.wakeAgain tid else s)

/-! ## Contributions to adjoint tiles (R248, R355) -/

/-- Send contributions to a key's adjoint tile: counted once in `PENDC`; the thread parks until the tile is there (R248). -/
def State.contributeTile (s : State) (stage : Nat) (q : KeyReq) (vals : List (Nat × Nat)) : State :=
  (s.setMe { s.me with pendc := s.me.pendc + 1, buf := contributionBytes vals }).askMint stage q (.adjointTileContribution q 0 vals)

/-- Element contributions of a whole tile: FP32 patterns, widened exactly. -/
def tileContributions (fmt : Nat) (vals : List Nat) : List (Nat × Nat) :=
  vals.zipIdx.map fun p => (p.2, fp32.round 0 0 (elemFV fmt p.1))

/-- Force a handle whole, then contribute it to a key's adjoint tile (R248, R361). -/
def State.seedTile (s : State) (h : R5) (k : Key) (d : Desc) : State :=
  let c := s.me
  match c.target? h with
  | none => s.trapMe c.emptyTrap
  | some (b, sh) =>
    if sh ≠ descShape d then s.trapMe (keyTrap trapAddrSpace 9 k)
    else if c.stage = 2 then s.done
    else
      let q := s.keyReqOf k d .contribute 0
      (s.setMe { s.me with keyReq := some q }).withForce 1 h.toNat b sh.whole id fun s vals =>
        s.contributeTile 2 q (tileContributions sh.fmt vals)

/-! ## TLD, TDROP, TQRY, TWAIT (R239, R240, R244, R245) -/

/-- TLD (R239, R248). -/
def execTld (a : R5) (ko : KeyOp) (s : State) : Out State :=
  let c := s.me
  let k := (c.keyOf ko).1
  match s.keyPhase c k with
  | .error t => .next (s.trapMe t)
  | .ok (d, s) =>
    if c.reverseOn d then .next (s.seedTile a k d)
    else if c.stage = 1 then
      let dev := if d.remote then some d.dev else none
      let (r, s) := s.newRef k (descHome d k.i k.j) dev (descShape d) d.diff
      .next (s.bindHandle s.cur a (.version r)).done
    else
      let q := s.keyReqOf k d (.tld a) 0
      .next (s.askMint 1 q (.mintReference q))

/-- TDROP and TDROP.ALL (R240). -/
def State.dropInstr (s : State) (all : Bool) (ko : KeyOp) : State :=
  let c := s.me
  let k := (c.keyOf ko).1
  match s.keyPhase c k with
  | .error t => s.trapMe t
  | .ok (d, s) =>
    if c.stage = 1 then s.done
    else
      let q := s.keyReqOf k d (.tdrop all) 0
      s.askMint 1 q (.mintDrop q)

/-- TDROP (R240). -/
def execTdrop (k : KeyOp) (s : State) : Out State := .next (s.dropInstr false k)
/-- TDROP.ALL (R240). -/
def execTdropAll (k : KeyOp) (s : State) : Out State := .next (s.dropInstr true k)

/-- TQRY: a long result; on a remote array the thread waits for the reply (R244, R413). -/
def execTqry (a : R5) (ko : KeyOp) (s : State) : Out State :=
  let c := s.me
  let k := (c.keyOf ko).1
  match s.keyPhase c k with
  | .error t => .next (s.trapMe t)
  | .ok (d, s) =>
    let q := s.keyReqOf k d (.tqry a) 0
    if c.stage = 1 then .next (s.doneX a c.hold)
    else if d.remote then .next (s.askMint 1 q (.mintReference q))
    else .next ((s.finish (·.pendX a)).post (.mintReference q))

/-- TWAIT: a counted wait until the version is PRESENT or DEAD or the limit runs out (R245). -/
def execTwait (a : R5) (ko : KeyOp) (s : State) : Out State :=
  let c := s.me
  let k := (c.keyOf ko).1
  match s.keyPhase c k with
  | .error t => .next (s.trapMe t)
  | .ok (d, s) =>
    let q := s.keyReqOf k d (.twait a (deadlineFrom s.ticks (c.xr a))) 0
    let s := s.parkCounted .version
    let s := match deadlineFrom s.ticks (c.xr a) with
      | some t => s.at (cycleOfTick t + 1) (.versionWakeArrival s.cur 1)
      | none => s
    .next ((s.setMe { s.me with keyReq := some q, stage := 1 }).post (.mintReference q))

/-! ## TST and TSTV (R241, R243, R248) -/

/-- The readers field of a request for creation: 0 selects the array's default (R241). -/
def creators (q : KeyReq) : Nat := if q.rdr ≠ 0 then q.rdr else q.desc.rdr

/-- Give back a reservation that an instruction made, at its home or at the owner (R241, R416). -/
def State.giveBack (s : State) (q : KeyReq) : State :=
  if q.desc.remote then
    match s.bindingTo q.key.asid q.desc.dev, s.route q.desc.dev with
    | some b, some l => s.sendOn l q.desc.dev (.remoteKey ⟨s.devid.toNat, l, b.xport, q.key.arr, q.key.i, q.key.j, q.key.ver, 12, [], b.space, 0, 0, 0⟩)
    | _, _ => s
  else s.unreserve q.key q.home

/-- A pin goes back to the home of its key, or to the owner (R237, R416). -/
def State.givePin (s : State) (q : KeyReq) : State :=
  s.releaseRef ⟨0, q.key, q.home, if q.desc.remote then some q.desc.dev else none, 0, 0, 0, 0, false⟩

/-- What a request has taken, its thread no longer waiting for it, is given back: "No reservation or pin it made remains" (R235). -/
def State.disown (s : State) (q : KeyReq) : State :=
  match q.use with
  | .tst | .xredOut => s.giveBack q
  | .snap _ => s.dropSnap q.key q.home
  | .tld _ | .xredIn | .anon _ => s.givePin q
  | .pool => s.modEntry q.key q.home fun e => if e.st = MintSt.pending then { e with dropAll := true } else e
  | _ => s

/-- Create the reserved version; the thread stays parked until it exists (R241). -/
def State.createVersion (s : State) (stage : Nat) (q : KeyReq) (data : List Byte) : State :=
  let s := s.parkStage stage
  let s := s.setMe { s.me with keyReq := some q }
  if q.desc.remote then s.sendKey q 6 data else s.post (.mintCreate q data)

/-- The forward store of a version: reserve, make the data, create, done (R241). `data` gives the bytes of the tile, or a state that
waits for them or has trapped. -/
def State.storeVersion (s : State) (k : Key) (rdr : Nat) (d : Desc) (data : State → KeyReq → (State → List Byte → State) → State) :
    State :=
  let q := s.keyReqOf k d .tst rdr
  match s.me.stage with
  | 0 => s.askMint 1 q (.mintReserve q)
  | 1 => data s q fun s bs => s.createVersion 2 q bs
  | _ => s.done

/-- An anonymous version of the issuing thread is reserved, with its pin, for a snapshot of adjoints (R248, R285). -/
def State.reserveSnap (s : State) (stage : Nat) (sh : Shape) (d : Desc) : State :=
  match s.anonReq sh (.snap d) with
  | none => s.anonSpent
  | some (q, s) => s.askMint stage q (.mintReserve q)

/-- The snapshot is made of what an instruction has read (R248, R285). -/
def State.createSnap (s : State) (stage : Nat) (q : KeyReq) (data : List Byte) : State := s.askMint stage q (.mintCreate q data)

/-- A handle takes the snapshot. -/
def State.bindSnap (s : State) (a : R5) (sh : Shape) : State :=
  match s.me.keyReq with
  | none => s.done
  | some q =>
    let (r, s) := s.newRef q.key q.home none sh false
    (s.bindHandle s.cur a (.version r)).done

/-- TST in reverse: the snapshot's version is reserved, so that it cannot be refused; the adjoint tile is read and released in one step, and
the handle takes the version that holds it (R248). -/
def State.snapTile (s : State) (a : R5) (k : Key) (d : Desc) : State :=
  let sh : Shape := ⟨d.rows, d.cols, 0, 0⟩
  let c := s.me
  match c.stage, c.keyReq with
  | 0, _ => s.reserveSnap 1 sh d
  | 1, some q =>
    let r := s.keyReqOf k d (.adjRead q.key q.home) 0
    s.askMint 2 r (.mintReference r)
  | 2, some q => match q.use with
    | .adjRead anon home =>
      s.createSnap 3 { q with key := anon, home := home, use := .snap d,
                              desc := { q.desc with fmt := 0, blk := 0, remote := false, rdr := 0 } } c.buf
    | _ => s.done
  | _, _ => s.bindSnap a sh

/-- TST (R241, R248). -/
def execTst (a : R5) (ko : KeyOp) (s : State) : Out State :=
  let c := s.me
  let (k, rdr) := c.keyOf ko
  match s.keyPhase c k with
  | .error t => .next (s.trapMe t)
  | .ok (d, s) =>
    if c.reverseOn d then .next (s.snapTile a k d)
    else match c.target? a with
      | none => .next (s.trapMe c.emptyTrap)
      | some (b, hs) =>
        if hs ≠ descShape d then .next (s.trapMe (keyTrap trapAddrSpace 9 k))
        else .next (s.storeVersion k rdr d fun s q k => s.withForce 1 a.toNat b hs.whole (·.giveBack q) fun s vals =>
          k s (bytesOfElems hs.fmt hs.rows hs.cols hs.blk vals))

/-- The bytes of a run of vector registers. -/
def Ctx.vecBytes (c : Ctx) (a n : Nat) : List Byte :=
  (List.range n).flatMap fun i => bytesOf 64 (c.vr (BitVec.ofNat 5 (a + i))).toNat

/-- The first poisoned register of a run (R101). -/
def Ctx.runPoison (c : Ctx) (a n : Nat) : Option Trap :=
  ((List.range n).findSome? fun i => c.vPois.find? (a + i)).map fun w => c.opTrap trapMemPoison 0 |> fun t => { t with hi := 0, addr := w }

/-- The tile that TSTV makes from registers: missing elements and scale bytes are zero (R243). -/
def tstvBytes (d : Desc) (c : Ctx) (a n : Nat) : List Byte :=
  let bs := c.vecBytes a n
  let m := d.rows * d.cols * codeWidth d.fmt / 8
  let codes := (bs ++ List.replicate m 0).take m
  if d.fmt = 5 then
    let k := d.rows * d.cols / blockLen d.blk
    codes ++ ((c.vecBytes (a + n) 1) ++ List.replicate k 0).take k
  else codes

/-- TSTV (R241, R243, R248). -/
def execTstv (f : F6) (a : R5) (ko : KeyOp) (s : State) : Out State :=
  let c := s.me
  let n := f.toNat + 1
  let (k, rdr) := c.keyOf ko
  match s.keyPhase c k with
  | .error t => .next (s.trapMe t)
  | .ok (d, s) =>
    if c.reverseOn d then
      if c.stage = 0 then
        let q := s.keyReqOf k d (.adjTake (16 * n)) 0
        .next (s.askMint 1 q (.mintReference q))
      else .next (s.finish fun c => (List.range n).foldl (fun (x : Ctx) i =>
        x.setV (BitVec.ofNat 5 (a.toNat + i)) (BitVec.ofNat 512 (field c.buf (64 * i) 64))) c)
    else if d.fmt = 5 && a.toNat + n > 7 then .next (s.trapMe (keyTrap trapBadOperand 0 k))
    else if d.fmt = 5 && c.vPend.getLsbD (a.toNat + n) then .next (s.trapMe (c.opTrap trapPendingRead 0))
    else match c.runPoison a.toNat (if d.fmt = 5 then n + 1 else n) with
      | some t => .next (s.trapMe t)
      | none => .next (s.storeVersion k rdr d fun s _ k => k s (tstvBytes d c a.toNat n))

/-! ## TGET and TUNP (R246, R247) -/

/-- What a TGET asks of a handle: for each lane of the run the element it takes, and the rectangle demanded (R246). -/
structure Take where
  width : Nat
  lanes : List (Option Nat)
  rect : Option Rect
  deriving DecidableEq, Repr

/-- The row form of TGET (R246). -/
def takeRows (sh : Shape) (n row0 c0 : Nat) : Take :=
  let w := codeWidth sh.fmt
  let total := sh.rows * sh.cols
  let e0 := row0 * sh.cols + c0
  let last := min (e0 + n * (512 / w)) total - 1
  let r0 := e0 / sh.cols
  let r1 := last / sh.cols
  { width := w, lanes := (List.range (n * (512 / w))).map fun i => if e0 + i < total then some (e0 + i) else none,
    rect := if e0 ≥ total then none else some ⟨r0, r1, 0, sh.cols - 1⟩ }

/-- The `.T` form of TGET (R246). -/
def takeCols (sh : Shape) (n row0 c0 : Nat) : Take :=
  let w := codeWidth sh.fmt
  let p := 512 / w
  { width := w,
    lanes := (List.range (n * p)).map fun i =>
      let r := row0 + i % p
      let c := c0 + i / p
      if r < sh.rows ∧ c < sh.cols then some (r * sh.cols + c) else none,
    rect := clipRect row0 (row0 + p - 1) c0 (c0 + n - 1) sh.rows sh.cols }

/-- The `.SC` form of TGET: the first element of each block (R246). -/
def takeScales (sh : Shape) (b0 : Nat) : Take :=
  let len := blockLen sh.blk
  let total := sh.rows * sh.cols
  let last := min ((b0 + 64) * len) total - 1
  { width := 8, lanes := (List.range 64).map fun i => if (b0 + i) * len < total then some ((b0 + i) * len) else none,
    rect := if b0 * len ≥ total then none else some ⟨b0 * len / sh.cols, last / sh.cols, 0, sh.cols - 1⟩ }

/-- The registers of a TGET with their values (R246). -/
def takeValues (f : F6) (a : R5) (sh : Shape) (t : Take) (vals : List Nat) : List (R5 × Vec) :=
  let per := 512 / t.width
  let lane (i : Nat) : Nat := match (t.lanes.getD i none) with
    | none => 0
    | some e =>
      if f.toNat = 16 then blockScale ((vals.drop e).take (blockLen sh.blk)) else vals.getD e 0 % 2 ^ t.width
  (List.range (f.toNat % 8 + 1)).map fun q =>
    (BitVec.ofNat 5 (a.toNat + q), vecOfLanes t.width ((List.range per).map fun l => lane (q * per + l)))

/-- A TGET is complete, its registers on their way as long results (R246, R260). -/
def State.putTake (s : State) (f : F6) (a : R5) (sh : Shape) (t : Take) (vals : List Nat) : State :=
  let rs := takeValues f a sh t vals
  rs.foldl (fun s r => s.post (.longResultArrival (Reply.of s.cur [.v r.1 r.2 (BitVec.allOnes 64) none] false)))
    (s.finish fun c => rs.foldl (fun c r => c.pendV r.1) c)

/-- The contributions of a reverse TGET: the registers' lanes at the elements that the forward form reads (R248). -/
def Ctx.takeContributions (c : Ctx) (a : R5) (sh : Shape) (t : Take) : List (Nat × Nat) :=
  let per := 512 / t.width
  t.lanes.zipIdx.filterMap fun p => p.1.map fun e =>
    (e, fp32.round 0 0 (elemFV sh.fmt (c.lane t.width (BitVec.ofNat 5 (a.toNat + p.2 / per)) (p.2 % per))))

/-- The leaf through which a reverse TGET contributes (R248). -/
def Ctx.adjointLeaf (c : Ctx) (b : Base) : Option Ref :=
  match b with
  | .ref r => if c.rev && r.diff && decide (r.fmt < 5) then some r else none
  | .entry _ => none

/-- TGET (R246, R248). -/
def execTget (f : F6) (a b c d : R5) (s : State) : Out State :=
  let x := s.me
  let n := f.toNat % 8 + 1
  match x.target? b with
  | none => .next (s.trapMe x.emptyTrap)
  | some (base, sh) =>
    if (f.getLsbD 3 && sh.fmt == 5) || (f.getLsbD 4 && sh.fmt != 5) then .next (s.trapMe (x.opTrap trapIllegalOp 1))
    else
      let t := if f.getLsbD 4 then takeScales sh (x.xr c).toNat
        else if f.getLsbD 3 then takeCols sh n (x.xr c).toNat (x.xr d).toNat
        else takeRows sh n (x.xr c).toNat (x.xr d).toNat
      match x.adjointLeaf base with
      | some r =>
        match x.runPoison a.toNat n with
        | some t => .next (s.trapMe t)
        | none =>
          if x.stage = 2 then .next s.done
          else
            .next (s.contributeTile 2 { s.keyReqOf r.key (leafDesc r) .contribute 0 with home := r.home } (x.takeContributions a sh t))
      | none => match t.rect with
        | none => .next (s.putTake f a sh t [])
        | some q => .next (s.withForce 1 b.toNat base q id fun s vals => s.putTake f a sh t vals)

/-- TUNP (R247). -/
def execTunp (f : F6) (a b : R5) (s : State) : Out State :=
  .next (s.finish fun x => x.setV a (vecOfLanes 8 ((List.range 64).map fun i =>
    let code := x.lane 4 b ((if f.getLsbD 0 then 64 else 0) + i)
    if f.getLsbD 1 then intBits 8 (signedOf 4 code) else code)))

/-! ## The Mint (R239 to R241, R244, R245, R249) -/

/-- The TQRY word of a key (R244). -/
def State.queryWord (s : State) (q : KeyReq) : Word :=
  let e := s.entry q.key q.home
  let st := match e.map MintEntry.st with
    | some .pending => 1
    | some .creating => 2
    | some .present => 3
    | some .dead => 4
    | _ => if s.keyDead q.key q.home then 4 else 0
  let arena := (e.bind MintEntry.run).any Run.arena
  let waits := (e.map fun e => e.waiters.length + e.devs.length).getD 0
  let rdr := if st = 3 then (e.map MintEntry.readers).getD 0 else if st = 4 then 0 else q.desc.rdr
  BitVec.ofNat 64 (st * 2 ^ 61 + arena.toNat * 2 ^ 60 + min waits 255 * 2 ^ 48 + rdr * 2 ^ 32 +
    (e.map MintEntry.pins).getD 0 * 2 ^ 16 + q.home)

/-- A key with an entry: a FREE one is allocated PENDING (R239, R240). -/
def State.needEntry (s : State) (q : KeyReq) : Except Nat State :=
  match s.entry q.key q.home with
  | some _ => .ok s
  | none => s.allocEntry q.key q.home .pending q.rcb q.rcbAsid

/-- Take a reference: a pin, and a reader or an early read (R239). -/
def State.reference (s : State) (q : KeyReq) (consume : Bool) : Except Nat State :=
  match s.needEntry q with
  | .error n => .error n
  | .ok s => match s.pin q.key q.home with
    | .error n => .error n
    | .ok s => .ok (if consume then s.modEntry q.key q.home MintEntry.consume else s)

/-- Register a waiter of a key, unless the waiter table is full (R236). -/
def State.addWaiter (s : State) (q : KeyReq) (w : KeyWaiter) : Option State :=
  if (s.entry q.key q.home).any (fun e => e.waiters.contains w) then some s
  else if (s.slice q.home).waiting ≥ Config.waiterEntries then none
  else some (s.modEntry q.key q.home fun e => { e with waiters := e.waiters ++ [w] })

/-- Whether a deadline is over: its cycle has ended (R132). -/
def State.overdue (s : State) (deadline : Option Nat) : Bool :=
  match deadline with
  | some d => decide (cycleOfTick d < s.pcyc)
  | none => false

/-- A thread's TWAIT reaches the key's home: PRESENT, DEAD, timed out, or registered (R245). -/
def State.waitAtMint (s : State) (q : KeyReq) (deadline : Option Nat) : State :=
  if s.keyDead q.key q.home then s.mintReply q (.word 2)
  else if ((s.entry q.key q.home).map MintEntry.st) = some .present then s.mintReply q (.word 0)
  else if s.overdue deadline then s.mintReply q (.word 1)
  else match s.needEntry q with
    | .error n => s.stallReq q n (.mintReference q)
    | .ok s =>
      match s.addWaiter q (.thread q.src.tid) with
      | none => s.at (s.pcyc + 1024) (.versionWakeArrival q.src.tid 4)
      | some s => s.modCtx q.src.tid fun c => if c.keyReq = some q then { c with park := some .version } else c

/-- A TWAIT of a remote key: it waits on the shadow, against which one that comes after its deadline is evaluated (R132, R417; log 28). -/
def State.waitRemote (s : State) (q : KeyReq) (deadline : Option Nat) : State :=
  match s.entry q.key q.home with
  | some e => if e.st = MintSt.held then s.mintReply q (.word 0) else
      if s.overdue deadline then s.mintReply q (.word 1) else s.awaitKey q.src.tid q.key q.home
  | none =>
    if s.overdue deadline then s.mintReply q (.word 1) else
    match s.allocEntry q.key q.home .waiting q.rcb q.rcbAsid with
    | .error n => s.stallReq q n (.mintReference q)
    | .ok s' => match s'.withRun q.home (descBytes q.desc) fun s run => s.modEntry q.key q.home fun e => { e with run := some run } with
      | none => s.stallReq q 2 (.mintReference q)
      | some s' => match s'.askOwner q.desc.dev q.key q.home 7 with
        | none => s.trap q.src.tid (s.linkDown q.desc.dev)
        | some s => s.post (.mintReference q)

/-- Read an adjoint tile after its fold, and release it (a reverse TST) or clear its first elements (a reverse TSTV) (R248, R355).
Lanes beyond the tile's last element receive 0 (log 86). -/
def State.readAdjoint (s : State) (q : KeyReq) (take : Option Nat) : State :=
  match s.needAdj q.key q.home q.desc q.rcb q.rcbAsid with
  | .error n => s.stallReq q n (.mintReference q)
  | .ok s =>
    let s := s.foldBlocks q.home q.key
    let vs := s.adjVals q.key q.home (q.desc.rows * q.desc.cols)
    match take with
    | none => (s.dropAdj q.key q.home).mintReply q (.tile (vs.flatMap (bytesOf 4)))
    | some n =>
      let s := s.modEntry q.key q.home fun e => { e with
        adj := e.adj.map fun a => { a with vals := a.vals.zipIdx.map fun p => if p.2 < n then 0 else p.1 } }
      s.mintReply q (.tile ((vs.take n ++ List.replicate (n - vs.length) 0).flatMap (bytesOf 4)))

/-- Another device reads a version, or waits for it: its data, or the device is registered as a waiter; with a full waiter table it is to ask
again (R236, R417). -/
def State.remoteRead (s : State) (q : KeyReq) (dev ref : Nat) : State :=
  let answer (s : State) (status : Nat) (data : List Byte) : State := s.replyTo dev ref status 0 data
  if s.keyDead q.key q.home then answer s 1 []
  else match s.needEntry q with
    | .error n => s.stallReq q n (.mintReference q)
    | .ok s => match s.entry q.key q.home with
      | none => s
      | some e =>
        if e.st = .present then answer s 3 e.data
        else if e.devs.contains dev then answer s 5 []
        else if (s.slice q.home).waiting ≥ Config.waiterEntries then answer s 6 []
        else answer (s.modEntry q.key q.home fun e => { e with devs := e.devs ++ [dev] }) 5 []

/-- Whether a request of this device belongs to the Mint of another: one that stalled there is sent again (R416). -/
def mintAway (q : KeyReq) : Bool := q.desc.remote && q.peer.isNone

/-- MINT_REFERENCE: the operations that read or refer to a key (R239, R244, R245, R248, R314, R420). -/
def execMintReference (q : KeyReq) (s : State) : Out State :=
  let refer (consume : Bool) : State :=
    if s.keyDead q.key q.home then s.mintReply q .dead
    else match s.reference q consume with
      | .error n => s.stallReq q n (.mintReference q)
      | .ok s => s.mintReply q .ok
  .next (match q.use with
    | .twait _ d => match q.peer with
      | some (_, dev, ref) => s.remoteRead q dev ref
      | none => if mintAway q then s.waitRemote q d else s.waitAtMint q d
    | .leaf none => s.post (.versionWakeArrival q.src.tid 4)
    | .leaf (some (cell, op)) => s.post (.tellerOpCompletion cell op)
    | u =>
      if mintAway q then s.sendKey q (remoteOp u) []
      else match u with
        | .tqry _ => s.mintReply q (.word (s.queryWord q))
        | .adjRead _ _ => s.readAdjoint q none
        | .adjTake n => s.readAdjoint q (some n)
        | .fromv _ _ consume => refer consume
        | .pool => refer false
        | _ => refer true)

/-- MINT_DROP: a reader, or every reader, is given up; or an adjoint tile (R240, R365). -/
def execMintDrop (q : KeyReq) (s : State) : Out State :=
  let drop (f : MintEntry → MintEntry) : State :=
    if s.keyDead q.key q.home then s.mintReply q .dead
    else match s.needEntry q with
      | .error n => s.stallReq q n (.mintDrop q)
      | .ok s => ((s.modEntry q.key q.home f).reclaim q.key q.home).mintReply q .ok
  .next (if mintAway q then s.sendKey q (remoteOp q.use) [] else match q.use with
    | .adjDrop => ((s.dropBlocks q.home q.key).dropAdj q.key q.home).mintReply q .ok
    | .tdrop true => drop fun e => if e.st = MintSt.present then { e with readers := 0 } else { e with dropAll := true }
    | _ => drop MintEntry.consume)

/-- MINT_RESERVE: CREATING with storage, or the answer `WRITE_ONCE`; an anonymous version is made whole at once, with one pin, which a
snapshot's takes too (R241, R248, R264). -/
def execMintReserve (q : KeyReq) (s : State) : Out State :=
  .next (if mintAway q then s.sendKey q (remoteOp q.use) [] else match s.reserve q.key q.home (descBytes q.desc) q.rcb q.rcbAsid with
    | .error (.stall n) => s.stallReq q n (.mintReserve q)
    | .error o => s.mintReply q o
    | .ok s => match q.use with
      | .anon data =>
        let s := s.modEntry q.key q.home fun e => { e with pins := e.pins + 1 }
        (s.create q.key q.home 0 data).mintReply q .ok
      | .snap _ => (s.modEntry q.key q.home fun e => { e with pins := e.pins + 1 }).mintReply q .ok
      | _ => s.mintReply q .ok)

/-- MINT_CREATE (R241). -/
def execMintCreate (q : KeyReq) (data : List Byte) (s : State) : Out State :=
  .next ((s.create q.key q.home (creators q) data).mintReply q .ok)

/-- PIN_RELEASE (R237). -/
def execPinRelease (k : Key) (home : Nat) (s : State) : Out State := .next (s.unpin k home)

/-- QUOTA_RETRY: a released charge lowers the counts, and what waits for a quota of that RCB tries again, in order (R428). -/
def execQuotaRetry (rcb asid : Nat) (lower : Bool) (s : State) : Out State :=
  let s := if lower then s.charge rcb asid false else s
  .next (s.retryStalled fun code q => code == 1 && (s.chain rcb asid).any ((s.chain q.rcb q.rcbAsid).contains ·))

/-- The input version of an XRED whose control record the thread has read (R419). -/
def Ctx.xredInput (c : Ctx) (k : Key) : Key := { k with ver := field c.buf 16 4 % 2 ^ 24 }

/-- What an instruction holds beside the request that is refused goes back: an XRED's pin of its input, the reservation for a snapshot, a
contribution's count (R235, R248, R420). -/
def State.dropInput (s : State) (q : KeyReq) : State :=
  match q.use with
  | .xredOut => s.unpin ((s.ctx q.src.tid).xredInput q.key) q.home
  | .adjRead k home => s.dropSnap k home
  | .contribute => s.modCtx q.src.tid fun c => { c with pendc := c.pendc - 1 }
  | _ => s

/-- Whether a Mint's answer ends its instruction in a trap. -/
def mintTraps : MintOutcome → Bool
  | .dead | .writeOnce _ | .space _ | .linkDown _ _ => true
  | _ => false

/-- MINT_REPLY_ARRIVAL: a result lands, or the parked instruction goes on or traps (R239, R249); a request that stalls at its owner stays there,
and is answered again (R428). A Teller's request goes on at its
operation; a drain that made a version elsewhere sets its flags with its result, whatever the answer (R302; log 56). -/
def execMintReplyArrival (q : KeyReq) (o : MintOutcome) (s : State) : Out State :=
  let tid := q.src.tid
  let s := if mintTraps o then s.dropInput q else s
  let c := s.ctx tid
  .next (match q.use with
    | .tover cell op | .fromv cell op _ =>
      match o with
      | .ok => s.post (.tellerOpCompletion cell op)
      | .writeOnce n => s.post (.tellerFault cell op (trapWriteOnce + 256 * n) (keyPacked q.key))
      | .dead => s.post (.tellerFault cell op (trapVersionDead + 256 * 4) (keyPacked q.key))
      | .space n => s.post (.tellerFault cell op (trapAddrSpace + 256 * n) (keyPacked q.key))
      | .stall code => s.stallTeller q cell op code
      | _ => s.post (.tellerFault cell op trapLinkDown (keyPacked q.key))
    | u =>
      if c.keyReq ≠ some q then
        match u, o with
        | .tqry a, .word w => (s.modCtx tid fun c => c.landX a w).syncImage tid
        | .drained a nfs sats, o =>
          let s := s.post (.longResultArrival { Reply.of tid [.x a 0 none] false with nfs := nfs, sats := sats })
          (match o with
            | .linkDown _ _ => s.deliver (s.threadRecord tid trapLinkDown q.src.pc (keyPacked q.key))
            | _ => s)
        | _, .ok => s.disown q
        | _, _ => s
      else match o with
        | .ok => (if u = KeyUse.contribute && q.desc.remote then s.post (.contributionAckArrival tid) else s).wakeAgain tid
        | .word w => match u with
          | .twait a _ => s.wakeWith tid fun c => c.setX a w
          | _ => (s.modCtx tid fun c => { c with hold := w }).wakeAgain tid
        | .tile d => (s.modCtx tid fun c => { c with buf := d }).wakeAgain tid
        | .dead => s.wakeTrap tid (keyTrap trapVersionDead 4 q.key)
        | .writeOnce n => s.wakeTrap tid (keyTrap trapWriteOnce n q.key)
        | .space n => s.wakeTrap tid (keyTrap trapAddrSpace n q.key)
        | .stall code => s.stallThread q code
        | .linkDown dev link => s.wakeTrap tid ⟨trapLinkDown, 0, 0, BitVec.ofNat 64 (dev % 1024 + 65536 * (link % 8))⟩)

/-! ## Adjoint contributions at the home (R355) -/

/-- The till block of a core for a key. -/
def State.blockOf (s : State) (home : Nat) (k : Key) (core : Nat) : Option (SMap TillSum) :=
  ((blocksOf (s.slice home).tills k).find? fun e => e.1 == core).map Prod.snd

/-- A core's till block for a key, made where there is none: an entry of the till table, 48 bytes an element, a charge (R355). -/
def State.needBlock (s : State) (q : KeyReq) : Except Nat State :=
  match s.blockOf q.home q.key q.src.core with
  | some _ => .ok s
  | none =>
    if !s.quotaFits q.rcb q.rcbAsid then .error 1
    else
      let s := if (s.slice q.home).tills.length ≥ Config.tillEntries then s.earlyFold q.home else s
      match s.withRun q.home (48 * q.desc.rows * q.desc.cols) fun s run =>
          let s := s.charge q.rcb q.rcbAsid true
          s.setSlice q.home { s.slice q.home with tills := (s.slice q.home).tills ++ [.block q.key q.src.core [] run q.rcb] } with
      | none => .error 2
      | some s => .ok s

/-- Add values to the elements of a core's block. -/
def addToBlock (k : Key) (core : Nat) (vals : List (Nat × Nat)) (e : TillEntry) : TillEntry :=
  match e with
  | .block k' c cells run rcb =>
    if k' = k ∧ c = core then
      .block k' c (vals.foldl (fun (m : SMap TillSum) v =>
        m.set v.1 ((m.get v.1 (TillSum.empty 0)).add (fp32.decode v.2))) cells) run rcb
    else e
  | .word .. => e

/-- ADJOINT_TILE_CONTRIBUTION: into the core's till block at the key's home, acknowledged; where the block finds no room, no adjoint tile
stays either (R126, R235, R248, R355). -/
def execAdjointTileContribution (q : KeyReq) (_first : Nat) (vals : List (Nat × Nat)) (s : State) : Out State :=
  let e : Event := .adjointTileContribution q 0 vals
  .next (if mintAway q then s.sendKey q (remoteOp q.use) (contributionBytes vals)
    else match s.needAdj q.key q.home q.desc q.rcb q.rcbAsid with
      | .error n => s.stallReq q n e
      | .ok t => match t.needBlock q with
        | .error n => s.stallReq q n e
        | .ok s =>
          let s := s.setSlice q.home { s.slice q.home with tills := (s.slice q.home).tills.map (addToBlock q.key q.src.core vals) }
          let s := s.mintReply q .ok
          if q.peer.isSome then s else s.post (.contributionAckArrival q.src.tid))

end Sys2Proof.Machine
end

