-- ==== Sys2Proof/Machine/Matrix.lean ====
section
/-! DEFINITION. The majors 0xC0 to 0xC5 (R287 to R305): rings, format contexts, k-steps, the epilogue program and drains. -/

namespace Sys2Proof.Machine

/-! ## The core's matrix state (R287, R288) -/

/-- The matrix state of a core. -/
def State.matrix (s : State) (core : Nat) : Matrix := (s.core core).matrix

/-- Let the queues of a cell's cores be looked at (R288, R289). -/
def State.kickCell (s : State) (cell : Nat) : State :=
  (List.range 8).foldl (fun s k => s.kickMatrix (8 * cell + k)) s

/-- The command at the head has retired (R288, R303). -/
def State.retire (s : State) (core : Nat) (f : Matrix → Matrix) : State :=
  let m := f (s.matrix core)
  (s.setMatrix core { m with queue := m.queue.drop 1, retired := (m.retired + 1) % 65536 }).kickCell (cellOf core)

/-- A matrix command of a context of another space than the scratchpad's (R287); the spec names no `FLTADDR` for it (log 3). -/
def State.matrixSpace (s : State) (k : State → State) : State :=
  if (s.core s.me.core).padAsid = some s.me.asid then k s
  else
    let (w, s) := s.draw
    s.trapMe ⟨trapAddrSpace, 5, 0, w⟩

/-- A result of a matrix command goes to its thread as a long result (R288). -/
def State.matrixResult (s : State) (src : Src) (a : R5) (w : Word) : State :=
  s.post (.longResultArrival (Reply.of src.tid [.x a w none] false))

/-- Queue a command once the queue has room (R288). -/
def State.queueMatrix (s : State) (c : MatCmd) (f : Ctx → Ctx) : State :=
  let core := s.me.core
  if s.matrixHasRoom core then (s.finish f).enqueueMatrix core c else s.parkMe .matrixRoom

/-! ## Rings (R290, R291, R298) -/

/-- The ring that a descriptor describes, where its zero fields are zero (R290). -/
def ringOf (w : Nat) : Option Ring :=
  let n := bitsOf w 45 40 + 1
  let z := bitsOf w 38 32
  let b := bitsOf w 16 0
  if bitsOf w 63 46 = 0 ∧ bitOf w 39 = false ∧ bitsOf w 31 17 = 0 ∧ b % 256 = 0 ∧ z ≠ 0 then some ⟨n, z * 256, b, 0, 0, 0⟩ else none

/-- Bytes of a ring's slots. -/
def Ring.bytes (r : Ring) : Nat := r.cnt * r.size

/-- Whether a range of a core's pool lies in its scratchpad (R92). -/
def State.inPad (s : State) (core off n : Nat) : Bool :=
  match (s.core core).split with
  | some (reg, pad) => decide (reg ≤ off ∧ off + n ≤ pad)
  | none => false

/-- Whether a queued command names a ring (R298). -/
def MatCmd.names (c : MatCmd) (k : Nat) : Bool :=
  match c with
  | .mma _ ra rb _ _ _ _ => ra == k || rb == k
  | .drain _ _ _ (.ring r) _ _ _ => r == k
  | _ => false

/-- Whether a ring is named by a queued command. -/
def Matrix.busy (m : Matrix) (k : Nat) : Bool := m.queue.any fun c => c.names k

/-- The status of MRING.SET (R298). -/
def State.ringStatus (s : State) (core k w : Nat) : Nat :=
  let m := s.matrix core
  let held := m.busy k || ((m.rings.find? k).any fun r => r.occ != 0)
  if w = 0 then (if held then 4 else 0)
  else match ringOf w with
    | none => 1
    | some r =>
      if !s.inPad core r.base r.bytes then 2
      else if m.rings.any (fun e => e.1 != k && decide (e.2.base < r.base + r.bytes && r.base < e.2.base + e.2.bytes)) then 3
      else if held then 4 else 0

/-- Answer an MRING or MSTAT at once with a long result (R288, R303). -/
def State.answer (s : State) (a : R5) (w : Word) : State := s.doneLong a w

/-- MRING, SET form (R290, R298). -/
def execMringSet (r : BitVec 2) (a b : R5) (s : State) : Out State :=
  .next (s.matrixSpace fun s =>
    let core := s.me.core
    let w := (s.me.xr b).toNat
    match s.ringStatus core r.toNat w with
    | 0 =>
      let m := s.matrix core
      let s := s.setMatrix core { m with rings := match ringOf w with
        | some g => m.rings.set r.toNat g
        | none => m.rings.erase r.toNat }
      s.answer a 0
    | n => s.answer a (BitVec.ofNat 64 n))

/-- The slot of a ring that the drain in progress writes: it is no longer free, though the tail does not count it yet (R291, R302;
log 76). -/
def Matrix.claimed (m : Matrix) (k : Nat) : Nat :=
  match m.queue with
  | .drain _ _ _ (.ring r) _ _ _ :: _ => if r = k ∧ m.row ≠ 0 then 1 else 0
  | _ => 0

/-- Advance a ring's tail by filled slots (R291). -/
def Ring.push (r : Ring) (n : Nat) : Ring := { r with tail := (r.tail + n) % r.cnt, occ := r.occ + n }

/-- MRING.PUSH: it waits for the context's earlier stores to this pool (R291, R298). -/
def execMringPush (r : BitVec 2) (a b : R5) (s : State) : Out State :=
  .next (s.matrixSpace fun s =>
    let core := s.me.core
    let n := (s.me.xr b).toNat
    let m := s.matrix core
    if s.storesTo s.cur (poolBase core) Config.poolBytes then s.parkMe .poolStores
    else match m.rings.find? r.toNat with
    | none => s.answer a 5
    | some g =>
      if g.occ + m.claimed r.toNat + n > g.cnt then s.answer a 5
      else ((s.setMatrix core { m with rings := m.rings.set r.toNat (g.push n) }).answer a 0).kickCell (cellOf core))

/-- MRING.RST (R298). -/
def execMringRst (r : BitVec 2) (a : R5) (s : State) : Out State :=
  .next (s.matrixSpace fun s =>
    let core := s.me.core
    let m := s.matrix core
    if m.busy r.toNat then s.answer a 4
    else
      let s := s.setMatrix core { m with rings := match m.rings.find? r.toNat with
        | some g => m.rings.set r.toNat { g with head := 0, tail := 0, occ := 0 }
        | none => m.rings }
      s.answer a 0)

/-! ## Format contexts (R293, R299) -/

/-- Whether a format context is valid (R293). -/
def fctxOk (w : Nat) : Bool :=
  let a := bitsOf w 3 0
  let b := bitsOf w 7 4
  let k := bitsOf w 9 8
  let fp8 (x : Nat) : Bool := x == 3 || x == 4
  bitsOf w 63 15 == 0 && ((fp8 a && fp8 b) || (a == b && (a == 1 || a == 2 || a == 5 || a == 6))) &&
    (if a = 5 then k != 3 else k == 0) && (bitsOf w 11 10 == 0 || (a != 5 && a != 6))

/-- MFMT (R299). -/
def execMfmt (a : R5) (o : Op2) (s : State) : Out State :=
  .next (s.matrixSpace fun s =>
    let w := (s.me.op2U o).toNat
    let core := s.me.core
    if !fctxOk w then s.trapMe (s.me.opTrap trapIllegalOp 7)
    else if !s.matrixHasRoom core then s.parkMe .matrixRoom
    else
      let s := s.setMatrix core { s.matrix core with issued := w }
      s.queueMatrix (.mfmt s.src a w) (·.pendX a))

/-- MFMT.Q (R299). -/
def execMfmtQ (a : R5) (s : State) : Out State :=
  .next (s.matrixSpace fun s => s.queueMatrix (.mfmtQ s.src a) (·.pendX a))

/-! ## MEPI (R296, R300) -/

/-- MEPI: the address must name the own core's scratchpad (R300). -/
def execMepi (a b c : R5) (s : State) : Out State :=
  .next (s.matrixSpace fun s =>
    let x := s.me
    match resolve x.core (x.xr b) 0 0 with
    | .ok (.pool p) =>
      if p.pkgCore ≠ x.core ∨ !s.inPad x.core p.off 1 then s.stopMe (spaceTrap 4 (x.xr b) 0)
      else if p.off % 4 ≠ 0 then s.trapMe ⟨trapAddrAlign, 4, 0, x.xr b⟩
      else s.queueMatrix (.mepi s.src a p.off (x.xr c).toNat) (·.pendX a)
    | _ => s.stopMe (spaceTrap 4 (x.xr b) 0))

/-- MEPI.RST (R300). -/
def execMepiRst (a : R5) (s : State) : Out State :=
  .next (s.matrixSpace fun s => s.queueMatrix (.mepiRst s.src a) (·.pendX a))

/-- What keeps a word out of the program store: cause 2 or 4 (R300). -/
def State.epFault (s : State) (core w : Nat) : Option Nat :=
  if !epWordOk w then some 2
  else if epOp w = 0x0E ∧ !s.inPad core (epVector w) 256 then some 4 else none

/-- The status of an MEPI over the words it loads, in order (R300). -/
def State.epStatus (s : State) (core off cnt : Nat) (ws : List Nat) : Nat :=
  if cnt = 0 ∨ 64 < cnt ∨ !s.inPad core off (4 * cnt) then 1
  else match ws.zipIdx.findSome? (fun p => (s.epFault core p.1).map fun k => k + 256 * p.2) with
    | some n => n
    | none => if ws.any (fun w => epOp w == 0) then 0 else 3

/-! ## MMA (R289, R292, R294, R301) -/

/-- Bytes that an operand needs (R292). -/
def operandBytes (fmt blk : Nat) (scaled : Bool) : Nat :=
  4096 * codeWidth fmt / 8 + (if fmt = 5 then 4096 / blockLen blk else 0) + scaled.toNat

/-- The weight of a thread's commands: 1 more than the priority of its RCB (R289). -/
def State.matrixWeight (s : State) (tid : Nat) : Nat := 1 + s.rcbWord (s.ctx tid).rcb.toNat (s.ctx tid).asid 3 % 8

/-- MMA (R301). -/
def execMma (f : F6) (ra rb : BitVec 2) (s : State) : Out State :=
  .next (s.matrixSpace fun s =>
    let m := s.matrix s.me.core
    let w := m.issued
    match m.rings.find? ra.toNat, m.rings.find? rb.toNat with
    | some a, some b =>
      if a.size < operandBytes (bitsOf w 3 0) (bitsOf w 9 8) (bitOf w 10) ∨
          b.size < operandBytes (bitsOf w 7 4) (bitsOf w 9 8) (bitOf w 11) then s.trapMe (s.me.opTrap trapIllegalOp 6)
      else s.queueMatrix (.mma s.src ra.toNat rb.toNat (f.getLsbD 0) (f.getLsbD 1) (f.getLsbD 2) (s.matrixWeight s.cur)) id
    | _, _ => s.trapMe (s.me.opTrap trapIllegalOp 5))

/-- Whether the command at the head of a queue is a candidate: an MMA whose rings both hold a filled slot, or a k-step of a force, whose
rings do (R289, R304). -/
def Matrix.candidate (m : Matrix) : Bool :=
  match m.queue with
  | .mma _ ra rb _ _ _ _ :: _ => ((m.rings.find? ra).any fun r => r.occ != 0) && ((m.rings.find? rb).any fun r => r.occ != 0)
  | .force .. :: _ => true
  | _ => false

/-- The thread of a queued command. -/
def MatCmd.tid : MatCmd → Nat
  | .mfmt s _ _ | .mfmtQ s _ | .mepi s _ _ _ | .mepiRst s _ | .mma s _ _ _ _ _ _ | .drain s _ _ _ _ _ _ | .force s _ => s.tid

/-- The weight of a queued command (R289). -/
def State.commandWeight (s : State) (c : MatCmd) : Nat :=
  match c with
  | .mma _ _ _ _ _ _ w => w
  | c => s.matrixWeight c.tid

/-- A reload: a core's credit becomes the weight of its head command (R289). -/
def State.reload (s : State) (core : Nat) : State :=
  match (s.matrix core).queue with
  | [] => s
  | c :: _ => s.setMatrix core { s.matrix core with credit := s.commandWeight c }

/-- The cores of a cell in order after the core granted last (R289). -/
def State.grantOrder (s : State) (cell : Nat) : List Nat :=
  (List.range 8).map fun k => 8 * cell + ((s.cell cell).granted + 1 + k) % 8

/-- KSTEP_GRANT: the arbiter grants one k-step (R289). -/
def execKstepGrant (cell : Nat) (s : State) : Out State :=
  let order := s.grantOrder cell
  if order.any (fun q => (s.matrix q).granted) then .next s
  else
    let cands := order.filter fun q => (s.matrix q).candidate
    match cands with
    | [] => .next s
    | _ =>
      let s := if cands.any (fun q => (s.matrix q).credit != 0) then s
        else order.foldl State.reload s
      match cands.find? (fun q => (s.matrix q).credit != 0) with
      | none => .next s
      | some q =>
        let m := s.matrix q
        let s := s.setMatrix q { m with credit := m.credit - 1, granted := true }
        .next ((s.setCell cell { s.cell cell with granted := q % 8 }).post (.kstepRetire q))

/-- An operand in a slot: its elements along K, and its per-tile exponent (R292). -/
def State.operand (s : State) (core : Nat) (r : Ring) (fmt blk : Nat) (scaled : Bool) : List Nat × Int :=
  let at_ := poolBase core + r.base + r.head * r.size
  let n := operandBytes fmt blk false
  (elemsOf fmt 64 64 blk (s.readBytes at_ n), if scaled then signedOf 8 (s.read (at_ + n) 1) else 0)

/-- A row of 64 elements. -/
def row64 (l : List Nat) (r : Nat) : List Nat := (l.drop (64 * r)).take 64

/-- The accumulator after a k-step (R294). -/
def kstep (fctx : Nat) (a b : List Nat × Int) (acc : List Nat) : List Nat :=
  let bs := (List.range 64).map (row64 b.1)
  (List.range 64).flatMap fun m =>
    let as := row64 a.1 m
    bs.zipIdx.map fun p => kstepElem (bitsOf fctx 3 0) (bitsOf fctx 7 4) a.2 b.2 as p.1 (acc.getD (64 * m + p.2) 0)

/-- Pop a ring when an MMA retires (R291). -/
def Ring.pop (r : Ring) (yes : Bool) : Ring := if yes then { r with head := (r.head + 1) % r.cnt, occ := r.occ - 1 } else r

/-- The product of a force: it discards what was not drained and leaves the accumulator zero (R304). -/
def State.forceProduct (s : State) (core : Nat) (src : Src) (i : Nat) : State :=
  let m := s.matrix core
  let c := s.ctx src.tid
  let m := { m with lost := m.lost || m.undrained, undrained := false, acc := [], int := ((c.thunks.find? i).map Node.fmt) == some 8,
                    queue := m.queue.drop 1, granted := false }
  let s := (s.setMatrix core m).kickCell (cellOf core)
  match c.force with
  | none => s
  | some f => if f.todo.contains i then (s.setCtx src.tid (c.computeEntry f i)).post (.forceNodeStep src.tid) else s

/-- KSTEP_RETIRE: of an MMA, or of a force (R294, R301, R304). -/
def execKstepRetire (core : Nat) (s : State) : Out State :=
  let m := s.matrix core
  match m.queue with
  | .force src i :: _ => .next (s.forceProduct core src i)
  | .mma _ ra rb zero popA popB _ :: _ =>
    match m.rings.find? ra, m.rings.find? rb with
    | some a, some b =>
      let w := m.fctx
      let int := bitsOf w 3 0 == 6
      let acc := kstep w (s.operand core a (bitsOf w 3 0) (bitsOf w 9 8) (bitOf w 10))
        (s.operand core b (bitsOf w 7 4) (bitsOf w 9 8) (bitOf w 11)) (if zero || m.int != int then [] else m.acc)
      .next (s.retire core fun m => { m with
        acc := acc, int := int, undrained := true, granted := false,
        rings := (m.rings.set ra (a.pop popA)).set rb (b.pop popB) })
    | _, _ => .next s
  | _ => .next s

/-! ## Commands at the head (R288, R299, R300) -/

/-- MATRIX_COMMAND_AT_HEAD: MFMT, MFMT.Q, MEPI and MEPI.RST (R299, R300). -/
def execMatrixCommandAtHead (core : Nat) (s : State) : Out State :=
  let m := s.matrix core
  .next (match m.queue with
    | .mfmt src a w :: _ => (s.retire core fun m => { m with fctx := w }).matrixResult src a (BitVec.ofNat 64 m.fctx)
    | .mfmtQ src a :: _ => (s.retire core id).matrixResult src a (BitVec.ofNat 64 m.fctx)
    | .mepi src a off cnt :: _ =>
      let ws := (List.range (min cnt 64)).map fun i => s.read (poolBase core + off + 4 * i) 4
      let st := s.epStatus core off cnt ws
      (s.retire core fun m => if st = 0 then { m with prog := ws } else m).matrixResult src a (BitVec.ofNat 64 st)
    | .mepiRst src a :: _ => (s.retire core fun m => { m with prog := [0] }).matrixResult src a 0
    | _ => s)

/-! ## MDRAIN (R295, R296, R302) -/

/-- The rounding mode of drains under a format context (R293, R295). -/
def drainMode (fctx : Nat) : Nat := if bitOf fctx 14 then 4 else bitsOf fctx 13 12

/-- CVT words of a program (R296). -/
def cvtCount (prog : List Nat) : Nat := ((epBody prog).filter fun w => epOp w == 0x0C).length

/-- Queue a drain: its draws are stepped over at issue, as many as the program then in the store asks for (R288, R296; log 56). -/
def State.queueDrain (s : State) (a : R5) (fmt : Nat) (dst : DrainTo) : State :=
  let c := s.me
  let m := s.matrix c.core
  s.queueMatrix (.drain s.src a fmt dst c.srkey c.drawLtn c.srctr) fun c =>
    (c.stepSr (drainMode m.issued) (4096 * (cvtCount m.prog + 1))).pendX a

/-- The places of a drain's rows (R302): the address phase over every element; no element may be differentiable. -/
def State.placeDrain (s : State) (fmt : Nat) (pool : Bool) (base pitch : Word) : Except Stop (List Place) :=
  let c := s.me
  let w := codeWidth fmt / 8
  let p := if pitch = 0 then 64 * w else pitch.toNat
  let need : Need := { n := w, w := true, store := true, noPool := if pool then none else some 6 }
  match resolve c.core base 0 0 with
  | .error e => .error e
  | .ok (.word _) => if pool then .error (spaceTrap 1 base 0) else go c w p need
  | .ok (.pool _) => go c w p need
where
  /-- Every element's place. -/
  go (c : Ctx) (w p : Nat) (need : Need) : Except Stop (List Place) :=
    placeAll (fun e => match s.place c need 0 base (((e / 64 * p + e % 64 * w : Nat) : Int)) with
      | .error x => .error x
      | .ok q => match q.region with
        | some (slot, _) => .error (.trap (shapeTrap slot 0 q.lane.va))
        | none => .ok q) (List.range 4096)

/-- MDRAIN to rows of a pool or of word memory (R302). -/
def State.drainRows (s : State) (a : R5) (fmt : Nat) (pool : Bool) (b c : R5) : State :=
  match s.placeDrain fmt pool (s.me.xr b) (s.me.xr c) with
  | .error e => s.stopMe e
  | .ok ps =>
    let t := s.queueDrain a fmt (.rows (ps.map Place.lane))
    if t.me.park = some .matrixRoom then t else t.settleAll s.me.core s.me.asid true ps

/-- MDRAIN to a ring of the issuing core (R302). -/
def State.drainRing (s : State) (a : R5) (fmt : Nat) (b : R5) : State :=
  let x := s.me
  let k := (x.xr b).toNat % 4
  match (s.matrix x.core).rings.find? k with
  | none => s.trapMe (x.opTrap trapIllegalOp 5)
  | some r =>
    if r.size < 4096 * codeWidth fmt / 8 then s.trapMe (x.opTrap trapIllegalOp 6)
    else
      let p : PoolAddr := ⟨cellY (cellOf x.core), cellX (cellOf x.core), x.core % 8, r.base⟩
      match regionOf (s.regionsFor x.core x.asid) p.absolute.toNat r.bytes with
      | some (slot, _) => s.trapMe (shapeTrap slot 0 p.absolute.toNat)
      | none => s.queueDrain a fmt (.ring k)

/-- MDRAIN to a version: the key phase, the reservation, then the queue (R241, R302). -/
def State.drainTile (s : State) (a : R5) (fmt : Nat) (ko : KeyOp) : State :=
  let c := s.me
  let (k, rdr) := c.keyOf ko
  match s.keyPhase c k with
  | .error t => s.trapMe t
  | .ok (d, s) =>
    if d.rows ≠ 64 ∨ d.cols ≠ 64 ∨ d.fmt ≠ fmt then s.trapMe (keyTrap trapAddrSpace 9 k)
    else
      let q := { s.keyReqOf k d .tst rdr with since := (c.keyReq.map KeyReq.since).getD s.ticks }
      if c.stage = 0 then s.askMint 1 q (.mintReserve q) else s.queueDrain a fmt (.tile q)

/-- MDRAIN (R302). -/
def execMdrain (f : F6) (a : R5) (dst : DrainDst) (s : State) : Out State :=
  let fmt := f.toNat % 16
  .next (s.matrixSpace fun s => match dst with
    | .pool b c => s.drainRows a fmt true b c
    | .mem b c => s.drainRows a fmt false b c
    | .ring b => s.drainRing a fmt b
    | .tile k => s.drainTile a fmt k)

/-- One output row of a drain (R295): an I32 row passes unchanged under a lone END with an I32 output. -/
def Matrix.drainRow (m : Matrix) (dr : Draw) (fmt : Nat) (vec : Nat → Nat → Nat) : List Elem × List (Nat × List Nat) :=
  let row := (List.range 64).map fun c => m.acc.getD (64 * m.row + c) 0
  if m.int && fmt == 8 && (epBody m.prog).isEmpty then (row.map fun v => { bits := v }, [])
  else
    let e0 := if m.int then row.map fun v => fp32.round 0 0 (FV.ofInt (signedOf 32 v)) else row
    let x := epRun dr vec m.prog m.row e0
    ((epReg x.regs 0).zipIdx.map fun p => epOut dr fmt (4096 * x.cvts + 64 * m.row + p.2) p.1, x.stats)

/-- Whether a drain may begin: a ring must have a free slot (R302). -/
def Matrix.mayDrain (m : Matrix) (dst : DrainTo) : Bool :=
  match dst with
  | .ring k => (m.rings.find? k).any fun r => decide (r.occ < r.cnt)
  | _ => true

/-- EPILOGUE_ROW: one row of the drain at the head (R295, R296). -/
def execEpilogueRow (core : Nat) (s : State) : Out State :=
  let m := s.matrix core
  match m.queue with
  | .drain src _ fmt dst key ltn ctr :: _ =>
    if m.row ≥ 64 then .next s
    else if m.row = 0 && !m.mayDrain dst then .next s
    else
      let dr : Draw := ⟨drainMode m.fctx, key, ltn, ctr⟩
      let vec (off i : Nat) : Nat := s.read (poolBase core + off + 4 * i) 4
      let (es, stats) := m.drainRow dr fmt vec
      let s := stats.foldl (fun (s : State) e => s.applyStat (cellOf core) src.asid e.1 (e.2.map fp32.decode)) s
      let m := { m with row := m.row + 1, out := m.out ++ es.map Elem.bits, nf := m.nf || es.any Elem.nf, sat := m.sat || es.any Elem.sat }
      .next ((s.setMatrix core m).post (if m.row = 64 then .mdrainCompletion core else .epilogueRow core))
  | _ => .next s

/-- Whether a held access is a write of a source. -/
def heldWriteOf (src : Src) (h : Held) : Bool :=
  match h with
  | .wt q _ => q.src == src
  | _ => false

/-- Whether a message carries a write of a source. -/
def eventWriteOf (src : Src) (e : Event) : Bool :=
  match e with
  | .writeThroughAtHome q _ => q.src == src
  | .poolBankAccess q (.store _ _) | .lockedStoreRelease q (.store _ _) => q.src == src
  | .bridgeDeviceAccess q (.store _ _) => q.src == src
  | _ => false

/-- Whether a write of a source is not performed yet, wherever it waits (R139, R302). -/
def State.writesInFlight (s : State) (src : Src) : Bool :=
  s.pending.any (eventWriteOf src) || s.timers.any (fun e => eventWriteOf src e.2) || s.due.any (eventWriteOf src) ||
    s.bridgeWait.any (fun e => e.1.src == src && bankStores e.2) ||
    s.remotes.any (fun e => match e.2 with
      | .store q _ => q == src
      | _ => false) ||
    s.dies.any (fun d => d.2.pages.any fun p => p.2.queue.any (heldWriteOf src))
where
  /-- Whether a bank operation is a store. -/
  bankStores : BankOp → Bool
    | .store _ _ => true
    | _ => false

/-- The elements of a drain with their places: the rows given at issue, or the tail slot of a ring, row-major (R302). -/
def Matrix.drainLanes (m : Matrix) (core fmt : Nat) (dst : DrainTo) : List Lane :=
  match dst with
  | .rows ls => ls
  | .ring k => match m.rings.find? k with
    | none => []
    | some r =>
      let w := codeWidth fmt / 8
      (List.range 4096).map fun e =>
        let off := r.base + r.tail * r.size + e * w
        ⟨poolBase core + off, (PoolAddr.mk (cellY (cellOf core)) (cellX (cellOf core)) (core % 8) off).absolute.toNat, w, e, 0, 0, 0, 0, false⟩
  | .tile _ => []

/-- A drain is complete: flags and result to its thread, the next command (R302). -/
def State.endDrain (s : State) (core : Nat) (src : Src) (a : R5) : State :=
  let m := s.matrix core
  let r := Reply.of src.tid [.x a 0 none] false
  (s.retire core fun m => { m with row := 0, out := [], nf := false, sat := false, undrained := false }).post
    (.longResultArrival { r with nfs := m.nf, sats := m.sat })

/-- MDRAIN_COMPLETION: the rows or the slot are written, each element at its place, where a bank makes its checks (R93, R94, R266), and a
ring's tail goes on; or the version is made; then x[A] := 0 (R241, R291, R302). A version of another device's array is created there, and
its reply is the result. -/
def execMdrainCompletion (core : Nat) (s : State) : Out State :=
  let m := s.matrix core
  match m.queue with
  | .drain src a fmt dst _ _ _ :: _ =>
    let bytes := bytesOfElems fmt 64 64 0 m.out
    match dst with
    | .tile q =>
      if q.desc.remote then
        let s := s.sendKey { q with use := .drained a m.nf m.sat } 6 bytes
        .next (s.retire core fun m => { m with row := 0, out := [], nf := false, sat := false, undrained := false })
      else .next ((s.create q.key q.home (creators q) bytes).endDrain core src a)
    | dst =>
      if m.row = 64 then
        let s := s.writeThrough src ((m.drainLanes core fmt dst).zip m.out)
        .next ((s.setMatrix core { s.matrix core with row := 65 }).post (.mdrainCompletion core))
      else if s.writesInFlight src then .next (s.at (s.pcyc + 1) (.mdrainCompletion core))
      else match dst with
        | .ring k => .next ((s.setMatrix core { m with rings := (match m.rings.find? k with
            | some r => m.rings.set k (r.push 1)
            | none => m.rings) }).endDrain core src a)
        | _ => .next (s.endDrain core src a)
  | _ => .next s

/-! ## MSTAT (R303) -/

/-- The core word of MSTAT (R303). -/
def Matrix.status (m : Matrix) : Word :=
  BitVec.ofNat 64 (m.lost.toNat * 2 ^ 63 + m.retired * 2 ^ 32 + m.fctx * 2 ^ 16 + m.queue.length * 2 ^ 8 + epLength m.prog)

/-- MSTAT (R303). -/
def execMstat (a : R5) (s : State) : Out State :=
  .next (s.matrixSpace fun s => s.answer a (s.matrix s.me.core).status)

/-- MSTAT.R (R303). -/
def execMstatR (a b : R5) (s : State) : Out State :=
  .next (s.matrixSpace fun s => s.answer a (match (s.matrix s.me.core).rings.find? ((s.me.xr b).toNat % 4) with
    | none => 0
    | some r => BitVec.ofNat 64 (2 ^ 63 + r.occ * 2 ^ 48 + r.head * 2 ^ 40 + r.tail * 2 ^ 32)))

/-- MSTAT.C (R303). -/
def execMstatC (a : R5) (s : State) : Out State :=
  .next (s.matrixSpace fun s =>
    let m := s.matrix s.me.core
    (s.setMatrix s.me.core { m with lost := false }).answer a m.status)

end Sys2Proof.Machine
end

