-- ==== Sys2Proof/Machine/Rcb.lean ====
section
/-! DEFINITION. Region Control Blocks: their fields, budgets and rectangles (R323 to R325), RCBOP (R347, R348) and JOIN (R349). -/

namespace Sys2Proof.Machine

/-! ## Fields (R323) -/

/-- Words of an RCB: byte offset divided by 8. -/
def rcbParent : Nat := 0
def rcbOvr : Nat := 1
def rcbEntry : Nat := 2
def rcbPri : Nat := 3
def rcbBud : Nat := 4
def rcbLim : Nat := 5
def rcbSeed : Nat := 6
def rcbFrec : Nat := 7
def rcbFhnd : Nat := 8
def rcbSpBase : Nat := 9
def rcbSpN : Nat := 10
def rcbSpHead : Nat := 11
def rcbSpTail : Nat := 12
def rcbArena : Nat := 13
def rcbArn : Nat := 14
def rcbTape : Nat := 15
def rcbTapeN : Nat := 16
def rcbCells : Nat := 17
def rcbLive : Nat := 18
def rcbUse : Nat := 19
def rcbNltn : Nat := 20
def rcbState : Nat := 21

/-- The state of an RCB: 0 INVALID, 1 ACTIVE, 2 HELD, 3 RETIRED. -/
def stateOfWord (w : Nat) : Nat := w % 8

/-- A placement rectangle: y0, x0, height, width (R323). -/
def rectOf (w : Nat) : Nat × Nat × Nat × Nat := (bitsOf w 4 0, bitsOf w 9 5, bitsOf w 14 10 + 1, bitsOf w 19 15 + 1)

/-- Whether a cell lies in a rectangle. -/
def inRect (r : Nat × Nat × Nat × Nat) (cell : Nat) : Bool :=
  decide (r.1 ≤ cellY cell ∧ cellY cell < r.1 + r.2.2.1 ∧ r.2.1 ≤ cellX cell ∧ cellX cell < r.2.1 + r.2.2.2)

/-- The RCB that owns a ring or an arena that another inherits: the nearest with the group's override bit (R324). -/
def State.groupOwner (s : State) (rcb asid bit : Nat) : Nat :=
  ((s.chain rcb asid).find? fun r => bitOf (s.rcbWord r asid rcbOvr) bit).getD rcb

/-- Raise or lower a count at one level (R323). -/
def bumpWord (asid idx : Nat) (up : Bool) (s : State) (r : Nat) : State :=
  let w := s.rcbWord r asid idx
  s.setRcbWord r asid idx (if up then w + 1 else w - 1)

/-- `RCBLIVE` + 1 at every level, from the root down (R342). -/
def State.raiseLive (s : State) (rcb asid : Nat) : State :=
  (s.chain rcb asid).reverse.foldl (bumpWord asid rcbLive true) s

/-- `RCBLIVE` − 1 at every level, the thread's own RCB first (R346). -/
def State.lowerLive (s : State) (rcb asid : Nat) : State := (s.chain rcb asid).foldl (bumpWord asid rcbLive false) s

/-- A resident context more or less at every level (R325). -/
def State.countContext (s : State) (rcb asid : Nat) (up : Bool) : State :=
  (s.chain rcb asid).foldl (fun (s : State) r =>
    let w := s.rcbWord r asid rcbUse
    let n := w % 2 ^ 32
    s.setRcbWord r asid rcbUse (w / 2 ^ 32 * 2 ^ 32 + (if up then (n + 1) % 2 ^ 32 else n - 1))) s

/-- Whether an RCB belongs to the subtree of another (R388). -/
def State.inSubtree (s : State) (asid top rcb asid' : Nat) : Bool := asid == asid' && (s.chain rcb asid').contains top

/-- Whether a thread's RCB lies in a halted subtree: the last halt or release of a subtree that holds it says so (R388, R405). -/
def State.isHalted (s : State) (rcb asid : Nat) : Bool :=
  match s.halts.reverse.find? fun h => s.inSubtree h.1 h.2.1 rcb asid with
  | some h => h.2.2
  | none => false

/-! ## Values (R323, R325, R348) -/

/-- A value of the words 3, 4 and 5 keeps R323. -/
def budgetOk (idx v : Nat) : Bool :=
  match idx with
  | 3 => bitsOf v 63 41 == 0 && bitsOf v 7 3 == 0
  | 4 => bitsOf v 31 24 == 0 && decide (1 ≤ bitsOf v 23 16 ∧ bitsOf v 23 16 ≤ 64 ∧ 1 ≤ v % 2 ^ 16)
  | _ => decide (1 ≤ bitsOf v 63 32) && bitsOf v 31 17 == 0 && decide (256 ≤ v % 2 ^ 17 ∧ v % 2 ^ 17 ≤ 65536)

/-- A value of the words 3, 4 and 5 stays within the parent's (R325; log 20). -/
def withinParent (idx v p : Nat) : Bool :=
  match idx with
  | 3 => decide (v % 8 ≤ p % 8 ∧ bitsOf v 15 8 ≤ bitsOf p 15 8)
  | 4 => decide (bitsOf v 63 32 ≤ bitsOf p 63 32 ∧ bitsOf v 23 16 ≤ bitsOf p 23 16 ∧ v % 2 ^ 16 ≤ p % 2 ^ 16)
  | _ => decide (bitsOf v 63 32 ≤ bitsOf p 63 32 ∧ v % 2 ^ 17 ≤ p % 2 ^ 17)

/-- A child's rectangle lies inside its parent's (R325). -/
def rectInside (a b : Nat × Nat × Nat × Nat) : Bool :=
  decide (b.1 ≤ a.1 ∧ a.1 + a.2.2.1 ≤ b.1 + b.2.2.1 ∧ b.2.1 ≤ a.2.1 ∧ a.2.1 + a.2.2.2 ≤ b.2.1 + b.2.2.2)

/-- A translated virtual address (R89). -/
def virtualOk (a align : Nat) : Bool := bitsOf a 63 53 == 0 && a % align == 0

/-- Groups of `RCBOVR` with the words they fill; a word shared by groups has a mask of its bits for each (R324). -/
def rcbGroups : List (Nat × Nat × Nat) :=
  [(0, rcbEntry, 2 ^ 64 - 1), (1, rcbPri, 7), (2, rcbPri, 0xFF00), (3, rcbPri, 0xFFFF0000), (4, rcbBud, 0xFFFF),
   (5, rcbBud, 0xFF0000), (6, rcbBud, 0xFFFFFFFF * 2 ^ 32), (7, rcbLim, 0x1FFFF), (8, rcbLim, 0xFFFFFFFF * 2 ^ 32),
   (9, rcbSeed, 2 ^ 64 - 1), (10, rcbFrec, 2 ^ 64 - 1), (10, rcbFhnd, 2 ^ 64 - 1), (11, rcbSpBase, 2 ^ 64 - 1),
   (11, rcbSpN, 2 ^ 64 - 1), (12, rcbArena, 2 ^ 64 - 1), (12, rcbArn, 2 ^ 64 - 1), (13, rcbTape, 2 ^ 64 - 1),
   (13, rcbTapeN, 2 ^ 64 - 1), (14, rcbCells, 2 ^ 64 - 1)]

/-- The words of a new RCB with the groups it does not set taken from its parent (R324). -/
def inherit (w p : List Nat) : List Nat :=
  let ovr := w.getD rcbOvr 0
  let w := rcbGroups.foldl (fun (w : List Nat) g =>
    if bitOf ovr g.1 then w
    else w.set g.2.1 ((w.getD g.2.1 0 &&& (2 ^ 64 - 1 - g.2.2)) ||| (p.getD g.2.1 0 &&& g.2.2))) w
  w.set rcbPri ((w.getD rcbPri 0 &&& (2 ^ 64 - 1 - 0x1FF * 2 ^ 32)) ||| (p.getD rcbPri 0 &&& 0x1FF * 2 ^ 32))

/-- The 256 bytes given to CREATE keep R323 and R324, the groups that will be inherited too (R348; log 20). -/
def rcbOk (w : List Nat) (root : Bool) : Bool :=
  let f (k : Nat) : Nat := w.getD k 0
  let r := rectOf (f rcbCells)
  (w.drop 22).all (· == 0) && bitsOf (f rcbOvr) 63 15 == 0 && (!root || f rcbOvr == 0x7FFF) &&
    f rcbEntry % 64 == 0 && budgetOk 3 (f rcbPri) && budgetOk 4 (f rcbBud) && budgetOk 5 (f rcbLim) &&
    virtualOk (f rcbFrec) 4096 && virtualOk (f rcbSpBase) 64 && decide (4 ≤ f rcbSpN ∧ f rcbSpN ≤ 24) &&
    bitsOf (f rcbArena) 63 40 == 0 && f rcbArena % 4096 == 0 && bitsOf (f rcbArn) 63 24 == 0 &&
    virtualOk (f rcbTape) 16 && bitsOf (f rcbCells) 63 20 == 0 && decide (r.1 + r.2.2.1 ≤ 32 ∧ r.2.1 + r.2.2.2 ≤ 32)

/-! ## RCBOP (R347, R348) -/

/-- Before an update at the home, the core gives up its own copies of the lines and waits for its write-backs (R116). -/
def State.afterYield (s : State) (lines : List Nat) (k : State → State) : State :=
  let core := s.me.core
  if lines.any fun l => s.holdsLine core l then
    let s := s.yieldLines core lines
    if s.writingBack core then s.parkMe (.writeBacks core) else k s
  else if s.writingBack core then s.parkMe (.writeBacks core)
  else k s

/-- The place of an RCB that an instruction names: translated word memory of the device, aligned on 256 (R117, R323). -/
def State.rcbPlace (s : State) (a : Word) (w : Bool) : Except Stop Place :=
  s.place s.me { n := 256, r := true, w := w, noPool := some 6, onlyDevice := some 6, store := w } 0 a 0

/-- An RCB's words at its home. -/
def State.rcbWords (s : State) (pa : Nat) : List Nat := (List.range 32).map fun i => s.view (pa + 8 * i) 8

/-- An update of an RCB at its home (R116, R323): the answer is the status. -/
def State.updateRcb (s : State) (a b : R5) (f : List Nat → State → Nat → Nat × State) : Out State :=
  let c := s.me
  match s.rcbPlace (c.xr b) true with
  | .error e => .next (s.stopMe e)
  | .ok p => .next (match s.pageHolding p.lane.pa with
    | some _ => s.parkMe (.page p.lane.pa)
    | none => s.afterYield [lineOf p.lane.pa, lineOf p.lane.pa + 1] fun s =>
      let s := s.settle c.core c.asid true p
      let (st, s) := f (s.rcbWords p.lane.pa) s p.lane.pa
      s.doneLong a (BitVec.ofNat 64 st))

/-- RCBOP.GET and JOIN.Q: a word of an RCB as its home holds it (R347, R349). -/
def State.loadRcbWord (s : State) (a b : R5) (idx : Nat) : Out State :=
  let c := s.me
  match s.place c { n := 8, r := true, noPool := some 6, onlyDevice := some 6 } 0 (c.xr b) (8 * idx : Nat) with
  | .error e => .next (s.stopMe e)
  | .ok p =>
    let s := s.settle c.core c.asid false p
    .next ((s.finish (·.pendX a)).routeLoad ⟨s.src, [p.lane], .x a 8 false, true, false⟩)

/-- RCBOP.GET (R347). -/
def execRcbopGet (a b : R5) (o : Op2) (s : State) : Out State :=
  let c := s.me
  let idx := (c.op2U o).toNat
  if idx > 31 then .next (s.trapMe (c.opTrap trapIllegalOp 0))
  else if !(s.chain c.rcb.toNat c.asid).contains (c.xr b).toNat then .next (s.trapMe (c.opTrap trapPriv 0))
  else s.loadRcbWord a b idx

/-- A park limit that is set takes effect for every later park of the RCB's threads whose kernel names none of its own (R329, R348). -/
def State.limitParks (s : State) (rcb asid limit : Nat) : State :=
  let named (c : Ctx) : Bool := c.rcb.toNat == rcb && c.asid == asid && !c.parkOwn
  let s := { s with threads := s.threads.map fun (e : Nat × Ctx) => (e.1, if named e.2 then { e.2 with parkLimit := limit } else e.2) }
  (s.threads.filter fun (e : Nat × Ctx) => named e.2).foldl (fun (s : State) (e : Nat × Ctx) => s.syncImage e.1) s

/-- RCBOP.SET (R347): words 3, 4 and 5 only. -/
def execRcbopSet (a b : R5) (o : Op2) (s : State) : Out State :=
  let c := s.me
  let idx := (c.op2U o).toNat
  let v := (c.xr a).toNat
  if idx > 31 then .next (s.trapMe (c.opTrap trapIllegalOp 0))
  else s.updateRcb a b fun w s pa =>
    let st := stateOfWord (w.getD rcbState 0)
    let parent := w.getD rcbParent 0
    let asid := bitsOf (w.getD rcbPri 0) 40 32
    let up := s.rcbWord parent asid idx
    if idx < 3 ∨ idx > 5 then (1, s)
    else if st ≠ 1 ∧ st ≠ 2 then (4, s)
    else if !budgetOk idx v || (idx == 3 && (bitsOf v 40 32 == 0 || (parent != 0 && bitsOf v 40 32 != asid))) then (1, s)
    else if parent ≠ 0 ∧ !withinParent idx v up then (2, s)
    else
      let s := if idx = rcbLim then s.limitParks (c.xr b).toNat asid (v % 2 ^ 17) else s
      (0, (s.homeStore (pa + 8 * idx) 8 v false).2)

/-- The state of an RCB changes where it may (R347). -/
def State.setRcbState (s : State) (a b : R5) (f : Nat → Nat → Option Nat) : Out State :=
  s.updateRcb a b fun w s pa =>
    let v := w.getD rcbState 0
    match f (stateOfWord v) (w.getD rcbLive 0) with
    | some st => if st < 4 then (0, (s.homeStore (pa + 8 * rcbState) 8 (v / 8 * 8 + st) false).2) else (st - 4, s)
    | none => (4, s)

/-- RCBOP.HOLD (R347). -/
def execRcbopHold (a b : R5) (s : State) : Out State :=
  s.setRcbState a b fun st _ => if st = 1 ∨ st = 2 then some 2 else none

/-- RCBOP.RELEASE (R347). -/
def execRcbopRelease (a b : R5) (s : State) : Out State := s.setRcbState a b fun st _ => if st = 2 then some 1 else none

/-- RCBOP.RETIRE (R347): status 1 while something is live (a value above 3 stands for a status). -/
def execRcbopRetire (a b : R5) (s : State) : Out State :=
  s.setRcbState a b fun st live => if st = 1 ∨ st = 2 then (if live = 0 then some 3 else some 5) else none

/-- RCBOP.CREATE (R347, R348): the words checked and filled, then written with the fields that hardware keeps. -/
def execRcbopCreate (a b p : R5) (s : State) : Out State :=
  let c := s.me
  let parent := (c.xr p).toNat
  let root := parent == 0
  match (if root then .ok none else (s.rcbPlace (c.xr p) false).map some) with
  | .error e => .next (s.stopMe e)
  | .ok pp => s.updateRcb a b fun w s pa =>
    let pw := match pp with
      | some x => s.rcbWords x.lane.pa
      | none => List.replicate 32 0
    let pst := stateOfWord (pw.getD rcbState 0)
    let level := if root then 0 else bitsOf (pw.getD rcbState 0) 10 8 + 1
    let n := if root then w else inherit w pw
    let asid := bitsOf (n.getD rcbPri 0) 40 32
    if stateOfWord (w.getD rcbState 0) = 1 ∨ stateOfWord (w.getD rcbState 0) = 2 then (4, s)
    else if !root && (level > 7 || (pst != 1 && pst != 2)) then (3, s)
    else if !rcbOk w root || asid == 0 || !s.asidValid asid then (1, s)
    else if !root && !([rcbPri, rcbBud, rcbLim].all (fun k => withinParent k (n.getD k 0) (pw.getD k 0)) &&
        rectInside (rectOf (n.getD rcbCells 0)) (rectOf (pw.getD rcbCells 0))) then (2, s)
    else
      let id := s.rcbSerial % 2 ^ 32
      let s := { s with rcbSerial := s.rcbSerial + 1 }
      let n := [rcbSpHead, rcbSpTail, rcbLive, rcbUse, rcbNltn].foldl (fun (l : List Nat) k => l.set k 0) n
      let n := (n.set rcbParent parent).set rcbState (id * 2 ^ 32 + level * 256 + 1)
      let v := ofLanes 64 n
      let s := (s.homeStore pa 128 (v % 2 ^ 1024) false).2
      (0, (s.homeStore (pa + 128) 128 (v / 2 ^ 1024) false).2)

/-! ## JOIN (R349) -/

/-- JOIN: a wait with acquire for `RCBLIVE` = 0 (R349). -/
def execJoin (a b : R5) (s : State) : Out State :=
  let c := s.me
  match s.placeAtomic c (homeNeed 8 true false) 0 (c.xr b) (8 * rcbLive : Nat) with
  | .error e => .next (s.stopMe e)
  | .ok p =>
    let s := (s.settle c.core c.asid false p).yieldLines c.core [lineOf p.lane.pa]
    .next ((s.parkCounted .word).post (.waitRegistration
      ⟨s.src, p.lane, .word 0 true 0, deadlineFrom s.ticks (c.xr a), true, a, 0, 3⟩))

/-- JOIN.Q (R349). -/
def execJoinQ (a b : R5) (s : State) : Out State := s.loadRcbWord a b rcbLive

end Sys2Proof.Machine
end

