-- ==== Sys2Proof/Machine/Thread.lean ====
section
/-! DEFINITION. Threads in context slots: taking and leaving a slot (R92, R336, R340, R445), suspension (R337), migration (R111, R112, R339,
R340, R345), EXIT, YIELD and SLEEP (R346), image lines on demand (R64, R381, R383), and the end of a killed thread (R382). -/

namespace Sys2Proof.Machine

/-! ## The split of a core (R92, R445) -/

/-- Bytes of memory become zero. -/
def State.zeroRange (s : State) (a n : Nat) : State :=
  { s with mem := s.mem.filter (fun e => !(a ≤ e.1 && e.1 < a + n)),
           poisoned := s.poisoned.filter fun w => !(a ≤ 8 * w && 8 * w < a + n) }

/-- The scratchpad's bytes after a setting: zero, but for those that also lay in the old scratchpad of the same space (R445 step 4). -/
def State.clearPad (s : State) (core : Nat) (old : Option (Nat × Nat)) (reg pad : Nat) : State :=
  let b := poolBase core
  match old with
  | none => s.zeroRange (b + reg) (pad - reg)
  | some (r, p) => (s.zeroRange (b + reg) (min pad r - reg)).zeroRange (b + max reg p) (pad - max reg p)

/-- A core with no resident context takes a split and a space (R445): it issues nothing until the write-backs of step 1 are
acknowledged. -/
def State.setSplit (s : State) (core asid : Nat) (split : Nat × Nat) : State :=
  let q := s.core core
  let s := s.cleanAll none core (fun _ => true)
  let s := (s.setCore core { s.core core with cache := [] }).noInstall core (fun _ => true)
  let s := (s.threads.filter fun e => e.2.heldCore == core && e.2.held != 0).foldl (fun s e => s.dropImage e.1) s
  let s := s.clearPad core (if q.padAsid = some asid then q.split else none) split.1 split.2
  let q := { s.core core with split := some split, padAsid := some asid, settling := s.writingBack core }
  s.setCore core { q with matrix := Matrix.initial, regions := s.regionTables.get asid [] }

/-- Whether a core's split and space are the thread's (R92, R334). -/
def State.splitMatches (s : State) (core asid : Nat) (split : Nat × Nat) : Bool :=
  (s.core core).split == some split && (s.core core).padAsid == some asid

/-- Whether a core may take a thread now: a free slot; its split and space, or no resident context and an empty matrix queue (R287,
R334, R340). -/
def State.mayTake (s : State) (core asid : Nat) (split : Nat × Nat) : Bool :=
  let q := s.core core
  q.released && !q.stopped && !s.coreGone core && decide (q.slots.length < 16) &&
    (s.splitMatches core asid split || (q.slots.isEmpty && q.matrix.queue.isEmpty))

/-! ## Slots -/

/-- A lane of a load that has come to the core of its pool with its thread: the bank makes its checks now, and what it refuses reads
zero (R93, R94, R111). -/
def State.checkArrival (s : State) (src : Src) (l : Lane) : State × Lane :=
  if !isPool l.pa then (s, l)
  else match s.bankChecks src l false with
    | .ok => (s, l)
    | .refused c d => (s.refusePool src l c d, laneBind l 0 (2 ^ l.n - 1) false)
    | _ => (s, laneBind l 0 (2 ^ l.n - 1) false)

/-- The load of an LDM at its destination (R111): read as LD reads, or contributed in reverse mode. `parked` marks the latter. -/
def State.arriveLoad (s : State) (q : MemReq) : State :=
  let c := s.ctx q.src.tid
  let q := { q with src := { q.src with core := c.core } }
  if q.parked then
    let v := match q.dst with
      | .x a _ _ => (c.xr a).toNat % 2 ^ 32
      | _ => 0
    (s.setCtx q.src.tid { c with pendc := c.pendc + 1 }).post (.contributionAtHome { q with dst := .none, parked := false } 16 [v])
  else
    let r := q.lanes.foldl (fun (a : State × List Lane) l =>
      let t := a.1.checkArrival q.src l
      (t.1, a.2 ++ [t.2])) (s, [])
    r.1.routeLoad { q with lanes := r.2.map (r.1.bindCached c.core) } true

/-- Parks that the park limit counts (R337). -/
def Park.counted : Park → Bool
  | .word | .version | .ring | .teller | .sleep _ | .quota _ | .collect => true
  | .reply | .allLong | .quiet | .performed _ | .acks | .loads | .pendcZero | .writeBacks _ | .plane6 | .matrixRoom
  | .poolStores | .tellerRoom | .statistics | .event | .lock _ _ | .fetch _ | .page _ | .exit | .image _ => false

/-- The image lines that a core fetches before the first instruction of a thread whose lines it does not hold: 0 to 3, and those of the
carried vectors (R46). -/
def Ctx.aheadLines (c : Ctx) : BitVec 32 :=
  BitVec.ofNat 32 (15 + ((List.range 4).map fun i => if 2 * i < c.khvec then 2 ^ (4 + i) else 0).sum)

/-- A thread takes a slot of a core (R336, R340, R445). Arriving from another core, or before its first instruction, it finds no clean
line (R112, R146, R329); a park that is not over counts toward the park limit again (R133, R337). -/
def State.seat (s : State) (tid core : Nat) (new : Bool) (load : Option MemReq) : State :=
  let c := s.ctx tid
  let s := if s.splitMatches core c.asid c.split then s else s.setSplit core c.asid c.split
  let s := if new || c.core != core || !c.started then s.selfInvalidate core else s
  let q := s.core core
  let slot := ((List.range 16).find? fun i => (q.slots.find? i).isNone).getD 0
  let s := s.setCore core { q with slots := q.slots.set slot tid }
  let s := s.modCtx tid fun c =>
    let h := s.isHalted c.rcb.toNat c.asid && !c.service
    let ahead := if new || (c.held != 0 && c.heldCore == core) then 0 else c.aheadLines
    let c := { c with core := core, slot := slot, imstate := .resident, queued := false, suspending := false, started := true }
    { c with lastIssue := none, line := none, halted := h, ahead := ahead,
             telReq := if c.lastCore = core then c.telReq else none }
  let s := (if (s.ctx tid).park.any Park.counted then s.countPark tid else s).writeHeader tid
  match load with
  | some q => s.arriveLoad q
  | none => s

/-- In each cycle the first packet of each core's arrival buffer tries again (R340). -/
def State.retryArrivals (s : State) : State :=
  s.cores.foldl (fun (s : State) e => match e.2.arrivals with
    | [] => s
    | p :: r =>
      let c := s.ctx p.tid
      if s.mayTake e.1 c.asid c.split || s.coreGone e.1 then
        let s := s.setCore e.1 { s.core e.1 with arrivals := r }
        { s with due := s.due ++ [.migrationPacketArrival p] }
      else s) s

/-- A thread's slot is free; its stores to pools of the sector are performed. -/
def State.freeSlot (s : State) (tid : Nat) : State :=
  let s := s.landStores tid
  let c := s.ctx tid
  let q := s.core c.core
  s.setCore c.core { q with slots := q.slots.filter fun e => e.2 ≠ tid }

/-- A resident thread leaves its slot and stops being resident (R337, R404). -/
def State.leaveSlot (s : State) (tid : Nat) (st : ImState) : State :=
  let c := s.ctx tid
  let s := (s.freeSlot tid).countContext c.rcb.toNat c.asid false
  let s := s.modCtx tid fun c =>
    let c := { c with imstate := st, suspending := false, halted := false, lastCore := c.core }
    let p := match c.park with
      | some (.image _) => none
      | p => p
    { c with evictSince := s.pcyc, parkSince := none, park := p }
  s.writeHeader tid

/-! ## Image lines (R64, R381, R383) -/

/-- Whether one age of three parts is lower than another. -/
def olderAge (a b : Nat × Nat × Nat) : Bool :=
  decide (a.1 < b.1) || (a.1 == b.1 && (decide (a.2.1 < b.2.1) || (a.2.1 == b.2.1 && decide (a.2.2 < b.2.2))))

/-- Lines a core's register region can hold. -/
def State.regionLines (s : State) (core : Nat) : Nat := ((s.core core).split.map fun p => p.1 / 128).getD 0

/-- The lines of an image that the next instruction of its thread waits for: none of them is a victim (R381). -/
def Ctx.awaitsLine (c : Ctx) (n : Nat) : Bool :=
  match c.park with
  | some (.image mask) => bitOf mask n
  | _ => false

/-- The class and age of a held line as a victim: evictable lines by the age of the pre-emption, then lines of parked contexts, then of
others, each the least recently used first; a line's use is the issue of an instruction that needs it (R381). -/
def State.victimRank (s : State) (tid n : Nat) : Nat × Nat × Nat :=
  let c := s.ctx tid
  let used := c.lineUse.get n 0
  if c.imstate ≠ .resident then (0, c.evictSince, used) else (if c.park.isSome then 1 else 2, used, 0)

/-- The held line of a core that goes first, but none of the incoming thread, and none that an instruction waits for (R381). -/
def State.victim (s : State) (core tid : Nat) : Option (Nat × Nat) :=
  let lines := (s.threads.filter fun e => e.2.heldCore == core && e.1 != tid).flatMap fun e =>
    (e.2.heldLines.filter fun n => !e.2.awaitsLine n).map fun n => (e.1, n)
  lines.foldl (fun (b : Option (Nat × Nat)) e => match b with
    | none => some e
    | some x => if olderAge (s.victimRank e.1 e.2) (s.victimRank x.1 x.2) then some e else b) none

/-- Make room for a line in a core's register region: a dirty victim is written back (R381). -/
def State.regionRoom (s : State) (core tid : Nat) : State :=
  let used := ((s.threads.filter fun e => e.2.heldCore == core).map fun e => popCount 32 e.2.held.toNat).sum
  if used < s.regionLines core then s
  else match s.victim core tid with
    | none => s
    | some (t, n) =>
      let s := if s.imageSame t n then s else s.putImageLine t n
      s.modCtx t fun c => { c with held := c.held &&& ~~~BitVec.twoPow 32 n }

/-- A line of an image comes into the register region of the thread's core. -/
def State.holdLine (s : State) (tid n : Nat) : State :=
  let core := (s.ctx tid).core
  (s.regionRoom core tid).modCtx tid fun c =>
    { c with held := c.held ||| BitVec.twoPow 32 n, heldCore := core, lineUse := c.lineUse.set n s.pcyc }

/-- IMAGE_LINE_FETCH_ARRIVAL: a line of an image that the next instruction needs. Lines held by another core are written back first, and
a line that carries a mark loses the image (R64, R381 to R383). -/
def execImageLineFetchArrival (tid line : Nat) (s : State) : Out State :=
  let c := s.ctx tid
  if c.imstate ≠ .resident ∨ c.held.getLsbD line ∧ c.heldCore = c.core then .next s
  else if c.heldCore ≠ c.core ∧ c.held ≠ 0 then
    .next ((s.postFront (.imageLineFetchArrival tid line)).postFront (.imageWritebackCommand c.heldCore tid))
  else if s.poisonAt (tid + 128 * line) 128 then .next (s.post (.imageLost tid line))
  else .next (s.holdLine tid line)

/-- IMAGE_WRITEBACK_COMMAND: a core gives up the lines of an image (R383). -/
def execImageWritebackCommand (core tid : Nat) (s : State) : Out State :=
  let c := s.ctx tid
  .next (if c.heldCore = core then s.dropImage tid else s)

/-! ## A killed thread (R382, R389) -/

/-- A thread's waits are cancelled: at homes, at Mints, and stalled (R382). -/
def State.cancelWaits (s : State) (tid : Nat) : State :=
  let keep (w : KeyWaiter) : Bool := match w with
    | .thread t => t != tid
    | .teller _ _ => true
  let slices := s.slices.map fun e => (e.1, { e.2 with
    waiters := e.2.waiters.filter fun w => w.src.tid != tid,
    mint := e.2.mint.map fun m => { m with waiters := m.waiters.filter keep } })
  { s with slices := slices, stalled := s.stalled.filter fun e => match eventReq e.2 with
    | some q => q.src.tid != tid || (match q.use with
        | .tover _ _ | .fromv _ _ _ => true
        | _ => false)
    | none => true }

/-- Whether a message brings a ready record or a packet of a thread. -/
def bringsThread (tid : Nat) : Event → Bool
  | .dispatcherRecordArrival _ r none => r.thread == some tid
  | .migrationPacketArrival p => p.tid == tid
  | _ => false

/-- The ready records and the packet of a thread that is killed are gone: it is not placed again (R382). What a ring holds of it is dropped
as it is refilled. A packet's context counts as resident until here (R340). -/
def State.forgetRecords (s : State) (tid : Nat) : State :=
  let c := s.ctx tid
  let moving := s.pending.any (fun e => match e with
    | .migrationPacketArrival p => p.tid == tid
    | _ => false) || s.cores.any fun e => e.2.arrivals.any fun p => p.tid == tid
  let s := if moving then s.countContext c.rcb.toNat c.asid false else s
  let keep (rs : List TaskRec) : List TaskRec := rs.filter fun r => r.thread != some tid
  { s with
    pending := s.pending.filter fun e => !bringsThread tid e
    due := s.due.filter fun e => !bringsThread tid e
    cores := s.cores.map fun e => (e.1, { e.2 with arrivals := e.2.arrivals.filter fun p => p.tid != tid })
    dispatchers := s.dispatchers.map fun e => (e.1, { e.2 with records := keep e.2.records, hold := keep e.2.hold }) }

/-- A thread is killed: its resident state is discarded and its waits end; its image bit and its `RCBLIVE` count stay until its domain's
handler disposes of it (R346, R382). -/
def State.killThread (s : State) (tid code detail : Nat) : State :=
  let c := s.ctx tid
  let s := (s.cancelWaits tid).forgetRecords tid
  let s := if c.imstate = .resident then s.leaveSlot tid .killed else s
  let s := s.modCtx tid fun c => { c.abandon with imstate := .killed, queued := false, held := 0, line := none }
  (s.writeHeader tid).deliver (s.threadRecord tid (code + 256 * detail) c.pc (BitVec.ofNat 64 tid))

/-- IMAGE_LOST: the line is no longer valid, and the thread is killed (R382). -/
def execImageLost (tid line : Nat) (s : State) : Out State :=
  let s := s.modCtx tid fun c => { c with imvalid := c.imvalid &&& ~~~BitVec.twoPow 32 line }
  .next (s.killThread tid trapImageLost line)

/-! ## Suspension (R337) -/

/-- A thread is suspended: dirty lines to the arena, its slot freed; one whose wait ended meanwhile is queued at once (R337). -/
def State.suspend (s : State) (tid : Nat) : State :=
  let s := (s.writeBackImage tid).leaveSlot tid .suspended
  if (s.ctx tid).park.isNone then s.requeue tid else s

/-- PARK_LIMIT_EXPIRY: the park has lasted its limit: the thread is suspended once its long results are back (R337). -/
def execParkLimitExpiry (tid : Nat) (s : State) : Out State :=
  let c := s.ctx tid
  let lasted := match c.parkSince with
    | some t => c.park.isSome && decide (t + c.parkFor ≤ s.pcyc)
    | none => false
  if c.imstate ≠ .resident ∨ c.halted then .next s
  else if !lasted && !c.suspending then .next s
  else if c.longs ≠ 0 then
    .next ((s.setCtx tid { c with suspending := true }).at (s.pcyc + 1) (.parkLimitExpiry tid))
  else .next (s.suspend tid)

/-- The locks of a pool source leave the tables of every cell (R265). -/
def State.dropSourceLocks (s : State) (owner : Nat) : State :=
  { s with cells := s.cells.map fun (e : Nat × Cell) =>
      (e.1, { e.2 with locks := e.2.locks.filter fun l => !(decide (l.2.kind ≥ 2) && l.2.owner == owner) }) }

/-- `QUOTA_STALL` of a thread: its request is taken back, what it took goes back, and a TLDP gives up its lock (R235, R265). -/
def State.quotaStall (s : State) (tid code : Nat) : State :=
  let c := s.ctx tid
  let s := s.takeBack tid
  match c.keyReq with
  | none => s.wakeTrap tid ⟨trapQuotaStall, code, 0, 0⟩
  | some q =>
    let s := if q.use = KeyUse.pool ∧ code ≠ 5 then s.dropSourceLocks (c.hold.toNat / 2 ^ 32) else s
    (s.dropInput q).wakeTrap tid (keyTrap trapQuotaStall code q.key)

/-- Whether a message is an answer to a request other than that it stalls. -/
def endsStall (q : KeyReq) : Event → Bool
  | .mintReplyArrival _ (.stall _) => false
  | .mintReplyArrival x _ => x == q
  | _ => false

/-- STALL_LIMIT_EXPIRY: a thread that still stalls traps, unless the answer that ends its stall is on its way; a force that waits for quota or
room faults (R235, R262, R342). -/
def execStallLimitExpiry (tid : Nat) (s : State) : Out State :=
  let c := s.ctx tid
  let past (since rcb : Nat) : Bool := decide (cycleOfTick (since + bitsOf (s.rcbWord rcb c.asid rcbLim) 63 32) ≤ s.pcyc)
  match c.park, c.stallSince with
  | some (.quota code), some since =>
    if !past since ((c.keyReq.map KeyReq.rcb).getD c.rcb.toNat) then .next s
    else if c.keyReq.any (fun q => (s.pending ++ s.due).any (endsStall q)) then .next s
    else .next (s.quotaStall tid code)
  | some .ring, some since => .next (if past since c.rcb.toNat then s.wakeTrap tid ⟨trapTaskRingFull, 0, 0, c.hold⟩ else s)
  | some .version, some since => .next (match c.force with
    | some f => match f.leafs.find? (fun e => (f.read.find? e.1.id).isNone) with
      | some (r, _, pc) =>
        if past since c.rcb.toNat && !f.done && f.fault.isNone then
          (s.unwait tid r.key r.home).faultForce tid f pc (trapQuotaStall + 256 * c.stallCode) (keyPacked r.key)
        else s
      | none => s
    | none => s)
  | _, _ => .next s

/-! ## EXIT, YIELD, SLEEP (R346) -/

/-- The occupancy bit of an image: its arena's bitmap byte and bit (R328). -/
def imageBit (arena tid : Nat) : Nat × Nat :=
  let k := (tid - arena) / 4096
  (arena + k / 8, k % 8)

/-- Clear the occupancy bit of an image (R328). -/
def State.freeImage (s : State) (rcb asid tid : Nat) : State :=
  let p := imageBit (s.rcbWord rcb asid rcbArena) tid
  let b := s.view p.1 1
  (s.homeStore p.1 1 (b - (if bitOf b p.2 then 2 ^ p.2 else 0)) false).2

/-- EXIT (R346). -/
def execExit (s : State) : Out State :=
  match s.relPart 1 0 with
  | .error s => .next s
  | .ok s =>
    let c := s.me
    if c.telout ≠ 0 ∨ c.longs ≠ 0 then .next (s.parkMe .exit)
    else
      let tid := s.cur
      let s := (s.setMe { c with events := [] }).clearHandles tid
      let s := s.freeImage c.rcb.toNat c.asid tid
      let s := s.leaveSlot tid .free
      let s := s.modCtx tid fun c => { c.abandon with held := 0 }
      .next (s.lowerLive c.rcb.toNat c.asid)

/-- YIELD: every long result, then the slot is given up and a ready record queued (R346). -/
def execYield (s : State) : Out State :=
  if s.me.longs ≠ 0 then .next (s.parkMe .allLong)
  else .next (s.done.suspend s.cur)

/-- SLEEP and SLEEP.T (R346): a time already reached continues. -/
def execSleep (f : F6) (o : Op2) (s : State) : Out State :=
  let v := (s.me.op2U o).toNat
  let t := if f = 0 then s.ticks + v else v
  if t ≤ s.ticks then .next s.done
  else .next ((s.parkCounted (.sleep t)).at (cycleOfTick t) (.sleepTimeReached s.cur))

/-- SLEEP_TIME_REACHED (R346). -/
def execSleepTimeReached (tid : Nat) (s : State) : Out State :=
  match (s.ctx tid).park with
  | some (.sleep t) => .next (if t ≤ s.ticks then s.wakeWith tid id else s)
  | _ => .next s

/-! ## MIG and LDM (R111, R112, R345) -/

/-- The core that owns an address: of a pool, or by the home slice of a line of word memory (R111). -/
def ownerCore (c : Ctx) (p : Place) : Nat :=
  if isPool p.lane.pa then poolCore p.lane.pa
  else
    let pa := match p.leaf with
      | some l => if l.mode = 2 then l.pa p.lane.va else p.lane.pa
      | none => p.lane.pa
    let k := homeSlice (lineOf pa)
    8 * (k / 2) + 4 * (k % 2) + c.thid.toNat % 4

/-- Before a thread leaves: nothing outstanding, then its own dirty lines written back, each acknowledged, and with them the write-backs
of lines that were evicted before (R112, R345). The stage counts from 0. -/
def State.beforeMove (s : State) (k : State → State) : State :=
  let c := s.me
  if !c.settled then s.parkMe .quiet
  else if c.stage = 0 then
    let s := s.cleanAll (some s.cur) c.core fun l => l.writers.getLsbD c.slot
    if s.writingBack c.core then s.setMe { s.me with stage := 1, midway := true, park := some (.writeBacks c.core) }
    else if s.me.ackc ≠ 0 then s.setMe { s.me with stage := 1, midway := true, park := some .quiet } else k s
  else k s

/-- The header flit of a packet (R339): the load of an LDM by its address, size code and destination, where there is one. -/
def packetHeader (c : Ctx) (tid n : Nat) (load : Option (Word × Nat × R5)) : List Byte :=
  wordBytes [c.pc.toNat] ++ bytesOf 4 c.pred.toNat ++ bytesOf 1 n ++
    (match load with
      | some l => bytesOf 1 (128 + l.2.2.toNat) ++ bytesOf 1 l.2.1
      | none => bytesOf 2 0) ++ bytesOf 1 0 ++
    wordBytes [c.thid.toNat, c.rcb.toNat, tid, c.srkey.toNat, c.srctr.toNat, ((load.map Prod.fst).getD 0).toNat] ++
    bytesOf 2 c.core ++ List.replicate 62 0

/-- The 3 + n flits of a packet (R339). -/
def packetFlits (c : Ctx) (tid n : Nat) (load : Option (Word × Nat × R5)) : List (List Byte) :=
  [packetHeader c tid n load, wordBytes ((List.range 16).map fun i => (c.x[i + 1]?.getD 0).toNat),
    padLine (wordBytes ((List.range 7).map fun i => (c.x[i + 17]?.getD 0).toNat) ++ bytesOf 4 c.poisonBits)] ++
    (List.range n).map fun m => padLine (bytesOf 64 (c.v[m]?.getD 0).toNat)

/-- The state that a packet carries is written from its flits (R340): the vector registers that it did not carry and the masks are zero;
marks of vector registers do not travel. -/
def Ctx.unpack (c : Ctx) (n : Nat) (flits : List (List Byte)) : Ctx :=
  let at_ (k o w : Nat) : Nat := field (flits.getD k []) o w
  let bits := at_ 2 56 4
  { c with pc := BitVec.ofNat 64 (at_ 0 0 8), pred := BitVec.ofNat 32 (at_ 0 8 4), srkey := BitVec.ofNat 64 (at_ 0 40 8),
           srctr := BitVec.ofNat 64 (at_ 0 48 8),
           x := Vector.ofFn fun i => if i.val = 0 then 0 else BitVec.ofNat 64
             (if i.val ≤ 16 then at_ 1 (8 * (i.val - 1)) 8 else at_ 2 (8 * (i.val - 17)) 8),
           v := Vector.ofFn fun i => if i.val < n then BitVec.ofNat 512 (at_ (3 + i.val) 0 64) else 0,
           k := Vector.replicate 4 0, xPois := c.xPois.filter (fun e => bitOf bits (e.1 - 1)), vPois := [] }

/-- The thread leaves in a packet (R339, R345). -/
def State.sendAway (s : State) (dest n : Nat) (load : Option (Word × Nat × R5 × MemReq)) (f : Ctx → Ctx) : State :=
  let tid := s.cur
  let s := s.clearHandles tid
  let s := s.writeBackImage tid
  let s := s.modCtx tid fun c => { (f c).advance with held := 0 }
  let s := s.freeSlot tid
  let s := s.modCtx tid fun c => { c with imstate := .suspended, queued := true, lastCore := c.core }
  s.post (.migrationPacketArrival ⟨tid, dest, n, packetFlits (s.ctx tid) tid n (load.map fun l => (l.1, l.2.1, l.2.2.1)),
    load.map fun l => l.2.2.2⟩)

/-- The need of MIG's address (R345): read permission, no alignment. -/
def migNeed : Need := { n := 1, align := false, r := true, onlyDevice := some 6, rdup := true, locks := false }

/-- MIG: the move itself (R345). -/
def State.moveTo (s : State) (dest n : Nat) : State :=
  s.beforeMove fun s => if dest = s.me.core then (s.clearHandles s.cur).done else s.sendAway dest n none id

/-- MIG (R345). -/
def execMig (n : F6) (m : MemOp) (s : State) : Out State :=
  let c := s.me
  match s.place c migNeed 0 (c.xr m.b) m.disp.toInt with
  | .error e => .next (s.stopMe e)
  | .ok p => .next (if (s.pageHolding p.lane.pa).isSome then s.parkMe (.page p.lane.pa)
    else (s.settle c.core c.asid false p).moveTo (ownerCore c p) n.toNat)

/-- MIG.C (R345). -/
def execMigC (n : F6) (b : R5) (s : State) : Out State := .next (s.moveTo ((s.me.xr b).toNat % 8192) (n.toNat % 16))

/-- LDM (R111): the load is made where the thread arrives, or here when it is already there. An address of host or remote memory, which
no core owns, raises `ADDR_SPACE` code 6 (log 69). -/
def execLdm (f : F6) (a : R5) (m : MemOp) (s : State) : Out State :=
  let c := s.me
  let n := accessSize (f.toNat / 16)
  let acc : LaneAcc := ⟨0, c.xr m.b, m.disp.toInt, (c.xr a).toNat⟩
  match s.placeLanes c false n [acc] with
  | .error e => .next (s.stopMe e)
  | .ok [l] =>
    match l.place.target with
    | .hbm =>
      let dest := ownerCore c l.place
      match (if l.adj.isSome then c.dataPoison (.x a n false) else none) with
      | some x => .next (s.trapMe (poisonTrap 0 x))
      | none => .next (s.beforeMove fun s =>
        if dest = c.core then s.loadInstr n false false (.x a n false) (·.pendX a) [acc]
        else
          let s := s.settleLanes c false [l]
          let src : Src := { s.src with core := dest }
          let ea := formed (c.xr m.b) m.disp.toInt
          let send (q : MemReq) (g : Ctx → Ctx) : State := s.sendAway dest (f.toNat % 16) (some (ea, f.toNat / 16, a, q)) g
          match l.adj with
          | some p => send ⟨src, [{ p.lane with idx := 0 }], .x a n false, true, true⟩ id
          | none => send ⟨src, [l.place.lane], .x a n false, false, false⟩ (·.pendX a))
    | _ => .next (s.stopMe (spaceTrap 6 (formed (c.xr m.b) m.disp.toInt) 0))
  | .ok _ => .next s.done

/-- A packet that is lost: its thread holds no slot, and is killed (R25, R340, R389). -/
def State.sinkPacket (s : State) (p : Packet) : State :=
  let c := s.ctx p.tid
  (s.countContext c.rcb.toNat c.asid false).killThread p.tid trapCutMessage 0

/-- The lines of a packet's thread that are valid at its destination without a fetch: the header, the scalars, the vectors and the masks
(R340). -/
def carriedLines : List Nat := [0, 1, 2, 4, 5, 6, 7, 8]

/-- MIGRATION_PACKET_ARRIVAL: a free slot, the arrival buffer, or the dispatcher; a cell that is gone sinks the packet and its thread
(R25, R340). -/
def execMigrationPacketArrival (p : Packet) (s : State) : Out State :=
  let c := s.ctx p.tid
  let open_ (s : State) : State := s.modCtx p.tid (·.unpack p.n p.flits)
  if s.coreGone p.core then .next (s.sinkPacket p)
  else if s.mayTake p.core c.asid c.split then
    let s := (open_ s).seat p.tid p.core true p.load
    .next (carriedLines.foldl (fun s n => s.holdLine p.tid n) s)
  else if (s.core p.core).arrivals.length < 8 then
    .next (s.setCore p.core { s.core p.core with arrivals := (s.core p.core).arrivals ++ [p] })
  else
    let s := ((open_ s).countContext c.rcb.toNat c.asid false).syncImage p.tid
    .next (s.post (.dispatcherRecordArrival (sectorOf (cellOf p.core)) { s.readyRecord p.tid (some p.core) with load := p.load } none))

end Sys2Proof.Machine
end

