-- ==== Sys2Proof/Machine/Tasks.lean ====
section
/-! DEFINITION. Tasks: kernel headers (R61, R62), POST (R342, R343), SPAWN (R344), the creation of a thread (R327 to R330), and the sector
dispatchers: acceptance, spill and refill (R331 to R333), eligibility, probe and placement (R334 to R336). -/

namespace Sys2Proof.Machine

/-! ## Kernel headers (R61, R62) -/

/-- One bit of CRC-32C, reflected. -/
def crcBit (c : Nat) : Nat := if c % 2 = 1 then c / 2 ^^^ 0x82F63B78 else c / 2

/-- One byte of CRC-32C. -/
def crcByte (c : Nat) (b : Byte) : Nat := (List.range 8).foldl (fun c _ => crcBit c) (c ^^^ b.toNat)

/-- CRC-32C (R61). -/
def crc32c (bs : List Byte) : Nat := bs.foldl crcByte 0xFFFFFFFF ^^^ 0xFFFFFFFF

/-- What a kernel header says (R61): scalar registers, carried vectors, split in bytes, role bits, routed traps, user handler as an
offset from the entry line, thunk mode, job seed, tape bytes, park limit. -/
structure Header where
  regs : Nat
  vec : Nat
  split : Nat × Nat
  role : Nat
  traps : Nat
  handler : Option Int
  thk : Nat
  seed : Bool
  tape : Nat
  park : Nat
  deriving DecidableEq, Repr

/-- A header's fields. -/
def headerOf (bs : List Byte) : Header :=
  { regs := field bs 6 1, vec := field bs 7 1, split := (field bs 8 1 * 1024, field bs 9 1 * 1024), role := field bs 11 1,
    traps := field bs 12 4, handler := if field bs 16 4 = 0x80000000 then none else some (signedOf 32 (field bs 16 4)),
    thk := field bs 20 1, seed := field bs 21 1 == 1, tape := field bs 24 4, park := field bs 28 4 }

/-- Whether a header is valid (R62). Of `KHUTH` only its being absent matters here: a slot of 31 to 63 is accepted, and the entry to the
handler's line checks it; the spec states no range for it (log 70). -/
def kernelOk (bs : List Byte) : Bool :=
  let h := headerOf bs
  let reg := field bs 8 1
  let pad := field bs 9 1
  bs.length == 64 && field bs 0 4 == 0x484B4C4E && field bs 4 2 == 1 && field bs 60 4 == crc32c (bs.take 60) &&
    decide (1 ≤ h.regs ∧ h.regs ≤ 24 ∧ h.vec ≤ 8 ∧ 16 ≤ reg ∧ reg ≤ 64 ∧ reg ≤ pad ∧ pad ≤ 128) && field bs 10 1 == 128 &&
    h.role / 8 == 0 && [0, 0x14, 0x1B, 0x1E, 0x1F].all (fun c => !bitOf h.traps c) && (h.traps == 0 || h.handler.isSome) &&
    decide (h.thk ≤ 1 ∧ field bs 21 1 ≤ 1) && field bs 22 2 == 0 && h.tape % 16 == 0 &&
    (h.park == 0 || decide (256 ≤ h.park ∧ h.park ≤ 65536)) && field bs 32 4 == 64 && field bs 36 24 == 0

/-- Whether a thread of the kernel starts in supervisor mode (R330). -/
def startsSuper (role : Nat) (m : Mode) : Bool := bitOf role 1 && m != .user

/-- Whether a POST or SPAWN in a mode may start a kernel (R330). -/
def mayStart (role : Nat) (m : Mode) : Bool := startsSuper role m || bitOf role 0 || bitOf role 2

/-- The header below an entry line, as memory holds it (R61); none where it is not mapped or not valid. -/
def State.headerAt (s : State) (asid : Nat) (entry : Word) : Option Header :=
  (s.hwAddr asid ((entry.toNat + 2 ^ 64 - 64) % 2 ^ 64)).bind fun pa =>
    let bs := (List.range 8).flatMap fun i => bytesOf 8 (s.view (pa + 8 * i) 8)
    if kernelOk bs then some (headerOf bs) else none

/-! ## Task records (R326) -/

/-- The fields of a task record's 64 bytes; the rest is filled as it is checked and accepted. -/
def recordOf64 (bs : List Byte) : TaskRec :=
  { entry := BitVec.ofNat 64 (field bs 0 8), own := BitVec.ofNat 64 (field bs 0 8), rcb := field bs 8 8, asid := 0, ltn := field bs 16 4, flags := field bs 20 4,
    opnd := BitVec.ofNat 64 (field bs 24 8), args := (List.range 3).map fun i => BitVec.ofNat 64 (field bs (32 + 8 * i) 8), stamp := 0,
    superv := false, service := false, thread := none, pinned := none, bypass := 0, probed := false, hit := false, load := none }

/-- The 64 bytes of a record. The spec gives a ready record no layout in the ring: its bytes are free (log 21). -/
def recordBytes (r : TaskRec) (free : Nat → Byte) : List Byte :=
  match r.thread with
  | some _ => (List.range 64).map free
  | none => bytesOf 8 r.own.toNat ++ bytesOf 8 r.rcb ++ bytesOf 4 r.ltn ++ bytesOf 4 r.flags ++ bytesOf 8 r.opnd.toNat ++
      (List.range 3).flatMap (fun i => bytesOf 8 (r.args.getD i 0).toNat) ++ bytesOf 8 r.stamp

/-- R343, the record: code 13. -/
def recordBad (r : TaskRec) : Bool := r.flags / 4 != 0 || r.entry.toNat % 64 != 0

/-- R343, the RCB: code 14. -/
def rcbBad (r : TaskRec) (asid : Nat) (w : List Byte) : Bool :=
  let st := stateOfWord (field w (8 * rcbState) 8)
  !(st == 1 || st == 2) || bitsOf (field w (8 * rcbPri) 8) 40 32 != asid || (r.entry == 0 && field w (8 * rcbEntry) 8 == 0)

/-- The entry PC of a record: its own, or the RCB's default (R326). -/
def entryOf (r : TaskRec) (w : List Byte) : Word := if r.entry = 0 then BitVec.ofNat 64 (field w (8 * rcbEntry) 8) else r.entry

/-- R343, the header: code 15. -/
def headerBad (m : Mode) (w h : List Byte) : Bool :=
  !kernelOk h || !mayStart (headerOf h).role m ||
    decide (field w (8 * rcbTapeN) 8 < (headerOf h).tape * bitsOf (field w (8 * rcbArn) 8) 23 0)

/-- The record, the RCB and the header that the instruction has read. -/
def Ctx.taskParts (c : Ctx) : List Byte × List Byte × List Byte := (c.buf.take 64, (c.buf.drop 64).take 256, c.buf.drop 320)

/-- The record as it is sent. -/
def Ctx.taskRec (c : Ctx) : TaskRec :=
  let (r, w, h) := c.taskParts
  let role := (headerOf h).role
  { recordOf64 r with entry := entryOf (recordOf64 r) w, asid := c.asid, superv := startsSuper role c.mode, service := bitOf role 2 }

/-! ## Where records go (R332) -/

/-- The cell at a row and column. -/
def cellAt (y x : Nat) : Nat := y * 32 + x

/-- The cells of a sector. -/
def sectorCells (k : Nat) : List Nat :=
  let y := 16 * (k / 16 / 2) + 4 * (k % 16 / 4)
  let x := 16 * (k / 16 % 2) + 4 * (k % 4)
  (List.range 16).map fun i => cellAt (y + i / 4) (x + i % 4)

/-- Whether a sector meets a rectangle. -/
def sectorMeets (k : Nat) (r : Nat × Nat × Nat × Nat) : Bool := (sectorCells k).any (inRect r)

/-- The key of a record's operand (R326, R230). -/
def opndKey (asid : Nat) (w : Word) : Key :=
  let n := w.toNat
  ⟨asid, bitsOf n 63 48, bitsOf n 47 36, bitsOf n 35 24, bitsOf n 23 0⟩

/-- The home slice of a record's operand, where it has one (R332). -/
def State.opndHome (s : State) (r : TaskRec) : Option Nat :=
  if !bitOf r.flags 1 then none
  else if bitOf r.flags 0 then (s.hwAddr r.asid r.opnd.toNat).map fun pa => homeSlice (lineOf pa)
  else
    let k := opndKey r.asid r.opnd
    (s.declared k.asid k.arr).map fun d => descHome d k.i k.j

/-- The dispatcher to which a POST or SPAWN sends its record (R332). -/
def State.targetSector (s : State) (core : Nat) (r : TaskRec) : Nat :=
  let rect := rectOf (s.rcbWord r.rcb r.asid rcbCells)
  let here := sectorOf (cellOf core)
  let own := if sectorMeets here rect then here else sectorOf (cellAt rect.1 rect.2.1)
  match s.opndHome r with
  | some k => if sectorMeets (sectorOf (k / 2)) rect then sectorOf (k / 2) else own
  | none => own

/-! ## The dispatcher's store and the ring (R331, R333) -/

/-- A dispatcher at reset. -/
def Dispatcher.initial : Dispatcher := { records := [], hold := [], faulted := [] }

/-- A sector's dispatcher. -/
def State.dispatcher (s : State) (k : Nat) : Dispatcher := s.dispatchers.get k Dispatcher.initial

/-- Put a dispatcher back. -/
def State.setDispatcher (s : State) (k : Nat) (d : Dispatcher) : State := { s with dispatchers := s.dispatchers.set k d }

/-- Whether an event is on its way. -/
def State.expects (s : State) (e : Event) : Bool := s.timers.any (·.2 == e) || s.due.contains e || s.pending.contains e

/-- A dispatcher with records looks for a placement every two cycles (R331). -/
def State.wakeDispatcher (s : State) (k : Nat) : State :=
  if s.expects (.placement k) then s else s.at (s.pcyc + 2) (.placement k)

/-- The RCB whose spill ring a record uses (R324). -/
def State.ringOwner (s : State) (rcb asid : Nat) : Nat := s.groupOwner rcb asid 11

/-- Records in a ring. -/
def State.ringCount (s : State) (o asid : Nat) : Nat := s.rcbWord o asid rcbSpTail - s.rcbWord o asid rcbSpHead

/-- The address of an entry of a ring (R323). -/
def State.ringAddr (s : State) (o asid n : Nat) : Nat :=
  s.rcbWord o asid rcbSpBase + n % 2 ^ (s.rcbWord o asid rcbSpN % 32) * 64

/-- Whether a record could be stored at a dispatcher, or spilled from it (R333). -/
def State.taskRoom (s : State) (k : Nat) (r : TaskRec) : Bool :=
  let d := s.dispatcher k
  let o := s.ringOwner r.rcb r.asid
  decide (d.records.length < Config.dispatcherStore) ||
    (!d.faulted.contains (r.rcb, r.asid) && decide (d.hold.length < 4) && decide (s.ringCount o r.asid < 2 ^ (s.rcbWord o r.asid rcbSpN % 32)))

/-- The place and the leaf in device memory where a spill writes, or the code and detail of its fault: hardware's rights are the
supervisor's (R333, R386, R393). -/
def State.spillPlace (s : State) (asid va : Nat) : Except Nat (Nat × Leaf) :=
  match s.walk asid va with
  | .error level => .error (trapXlateMiss + 256 * level)
  | .ok l =>
    let bits := s.permBits .supervisor asid l false true false
    if bits ≠ 0 then .error (trapXlatePerm + 256 * bits)
    else if !modeRefuses l false && targetOf l.base = .hbm then .ok (s.oldPlace (l.pa va), l) else .error (trapXlatePerm + 512)

/-- The sectors that meet the rectangle of a record's RCB start to refill from its ring, one record every 16 cycles (R333). -/
def State.startRefill (s : State) (rcb o asid : Nat) : State :=
  let rect := rectOf (s.rcbWord rcb asid rcbCells)
  ((List.range 64).filter fun k => sectorMeets k rect).foldl (fun s k =>
    if s.expects (.spillRefill k o asid) then s else s.at (s.pcyc + 16) (.spillRefill k o asid)) s

/-- Spill a record to the ring (R333). A fault leaves it in the spill-hold buffer and is reported. -/
def State.spill (s : State) (k : Nat) (r : TaskRec) : State :=
  let o := s.ringOwner r.rcb r.asid
  let n := s.rcbWord o r.asid rcbSpTail
  let a := s.ringAddr o r.asid n
  match s.spillPlace r.asid a with
  | .ok (pa, l) =>
    let (_, s) := s.draw
    let s := ((s.touchLeaf l true).2.homeStore pa 64 (valueOf (recordBytes r (Config.imageByte s.draws))) false).2
    let base := s.rcbWord o r.asid rcbSpBase
    (({ s with spilled := s.spilled ++ [(r.asid, base, n, r)] }).setRcbWord o r.asid rcbSpTail (n + 1)).startRefill r.rcb o r.asid
  | .error code =>
    let d := s.dispatcher k
    (s.setDispatcher k { d with hold := d.hold ++ [r], faulted := d.faulted ++ [(r.rcb, r.asid)] }).deliver
      { rcb := r.rcb, asid := r.asid, code := code, pc := 0, thid := 0, addr := BitVec.ofNat 64 a, q := [], done := 0, home := r.rcb,
        redir := false, waited := false }

/-- A dispatcher probes the residency of its records' operands, ahead of the placements that weigh them (R331, R335; log 21). -/
def State.probeSoon (s : State) (k : Nat) : State :=
  if s.expects (.residencyProbe k) || !(s.dispatcher k).records.any (fun r => bitOf r.flags 1) then s else s.post (.residencyProbe k)

/-- The store takes a record (R331). -/
def State.store (s : State) (k : Nat) (r : TaskRec) : State :=
  let d := s.dispatcher k
  (s.setDispatcher k { d with records := d.records ++ [r] }).probeSoon k |>.wakeDispatcher k

/-- Whether a record names a thread that has been killed (R382). -/
def State.recordDead (s : State) (r : TaskRec) : Bool := r.thread.any fun t => (s.ctx t).imstate == .killed

/-- A record that has room goes to the store, or to the ring; one of a killed thread is dropped (R331, R333, R382). -/
def State.acceptRecord (s : State) (k : Nat) (r : TaskRec) : State :=
  if s.recordDead r then s
  else if (s.dispatcher k).records.length < Config.dispatcherStore then s.store k r else s.spill k r

/-- DISPATCHER_RECORD_ARRIVAL: a poster's record is accepted and counted, or the answer is full; a ready record of the hardware's own is
never refused (R326, R332, R333, R342; log 21). -/
def execDispatcherRecordArrival (k : Nat) (r : TaskRec) (poster : Option Nat) (s : State) : Out State :=
  match poster with
  | none => .next (if s.taskRoom k r then s.acceptRecord k r else s.store k r)
  | some tid =>
    let answer (v : Word) (s : State) : State := (s.modCtx tid fun c => { c with hold := v }).wakeAgain tid
    if s.taskRoom k r then
      let stamp := s.ticks * 2 ^ 16 + (s.ctx tid).core
      let s := match r.thread with
        | some t => s.modCtx t fun c => { c with stamp := stamp }
        | none => s
      .next (answer 0 ((s.raiseLive r.rcb r.asid).acceptRecord k { r with stamp := stamp }))
    else .next (answer 1 s)

/-- A record as its ring holds it: a task record's fields are the ring's bytes; what the dispatcher keeps beside them is its own (R326, R330,
R333). -/
def State.ringRecord (s : State) (r : TaskRec) (pa : Nat) : TaskRec :=
  match r.thread with
  | some _ => r
  | none =>
    let bs := (List.range 8).flatMap fun i => bytesOf 8 (s.view (pa + 8 * i) 8)
    let n := recordOf64 bs
    { r with entry := if n.own = r.own then r.entry else if n.own = 0 then BitVec.ofNat 64 (s.rcbWord n.rcb r.asid rcbEntry) else n.own,
             own := n.own, rcb := n.rcb, ltn := n.ltn, flags := n.flags, opnd := n.opnd, args := n.args, stamp := field bs 56 8 }

/-- A record that a dispatcher could not spill for a fault tries again; one that finds the store and the ring full stays in the spill-hold
buffer: no accepted record is lost (R333). -/
def State.retryRecord (s : State) (k : Nat) (r : TaskRec) : State :=
  let o := s.ringOwner r.rcb r.asid
  if (s.dispatcher k).records.length < Config.dispatcherStore || s.ringCount o r.asid < 2 ^ (s.rcbWord o r.asid rcbSpN % 32) then
    s.acceptRecord k r
  else s.setDispatcher k { s.dispatcher k with hold := (s.dispatcher k).hold ++ [r] }

/-- The records that dispatchers hold back, of some RCBs and not behind a fault, are tried again, in their order (R333). -/
def State.retryHeld (s : State) (p : TaskRec → Bool) : State :=
  s.dispatchers.foldl (fun (s : State) (e : Nat × Dispatcher) =>
    let d := s.dispatcher e.1
    let mine (r : TaskRec) : Bool := p r && !d.faulted.contains (r.rcb, r.asid)
    (d.hold.filter mine).foldl (fun s r => s.retryRecord e.1 r) (s.setDispatcher e.1 { d with hold := d.hold.filter fun r => !mine r })) s

/-- SPILL_REFILL: a dispatcher of the oldest record's rectangle that has room and no record of its RCB takes it from the ring (R333). -/
def execSpillRefill (k rcb asid : Nat) (s : State) : Out State :=
  if s.ringCount rcb asid = 0 then .next s
  else
    let d := s.dispatcher k
    let head := s.rcbWord rcb asid rcbSpHead
    let base := s.rcbWord rcb asid rcbSpBase
    let oldest (e : Nat × Nat × Nat × TaskRec) : Bool := e.1 == asid && e.2.1 == base && e.2.2.1 == head
    let s := match s.spilled.find? oldest, s.hwAddr asid (s.ringAddr rcb asid head) with
      | some e, some pa =>
        let r := s.ringRecord e.2.2.2 pa
        let taken (s : State) : State :=
          ({ s with spilled := s.spilled.filter fun x => !oldest x }).setRcbWord rcb asid rcbSpHead (head + 1)
        if s.recordDead r then (taken s).retryHeld fun x => s.ringOwner x.rcb x.asid == rcb && x.asid == asid
        else if d.records.length < Config.dispatcherStore && sectorMeets k (rectOf (s.rcbWord r.rcb r.asid rcbCells)) &&
            d.records.all fun x => !(x.rcb == r.rcb && x.asid == r.asid) then
          ((taken s).store k r).retryHeld fun x => s.ringOwner x.rcb x.asid == rcb && x.asid == asid
        else s
      | _, _ => s
    .next (if s.ringCount rcb asid = 0 then s else s.at (s.pcyc + 16) (.spillRefill k rcb asid))

/-- The handler of a spill fault has returned: the spills of the RCB are tried again (R333, R376). -/
def State.retrySpills (s : State) (rcb asid : Nat) : State :=
  let clear (d : Dispatcher) : Dispatcher := { d with faulted := d.faulted.filter (· != (rcb, asid)) }
  ({ s with dispatchers := s.dispatchers.map fun (e : Nat × Dispatcher) => (e.1, clear e.2) }).retryHeld fun r => r.rcb == rcb && r.asid == asid

/-! ## Eligibility (R334) -/

/-- The split that a record's thread needs; none where its header is not valid. -/
def State.recordSplit (s : State) (r : TaskRec) : Option (Nat × Nat) :=
  match r.thread with
  | some t => some (s.ctx t).split
  | none => (s.headerAt r.asid r.entry).map Header.split

/-- The first image number, from `k` on, whose occupancy bit is clear (R328). -/
def State.clearImage (s : State) (arena : Nat) : Nat → Nat → Option Nat
  | 0, _ => none
  | fuel + 1, k => if bitOf (s.view (arena + k / 8) 1) (k % 8) then s.clearImage arena fuel (k + 1) else some k

/-- The lowest free image of an RCB's arena (R328). An image that would lie where no memory exists is not free (log 51). -/
def State.freeImageNumber (s : State) (rcb asid : Nat) : Option Nat :=
  let n := bitsOf (s.rcbWord rcb asid rcbArn) 23 0
  let first := ceilDiv n 32768
  let arena := s.rcbWord rcb asid rcbArena
  (s.clearImage arena (n - first) first).filter fun k => hbmExists (arena + 4096 * k)

/-- One more resident context fits every level's budget (R325, R334). -/
def State.contextFits (s : State) (rcb asid : Nat) : Bool :=
  (s.chain rcb asid).all fun r => decide (s.rcbWord r asid rcbUse % 2 ^ 32 + 1 ≤ s.rcbWord r asid rcbBud % 2 ^ 16)

/-- The cores of a sector that may take a record now (R334); none where the entry of its space is not valid (R384). -/
def State.eligibleCores (s : State) (k : Nat) (r : TaskRec) : List Nat :=
  let states := (s.chain r.rcb r.asid).map fun p => stateOfWord (s.rcbWord p r.asid rcbState)
  let task := r.thread.isNone
  if task && !(!states.isEmpty && states.all fun st => st == 1 || (r.service && st == 2)) then []
  else if !s.contextFits r.rcb r.asid || (task && (s.freeImageNumber r.rcb r.asid).isNone) then []
  else if s.isHalted r.rcb r.asid && !r.service then []
  else if !s.asidValid r.asid then []
  else match s.recordSplit r with
    | none => []
    | some sp =>
      let rect := rectOf (s.rcbWord r.rcb r.asid rcbCells)
      let cores := match r.pinned with
        | some q => [q]
        | none => ((sectorCells k).filter (inRect rect)).flatMap fun c => (List.range 8).map (8 * c + ·)
      cores.filter fun q => s.mayTake q r.asid sp

/-! ## Placement (R335, R336) -/

/-- Priority of a record's RCB (R323). -/
def State.priority (s : State) (r : TaskRec) : Nat := s.rcbWord r.rcb r.asid rcbPri % 8

/-- The age triple of a record (R334). -/
def State.age (s : State) (r : TaskRec) : Nat × Nat × Nat :=
  (bitsOf (s.rcbWord r.rcb r.asid rcbPri) 31 16, r.stamp / 2 ^ 16, r.stamp % 2 ^ 13)

/-- The oldest of some records of a store, by position. -/
def State.oldest (s : State) (rs : List (TaskRec × Nat)) : Option (TaskRec × Nat) :=
  rs.foldl (fun b e => match b with
    | none => some e
    | some x => if olderAge (s.age e.1) (s.age x.1) then some e else b) none

/-- The record that is placed next, among those eligible, each with its position (R335). A limit lowered below a count is met. -/
def State.pick (s : State) (cands : List (TaskRec × Nat)) : Option (TaskRec × Nat) :=
  let pinned := cands.filter fun e => e.1.pinned.isSome
  if !pinned.isEmpty then s.oldest pinned
  else
    let best := (cands.map fun e => s.priority e.1).foldl max 0
    let top := cands.filter fun e => s.priority e.1 == best
    let due := top.filter fun e => decide (bitsOf (s.rcbWord e.1.rcb e.1.asid rcbPri) 15 8 ≤ e.1.bypass)
    let hits := top.filter fun e => e.1.hit
    if !due.isEmpty then s.oldest due else if !hits.isEmpty then s.oldest hits else s.oldest top

/-- Hops between two cells. -/
def hops (a b : Nat) : Nat := (cellY a - cellY b) + (cellY b - cellY a) + ((cellX a - cellX b) + (cellX b - cellX a))

/-- The core that takes a record: the last core of a ready record whose thread has run; else nearest the operand's home, then with the fewest contexts, then the
lowest number (R335). -/
def State.bestCore (s : State) (r : TaskRec) (cores : List Nat) : Option Nat :=
  let last := match r.thread with
    | some t => if (s.ctx t).started then cores.find? (· == (s.ctx t).lastCore) else none
    | none => none
  let home := s.opndHome r
  let cost (q : Nat) : Nat × Nat × Nat := ((home.map fun k => hops (cellOf q) (k / 2)).getD 0, (s.core q).slots.length, q)
  last.or (cores.foldl (fun b q => match b with
    | none => some q
    | some x => if olderAge (cost q) (cost x) then some q else b) none)

/-- Every line of a new thread's image stands in its arena (R329, R380). -/
def State.putImage (s : State) (tid : Nat) : State := (List.range 32).foldl (fun s n => s.putImageLine tid n) s

/-- A thread as it starts, but for its logical thread number's effect on the RCB (R327, R329, R330). -/
def State.newCtx (s : State) (r : TaskRec) (h : Header) (k ltn : Nat) : Ctx :=
  let w (i : Nat) : Nat := s.rcbWord r.rcb r.asid i
  let line := r.entry.toNat
  let arg (i : Nat) : Word := r.args.getD i 0
  let x := (((Vector.replicate 24 (0 : Word)).set 1 (arg 0)).set 2 (arg 1)).set 3 (arg 2)
  let tape := w rcbTape + k * h.tape
  let c := { Ctx.blank with thid := BitVec.ofNat 64 (bitsOf (w rcbState) 63 32 * 2 ^ 32 + ltn), rcb := BitVec.ofNat 64 r.rcb,
                            asid := r.asid, mode := if r.superv then .supervisor else .user, pc := r.entry, x := x, ltn := ltn }
  let c := { c with srkey := if h.seed then BitVec.ofNat 64 (w rcbSeed) else 0, tapeb := BitVec.ofNat 64 tape,
                    tapel := BitVec.ofNat 64 (tape + h.tape), tapep := BitVec.ofNat 64 tape }
  let c := { c with uthnd := (h.handler.map fun d => wordOfInt ((line : Int) + d)).getD 0, kentry := r.entry,
                    khtraps := BitVec.ofNat 32 h.traps, khthk := BitVec.ofNat 64 h.thk, khregs := h.regs, khvec := h.vec }
  { c with service := r.service, parkLimit := if h.park = 0 then w rcbLim % 2 ^ 17 else h.park, parkOwn := h.park != 0, stamp := r.stamp,
           split := h.split }

/-- Create a task's thread under its kernel's header: an image, a thread id, and its initial state, not yet in a slot (R327 to R330).
None where the arena is full. -/
def State.createThread (s : State) (r : TaskRec) (h : Header) : Option (Nat × State) :=
  match s.freeImageNumber r.rcb r.asid with
  | some k =>
    let arena := s.rcbWord r.rcb r.asid rcbArena
    let tid := arena + 4096 * k
    let b := s.view (arena + k / 8) 1
    let s := (s.homeStore (arena + k / 8) 1 (b ||| 2 ^ (k % 8)) false).2
    let auto := s.rcbWord r.rcb r.asid rcbNltn
    let ltn := if r.ltn = 2 ^ 32 - 1 then auto % 2 ^ 32 else r.ltn
    let s := if r.ltn = 2 ^ 32 - 1 then s.setRcbWord r.rcb r.asid rcbNltn ((auto + 1) % 2 ^ 32) else s
    some (tid, (s.setCtx tid (s.newCtx r h k ltn)).putImage tid)
  | none => none

/-- Place a record on a core (R336, R340). -/
def State.placeOn (s : State) (r : TaskRec) (q : Nat) : State :=
  match r.thread with
  | some t => (s.countContext r.rcb r.asid true).seat t q false r.load
  | none => match (s.headerAt r.asid r.entry).bind (s.createThread r) with
    | some (t, s) => (s.countContext r.rcb r.asid true).seat t q true none
    | none => s

/-- The four oldest records of the top priority of a store that carry an operand, by position (R335). -/
def State.toProbe (s : State) (rs : List (TaskRec × Nat)) : List Nat :=
  let best := (rs.map fun e => s.priority e.1).foldl max 0
  let top := rs.filter fun e => s.priority e.1 == best && bitOf e.1.flags 1
  let olderThan (e : TaskRec × Nat) : Nat :=
    (top.filter fun o => olderAge (s.age o.1) (s.age e.1) || (s.age o.1 == s.age e.1 && decide (o.2 < e.2))).length
  (top.filter fun e => decide (olderThan e < 4)).map Prod.snd

/-- Whether an operand hits in the sector (R335): a version PRESENT at a Mint of it; a line valid in one of its L2 slices. -/
def State.probeHits (s : State) (k : Nat) (r : TaskRec) : Bool :=
  match s.opndHome r with
  | none => false
  | some home =>
    if bitOf r.flags 0 then
      match s.hwAddr r.asid r.opnd.toNat with
      | none => false
      | some pa =>
        let at_ (d : Nat) : Nat := sliceAt d (sliceIndex (lineOf pa))
        (List.range 4).any fun d => (s.slice (at_ d)).l2.contains (lineOf pa) && sectorOf (at_ d / 2) == k
    else sectorOf (home / 2) == k && (match s.entry (opndKey r.asid r.opnd) home with
      | some e => e.st = MintSt.present
      | none => false)

/-- The records of a store that a core of the sector may take now, each with its position (R334). -/
def State.candidates (s : State) (k : Nat) : List (TaskRec × Nat) :=
  (s.dispatcher k).records.zipIdx.filter fun e => !(s.eligibleCores k e.1).isEmpty

/-- RESIDENCY_PROBE: of the records that the dispatcher holds, whether or not a core could take them now; one that is not among those
probed counts as a miss (R331, R335; log 21). -/
def execResidencyProbe (k : Nat) (s : State) : Out State :=
  let d := s.dispatcher k
  let marks := s.toProbe d.records.zipIdx
  let mark (e : TaskRec × Nat) : TaskRec :=
    if marks.contains e.2 then { e.1 with probed := true, hit := s.probeHits k e.1 } else { e.1 with probed := false, hit := false }
  .next (s.setDispatcher k { d with records := d.records.zipIdx.map mark })

/-- A dispatcher that still has records probes and looks again (R331, R335). -/
def State.lookAgain (s : State) (k : Nat) : State :=
  if (s.dispatcher k).records.isEmpty then s else (s.probeSoon k).wakeDispatcher k

/-- PLACEMENT: one record goes to a core; the older ones of its priority are passed over once more (R331, R335, R336). -/
def execPlacement (k : Nat) (s : State) : Out State :=
  let d := s.dispatcher k
  let cands := s.candidates k
  match s.pick cands with
  | none => .next (s.lookAgain k)
  | some (r, i) => match s.bestCore r (s.eligibleCores k r) with
    | none => .next (s.lookAgain k)
    | some q =>
      let passed (e : TaskRec × Nat) : Bool := r.pinned.isNone && e.2 != i && s.priority e.1 == s.priority r &&
        cands.any (fun x => x.2 == e.2) && olderAge (s.age e.1) (s.age r)
      let rest := (d.records.zipIdx.filter fun e => e.2 != i).map fun e => if passed e then { e.1 with bypass := e.1.bypass + 1 } else e.1
      .next (((s.setDispatcher k { d with records := rest }).placeOn r q).lookAgain k)

/-! ## POST and SPAWN (R342 to R344) -/

/-- The need of a read of an RCB: device memory; its alignment is a check of the record (R323, R343). -/
def rcbNeed : Need := { n := 256, align := false, r := true, noPool := some 6, onlyDevice := some 6, rdup := true }

/-- The need of a read of a kernel header (R33, R343). -/
def headerNeed : Need := { n := 64, align := false, r := true, noPool := some 1, rdup := true }

/-- The reads and checks of R343, in steps; then the rest of the instruction, at stage 3. -/
def State.taskChecks (s : State) (b : R5) (k : State → State) : State :=
  let c := s.me
  let (r, w, h) := c.taskParts
  let rec_ := recordOf64 r
  match c.stage with
  | 0 => (s.setMe { c with stallSince := some (c.stallSince.getD s.ticks) }).readInto 1 { n := 64, r := true, rdup := true } (c.xr b) 0
  | 1 =>
    if recordBad rec_ then s.trapMe (c.opTrap trapIllegalOp 13)
    else if rec_.rcb % 256 ≠ 0 then s.trapMe (c.opTrap trapIllegalOp 14)
    else s.readInto 2 rcbNeed (BitVec.ofNat 64 rec_.rcb) 0
  | 2 =>
    if rcbBad rec_ c.asid w then s.trapMe (c.opTrap trapIllegalOp 14)
    else s.readInto 3 headerNeed (entryOf rec_ w) (-64)
  | _ => if c.stage < 5 && headerBad c.mode w h then s.trapMe (c.opTrap trapIllegalOp 15) else k s

/-- Send the record and wait for the answer (R342). -/
def State.sendTask (s : State) : State :=
  let c := s.me
  let r := c.taskRec
  (s.parkStage 5).post (.dispatcherRecordArrival (s.targetSector c.core r) r (some s.cur))

/-- The answer is full: park until there is room, or until the stall limit has passed since issue (R342). -/
def State.parkRing (s : State) (b : R5) : State :=
  let c := s.me
  let limit := bitsOf (s.rcbWord c.rcb.toNat c.asid rcbLim) 63 32
  let since := c.stallSince.getD s.ticks
  if since + limit ≤ s.ticks then s.trapMe ⟨trapTaskRingFull, 0, 0, c.xr b⟩
  else ((s.setMe { c with stage := 6, hold := c.xr b }).parkCounted .ring).at (cycleOfTick (since + limit)) (.stallLimitExpiry s.cur)

/-- The four forms of POST (R342). -/
def State.postInstr (s : State) (busy : Option R5) (release : Bool) (b : R5) : Out State :=
  .next (s.taskChecks b fun s =>
    let c := s.me
    match c.stage with
    | 5 => if c.hold = 0 then (match busy with
        | some a => s.doneX a 0
        | none => s.done)
      else (match busy with
        | some a => s.doneX a 1
        | none => s.parkRing b)
    | 6 => s.sendTask
    | _ => if release then (match s.relPart 1 3 with
        | .error s => s
        | .ok s => s.sendTask)
      else s.sendTask)

/-- POST (R342). -/
def execPost (b : R5) (s : State) : Out State := s.postInstr none false b
/-- POST.N (R342). -/
def execPostN (a b : R5) (s : State) : Out State := s.postInstr (some a) false b
/-- POST.R (R342). -/
def execPostR (b : R5) (s : State) : Out State := s.postInstr none true b
/-- POST.RN (R342). -/
def execPostRn (a b : R5) (s : State) : Out State := s.postInstr (some a) true b

/-- A SPAWN whose record found no room gives back its image, and its number where no other thread has taken one since (R344; log 71). -/
def State.unspawn (s : State) (r : TaskRec) (tid : Nat) : State :=
  let s := s.freeImage r.rcb r.asid tid
  let auto := s.rcbWord r.rcb r.asid rcbNltn
  let mine := (s.ctx tid).ltn
  let s := if r.ltn = 2 ^ 32 - 1 ∧ auto = (mine + 1) % 2 ^ 32 then s.setRcbWord r.rcb r.asid rcbNltn mine else s
  (s.modCtx tid fun c => { c with imstate := .free, queued := false }).writeHeader tid

/-- SPAWN (R344): the thread starts under the header that the checks have read. The new thread is remembered in `awaits` until the answer
comes. -/
def execSpawn (a b : R5) (s : State) : Out State :=
  let r := s.me.taskRec
  let h := headerOf s.me.taskParts.2.2
  .next (s.taskChecks b fun s =>
    if s.me.stage = 5 then
      let tid := s.me.awaits
      if s.me.hold = 0 then s.doneLong a (s.ctx tid).thid
      else (s.unspawn r tid).doneLong a (BitVec.ofNat 64 (2 ^ 63 + 2))
    else match s.createThread r h with
      | none => s.doneLong a (BitVec.ofNat 64 (2 ^ 63 + 1))
      | some (tid, s) =>
        let s := s.modCtx tid fun c => { c with queued := true, lastCore := s.me.core, core := s.me.core }
        let s := s.setMe { s.me with awaits := tid }
        (s.parkStage 5).post (.dispatcherRecordArrival (s.targetSector s.me.core r)
          { s.readyRecord tid none with flags := r.flags, opnd := r.opnd } (some s.cur)))

end Sys2Proof.Machine
end

