-- ==== Sys2Proof/Machine/Teller.lean ====
section
/-! DEFINITION. The majors 0xC8 to 0xCB and the Teller (R306 to R322): requests, locks, the movement of bytes, faults, completion and
user events. -/

namespace Sys2Proof.Machine

/-! ## Requests (R308 to R311) -/

/-- The operation of a request: 0 COPY, 1 TOVER, 2 FROMV, 3 REDADD, 4 FILL. -/
def trOp (q0 : Nat) : Nat := q0 % 16
/-- Whether the shape comes from the parameter block. -/
def tr2d (q0 : Nat) : Bool := bitOf q0 6
/-- The element format of a REDADD. -/
def trFmt (q0 : Nat) : Nat := bitsOf q0 15 12
/-- Element bytes of a REDADD. -/
def trSize (q0 : Nat) : Nat := codeWidth (trFmt q0) / 8
/-- `TRLEN`. -/
def trLen (q3 : Nat) : Nat := bitsOf q3 63 40
/-- `TRPB`. -/
def trBlock (q3 : Nat) : Nat := bitsOf q3 16 0

/-- Whether word 0 is well formed (R308). -/
def trWord0 (q0 : Nat) : Bool :=
  bitsOf q0 47 24 == 0 && bitsOf q0 20 16 == 0 && bitsOf q0 11 8 == 0 && bitsOf q0 5 4 == 0 && decide (trOp q0 ≤ 4) &&
    (if trOp q0 = 3 then [0, 1, 2, 8, 9].contains (trFmt q0) else trFmt q0 == 0)

/-- The first word of a request that breaks R308 or R309. -/
def requestFault (q0 q1 q2 q3 : Nat) : Option Nat :=
  let red := trOp q0 == 3
  let z := trSize q0
  if !trWord0 q0 then some 0
  else if red && q1 % z != 0 then some 1
  else if red && (bitsOf q2 63 62 != 0 || q2 % z != 0) then some 2
  else if bitsOf q3 39 17 ≠ 0 ∨ (if tr2d q0 then trLen q3 ≠ 0 else trLen q3 = 0) ∨ (red && trLen q3 % z != 0) then some 3
  else none

/-- The shape of an operation: rows, bytes of a row, strides, handler (R309, R310). -/
structure TelShape where
  rows : Nat
  rlen : Nat
  sstr : Int
  dstr : Int
  hnd : Word
  deriving DecidableEq, Repr

/-- The shape of a request from its parameter block, which is empty where there is none (R309, R310). -/
def telShape (q0 q3 : Nat) (bs : List Byte) : TelShape :=
  let hnd := BitVec.ofNat 64 (field bs 0 8)
  if tr2d q0 then ⟨field bs 8 4, field bs 12 4, signedOf 64 (field bs 16 8), signedOf 64 (field bs 24 8), hnd⟩
  else ⟨1, trLen q3, 0, 0, hnd⟩

/-- Whether a parameter block is well formed for a request (R309, R310). -/
def blockOk (q0 : Nat) (bs : List Byte) : Bool :=
  let rows := field bs 8 4
  let rlen := field bs 12 4
  let z : Int := trSize q0
  field bs 40 8 == 0 && (!tr2d q0 || (decide (1 ≤ rows ∧ rows ≤ 65535 ∧ 1 ≤ rlen ∧ rlen < 2 ^ 24) &&
    (trOp q0 != 3 || ((rlen : Int) % z == 0 && (rows == 1 || (signedOf 64 (field bs 16 8) % z == 0 && signedOf 64 (field bs 24 8) % z == 0))))))

/-- The parameter block of a request (R310, R312): empty where there is none. -/
def State.paramBlock (s : State) (q0 q3 : Nat) : Except Trap (List Byte) :=
  let c := s.me
  let off := trBlock q3
  let k := cellOf c.core
  let a := (PoolAddr.mk (cellY k) (cellX k) (c.core % 8) off).absolute
  if off = 0 then (if tr2d q0 then .error (c.opTrap trapIllegalOp 13) else .ok [])
  else if !s.inPad c.core off 48 then .error ⟨trapAddrSpace, 4, 0, a⟩
  else if off % 16 ≠ 0 then .error ⟨trapAddrAlign, 16, 0, a⟩
  else
    let bs := s.readBytes (poolBase c.core + off) 48
    if blockOk q0 bs then .ok bs else .error (c.opTrap trapIllegalOp 12)

/-- The key record of a request (R311): its bytes, or the state that traps or waits for them. -/
def State.keyRecord (s : State) (a : Word) : Except State (List Byte) :=
  let c := s.me
  match resolve c.core a 0 0 with
  | .error e => .error (s.stopMe e)
  | .ok (.pool p) =>
    if p.pkgCore ≠ c.core ∨ !s.inPad c.core p.off 16 then .error (s.stopMe (spaceTrap 4 a 0))
    else if p.off % 16 ≠ 0 then .error (s.trapMe ⟨trapAddrAlign, 16, 0, a⟩)
    else .ok (s.readBytes (poolBase c.core + p.off) 16)
  | .ok (.word _) => if c.stage = 0 then .error (s.readStruct a 0 16) else .ok c.buf

/-! ## Ranges and locks (R89, R90, R312, R313) -/

/-- The lock of one range of a request: its cell, and the entry for its owner; or the trap of its space. -/
def State.telRange (s : State) (kind : Nat) (a : Word) (rows rlen : Nat) (stride : Int) (owner : Nat) : Except Stop (Nat × Lock) :=
  let c := s.me
  let far := ((rows : Int) - 1) * stride
  match resolve c.core a (min 0 far) 0, resolve c.core a (max 0 far + rlen - 1) 0 with
  | .error e, _ => .error e
  | _, .error e => .error e
  | .ok (.word lo), .ok (.word hi) => .ok (cellOf c.core, ⟨kind, true, c.asid, lo, hi, owner⟩)
  | .ok (.pool lo), .ok (.pool hi) =>
    .ok (cellOf lo.pkgCore, ⟨kind, false, c.asid, poolBase lo.pkgCore + lo.off, poolBase hi.pkgCore + hi.off, owner⟩)
  | _, _ => .error (spaceTrap 3 a 0)

/-- The locks of a request (R313). -/
def State.telLocks (s : State) (op : Nat) (q1 q2 : Word) (h : TelShape) (owner : Nat) : Except Stop (List (Nat × Lock)) :=
  let one (k : Nat) (a : Word) (st : Int) : Except Stop (List (Nat × Lock)) :=
    match s.telRange k a h.rows h.rlen st owner with
    | .error e => .error e
    | .ok l => .ok [l]
  let src := if op = 2 ∨ op = 4 then .ok [] else one 0 q1 h.sstr
  let dst := if op = 1 then .ok [] else one 1 q2 h.dstr
  match src, dst with
  | .error e, _ => .error e
  | _, .error e => .error e
  | .ok a, .ok b => .ok (a ++ b)

/-- Enter locks at the lowest free entries; none where a table has no room (R94, R313). -/
def State.enterLocks (s : State) : List (Nat × Lock) → Option (State × List (Nat × Nat))
  | [] => some (s, [])
  | (cell, l) :: r =>
    match (List.range Config.lockEntries).find? fun i => ((s.cell cell).locks.find? i).isNone with
    | none => none
    | some e =>
      let t := s.setCell cell { s.cell cell with locks := (s.cell cell).locks.set e l }
      (t.enterLocks r).map fun x => (x.1, (cell, e) :: x.2)

/-- Release an operation's locks, those that still are its own (R313). -/
def State.leaveLocks (s : State) (owner : Nat) (ls : List (Nat × Nat)) : State :=
  ls.foldl (fun s e => s.setCell e.1 { s.cell e.1 with
    locks := (s.cell e.1).locks.filter fun l => !(l.1 == e.2 && l.2.owner == owner && decide (l.2.kind < 2)) }) s

/-! ## Room (R306, R307, R312) -/

/-- The FIFO of a core in its cell. -/
def State.fifo (s : State) (core : Nat) : List TelOp := (s.cell (cellOf core)).fifos.get core []

/-- Operations that a cell's Teller holds. -/
def Cell.held (c : Cell) : List TelOp := c.fifos.flatMap (fun e => e.2) ++ c.flight

/-- Whether one more operation fits the Teller quota at every level (R307, R325). -/
def State.telQuotaFits (s : State) (cell rcb asid : Nat) : Bool :=
  let ops := (s.cell cell).held
  (s.chain rcb asid).all fun r =>
    decide ((ops.filter fun o => o.rcbAsid == asid && (s.chain o.rcb o.rcbAsid).contains r).length + 1 ≤ bitsOf (s.rcbWord r asid 4) 23 16)

/-- Why a request finds no room: 1 FIFO, 3 quota (R312); the locks are tried when they are entered. -/
def State.telBusy (s : State) (core rcb asid : Nat) : Option Nat :=
  if (s.fifo core).length ≥ 8 then some 1
  else if !s.telQuotaFits (cellOf core) rcb asid then some 3
  else none

/-! ## Issue (R312) -/

/-- Append an accepted request to its FIFO (R312). -/
def State.acceptTel (s : State) (o : TelOp) : State :=
  let cell := cellOf o.src.core
  let k := s.cell cell
  let s := s.setCell cell { k with fifos := k.fifos.set o.src.core (k.fifos.get o.src.core [] ++ [o]) }
  (s.setMe { s.me with telout := s.me.telout + 1 }).post (.tellerOpStart cell)

/-- The key of a request, for TOVER and FROMV: its descriptor, key and `KRRDR`; `none` for the others; or the state that traps or
waits (R311, R312). -/
def State.telKey (s : State) (op : Nat) (q1 q2 : Word) : Except State (State × Option (Key × Desc × Nat)) :=
  if op ≠ 1 ∧ op ≠ 2 then .ok (s, none)
  else match s.keyRecord (if op = 1 then q2 else q1) with
    | .error t => .error t
    | .ok bs =>
      let k : Key := ⟨s.me.asid, field bs 0 2, field bs 2 2 % 2 ^ 12, field bs 4 2 % 2 ^ 12, field bs 8 4 % 2 ^ 24⟩
      match s.keyPhase s.me k with
      | .error t => .error (s.trapMe t)
      | .ok (d, s) => .ok (s, some (k, d, field bs 12 2))

/-- Whether the bytes of an operation fit its tile (R309). -/
def tileFits (op total : Nat) (d : Desc) : Bool := if op = 1 then total == descBytes d else decide (total ≤ descBytes d)

/-- What TEL reads at issue from its own scratchpad, the parameter block and a key record, finds the thread's earlier stores performed;
what the Teller reads later need not (R115, R156, R160). -/
def State.landForTel (s : State) (b : R5) : State :=
  let c := s.me
  let x (i : Nat) : Nat := (c.xr (BitVec.ofNat 5 (b.toNat + i))).toNat
  let pad (a : Nat) : Bool := s.storesTo s.cur (poolBase c.core + a) 48
  let key (w : Nat) : Bool := match resolve c.core (BitVec.ofNat 64 w) 0 0 with
    | .ok (.pool p) => s.storesTo s.cur (poolBase p.pkgCore + p.off) 16
    | _ => false
  if pad (trBlock (x 3)) || key (x 1) || key (x 2) then s.landStores s.cur else s

/-- The checks of TEL and TELN, each precise: the request as it will be accepted, with its locks; or the state that traps or waits
(R312). -/
def State.telCheck (s : State) (b : R5) : Except State (State × TelOp × List (Nat × Lock)) :=
  let s := s.landForTel b
  let c := s.me
  let x (i : Nat) : Word := c.xr (BitVec.ofNat 5 (b.toNat + i))
  let q0 := (x 0).toNat
  let q3 := (x 3).toNat
  let op := trOp q0
  match requestFault q0 (x 1).toNat (x 2).toNat q3 with
  | some w => .error (s.trapMe (c.opTrap trapIllegalOp (8 + w)))
  | none => match s.paramBlock q0 q3 with
    | .error t => .error (s.trapMe t)
    | .ok bs =>
      let h := telShape q0 q3 bs
      match s.telKey op (x 1) (x 2) with
      | .error t => .error t
      | .ok (s, key) =>
        if key.any fun k => !tileFits op (h.rows * h.rlen) k.2.1 then
          .error (s.trapMe (c.opTrap trapIllegalOp (if tr2d q0 then 12 else 11)))
        else match s.telLocks op (x 1) (x 2) h 0 with
          | .error e => .error (s.stopMe e)
          | .ok ls =>
            let use : KeyUse := if op = 1 then .tover (cellOf c.core) 0
              else .fromv (cellOf c.core) 0 ((key.map fun k => k.2.2 == 1).getD false)
            .ok (s, { id := 0, src := s.src, mode := c.mode, rcb := c.rcb.toNat, rcbAsid := c.asid, q := [x 0, x 1, x 2, x 3],
                      rows := h.rows, rlen := h.rlen, sstr := h.sstr, dstr := h.dstr, hnd := h.hnd,
                      key := key.map fun k => s.keyReqOf k.1 k.2.1 use k.2.2, locks := [],
                      started := false, ready := false, left := [], bytes := 0, tile := [], part := [], applied := [], acks := 0,
                      replays := 0, finish := none, stopped := 0, posted := false }, ls)

/-- The number that a key's use carries for its operation. -/
def numbered (id : Nat) (q : KeyReq) : KeyReq :=
  match q.use with
  | .tover c _ => { q with use := .tover c id }
  | .fromv c _ k => { q with use := .fromv c id k }
  | _ => q

/-- A request that has passed its checks: the release of a form with `.F`, then room, locks and the FIFO (R312). `busy` says what a request
without room does, given the cause, `ok` what an accepted one does. -/
def State.telSend (s : State) (release : Bool) (o : TelOp) (ls : List (Nat × Lock)) (busy : Nat → State → State) (ok : State → State) :
    State :=
  match (if release then (s.landStores s.cur).relPart 4 10 else .ok s) with
  | .error t => t
  | .ok s => match s.telBusy o.src.core o.rcb o.rcbAsid with
    | some n => busy n s
    | none =>
      let id := s.serial
      match s.enterLocks (ls.map fun l => (l.1, { l.2 with owner := id })) with
      | none => busy 2 s
      | some (s, locks) =>
        ok ({ s with serial := id + 1 }.acceptTel { o with id := id, key := o.key.map (numbered id), locks := locks })

/-- TEL and TELN (R312): the checks are made once; a request that waits after them keeps what they have read. -/
def State.telInstr (s : State) (release : Bool) (b : R5) (busy : Nat → State → State) (ok : State → State) : State :=
  match s.me.telReq with
  | some r => s.telSend release r.1 r.2 busy ok
  | none => match s.telCheck b with
    | .error t => t
    | .ok (s, o, ls) => (s.setMe { s.me with telReq := some (o, ls) }).telSend release o ls busy ok

/-- Whether the request that a context holds has room (R64, R312). -/
def State.telRoom (s : State) (c : Ctx) : Bool :=
  match c.telReq with
  | none => true
  | some (o, ls) => (s.telBusy o.src.core o.rcb o.rcbAsid).isNone && (s.enterLocks ls).isSome

/-- TEL and TEL.F (R312): without room the context is not ready. -/
def execTel (f : F6) (b : R5) (s : State) : Out State :=
  .next (s.telInstr (f.getLsbD 0) b (fun _ s => s.parkMe .tellerRoom) State.done)

/-- TELN and TELN.F (R312, R321). -/
def execTeln (f : F6) (a b c : R5) (s : State) : Out State :=
  let answer (yes : Bool) (n : Nat) (s : State) : State := s.finish fun x => (x.setP a.toNat yes).setX c (BitVec.ofNat 64 n)
  .next (s.telInstr (f.getLsbD 0) b (answer false) (answer true 0))

/-! ## Queries (R321) -/

/-- A Teller query's answer; a 0 acts as FENCE.ACQ.CELL (R156, R321). -/
def State.telAnswer (s : State) (a : R5) (n : Nat) : State :=
  let r := Reply.of s.cur [.x a (BitVec.ofNat 64 n) none] false
  (s.finish (·.pendX a)).post (.longResultArrival { r with acquire := n == 0 })

/-- TELQ (R321). -/
def execTelq (a : R5) (s : State) : Out State := .next (s.telAnswer a s.me.telout)

/-- TELQ.W (R321). -/
def execTelqW (a : R5) (s : State) : Out State :=
  if s.me.telout ≠ 0 then .next (s.parkCounted .teller)
  else .next ((s.selfInvalidate s.me.core).doneX a 0)

/-! ## User events (R318, R319) -/

/-- USER_EVENT_ENTRY: the oldest pending event is taken before an instruction issues; as FENCE.ACQ.CELL, the handler waits for the loads in
flight (R144, R156, R318). -/
def execUserEventEntry (tid : Nat) (s : State) : Out State :=
  let c := s.ctx tid
  match c.events with
  | [] => .next s
  | (id, h) :: r =>
    let d := { c with evid := BitVec.ofNat 16 id.toNat, evpc := c.pc, pred := putBit c.pred 16 false, events := r,
                      park := if s.loading tid then some .loads else none }
    .next ((s.setCtx tid (d.enter (if h ≠ 0 then h else c.uehnd))).selfInvalidate c.core)

/-- UERET (R319). -/
def execUeret (s : State) : Out State :=
  .next (s.setMe (({ s.me with pred := putBit s.me.pred 16 true } : Ctx).jump s.me.evpc))

/-! ## Bytes (R314, R315) -/

/-- What keeps the Teller from a byte: a fault, a page operation with the address it holds, a half of host memory that the bridge does not
hold, the source of a TLDP at the basic level that must be copied first (R266). -/
inductive TelStop where
  | fault (code : Nat) (addr : Word)
  | held (die slot pa : Nat)
  | half (l : Lane)
  | source (cell entry : Nat)
  deriving DecidableEq, Repr

/-- An operation in flight. -/
def Cell.op (c : Cell) (id : Nat) : Option TelOp := c.flight.find? fun o => o.id == id

/-- Change an operation in flight. -/
def State.modOp (s : State) (cell id : Nat) (f : TelOp → TelOp) : State :=
  s.setCell cell { s.cell cell with flight := (s.cell cell).flight.map fun o => if o.id = id then f o else o }

/-- The translation that the Teller finds: in the die's shared cache, or by a walk (R314, R386, R387). -/
def State.telLeaf (s : State) (die asid va : Nat) (store : Bool) : Except Nat Leaf :=
  match ((s.die die).tlb.find? (·.serves asid va)).map fun e => (⟨e.leaf, e.pte, e.big⟩ : Leaf) with
  | some l =>
    if bitOf l.word.toNat 13 && (!store || bitOf l.word.toNat 12) then .ok l
    else
      let cur := s.view l.pte 8
      if sameLeaf cur l.word.toNat then .ok { l with word := BitVec.ofNat 64 cur } else s.walk asid va
  | none => s.walk asid va

/-- Keep a translation in the die's cache (R387). -/
def State.fillDie (s : State) (die asid va : Nat) (l : Leaf) : State :=
  let e : TlbEntry := { asid := asid, vpn := if l.big then va / 2 ^ 21 * 32 else va / 2 ^ 16, big := l.big, leaf := l.word,
                        pte := l.pte }
  let (v, s) := s.draw
  s.setDie die { s.die die with tlb := tlbInsert (s.die die).tlb 16384 e v.toNat }

/-- The physical address of a virtual one for an operation (R314, R315); A and D are set as for any access (R386). -/
def State.telPlace (s : State) (o : TelOp) (va : Nat) (store device : Bool) : Except TelStop (Nat × State) :=
  let die := dieOf o.src.core
  let bad (code detail : Nat) : TelStop := .fault (code + 256 * detail) (BitVec.ofNat 64 va)
  match s.telLeaf die o.src.asid va store with
  | .error level => .error (bad trapXlateMiss level)
  | .ok l =>
    let bits := s.permBits o.mode o.src.asid l (!store) store false
    if bits ≠ 0 then .error (bad trapXlatePerm bits)
    else if modeRefuses l (!store) then .error (bad trapPageMode l.mode)
    else
      let pa := l.pa va
      match targetOf l.base with
      | .hbm =>
        let pa := if l.mode = 2 then pa % 2 ^ 38 + 2 ^ 38 * nearestCopy l.mask die else pa
        match s.pageHolding pa with
        | some (d, slot) => .error (.held d slot pa)
        | none =>
          let t := s.touchLeaf l store
          .ok (pa, (t.2.fillDie die o.src.asid va t.1).rekey (lineOf pa) l.key)
      | .host => if device then .error (bad trapAddrSpace 6) else .ok (pa, s)
      | _ => .error (bad trapAddrSpace 6)

/-- A bank's answer to the Teller (R93, R94, R266, R315): its own and other Teller locks do not count. -/
def State.telBank (s : State) (o : TelOp) (p : PoolAddr) (n : Nat) (store : Bool) : Option TelStop :=
  let q := p.pkgCore
  let a := p.absolute
  if s.coreGone q then some (.fault (trapAddrSpace + 256 * 4) a)
  else match s.bankRefuses q p.off n o.src.asid with
    | some d => some (.fault (trapAddrSpace + 256 * d) a)
    | none =>
      let ls : SMap Lock := (s.cell (cellOf q)).locks.filter fun e => decide (e.2.kind ≥ 2)
      match lockHit ls false o.src.asid (poolBase q + p.off) n store with
      | some (k, x) => some (if x.kind == 2 then .source (cellOf q) k else .fault (trapRangeLocked + 256 * k) a)
      | none => none

/-- The source displacement of byte `n` of an operation (R309). -/
def TelOp.srcDisp (o : TelOp) (n : Nat) : Int := ((n / o.rlen : Nat) : Int) * o.sstr + ((n % o.rlen : Nat) : Int)

/-- A byte of host memory that the bridge holds, with its mark (R101, R422). -/
def State.hostByte (s : State) (pa : Nat) : Option (Byte × Bool) :=
  (s.bridge.find? (pa / 64)).map fun h => (BitVec.ofNat 8 (h.data.toNat / 2 ^ (8 * (pa % 64))), h.pois.getLsbD (pa % 64 / 8))

/-- The unified address of a source byte, which its bank or its page lets the operation read (R314, R315). -/
def State.telAddr (s : State) (o : TelOp) (a : Word) (disp : Int) : Except TelStop (Nat × State) :=
  match resolve o.src.core a disp 0 with
  | .error _ => .error (.fault (trapAddrSpace + 256 * 3) (formed a disp))
  | .ok (.pool p) => match s.telBank o p 1 false with
    | some e => .error e
    | none => .ok (poolBase p.pkgCore + p.off, s)
  | .ok (.word va) => s.telPlace o va false false

/-- The aligned 8-byte word around an address, read at once, each byte with its mark (R314). -/
def State.telWord (s : State) (u : Nat) : Except TelStop (List (Byte × Bool) × State) :=
  let w := u / 8 * 8
  if !isPool u && targetOf u == .host then
    match (List.range 8).mapM fun i => s.hostByte (w + i) with
    | some bs => .ok (bs, s)
    | none => .error (.half ⟨u / 64 * 64, u / 64 * 64, 64, 0, 0, 0, 0, 0, false⟩)
  else
    let s := if isPool u then s else s.homeRead (lineOf u)
    .ok ((List.range 8).map fun i => (s.byte (w + i), s.poisonAt w 8), s)

/-- The key under which a source word of a row is kept. -/
def TelOp.wordKey (o : TelOp) (n u : Nat) : Nat := n / o.rlen * 2 ^ 61 + u / 8

/-- Whether a word, met at byte `n`, has bytes in its row outside a run of bytes. -/
def TelOp.straddles (o : TelOp) (n u first last : Nat) : Bool :=
  decide (n - min (u % 8) (n % o.rlen) < first ∨ last < n + min (7 - u % 8) (o.rlen - 1 - n % o.rlen))

/-- Read a run of source bytes by their numbers: each aligned word of a row once, whole (R314). The answer holds the bytes, and the words
that other units use too. -/
def State.telReads (s : State) (o : TelOp) (a : Word) (first last : Nat) (cur : Option (Nat × List (Byte × Bool))) :
    List Nat → Except TelStop (List (Byte × Bool) × List (Nat × List (Byte × Bool)) × State)
  | [] => .ok ([], [], s)
  | n :: r => match s.telAddr o a (o.srcDisp n) with
    | .error e => .error e
    | .ok (u, s) =>
      let key := o.wordKey n u
      match (cur.filter fun k => k.1 == key).or (o.part.find? fun k => k.1 == key) with
      | some k => match s.telReads o a first last (some k) r with
        | .error e => .error e
        | .ok (bs, ks, s) => .ok (k.2.getD (u % 8) (0, false) :: bs, ks, s)
      | none => match s.telWord u with
        | .error e => .error e
        | .ok (w, s) => match s.telReads o a first last (some (key, w)) r with
          | .error e => .error e
          | .ok (bs, ks, s) => .ok (w.getD (u % 8) (0, false) :: bs, if o.straddles n u first last then (key, w) :: ks else ks, s)

/-- Read `len` source bytes from byte `n` on; the words that another unit shares are kept (R314). -/
def State.telRun (s : State) (cell : Nat) (o : TelOp) (n len : Nat) : Except TelStop (List (Byte × Bool) × State) :=
  match s.telReads o (o.q.getD 1 0) n (n + len - 1) none ((List.range len).map (n + ·)) with
  | .error e => .error e
  | .ok (bs, ks, s) => .ok (bs, s.modOp cell o.id fun x => { x with part := x.part ++ ks })

/-- Mark the words of a run whose bytes carry marks (R101). -/
def State.markBytes (s : State) (a : Nat) (bs : List (Byte × Bool)) : State :=
  bs.zipIdx.foldl (fun (s : State) p => if p.1.2 then s.poison (a + p.2) 1 else s) s

/-- The bytes of a run by the aligned 8-byte words that they lie in, each part with its address. -/
def wordRuns (a : Nat) (bs : List (Byte × Bool)) : List (Nat × List (Byte × Bool)) :=
  ((List.range ((a + bs.length + 7) / 8 - a / 8)).map fun k =>
    let lo := max a (8 * (a / 8 + k))
    (lo, (bs.drop (lo - a)).take (8 * (a / 8 + k + 1) - lo))).filter fun w => !w.2.isEmpty

/-- Write the bytes of one beat, which lie on one line or in one pool, from a displacement on (R140, R314). -/
def State.telWrite (s : State) (o : TelOp) (a : Word) (disp : Int) (bs : List (Byte × Bool)) : Except TelStop State :=
  let v := valueOf (bs.map Prod.fst)
  let n := bs.length
  match resolve o.src.core a disp 0 with
  | .error _ => .error (.fault (trapAddrSpace + 256 * 3) (formed a disp))
  | .ok (.pool p) => match s.telBank o p n true with
    | some e => .error e
    | none =>
      let u := poolBase p.pkgCore + p.off
      .ok ((s.writeMarked u n v false).markBytes u bs)
  | .ok (.word va) => match s.telPlace o va true false with
    | .error e => .error e
    | .ok (pa, s) =>
      if targetOf pa = .host then
        let ws := wordRuns pa bs
        let lane (w : Nat × List (Byte × Bool)) : Lane := ⟨w.1, va + (w.1 - pa), w.2.length, 0, 0, 0, 0, 0, w.2.any Prod.snd⟩
        .ok (s.post (.bridgeDeviceAccess ⟨o.src, ws.map lane, .none, true, false⟩ (.store (ws.map fun w => valueOf (w.2.map Prod.fst)) false)))
      else .ok ((s.homeStore pa n v false).2.markBytes pa bs)

/-! ## Units (R309, R314) -/

/-- The beats of a destination row, numbered within the row; a beat is 32 aligned bytes of the destination. -/
def rowBeats (start rlen : Nat) : Nat := (start % 32 + rlen + 31) / 32

/-- The units of an operation: destination beats as row × 2^20 + beat; 32-byte pieces of a tile for TOVER; segments of 64 KiB for
REDADD (R314, R316). -/
def TelOp.units (o : TelOp) : List Nat :=
  let op := trOp (o.q.getD 0 0).toNat
  let total := o.rows * o.rlen
  if op = 1 then List.range (ceilDiv total 32)
  else if op = 3 then List.range (ceilDiv total 65536)
  else
    let dst := (o.q.getD 2 0).toNat
    (List.range o.rows).flatMap fun r =>
      (List.range (rowBeats ((((dst : Nat) : Int) + ((r : Nat) : Int) * o.dstr) % 32).toNat o.rlen)).map fun k => r * 2 ^ 20 + k

/-- The bytes of a row that a beat covers: first column and length. -/
def TelOp.beat (o : TelOp) (u : Nat) : Nat × Nat × Nat :=
  let r : Nat := u / 2 ^ 20
  let start := ((((o.q.getD 2 0).toNat : Int) + ((r : Nat) : Int) * o.dstr) % 32).toNat
  let lo : Nat := 32 * (u % 2 ^ 20) - start
  let hi : Nat := min o.rlen (32 * (u % 2 ^ 20 + 1) - start)
  (r, lo, hi - lo)

/-- The words of a version that carry marks. -/
def State.versionMarks (s : State) (o : TelOp) : List Nat :=
  ((o.key.bind fun q => s.entry q.key q.home).map MintEntry.marks).getD []

/-- The source bytes of `len` bytes from column `lo` of row `r` (R309, R314). -/
def State.telSource (s : State) (cell : Nat) (o : TelOp) (r lo len : Nat) : Except TelStop (List (Byte × Bool) × State) :=
  let q1 := o.q.getD 1 0
  match trOp (o.q.getD 0 0).toNat with
  | 2 =>
    let marks := s.versionMarks o
    .ok ((List.range len).map fun i =>
      let n := r * o.rlen + lo + i
      (o.tile.getD n 0, marks.contains (n / 8)), s)
  | 4 => .ok ((List.range len).map fun i =>
      (BitVec.ofNat 8 (q1.toNat / 2 ^ (8 * (((r : Int) * o.dstr + (lo + i : Nat)) % 8).toNat)), false), s)
  | _ => s.telRun cell o (r * o.rlen + lo) len

/-- Move one unit of an operation (R314). -/
def State.telUnit (s : State) (cell : Nat) (o : TelOp) (u : Nat) : Except TelStop State :=
  let took (s : State) (n : Nat) (f : TelOp → TelOp) : State :=
    s.modOp cell o.id fun o => { f o with left := o.left.filter (· ≠ u), bytes := o.bytes + n }
  if trOp (o.q.getD 0 0).toNat = 1 then
    let len := min 32 (o.rows * o.rlen - 32 * u)
    match s.telRun cell o (32 * u) len with
    | .error e => .error e
    | .ok (bs, s) => match bs.findIdx? Prod.snd with
      | some i => .error (.fault trapMemPoison (formed (o.q.getD 1 0) (o.srcDisp (32 * u + i))))
      | none => .ok (took s len fun o => { o with tile := o.tile.take (32 * u) ++ bs.map Prod.fst ++ o.tile.drop (32 * u + len) })
  else
    let (r, lo, len) := o.beat u
    match s.telSource cell o r lo len with
    | .error e => .error e
    | .ok (bs, s) => match s.telWrite o (o.q.getD 2 0) ((r : Int) * o.dstr + lo) bs with
      | .error e => .error e
      | .ok s => .ok (took s len id)

/-- What a stop does: the fault, the page's queue, or a fetch of the half, after which the unit is tried again (R170, R315, R422). -/
def State.telStopped (s : State) (cell : Nat) (o : TelOp) (unit : Nat) (e : TelStop) : State :=
  match e with
  | .fault code a => s.post (.tellerFault cell o.id code a)
  | .held die slot pa => s.hold die slot (.teller cell o.id unit pa)
  | .half l =>
    let q : Event := .bridgeDeviceAccess ⟨o.src, [l], .none, true, false⟩ .load
    let s := if s.pending.contains q || s.bridgeWait.any (fun w => w.1.lanes == [l] && w.1.src == o.src) then s else s.post q
    s.at (s.pcyc + 1) (.tellerOpCompletion cell o.id)
  | .source c k => (s.startCopy c k).at (s.pcyc + 1) (.tellerOpCompletion cell o.id)

/-- One unit is moved, or what stops it happens (R314, R315). -/
def State.telMove (s : State) (cell : Nat) (o : TelOp) (u : Nat) : State :=
  match s.telUnit cell o u with
  | .error e => s.telStopped cell o u e
  | .ok s => s.post (.tellerOpCompletion cell o.id)

/-- The source bytes of a unit: the number of the first, and how many. -/
def TelOp.sourceOf (o : TelOp) (u : Nat) : Nat × Nat :=
  if trOp (o.q.getD 0 0).toNat = 1 then (32 * u, min 32 (o.rows * o.rlen - 32 * u))
  else
    let (r, lo, len) := o.beat u
    (r * o.rlen + lo, len)

/-- Whether an operation's source lies in memory. -/
def TelOp.reads (o : TelOp) : Bool := !([2, 4].contains (trOp (o.q.getD 0 0).toNat))

/-- The home slices of a unit's bytes: those of its first and last source bytes, and of its destination. -/
def State.unitSlices (s : State) (o : TelOp) (u : Nat) : List Nat :=
  let at_ (store : Bool) (a : Word) (d : Int) : List Nat :=
    match resolve o.src.core a d 0 with
    | .ok (.word va) => (match s.telPlace o va store false with
      | .ok (pa, _) => if targetOf pa == .hbm then [homeSlice (lineOf pa)] else []
      | .error _ => [])
    | _ => []
  let (n, len) := o.sourceOf u
  let src := if o.reads then at_ false (o.q.getD 1 0) (o.srcDisp n) ++ at_ false (o.q.getD 1 0) (o.srcDisp (n + len - 1)) else []
  let dst := if trOp (o.q.getD 0 0).toNat = 1 then []
    else
      let (r, lo, _) := o.beat u
      at_ true (o.q.getD 2 0) ((r : Int) * o.dstr + lo)
  src ++ dst

/-- Whether a slice of a unit has accepted a message of a higher plane in this cycle: the unit's requests, on plane 0, then arrive in a later
one (R14, R430). -/
def State.telLate (s : State) (o : TelOp) (u : Nat) : Bool := (s.unitSlices o u).any fun k => decide (0 < s.accepted.get k 0)

/-- An operation goes on with a unit: a source word of it is read ahead of the others, or the rest of it is read and it is written; a free
value chooses, for a beat's words arrive in any order (R160, R314). -/
def State.telStep (s : State) (cell : Nat) (o : TelOp) (u : Nat) : State :=
  if s.telLate o u then s.at (s.pcyc + 1) (.tellerOpCompletion cell o.id)
  else
    let (v, s) := s.draw
    let (n, len) := o.sourceOf u
    if o.reads && v.getLsbD 0 then
      match s.telRun cell o (n + v.toNat / 2 % len) 1 with
      | .error e => s.telStopped cell o u e
      | .ok (_, t) => match (t.cell cell).op o.id with
        | some x => if x.part.length = o.part.length then s.telMove cell o u else t.post (.tellerOpCompletion cell o.id)
        | none => t
    else s.telMove cell o u

/-! ## Start (R306, R314) -/

/-- The core whose FIFO is served next: the first that is not empty, in turn. -/
def Cell.nextFifo (c : Cell) (cell : Nat) : Option Nat :=
  ((List.range 8).map fun k => 8 * cell + (c.turn + k) % 8).find? fun q => !(c.fifos.get q []).isEmpty

/-- The first step of an operation: TOVER reserves its key, FROMV pins it, REDADD stages its first segment, the others move (R314, R316). -/
def State.telBegin (s : State) (cell : Nat) (o : TelOp) : State :=
  match trOp (o.q.getD 0 0).toNat, o.key with
  | 1, some q => if q.desc.remote then s.sendKey q 5 [] else s.post (.mintReserve q)
  | 2, some q => s.post (.mintReference q)
  | 3, _ => s.post (.redaddSegment cell o.id)
  | _, _ => s.post (.tellerOpCompletion cell o.id)

/-- TELLER_OP_START: free places of the in-flight set are filled from the FIFOs, round-robin; TOVER reserves its key and FROMV pins its
key first (R306, R314). -/
def execTellerOpStart (cell : Nat) (s : State) : Out State :=
  let k := s.cell cell
  if k.flight.length ≥ Config.tellerInFlight then .next s
  else match k.nextFifo cell with
    | none => .next s
    | some q => match k.fifos.get q [] with
      | [] => .next s
      | o :: r =>
        let total := o.rows * o.rlen
        let o := { o with started := true, left := o.units, tile := if trOp (o.q.getD 0 0).toNat = 1 then List.replicate total 0 else [] }
        let k := { k with fifos := k.fifos.set q r, flight := k.flight ++ [o], turn := (q + 1) % 8 }
        let s := (s.setCell cell k).post (.tellerOpStart cell)
        .next (s.telBegin cell o)

/-! ## Faults (R315) -/

/-- Causes that the handler may have replayed. -/
def replayable (code : Nat) : Bool :=
  [trapXlateMiss, trapXlatePerm, trapPageMode, trapMemPoison, trapAddrSpace, trapRangeLocked].contains (code % 256)

/-- The request of an operation that stalls at a Mint. -/
def stalledFor (cell id : Nat) (e : Nat × Event) : Bool :=
  match eventReq e.2 with
  | some q => match q.use with
    | .tover c o => c == cell && o == id
    | .fromv c o _ => c == cell && o == id
    | .leaf w => w == some (cell, id)
    | _ => false
  | none => false

/-- Whether the request of an operation stalls, here or at the owner of its array (R235, R416). -/
def State.telStalls (s : State) (cell : Nat) (o : TelOp) : Bool :=
  s.stalled.any (stalledFor cell o.id) || (!o.ready && o.key.any fun q => s.remotes.any fun e => e.2 == .key q)

/-- TELLER_FAULT: the operation stops and keeps what it holds, and its fault domain is told (R315). A stall limit counts only while
the request stalls (R235). -/
def execTellerFault (cell id : Nat) (code : Nat) (addr : Word) (s : State) : Out State :=
  match (s.cell cell).op id with
  | none => .next s
  | some o =>
    let stall := code % 256 == trapQuotaStall
    if o.stopped ≠ 0 ∨ o.finish.isSome ∨ (stall && !s.telStalls cell o) then .next s
    else
      let s := { s with stalled := s.stalled.filter fun e => !stalledFor cell id e }
      let s := s.modOp cell id fun o => { o with stopped := if replayable code then 1 else 2 }
      .next (s.deliver { rcb := o.rcb, asid := o.rcbAsid, code := trapTellerFault + 256 * (code % 2 ^ 24), pc := o.src.pc,
                         thid := (s.ctx o.src.tid).thid, addr := addr, q := o.q, done := o.bytes, home := o.rcb, redir := false,
                         waited := false, op := some (cell, id) })

/-- The handler returned with replay: the whole operation runs again, with the reservation or pin that it holds, or that it still asks for
(R315). -/
def State.replayOp (s : State) (cell id : Nat) : State :=
  match (s.cell cell).op id with
  | none => s
  | some o =>
    let s := s.modOp cell id fun o => { o with stopped := 0, left := o.units, bytes := 0, part := [], replays := min (o.replays + 1) 255 }
    if o.key.isSome && o.ready then s.post (.tellerOpCompletion cell id) else s.telBegin cell o

/-- Release an operation's pin, here or at the owner (R237, R314, R416). -/
def State.unpinOp (s : State) (q : KeyReq) : State :=
  if q.desc.remote then
    match s.bindingTo q.key.asid q.desc.dev, s.route q.desc.dev with
    | some b, some l => s.sendOn l q.desc.dev (.remoteKey ⟨s.devid.toNat, l, b.xport, q.key.arr, q.key.i, q.key.j, q.key.ver, 8, [], b.space, 0, 0, 0⟩)
    | _, _ => s
  else s.post (.pinRelease q.key q.home)

/-- The handler returned with cancel: a reservation or pin is given back, and the operation completes as cancelled (R315, R317). -/
def State.cancelOp (s : State) (cell id : Nat) : State :=
  match (s.cell cell).op id with
  | none => s
  | some o =>
    let s := match o.key with
      | some q => if !o.ready then s else if trOp (o.q.getD 0 0).toNat = 1 then s.giveBack q else s.unpinOp q
      | none => s
    (s.modOp cell id fun o => { o with stopped := 0, finish := some 1 }).post (.tellerOpCompletion cell id)

/-! ## Completion (R317, R318) -/

/-- Step 1 of a completion: the ring's tail; the answer is the status (R291, R317). -/
def State.telRing (s : State) (o : TelOp) (status : Nat) : Nat × State :=
  let q0 := (o.q.getD 0 0).toNat
  let core := o.src.core
  let k := bitsOf q0 22 21
  if status = 1 ∨ !bitOf q0 23 then (status, s)
  else match (s.matrix core).rings.find? k with
    | none => (2, s)
    | some r =>
      if r.occ + (s.matrix core).claimed k ≥ r.cnt then (2, s)
      else (0, (s.setMatrix core { s.matrix core with rings := (s.matrix core).rings.set k (r.push 1) }).kickCell (cellOf core))

/-- The status word, a pool store that the bank checks as it does any other: one that it refuses is discarded and reported (R93, R310;
log 72). -/
def State.telStatus (s : State) (o : TelOp) (v : Nat) : State :=
  let off := trBlock (o.q.getD 3 0).toNat + 32
  let core := o.src.core
  let a := (PoolAddr.mk (cellY (cellOf core)) (cellX (cellOf core)) (core % 8) off).absolute
  if s.coreGone core then s
  else match s.bankRefuses core off 8 o.src.asid with
    | none => s.writeMarked (poolBase core + off) 8 v false
    | some d => s.refusePool o.src ⟨poolBase core + off, a.toNat, 8, 0, 0, 0, 0, 0, false⟩ trapAddrSpace d

/-- Steps 1 to 3 of a completion (R317). -/
def State.telFinish (s : State) (o : TelOp) (status : Nat) : State :=
  let (st, s) := s.telRing o status
  let s := if trBlock (o.q.getD 3 0).toNat = 0 then s else s.telStatus o (st + 256 * o.replays)
  (s.leaveLocks o.id o.locks).modCtx o.src.tid fun c => { c with telout := c.telout - 1 }

/-- Step 4 and the end: the user event, which waits for an entry of the thread's list; then the place is free (R306, R317, R318). -/
def State.telLeave (s : State) (cell : Nat) (o : TelOp) : State :=
  let q0 := (o.q.getD 0 0).toNat
  let wants := !bitOf q0 7 && trOp q0 != 1
  let c := s.ctx o.src.tid
  if wants && decide (c.events.length ≥ 32) then s.at (s.pcyc + 1) (.tellerOpCompletion cell o.id)
  else
    let s := if wants then s.setCtx o.src.tid { c with events := c.events ++ [(BitVec.ofNat 64 (bitsOf q0 63 48), o.hnd)] } else s
    (s.setCell cell { s.cell cell with flight := (s.cell cell).flight.filter fun x => x.id ≠ o.id }).post (.tellerOpStart cell)

/-- A FROMV that has its pin waits until the version is PRESENT and takes its bytes (R236, R314); of a remote array, the shadow's (R417). -/
def State.telTake (s : State) (cell : Nat) (o : TelOp) (q : KeyReq) : State :=
  let wait (s : State) : State := (s.addWaiter q (.teller cell o.id)).getD (s.at (s.pcyc + 1024) (.tellerOpCompletion cell o.id))
  let stall (code : Nat) : State :=
    ({ s with stalled := s.stalled ++ [(code, Event.mintReference { q with use := .leaf (some (cell, o.id)) })] }).stallTeller q cell o.id code
  let have' (e : MintEntry) : State := (s.modOp cell o.id fun o => { o with tile := e.data }).post (.tellerOpCompletion cell o.id)
  if q.desc.remote then
    match s.entry q.key q.home with
    | some e => if e.st = MintSt.held then have' e else wait s
    | none => match s.allocEntry q.key q.home .waiting q.rcb q.rcbAsid with
      | .error n => stall n
      | .ok t => match t.withRun q.home (descBytes q.desc) fun t run => t.modEntry q.key q.home fun e => { e with run := some run } with
        | none => stall 2
        | some t => match t.askOwner q.desc.dev q.key q.home 7 with
          | none => s.post (.tellerFault cell o.id trapLinkDown (keyPacked q.key))
          | some t => wait t
  else match s.entry q.key q.home with
    | none => s.post (.tellerFault cell o.id (trapVersionDead + 256 * 4) (keyPacked q.key))
    | some e =>
      if e.st = MintSt.present then have' e
      else if e.st = MintSt.dead then s.post (.tellerFault cell o.id (trapVersionDead + 256 * 4) (keyPacked q.key))
      else wait s

/-- Every unit is moved: a TOVER creates its version, a FROMV releases its pin; writes beyond the device's homes are awaited (R314,
R317). -/
def State.telEnd (s : State) (cell : Nat) (o : TelOp) : State :=
  let finish (s : State) : State := (s.modOp cell o.id fun o => { o with finish := some 0 }).post (.tellerOpCompletion cell o.id)
  match trOp (o.q.getD 0 0).toNat, o.key with
  | 1, some q =>
    if q.desc.remote then
      if o.acks = 0 then (s.modOp cell o.id fun o => { o with acks := 1 }).sendKey q 6 o.tile else finish s
    else finish (s.create q.key q.home (creators q) o.tile)
  | k, key =>
    if s.writesInFlight o.src then s.at (s.pcyc + 1) (.tellerOpCompletion cell o.id)
    else finish (match k, key with
      | 2, some q => s.unpinOp q
      | _, _ => s)

/-- TELLER_OP_COMPLETION: an operation goes on: a unit, in an order that is not fixed, and when none is left its end, then the steps of
R317 (R306, R314, R317). -/
def execTellerOpCompletion (cell id : Nat) (s : State) : Out State :=
  match (s.cell cell).op id with
  | none => .next s
  | some o =>
    if o.stopped ≠ 0 then .next s
    else match o.finish with
      | some st =>
        if o.posted then .next (s.telLeave cell o)
        else if s.writesInFlight o.src then .next (s.at (s.pcyc + 1) (.tellerOpCompletion cell id))
        else .next (((s.telFinish o st).modOp cell id fun o => { o with posted := true }).telLeave cell o)
      | none => match o.key with
        | some q =>
          if !o.ready then .next ((s.modOp cell id fun o => { o with ready := true }).post (.tellerOpCompletion cell id))
          else if trOp (o.q.getD 0 0).toNat = 2 ∧ o.tile.isEmpty then .next (s.telTake cell o q)
          else unit o
        | none => if trOp (o.q.getD 0 0).toNat = 3 ∧ !o.left.isEmpty then .next (s.post (.redaddSegment cell id)) else unit o
where
  /-- One unit, or the end. -/
  unit (o : TelOp) : Out State :=
    match o.left with
    | [] => .next (s.telEnd cell o)
    | l =>
      let (w, s) := s.draw
      .next (s.telStep cell o (l.getD (w.toNat % l.length) 0))

/-! ## REDADD (R316) -/

/-- The destination of each element of a segment, translated (R316). -/
def State.telTargets (s : State) (o : TelOp) (z : Nat) : List Nat → Except TelStop (List Nat × State)
  | [] => .ok ([], s)
  | n :: r =>
    let a := formed (o.q.getD 2 0) ((n / o.rlen : Nat) * o.dstr + (n % o.rlen : Nat))
    match s.telPlace o a.toNat true true with
    | .error e => .error e
    | .ok (pa, s) => match s.telTargets o z r with
      | .error e => .error e
      | .ok (ps, s) => .ok (pa :: ps, s)

/-- Apply one element of a REDADD at its home (R120, R314). -/
def State.telApply (s : State) (core fmt pa v : Nat) : State :=
  if fmt < 3 then s.contribute pa core fmt ((Fmt.ofCode fmt).decode v)
  else
    let n := codeWidth fmt / 8
    let s := s.homeWrite (lineOf pa)
    (s.homeStore pa n ((s.read pa n + v) % 2 ^ (8 * n)) (s.poisonAt pa n)).2

/-- REDADD_SEGMENT: the segment is read, its translations resolved, then each element applied once (R316). -/
def execRedaddSegment (cell id : Nat) (s : State) : Out State :=
  match (s.cell cell).op id with
  | none => .next s
  | some o =>
    if o.stopped ≠ 0 ∨ o.finish.isSome then .next s
    else match o.left with
      | [] => .next (s.post (.tellerOpCompletion cell id))
      | k :: r =>
        let fmt := trFmt (o.q.getD 0 0).toNat
        let z := trSize (o.q.getD 0 0).toNat
        let len := min 65536 (o.rows * o.rlen - 65536 * k)
        let ns := (List.range (len / z)).map fun i => 65536 * k + z * i
        let took (s : State) : State :=
          (s.modOp cell id fun o => { o with left := r, bytes := o.bytes + len, applied := if o.applied.contains k then o.applied else o.applied ++ [k] }).post
            (.redaddSegment cell id)
        match s.telRun cell o (65536 * k) len with
        | .error e => .next (s.telStopped cell o k e)
        | .ok (bs, s) => match bs.findIdx? Prod.snd with
          | some i => .next (s.post (.tellerFault cell id trapMemPoison (formed (o.q.getD 1 0) (o.srcDisp (65536 * k + i)))))
          | none => match s.telTargets o z ns with
            | .error e => .next (s.telStopped cell o k e)
            | .ok (ps, s) =>
              if o.applied.contains k then .next (took s)
              else
                let vs := (List.range (len / z)).map fun i => valueOf (((bs.drop (z * i)).take z).map Prod.fst)
                .next (took ((ps.zip vs).foldl (fun s e => s.telApply o.src.core fmt e.1 e.2) s))

/-- The access of an operation that a page operation has held is made again, in its turn: the unit that it belongs to, or the segment, unless
the operation has stopped (R170, R314). -/
def State.telAgain (s : State) (cell id unit : Nat) : State :=
  match (s.cell cell).op id with
  | none => s
  | some o =>
    if o.stopped ≠ 0 ∨ o.finish.isSome then s
    else if trOp (o.q.getD 0 0).toNat = 3 then match execRedaddSegment cell id s with
      | .next t => t
      | _ => s
    else if o.left.contains unit then s.telMove cell o unit
    else s.post (.tellerOpCompletion cell id)

end Sys2Proof.Machine
end

