-- ==== Sys2Proof/Machine/Domain.lean ====
section
/-! DEFINITION. Fault domains: delivery of fault records (R375, R447), TRAP and its return (R376, R399), SYSC and ERET
(R373, R399, R400), errors (R391, R392, R408), events of a die (R409), and power (R24). -/

namespace Sys2Proof.Machine

/-! ## Delivery (R375, R447) -/

/-- The place and the leaf of a fault-record area that supervisor rights can write; none where it cannot be written (R447). -/
def State.areaPlace (s : State) (asid va : Nat) : Option (Nat × Leaf) :=
  if bitsOf va 63 53 ≠ 0 then none
  else match s.walk asid va with
    | .error _ => none
    | .ok l => if s.permBits .supervisor asid l true true false = 0 && !modeRefuses l false && targetOf l.base = .hbm then
          some (s.oldPlace (l.pa va), l)
        else none

/-- The nearest domain, from an RCB to its root, whose area can be written, with the area's place and leaf (R447). -/
def State.domainArea (s : State) (rcb asid : Nat) : Option (Nat × Nat × Leaf) :=
  (s.chain rcb asid).findSome? fun d => ((s.rcbWord? d asid rcbFrec).bind (s.areaPlace asid)).map fun pa => (d, pa)

/-- The 128 bytes of a fault record, written and not yet returned (R447). -/
def faultBytes (r : FaultRec) (redir : Bool) : List Byte :=
  bytesOf 4 r.code ++ [1, 0, if redir then 1 else 0, 0] ++ bytesOf 8 r.thid.toNat ++ bytesOf 8 r.pc.toNat ++ bytesOf 8 r.addr.toNat ++
    (List.range 4).flatMap (fun i => bytesOf 8 (r.q.getD i 0).toNat) ++ bytesOf 8 r.done ++ bytesOf 8 r.home ++ List.replicate 48 0

/-- The lowest-numbered free slot of an area (R375). -/
def State.freeRecord (s : State) (pa : Nat) : Option Nat := ((List.range 31).map (· + 1)).find? fun k => s.view (pa + 128 * k + 4) 1 == 0

/-- Add 1 to a word of an area's header at its home (R375). -/
def State.bumpArea (s : State) (a : Nat) : State := (s.homeStore a 8 ((s.view a 8 + 1) % 2 ^ 64) false).2

/-- DELIVER_RETRY: the first attempt of a delivery, or one after 1,024 cycles (R375, R447). -/
def execDeliverRetry (r : FaultRec) (s : State) : Out State :=
  match s.domainArea r.home r.asid with
  | none => .next ((s.at (s.pcyc + 1024) (.deliverRetry { r with stuck := true })).wakeEvents 0)
  | some (d, pa, l) => match s.freeRecord pa with
    | none =>
      let s := if r.waited then s else (s.touchLeaf l true).2.bumpArea (pa + 8)
      .next (s.at (s.pcyc + 1024) (.deliverRetry { r with waited := true, stuck := false }))
    | some k =>
      let s := (s.touchLeaf l true).2
      let s := match r.op with
        | some (cell, op) => { s with stops := (s.stops.filter fun (x : Nat × Nat × Nat) => x.1 != pa + 128 * k) ++ [(pa + 128 * k, cell, op)] }
        | none => s
      .next ((s.homeStore (pa + 128 * k) 128 (valueOf (faultBytes r (d != r.home))) false).2.bumpArea pa)

/-- Whether an event is a delivery that found no area which can be written, and waits to try again (R447). -/
def isStuck : Event → Bool
  | .deliverRetry r => r.stuck
  | _ => false

/-- Whether a delivery waits because no domain's area could be written (R447). -/
def State.undeliverable (s : State) : Bool := s.timers.any (fun e => isStuck e.2) || s.due.any isStuck

/-! ## Events of a die (R392, R409) -/

/-- `SEVT` of a die as software reads it: bit 0 while the error queue is not empty, bit 5 of die 0 while a record waits (R392, R409). -/
def State.sevt (s : State) (die : Nat) : BitVec 8 :=
  let d := s.die die
  d.sevt ||| BitVec.ofNat 8 ((!d.errq.isEmpty).toNat + (if die = 0 ∧ s.undeliverable then 32 else 0))

/-- Set bits of a die's `SEVT`, which ends the WFE parks of the die (R409). -/
def State.raiseEvent (s : State) (die : Nat) (b : BitVec 8) : State :=
  (s.setDie die { s.die die with sevt := (s.die die).sevt ||| b }).wakeEvents die

/-- SEVT_CLEAR (R377). -/
def execSevtClear (die : Nat) (v : Word) (s : State) : Out State :=
  .next (s.setDie die { s.die die with sevt := (s.die die).sevt &&& ~~~(v.setWidth 8) })

/-- WFE: an event that comes while it is parked lets it go on, whatever `SEVT` reads by then (R409). -/
def execWfe (s : State) : Out State :=
  .next (if s.me.stage = 1 ∨ s.sevt (dieOf s.me.core) ≠ 0 then s.done else (s.parkMe .event).setMe { (s.parkMe .event).me with stage := 1 })

/-- HOST_DOORBELL (R397). -/
def execHostDoorbell (s : State) : Out State := .next (s.raiseEvent 0 2)

/-- SPDM_REQUEST (R395). -/
def execSpdmRequest (s : State) : Out State := .next (s.raiseEvent 0 16)

/-- POWER_WINDOW_PROJECTION: above the limit the die is throttled, which is told where it begins, and its cycles are counted; below it
throttling ends (R24, R377, R409). -/
def execPowerWindowProjection (die : Nat) (high : Bool) (cycles : Nat) (s : State) : Out State :=
  let d := s.die die
  .next (if high then
      let s := s.setDie die { d with pwrthr := d.pwrthr + cycles, throttled := true }
      if d.throttled then s else s.raiseEvent die 8
    else s.setDie die { d with throttled := false })

/-! ## Errors (R391, R392, R408) -/

/-- Count a corrected error of a location; the fourth of a window queues a lasting fault (R391). -/
def State.countError (s : State) (die cls inst loc : Nat) : State :=
  let d := s.die die
  let here (e : Nat × Nat × Nat × Nat) : Bool := e.1 == cls && e.2.1 == inst && e.2.2.1 == loc
  let n := ((d.errCounts.find? here).map fun e => e.2.2.2).getD 0 + 1
  let s := s.setDie die { d with errCounts := (d.errCounts.filter fun e => !here e) ++ [(cls, inst, loc, n)] }
  if n = 4 then s.queueError die (errorEntry 1 cls inst loc n) else s

/-- A corrected error of a device-link lane also counts at its link (R425). -/
def State.laneError (s : State) (cls inst : Nat) : State :=
  if cls = 9 then { s with links := s.links.set (inst % 8) { s.link (inst % 8) with lanes := min ((s.link (inst % 8)).lanes + 1) 65535 } }
  else s

/-- SOFT_ERROR_CORRECTED; one that ERRQ.INJ armed also queues an entry of kind 3 (R391, R408). -/
def execSoftErrorCorrected (die cls inst loc : Nat) (s : State) : Out State :=
  let s := (s.countError die cls inst loc).laneError cls inst
  let d := s.die die
  .next (if d.armed.contains (cls, inst, loc) then
      (s.setDie die { d with armed := d.armed.erase (cls, inst, loc) }).queueError die (errorEntry 3 cls inst loc 0)
    else s)

/-- ERROR_WINDOW_END: counts start again (R391, R411). -/
def execErrorWindowEnd (die : Nat) (s : State) : Out State :=
  let s := s.setDie die { s.die die with errCounts := [] }
  let s := if die = 0 then { s with links := s.links.map fun e => (e.1, { e.2 with lanes := 0 }) } else s
  .next (s.at (s.pcyc + 2 ^ 26) (.errorWindowEnd die))

/-- The data that an uncorrectable error marks; which word of the location it is, a free value says (R101, R382, R391; log 23). -/
def State.markData (s : State) (cls inst loc : Nat) (w : Word) : State :=
  let n := w.toNat
  match cls with
  | 0 => s.poison (poolBase inst + n % 2 ^ 17 / 8 * 8) 8
  | 3 =>
    let sl := s.slice inst
    let marked := sl.mint.zipIdx.map fun e =>
      if e.2 = n % sl.mint.length then { e.1 with marks := e.1.marks ++ [n / 2 ^ 16 % 2 ^ 11] } else e.1
    s.setSlice inst { sl with mint := marked }
  | 4 => s.setCore inst { s.core inst with matrix := { (s.core inst).matrix with lost := true } }
  | 5 => match s.threads.filter fun e => e.2.heldCore == inst && e.2.held != 0 with
    | [] => s
    | ts =>
      let t := (ts[n % ts.length]?.map Prod.fst).getD 0
      let ls := (s.ctx t).heldLines
      s.post (.imageLost t (ls.getD (n / 2 ^ 32 % ls.length) 0))
  | 8 => s.poison (loc % 2 ^ 24 * 65536 + n % 65536 / 8 * 8) 8
  | _ => s.poison (n % 2 ^ 40 / 8 * 8) 8

/-- UNCORRECTABLE_ERROR (R391). -/
def execUncorrectableError (die cls inst loc : Nat) (s : State) : Out State :=
  let (w, s) := s.draw
  .next ((s.markData cls inst loc w).queueError die (errorEntry 2 cls inst loc 0))

/-- ERRQ.POP (R408). -/
def execErrqPop (a : R5) (s : State) : Out State :=
  let die := dieOf s.me.core
  let d := s.die die
  .next (match d.errq with
    | [] => s.doneLong a 0
    | e :: r => (s.setDie die { d with errq := r }).doneLong a e)

/-- ERRQ.Q (R408). -/
def execErrqQ (a : R5) (s : State) : Out State :=
  let die := dieOf s.me.core
  let d := s.die die
  .next ((s.setDie die { d with errOverflow := 0 }).doneLong a (BitVec.ofNat 64 (d.errq.length % 2 ^ 16 + d.errOverflow % 2 ^ 32 * 2 ^ 16)))

/-- Whether a location of ERRQ.INJ exists on a die: not where its class or its instance does not (R12, R91, R392); within a structure whose
layout the spec does not give, a free choice (log 7). -/
def locationExists (die cls inst loc : Nat) : Bool :=
  let there := match cls with
    | 0 | 4 | 5 => decide (inst < Config.cores) && dieOf inst == die
    | 1 | 2 | 3 => decide (inst < Config.slices) && dieOfSlice inst == die
    | 8 => hbmExists (loc * 65536) && bitsOf (loc * 65536) 39 38 == die
    | 9 => die == 0 && decide (inst < 8)
    | 6 | 7 => true
    | _ => false
  there && (cls == 8 || Config.locationExists cls inst loc)

/-- ERRQ.INJ: the error is corrected at the location's next access (R408): of an HBM page, when a line of it is next read; of another
structure, for which the spec maps no access to a location, after a free number of steps (log 42). -/
def execErrqInj (a b : R5) (s : State) : Out State :=
  let die := dieOf s.me.core
  let w := (s.me.xr b).toNat
  let cls := bitsOf w 59 56
  let inst := bitsOf w 55 40
  let loc := bitsOf w 39 16
  let d := s.die die
  .next (if locationExists die cls inst loc then
      let s := s.setDie die { d with armed := d.armed ++ [(cls, inst, loc)] }
      (if cls = 8 then s else s.post (.softErrorCorrected die cls inst loc)).doneLong a 0
    else s.doneLong a 1)

/-! ## TRAP, SYSC, ERET (R399, R400) -/

/-- TRAP (R399). -/
def execTrap (i : BitVec 16) (s : State) : Out State := .next (s.trapMe ⟨trapSwtrap, 0, i.toNat, 0⟩)

/-- SYSC: always to the supervisor, returning to the next instruction (R373, R399). -/
def execSysc (i : BitVec 16) (s : State) : Out State := .next (s.superTrap s.cur s.me.nextPc ⟨trapSyscall, 0, i.toNat, 0⟩)

/-- SYSC.FW (R374, R399). -/
def execSyscFw (i : BitVec 16) (s : State) : Out State := .next (s.firmwareTrap s.cur s.me.nextPc ⟨trapSyscall, 0, i.toNat, 0⟩)

/-- ERET (R400). -/
def execEret (s : State) : Out State := .next (s.setMe s.me.returnFrom)

/-! ## TRAP.RET (R376, R399) -/

/-- Whether a code accepts a disposition; a `TELLER_FAULT` whose operation may not be replayed accepts only cancel (R376). -/
def accepts (code disp : Nat) : Bool :=
  match code % 256 with
  | 0x13 => disp == 2 || (disp == 1 && replayable (code / 256))
  | 0x08 | 0x09 | 0x07 | 0x0A | 0x17 | 0x18 => disp == 0
  | 0x1C | 0x1D => disp == 3
  | _ => false

/-- The stopped Teller operation that the record at a place reports, with its cell. -/
def State.stoppedOp (s : State) (pa : Nat) : Option (Nat × Nat) :=
  ((s.stops.find? fun x => x.1 == pa).map fun x => x.2).filter fun o => ((s.cell o.1).op o.2).any fun x => x.stopped != 0

/-- The handles and nodes that the valid lines of an image name: a handle by line 8 and the line of its key, a node by its own line (R380,
R382). -/
def Ctx.validNames (c : Ctx) : Ctx :=
  { c with handles := Vector.ofFn fun i => match c.handles[i] with
             | .version r => if c.imvalid.getLsbD 8 && c.imvalid.getLsbD (30 + i.val / 16) then .version r else .empty
             | h => if c.imvalid.getLsbD 8 then h else .empty,
           thunks := c.thunks.filter fun e => c.imvalid.getLsbD (9 + e.1 / 2) }

/-- Disposition 3: a killed thread's holdings are released as far as its valid lines name them, then its image and its `RCBLIVE` count
(R346, R382). -/
def State.disposeThread (s : State) (tid : Nat) : State :=
  let c := s.ctx tid
  if c.imstate ≠ .killed then s
  else
    let s := (s.setCtx tid c.validNames).clearHandles tid
    let ops := s.cells.flatMap fun e => (e.2.flight.filter fun o => o.src.tid == tid).map fun o => (e.1, o.id)
    let s := if c.imvalid.getLsbD 0 then ops.foldl (fun s o => s.cancelOp o.1 o.2) s else s
    let s := (s.modCtx tid fun c => { c with imstate := .free, events := [] }).writeHeader tid
    (s.freeImage c.rcb.toNat c.asid tid).lowerLive c.rcb.toNat c.asid

/-- Act on a disposition of the record at a place (R376). -/
def State.actDisposition (s : State) (pa : Nat) (bs : List Byte) (disp : Nat) : State :=
  match field bs 0 1, disp with
  | 0x13, d => match s.stoppedOp pa with
    | some (cell, op) => if d = 1 then s.replayOp cell op else s.cancelOp cell op
    | none => s
  | 0x08, _ | 0x09, _ => s.retrySpills (field bs 72 8) s.me.asid
  | 0x1C, _ | 0x1D, _ => s.disposeThread (field bs 24 8)
  | _, _ => s

/-- TRAP.RET (R399): the record is read and written at its home. -/
def execTrapRet (b : R5) (disp : BitVec 16) (s : State) : Out State :=
  let c := s.me
  if c.thid.toNat ≠ s.rcbWord c.rcb.toNat c.asid rcbFhnd then .next (s.trapMe (c.opTrap trapPriv 0))
  else
    let need : Need := { n := 128, r := true, w := true, noPool := some 6, onlyDevice := some 6, store := true }
    match s.place c need 0 (c.xr b) 0 with
    | .error e => .next (s.stopMe e)
    | .ok p => .next (if (s.pageHolding p.lane.pa).isSome then s.parkMe (.page p.lane.pa) else s.afterYield [lineOf p.lane.pa] fun s =>
        let s := s.settle c.core c.asid true p
        let pa := p.lane.pa
        let bs := (List.range 16).flatMap fun i => bytesOf 8 (s.view (pa + 8 * i) 8)
        if field bs 4 1 ≠ 1 ∨ !accepts (field bs 0 4) disp.toNat then s.doneX b (BitVec.ofNat 64 (2 ^ 63 + 2))
        else
          let s := (s.homeStore (pa + 4) 2 (2 + 256 * disp.toNat) false).2
          let s := s.actDisposition pa bs disp.toNat
          (({ s with stops := s.stops.filter fun (x : Nat × Nat × Nat) => x.1 != pa }).homeStore (pa + 4) 1 0 false).2.done)

end Sys2Proof.Machine
end

