-- ==== Sys2Proof/Machine/Bridge.lean ====
section
/-! DEFINITION. The host: accesses through the HDM decoder (R421), the bridge cache (R422), and the CXL link (R425). Host memory lies
outside the machine: what the host supplies is a free value (log 3). -/

namespace Sys2Proof.Machine

/-! ## The host's accesses to HBM (R421) -/

/-- Send a message to the host. -/
def State.tellHost (s : State) (m : HostMsg) : State := { s with toHost := s.toHost ++ [m] }

/-- HOST_HDM_ACCESS: a 64-byte line of a frame whose host-ownership bit is 1 is read or written at its home, and a read is answered;
another access is counted, a write is discarded, and a read returns free data marked poisoned (R421). -/
def execHostHdmAccess (pa : Nat) (write : Option (BitVec 512)) (s : State) : Out State :=
  let pa := pa % 2 ^ 40 / 64 * 64
  if !(hbmExists pa && s.hostFrames.contains (pa / 65536)) then
    let s := { s with hostRefused := min (s.hostRefused + 1) 65535 }
    .next (match write with
      | some _ => s
      | none => let r := s.hostData
        r.2.tellHost (.read pa (BitVec.ofNat 512 r.1) true))
  else if (s.pageHolding pa).isSome then .next (s.at (s.pcyc + 64) (.hostHdmAccess pa write))
  else .next (match write with
    | none =>
      let s := s.homeRead (lineOf pa)
      s.tellHost (.read pa (BitVec.ofNat 512 (s.read pa 64)) (s.poisonAt pa 64))
    | some v => (s.homeStore pa 64 v.toNat false).2)

/-! ## The bridge cache (R422) -/

/-- The state of a half: 0 I, 1 S, 2 E, 3 M. -/
def State.halfState (s : State) (h : Nat) : Nat := ((s.bridge.find? h).map Half.st).getD 0

/-- The lanes of a request that lie in host memory and are not bound yet. -/
def hostLanes (ls : List Lane) : List Lane := ls.filter fun l => !isPool l.pa && targetOf l.pa == .host && !laneBound l

/-- The halves that must still come before a load is served (R422). -/
def State.missingHalves (s : State) (q : MemReq) : List Nat :=
  (((hostLanes q.lanes).map fun l => l.pa / 64).filter fun h => s.halfState h == 0).dedup

/-- The halves that must still be owned before a store is performed: both of every line it writes (R422). -/
def State.unowned (s : State) (q : MemReq) : List Nat :=
  (((hostLanes q.lanes).flatMap fun l => [l.pa / 128 * 2, l.pa / 128 * 2 + 1]).filter fun h => decide (s.halfState h < 2)).dedup

/-- Whether a fill of a half is on its way: one that makes it owned, where that is asked. -/
def State.fillComing (s : State) (h : Nat) (excl : Bool) : Bool :=
  s.pending.any fun e => match e with
    | .hostFillReply k x _ => k == h && (x || !excl)
    | _ => false

/-- Ask the host for halves, with RdShared or RdOwn (R422). -/
def State.askHost (s : State) (hs : List Nat) (excl : Bool) : State :=
  hs.foldl (fun s h =>
    if s.fillComing h excl then s
    else
      let r := s.hostData
      r.2.post (.hostFillReply h excl (BitVec.ofNat 512 r.1))) s

/-- Whether an access of the same core to a shared line already waits at the bridge; accesses of a core to one line keep their order. -/
def State.behind (s : State) (q : MemReq) : Bool :=
  s.bridgeWait.any fun w => w.1.src.core == q.src.core &&
    (hostLanes q.lanes).any fun l => (hostLanes w.1.lanes).any fun k => lineOf l.pa == lineOf k.pa

/-- An access waits at the bridge. -/
def State.waitAtBridge (s : State) (q : MemReq) (op : BankOp) : State := { s with bridgeWait := s.bridgeWait ++ [(q, op)] }

/-- The bytes of a lane as the bridge cache holds them. -/
def State.hostBytes (s : State) (l : Lane) : Nat :=
  ((s.bridge.find? (l.pa / 64)).map fun h => h.data.toNat / 2 ^ (8 * (l.pa % 64)) % 2 ^ (8 * l.n)).getD 0

/-- Whether a word that a lane touches carries a mark in the bridge cache (R101). -/
def State.hostMarked (s : State) (l : Lane) : Bool :=
  (s.bridge.find? (l.pa / 64)).any fun h => (wordsOf (l.pa % 64) l.n).any fun w => h.pois.getLsbD w

/-- Write the bytes of a lane into its half, which becomes M (R422); marked data marks its words, other data clears the mark of a word that
it covers whole (R101). -/
def State.hostWrite (s : State) (l : Lane) (v : Nat) : State :=
  match s.bridge.find? (l.pa / 64) with
  | none => s
  | some h =>
    let off := l.pa % 64
    let d := mergeBytes 64 h.data.toNat (v * 2 ^ (8 * off)) (byteMask off l.n)
    let whole := ofLanes 1 ((List.range 8).map fun w => (decide (off ≤ 8 * w ∧ 8 * w + 8 ≤ off + l.n)).toNat)
    let touched := ofLanes 1 ((List.range 8).map fun w => ((wordsOf off l.n).contains w && l.bad).toNat)
    let p := (h.pois &&& ~~~BitVec.ofNat 8 whole) ||| BitVec.ofNat 8 touched
    { s with bridge := s.bridge.set (l.pa / 64) ⟨3, BitVec.ofNat 512 d, p⟩ }

/-- BRIDGE_DEVICE_ACCESS: a load is served by halves that are held; a store, and the exchange of a differentiable element (R109), is
performed while both halves of its line are E or M; what is missing is fetched first (R422). -/
def execBridgeDeviceAccess (q : MemReq) (op : BankOp) (s : State) : Out State :=
  if s.behind q then .next (s.waitAtBridge q op)
  else match op with
    | .load => match s.missingHalves q with
      | [] =>
        let host := hostLanes q.lanes
        let serve (l : Lane) : Lane := if host.contains l then laneBind l (s.hostBytes l) (2 ^ l.n - 1) (s.hostMarked l) else l
        .next (s.routeLoad { q with lanes := q.lanes.map serve })
      | hs => .next ((s.askHost hs false).waitAtBridge q op)
    | .store vals counted => match s.unowned q with
      | [] =>
        let s := (q.lanes.zip vals).foldl (fun s e => s.hostWrite e.1 e.2) s
        .next (if counted then s.post (.writeAckArrival q.src.tid 0) else s)
      | hs => .next ((s.askHost hs true).waitAtBridge q op)
    | .atom (.tapeSwap vals es slots addrs) => match s.unowned q with
      | [] => .next ((swapParts q.lanes vals es slots addrs).foldl (fun s (p : Lane × Nat × Lane × Nat × Nat) =>
          (s.hostWrite p.1 p.2.1).post (.tapePush q.src p.2.2.1 p.2.2.2.2 (s.hostBytes p.1) p.1.n p.2.2.2.1 0 (s.hostMarked p.1))) s)
      | hs => .next ((s.askHost hs true).waitAtBridge q op)
    | .atom _ => .next s
    | .red _ _ => .next s

/-- Lines of the bridge cache in the set of a line: 512 sets of 16 ways (R422; log 24). -/
def State.bridgePeers (s : State) (line : Nat) : List Nat :=
  ((s.bridge.map fun e => e.1 / 2).filter fun l => l % 512 == line % 512).dedup

/-- A half leaves the bridge cache; dirty data goes to the host (R422). -/
def State.evictHalf (s : State) (half : Nat) : State :=
  match s.bridge.find? half with
  | none => s
  | some h =>
    let s := { s with bridge := s.bridge.erase half }
    if h.st = 3 then s.tellHost (.written half h.data h.pois) else s

/-- Make room for a line: a free choice leaves the cache, its dirty data going to the host (R422; log 24). -/
def State.bridgeRoom (s : State) (line : Nat) : State :=
  let peers := s.bridgePeers line
  if peers.contains line || decide (peers.length < 16) then s
  else
    let (v, s) := s.draw
    let victim := peers.getD (v.toNat % 16) 0
    (s.evictHalf (2 * victim)).evictHalf (2 * victim + 1)

/-- HOST_FILL_REPLY: the half is installed, S or E; an upgrade keeps the data that an S half holds; then the accesses that wait try again
in their order (R422). -/
def execHostFillReply (half : Nat) (excl : Bool) (data : BitVec 512) (s : State) : Out State :=
  let s := s.bridgeRoom (half / 2)
  let s := match s.bridge.find? half with
    | none => { s with bridge := s.bridge.set half ⟨if excl then 2 else 1, data, 0⟩ }
    | some h => if excl && h.st == 1 then { s with bridge := s.bridge.set half { h with st := 2 } } else s
  .next { s with bridgeWait := [], pending := s.bridgeWait.map (fun w => Event.bridgeDeviceAccess w.1 w.2) ++ s.pending }

/-- HOST_SNOOP: SnpInv makes a half I, SnpData makes it S; dirty data returns with the response (R422). -/
def execHostSnoop (half : Nat) (inv : Bool) (s : State) : Out State :=
  .next (match s.bridge.find? half with
    | none => s
    | some h =>
      let s := if h.st = 3 then s.tellHost (.snooped half h.data h.pois) else s
      if inv then { s with bridge := s.bridge.erase half } else { s with bridge := s.bridge.set half { h with st := 1 } })

/-- CXL_LINK_STATE_CHANGE (R425). -/
def execCxlLinkStateChange (up : Bool) (s : State) : Out State := .next { s with cxlUp := up }

/-- Lines of the bridge cache in SPLIT: one half valid, the other I (R422). -/
def State.splitLines (s : State) : Nat :=
  (s.bridge.filter fun e => s.halfState (if e.1 % 2 = 0 then e.1 + 1 else e.1 - 1) == 0).length

end Sys2Proof.Machine
end

