-- ==== Sys2Proof/Machine/Remote.lean ====
section
/-! DEFINITION. Word accesses of other devices, performed at their homes here (R414, R415). -/

namespace Sys2Proof.Machine

/-- The export entry that a device may use (R414). -/
def State.exportFor (s : State) (xport dev : Nat) : Option Export :=
  match s.exports.find? xport with
  | none => none
  | some e => if bitOf e.dev 15 || e.dev % 1024 == dev then some e else none

/-- The place of a remote access here, and its leaf; none where it is refused: no right, outside the window, or no translation that
allows it in the exported space (R414, R415; log 25). -/
def State.remotePlace (s : State) (m : RemoteWord) : Option (Nat × Leaf) :=
  match s.exportFor m.xport m.dev with
  | none => none
  | some e =>
    let w := m.store.isSome || m.op.isSome
    let r := m.store.isNone
    let va := e.win + m.off
    if (r && !bitOf e.rights 2) || (w && !bitOf e.rights 3) || decide (m.off + m.n > e.len) then none
    else match s.walk e.asid va with
      | .error _ => none
      | .ok l =>
        if s.permBits .user e.asid l r w false ≠ 0 || modeRefuses l (!w) || targetOf l.base != .hbm then none else some (l.pa va, l)

/-- REMOTE_WORD_ACCESS: performed at the home, in the exported space; while a page operation runs it is queued there (R170, R415). -/
def execRemoteWordAccess (m : RemoteWord) (s : State) : Out State :=
  let answer (s : State) (status : Nat) (val : Word) (data : List Byte) : State := s.replyTo m.dev m.ref status val data
  match s.remotePlace m with
  | none => .next (answer s (32 + 10) 0 [])
  | some (pa, l) =>
    match s.pageHolding pa with
    | some (d, slot) => .next (s.hold d slot (.remote m pa))
    | none =>
      let (_, s) := s.touchLeaf l (m.store.isSome || m.op.isSome)
      match m.op, m.store with
      | none, none =>
        let s := s.homeRead (lineOf pa)
        .next (answer s 0 (BitVec.ofNat 64 (s.read pa m.n)) (if s.poisonAt pa m.n then [1] else []))
      | none, some v => .next (answer (s.homeStore pa m.n v false).2 0 0 [])
      | some op, _ =>
        let s := s.homeWrite (lineOf pa)
        let old := s.read pa m.n
        let bad := s.poisonAt pa m.n
        let t := match atomNew op m.n old with
          | some v => s.homeStore pa m.n v (bad && atomDerives op)
          | none =>
            let t := s.tag (lineOf pa)
            (t.1, t.2.walkWaiters (lineOf pa))
        .next (answer t.2 0 (BitVec.ofNat 64 old) (bytesOf 8 t.1 ++ (if bad then [1] else [])))

end Sys2Proof.Machine
end

