-- ==== Sys2Proof/Machine/Page.lean ====
section
/-! DEFINITION. Page operations and PGMODE, PGMIG, PGQ (R170 to R179). -/

namespace Sys2Proof.Machine

/-! ## Lanes of requests in flight -/

/-- Change the lanes of a request. -/
def mapReq (f : Lane → Lane) (q : MemReq) : MemReq := { q with lanes := q.lanes.map f }

/-- Change the lane of a waiter. -/
def mapWaiter (f : Lane → Lane) (w : Waiter) : Waiter := { w with lane := f w.lane }

/-- Change the lanes of a fill: one that installs not every line of its own goes on to install none. -/
def mapFill (f : Lane → Lane) (r : FillReq) : FillReq :=
  ⟨mapReq f r.req, if r.skip.isEmpty then [] else (mapReq f r.req).lanes.map fun l => lineOf l.pa⟩

/-- Change the lanes of an access held at a slot. -/
def mapHeld (f : Lane → Lane) : Held → Held
  | .fill r => .fill (mapFill f r)
  | .wt q v => .wt (mapReq f q) v
  | .atom q op => .atom (mapReq f q) op
  | .contrib q op v => .contrib (mapReq f q) op v
  | .rel q n v => .rel (mapReq f q) n v
  | .acq q n => .acq (mapReq f q) n
  | .bar w => .bar (mapWaiter f w)
  | .wait w => .wait (mapWaiter f w)
  | .wake q t => .wake (mapReq f q) t
  | .teller c o u pa => .teller c o u pa
  | .remote m pa => .remote m pa

/-- Change the lanes of a request in flight that still has to reach a home. -/
def mapEvent (f : Lane → Lane) : Event → Event
  | .fillAtHome r => .fillAtHome (mapFill f r)
  | .lineFillArrival q ls => .lineFillArrival (mapReq f q) ls
  | .poolBankAccess q op => .poolBankAccess (mapReq f q) op
  | .writeThroughAtHome q v => .writeThroughAtHome (mapReq f q) v
  | .atomicAtHome q op => .atomicAtHome (mapReq f q) op
  | .contributionAtHome q op v => .contributionAtHome (mapReq f q) op v
  | .releaseAtHome q n v => .releaseAtHome (mapReq f q) n v
  | .acquireAtHome q n => .acquireAtHome (mapReq f q) n
  | .barrierArrivalAtHome w => .barrierArrivalAtHome (mapWaiter f w)
  | .waitRegistration w => .waitRegistration (mapWaiter f w)
  | .waiterPollRetry w => .waiterPollRetry (mapWaiter f w)
  | .waitDeadlineExpiry w => .waitDeadlineExpiry (mapWaiter f w)
  | .suspendedPollerRequeue w => .suspendedPollerRequeue (mapWaiter f w)
  | .wakeAtHome q t => .wakeAtHome (mapReq f q) t
  | .pageQueueRetry d k w h => .pageQueueRetry d k w (mapHeld f h)
  | e => e

/-- Where an address of the old page lies once the operation has ended: in the new frame, or, of an RDUP page that becomes COH, on
the leaf's physical die (R174, R176). -/
def PageRun.move (r : PageRun) (pa : Nat) : Nat :=
  match r.dest with
  | some d => if r.base ≤ pa && pa < r.base + r.size then d + (pa - r.base) else pa
  | none =>
    if bitsOf r.leaf.toNat 61 59 = 2 && r.op.mode ≠ 2 && pa < 2 ^ 40 && decide (r.base % 2 ^ 38 ≤ pa % 2 ^ 38) &&
        decide (pa % 2 ^ 38 < r.base % 2 ^ 38 + r.size) && bitOf r.leaf.toNat (48 + pa / 2 ^ 38 % 4)
    then r.base / 2 ^ 38 * 2 ^ 38 + pa % 2 ^ 38 else pa

/-- The mode of the page once the operation has ended. -/
def PageRun.newMode (r : PageRun) : Nat := if r.op.migrate then bitsOf r.leaf.toNat 61 59 else r.op.mode

/-- A lane as it stands after the operation. -/
def PageRun.moveLane (r : PageRun) (l : Lane) : Lane :=
  if !isPool l.pa && r.inPage l.pa then { l with pa := r.move l.pa, mode := r.newMode } else l

/-! ## Start -/

/-- Complete a page instruction with its result word (R173). -/
def State.pageReply (s : State) (op : PageOp) (overlaps status : Nat) : State :=
  s.post (.longResultArrival (Reply.of op.src.tid [.x op.a (BitVec.ofNat 64 (overlaps * 2 ^ 32 + status)) none] true))

/-- The leaf of a page operation's address (R174, R176); none where the address is not a translated one. -/
def State.pageLeaf (s : State) (op : PageOp) : Option Leaf :=
  if op.va ≥ 2 ^ 53 then none
  else match s.walk op.asid op.va with
    | .ok l => some l
    | .error _ => none

/-- Whether PGMODE knows the transition (R174). -/
def transitionKnown (a b : Nat) : Bool :=
  [(0, 1), (1, 0), (0, 2), (2, 0), (0, 4), (4, 0), (4, 3), (3, 4)].contains (a, b)

/-- The status that ends an operation before its steps; none when the steps run (R174, R176). A new frame where no memory exists is
malformed: the frame that PGMIG names follows the HBM layout (R91; log 51). -/
def pageStatus (op : PageOp) (l : Leaf) : Option Nat :=
  let device := targetOf l.base = .hbm
  if op.migrate then
    if !hbmExists op.frame ∨ (l.big ∧ op.frame % 2 ^ 21 ≠ 0) then some 3
    else if (l.mode ≠ 0 ∧ l.mode ≠ 1 ∧ l.mode ≠ 4) ∨ ¬device then some 2
    else if op.frame < l.base + l.size ∧ l.base < op.frame + l.size then some 5 else none
  else if op.mode = 2 ∧ (op.mask = 0 ∨ !bitOf op.mask (bitsOf l.base 39 38)) then some 3
  else if op.mode ≠ 2 ∧ op.mask ≠ 0 then some 3
  else if ¬device then some 2
  else if l.mode = op.mode ∧ (op.mode ≠ 2 ∨ l.mask = op.mask) then some 0
  else if transitionKnown l.mode op.mode then none else some 2

/-- The leaf word that step 2 writes (R174, R176). -/
def newLeaf (op : PageOp) (w : Nat) : Nat :=
  if op.migrate then w - bitsOf w 47 14 * 2 ^ 14 + (op.frame / 65536 % 2 ^ 32) * 65536 + bitsOf op.frame 39 38 * 2 ^ 14
  else w - bitsOf w 51 48 * 2 ^ 48 - bitsOf w 61 59 * 2 ^ 59 + op.mask * 2 ^ 48 + op.mode * 2 ^ 59

/-- Remove from every translation cache the entries of a space that touch a range of addresses (R387, R402). -/
def dropEntries (es : List TlbEntry) (p : TlbEntry → Bool) : List TlbEntry := es.filter fun e => !p e

/-- Whether a cached translation touches a virtual range of a space. -/
def TlbEntry.touches (e : TlbEntry) (asid lo hi : Nat) : Bool :=
  let a := e.vpn * 65536
  e.asid == asid && decide (a < hi) && decide (lo < a + if e.big then 2 ^ 21 else 2 ^ 16)

/-- Step 2: translations and instruction lines of the page go, on every core, cell and die (R170). -/
def State.dropPage (s : State) (asid lo hi : Nat) : State :=
  let gone (e : TlbEntry) : Bool := e.touches asid lo hi
  let stale (i : Nat × Word × List Byte) : Bool := i.1 == asid && decide (lo ≤ i.2.1.toNat) && decide (i.2.1.toNat < hi)
  let clear (q : Core) : Core := { q with tlb := dropEntries q.tlb gone, icache := q.icache.filter fun i => !stale i }
  let s := s.cores.foldl (fun s e => s.refetch e.1 fun a va => stale (a, va, [])) s
  { s with
    cores := s.cores.map fun e => (e.1, clear e.2),
    cells := s.cells.map fun e => (e.1, { e.2 with tlb := dropEntries e.2.tlb gone }),
    dies := s.dies.map fun e => (e.1, { e.2 with tlb := dropEntries e.2.tlb gone }) }

/-- Whether an operation runs on the page of a leaf, through this leaf or another that maps its frames (R170). -/
def State.pageBusy (s : State) (l : Leaf) : Option Nat :=
  (List.range 4).find? fun d => (s.die d).pages.any fun e => e.2.pte == l.pte ||
    (targetOf l.base == .hbm && (e.2.inPage l.base ||
      (e.2.base :: e.2.dest.toList).any fun b => decide (l.base ≤ b) && decide (b < l.base + l.size)))

/-- Steps 1 and 2, and the command of step 3 to every core that holds anything (R170). -/
def State.pageStart (s : State) (op : PageOp) (l : Leaf) (die slot : Nat) : State :=
  let cores := s.cores.map Prod.fst
  let run : PageRun := { op := op, base := l.base, size := l.size, dest := if op.migrate then some op.frame else none,
                         pte := l.pte, leaf := l.word, waiting := cores, queue := [], swept := [], replayed := 0,
                         overlaps := 0, bad := false }
  let s := (s.homeStore l.pte 8 (newLeaf op l.word.toNat) false).2
  let lo := op.va / l.size * l.size
  let s := s.dropPage op.asid lo (lo + l.size)
  let s := s.setDie die { s.die die with pages := (s.die die).pages.set slot run }
  match cores with
  | [] => s.post (.pageOpCompletion die slot)
  | cs => cs.foldl (fun s q => s.post (.pageSweepAtCore die slot q)) s

/-- An operation waits at a die for a slot or for the operation on its page (R170). -/
def State.pageWaitAt (s : State) (die : Nat) (op : PageOp) : State :=
  s.setDie die { s.die die with pageWait := (s.die die).pageWait ++ [op] }

/-- PAGE_OP_SLOT_GRANT: the operation walks; while another runs on the page it waits, and walks again; then it takes a slot of the
page's home die, or waits for one (R170, R173). -/
def execPageOpSlotGrant (_die : Nat) (op : PageOp) (s : State) : Out State :=
  match s.pageLeaf op with
  | none => .next (s.pageReply op 0 1)
  | some l => match s.pageBusy l with
    | some b => .next (s.pageWaitAt b op)
    | none => match pageStatus op l with
      | some st => .next (s.pageReply op 0 st)
      | none =>
        let d := bitsOf l.base 39 38
        match (List.range 4).find? (fun k => ((s.die d).pages.find? k).isNone) with
          | some slot => .next (s.pageStart op l d slot)
          | none => .next (if op.noWait then s.pageReply op 0 4 else s.pageWaitAt d op)

/-! ## Sweep -/

/-- Put a running operation back in its slot. -/
def State.setRun (s : State) (die slot : Nat) (r : PageRun) : State :=
  s.setDie die { s.die die with pages := (s.die die).pages.set slot r }

/-- A core's dirty bytes of one line of the page leave: to the die's NC copy, or merged at the home with a tag (R170). -/
def State.sweepLine (s : State) (core line : Nat) (l : CacheLine) : State :=
  let die := dieOf core
  if l.nc ∧ homeDie line ≠ die then
    let s := if (s.proxy line die).isSome then s else s.ncFill line die
    let p : Proxy := (s.proxy line die).getD ⟨CopyState.nc, BitVec.ofNat 1024 (s.readLine line), 0, s.linePoison line, 0, 0⟩
    (s.setProxy line die { p with
      data := BitVec.ofNat 1024 (mergeBytes 128 p.data.toNat l.data.toNat l.dirty.toNat), dirty := p.dirty ||| l.dirty,
      pois := mergeMarks p.pois l.pois l.dirty, key := l.key }).awakeCopy line die
  else
    let s := s.homeWrite line
    let s := (s.writeLine line l.data.toNat l.dirty.toNat).markLine line l.pois (wholeWords l.dirty)
    ((s.tag line).2).walkWaiters line

/-- PAGE_SWEEP_AT_CORE: the core's lines of the page are written back and discarded; in a change from NC to COH the dirty bytes are
kept apart for the merge (R170, R175). A core that sinks messages answers with nothing, as for a drain (R389; log 57). -/
def execPageSweepAtCore (die slot core : Nat) (s : State) : Out State :=
  match (s.die die).pages.find? slot with
  | none => .next s
  | some r =>
    let q := s.core core
    let mine := if s.coreGone core then [] else q.cache.filter fun e => r.inPage (128 * tagLine e.1)
    let dirty := mine.filter fun e => e.2.dirty ≠ 0
    let merge := !r.op.migrate && r.op.mode == 0 && bitsOf r.leaf.toNat 61 59 == 1
    let s := if s.coreGone core then s else s.setCore core { q with cache := q.cache.filter fun e => !r.inPage (128 * tagLine e.1) }
    let s := s.noInstall core (fun l => r.inPage (128 * l))
    let kept : List Contribution :=
      if merge then dirty.map fun e => ⟨dieOf core, core + 1, tagLine e.1, e.2.dirty, e.2.data, e.2.pois⟩ else []
    let s := if merge then s else dirty.foldl (fun s e => s.sweepLine core (tagLine e.1) e.2) s
    let left := r.waiting.filter (· ≠ core)
    let s := s.setRun die slot { r with waiting := left, swept := r.swept ++ kept }
    .next (if left.isEmpty then s.post (.pageOpCompletion die slot) else s)

/-! ## Act -/

/-- The lines of the page that a table of line numbers lists. -/
def PageRun.linesIn {α : Type} (r : PageRun) (m : List (Nat × α)) : List Nat :=
  (m.map Prod.fst).filter fun l => decide (r.base ≤ 128 * l) && decide (128 * l < r.base + r.size)

/-- The die copies of the page's lines: line and die. -/
def State.pageCopies (s : State) (r : PageRun) : List (Nat × Nat) :=
  (s.proxies.map fun e => (e.1 / 4, e.1 % 4)).filter fun e => r.inPage (128 * e.1)

/-- The directory recalls every remote copy of the page (R164, R170). -/
def State.recallPage (s : State) (r : PageRun) : State :=
  ((s.pageCopies r).map Prod.fst).dedup.foldl State.recall s

/-- Fold every till of the page (R121). -/
def State.foldPage (s : State) (r : PageRun) : State :=
  let ls := ((s.slices.flatMap fun e => (e.2.tills.filterMap TillEntry.asWord).map fun t => lineOf t.1).dedup).filter
    fun l => r.inPage (128 * l)
  ls.foldl State.foldLine s

/-- Every NC copy of the page writes its dirty bytes back and is discarded (R166, R170). -/
def State.returnCopies (s : State) (r : PageRun) : State :=
  (s.pageCopies r).foldl (fun s e => match s.proxy e.1 e.2 with
    | none => s
    | some p =>
      let s := s.dropProxy e.1 e.2
      if p.dirty = 0 then s
      else
        let s := (((s.foldLine e.1).awake (homeSlice e.1)).writeLine e.1 p.data.toNat p.dirty.toNat).markLine e.1 p.pois (wholeWords p.dirty)
        ((s.tag e.1).2).walkWaiters e.1) s

/-- The contributors of a merge in order: die by die, the die's copy first, then its cores (R175). -/
def insertContribution (e : Contribution) : List Contribution → List Contribution
  | [] => [e]
  | x :: r => if e.die < x.die || (e.die == x.die && e.order ≤ x.order) then e :: x :: r else x :: insertContribution e r

/-- Bytes of a line that two or more masks name. -/
def overlapsOf (ms : List Nat) : Nat :=
  ((List.range 128).filter fun i => (ms.filter fun m => m.testBit i).length ≥ 2).length

/-- The byte merge of NC to COH: one line, one tag; each contributor's marks go with its bytes (R174, R175). -/
def State.mergeLine (s : State) (line : Nat) (cs : List Contribution) : State :=
  let s := (s.foldLine line).awake (homeSlice line)
  let s := cs.foldl (fun s c => (s.writeLine line c.data.toNat c.mask.toNat).markLine line c.pois (wholeWords c.mask)) s
  ((s.tag line).2).walkWaiters line

/-- The dirty bytes of the dies' copies of the page. -/
def State.copyContributions (s : State) (r : PageRun) : List Contribution :=
  (s.pageCopies r).filterMap fun e => match s.proxy e.1 e.2 with
    | some p => if p.dirty ≠ 0 then some ⟨e.2, 0, e.1, p.dirty, p.data, p.pois⟩ else none
    | none => none

/-- The byte merge of a page: the overlaps, and the state (R175). -/
def State.mergePage (s : State) (r : PageRun) : Nat × State :=
  let all := (s.copyContributions r ++ r.swept).foldl (fun l e => insertContribution e l) []
  let s := (s.pageCopies r).foldl (fun s e => s.dropProxy e.1 e.2) s
  (all.map Contribution.line).dedup.foldl (fun a line =>
    let cs := all.filter fun e => e.line = line
    (a.1 + overlapsOf (cs.map fun c => c.mask.toNat), a.2.mergeLine line cs)) (0, s)

/-- Copy a page's bytes with their marks: every slice of the die that takes them is awake (R169, R446). -/
def State.copyBytes (s : State) (src dst size : Nat) : State :=
  let awoken (e : Nat × Slice) : Nat × Slice :=
    if dieOfSlice e.1 = bitsOf dst 39 38 then (e.1, { e.2 with retained := false }) else e
  let s := { s with slices := s.slices.map awoken }
  let cells := s.mem.filter fun e => decide (src ≤ e.1) && decide (e.1 < src + size)
  let cleared := s.mem.filter fun e => !(decide (dst ≤ e.1) && decide (e.1 < dst + size))
  let marks := s.poisoned.filter fun w => decide (src ≤ 8 * w) && decide (8 * w < src + size)
  let kept := s.poisoned.filter fun w => !(decide (dst ≤ 8 * w) && decide (8 * w < dst + size))
  let tags := s.lineKeys.filter fun e => decide (src ≤ 128 * e.1) && decide (128 * e.1 < src + size)
  let other := s.lineKeys.filter fun e => !(decide (dst ≤ 128 * e.1) && decide (128 * e.1 < dst + size))
  { s with mem := cells.foldl (fun m e => memPut m (dst + (e.1 - src)) e.2) cleared,
           lineKeys := tags.foldl (fun m e => m.set (dst / 128 + (e.1 - src / 128)) e.2) other,
           poisoned := kept ++ marks.map fun w => dst / 8 + (w - src / 8) }

/-- Place a till that moves with its page into its new slice (R176). -/
def State.placeTill (s : State) (t : TillEntry) (a : Nat) : State :=
  let k := homeSlice (lineOf a)
  let s := if (s.slice k).tills.length ≥ Config.tillEntries then s.earlyFold k else s
  s.setSlice k { s.slice k with tills := (s.slice k).tills ++ [t], retained := false }

/-- Move the tills of a page, unsummed (R176). -/
def State.moveTills (s : State) (r : PageRun) : State :=
  let mine (t : TillEntry) : Bool := match t with
    | .word a _ _ => decide (r.base ≤ a) && decide (a < r.base + r.size)
    | .block _ _ _ _ _ => false
  let ts := s.slices.flatMap fun e => e.2.tills.filter mine
  let s := { s with slices := s.slices.map fun e => (e.1, { e.2 with tills := e.2.tills.filter fun t => !mine t }) }
  ts.foldl (fun s t => match t with
    | .word a c x => s.placeTill (.word (r.move a) c x) (r.move a)
    | .block _ _ _ _ _ => s) s

/-- Put a waiter that moves with its page into its new slice; a full table makes it a poller (R131, R176). -/
def State.placeWaiter (s : State) (w : Waiter) : State :=
  let k := homeSlice (lineOf w.lane.pa)
  if (s.slice k).waiting ≥ Config.waiterEntries then s.at (s.pcyc + 1024) (.waiterPollRetry w)
  else s.setSlice k { s.slice k with waiters := (s.slice k).waiters ++ [w], retained := false }

/-- A drain in progress for a word of the page goes on at the new frame (R176). -/
def PageRun.moveJob (r : PageRun) (j : Job) : Job :=
  let next := match j.next with
    | .acq q n => Drain.acq (mapReq r.moveLane q) n
    | .bar w v => .bar (mapWaiter r.moveLane w) v
    | .wait w v => .wait (mapWaiter r.moveLane w) v
    | .rel q n v => .rel (mapReq r.moveLane q) n v
    | .arrive w => .arrive (mapWaiter r.moveLane w)
  { j with line := lineOf (r.move (128 * j.line)), next := next }

/-- Move the waiters, release records, drains and sequence counters of a page: a line's counter at the new frame is the old one's,
those that stand at 0 too (R176). Records that the new slice's table has no room for are kept beyond its size (log 82). -/
def State.moveTables (s : State) (r : PageRun) : State :=
  let within (a : Nat) : Bool := decide (r.base ≤ a) && decide (a < r.base + r.size)
  let ws := (s.slices.flatMap fun e => e.2.waiters.filter fun w => within w.lane.pa).map (mapWaiter r.moveLane)
  let rs := s.slices.flatMap fun e => e.2.records.filter fun x => within x.1
  let ns := s.slices.flatMap fun e => e.2.seqs.filter fun x => within (128 * x.1)
  let fresh (line : Nat) : Bool := match r.dest with
    | some d => decide (d ≤ 128 * line) && decide (128 * line < d + r.size)
    | none => false
  let rest (sl : Slice) : Slice :=
    { sl with waiters := sl.waiters.filter fun w => !within w.lane.pa, records := sl.records.filter fun x => !within x.1,
              seqs := sl.seqs.filter fun x => !fresh x.1 }
  let s := { s with slices := s.slices.map fun e => (e.1, rest e.2), jobs := s.jobs.map fun e => (e.1, r.moveJob e.2) }
  let s := ws.foldl State.placeWaiter s
  let s := rs.foldl (fun s x =>
    let k := homeSlice (lineOf (r.move x.1))
    s.setSlice k { s.slice k with records := (s.slice k).records ++ [(r.move x.1, x.2)] }) s
  ns.foldl (fun s x => s.setSeq (r.move (128 * x.1) / 128) x.2) s

/-- Step 4 of PGMIG: data, marks, counters, tills, release records, waiters and the fault records' operations go to the new frame (R176). -/
def State.actMigrate (s : State) (r : PageRun) (dest : Nat) : State :=
  let s := ((s.copyBytes r.base dest r.size).moveTables r).moveTills r
  { s with stops := s.stops.map fun x => (r.move x.1, x.2) }

/-- The 64 KiB frames of a page (R421). -/
def PageRun.frames (r : PageRun) : List Nat := (List.range (r.size / 65536)).map (r.base / 65536 + ·)

/-- Step 4 (R174, R176): the overlaps and the state. -/
def State.pageAct (s : State) (r : PageRun) : Nat × State :=
  let old := bitsOf r.leaf.toNat 61 59
  if r.op.migrate then
    (0, match r.dest with
      | some d => (if old = 1 then s.returnCopies r else s.recallPage r).actMigrate r d
      | none => s)
  else match old, r.op.mode with
    | 1, 0 => s.mergePage r
    | 0, 2 =>
      let s := (s.recallPage r).foldPage r
      (0, ((List.range 4).filter fun d => bitOf r.op.mask d && d ≠ bitsOf r.base 39 38).foldl
        (fun s d => s.copyBytes r.base (r.base % 2 ^ 38 + d * 2 ^ 38) r.size) s)
    | 4, 3 => (0, { s.recallPage r with hostFrames := (s.hostFrames ++ r.frames).dedup })
    | 3, 4 => (0, { s with hostFrames := s.hostFrames.filter (!r.frames.contains ·) })
    | _, _ => (0, s.recallPage r)

/-! ## Instructions -/

/-- Issue of a page operation: after every earlier access is performed (R172), parked until it ends (R173). -/
def State.pageInstr (s : State) (op : PageOp) (malformed : Bool) : Out State :=
  if !s.quiet s.cur true then .next (s.parkMe (.performed true))
  else
    let s := s.parkMe .reply
    if malformed then .next (s.pageReply op 0 3)
    else .next (s.post (.pageOpSlotGrant (match s.pageLeaf op with
      | some l => bitsOf l.base 39 38
      | none => 0) op))

/-- PGMODE and PGMODE.N (R173, R174). -/
def execPgmode (n : Bool) (a b c : R5) (s : State) : Out State :=
  let w := (s.me.xr c).toNat
  s.pageInstr { src := s.src, a := a, va := (s.me.xr b).toNat, asid := w % 512, migrate := false, mode := bitsOf w 11 9,
                mask := bitsOf w 15 12, frame := 0, noWait := n } (bitsOf w 63 16 != 0 || decide (bitsOf w 11 9 > 4))

/-- PGMODE.CF (R173). -/
def execPgmodeCf (a c : R5) (s : State) : Out State :=
  let d := (s.me.xr c).toNat % 4
  .next (((s.setDie d { s.die d with mcf := false }).finish (·.pendX a)).post
    (.longResultArrival (Reply.of s.cur [.x a 0 none] false)))

/-- PGMIG and PGMIG.N (R176). -/
def execPgmig (n : Bool) (a b c : R5) (s : State) : Out State :=
  let w := (s.me.xr c).toNat
  s.pageInstr { src := s.src, a := a, va := (s.me.xr b).toNat, asid := w % 512, migrate := true, mode := 0, mask := 0,
                frame := bitsOf w 39 16 * 65536, noWait := n } (bitsOf w 63 40 != 0 || bitsOf w 15 9 != 0)

/-- The directory fields of a PGQ line word (R178): state code, owner, sharers. -/
def dirCode : Option Dir → Nat × Nat × List Nat
  | none => (0, 0, [])
  | some (.sh ds) => (1, 0, ds)
  | some (.ex d) => (2, d, [])
  | some (.ow d ds) => (3, d, ds)

/-- The word PGQ and PGQ.L return (R178, R179: a snapshot). -/
def State.pgqWord (s : State) (asid va : Nat) (line : Bool) : Nat :=
  if va ≥ 2 ^ 53 then 0
  else match s.walk asid va with
    | .error _ => 0
    | .ok l =>
      let device := targetOf l.base = .hbm
      let trans := (s.pageBusy l).isSome
      let die := if device then bitsOf l.base 39 38 else 0
      if line then
        if ¬device then 2 ^ 63
        else
          let ln := lineOf (l.pa va)
          let d := if l.mode = 0 ∨ l.mode = 4 then dirCode (s.dirOf ln) else (0, 0, [])
          2 ^ 63 + s.seqOf ln % 65536 * 2 ^ 32 + (d.2.2.foldl (fun m x => m ||| 2 ^ x) 0) * 2 ^ 8 + d.2.1 * 2 ^ 6 + d.1 * 2 ^ 4 +
            trans.toNat * 8 + (s.slice (homeSlice ln)).retained.toNat * 4 + die
      else 2 ^ 63 + l.base + trans.toNat * 2 ^ 12 + l.big.toNat * 2 ^ 11 + l.mode * 2 ^ 8 + l.mask * 2 ^ 4 + die * 4 +
        (bitOf l.word.toNat 12).toNat * 2 + (bitOf l.word.toNat 13).toNat

/-- A long result whose value is known at issue. -/
def State.longValue (s : State) (a : R5) (v : Nat) : Out State :=
  .next ((s.finish (·.pendX a)).post (.longResultArrival (Reply.of s.cur [.x a (BitVec.ofNat 64 v) none] false)))

/-- PGQ (R178). -/
def execPgq (a b : R5) (s : State) : Out State := s.longValue a (s.pgqWord s.me.asid (s.me.xr b).toNat false)
/-- PGQ.L (R178). -/
def execPgqL (a b : R5) (s : State) : Out State := s.longValue a (s.pgqWord s.me.asid (s.me.xr b).toNat true)
/-- PGQ.D (R178). -/
def execPgqD (a : R5) (s : State) : Out State :=
  let d := s.die (dieOf s.me.core)
  s.longValue a (d.mcf.toNat * 2 ^ 63 + ((d.pages.map Prod.fst).foldl (fun m k => m ||| 2 ^ k) 0) * 2 ^ 32 +
    d.pqref * 2 ^ 16 + d.pqrec)

end Sys2Proof.Machine
end

