-- ==== Sys2Proof/Machine/Order.lean ====
section
/-! DEFINITION. What happens next: the order that messages in flight keep among themselves (R14, R116, R119, R129, R164, R170), the
choice among them, and the clock (R16, R63). -/

namespace Sys2Proof.Machine

/-! ## Order among messages -/

/-- What a message touches: the core it comes from, the spans of bytes (first address and length), and its kind: 0 a plain access, 1 an
operation of the atomic unit, 2 a write-back, 3 a step of the directory (whichever core it comes from). -/
structure Touch where
  core : Nat
  spans : List (Nat × Nat)
  kind : Nat
  deriving DecidableEq, Repr

/-- The bytes of a request's lanes, pools included. -/
def reqSpans (q : MemReq) : List (Nat × Nat) := q.lanes.map fun l => (l.pa, l.n)

/-- A line as a span. -/
def lineSpan (line : Nat) : Nat × Nat := (128 * line, 128)

/-- The bytes of a fill: the lines of its lanes, which it may install, or only the lanes where it allocates nothing (R96, R104). -/
def fillSpans (q : MemReq) : List (Nat × Nat) :=
  if q.na then reqSpans q else q.lanes.map fun l => if isPool l.pa then (l.pa, l.n) else lineSpan (lineOf l.pa)

/-- What an access of memory touches; every other event touches nothing. The window of another device has addresses of its own. -/
def touchOf : Event → Option Touch
  | .fillAtHome ⟨q, _⟩ => some ⟨q.src.core, fillSpans q, 0⟩
  | .lineFillArrival q _ => some ⟨q.src.core, fillSpans q, 0⟩
  | .poolBankAccess q _ => some ⟨q.src.core, reqSpans q, 0⟩
  | .lockedStoreRelease q _ => some ⟨q.src.core, reqSpans q, 0⟩
  | .bridgeDeviceAccess q _ => some ⟨q.src.core, reqSpans q, 0⟩
  | .writeThroughAtHome q _ => some ⟨q.src.core, reqSpans q, 0⟩
  | .atomicAtHome q _ => some ⟨q.src.core, reqSpans q, 1⟩
  | .contributionAtHome q _ _ => some ⟨q.src.core, reqSpans q, 1⟩
  | .releaseAtHome q _ _ => some ⟨q.src.core, reqSpans q, 1⟩
  | .acquireAtHome q _ => some ⟨q.src.core, reqSpans q, 1⟩
  | .wakeAtHome q _ => some ⟨q.src.core, reqSpans q, 1⟩
  | .barrierArrivalAtHome w => some ⟨w.src.core, [(w.lane.pa, w.lane.n)], 1⟩
  | .waitRegistration w => some ⟨w.src.core, [(w.lane.pa, w.lane.n)], 1⟩
  | .remoteWordAccess m => some ⟨8192 + m.dev, [(2 ^ 67 + 2 ^ 47 * m.xport + m.off, m.n)], 0⟩
  | .writeBackMerge _ core line _ _ _ _ _ => some ⟨core, [lineSpan line], 2⟩
  | .getsAtHome line _ => some ⟨0, [lineSpan line], 3⟩
  | .getmAtHome line _ => some ⟨0, [lineSpan line], 3⟩
  | .putmAtHome line _ => some ⟨0, [lineSpan line], 3⟩
  | .puteAtHome line _ => some ⟨0, [lineSpan line], 3⟩
  | .forwardedRequest line _ _ _ => some ⟨0, [lineSpan line], 3⟩
  | .invalidateAtProxy line _ => some ⟨0, [lineSpan line], 3⟩
  | _ => none

/-- Whether two spans share a byte. -/
def spansMeet (a b : Nat × Nat) : Bool := decide (a.1 < b.1 + b.2) && decide (b.1 < a.1 + a.2)

/-- Whether two messages share a byte. -/
def meet (a b : Touch) : Bool := a.spans.any fun x => b.spans.any (spansMeet x)

/-- Whether a message touches a line. -/
def Touch.onLine (t : Touch) (line : Nat) : Bool := t.spans.any (spansMeet (lineSpan line))

/-- The key of a request to a Mint, whose requests for one key keep their order of arrival (R232). -/
def mintKey : Event → Option Key
  | .mintReference q => some q.key
  | .mintDrop q => some q.key
  | .mintReserve q => some q.key
  | .mintCreate q _ => some q.key
  | .pinRelease k _ => some k
  | _ => none

/-- The page operation in a slot. -/
def State.pageRun (s : State) (die slot : Nat) : Option PageRun := (s.die die).pages.find? slot

/-- Whether a write-back brings bytes that its core stored after the release that a drain belongs to: those of the word's line, which the
core gave up before the release left it. They are performed after the release, which does not wait for them (R115, R116, R127; log 75). -/
def afterRelease (j : Job) (t : Touch) : Bool :=
  match j.next with
  | .rel q _ _ => t.kind == 2 && t.core == q.src.core && t.onLine j.line
  | .acq _ _ | .bar _ _ | .wait _ _ | .arrive _ => false

/-- Whether an older message must be delivered before a younger one: a core's accesses of one address keep their order (R115); a directory
step ends before the line is used; a drain waits for its write-backs; a copy of a TLDP source for the store that it holds (R266); a sweep for
the core's write-backs of the page; the end of a page operation for the accesses that reached it; the result of DREG for the cores'
new slots; messages over one link arrive in the order sent (R96, R119, R129, R164, R170, R352, R412). -/
def State.blocks (s : State) (o y : Event) : Bool :=
  match touchOf o with
  | none => (match o, y with
      | .regionTableUpdateAtCore tid _ _, .longResultArrival r => r.tid == tid
      | .poolSourceCopy _ _, .lockedStoreRelease _ _ => true
      | .linkMessageArrival k _, .linkMessageArrival k' _ => k == k'
      | .remoteKeyRequest m, .remoteKeyRequest m' => m.dev == m'.dev
      | _, _ => match mintKey o, mintKey y with
        | some a, some b => a == b
        | _, _ => false)
  | some a => match touchOf y with
      | some b => meet a b && (a.kind == 3 || b.kind == 3 || a.core == b.core)
      | none => match y with
        | .drainCompletion j => a.kind == 2 && (match s.jobs.find? j with
            | some job => job.cores.contains a.core && !afterRelease job a
            | none => false)
        | .pageSweepAtCore die slot core => a.kind == 2 && a.core == core && (match s.pageRun die slot with
            | some r => a.spans.any fun x => r.inPage x.1
            | none => false)
        | .pageOpCompletion die slot => a.kind ≤ 2 && (match s.pageRun die slot with
            | some r => a.spans.any fun x => r.inPage x.1
            | none => false)
        | _ => false

/-- Whether a message comes after the release of a drain in its core's order, on the same bytes (R115). -/
def behindRelease (j : Job) (t : Touch) : Bool :=
  match j.next with
  | .rel q _ _ => t.kind ≠ 3 && t.core == q.src.core && t.spans.any fun x => (reqSpans q).any (spansMeet x)
  | .acq _ _ | .bar _ _ | .wait _ _ | .arrive _ => false

/-- The drain in progress for which a message waits: at the atomic unit, which serves a line's operations one at a time (R116, R129), and
behind a release of its own core (R115). A message that a write-back of the drained core itself must follow (`ahead`) does not wait: the
drain could not end (log 66). -/
def State.waitsForJob (s : State) (e : Event) (ahead : Bool) : Option Nat :=
  match touchOf e with
  | none => none
  | some t => (List.find? (fun j => behindRelease j.2 t ||
      (t.kind == 1 && t.onLine j.2.line && !(ahead && j.2.cores.contains t.core))) s.jobs).map Prod.fst

/-- Whether a message is a write-back. -/
def isWriteBack (e : Event) : Bool :=
  match touchOf e with
  | some t => t.kind == 2
  | none => false

/-- Whether a message is a step of a drain. -/
def ofJob (j : Nat) : Event → Bool
  | .drainCommandArrival _ k => k == j
  | .drainCompletion k => k == j
  | _ => false

/-- The message delivered when the `k`-th is chosen: the oldest that it waits for, or a step of the drain that it waits for. `ahead`
tells that a write-back waits for it. -/
def State.settleOn (s : State) : Nat → Bool → Nat → Nat
  | 0, _, k => k
  | fuel + 1, ahead, k =>
    match s.pending[k]? with
    | none => k
    | some e => match (s.pending.take k).findIdx? fun o => s.blocks o e with
      | some j => s.settleOn fuel (ahead || isWriteBack e) j
      | none => match s.waitsForJob e ahead with
        | some j => match s.pending.findIdx? (ofJob j) with
          | some i => s.settleOn fuel false i
          | none => k
        | none => k

/-- The cell at whose statistics unit a VHIST waits, and how many cores are granted before its own (R197). -/
def State.histRank (s : State) : Event → Option (Nat × Nat)
  | .vhistGrant tid cell _ _ _ _ => some (cell, ((s.ctx tid).core % 8 + 7 - (s.cell cell).statTurn % 8) % 8)
  | _ => none

/-- The VHIST that a cell's unit grants before any other: cores in round-robin order, after the one granted last (R197). -/
def State.grantFirst (s : State) (k : Nat) : Nat :=
  match s.pending[k]?.bind s.histRank with
  | none => k
  | some (cell, _) => ((List.range 8).findSome? fun r => s.pending.findIdx? fun e => s.histRank e == some (cell, r)).getD k

/-- The place of the message delivered for a choice, among those in flight. -/
def State.choose (s : State) (k : Nat) : Nat := s.grantFirst (s.settleOn (2 * s.pending.length) false (k % s.pending.length))

/-! ## Arrivals of one cycle (R430) -/

/-- The home slices at which a message arrives from the mesh, each with its plane (R14): requests, the directory's among them, on 0,
write-backs and the data of evicted copies on 2, contributions on 7. -/
def State.arrivalsOf (s : State) (e : Event) : List (Nat × Nat) :=
  let homes (q : MemReq) (plane : Nat) : List (Nat × Nat) :=
    ((q.lanes.filter fun l => laneRoute q.src.core l == 3).map fun l => (homeSlice (lineOf l.pa), plane)).dedup
  match e with
  | .contributionAtHome q _ _ => homes q 7
  | .writeBackMerge _ core line _ _ _ _ _ => [(sliceAt (dieOf core) (sliceIndex line), 2)]
  | .putmAtHome line _ => [(homeSlice line, 2)]
  | .puteAtHome line _ | .getsAtHome line _ | .getmAtHome line _ => [(homeSlice line, 0)]
  | .fillAtHome ⟨q, _⟩ | .writeThroughAtHome q _ | .atomicAtHome q _ | .releaseAtHome q _ _ | .acquireAtHome q _ | .wakeAtHome q _ =>
    homes q 0
  | .barrierArrivalAtHome w | .waitRegistration w => [(homeSlice (lineOf w.lane.pa), 0)]
  | .remoteWordAccess m => (s.remotePlace m).toList.map fun p => (homeSlice (lineOf p.1), 0)
  | _ => []

/-- Whether a slice has accepted a message of a higher plane in this cycle: this one then arrives in a later cycle (R430). -/
def State.tooLate (s : State) (e : Event) : Bool := (s.arrivalsOf e).any fun a => decide (a.2 < s.accepted.get a.1 0)

/-- The lines of this device's HBM that an arriving access reaches, with its key slots (R393). -/
def keyedLines (e : Event) : List (Nat × Nat) :=
  let homes (q : MemReq) : List (Nat × Nat) := (q.lanes.filter fun l => laneRoute q.src.core l == 3).map fun l => (lineOf l.pa, l.key)
  match e with
  | .fillAtHome ⟨q, _⟩ | .writeThroughAtHome q _ | .atomicAtHome q _ | .contributionAtHome q _ _ | .releaseAtHome q _ _ | .acquireAtHome q _
  | .wakeAtHome q _ => homes q
  | .barrierArrivalAtHome w | .waitRegistration w => [(lineOf w.lane.pa, w.lane.key)]
  | .writeBackMerge _ _ line key _ _ _ _ => if targetOf (128 * line) = .hbm then [(line, key)] else []
  | _ => []

/-- The unit of a cell has granted a core's VHIST (R197). -/
def State.grantHist (s : State) : Event → State
  | .vhistGrant tid cell _ _ _ _ => s.setCell cell { s.cell cell with statTurn := (s.ctx tid).core % 8 }
  | _ => s

/-- The slices accept a message, which reaches its lines through its key slots; a statistics unit notes the core that it grants. -/
def State.accept (s : State) (e : Event) : State :=
  { (keyedLines e).foldl (fun s x => s.rekey x.1 x.2) (s.grantHist e) with accepted := (s.arrivalsOf e).foldl (fun m a => m.set a.1 (max a.2 (m.get a.1 0))) s.accepted }

/-! ## The clock (R16, R63) -/

/-- The next cycle: events whose time has come are due. -/
def State.tick (s : State) : State :=
  let now := s.pcyc + 1
  { s with pcyc := now, turn := 0, accepted := [], due := s.due ++ (s.timers.filter fun e => e.1 ≤ now).map Prod.snd,
           timers := s.timers.filter fun e => now < e.1 }

end Sys2Proof.Machine
end

