-- ==== Sys2Proof/Machine/System.lean ====
section
/-! DEFINITION. The system registers with what writing them does (R377 to R379, R389, R390, R401), TLBI (R402), CTXSW and PREEMPT (R403,
R404), GANG (R388, R405), KEYOP (R393, R406), CAPR (R396, R407), and bring-up (R394, R397). -/

namespace Sys2Proof.Machine

/-! ## Slices and arenas (R169, R378, R379) -/

/-- SLRET_ENTER: refused unless the slice's tables are empty (R169). -/
def execSlretEnter (tid slice : Nat) (s : State) : Out State :=
  let sl := s.slice slice
  let free := sl.tills.isEmpty && sl.waiters.isEmpty && sl.records.isEmpty && sl.mint.isEmpty
  let s := if free then s.setSlice slice { sl with retained := true } else s
  .next (s.modCtx tid fun c => { c with slrstat := if free then 0 else 1 })

/-- SLRET_WAKE (R378). -/
def execSlretWake (tid slice : Nat) (s : State) : Out State :=
  .next ((s.setSlice slice { s.slice slice with retained := false }).modCtx tid fun c => { c with slrstat := 0 })

/-- RETENTION_DATA_WAKE: the access that waited proceeds; retention changes no value and no order (R169). -/
def execRetentionDataWake (_slice : Nat) (s : State) : Out State := .next s

/-- What waits for storage on a die tries again (R235). -/
def State.wakeDie (s : State) (die : Nat) : State := s.wakeRoom (sliceAt die 0)

/-- TSPLIT_WRITE (R378). -/
def execTsplitWrite (die : Nat) (v : Word) (s : State) : Out State :=
  let d := s.die die
  let n := v.toNat % 8
  let used := (s.slicesOf die).any fun sl => sl.runs.any fun r => !r.arena && decide (n * 256 < r.start + r.len)
  .next (if n = 7 ∨ (n < d.tsplit ∧ used) then s.setDie die { d with tsplitSticky := true }
    else ((s.setDie die { d with tsplit := n }).l2Split die).wakeDie die)

/-- Whether a base and a length make an arena of a die (R379). -/
def arenaOk (die base len : Nat) : Bool :=
  hbmExists base && bitsOf base 39 38 == die && base % 2 ^ 21 == 0 && decide (base % 2 ^ 36 + len * 2 ^ 21 ≤ 2 ^ 36)

/-- TARENA_WRITE (R379). -/
def execTarenaWrite (die : Nat) (len : Bool) (v : Word) (s : State) : Out State :=
  let d := s.die die
  let base := if len then d.tarena else v
  let n := if len then v &&& 0xFFFFFFFF#64 else d.tarlen
  let used := (s.slicesOf die).any fun sl => sl.runs.any fun r => r.arena
  .next (if (used && (base != d.tarena || n != d.tarlen)) || !arenaOk die base.toNat n.toNat then s.setDie die { d with tarlenSticky := true }
    else (s.setDie die { d with tarena := base, tarlen := n }).wakeDie die)

/-! ## Pre-emption (R404) -/

/-- A resident thread is pre-empted: its lines are evictable, its slot is free; it is queued, or held (R404). -/
def State.preempt (s : State) (tid : Nat) (hold : Bool) : State :=
  if hold then s.leaveSlot tid .held else (s.leaveSlot tid .suspended).requeue tid

/-- PREEMPT_ARRIVAL (R404). -/
def execPreemptArrival (tid core slot : Nat) (hold : Bool) (a : R5) (s : State) : Out State :=
  .next (match (s.core core).slots.find? slot with
    | none => s.wakeWith tid fun c => c.setX a (BitVec.ofNat 64 (2 ^ 63))
    | some t => (s.preempt t hold).wakeWith tid fun c => c.setX a (s.ctx t).thid)

/-- PREEMPT and PREEMPT.H: the request travels while the context parks for the reply (R404). -/
def State.preemptInstr (s : State) (hold : Bool) (a b : R5) : State :=
  let n := (s.me.xr b).toNat
  (s.parkMe .reply).post (.preemptArrival s.cur (n % 8192) (bitsOf n 19 16) hold a)

/-- PREEMPT (R404). -/
def execPreempt (a b : R5) (s : State) : Out State := .next (s.preemptInstr false a b)
/-- PREEMPT.H (R404). -/
def execPreemptH (a b : R5) (s : State) : Out State := .next (s.preemptInstr true a b)

/-! ## Fencing and resetting units (R389, R390) -/

/-- The threads resident on a core. -/
def State.residents (s : State) (core : Nat) : List Nat := (s.core core).slots.map Prod.snd

/-- The cores that a fence names: one, or its whole cell. -/
def fenceCores (core : Nat) (cell : Bool) : List Nat := if cell then (List.range 8).map (8 * cellOf core + ·) else [core]

/-- Set the fence of a core or of its cell. -/
def State.setFence (s : State) (core : Nat) (cell : Bool) (b : Bool) : State :=
  if cell then s.setCell (cellOf core) { s.cell (cellOf core) with fenced := b } else s.setCore core { s.core core with fenced := b }

/-- CFENCE_FENCE (R390). -/
def execCfenceFence (tid core : Nat) (cell : Bool) (s : State) : Out State :=
  let s := ((fenceCores core cell).flatMap s.residents).foldl (fun s t => s.preempt t false) s
  .next ((s.setFence core cell true).modCtx tid fun c => { c with cstat := 0 })

/-- CFENCE_RESTORE (R390). -/
def execCfenceRestore (tid core : Nat) (cell : Bool) (s : State) : Out State :=
  .next ((s.setFence core cell false).modCtx tid fun c => { c with cstat := 0 })

/-- The cell from which a message in flight was sent, where a reset may cut it (R389): a core's accesses and its requests to a Mint, the
answers and wakes of the cell's slices, a record that a core posts. -/
def State.sentFrom (s : State) (e : Event) : Option Nat :=
  match touchOf e with
  | some t => if t.kind ≤ 2 then some (cellOf t.core) else none
  | none => match e with
    | .mintReference q | .mintDrop q | .mintReserve q | .mintCreate q _ | .adjointTileContribution q _ _ =>
      if q.peer.isNone then some (cellOf q.src.core) else none
    | .mintReplyArrival q _ => some (q.home / 2)
    | .waiterWakeArrival w _ _ => some (homeSlice (lineOf w.lane.pa) / 2)
    | .dispatcherRecordArrival _ _ (some t) => some (cellOf (s.ctx t).core)
    | _ => none

/-- The cell that receives such a message. -/
def sentTo (e : Event) : Nat :=
  let at_ (a : Nat) : Nat := if isPool a then cellOf (poolCore a) else homeSlice (lineOf a) / 2
  match e with
  | .mintReference q | .mintDrop q | .mintReserve q | .mintCreate q _ | .adjointTileContribution q _ _ => q.home / 2
  | .mintReplyArrival q _ => cellOf q.src.core
  | .waiterWakeArrival w _ _ => cellOf w.src.core
  | .dispatcherRecordArrival sector _ _ => ((List.range Config.cells).find? fun k => sectorOf k == sector).getD 0
  | e => match touchOf e with
    | some t => at_ ((t.spans.head?.map Prod.fst).getD 0)
    | none => 0

/-- Each message that a cell has in flight is cut or not, as a free value says; the receiver of a cut one discards and counts it (R389; log
23). -/
def State.cutMessages (s : State) (cell : Nat) : List Event → State
  | [] => s
  | e :: r =>
    if s.sentFrom e = some cell then
      let (v, s) := s.draw
      let k := sentTo e
      (if v.getLsbD 0 then s.setCell k { s.cell k with discarded := (s.cell k).discarded + 1 } else s.post e).cutMessages cell r
    else (s.post e).cutMessages cell r

/-- Each migration packet that a cell has in flight is cut or not; a cut one kills its thread (R389). -/
def State.cutPackets (s : State) (cell : Nat) : State :=
  s.pending.foldl (fun (s : State) e =>
    match e with
    | .migrationPacketArrival p =>
      if cellOf (s.ctx p.tid).lastCore = cell then
        let (v, s) := s.draw
        if v.getLsbD 0 then { s with pending := s.pending.filter (· != e) }.sinkPacket p else s
      else s
    | _ => s) s

/-- A Teller operation of a cell under reset is lost: its domain is told, and its thread's `TELOUT` lowered; the spec gives the cause no
code, so it is free (R315; log 23). One whose completion has done its steps 1 to 3 is complete, and only its event is lost. -/
def State.loseOp (s : State) (o : TelOp) : State :=
  if o.posted then s
  else
  let (v, s) := s.draw
  (s.modCtx o.src.tid fun c => { c with telout := c.telout - 1 }).deliver
    { rcb := o.rcb, asid := o.rcbAsid, code := trapTellerFault + 256 * (v.toNat % 2 ^ 24), pc := o.src.pc, thid := (s.ctx o.src.tid).thid,
      addr := 0, q := o.q, done := o.bytes, home := o.rcb, redir := false, waited := false }

/-- A core of a cell under reset: nothing of it remains, and its pool is zero (R389, R445). -/
def State.resetCore (s : State) (core : Nat) : State :=
  let s := (s.core core).arrivals.foldl State.sinkPacket s
  let s := (s.residents core).foldl (fun s t => s.killThread t trapImageLost 255) s
  let lost := s.threads.filter fun e => e.2.heldCore == core && e.2.held != 0
  let s := lost.foldl (fun (s : State) e => match s.dirtyLines e.1 with
    | [] => s.modCtx e.1 fun c => { c with held := 0 }
    | n :: _ => s.killThread e.1 trapImageLost n) s
  let s := (s.zeroRange (poolBase core) (2 ^ 17)).noInstall core fun _ => true
  s.setCore core { Core.initial with released := true, fenced := (s.core core).fenced }

/-- CRESET (R389): refused while the cell is under reset. -/
def execCreset (tid cell : Nat) (s : State) : Out State :=
  let k := s.cell cell
  if k.resetUntil.isSome then .next (s.modCtx tid fun c => { c with cstat := 1 })
  else
    let s := { s with pending := [] }.cutMessages cell s.pending
    let s := s.cutPackets cell
    let s := k.held.foldl State.loseOp s
    let s := s.setCell cell { Cell.initial with tlb := k.tlb, fenced := k.fenced, descs := k.descs, resetUntil := some (s.pcyc + 4096) }
    let s := ((List.range 8).map (8 * cell + ·)).foldl State.resetCore s
    .next ((s.at (s.pcyc + 4096) (.cellResetEnd cell)).modCtx tid fun c => { c with cstat := 0 })

/-- CELL_RESET_END: the cell has re-initialised; its cores' `CYCLE` starts again (R69, R389). -/
def execCellResetEnd (cell : Nat) (s : State) : Out State :=
  let s := s.setCell cell { s.cell cell with resetUntil := none }
  .next (((List.range 8).map (8 * cell + ·)).foldl (fun (s : State) q => s.setCore q { s.core q with cycle0 := s.pcyc }) s)

/-! ## SGET and SPUT (R377, R401) -/

/-- A word with a sticky bit in [63] (R377). -/
def sticky (b : Bool) (w : Word) : Word := w ||| (if b then BitVec.twoPow 64 63 else 0)

/-- The value of a system register (R377). -/
def State.systemValue (s : State) (num : Nat) : Word :=
  let c := s.me
  let die := dieOf c.core
  let d := s.die die
  match num with
  | 0x100 => c.sepc
  | 0x101 => c.scause
  | 0x102 => c.saddr
  | 0x103 => c.sstat.setWidth 64
  | 0x104 => s.svec
  | 0x105 => c.sscr0
  | 0x106 => c.sscr1
  | 0x107 => (s.sevt die).setWidth 64
  | 0x108 => BitVec.ofNat 64 (c.asid % 512)
  | 0x110 => s.asidtb
  | 0x111 => sticky d.tsplitSticky (BitVec.ofNat 64 d.tsplit)
  | 0x113 => c.slrstat
  | 0x114 => BitVec.ofNat 64 d.pwrthr
  | 0x115 => d.tarena
  | 0x116 => sticky d.tarlenSticky d.tarlen
  | 0x11A => c.cstat
  | 0x120 => s.devid.setWidth 64
  | 0x130 => s.fvec
  | 0x131 => c.fepc
  | 0x132 => c.fcause
  | _ => c.fstat.setWidth 64

/-- SGET (R377, R401). -/
def execSget (a : R5) (num : BitVec 12) (s : State) : Out State := .next (s.finish (·.setX a (s.systemValue num.toNat)))

/-- A write to a register of the context (R377). -/
def Ctx.putSystem (c : Ctx) (num : Nat) (v : Word) : Ctx :=
  match num with
  | 0x100 => { c with sepc := v }
  | 0x101 => { c with scause := v }
  | 0x102 => { c with saddr := v }
  | 0x103 => { c with sstat := v.setWidth 4 }
  | 0x105 => { c with sscr0 := v }
  | 0x106 => { c with sscr1 := v }
  | 0x131 => { c with fepc := v }
  | 0x132 => { c with fcause := v }
  | 0x133 => { c with fstat := v.setWidth 4 }
  | _ => c

/-- SPUT (R377, R401): a write that acts completes its action before the context issues again. -/
def execSput (b : R5) (num : BitVec 12) (s : State) : Out State :=
  let c := s.me
  let v := c.xr b
  let die := dieOf c.core
  let core := v.toNat % 8192
  let s := s.done
  match num.toNat with
  | 0x104 => .next { s with svec := v }
  | 0x107 => execSevtClear die v s
  | 0x110 => .next { s with asidtb := v }
  | 0x111 => execTsplitWrite die v s
  | 0x112 => if v.getLsbD 63 then execSlretEnter s.cur (v.toNat % 2048) s else execSlretWake s.cur (v.toNat % 2048) s
  | 0x115 => execTarenaWrite die false v s
  | 0x116 => execTarenaWrite die true v s
  | 0x118 => if v.getLsbD 63 then execCfenceFence s.cur core (v.getLsbD 13) s else execCfenceRestore s.cur core (v.getLsbD 13) s
  | 0x119 => execCreset s.cur (v.toNat % 1024) s
  | 0x120 => .next { s with devid := v.setWidth 10 }
  | 0x130 => .next { s with fvec := v }
  | n => .next (s.setMe (s.me.putSystem n v))

/-! ## TLBI (R402) -/

/-- Remove what a TLBI names from a core and from the caches of its cell and die (R402). -/
def State.shootDown (s : State) (asid : Option Nat) (range : Option (Nat × Nat)) (core : Nat) : State :=
  let mine (x : Nat) : Bool := match asid with
    | none => true
    | some a => a == x
  let gone (e : TlbEntry) : Bool := mine e.asid && (match range with
    | none => true
    | some (lo, hi) => e.touches e.asid lo hi)
  let stale (i : Nat × Word × List Byte) : Bool := mine i.1 && (match range with
    | none => true
    | some (lo, hi) => decide (lo / 2 ^ 21 * 2 ^ 21 ≤ i.2.1.toNat ∧ i.2.1.toNat < ceilDiv hi (2 ^ 21) * 2 ^ 21))
  let q := s.core core
  let s := s.setCore core { q with tlb := dropEntries q.tlb gone, icache := q.icache.filter fun i => !stale i }
  let k := cellOf core
  let s := (s.setCell k { s.cell k with tlb := dropEntries (s.cell k).tlb gone }).refetch core fun a va => stale (a, va, [])
  s.setDie (dieOf core) { s.die (dieOf core) with tlb := dropEntries (s.die (dieOf core)).tlb gone }

/-- Whether an access that has been translated through an entry which a TLBI names has not left its core: rows of a drain that are not yet
written, or the lanes of an instruction that is past its address phase (R284, R302, R402). -/
def State.translated (s : State) (asid : Option Nat) (range : Option (Nat × Nat)) (core : Nat) : Bool :=
  let mine (x : Nat) : Bool := asid.all fun a => a == x
  let hit (l : Lane) : Bool := !isPool l.pa && range.all fun r => decide (r.1 / 2 ^ 21 * 2 ^ 21 ≤ l.va ∧ l.va < ceilDiv r.2 (2 ^ 21) * 2 ^ 21)
  let m := s.matrix core
  (m.queue.drop (if m.row > 64 then 1 else 0)).any (fun q => match q with
    | .drain src _ _ (.rows ls) _ _ _ => mine src.asid && ls.any hit
    | _ => false) ||
  s.threads.any fun e => e.2.core == core && mine e.2.asid && e.2.passed.any hit

/-- TLBI_SHOOTDOWN_AT_CORE: the core acknowledges once every access that was translated through a removed entry has left it (R402). -/
def execTlbiShootdownAtCore (tid core : Nat) (asid : Option Nat) (range : Option (Nat × Nat)) (s : State) : Out State :=
  let busy := s.translated asid range core
  let s := s.shootDown asid range core
  .next (if busy then s.at (s.pcyc + 1) (.tlbiShootdownAtCore tid core asid range) else s.ackPlane6 tid)

/-- TLBI (R402): the release, then every structure in scope. What a core that had not yet acted put back meanwhile is removed when all
have acknowledged. -/
def State.tlbi (s : State) (scope : BitVec 3) (asid : Option Nat) (range : Option (Nat × Nat)) (empty : Bool) : Out State :=
  let sc := if scope = 0 then 1 else scope.toNat
  let cores := s.scopeCores s.me.core sc
  .next (if s.me.stage = 9 then (cores.foldl (fun s q => s.shootDown asid range q) s).done
    else match s.relPart sc 0 with
      | .error s => s
      | .ok s => if empty then s.done else s.askCores cores fun q => .tlbiShootdownAtCore s.cur q asid range)

/-- The space that a register names (R402). -/
def Ctx.asidOf (c : Ctx) (b : R5) : Option Nat := some ((c.xr b).toNat % 512)

/-- TLBI.ALL (R402). -/
def execTlbiAll (scope : BitVec 3) (s : State) : Out State := s.tlbi scope none none false
/-- TLBI.ASID (R402). -/
def execTlbiAsid (scope : BitVec 3) (b : R5) (s : State) : Out State := s.tlbi scope (s.me.asidOf b) none false
/-- TLBI.VA (R402). -/
def execTlbiVa (scope : BitVec 3) (b v : R5) (s : State) : Out State :=
  let a := (s.me.xr v).toNat
  s.tlbi scope (s.me.asidOf b) (some (a, a + 1)) false
/-- TLBI.RANGE (R402). -/
def execTlbiRange (scope : BitVec 3) (b v l : R5) (s : State) : Out State :=
  let a := (s.me.xr v).toNat
  let n := (s.me.xr l).toNat
  s.tlbi scope (s.me.asidOf b) (if n > 2 ^ 32 then none else some (a, a + n)) (n == 0)

/-! ## CTXSW (R403) -/

/-- CTXSW (R403): a held thread takes a free slot of the issuing core. -/
def execCtxsw (a b : R5) (s : State) : Out State :=
  let c := s.me
  let tid := (c.xr b).toNat
  let t := s.ctx tid
  .next (if t.imstate ≠ .held then s.doneLong a 2
    else if !(s.mayTake c.core t.asid t.split && s.asidValid t.asid && s.contextFits t.rcb.toNat t.asid) then s.doneLong a 1
    else (((s.countContext t.rcb.toNat t.asid true).seat tid c.core false none)).doneLong a 0)

/-- The threads of a slot of a core: the resident one, and pre-empted ones that last ran there and whose lines it still holds (R403). -/
def State.slotThreads (s : State) (core slot : Nat) : List Nat :=
  let resident := ((s.core core).slots.find? slot).toList
  resident ++ (s.threads.filter fun e => e.2.imstate != .resident && e.2.slot == slot && e.2.heldCore == core && e.2.held != 0).map Prod.fst

/-- Whether it is a core's own region that holds a thread's lines: a thread newly placed has them where it ran before (R381, R403). -/
def State.linesHere (s : State) (core tid : Nat) : Bool := (s.ctx tid).heldCore == core

/-- CTXSW.FL (R403). -/
def execCtxswFl (a b : R5) (s : State) : Out State :=
  let c := s.me
  let ts := (s.slotThreads c.core ((c.xr b).toNat % 16)).filter (s.linesHere c.core)
  let n := (ts.map fun t => (s.dirtyLines t).length).sum
  .next ((ts.foldl (fun s t => s.writeBackImage t) s).doneLong a (BitVec.ofNat 64 n))

/-- CTXSW.Q (R403). -/
def execCtxswQ (a b : R5) (s : State) : Out State :=
  let c := s.me
  .next (s.doneLong a (match s.slotThreads c.core ((c.xr b).toNat % 16) with
    | [] => 0
    | t :: _ =>
      let x := s.ctx t
      let n := if s.linesHere c.core t then x.heldLines.length else 0
      BitVec.ofNat 64 ((if x.imstate = .resident then 1 else 2) * 2 ^ 62 + n * 2 ^ 48 + x.thid.toNat % 2 ^ 32)))

/-! ## GANG (R388, R405) -/

/-- The resident contexts of a core that a halt stops: those of the subtree whose kernel has not the service role (R388). -/
def State.gangOf (s : State) (core asid rcb : Nat) : List Nat :=
  (s.residents core).filter fun t => !(s.ctx t).service && s.inSubtree asid rcb (s.ctx t).rcb.toNat (s.ctx t).asid

/-- The halts and releases that stand once one more has been made: it replaces those of the RCBs below it (R388, R405). -/
def State.haltsAfter (s : State) (asid rcb : Nat) (on : Bool) : List (Nat × Nat × Bool) :=
  s.halts.filter (fun h => !s.inSubtree asid rcb h.2.1 h.1) ++ [(asid, rcb, on)]

/-- GANG.HALT (R388, R405): the halt reaches every core within 64 cycles of the first, each after a free number of cycles; `hold` counts
the contexts. -/
def execGangHalt (a b : R5) (s : State) : Out State :=
  let c := s.me
  let rcb := (c.xr b).toNat
  .next (if c.stage = 9 then s.doneLong a c.hold
    else
      let s := s.cores.foldl (fun (s : State) q =>
        let (v, s) := s.draw
        s.at (s.pcyc + 1 + v.toNat % 64) (.haltTreeArrival s.cur q.1 rcb)) { s with halts := s.haltsAfter c.asid rcb true }
      s.setMe { s.me with hold := 0, stage := 9, awaits := s.cores.length, park := some .plane6 })

/-- A count of messages at a halt: it has grown since the last one by a free number, of at most one message a cycle on each of the eight
planes, from zero at the core's reset (R14, R388; log 23). -/
def State.latched (s : State) (core old : Nat) : Nat × State :=
  let q := s.core core
  let (v, s) := s.draw
  ((old + v.toNat % (8 * (s.pcyc - q.cycle0 - q.latch.1) + 1)) % 2 ^ 48, s)

/-- HALT_TREE_ARRIVAL: the subtree's contexts stop, and the core latches its counts; the last core's answer has the halt delivered
(R388). -/
def execHaltTreeArrival (tid core rcb : Nat) (s : State) : Out State :=
  let asid := (s.ctx tid).asid
  let ts := s.gangOf core asid rcb
  let (i, s) := s.latched core (s.core core).latch.2.1
  let (e, s) := s.latched core (s.core core).latch.2.2.1
  let s := ts.foldl (fun s t => s.modCtx t fun c => { c with halted := true }) s
  let s := s.setCore core { s.core core with latch := (s.pcyc - (s.core core).cycle0, i, e, true) }
  let s := (s.modCtx tid fun c => { c with hold := c.hold + BitVec.ofNat 64 ts.length }).ackPlane6 tid
  .next (if (s.ctx tid).awaits = 0 then
      s.deliver { rcb := rcb, asid := asid, code := trapGangHalt, pc := 0, thid := 0, addr := BitVec.ofNat 64 rcb, q := [], done := 0,
                  home := rcb, redir := false, waited := false }
    else s)

/-- A counted park that went on through a halt is limited again: its count went on too (R337, R388). -/
def State.limitAgain (s : State) (tid : Nat) : State :=
  match (s.ctx tid).parkSince with
  | some t => s.at (max (s.pcyc + 1) (t + (s.ctx tid).parkFor)) (.parkLimitExpiry tid)
  | none => s

/-- GANG.RESUME: the subtree is released, a part of a halted one too (R405). A released context goes on with the line that it holds: it is
not resumed in the sense of R32, which has a context enter its line anew (log 77). -/
def execGangResume (a b : R5) (s : State) : Out State :=
  let c := s.me
  let rcb := (c.xr b).toNat
  let freed := (s.threads.filter fun e => e.2.halted && s.inSubtree c.asid rcb e.2.rcb.toNat e.2.asid).map Prod.fst
  let s := { s with halts := s.haltsAfter c.asid rcb false }
  .next ((freed.foldl (fun s t => (s.modCtx t fun c => { c with halted := false }).limitAgain t) s).doneLong a
    (BitVec.ofNat 64 freed.length))

/-- GANG.READ (R405). -/
def execGangRead (a b : R5) (s : State) : Out State :=
  let n := (s.me.xr b).toNat
  let l := (s.core (n % 8192)).latch
  .next (s.doneLong a (BitVec.ofNat 64 (match bitsOf n 14 13 with
    | 0 => l.1
    | 1 => l.2.1
    | 2 => l.2.2.1
    | _ => l.2.2.2.toNat)))

/-! ## KEYOP (R393, R406) -/

/-- The slot word is malformed (R406). -/
def slotWordBad (w : Nat) : Bool := bitsOf w 15 7 != 0 || bitsOf w 63 26 != 0

/-- The key slot that a slot word asks for. -/
def slotOf (w : Nat) : KeySlot := ⟨bitsOf w 24 16, bitOf w 25⟩

/-- KEYOP.GEN (R406). -/
def execKeyopGen (a b : R5) (s : State) : Out State :=
  let w := (s.me.xr b).toNat
  .next (if slotWordBad w then s.doneLong a 2
    else if (s.vault.find? (w % 128)).isSome then s.doneLong a 1
    else { s with vault := s.vault.set (w % 128) (slotOf w) }.doneLong a 0)

/-- KEYOP.LOAD (R406): the blob is read byte by byte. -/
def execKeyopLoad (a b x : R5) (s : State) : Out State :=
  let c := s.me
  let w := (c.xr b).toNat
  .next (if slotWordBad w then s.doneLong a 2
    else if (s.vault.find? (w % 128)).isSome then s.doneLong a 1
    else if c.stage = 0 then
      match placeAll (fun i => s.place c { n := 1, r := true, rdup := true } i (c.xr x) i) (List.range 72) with
      | .error e => s.stopMe e
      | .ok ps =>
        let s := s.settleAll c.core c.asid false ps
        (s.parkStage 1).routeLoad ⟨s.src, ps.map fun p => s.bindCached c.core p.lane, .buf, true, true⟩ true
    else if Config.unwraps c.buf then { s with vault := s.vault.set (w % 128) (slotOf w) }.doneLong a 0
    else s.doneLong a 3)

/-- Discard, without write-back, a die's copy of a line; the line's counter stays (R119, R406). -/
def State.discardCopy (s : State) (line die : Nat) : State :=
  let s := match s.proxy line die with
    | some p => if p.st = CopyState.m ∨ p.st = CopyState.o then s.setSeq line p.seq else s
    | none => s
  (s.dropProxy line die).putDir line ((s.dirOf line).bind (·.without die))

/-- Discard, without write-back, every L2 and pool-cache line that a key slot tags (R406). What is left of its lines in HBM stands under
keys that are gone (R393). -/
def State.discardKey (s : State) (k : Nat) : State :=
  let s : State := (s.lineKeys.filter fun e => e.2 == k).foldl (fun (s : State) e => s.scramble e.1) s
  let s : State := { s with lineKeys := s.lineKeys.map fun e => if e.2 = k then (e.1, 128) else e }
  let cores := s.cores.map fun e => (e.1, { e.2 with cache := e.2.cache.filter fun l => l.2.key != k })
  (s.proxies.filter fun e => e.2.key == k).foldl (fun s e => s.discardCopy (e.1 / 4) (e.1 % 4)) { s with cores := cores }

/-- KEYOP.CLR (R406): the keys are gone, and the lines under them are discarded. -/
def execKeyopClr (a b : R5) (s : State) : Out State :=
  let w := (s.me.xr b).toNat
  let k := w % 128
  .next (if slotWordBad w then s.doneLong a 2
    else if (s.vault.find? k).isNone then s.doneLong a 4
    else ({ s with vault := s.vault.erase k } : State).discardKey k |>.doneLong a 0)

/-- KEYOP.Q (R406). -/
def execKeyopQ (a b : R5) (s : State) : Out State :=
  .next (s.doneLong a (match s.vault.find? ((s.me.xr b).toNat % 128) with
    | none => 0
    | some k => BitVec.ofNat 64 (2 ^ 63 + k.any.toNat * 2 ^ 25 + k.owner % 512 * 2 ^ 16)))

/-! ## CAPR (R396, R407) -/

/-- The ids of the capability records, in the order of the list (R396; log 7). -/
def capIds : List Nat := [1, 2, 3, 4, 5, 6, 7, 8, 9]

/-- Bytes of a record, header included (R396). -/
def capBytes (id : Nat) : Nat := 8 + 8 * (Config.capBodyWords id % 1024)

/-- The offset of a record: one follows another (R396; log 7). -/
def capStart (id : Nat) : Nat := ((capIds.filter (· < id)).map capBytes).sum

/-- The header word of a record: id, version, length, and the offset of the next record, 0 at the end (R396). -/
def capHeader (id : Nat) : Nat :=
  id * 2 ^ 48 + Config.capVersion id % 256 * 2 ^ 40 + capBytes id * 2 ^ 24 + (if capIds.contains (id + 1) then capStart (id + 1) else 0)

/-- What a record's body reports of the machine's state: the device id, the retired units, the links (R396). -/
def State.capReport (s : State) (id : Nat) : List Nat :=
  match id with
  | 1 => [s.devid.toNat]
  | 2 => (s.cores.filter fun e => e.2.fenced).map Prod.fst ++ (s.cells.filter fun e => e.2.fenced).map fun e => Config.cores + e.1
  | 6 => (List.range 8).map fun k => (s.link k).state
  | _ => []

/-- The word of the capability space at an offset; zero beyond the list or misaligned (R396, R407). -/
def State.capRead (s : State) (o : Nat) : Word :=
  if o % 8 ≠ 0 then 0
  else match capIds.find? fun id => decide (capStart id ≤ o ∧ o < capStart id + capBytes id) with
    | none => 0
    | some id =>
      if o = capStart id then BitVec.ofNat 64 (capHeader id) else Config.capBody id ((o - capStart id) / 8 - 1) (s.capReport id)

/-- CAPR (R407). -/
def execCapr (a b : R5) (s : State) : Out State := .next (s.finish fun c => c.setX a (s.capRead (c.xr b).toNat))

/-- The offset of the first record of an id, or 0 (R407). -/
def capFind (id : Nat) : Nat := if capIds.contains id then capStart id else 0

/-- CAPR.F (R407). -/
def execCaprF (a b : R5) (s : State) : Out State :=
  .next (s.finish fun c => c.setX a (BitVec.ofNat 64 (capFind ((c.xr b).toNat % 65536))))

/-! ## Bring-up (R394, R397) -/

/-- The measurement registers of some blocks (R394, R395; log 54). -/
def measurements (bs : List Nat) : SMap (BitVec 384) := bs.map fun b => (b, Config.measurement b)

/-- The state in which firmware starts (R394, R397 steps 1 to 3). -/
def State.firmwareStarts (s : State) : State :=
  { State.reset with pending := [], draws := s.draws, firmwareUp := true, measured := measurements [1, 2, 3, 5],
                     vault := [(0, ⟨(Config.firmwareWrites 0x300).toNat % 512, true⟩)] }

/-- Firmware writes a die's registers (R397 step 4). -/
def State.firmwareDie (s : State) (die : Nat) : State :=
  let w (num : Nat) : Word := Config.firmwareWrites (num + 4096 * die)
  let run (o : Out State) (s : State) : State := match o with
    | .next t => t
    | _ => s
  let s := run (execTsplitWrite die (w 0x111) s) s
  let s := run (execTarenaWrite die false (w 0x115) s) s
  let s := run (execTarenaWrite die true (w 0x116) s) s
  s.at (2 ^ 26) (.errorWindowEnd die)

/-- COLD_RESET: the ROM verifies the firmware, which brings the device up; a failure leaves every core in reset (R394, R397; log 5). -/
def execColdReset (s : State) : Out State :=
  if !Config.romVerifies then .next { State.reset with pending := [], draws := s.draws, toHost := [.verifyFailed] }
  else
    let s := s.firmwareStarts
    let s := { s with mem := Config.bootMemory.foldl (fun m e => memPut m (e.1 % 2 ^ 40) e.2) s.mem,
                      asidtb := Config.firmwareWrites 0x110, svec := Config.firmwareWrites 0x104, fvec := Config.firmwareWrites 0x130,
                      devid := (Config.firmwareWrites 0x120).setWidth 10, measured := measurements [1, 2, 3, 4, 5] }
    let s := (List.range 4).foldl State.firmwareDie s
    .next (s.at (max 1 Config.releaseCycle) .coreRelease)

/-- CORE_RELEASE: every core leaves reset in this cycle, and the supervisor starts on core 0 of cell (0, 0) (R397 step 6; log 5). -/
def execCoreRelease (s : State) : Out State :=
  let w := Config.firmwareWrites
  let tid := (w 0x1001).toNat % 2 ^ 40 / 4096 * 4096
  let c := { Ctx.blank with thid := w 0x1002, rcb := w 0x1003, asid := (w 0x1004).toNat % 512, mode := .supervisor, pc := s.svec,
                            imstate := .resident,
                            parkLimit := s.rcbWord (w 0x1003).toNat ((w 0x1004).toNat % 512) rcbLim % 2 ^ 17 }
  let cores := (List.range Config.cores).map fun q =>
    (q, { Core.initial with released := true, cycle0 := s.pcyc, slots := if q = 0 then [(0, tid)] else [] })
  .next { s with cores := cores, cur := tid, turn := 0, threads := s.threads.set tid c }

end Sys2Proof.Machine
end

