-- ==== Sys2Proof/Machine/Link.lean ====
section
/-! DEFINITION. Device links (R411 to R418): link states, messages, key operations of other devices, shadows and notices;
and the majors 0xF8 and 0xFA: ABIND (R424), LSTAT (R425). -/

namespace Sys2Proof.Machine

/-! ## Replies to requests of this device (R413, R415, R416) -/

/-- The issuing thread parks for a result, which the event then writes as the instruction completes (R424). -/
def State.parkResult (s : State) (a : R5) (w : Word) : State :=
  (s.parkMe .reply).post (.longResultArrival (Reply.of s.cur [.x a w none] true))

/-- The outcome of a Mint operation that a status over a link names. -/
def statusOutcome (s : State) (q : KeyReq) (status : Nat) (val : Word) (data : List Byte) : MintOutcome :=
  if status = 0 then .ok
  else if status = 1 then .dead
  else if status = 2 then .word val
  else if status = 3 then .tile data
  else if status < 16 then .writeOnce (status - 4)
  else if status < 32 then .stall (status - 16)
  else if status < 64 then .space (status - 32)
  else .linkDown q.desc.dev (s.routes.get q.desc.dev 0)

/-- The lowest free binding slot of a space (R414). -/
def State.freeBinding (s : State) (asid : Nat) : Option Nat := ((List.range 63).map (· + 1)).find? fun k => (s.binding asid k).isNone

/-- The reply to a bind, a subscription or its end (R424). -/
def State.bindReply (s : State) (tid : Nat) (a : R5) (form dev arr xport status : Nat) (val : Word) : State :=
  let c := s.ctx tid
  if status = 64 then s.wakeTrap tid (s.linkDown dev)
  else
    let done (s : State) (w : Nat) : State := s.wakeWith tid fun c => c.setX a (BitVec.ofNat 64 w)
    if status = 3 then done s 3
    else if status ≠ 0 then done s 2
    else match form with
      | 0 => match s.bindingTo c.asid dev, s.freeBinding c.asid with
        | some b, _ => done s (4 + 256 * b.slot)
        | none, none => done s 3
        | none, some k => done { s with bindings := s.bindings ++ [⟨c.asid, k, dev, xport, val.toNat⟩] } (256 * k)
      | 2 =>
        let e := (c.asid, dev, arr)
        done { s with subs := if s.subs.contains e then s.subs else s.subs ++ [e] } 0
      | _ => done { s with subs := s.subs.filter (· ≠ (c.asid, dev, arr)) } 0

/-- Whether a key request that its owner could not serve yet stays there, to be answered again (R428). -/
def staysAway (w : RemoteWait) (status : Nat) : Bool :=
  decide (16 ≤ status) && decide (status < 32) && (match w with
    | .key _ | .shadow _ _ => true
    | _ => false)

/-- A reply over a link, or the failure of the request (status 64), reaches what waits for it (R413, R415 to R417). -/
def State.replyArrives (s : State) (ref status : Nat) (val : Word) (data : List Byte) : State :=
  match s.remotes.find? ref with
  | none => s
  | some w =>
    let s := if staysAway w status then s else { s with remotes := s.remotes.erase ref }
    match w with
    | .load q i =>
      if s.stale q then s else
      let l := q.lanes.getD i ⟨0, 0, 0, 0, 0, 0, 0, 0, false⟩
      if status = 0 then
        s.routeLoad { q with lanes := q.lanes.set i (laneBind l val.toNat (2 ^ l.n - 1) (!data.isEmpty)) }
      else if status = 64 then s.wakeTrap q.src.tid (s.linkDown (((s.binding q.src.asid (bitsOf l.pa 46 40)).map Binding.dev).getD 0))
      else s.wakeTrap q.src.tid ⟨trapAddrSpace, status - 32, l.idx, BitVec.ofNat 64 l.va⟩
    | .store src addr =>
      let s := s.modCtx src.tid fun c => { c with ackc := c.ackc - 1 }
      if status = 0 then s
      else if status = 64 then s.deliver (s.threadRecord src.tid trapLinkDown src.pc addr)
      else s.deliver (s.threadRecord src.tid (trapAddrSpace + 256 * (status - 32)) src.pc addr)
    | .atom q (.tapeSwap _ es slots addrs) => match q.lanes, es with
      | l :: _, e :: _ =>
        if status = 0 then s.post (.tapePush q.src e (addrs.headD l.va) val.toNat l.n (slots.headD 0) (valueOf (data.take 8))
          (decide (data.length > 8)))
        else
          let code := if status = 64 then trapLinkDown else trapAddrSpace + 256 * (status - 32)
          (s.modCtx q.src.tid fun c => { c with ackc := c.ackc - 1 }).deliver
            (s.threadRecord q.src.tid code q.src.pc (BitVec.ofNat 64 l.va))
      | _, _ => s
    | .atom q (.readClear rm rounds) => match (awayLanes q).getLast? with
      | none => s
      | some l =>
        if status = 0 then
          let x := laneBind l val.toNat (2 ^ l.n - 1) (decide (data.length > 8))
          s.sendClear { q with lanes := q.lanes.map fun y => if y = l then x else y } (.readClear rm rounds)
        else if status = 64 then s.wakeTrap q.src.tid (s.linkDown (((s.binding q.src.asid (bitsOf l.pa 46 40)).map Binding.dev).getD 0))
        else s.wakeTrap q.src.tid ⟨trapAddrSpace, status - 32, l.idx, BitVec.ofNat 64 l.va⟩
    | .atom q op => match q.lanes with
      | [] => s
      | l :: _ =>
        if status = 0 then s.post (.longResultArrival (Reply.of q.src.tid
          (atomWrites q op l val.toNat (valueOf (data.take 8)) (decide (data.length > 8))) q.parked))
        else if status = 64 then s.wakeTrap q.src.tid (s.linkDown (((s.binding q.src.asid (bitsOf l.pa 46 40)).map Binding.dev).getD 0))
        else s.wakeTrap q.src.tid ⟨trapAddrSpace, status - 32, 0, BitVec.ofNat 64 l.va⟩
    | .key q => s.post (.mintReplyArrival q (statusOutcome s q status val data))
    | .shadow slice k =>
      if status = 3 then s.post (.shadowFetchReply slice k 0 data)
      else if status = 5 then s
      else s.post (.shadowFetchReply slice k status data)
    | .bind tid a form dev arr xport => s.bindReply tid a form dev arr xport status val
    | .none => s

/-! ## Shadows (R417, R418) -/

/-- A shadow leaves its slice. -/
def State.dropShadow (s : State) (slice : Nat) (k : Key) : State :=
  match s.entry k slice with
  | none => s
  | some e =>
    let s := s.dropEntry k slice
    (if e.rcb = 0 then s else s.charge e.rcb e.asid false).wakeRoom slice

/-- A shadow that will not be filled: its waiters wake with a result, and it is dropped. -/
def State.failShadow (s : State) (slice : Nat) (k : Key) (result : Nat) : State := (s.walkKey k slice result).dropShadow slice k

/-- A shadow takes the data of its version and wakes its waiters (R417). -/
def State.fillShadow (s : State) (slice : Nat) (k : Key) (data : List Byte) : State :=
  (s.modEntry k slice fun e => { e with st := .held, data := data }).walkKey k slice 0

/-- A shadow asks the owner of its array for the version (R417). -/
def State.fetchShadow (s : State) (slice : Nat) (k : Key) : State :=
  match s.declared k.asid k.arr with
  | none => s.failShadow slice k 3
  | some d => match s.askOwner d.dev k slice 7 with
    | some s => s
    | none => s.failShadow slice k 3

/-- SHADOW_FETCH_REPLY: data; or the version is dead, the owner has no room yet, its waiter table is full and it is asked again, it refuses, or it cannot be reached
(R236, R417, R428). -/
def execShadowFetchReply (slice : Nat) (k : Key) (status : Nat) (data : List Byte) (s : State) : Out State :=
  match s.entry k slice with
  | none => .next s
  | some e =>
    if e.st ≠ .waiting then .next s
    else if status = 0 then .next (s.fillShadow slice k data)
    else if status = 4 then .next (s.fetchShadow slice k)
    else if status = 1 then .next (s.failShadow slice k 2)
    else if status = 64 then .next (s.failShadow slice k 3)
    else if status = 6 then .next (s.at (s.pcyc + 1024) (.shadowFetchReply slice k 4 []))
    else if status < 32 then
      .next (e.waiters.foldl (fun (s : State) w => match w with
        | .thread t => s.stallForce t (status - 16)
        | .teller _ _ => s) s)
    else .next (s.failShadow slice k status)

/-- The remote arrays declared here that name an array of another device's space. -/
def State.localNames (s : State) (dev space arr : Nat) : List (Nat × Desc) :=
  (s.slices.flatMap fun e => e.2.arrays).filter fun d => d.2.remote && d.2.dev == dev && d.2.aid == arr &&
    (match s.bindingTo d.1 dev with
      | some b => b.space == space
      | none => false)

/-- What a notice does to one space's shadow: a WAIT shadow takes the data or fetches it; where there is none, a subscriber keeps a HELD
shadow if an entry and storage are free, charged to no RCB (R417, R418). -/
def State.noticeAt (s : State) (asid : Nat) (d : Desc) (dev i j ver : Nat) (data : Option (List Byte)) : State :=
  let k : Key := ⟨asid, d.aid, i, j, ver⟩
  let slice := descHome d i j
  match s.entry k slice with
  | some e =>
    if e.st = .waiting then (match data with
      | some bs => s.fillShadow slice k bs
      | none => s.fetchShadow slice k)
    else s
  | none =>
    if !s.subs.contains (asid, dev, d.aid) || decide ((s.slice slice).mint.length ≥ Config.mintEntries) then s
    else (s.withRun slice (descBytes d) fun s run =>
        let e := { MintEntry.new k .waiting 0 asid with run := some run }
        match data with
        | some bs => s.addEntry slice { e with st := .held, data := bs }
        | none => (s.addEntry slice e).fetchShadow slice k).getD s

/-- ARRIVAL_NOTICE (R417, R418). -/
def execArrivalNotice (dev space arr i j ver : Nat) (data : Option (List Byte)) (s : State) : Out State :=
  .next ((s.localNames dev space arr).foldl (fun s d => s.noticeAt d.1 d.2 dev i j ver data) s)

/-! ## Key operations of other devices (R416) -/

/-- The use under which a Mint here performs an operation of another device. -/
def remoteUse (op : Nat) : KeyUse :=
  match op with
  | 0 => .tld 0
  | 1 => .tdrop false
  | 2 => .tdrop true
  | 3 => .tqry 0
  | 13 => .pool
  | 14 => .contribute
  | 17 => .adjDrop
  | _ => .tst

/-- The core under which the Mint keeps a till block for a device's core: past this device's own, 8,192 for each device (R126, R355; log 28). -/
def awayCore (dev core : Nat) : Nat := 8192 * (dev + 1) + core

/-- Whether an operation needs the tile-create right, or the tile-read right: the reverse form of an instruction asks what its forward form
asks (R416, R418; log 28). -/
def remoteNeeds (op : Nat) : Nat :=
  if op = 5 ∨ op = 6 ∨ op = 12 ∨ op = 15 ∨ op = 16 ∨ op = 17 then 2 else if op = 8 ∨ op = 10 ∨ op = 11 then 0 else 1

/-- Subscribe a device to an array of a space: at most eight (R418). -/
def State.subscribe (s : State) (asid arr dev : Nat) (answer : State → Nat → List Byte → State) : State :=
  let mine := s.subscribers.filter fun b => b.1 == asid && b.2.1 == arr
  if mine.any (fun b => b.2.2 == dev) then answer s 0 []
  else if mine.length ≥ 8 then answer s 3 []
  else answer { s with subscribers := s.subscribers ++ [(asid, arr, dev)] } 0 []

/-- A pin or a reservation of another device is given back: no right is asked for, and the export may be gone (R237, R416; log 92). -/
def State.takeBackFor (s : State) (m : RemoteKey) : State :=
  match s.declared m.rdr m.arr with
  | none => s
  | some d =>
    let k : Key := ⟨m.rdr, m.arr, m.i, m.j, m.ver⟩
    if m.op = 8 then s.unpin k (descHome d m.i m.j) else s.unreserve k (descHome d m.i m.j)

/-- REMOTE_KEY_REQUEST: performed at the owner's Mint in the exported space (R416 to R418, R424). -/
def execRemoteKeyRequest (m : RemoteKey) (s : State) : Out State :=
  let answer (s : State) (status : Nat) (data : List Byte) : State := s.replyTo m.dev m.ref status 0 data
  if m.op = 8 ∨ m.op = 12 then .next (s.takeBackFor m)
  else match s.exportFor m.xport m.dev with
  | none => .next (answer s (32 + 10) [])
  | some e =>
    if m.op = 11 then .next (s.replyTo m.dev m.ref 0 (BitVec.ofNat 64 e.asid) [])
    else if (remoteNeeds m.op = 1 ∧ !bitOf e.rights 0) ∨ (remoteNeeds m.op = 2 ∧ !bitOf e.rights 1) then .next (answer s (32 + 10) [])
    else match s.declared e.asid m.arr with
      | none => .next (answer s (32 + 8) [])
      | some d =>
        let k : Key := ⟨e.asid, m.arr, m.i, m.j, m.ver⟩
        let home := descHome d m.i m.j
        let q : KeyReq :=
          { src := ⟨0, 0, e.asid, 0⟩, key := k, home := home, desc := { d with remote := false }, use := remoteUse m.op, rdr := m.rdr,
            since := s.ticks, rcb := e.rcb, rcbAsid := e.asid, peer := some (m.link, m.dev, m.ref) }
        .next (match m.op with
          | 9 => s.subscribe e.asid m.arr m.dev answer
          | 10 => answer { s with subscribers := s.subscribers.filter (· ≠ (e.asid, m.arr, m.dev)) } 0 []
          | op =>
            if m.i > d.gi ∨ m.j > d.gj then answer s (32 + 7) []
            else if m.shape ≠ 0 ∧ (m.shape ≠ remoteShape d ∨ m.fmt ≠ d.fmt) then answer s (32 + 9) []
            else match op with
              | 1 | 2 => s.post (.mintDrop q)
              | 5 => s.post (.mintReserve q)
              | 6 => s.post (.mintCreate q m.data)
              | 14 => s.post (.adjointTileContribution { q with src := { q.src with core := awayCore m.dev m.rdr } } 0 (contributionsOf m.data))
              | 15 => s.post (.mintReference { q with use := .adjRead k home })
              | 16 => s.post (.mintReference { q with use := .adjTake m.rdr })
              | 17 => s.post (.mintDrop q)
              | 4 | 7 => s.post (.mintReference { q with use := .twait 0 none })
              | _ => s.post (.mintReference q))

/-! ## Link states and messages (R411 to R413) -/

/-- The reference of a request that went out over a link. -/
def msgRef : LinkMsg → Option Nat
  | .remoteWord m => some m.ref
  | .remoteKey m => some m.ref
  | _ => none

/-- The requests that await a reply over a link. -/
def State.awaiting (s : State) (link : Nat) : List Nat :=
  (s.remotes.map Prod.fst).filter fun r => s.sent.any fun m => m.1 == link && msgRef m.2.2 == some r

/-- The WAIT shadows of arrays that a link leads to, with their slices. -/
def State.waitingOver (s : State) (link : Nat) : List (Nat × Key) :=
  s.slices.flatMap fun e => (e.2.mint.filter fun m => m.st = MintSt.waiting && (match s.declared m.key.asid m.key.arr with
    | some d => s.routes.find? d.dev == some link
    | none => false)).map fun m => (e.1, m.key)

/-- The group record's lowest member: the root of a collective (R419). -/
def groupRoot (bs : List Byte) : Nat := field bs 40 2

/-- An XRED ends at its member with a status: the output reservation and the input pin are released (R420). -/
def State.failXred (s : State) (tid status : Nat) : State :=
  match (s.ctx tid).keyReq with
  | none => s
  | some q =>
    let s := (s.unreserve q.key q.home).unpin ((s.ctx tid).xredInput q.key) q.home
    (s.modCtx tid fun c => { c with hold := BitVec.ofNat 64 status }).wakeAgain tid

/-- A link carries nothing any more: what waits for a reply over it is answered, its WAIT shadows wake their waiters, and collectives
whose root lies behind it fail (R413, R417, R420). -/
def State.linkLost (s : State) (link : Nat) : State :=
  let refs := s.awaiting link
  let shadows := s.waitingOver link
  let members := (s.threads.filter fun e => e.2.park = some .collect && s.routes.find? (groupRoot e.2.buf) == some link).map Prod.fst
  let s := refs.foldl (fun (s : State) r => match s.remotes.find? r with
    | some (.shadow _ _) => { s with remotes := s.remotes.erase r }
    | _ => s.replyArrives r 64 0 []) s
  let s := shadows.foldl (fun (s : State) e => s.failShadow e.1 e.2 3) s
  members.foldl (fun s t => s.failXred t 4) s

/-- Set the state of a link (R411, R409); a link that comes up learns its peer. -/
def State.setLink (s : State) (link state : Nat) : State :=
  let (w, s) := s.draw
  let l := s.link link
  let l := if state = 2 then { l with peer := w.toNat % 1024, peerLink := w.toNat / 1024 % 8 } else l
  let s := { s with links := s.links.set link { l with state := state } }
  let s := s.raiseEvent (link / 2) 4
  if state = 2 then s else s.linkLost link

/-- LINK_STATE_CHANGE (R411). A fenced link stays fenced until ABIND.LF restores it. -/
def execLinkStateChange (link state : Nat) (s : State) : Out State :=
  let k := link % 8
  .next (if (s.link k).state = 3 ∨ state % 4 = 3 then s else s.setLink k (state % 4))

/-- FLIT_RETRANSMIT (R411, R425). -/
def execFlitRetransmit (link : Nat) (s : State) : Out State :=
  let l := s.link (link % 8)
  .next { s with links := s.links.set (link % 8) { l with retrans := min (l.retrans + 1) 65535 } }

/-- A message on its way to another device is dropped: the device that sent it is answered, where something there awaits an answer (R412, R413,
R420). -/
def State.answerDropped (s : State) (m : LinkMsg) : State :=
  match m with
  | .remoteWord m => s.replyTo m.dev m.ref 64 0 []
  | .remoteKey m => if m.op = 8 ∨ m.op = 12 then s else s.replyTo m.dev m.ref 64 0 []
  | .collect dev tag i j ver .. => match s.route dev with
    | some l => s.sendOn l dev (.result tag i j ver 4 [] false)
    | none => s
  | _ => s

/-- LINK_MESSAGE_ARRIVAL: to its destination within the device, or forwarded (R412). -/
def execLinkMessageArrival (link : Nat) (m : LinkMsg) (s : State) : Out State :=
  .next (if (s.link link).state ≠ 2 then s
    else match m with
      | .remoteWord m => s.post (.remoteWordAccess { m with link := link })
      | .remoteKey m => s.post (.remoteKeyRequest { m with link := link })
      | .notice dev space arr i j ver data => s.post (.arrivalNotice dev space arr i j ver data)
      | .reply ref status val data => s.replyArrives ref status val data
      | .collect dev tag i j ver op fmt shape n data nf => s.post (.xredContributionAtRoot dev tag i j ver op fmt shape n data nf)
      | .result tag i j ver status data nf => s.post (.xredResultArrival tag i j ver status data nf)
      | .forward dev hops m => match s.route dev with
        | some l => if hops ≥ 8 then s.answerDropped m else s.sendOn l dev (.forward dev (hops + 1) m)
        | none => s.answerDropped m)

/-! ## ABIND (R424) -/

/-- The device of ABIND's forms 0, 1 and 5. -/
def lowDevice (w : Word) : Nat := w.toNat % 1024
/-- The device of ABIND.S and ABIND.SU. -/
def highDevice (w : Word) : Nat := bitsOf w.toNat 25 16

/-- A round trip to the owner, for which the context parks (R424). -/
def State.bindTrip (s : State) (a : R5) (form dev arr xport op : Nat) : State :=
  match s.route dev with
  | none => s.parkResult a 1
  | some l =>
    let (ref, s) := s.await (.bind s.cur a form dev arr xport)
    (s.sendOn l dev (.remoteKey ⟨s.devid.toNat, l, xport, arr, 0, 0, 0, op, [], 0, 0, 0, ref⟩)).parkMe .reply

/-- ABIND (R414, R424). -/
def execAbind (a b x : R5) (s : State) : Out State :=
  let c := s.me
  let dev := lowDevice (c.xr b)
  .next (if dev = s.devid.toNat then s.parkResult a 5
    else match s.bindingTo c.asid dev with
      | some e => s.parkResult a (BitVec.ofNat 64 (4 + 256 * e.slot))
      | none =>
        if (s.freeBinding c.asid).isNone then s.parkResult a 3 else s.bindTrip a 0 dev 0 ((c.xr x).toNat % 256) 11)

/-- ABIND.U (R424). -/
def execAbindU (a b : R5) (s : State) : Out State :=
  let c := s.me
  let dev := lowDevice (c.xr b)
  .next (if dev = s.devid.toNat then s.parkResult a 5
    else if (s.bindingTo c.asid dev).isNone then s.parkResult a 7
    else if s.slices.any (fun e => e.2.arrays.any fun d => d.1 == c.asid && d.2.remote && d.2.dev == dev) then s.parkResult a 6
    else { s with bindings := s.bindings.filter fun e => !(e.asid == c.asid && e.dev == dev) }.parkResult a 0)

/-- A subscription, or its end (R418, R424). -/
def State.subscription (s : State) (a b : R5) (form op : Nat) : State :=
  let c := s.me
  let dev := highDevice (c.xr b)
  if dev = s.devid.toNat then s.parkResult a 5
  else match s.bindingTo c.asid dev with
    | none => s.parkResult a 7
    | some e => s.bindTrip a form dev ((c.xr b).toNat % 65536) e.xport op

/-- ABIND.S (R418, R424). -/
def execAbindS (a b : R5) (s : State) : Out State := .next (s.subscription a b 2 9)
/-- ABIND.SU (R424). -/
def execAbindSu (a b : R5) (s : State) : Out State := .next (s.subscription a b 3 10)

/-- Whether an export record is well formed (R414, R323). -/
def exportOk (bs : List Byte) : Bool :=
  field bs 27 5 == 0 && field bs 26 1 / 16 == 0 && bitsOf (field bs 24 2) 14 10 == 0 && field bs 16 8 % 65536 == 0 &&
    field bs 8 8 % 65536 == 0 && virtualOk (field bs 8 8) 65536 && virtualOk (field bs 0 8) 256 &&
    decide (field bs 8 8 + field bs 16 8 ≤ 2 ^ 53)

/-- ABIND.X: the exported space is the ASID of the RCB that the record names (R414, R323, R424). -/
def execAbindX (a b x : R5) (s : State) : Out State :=
  let c := s.me
  let k := (c.xr x).toNat % 256
  .next (if c.xr b = 0 then { s with exports := s.exports.erase k }.parkResult a 0
    else if c.stage = 0 then s.readStruct (c.xr b) 0 32
    else
      let bs := c.buf
      match (if exportOk bs then s.rcbWord? (field bs 0 8) c.asid rcbPri else none) with
      | none => s.parkResult a 2
      | some w =>
        let e : Export := ⟨field bs 0 8, bitsOf w 40 32, field bs 8 8, field bs 16 8, field bs 24 2, field bs 26 1⟩
        { s with exports := s.exports.set k e }.parkResult a 0)

/-- ABIND.RT (R412, R424). -/
def execAbindRt (a b x : R5) (s : State) : Out State :=
  let c := s.me
  let dev := lowDevice (c.xr b)
  let w := (c.xr x).toNat
  .next ({ s with routes := if bitOf w 63 then s.routes.set dev (w % 8) else s.routes.erase dev }.parkResult a 0)

/-- ABIND.LF; the state in which a restored link is found is free (R411, R424; log 3). -/
def execAbindLf (a b : R5) (s : State) : Out State :=
  let c := s.me
  let w := (c.xr b).toNat
  let k := w % 8
  .next (if bitOf w 63 then (if (s.link k).state = 3 then s else s.setLink k 3).parkResult a 0
    else if (s.link k).state = 3 then
      let (f, s) := s.draw
      (s.setLink k (f.toNat % 3)).parkResult a 0
    else s.parkResult a 0)

/-! ## LSTAT (R425) -/

/-- The operand of LSTAT: an immediate outside its range is an illegal instruction. -/
def State.lstatOf (s : State) (o : Op2) (n : Nat) (k : Nat → State) : Out State :=
  match o with
  | .imm i => .next (if i.toNat ≥ n then s.trapMe (s.me.opTrap trapIllegalOp 0) else k i.toNat)
  | .reg b => .next (k ((s.me.xr b).toNat % n))

/-- LSTAT (R425). -/
def execLstat (a : R5) (o : Op2) (s : State) : Out State :=
  s.lstatOf o 8 fun k =>
    let l := s.link k
    s.doneLong a (BitVec.ofNat 64 (l.state % 8 * 2 ^ 61 + l.peer % 1024 * 2 ^ 51 + l.peerLink % 8 * 2 ^ 48 + l.retrans % 65536 * 2 ^ 16 +
      l.lanes % 65536))

/-- LSTAT.D (R425). -/
def execLstatD (a : R5) (o : Op2) (s : State) : Out State :=
  s.lstatOf o 1024 fun d => s.doneLong a (match s.routes.find? d with
    | none => 0
    | some l => BitVec.ofNat 64 (2 ^ 63 + ((s.link l).state == 2).toNat * 8 + l % 8))

/-- LSTAT.H (R425). -/
def execLstatH (a : R5) (s : State) : Out State :=
  .next (s.doneLong a (BitVec.ofNat 64 (s.cxlUp.toNat * 2 ^ 63 + min s.hostRefused 65535 * 2 ^ 32 + min s.snoops 64 * 2 ^ 16 +
    s.splitLines % 65536)))

end Sys2Proof.Machine
end

