-- ==== Sys2Proof/Machine/Collect.lean ====
section
/-! DEFINITION. The major 0xF9: XRED and XRED.MAX, and the collective unit (R419, R420). -/

namespace Sys2Proof.Machine

/-! ## The member (R419, R420) -/

/-- The members that a group record names; the record follows the 32 bytes of the control record. -/
def groupIds (bs : List Byte) : List Nat := (List.range (field bs 32 2)).map fun i => field bs (40 + 2 * i) 2

/-- Whether ids stand strictly ascending. -/
def ascending : List Nat → Bool
  | a :: b :: r => decide (a < b) && ascending (b :: r)
  | _ => true

/-- Whether the two records keep R419, but for what it says of the array. -/
def State.groupOk (s : State) (asid : Nat) (bs : List Byte) : Bool :=
  let n := field bs 32 2
  let ids := groupIds bs
  field bs 24 8 == 0 && field bs 20 4 / 2 ^ 24 == 0 && field bs 16 4 / 2 ^ 24 == 0 && field bs 12 2 / 4096 == 0 && field bs 10 2 / 4096 == 0 &&
    field bs 36 4 == 0 && decide (2 ≤ n ∧ n ≤ 28) && ascending ids && ((List.range (28 - n)).all fun i => field bs (40 + 2 * (n + i)) 2 == 0) &&
    ids.all (fun d => decide (d < 1024)) && ids.contains s.devid.toNat && ids.all fun d => d == s.devid.toNat || (s.bindingTo asid d).isSome

/-- The key of an XRED's input or output (R419). -/
def xredKey (asid : Nat) (bs : List Byte) (ver : Nat) : Key := ⟨asid, field bs 8 2, field bs 10 2, field bs 12 2, ver⟩

/-- Send a contribution to the root: here, or over a link; none where no route leads there (R420). -/
def State.sendContribution (s : State) (op : Nat) (d : Desc) (bs data : List Byte) (nf : Bool) : Option State :=
  let root := groupRoot bs
  let tag := field bs 34 2
  let n := field bs 32 2
  let ver := field bs 20 4 % 2 ^ 24
  let shape := d.rows * 128 + d.cols
  if root = s.devid.toNat then
    some (s.post (.xredContributionAtRoot root tag (field bs 10 2) (field bs 12 2) ver op d.fmt shape n data nf))
  else (s.route root).map fun l =>
    s.sendOn l root (.collect s.devid.toNat tag (field bs 10 2) (field bs 12 2) ver op d.fmt shape n data nf)

/-- Whether any element of a tile is NaN or infinite. -/
def anyNonfinite (fmt : Nat) (vals : List Nat) : Bool := vals.any (Fmt.ofCode fmt).nonfinite

/-- The contribution of a member, once its output is reserved (R420). -/
def State.contributeXred (s : State) (op : Nat) (a : R5) (d : Desc) : State :=
  let c := s.me
  let kin := xredKey c.asid c.buf (field c.buf 16 4)
  let home := descHome d kin.i kin.j
  let data := ((s.entry kin home).map MintEntry.data).getD []
  match s.sendContribution op d c.buf data (anyNonfinite d.fmt (elemsOf d.fmt d.rows d.cols 0 data)) with
  | some s =>
    let s := s.parkCounted .collect
    s.setMe { s.me with stage := 5 }
  | none => ((s.unreserve (xredKey c.asid c.buf (field c.buf 20 4)) home).unpin kin home).doneLong a 4

/-- XRED and XRED.MAX (R419, R420). The stages: the two records, the input's reference, its presence, the output's reservation, the
contribution, the answer. -/
def State.xred (s : State) (op : Nat) (a b : R5) : State :=
  let c := s.me
  let bs := c.buf
  match c.stage with
  | 0 => s.readInto 1 { n := 32, r := true, rdup := true } (c.xr b) 0
  | 1 => s.readInto 2 { n := 64, r := true, rdup := true } (BitVec.ofNat 64 (field bs 0 8)) 0
  | 5 => s.finish fun c => (c.setX a c.hold).raise (c.hold.getLsbD 8) false
  | n =>
    let kin := xredKey c.asid bs (field bs 16 4)
    if !s.groupOk c.asid bs then s.doneLong a 1
    else match s.keyPhase c kin with
      | .error t => s.trapMe t
      | .ok (d, s) =>
        if d.remote || decide (d.fmt > 2) then s.doneLong a 1
        else if n = 2 then
          let q := s.keyReqOf kin d .xredIn 0
          s.askMint 3 q (.mintReference q)
        else if n = 3 then
          if ((s.entry kin (descHome d kin.i kin.j)).map MintEntry.st) = some MintSt.present then
            let s := s.setMe { s.me with parkSince := none }
            let q := s.keyReqOf (xredKey c.asid bs (field bs 20 4)) d .xredOut (field bs 14 2)
            s.askMint 4 q (.mintReserve q)
          else (s.parkStage 3).awaitKey s.cur kin (descHome d kin.i kin.j)
        else s.contributeXred op a d

/-- XRED (R420). -/
def execXred (a b : R5) (s : State) : Out State := .next (s.xred 0 a b)
/-- XRED.MAX (R420). -/
def execXredMax (a b : R5) (s : State) : Out State := .next (s.xred 1 a b)

/-- XRED_RESULT_ARRIVAL: the member creates its output, or gives it up, and releases its input's pin (R420). -/
def execXredResultArrival (tag i j ver status : Nat) (data : List Byte) (nf : Bool) (s : State) : Out State :=
  let mine (c : Ctx) : Bool := c.park = some .collect && field c.buf 34 2 == tag && (match c.keyReq with
    | some q => q.key.i == i && q.key.j == j && q.key.ver == ver
    | none => false)
  match List.find? (fun e => mine e.2) s.threads with
  | none => .next s
  | some (tid, c) => match c.keyReq with
    | none => .next s
    | some q =>
      if status ≠ 0 then .next (s.failXred tid status)
      else
        let s := (s.create q.key q.home (creators q) data).unpin (c.xredInput q.key) q.home
        .next ((s.modCtx tid fun c => { c with hold := BitVec.ofNat 64 (256 * nf.toNat) }).wakeAgain tid)

/-! ## The root (R420) -/

/-- Put a part among others by device id. -/
def insertPart (p : Nat × List Byte × Bool) : List (Nat × List Byte × Bool) → List (Nat × List Byte × Bool)
  | [] => [p]
  | x :: r => if p.1 < x.1 then p :: x :: r else x :: insertPart p r

/-- One step of the reduction on FP32 patterns (R420, R208). -/
def xredStep (op acc : Nat) (v : FV) : Nat :=
  if op = 0 then fp32.round 0 0 (FV.add 0 (fp32.decode acc) v) else fp32.round 0 0 (FV.minMax true false (fp32.decode acc) v)

/-- One element of the result: members in ascending order of id (R420). -/
def xredElem (op fmt : Nat) : List Nat → Nat
  | [] => 0
  | v :: r => (Fmt.ofCode fmt).round 0 0 (fp32.decode (r.foldl (fun acc w => xredStep op acc (elemFV fmt w)) (fp32.round 0 0 (elemFV fmt v))))

/-- The result of a collective: the tile and `XNF` (R420). -/
def Collect.result (c : Collect) : List Byte × Bool :=
  let rows := c.shape / 128
  let cols := c.shape % 128
  let tiles := c.parts.map fun p => elemsOf c.fmt rows cols 0 p.2.1
  let out := (List.range (rows * cols)).map fun e => xredElem c.op c.fmt (tiles.map fun t => t.getD e 0)
  (bytesOfElems c.fmt rows cols 0 out, c.parts.any (fun p => p.2.2) || anyNonfinite c.fmt out)

/-- The root answers a member: here, or over a link; an answer that cannot be sent is lost (R420). -/
def State.answerMember (s : State) (c : Collect) (dev status : Nat) (data : List Byte) (nf : Bool) : State :=
  if dev = s.devid.toNat then s.post (.xredResultArrival c.tag c.i c.j c.ver status data nf)
  else match s.route dev with
    | none => s
    | some l => s.sendOn l dev (.result c.tag c.i c.j c.ver status data nf)

/-- The root answers every member that has arrived. -/
def State.answerAll (s : State) (c : Collect) (status : Nat) (data : List Byte) (nf : Bool) : State :=
  c.parts.foldl (fun s p => s.answerMember c p.1 status data nf) s

/-- Whether a collective is the one that a message names. -/
def Collect.named (c : Collect) (tag i j ver : Nat) : Bool := c.tag == tag && c.i == i && c.j == j && c.ver == ver

/-- XRED_CONTRIBUTION_AT_ROOT: a collective whose contributions differ is known to have failed until as many members have arrived as any of them
names (R420). -/
def execXredContributionAtRoot (dev tag i j ver op fmt shape n : Nat) (data : List Byte) (nf : Bool) (s : State) : Out State :=
  let rest := s.collects.filter fun c => !c.named tag i j ver
  let c0 := (s.collects.find? fun c => c.named tag i j ver).getD ⟨tag, i, j, ver, op, fmt, shape, n, [], s.ticks, false⟩
  let s := if c0.parts.isEmpty then s.at (cycleOfTick (s.ticks + 2 ^ 30)) (.xredRootTimeout tag i j ver) else s
  let differs := decide (c0.op ≠ op ∨ c0.fmt ≠ fmt ∨ c0.shape ≠ shape ∨ c0.n ≠ n)
  let c : Machine.Collect := { c0 with parts := insertPart (dev, data, nf) (c0.parts.filter fun p => p.1 ≠ dev), n := max c0.n n,
                                       failed := c0.failed || differs }
  let full := decide (c.parts.length ≥ c.n)
  let s := { s with collects := if full then rest else rest ++ [c] }
  .next (if c0.failed then s.answerMember c dev 2 [] false
    else if c.failed then s.answerAll c 2 [] false
    else if full then s.answerAll c 0 c.result.1 c.result.2
    else s)

/-- XRED_ROOT_TIMEOUT: 2^30 ticks after the first arrival the root aborts (R420). -/
def execXredRootTimeout (tag i j ver : Nat) (s : State) : Out State :=
  match s.collects.find? fun c => c.named tag i j ver with
  | none => .next s
  | some c =>
    if s.ticks < c.since + 2 ^ 30 then .next s
    else
      let t := { s with collects := s.collects.filter fun c => !c.named tag i j ver }
      .next (if c.failed then t else t.answerAll c 3 [] false)

end Sys2Proof.Machine
end

