-- ==== Sys2Proof/Machine/Diff.lean ====
section
/-! DEFINITION. Differentiable regions: DREG and its tables (R351, R352, R357), DMODE (R358), DADJ (R360), DSEED (R361), the tape (R362 to
R364) and DCLR (R365). -/

namespace Sys2Proof.Machine

/-! ## DREG (R351, R352, R357) -/

/-- A region descriptor that R357 does not call malformed. -/
def regionOfBytes (bs : List Byte) : Option Region :=
  let base := field bs 0 8
  let adj := field bs 8 8
  let cnt := field bs 16 4
  let fmt := field bs 20 1
  let w := if fmt = 0 then 4 else 2
  let word := bitsOf base 63 53 == 0 && decide (base + cnt * w ≤ 2 ^ 53)
  let pool := bitsOf base 63 30 == 2 ^ 33 && decide (base % 2 ^ 17 + cnt * w ≤ 2 ^ 17)
  if field bs 21 11 = 0 ∧ fmt < 3 ∧ cnt ≠ 0 ∧ base % w = 0 ∧ adj % 4 = 0 ∧ (word || pool) ∧ bitsOf adj 63 53 = 0 ∧
      adj + 4 * cnt ≤ 2 ^ 53 then some ⟨base, adj, cnt, fmt⟩
  else none

/-- Whether two ranges of bytes meet. -/
def rangesMeet (a n b m : Nat) : Bool := decide (a < b + m ∧ b < a + n)

/-- Whether two regions may not stand together (R352). -/
def Region.overlaps (a b : Region) : Bool :=
  rangesMeet a.base (a.cnt * a.width) b.base (b.cnt * b.width) || rangesMeet a.adj (4 * a.cnt) b.adj (4 * b.cnt) ||
    rangesMeet a.base (a.cnt * a.width) b.adj (4 * b.cnt) || rangesMeet b.base (b.cnt * b.width) a.adj (4 * a.cnt)

/-- The master copy of a space's region slots (R352). -/
def State.regionTable (s : State) (asid : Nat) : SMap Region := s.regionTables.get asid []

/-- A changed table goes to every core that holds it; the long result waits for them (R357). -/
def State.changeRegions (s : State) (a : R5) (w : Word) (t : SMap Region) : State :=
  let c := s.me
  let s := { s with regionTables := s.regionTables.set c.asid t }
  let cores := (s.cores.filter fun e => e.2.padAsid == some c.asid).map Prod.fst
  (cores.foldl (fun s q => s.post (.regionTableUpdateAtCore s.cur q c.asid)) s).doneLong a w

/-- DREG (R351, R357). -/
def execDreg (a b : R5) (s : State) : Out State :=
  let c := s.me
  if c.stage = 0 then .next (s.readStruct (c.xr b) 0 32)
  else
    let t := s.regionTable c.asid
    .next (match regionOfBytes c.buf with
      | none => s.doneLong a 1
      | some r =>
        if rangesMeet r.base (r.cnt * r.width) r.adj (4 * r.cnt) || t.any (fun e => e.2.overlaps r) then s.doneLong a 2
        else match (List.range 16).find? fun k => (t.find? k).isNone with
          | none => s.doneLong a 3
          | some k => s.changeRegions a (BitVec.ofNat 64 (256 * k)) (t.set k r))

/-- The slot that a register names (R357, R365). -/
def Ctx.regionSlot (c : Ctx) (b : R5) : Nat := (c.xr b).toNat % 16

/-- DREG.U (R357). -/
def execDregU (a b : R5) (s : State) : Out State :=
  let c := s.me
  let t := s.regionTable c.asid
  .next (match t.find? (c.regionSlot b) with
    | none => s.doneLong a 4
    | some _ => s.changeRegions a 0 (t.erase (c.regionSlot b)))

/-- DREG.Q (R357). -/
def execDregQ (a b : R5) (s : State) : Out State :=
  let c := s.me
  .next (s.doneLong a (match (s.regionTable c.asid).find? (c.regionSlot b) with
    | none => 0
    | some r => BitVec.ofNat 64 (2 ^ 63 + 2 ^ 32 * r.fmt + r.cnt)))

/-- REGION_TABLE_UPDATE_AT_CORE: the core's copy is the master's (R352, R357). -/
def execRegionTableUpdateAtCore (_tid core asid : Nat) (s : State) : Out State :=
  let q := s.core core
  .next (if q.padAsid = some asid then s.setCore core { q with regions := s.regionTable asid } else s)

/-! ## DMODE (R358) -/

/-- DMODE.FWD and DMODE.REV (R358). -/
def State.setRev (s : State) (b : Bool) : State :=
  if !s.quiet s.cur true then s.parkMe (.performed true) else s.finish fun c => { c with pred := putBit c.pred 17 b }

/-- DMODE.FWD (R358). -/
def execDmodeFwd (s : State) : Out State := .next (s.setRev false)
/-- DMODE.REV (R358). -/
def execDmodeRev (s : State) : Out State := .next (s.setRev true)
/-- DMODE.Q (R358). -/
def execDmodeQ (a : R5) (s : State) : Out State := .next (s.finish fun c => c.setX a (BitVec.ofNat 64 c.rev.toNat))

/-! ## Adjoint cells (R353, R360, R361) -/

/-- The slot, region and resolved address of an element that must be differentiable and aligned (R360, R361). -/
def State.element (s : State) (a : Word) (lane : Nat) (disp : Nat) : Except Stop (Nat × Region × Nat) :=
  let c := s.me
  match resolve c.core a disp lane with
  | .error e => .error e
  | .ok ea => match regionOf (s.regionsFor c.core c.asid) ea.regionAddr 1 with
    | none => .error (.trap (shapeTrap 255 lane (formed a disp).toNat))
    | some (k, r) =>
      if ea.regionAddr % r.width ≠ 0 then .error (.trap ⟨trapAddrAlign, r.width, lane, formed a disp⟩) else .ok (k, r, ea.regionAddr)

/-- The need of a read of an adjoint cell, as a load's (R353, R360). -/
def cellRead : Need := { n := 4, r := true, noPool := some 6, rdup := true }

/-- The need of the exchange of an adjoint cell, as an AMO's, or of a reduction into one, as a RED's (R117, R353, R360, R361). -/
def cellUpdate (remote : Bool) : Need :=
  { n := 4, r := true, w := true, noPool := some 6, onlyDevice := some 6, remote := remote, store := true }

/-- The need of a store of +0 into an adjoint cell (R365). -/
def cellStore : Need := { n := 4, w := true, noPool := some 6, store := true }

/-- The place of an element's adjoint cell. -/
def State.placeCell (s : State) (need : Need) (lane : Nat) (r : Region) (a : Nat) : Except Stop Place :=
  s.place s.me need lane (BitVec.ofNat 64 (r.cell a)) 0

/-- DADJ (R360): short. -/
def execDadj (a b : R5) (s : State) : Out State :=
  .next (match s.element (s.me.xr b) 0 0 with
    | .error e => s.stopMe e
    | .ok (_, r, x) => s.finish fun c => c.setX a (BitVec.ofNat 64 (r.cell x)))

/-- DADJ.L: the cell as its home holds it, tills folded (R121, R360). -/
def execDadjL (a b : R5) (s : State) : Out State :=
  let c := s.me
  .next (match s.element (c.xr b) 0 0 with
    | .error e => s.stopMe e
    | .ok (_, r, x) => match s.placeCell cellRead 0 r x with
      | .error e => s.stopMe e
      | .ok p =>
        if c.pendc ≠ 0 then s.parkMe .pendcZero
        else
          let s := (s.settle c.core c.asid false p).yieldLines c.core (linesOf [p.lane])
          s.loadLanes (.x a 4 false) true [⟨p, 0, none⟩] (·.pendX a))

/-- DADJ.X: the exchange of a reverse ST (R108, R360). -/
def execDadjX (a b : R5) (s : State) : Out State :=
  let c := s.me
  .next (match s.element (c.xr b) 0 0 with
    | .error e => s.stopMe e
    | .ok (_, r, x) => match s.placeCell (cellUpdate true) 0 r x with
      | .error e => s.stopMe e
      | .ok p =>
        if c.pendc ≠ 0 then s.parkMe .pendcZero
        else
          let s := (s.settle c.core c.asid true p).yieldLines c.core (linesOf [p.lane])
          s.clearRequest [p.lane] (.x a 4 false) (.readClear c.rm [(0, 0)]) (·.pendX a))

/-- DADJ.P: a forward load of the primal element (R360). -/
def execDadjP (a b : R5) (s : State) : Out State :=
  let c := s.me
  .next (match s.element (c.xr b) 0 0 with
    | .error e => s.stopMe e
    | .ok (_, r, _) => match s.place c { n := r.width, r := true, rdup := true } 0 (c.xr b) 0 with
      | .error e => s.stopMe e
      | .ok p => (s.settle c.core c.asid false p).loadLanes (.x a r.width false) false [⟨p, 0, none⟩] (·.pendX a))

/-- Contribute values to cells, once in `PENDC` (R126, R361). -/
def State.seedCells (s : State) (ps : List Place) (vals : List Nat) : State :=
  let c := s.me
  let ls := ps.map Place.lane
  let s := (s.settleAll c.core c.asid true ps).yieldLines c.core (linesOf ls)
  (s.post (.contributionAtHome ⟨s.src, ls, .none, true, false⟩ 16 vals)).finish fun c => { c with pendc := c.pendc + 1 }

/-- DSEED (R361). -/
def execDseed (b x : R5) (s : State) : Out State :=
  let c := s.me
  .next (match s.element (c.xr b) 0 0 with
    | .error e => s.stopMe e
    | .ok (_, r, a) => match s.placeCell (cellUpdate false) 0 r a with
      | .error e => s.stopMe e
      | .ok p => s.seedCells [p] [(c.xr x).toNat % 2 ^ 32])

/-- DSEED.V: sixteen elements of one region (R361). -/
def execDseedV (b v : R5) (s : State) : Out State :=
  let c := s.me
  .next (match s.element (c.xr b) 0 0 with
    | .error e => s.stopMe e
    | .ok (k, r, a) =>
      if a + 16 * r.width > r.base + r.cnt * r.width then
        let i := (r.base + r.cnt * r.width - a) / r.width
        s.trapMe (shapeTrap k i (formed (c.xr b) (i * r.width : Nat)).toNat)
      else match placeAll (fun i => s.placeCell (cellUpdate false) i r (a + i * r.width)) (List.range 16) with
        | .error e => s.stopMe e
        | .ok ps => s.seedCells ps ((List.range 16).map (c.lane 32 v)))

/-- DSEED.T (R361). An array whose format gives it no adjoint tile takes no contribution (R354; log 22). -/
def execDseedT (a : R5) (ko : KeyOp) (s : State) : Out State :=
  let c := s.me
  let k := (c.keyOf ko).1
  .next (match s.keyPhase c k with
    | .error t => s.trapMe t
    | .ok (d, s) =>
      if !d.diff then s.trapMe (keyTrap trapDiffShape 255 k)
      else if d.fmt < 5 then s.seedTile a k d
      else match c.target? a with
        | none => s.trapMe c.emptyTrap
        | some (x, sh) =>
          if sh ≠ descShape d then s.trapMe (keyTrap trapAddrSpace 9 k)
          else s.withForce 1 a.toNat x sh.whole id fun s _ => s.done)

/-! ## The tape (R362 to R364) -/

/-- TAPE.MARK (R364). -/
def execTapeMark (a : R5) (s : State) : Out State := .next (s.finish fun c => c.setX a c.tapep)

/-- TAPE.QUERY (R364). -/
def execTapeQuery (a : R5) (s : State) : Out State :=
  .next (s.finish fun c => c.setX a (if c.tapep.toNat < c.tapeb.toNat then BitVec.ofNat 64 (2 ^ 63) else (c.tapep - c.tapeb) >>> 4))

/-- A tape entry is malformed (R364). -/
def entryBad (e : List Byte) : Bool :=
  let w := field e 12 1
  !(w == 2 || w == 4) || field e 13 1 / 16 != 0 || decide (field e 8 4 ≥ 2 ^ (8 * w))

/-- Read the entry below `TAPEP`, the instruction going on at stage 1 (R364). -/
def State.readEntry (s : State) : State :=
  (s.setMe { s.me with buf := [], bufBad := [] }).readInto 1 { n := 16, r := true, rdup := true } (s.me.tapep - 16) 0

/-- Write the old value back, with the mark of the word that held it, never differentiable, and wait until it is performed (R101, R364). -/
def State.restore (s : State) : State :=
  let c := s.me
  let e := c.buf
  let w := field e 12 1
  match s.place c { n := w, w := true, store := true } 0 (BitVec.ofNat 64 (field e 0 8)) 0 with
  | .error x => s.stopMe x
  | .ok p =>
    let s := (s.settle c.core c.asid true p).storeLanes s.src c.slot true [({ p.lane with bad := c.bufBad.getD 1 false }, field e 8 4)]
    s.setMe { s.me with stage := 2, midway := true, park := some .acks }

/-- A pop, from the read of an entry to its restore: `bad` where it is malformed, `k` when it is performed (R364). -/
def State.popEntry (s : State) (bad : State → State) (k : State → State) : State :=
  let c := s.me
  match c.stage with
  | 0 => if c.ackc ≠ 0 then s.parkMe .acks else s.readEntry
  | 1 => if entryBad c.buf then bad s else s.restore
  | _ => if c.ackc ≠ 0 then s.parkMe .acks else k (s.setMe { c with tapep := c.tapep - 16, hold := c.hold + 1 })

/-- TAPE.POP (R364). -/
def execTapePop (a : R5) (s : State) : Out State :=
  let c := s.me
  .next (if c.stage = 0 ∧ c.tapep = c.tapeb then s.doneLong a 1
    else if c.stage = 0 ∧ (c.tapep.toNat < c.tapeb.toNat ∨ c.tapep.toNat > c.tapel.toNat) then s.doneLong a 2
    else s.popEntry (·.doneLong a 3) (·.doneLong a 0))

/-- TAPE.REWIND (R364). `hold` counts the entries. -/
def execTapeRewind (a b : R5) (s : State) : Out State :=
  let c := s.me
  let m := c.xr b
  .next (if c.stage = 0 ∧ (m.toNat % 16 ≠ 0 ∨ m.toNat < c.tapeb.toNat ∨ m.toNat > c.tapep.toNat) then
      s.doneLong a (BitVec.ofNat 64 (2 ^ 63 + 2))
    else if c.stage = 0 ∧ m = c.tapep then s.doneLong a 0
    else
      let s := if c.stage = 0 then s.setMe { c with hold := 0 } else s
      s.popEntry (·.doneLong a (BitVec.ofNat 64 (2 ^ 63 + 3))) fun s =>
        if s.me.tapep = m then s.doneLong a s.me.hold else s.readEntry)

/-! ## DCLR (R365) -/

/-- A form of DCLR that clears nothing has its result, once no contribution is outstanding (R365). -/
def State.clearNone (s : State) (a : R5) (w : Word) : State :=
  if s.me.stage = 0 && s.me.pendc != 0 then s.parkMe .pendcZero else s.doneLong a w

/-- Store +0 at cells, a line at a time, and wait for every acknowledgement; then the result is 0 (R365). -/
def State.clearCells (s : State) (a : R5) (first n : Nat) : State :=
  let c := s.me
  if c.stage = 1 then s.doneLong a 0
  else match placeAll (fun i => s.place c cellStore 0 (BitVec.ofNat 64 (first + 4 * i)) 0) (List.range n) with
    | .error e => s.stopMe e
    | .ok ps =>
      if c.pendc ≠ 0 then s.parkMe .pendcZero
      else
        let s := (s.settleAll c.core c.asid true ps).storeLanes s.src c.slot true (ps.map fun p => (p.lane, 0))
        s.setMe { s.me with stage := 1, midway := true, park := some .acks }

/-- DCLR (R365). -/
def execDclr (a b : R5) (s : State) : Out State :=
  let c := s.me
  .next (match (s.regionsFor c.core c.asid).find? (c.regionSlot b) with
    | none => s.clearNone a (if c.stage = 1 then 0 else 4)
    | some r => s.clearCells a r.adj r.cnt)

/-- DCLR.R: elements whose bytes meet a range that one region covers (R365). -/
def execDclrR (a b l : R5) (s : State) : Out State :=
  let c := s.me
  let n := (c.xr l).toNat
  .next (if n = 0 ∨ c.stage = 1 then s.clearNone a 0
    else match resolve c.core (c.xr b) 0 0 with
      | .error e => s.stopMe e
      | .ok ea =>
        let x := ea.regionAddr
        match regionOf (s.regionsFor c.core c.asid) x 1 with
        | none => s.trapMe (shapeTrap 255 0 (c.xr b).toNat)
        | some (_, r) =>
          if x + n > r.base + r.cnt * r.width then s.trapMe (shapeTrap 255 0 (c.xr b).toNat)
          else s.clearCells a (r.cell x) ((x + n - 1 - r.base) / r.width - (x - r.base) / r.width + 1))

/-- DCLR.T: the Mint, here or at the owner, releases the adjoint tile and its till blocks (R355, R365). -/
def execDclrT (ko : KeyOp) (s : State) : Out State :=
  let c := s.me
  let k := (c.keyOf ko).1
  .next (match s.keyPhase c k with
    | .error t => s.trapMe t
    | .ok (d, s) =>
      if c.stage = 1 then s.done
      else if c.pendc ≠ 0 then s.parkMe .pendcZero
      else
        let q := s.keyReqOf k d .adjDrop 0
        s.askMint 1 q (.mintDrop q))

end Sys2Proof.Machine
end

