-- ==== Sys2Proof/Machine/Fetch.lean ====
section
/-! DEFINITION. Entry to a line: the address phase of a fetch, the instruction line cache, the checks of the line (R32 to R35). -/

namespace Sys2Proof.Machine

/-- The line address of a PC (R30). -/
def lineAddr (pc : Word) : Word := pc &&& ~~~63#64

/-- A fetch fault: `FLTPC` is the PC, `FLTADDR` its line address (R33). -/
def fetchTrap (code detail : Nat) (pc : Word) : Trap := ⟨code, detail, 0, lineAddr pc⟩

/-- The address phase of a fetch (R33, R386): the physical address of the line, and the leaf. -/
def State.fetchPlace (s : State) (c : Ctx) : Except Trap (Nat × Leaf) :=
  let va := (lineAddr c.pc).toNat
  if bitsOf va 63 62 ≠ 0 then .error (fetchTrap trapAddrSpace 1 c.pc)
  else if bitsOf va 61 53 ≠ 0 then .error (fetchTrap trapAddrSpace 2 c.pc)
  else match s.leafFor c.core c.asid va false (fun l => s.permBits c.mode c.asid l false false true == 0) with
    | .error level => .error (fetchTrap trapXlateMiss level c.pc)
    | .ok l =>
      let bits := s.permBits c.mode c.asid l false false (!bitOf l.word.toNat 10)
      if bits ≠ 0 then .error (fetchTrap trapXlatePerm bits c.pc)
      else if modeRefuses l true then .error (fetchTrap trapPageMode l.mode c.pc)
      else .ok (if targetOf l.base = .hbm ∧ l.mode = 2 then l.pa va % 2 ^ 38 + 2 ^ 38 * nearestCopy l.mask (dieOf c.core) else l.pa va, l)

/-- A line that control enters: it is held, or `ILLEGAL_LINE` is taken (R32, R34). -/
def State.enterLine (s : State) (tid : Nat) (bytes : List Byte) : State :=
  let c := s.ctx tid
  match lineCheck bytes (c.pc.toNat % 64) with
  | 0 => s.setCtx tid { c with line := some (lineAddr c.pc, bytes), park := none }
  | n => s.trap tid ⟨trapIllegalLine, n, half bytes 0, lineAddr c.pc⟩

/-- The line a core's line cache holds for a space and line address (R34). -/
def State.icacheFind (s : State) (core asid : Nat) (a : Word) : Option (List Byte) :=
  ((s.core core).icache.find? fun e => e.1 == asid && e.2.1 == a).map fun e => e.2.2

/-- Put a line into the line cache: eight sets of eight lines, the set being the virtual line number modulo 8, which the spec does not state
(log 79); a free value names the victim (R34; log 3). -/
def State.icachePut (s : State) (core asid : Nat) (a : Word) (bytes : List Byte) : State :=
  let (v, s) := s.draw
  let q := s.core core
  let old := q.icache.filter fun e => !(e.1 == asid && e.2.1 == a)
  let set := old.filter fun e => e.2.1.toNat / 64 % 8 = a.toNat / 64 % 8
  let rest := old.filter fun e => e.2.1.toNat / 64 % 8 ≠ a.toNat / 64 % 8
  let kept := if set.length < 8 then set else set.eraseIdx (v.toNat % 8)
  s.setCore core { q with icache := rest ++ kept ++ [(asid, a, bytes)] }

/-- The lanes in which a line is read: its aligned 8-byte words (R35). -/
def fetchLanes (pa : Nat) (va : Word) (l : Leaf) : List Lane :=
  (List.range 8).map fun i => ⟨pa + 8 * i, va.toNat + 8 * i, 8, i, l.key, l.mode, 0, 0, false⟩

/-- Control is at the entry of a line that the context does not hold (R32 to R34): the fetch is checked; a hit in the line cache
enters the line; a miss reads it as a load does, from the pool cache where that holds it, else on its path to the home, the bridge or
another device, and the context parks. Words that carry an error mark are used as they stand: the spec gives a fetch of them no
outcome (log 67). -/
def State.fetchLine (s : State) (tid : Nat) : State :=
  let c := s.ctx tid
  match s.fetchPlace c with
  | .error t => s.trap tid t
  | .ok (pa, l) =>
    let r := s.touchLeaf l false
    let s := r.2.fillTlbs c.core c.asid (lineAddr c.pc).toNat r.1
    match s.icacheFind c.core c.asid (lineAddr c.pc) with
    | some bytes => s.enterLine tid bytes
    | none =>
      let n := s.serial
      let s := { s.modCtx tid fun c => { c with park := some (.fetch n) } with serial := n + 1 }
      let remote := match targetOf l.base with
        | .remote _ => true
        | _ => false
      s.routeLoad ⟨⟨tid, c.core, c.asid, c.pc⟩, (fetchLanes pa (lineAddr c.pc) l).map (s.bindCached c.core), .code n,
        s.cacheSets c.core == 0, remote⟩ true

/-- LINE_FETCH_ARRIVAL: the line that the context still waits for is cached and entered (R32, R34). Its words were read where the
fetch was bound: those of one pool cache or home in one step, which R35 leaves open (log 68). -/
def execLineFetchArrival (tid : Nat) (line : FetchedLine) (s : State) : Out State :=
  let c := s.ctx tid
  if c.park ≠ some (.fetch line.serial) then .next s
  else .next ((s.icachePut c.core c.asid (lineAddr c.pc) line.bytes).enterLine tid line.bytes)

end Sys2Proof.Machine
end

