-- ==== Sys2Proof/Machine/Lazy.lean ====
section
/-! DEFINITION. The majors 0xB0 to 0xBB (R250 to R285): nodes, views, forcing, the optimiser step, pool sources and pool stores, and the
copy of a pool source. -/

namespace Sys2Proof.Machine

/-! ## Sources and checks (R250, R253) -/

/-- A shape, format or parameter that an instruction does not accept (R253). -/
def Ctx.shapeTrap2 (c : Ctx) : Trap := c.opTrap trapIllegalOp 2

/-- R253: the two conditions on a result's shape. -/
def shapeOk (sh : Shape) : Bool :=
  [8, 16, 32, 64].contains sh.rows && [8, 16, 32, 64].contains sh.cols &&
    decide (sh.rows * sh.cols * codeWidth sh.fmt / 8 ≤ 16384)

/-- The slots of a list of handles; none where one is EMPTY (R250). -/
def Ctx.slots? (c : Ctx) (hs : List R5) : Option (List Slot) := hs.mapM fun h => c.slotFor h none

/-- Make a node over handles: EMPTY handles, then the check of the shapes, which gives the result's shape (R250, R253, R254). -/
def State.makeNode (s : State) (a : R5) (op f : Nat) (hs : List R5) (opnd : Nat) (result : List Shape → Option Shape)
    (draws : Shape → Nat) : State :=
  let c := s.me
  match c.slots? hs with
  | none => s.trapMe c.emptyTrap
  | some ss => match result (ss.map Slot.shape) with
    | none => s.trapMe c.shapeTrap2
    | some sh => s.append a (s.newNode op f sh ss opnd) (draws sh)

/-- Elements of a shape. -/
def Shape.count (sh : Shape) : Nat := sh.rows * sh.cols

/-! ## Nodes (R270 to R275) -/

/-- TEW (R270). -/
def execTew (f : F6) (a b c d : R5) (s : State) : Out State :=
  .next (s.makeNode a 2 f.toNat (if f.toNat = 6 then [b, c, d] else [b, c]) 0
    (fun l => match l with
      | sh :: r => if isFloatCode sh.fmt && r.all (· == sh) then some sh else none
      | [] => none) Shape.count)

/-- TMAP: the scalar is read when the node is made (R271). -/
def execTmap (f : F6) (a b c : R5) (s : State) : Out State :=
  .next (s.makeNode a 3 f.toNat [b] ((s.me.xr c).toNat % 2 ^ 32)
    (fun l => l.head?.bind fun sh => if isFloatCode sh.fmt then some sh else none)
    (fun sh => if f.toNat < 2 then 0 else sh.count))

/-- The result format of a product (R273). -/
def productFmt (a b : Nat) : Option Nat :=
  if (a = 3 ∨ a = 4) ∧ (b = 3 ∨ b = 4) then some 0
  else if a = b ∧ (a = 1 ∨ a = 2 ∨ a = 5) then some 0
  else if a = 6 ∧ b = 6 then some 8
  else none

/-- Whether the blocks of an NX4 slot lie along the columns that it shows: each transpose turns them. -/
def Ctx.alongColumns (c : Ctx) : Nat → Slot → Bool
  | 0, _ => true
  | fuel + 1, s =>
    let odd := (s.steps.filter fun t => t.kind == 1).length % 2 == 1
    let inner := match s.base with
      | .entry i => match c.thunks.find? i with
        | some n => match n.op, n.srcs with
          | 0, v :: _ => c.alongColumns fuel v
          | _, _ => true
        | none => true
      | .ref _ => true
    inner != odd

/-- TMMA (R273). -/
def execTmma (f : F6) (a b c d : R5) (s : State) : Out State :=
  let x := s.me
  let hs := if f.toNat = 1 then [b, c, d] else [b, c]
  match x.slots? hs with
  | some (_ :: q :: _) =>
    .next (s.makeNode a 4 f.toNat hs 0
      (fun l => match l with
        | p :: r :: acc => (productFmt p.fmt r.fmt).bind fun m =>
            let sh : Shape := ⟨p.rows, r.cols, m, 0⟩
            if p.cols == r.rows && shapeOk sh && acc.all (· == sh) && (r.fmt != 5 || !x.alongColumns 33 q) then some sh else none
        | _ => none) fun _ => 0)
  | _ => .next (s.trapMe x.emptyTrap)

/-- TRED (R274). -/
def execTred (f : F6) (a b : R5) (s : State) : Out State :=
  .next (s.makeNode a 5 f.toNat [b] 0
    (fun l => l.head?.bind fun sh =>
      if isFloatCode sh.fmt then
        some (if f.toNat < 4 then { sh with cols := 8 } else { sh with rows := 8 })
      else none) Shape.count)

/-- The target format of TCVT (R272). -/
def tcvtTarget (f : Nat) : Nat :=
  match f % 8 with
  | 5 => 6
  | 6 => 8
  | t => t

/-- TCVT (R272). -/
def execTcvt (f : F6) (a b : R5) (s : State) : Out State :=
  .next (s.makeNode a 6 f.toNat [b] 0
    (fun l => l.head?.bind fun sh =>
      let r : Shape := if f.toNat < 32 then { sh with fmt := tcvtTarget f.toNat, blk := 0 }
        else { sh with fmt := 5, blk := bitsOf f.toNat 3 2 }
      if sh.fmt != 9 && sh.fmt != 13 && shapeOk r && (r.fmt != 5 || sh.cols % blockLen r.blk == 0) then some r else none) Shape.count)

/-! ## Views (R255, R256, R276) -/

/-- The step of a TIDX over a source; none where a parameter is out of range; identity is no step (R276). -/
def tidxStep (f : Nat) (sh : Shape) (p fill : Nat) : Option (Option MapStep) :=
  let rows := sizeOf8 (bitsOf p 33 32)
  let cols := sizeOf8 (bitsOf p 35 34)
  match f with
  | 0 => some none
  | 1 => some (some ⟨1, 0, 0, sh.cols, sh.rows, 0⟩)
  | 2 =>
    let dc := signedOf 16 (p / 65536)
    if sh.fmt = 5 ∧ (dc % (blockLen sh.blk : Int) ≠ 0 ∨ cols % blockLen sh.blk ≠ 0) then none
    else some (some ⟨2, signedOf 16 p, dc, rows, cols, if sh.fmt = 5 then nxFill else fill % 2 ^ codeWidth sh.fmt⟩)
  | 3 => if p % 65536 < sh.rows then some (some ⟨3, ((p % 65536 : Nat) : Int), 0, rows, sh.cols, 0⟩) else none
  | _ => if p % 65536 < sh.cols then some (some ⟨4, 0, ((p % 65536 : Nat) : Int), sh.rows, cols, 0⟩) else none

/-- TIDX (R276). -/
def execTidx (f : F6) (a b c : R5) (i : BitVec 32) (s : State) : Out State :=
  let x := s.me
  match x.slotFor b none with
  | none => .next (s.trapMe x.emptyTrap)
  | some v =>
    match tidxStep f.toNat v.shape (x.xr c).toNat (sext32 i).toNat with
    | none => .next (s.trapMe x.shapeTrap2)
    | some t => match x.slotFor b t with
      | none => .next (s.trapMe x.emptyTrap)
      | some w =>
        if shapeOk w.shape then .next (s.append a (s.newNode 0 f.toNat w.shape [w] 0) 0) else .next (s.trapMe x.shapeTrap2)

/-! ## Forcing (R277, R278) -/

/-- TFORCE: a region, delivering nothing (R277). -/
def execTforce (a b c : R5) (s : State) : Out State :=
  let x := s.me
  match x.target? a with
  | none => .next (s.trapMe x.emptyTrap)
  | some (base, sh) =>
    match clipRect (bitsOf (x.xr b).toNat 15 0) (bitsOf (x.xr b).toNat 31 16) (bitsOf (x.xr c).toNat 15 0)
        (bitsOf (x.xr c).toNat 31 16) sh.rows sh.cols with
    | none => .next s.done
    | some q => .next (s.withForce 1 a.toNat base q id fun s _ => s.done)

/-- TFORCE.M: a node becomes a version (R277, R263). -/
def execTforceM (a : R5) (s : State) : Out State :=
  let x := s.me
  match x.handle a with
  | .empty => .next (s.trapMe x.emptyTrap)
  | .version _ => .next s.done
  | .node i => match x.thunks.find? i with
    | none => .next s.done
    | some n => .next (s.materialise i n State.done)

/-- The code of a size: 0 for 8 to 3 for 64. -/
def codeOf8 (n : Nat) : Nat := if n ≤ 8 then 0 else if n ≤ 16 then 1 else if n ≤ 32 then 2 else 3

/-- The word of TFORCE.Q (R277). -/
def Ctx.forceQuery (c : Ctx) (h : R5) : Word :=
  let shape (sh : Shape) : Nat := sh.fmt * 2 ^ 55 + codeOf8 sh.rows * 2 ^ 53 + codeOf8 sh.cols * 2 ^ 51
  let free := 32 - c.thunks.length
  BitVec.ofNat 64 (match c.handle h with
    | .empty => free
    | .version r => 2 ^ 62 + shape r.shape + free
    | .node i => match c.thunks.find? i with
      | none => free
      | some n =>
        let rec' := match n.region with
          | none => 0
          | some q => 2 ^ 50 + q.r0 * 2 ^ 44 + q.r1 * 2 ^ 38 + q.c0 * 2 ^ 32 + q.c1 * 2 ^ 26
        2 ^ 63 + n.op * 2 ^ 59 + shape n.shape + rec' + free)

/-- TFORCE.Q (R277). -/
def execTforceQ (a b : R5) (s : State) : Out State := .next (s.finish fun c => c.setX a (c.forceQuery b))

/-- THCLR (R278). -/
def execThclr (a : R5) (s : State) : Out State := .next (s.bindHandle s.cur a .empty).done

/-- THCLR.ALL (R278). -/
def execThclrAll (s : State) : Out State := .next (s.clearHandles s.cur).done

/-! ## Shape words (R268) -/

/-- The shape and pitch of a shape word; none where it is not well formed (R268). It has no field for the block length of an NX4 shape,
which is 16 elements, code 0 (R279; log 88). -/
def shapeWord (w : Nat) : Option (Shape × Nat) :=
  let fmt := w % 16
  let rows := sizeOf8 (bitsOf w 5 4)
  let cols := sizeOf8 (bitsOf w 7 6)
  let pitch := bitsOf w 31 16
  let bytes := codeWidth fmt / 8
  if bitsOf w 15 8 ≠ 0 ∨ fmt > 13 ∨ (pitch ≠ 0 ∧ (fmt = 5 ∨ pitch < cols * bytes ∨ pitch % bytes ≠ 0)) then none
  else some (⟨rows, cols, fmt, 0⟩, pitch)

/-- TFILL (R275). -/
def execTfill (a b : R5) (i : BitVec 32) (s : State) : Out State :=
  let x := s.me
  match shapeWord (x.xr b).toNat with
  | none => .next (s.trapMe x.shapeTrap2)
  | some (sh, _) =>
    if sh.fmt = 5 ∨ ¬shapeOk sh then .next (s.trapMe x.shapeTrap2)
    else .next (s.append a (s.newNode 1 0 sh [] ((sext32 i).toNat % 2 ^ codeWidth sh.fmt)) 0)

/-! ## Pool ranges (R265, R279, R280, R285) -/

/-- Bytes of an access to a pool range: an element, or a byte of an NX4 tile. -/
def rangeWidth (sh : Shape) : Nat := if sh.fmt = 5 then 1 else codeWidth sh.fmt / 8

/-- Displacements of the elements of a range from its base, in order; an NX4 tile counts its bytes (R279, R185). -/
def rangeOffsets (sh : Shape) (pitch : Nat) : List Nat :=
  let w := rangeWidth sh
  if sh.fmt = 5 then List.range (tileBytes 5 sh.rows sh.cols sh.blk)
  else
    let p := if pitch = 0 then sh.cols * w else pitch
    (List.range (sh.rows * sh.cols)).map fun e => e / sh.cols * p + e % sh.cols * w

/-- Bytes from the base to the end of a range. -/
def rangeSpan (sh : Shape) (pitch : Nat) : Nat := (rangeOffsets sh pitch).foldl max 0 + rangeWidth sh

/-- The start of a range in the unified space, once it lies in one scratchpad (R93, R279). -/
def State.rangeBase (s : State) (c : Ctx) (base : Word) (disp : Int) (span : Nat) : Except Stop Nat :=
  match resolve c.core base disp 0 with
  | .error e => .error e
  | .ok (.word _) => .error (spaceTrap 1 (formed base disp) 0)
  | .ok (.pool p) => match s.bankRefuses p.pkgCore p.off span c.asid with
    | some code => .error (spaceTrap code (formed base disp) 0)
    | none => .ok (poolBase p.pkgCore + p.off)

/-- The lanes of a range with their values (R279, R280). -/
def rangeLanes (base : Word) (disp : Int) (sh : Shape) (pitch : Nat) (vals : Nat → Nat) : List LaneAcc :=
  (rangeOffsets sh pitch).zipIdx.map fun p => ⟨p.2, base, disp + p.1, vals p.2⟩

/-- Whether every element of a range may be reached, and each element's place: one check is reported for the range and its elements, the
earliest step first (R98, R100, R265, R279). -/
def State.placeRange (s : State) (store : Bool) (base : Word) (disp : Int) (sh : Shape) (pitch : Nat) (vals : Nat → Nat) :
    Except Stop (Nat × List LaneOk) :=
  let c := s.me
  let whole := s.rangeBase c base disp (rangeSpan sh pitch)
  let lanes := (rangeLanes base disp sh pitch vals).map (s.placeLane c store (rangeWidth sh))
  match firstStop (stopsOf [whole] ++ stopsOf lanes), whole with
  | some e, _ | none, .error e => .error e
  | none, .ok a => (allPass lanes).map fun ps => (a, ps)

/-- The issuing thread stalls at a full range-lock table (R265): cause 5. -/
def State.stallLocks (s : State) (cell : Nat) : State :=
  let s := s.parkCounted (.quota 5)
  let c := s.me
  let since := c.stallSince.getD s.ticks
  let limit := bitsOf (s.rcbWord c.rcb.toNat c.asid 5) 63 32
  let s := if c.stallSince.isNone then s.at (cycleOfTick (since + limit)) (.stallLimitExpiry s.cur) else s
  s.setMe { s.me with stallSince := some since, hold := BitVec.ofNat 64 cell }

/-- The lowest free entry of a cell's range-lock table (R94). -/
def State.freeLock (s : State) (cell : Nat) : Option Nat :=
  (List.range Config.lockEntries).find? fun i => ((s.cell cell).locks.find? i).isNone

/-- TLDP in forward mode, once its key is PENDING: the node is made over the range that its lock names (R263, R265, R279). `hold` tells the
lock: its owner, cell and entry. -/
def State.bindPool (s : State) (a : R5) (q : KeyReq) (sh : Shape) (pitch : Nat) : State :=
  let h := s.me.hold.toNat
  let cell := bitsOf h 31 8
  let entry := h % 256
  let r : Ref := ⟨h / 2 ^ 32, q.key, q.home, none, sh.rows, sh.cols, sh.fmt, sh.blk, false⟩
  let base := (((s.cell cell).locks.find? entry).map Lock.lo).getD 0
  s.append a { s.newNode 7 0 sh [] 0 with pool := some ⟨cell, entry, r, base, pitch⟩ } 0

/-- TLDP in forward mode: room in the thunk table, the lock, the key (R263, R265, R279). The stores on their way to the range are performed
before its lock is entered (R94, R266). -/
def State.loadPool (s : State) (a : R5) (at_ : Nat) (sh : Shape) (pitch : Nat) : State :=
  let c := s.me
  let cell := cellOf (poolCore at_)
  let last := at_ + rangeSpan sh pitch - 1
  s.withEntry a (s.newNode 7 0 sh [] 0) fun _ s =>
    match s.freeLock cell with
    | none => s.stallLocks cell
    | some e => match s.anonReq sh .pool with
      | none => s.anonSpent
      | some (q, s) =>
        let owner := s.serial
        let s := { s with serial := owner + 1 }.landOn at_ last
        let l : Lock := ⟨if c.khthk = 0 then 2 else 3, false, c.asid, at_, last, owner⟩
        let s := s.setCell cell { s.cell cell with locks := (s.cell cell).locks.set e l }
        let s := s.askMint 1 { q with since := c.stallSince.getD s.ticks } (.mintReference { q with since := c.stallSince.getD s.ticks })
        s.setMe { s.me with hold := BitVec.ofNat 64 (owner * 2 ^ 32 + cell * 256 + e) }

/-- The FP32 patterns that the elements of a range contribute (R285): widened exactly. -/
def rangeContribution (fmt : Nat) (ps : List LaneOk) (vals : List Nat) : List Nat :=
  ps.map fun l => fp32.round 0 0 (elemFV fmt (vals.getD l.place.lane.idx 0))

/-- TLDP of a declared range in reverse mode: the handle's elements are reduced into the adjoint cells (R285). -/
def State.loadPoolReverse (s : State) (a : R5) (sh : Shape) (ps : List LaneOk) : State :=
  let c := s.me
  match c.target? a with
  | none => s.trapMe c.emptyTrap
  | some (b, hs) =>
    if hs ≠ sh then s.trapMe c.shapeTrap2
    else s.withForce 1 a.toNat b hs.whole id fun s vals =>
      let ds := diffLanes ps
      let ls := adjLanes ds
      let s := (s.settleLanes s.me false ps).yieldLines s.me.core (linesOf ls)
      let s := s.post (.contributionAtHome ⟨s.src, ls, .none, true, false⟩ 16 (rangeContribution sh.fmt ds vals))
      s.finish fun c => { c with pendc := c.pendc + 1 }

/-- The request of a TLDP in flight that has passed its address phase and entered its lock (R265). -/
def Ctx.poolReq (c : Ctx) : Option KeyReq := if c.stage = 1 then c.keyReq.filter fun q => q.use == .pool else none

/-- TLDP (R265, R279, R285). -/
def execTldp (a b c : R5) (disp : BitVec 32) (s : State) : Out State :=
  let x := s.me
  match shapeWord (x.xr c).toNat with
  | none => .next (s.trapMe x.shapeTrap2)
  | some (sh, pitch) =>
    if ¬shapeOk sh then .next (s.trapMe x.shapeTrap2)
    else match x.poolReq with
    | some q => .next (s.bindPool a q sh pitch)
    | none => match s.placeRange false (x.xr b) disp.toInt sh pitch fun _ => 0 with
      | .error e => .next (s.stopMe e)
      | .ok (a', ps) =>
        if x.rev && ps.any (fun l => l.adj.isSome) then .next (s.loadPoolReverse a sh ps)
        else .next (s.loadPool a a' sh pitch)

/-- The stores of a TSTP: each element at its bank, with tape entries where the range is declared (R280, R109); the thread then waits
until every element is performed. -/
def State.storeRange (s : State) (ps : List LaneOk) : State :=
  let c := s.me
  let plain (s : State) : State := s.storeLanes s.src c.slot false ((plainLanes ps).map fun l => (l.place.lane, l.val))
  let wait (s : State) : State := (s.parkStage 2).setMe { (s.parkStage 2).me with park := some .acks }
  match diffLanes ps with
  | [] => wait (plain (s.settleLanes c true ps))
  | d :: r =>
    match s.placeTape c (BitVec.ofNat 64 d.place.lane.va) d.place.lane.idx (d :: r).length with
    | .error e => s.stopMe e
    | .ok es => wait (plain (((s.settleLanes c true ps).settleAll c.core c.asid true es).pushLanes (d :: r) es))

/-- The snapshot of a reverse TSTP: what was read of the declared elements; the spec states no value for an element of the range
that is not declared, and a free value stands for it (log 3). -/
def snapshotBytes (s : State) (ps : List LaneOk) (bs : List Byte) : List Byte :=
  let ds := (diffLanes ps).map fun l => l.place.lane.idx
  ps.flatMap fun l => match ds.findIdx? (· == l.place.lane.idx) with
    | some k => (bs.drop (4 * k)).take 4
    | none => bytesOf 4 (Config.freeWord (s.draws + l.place.lane.idx)).toNat

/-- The descriptor of a snapshot: that of an anonymous version. -/
def snapDesc (sh : Shape) : Desc := ⟨0xFFFF, sh.fmt, sh.rows, sh.cols, 4095, 4095, sh.blk, false, false, 0, false, 0, 0⟩

/-- TSTP of a declared range in reverse mode: a version for the snapshot is reserved, so that it cannot be refused; the adjoint cells are
read and cleared; and the handle takes the version that holds what was read (R285). -/
def State.storePoolReverse (s : State) (a : R5) (sh : Shape) (ps : List LaneOk) : State :=
  let c := s.me
  let fsh : Shape := { sh with fmt := 0, blk := 0 }
  match c.stage, c.keyReq with
  | 0, _ => if c.pendc ≠ 0 then s.parkMe .pendcZero else s.reserveSnap 1 fsh (snapDesc fsh)
  | 1, _ =>
    let ls := adjLanes (diffLanes ps)
    let s := (s.settleLanes c true ps).yieldLines c.core (linesOf ls)
    (s.parkStage 2).sendClear ⟨s.src, ls, .buf, true, true⟩ (.readClear 0 (ls.map fun _ => (0, 0)))
  | 2, some q => { s with draws := s.draws + ps.length }.createSnap 3 q (snapshotBytes s ps c.buf)
  | _, _ => s.bindSnap a fsh

/-- Whether an instruction makes a snapshot. -/
def Ctx.snapping (c : Ctx) : Bool :=
  match c.keyReq.map KeyReq.use with
  | some (.snap _) => true
  | _ => false

/-- A stop of an instruction that makes a snapshot: a trap gives the reservation back (R235). -/
def State.stopSnap (s : State) (e : Stop) : State :=
  match e, s.me.keyReq with
  | .trap _, some q => (if s.me.snapping then s.dropSnap q.key q.home else s).stopMe e
  | _, _ => s.stopMe e

/-- TSTP (R280, R285). -/
def execTstp (a b c : R5) (disp : BitVec 32) (s : State) : Out State :=
  let x := s.me
  match x.target? a with
  | none => .next (s.trapMe x.emptyTrap)
  | some (base, hs) =>
    match shapeWord (x.xr c).toNat with
    | none => .next (s.trapMe x.shapeTrap2)
    | some (sh, pitch) =>
      let sh := { sh with blk := hs.blk }
      let disp := disp.toInt
      if x.stage = 2 && !x.snapping then (if x.ackc ≠ 0 then .next (s.parkMe .acks) else .next s.done)
      else if hs ≠ sh then .next (s.trapMe x.shapeTrap2)
      else match s.placeRange true (x.xr b) disp sh pitch fun _ => 0 with
        | .error e => .next (s.stopSnap e)
        | .ok (_, ps) =>
          if x.snapping || (x.rev && ps.any (fun l => l.adj.isSome)) then .next (s.storePoolReverse a sh ps)
          else .next (s.withForce 1 a.toNat base hs.whole id fun s vals =>
            let bs := if sh.fmt = 5 then (bytesOfElems 5 sh.rows sh.cols sh.blk vals).map BitVec.toNat else vals
            s.storeRange (ps.map fun l => { l with val := bs.getD l.place.lane.idx 0 }))

/-! ## The copy of a pool source (R265, R266) -/

/-- The pool source that holds a lock, with its node's shape. -/
def State.sourceOf (s : State) (owner : Nat) : Option (PoolSrc × Shape) :=
  s.threads.findSome? fun t => t.2.thunks.findSome? fun e => match e.2.pool with
    | some p => if p.ref.id = owner then some (p, e.2.shape) else none
    | none => none

/-- The bytes of a range, read at its bank. -/
def State.rangeBytes (s : State) (p : PoolSrc) (sh : Shape) : List Byte :=
  (rangeOffsets sh p.pitch).flatMap fun o => s.readBytes (p.base + o) (rangeWidth sh)

/-- The words of a version's storage whose bytes come from marked words of a range (R101, R315). -/
def State.rangeMarks (s : State) (p : PoolSrc) (sh : Shape) : List Nat :=
  let w := rangeWidth sh
  ((rangeOffsets sh p.pitch).zipIdx.filterMap fun o => if s.poisonAt (p.base + o.1) w then some (o.2 * w / 8) else none).dedup

/-- The stall limit runs for every thread that waits on a key (R235, R262). -/
def State.stallWaiters (s : State) (k : Key) (home code : Nat) : State :=
  (((s.entry k home).map MintEntry.waiters).getD []).foldl (fun (s : State) w => match w with
    | .thread t => s.stallForce t code
    | .teller _ _ => s) s

/-- POOL_SOURCE_COPY: the range is copied into its version with its marks, as a TOVER does, and the lock is released; without storage it
tries again, under the stall limits of the threads that wait for it (R101, R262, R265, R266). -/
def execPoolSourceCopy (cell entry : Nat) (s : State) : Out State :=
  match (s.cell cell).locks.find? entry with
  | none => .next s
  | some l =>
    if l.kind < 2 then .next s
    else
      let again := fun (s : State) => s.at (s.pcyc + 1) (.poolSourceCopy cell entry)
      match s.sourceOf l.owner with
      | none => .next (again s)
      | some (p, sh) => match s.reserve p.ref.key p.ref.home (tileBytes sh.fmt sh.rows sh.cols sh.blk) 0 p.ref.key.asid with
        | .error (.stall code) => .next (again (s.stallWaiters p.ref.key p.ref.home code))
        | .error _ => .next (s.setCell cell { s.cell cell with locks := (s.cell cell).locks.erase entry })
        | .ok s =>
          let s := s.modEntry p.ref.key p.ref.home fun e => { e with marks := s.rangeMarks p sh }
          let s := s.create p.ref.key p.ref.home 0 (s.rangeBytes p sh)
          .next (s.setCell cell { s.cell cell with locks := (s.cell cell).locks.erase entry })

/-- LOCKED_STORE_RELEASE: a store held at a bank is performed once the copy has read the range (R266). -/
def execLockedStoreRelease (q : MemReq) (op : BankOp) (s : State) : Out State :=
  match s.bankSource q.src (bankLate op) q.lanes with
  | some (cell, entry) => .next ((s.startCopy cell entry).at (s.pcyc + 1) (.lockedStoreRelease q op))
  | none => .next (s.atBank q op)

/-! ## The optimiser step (R281 to R284) -/

/-- Where the parts of a parameter block lie, from its start: bytes of a parameter, offset of M, bytes in all (R281). -/
def blockLayout (fmt n : Nat) : Nat × Nat × Nat :=
  let w := if fmt = 0 then 4 else 2
  let m := (64 + n * w + 127) / 128 * 128
  (w, m, m + 8 * n)

/-- Whether a header has its reserved fields zero and fits a gradient of a shape (R281, R283). -/
def headerOk (h : Nat) (sh : Shape) : Bool :=
  bitsOf h 111 96 == 0 && h / 2 ^ 128 == 0 && decide (bitsOf h 119 112 ≤ 2) && decide (sh.fmt ≤ 2) &&
    bitsOf h 127 120 == codeOf8 sh.cols * 4 + codeOf8 sh.rows

/-- The values of one element's step. -/
structure AdamOut where
  p : Elem
  m : Elem
  v : Elem
  deriving DecidableEq, Repr

/-- The step of one element; the record holds lr, β1, β2, ε, c1, c2, wd (R283). -/
def adamStep (pf : Fmt) (dr : Draw) (rec' : List FV) (e : Nat) (g p m v : FV) : AdamOut :=
  let k (i : Nat) : FV := rec'.getD i (.fin false 0 1)
  let one : FV := .fin false 1 1
  let mb := fp32.round 0 0 (FV.add 0 (FV.mul (k 1) m) (FV.mul (FV.add 0 one (k 1).negate) g))
  let vb := fp32.round 0 0 (FV.add 0 (FV.mul (k 2) v) (FV.mul (FV.mul (FV.add 0 one (k 2).negate) g) g))
  let vb := if fp32.sign vb then 0 else vb
  let mv := fp32.decode mb
  let vv := fp32.decode vb
  let den := FV.add 0 (FV.mul vv (k 5)).sqrt (k 3)
  let top := FV.mul (k 0) (FV.mul mv (k 4))
  let u := if den.isZero then (if top.isZero then .fin false 0 1 else .inf top.neg?) else FV.div top den
  let r := FV.add 0 (FV.add 0 p u.negate) (FV.mul (FV.mul (k 0) (k 6)) p).negate
  { p := dr.elem pf true e r, m := Elem.pattern fp32 mb, v := Elem.pattern fp32 vb }

/-- Whether a value is a NaN or infinite. -/
def FV.special : FV → Bool
  | .fin _ _ _ => false
  | _ => true

/-- The need of a line of the block, and of the record (R283). -/
def adamNeed (n : Nat) (w : Bool) : Need := { n := n, r := !w, w := w, noPool := some 6, onlyDevice := some 6, store := w }

/-- The places of the first bytes of a block, line by line (R283). -/
def State.placeBlock (s : State) (base : Word) (bytes : Nat) : Except Stop (List Place) :=
  placeAll (fun i => match s.place s.me (adamNeed 128 true) 0 base (128 * i) with
    | .error e => .error e
    | .ok p => .ok p) (List.range (ceilDiv bytes 128))

/-- `DIFF_SHAPE` when any byte of a range is differentiable (R283). -/
def State.rangeDiff (s : State) (a : Word) (n : Nat) : Option Trap :=
  (regionOf (s.regionsFor s.me.core s.me.asid) a.toNat n).map fun e => shapeTrap e.1 0 a.toNat

/-- Read bytes of a block through its lines, at the home. -/
def State.blockRead (s : State) (ls : List Lane) (off n : Nat) : Nat :=
  match ls[off / 128]? with
  | some l => s.read (l.pa + off % 128) n
  | none => 0

/-- Write a value into a block at its home (R119). -/
def State.blockWrite (s : State) (ls : List Lane) (off n v : Nat) : State :=
  match ls[off / 128]? with
  | some l => (s.homeStore (l.pa + off % 128) n v false).2
  | none => s

/-- The bytes of a block whose header is `h`, for a gradient of a shape: only the header where the two do not agree (R281, R283). -/
def blockBytes (h : Nat) (sh : Shape) : Nat := if headerOk h sh then (blockLayout (bitsOf h 119 112) sh.count).2.2 else 64

/-- The address phase over a block and its record: A and D are set once every check has passed, and the lanes stand in `passed`, the record
last (R98, R283, R284). -/
def State.blockPhase (s : State) (b c : R5) (bytes : Nat) : Except Stop State :=
  let x := s.me
  match s.placeBlock (x.xr b) bytes, s.place x (adamNeed 32 false) 0 (x.xr c) 0 with
  | .error e, _ | .ok _, .error e => .error e
  | .ok ps, .ok rp => match (s.rangeDiff (x.xr b) bytes).or (s.rangeDiff (x.xr c) 32) with
    | some t => .error (.trap t)
    | none =>
      let s := (s.settleAll x.core x.asid true ps).settle x.core x.asid false rp
      .ok (s.setMe { s.me with passed := ps.map Place.lane ++ [rp.lane] })

/-- The address phase of a TADAM at its issue: the format in the header tells how far the block goes (R98, R283; log 78). -/
def State.adamPhase (s : State) (b c : R5) (sh : Shape) : Except Stop State :=
  let x := s.me
  if !x.passed.isEmpty then .ok s
  else match s.place x (adamNeed 128 true) 0 (x.xr b) 0 with
    | .error e => .error e
    | .ok hp => s.blockPhase b c (blockBytes (s.view hp.lane.pa 64) sh)

/-- A TADAM ends with a status; it draws for its elements whether it acts or not (R283). -/
def State.adamEnd (s : State) (d : R5) (n : Nat) (nf sat : Bool) : State :=
  let rm := s.me.rm
  s.finish fun c => ((c.raise nf sat).stepSr rm n).pendX d

/-- Such a status is the result, at once (R283). -/
def State.adamStatus (s : State) (d : R5) (n : Nat) (nf : Bool) (v : Nat) : State :=
  (s.adamEnd d n nf false).post (.longResultArrival (Reply.of s.cur [.x d (BitVec.ofNat 64 v) none] false))

/-- Whether the step number of a block is being written: the end of another step on it, which is then performed first (R284, R444). -/
def State.stepOnWay (s : State) (pa : Nat) : Bool :=
  s.pending.any fun e => match e with
    | .writeThroughAtHome q _ => (match q.dst with
      | .x .. => q.lanes.any fun l => l.pa == pa
      | _ => false)
    | _ => false

/-- The elements that a step has computed, as the bytes that it is about to write. -/
def adamBytes (w : Nat) (outs : List AdamOut) : List Byte :=
  outs.flatMap fun o => bytesOf w o.p.bits ++ bytesOf 4 o.m.bits ++ bytesOf 4 o.v.bits

/-- What a TADAM reads after its force, and what it computes (R283). The guard is looked at again with what is read: of two steps on one
block the later then reads either none of the earlier one's writes or all of them (R284, R444; log 78). -/
def State.adamRead (s : State) (d : R5) (sh : Shape) (g : List Nat) : State :=
  let x := s.me
  let n := sh.count
  let pfc := x.hold.toNat % 4
  let ls := x.passed.dropLast
  match ls.head?, x.passed.getLast?, x.passed.find? (fun l => (s.pageHolding l.pa).isSome) with
  | _, _, some l => s.parkMe (.page l.pa)
  | some hl, some rl, none =>
    if s.stepOnWay hl.pa then s.setMe { x with midway := true }
    else
      let (w, mo, _) := blockLayout pfc n
      let pf := Fmt.ofCode pfc
      let dr : Draw := ⟨x.rm, x.srkey, x.drawLtn, x.srctr⟩
      let s := (x.passed.map fun l => lineOf l.pa).foldl State.homeRead s
      let rec' := (List.range 7).map fun i => fp32.decode (s.read (rl.pa + 4 * i) 4)
      let gs := g.map (elemFV sh.fmt)
      let pv (e : Nat) : FV := pf.decode (s.blockRead ls (64 + w * e) w)
      let mv (e : Nat) : FV := fp32.decode (s.blockRead ls (mo + 4 * e) 4)
      let vv (e : Nat) : FV := fp32.decode (s.blockRead ls (mo + 4 * n + 4 * e) 4)
      let c2 := rec'.getD 5 (.fin false 0 1)
      if s.blockRead ls 0 8 ≥ (x.xr d).toNat then s.adamStatus d n false 1
      else if (rec' ++ gs).any FV.special || (List.range n).any (fun e => (pv e).special || (mv e).special || (vv e).special) then
        (s.blockWrite ls 8 4 (min (s.blockRead ls 8 4 + 1) (2 ^ 32 - 1))).adamStatus d n true 2
      else if c2.neg? && !c2.isZero then s.adamStatus d n false 3
      else
        let outs := (List.range n).map fun e => adamStep pf dr rec' e (gs.getD e (.fin false 0 1)) (pv e) (mv e) (vv e)
        let es := outs.flatMap fun o => [o.p, o.m, o.v]
        s.setMe { s.me with stage := 2, midway := true, buf := adamBytes w outs,
                            hold := BitVec.ofNat 64 (pfc + 4 * (es.any Elem.nf).toNat + 8 * (es.any Elem.sat).toNat) }
  | _, _, none => s

/-- What a TADAM writes: the data at its homes, and after it the step number, whose acknowledgement is the result (R283, R284). -/
def State.adamWrite (s : State) (d : R5) (sh : Shape) : State :=
  let x := s.me
  let n := sh.count
  let h := x.hold.toNat
  let (w, mo, _) := blockLayout (h % 4) n
  let ls := x.passed.dropLast
  match ls.head?, x.passed.find? (fun l => (s.pageHolding l.pa).isSome) with
  | _, some l => s.parkMe (.page l.pa)
  | none, none => s
  | some hl, none =>
    let part (e off k : Nat) : Nat := valueOf ((x.buf.drop ((w + 8) * e + off)).take k)
    let s := (List.range n).foldl (fun (s : State) e => ((s.blockWrite ls (64 + w * e) w (part e 0 w)).blockWrite ls (mo + 4 * e) 4
      (part e w 4)).blockWrite ls (mo + 4 * n + 4 * e) 4 (part e (w + 4) 4)) s
    let q : MemReq := ⟨s.src, [{ hl with n := 8 }], .x d 8 false, true, false⟩
    (s.adamEnd d n (bitOf h 2) (bitOf h 3)).post (.writeThroughAtHome q [(x.xr d).toNat])

/-- A TADAM up to its force: the wait for the context's earlier accesses and for its core's dirty lines, the header, the guard (R283). -/
def State.adamHeader (s : State) (a b c d : R5) (base : Base) (sh : Shape) : State :=
  let x := s.me
  let own (l : Lane) : Bool := s.holdsLine x.core (lineOf l.pa)
  if !s.quiet s.cur true then s.parkMe (.performed true)
  else if s.writingBack x.core then s.parkMe (.writeBacks x.core)
  else if x.passed.any own then (s.yieldLines x.core (x.passed.map fun l => lineOf l.pa)).parkMe (.writeBacks x.core)
  else match x.passed.head?, x.passed.find? (fun l => (s.pageHolding l.pa).isSome) with
    | _, some l => s.parkMe (.page l.pa)
    | none, none => s
    | some hl, none =>
      let s := s.homeRead (lineOf hl.pa)
      let h := s.read hl.pa 64
      let bytes := blockBytes h sh
      if !headerOk h sh then s.trapMe x.shapeTrap2
      else if x.passed.length ≤ ceilDiv bytes 128 then (match s.blockPhase b c bytes with
        | .error e => s.stopMe e
        | .ok s => s.setMe { s.me with midway := true })
      else if h % 2 ^ 64 ≥ (x.xr d).toNat then s.adamStatus d sh.count false 1
      else (s.setMe { s.me with hold := BitVec.ofNat 64 (bitsOf h 119 112) }).withForce 1 a.toNat base sh.whole id fun s _ => s

/-- TADAM (R281 to R284): the address phase, the waits, the header and the guard; the force; the reads; the writes. -/
def execTadam (a b c d : R5) (s : State) : Out State :=
  let x := s.me
  match x.target? a with
  | none => .next (s.trapMe x.emptyTrap)
  | some (base, sh) =>
    if x.stage = 1 then .next (s.withForce 1 a.toNat base sh.whole id fun s g => s.adamRead d sh g)
    else if x.stage = 2 then .next (s.adamWrite d sh)
    else match s.adamPhase b c sh with
      | .error e => .next (s.stopMe e)
      | .ok s => .next (s.adamHeader a b c d base sh)

end Sys2Proof.Machine
end

