-- ==== Sys2Proof/Machine/Replay.lean ====
section
/-! DEFINITION. The last steps of a page operation: the data action, the replay of what the page unit has queued, and the host's answers to
back-invalidation (R170, R171, R174, R176, R421). -/

namespace Sys2Proof.Machine

/-! ## Replay -/

/-- Whether the page's new state refuses an access held at the slot (R170). -/
def PageRun.refuses (r : PageRun) (h : Held) : Bool :=
  match r.newMode, h with
  | 3, .teller .. => false
  | 3, .remote .. => false
  | 3, _ => true
  | 2, .fill _ => false
  | 2, .teller .. => false
  | 2, .remote .. => false
  | 2, .atom _ (.pend _) => false
  | 2, _ => true
  | _, _ => false

/-- The source and the lanes of an access held at a slot. -/
def heldLanes : Held → Option (Src × List Lane)
  | .fill ⟨q, _⟩ | .wt q _ | .atom q _ | .contrib q _ _ | .rel q _ _ | .acq q _ | .wake q _ => some (q.src, q.lanes)
  | .bar w | .wait w => some (w.src, [w.lane])
  | .teller .. | .remote .. => none

/-- The addresses by which an access held at a slot reaches its homes. -/
def heldPlaces : Held → List Nat
  | .teller _ _ _ pa | .remote _ pa => [pa]
  | h => ((heldLanes h).map fun x => x.2.map Lane.pa).getD []

/-- A lane that is refused: zero for its destination (R170). -/
def laneRefused (l : Lane) : Lane := { laneBind l 0 (2 ^ l.n - 1) false with kval := 0 }

/-- The lanes of an access that the page's new state refuses are answered: zero for their destinations, stores discarded (R170). What
is left of the access goes on. -/
def State.refuseLanes (s : State) (p : Nat → Bool) (h : Held) : State × Option Held :=
  let refuse (l : Lane) : Lane := if p l.pa && !isPool l.pa then laneRefused l else l
  match h with
  | .fill r => (s, some (.fill { r with req := { r.req with lanes := r.req.lanes.map refuse } }))
  | .contrib q op v => (s, some (.contrib { q with lanes := q.lanes.map refuse } op v))
  | .wt q _ | .rel q _ _ => (s.post (.writeAckArrival q.src.tid 0), none)
  | .atom q (.readClear rm rounds) => (s, some (.atom { q with lanes := q.lanes.map refuse } (.readClear rm rounds)))
  | .atom q (.tapeSwap vals es slots addrs) =>
    let parts := swapParts q.lanes vals es slots addrs
    let rest := parts.filter fun x => !p x.1.pa
    ((parts.filter fun x => p x.1.pa).foldl (fun (s : State) x => s.post (.tapePush q.src x.2.2.1 x.2.2.2.2 0 x.1.n x.2.2.2.1 0 false)) s,
      some (.atom { q with lanes := rest.map Prod.fst } (.tapeSwap (rest.map (·.2.1)) (rest.map (·.2.2.1)) (rest.map (·.2.2.2.1))
        (rest.map (·.2.2.2.2)))))
  | .atom q op => (match q.lanes with
      | l :: _ => s.post (.longResultArrival (Reply.of q.src.tid (atomWrites q op l 0 0 false) q.parked))
      | [] => s, none)
  | .acq q _ => (s.post (.longResultArrival { Reply.of q.src.tid
      (loadWrites q.dst (q.lanes.map fun l => { l with kval := 0 })) true with acquire := true }), none)
  | .bar w | .wait w => (s.wakeWith w.src.tid fun c =>
      let c := c.setX w.a 0
      if w.kind = 0 then c.setP w.pe.toNat false else c, none)
  | .wake .. | .teller .. | .remote .. => (s, none)

/-- The event that performs an access held at a slot. -/
def heldEvent : Held → Event
  | .fill r => .fillAtHome r
  | .wt q v => .writeThroughAtHome q v
  | .atom q op => .atomicAtHome q op
  | .contrib q op v => .contributionAtHome q op v
  | .rel q n v => .releaseAtHome q n v
  | .acq q n => .acquireAtHome q n
  | .bar w => .barrierArrivalAtHome w
  | .wait w => .waitRegistration w
  | .wake q t => .wakeAtHome q t
  | .teller c o _ _ => .tellerOpCompletion c o
  | .remote m _ => .remoteWordAccess m

/-- The state of an answer that is a next state. -/
def nextOr (o : Out State) (s : State) : State :=
  match o with
  | .next t => t
  | _ => s

/-- A die that holds no copy of a line gets one now, from the home or from the die that owns the line (R164). -/
def State.getsNow (s : State) (line die : Nat) : State :=
  match s.dirOf line with
  | some (.ex d) | some (.ow d _) =>
    if d = die then s
    else nextOr (execForwardedRequest line d die false ((s.foldLine line).l2Take line (homeDie line))) s
  | _ => nextOr (execGetsAtHome line die s) s

/-- A fill is served now: what its die must ask for first is asked for in the same step, so that no later access to the page comes between
(R164, R170). -/
def State.fillNow (s : State) (r : FillReq) : Nat → State
  | 0 => nextOr (execFillAtHome r s) s
  | fuel + 1 => match (s.readLines (dieOf r.req.src.core) r.req.na (unboundLines r.req)).2.2 with
    | [] => nextOr (execFillAtHome r s) s
    | line :: _ => (s.getsNow line (dieOf r.req.src.core)).fillNow r fuel

/-- Perform an access at its home now. -/
def State.performHeld (s : State) (h : Held) : State :=
  match h with
  | .fill r => s.fillNow r (unboundLines r.req).length
  | .wt q v => nextOr (execWriteThroughAtHome q v s) s
  | .atom q op => nextOr (execAtomicAtHome q op s) s
  | .contrib q op v => nextOr (execContributionAtHome q op v s) s
  | .rel q n v => nextOr (execReleaseAtHome q n v s) s
  | .acq q n => nextOr (execAcquireAtHome q n s) s
  | .bar w => nextOr (execBarrierArrivalAtHome w s) s
  | .wait w => nextOr (execWaitRegistration w s) s
  | .wake q t => nextOr (execWakeAtHome q t s) s
  | .teller c o u _ => s.telAgain c o u
  | .remote m _ => nextOr (execRemoteWordAccess m s) s

/-- Perform what is left of a replayed access; one whose line is busy with a drain waits in flight (R164, R170). -/
def State.replayHeld (s : State) (h : Held) : State :=
  let busy := match heldLanes h with
    | some (_, ls) => s.jobs.any fun e => ls.any fun l => e.2.line == lineOf l.pa
    | none => false
  if busy then s.post (heldEvent h) else s.performHeld h

/-- Replay one access against the new state, lane by lane: its lanes in the page are answered where the state refuses them, once
reported with the lowest of them, and the others are performed (R170). -/
def State.replay (s : State) (r : PageRun) (h : Held) : State :=
  let h := mapHeld r.moveLane h
  match heldLanes h with
  | none => s.replayHeld h
  | some (src, ls) => match (if r.refuses h then ls.find? fun l => !isPool l.pa && r.inPage l.pa && !laneBound l else none) with
    | none => s.replayHeld h
    | some l =>
      let a := s.refuseLanes r.inPage h
      let s := a.1.deliver { a.1.threadRecord src.tid (trapPageMode + 256 * r.newMode) src.pc (BitVec.ofNat 64 l.va) with asid := src.asid }
      match a.2 with
      | some h => s.replayHeld h
      | none => s

/-- Whether an access was sent straight to the new frame of a PGMIG: it waits behind those of the page (R170). -/
def PageRun.direct (r : PageRun) (h : Held) : Bool :=
  match r.dest with
  | none => false
  | some d =>
    let as := heldPlaces h
    as.any (fun a => decide (d ≤ a) && decide (a < d + r.size)) && !as.any fun a => decide (r.base ≤ a) && decide (a < r.base + r.size)

/-- A refused access is sent again once the page has settled, ahead of its sender's later ones (R171; log 57). -/
def State.resend (s : State) (r : PageRun) (h : Held) : State := s.postFront (heldEvent (mapHeld r.moveLane h))

/-- Step 5: the page leaves TRANSITION, the queue is performed in order, the refused accesses are sent again, the instruction completes,
and operations that waited walk again (R170, R171). -/
def State.pageFinish (s : State) (die slot : Nat) (r : PageRun) (overlaps : Nat) : State :=
  let d := s.die die
  let s := s.setDie die { d with pages := d.pages.erase slot, pageWait := [], mcf := d.mcf || overlaps != 0 }
  let s := { s with
    pending := s.pending.map (mapEvent r.moveLane)
    due := s.due.map (mapEvent r.moveLane)
    timers := s.timers.map fun (e : Nat × Event) => (e.1, mapEvent r.moveLane e.2)
    threads := s.threads.map fun (e : Nat × Ctx) => (e.1, { e.2 with passed := e.2.passed.map r.moveLane })
    slices := s.slices.map fun (e : Nat × Slice) => (e.1, { e.2 with waiters := e.2.waiters.map (mapWaiter r.moveLane) })
    jobs := s.jobs.map fun (e : Nat × Job) => (e.1, r.moveJob e.2) }
  let all := r.queue.take Config.pageQueue
  let queue := all.filter fun h => !r.direct h
  let s := (r.queue.drop Config.pageQueue).foldr (fun h s => s.resend r h) s
  let s := (queue ++ all.filter r.direct).foldl (fun s h => s.replay r h) s
  let count := if r.op.migrate then queue.length else overlaps
  let s := s.pageReply r.op (min count (2 ^ 32 - 1)) (if r.bad then 6 else 0)
  d.pageWait.foldl (fun s op => s.post (.pageOpSlotGrant die op)) s

/-- Whether the page, or a die's copy of a line of it, holds data with an uncorrectable-error mark. -/
def State.pageMarked (s : State) (r : PageRun) : Bool :=
  (s.poisoned.any fun w => decide (r.base ≤ 8 * w) && decide (8 * w < r.base + r.size)) ||
    (s.pageCopies r).any fun e => match s.proxy e.1 e.2 with
      | some p => p.pois != 0
      | none => false

/-- Whether step 4 meets marked data: in what it copies or moves, or in a line that it merges (R174, R176). -/
def State.actMarked (s : State) (r : PageRun) : Bool :=
  if r.op.migrate then s.pageMarked r
  else match bitsOf r.leaf.toNat 61 59, r.op.mode with
    | 0, 2 => s.pageMarked r
    | 1, 0 => (s.copyContributions r ++ r.swept).any fun c => c.pois != 0 || s.linePoison c.line != 0
    | _, _ => false

/-- A back-invalidation of a 64-byte half goes to the host; what the host answers is a free choice, with free data (R421; log 3). -/
def State.askBack (s : State) (die slot : Nat) (half : Nat) : State :=
  let (w, s) := s.draw
  let r := { s with snoops := s.snoops + 1, toHost := s.toHost ++ [HostMsg.invalidate half] }.hostData
  r.2.post (.bisnpResponse die slot half (if w.getLsbD 0 then some (BitVec.ofNat 512 r.1) else none))

/-- PAGE_OP_COMPLETION: steps 4 and 5; a change out of HOSTOWN first asks the host for every 64-byte half, up to 64 of them at a time (R170,
R174, R421). -/
def execPageOpCompletion (die slot : Nat) (s : State) : Out State :=
  match (s.die die).pages.find? slot with
  | none => .next s
  | some r =>
    let r := { r with bad := s.actMarked r }
    if !r.op.migrate && bitsOf r.leaf.toNat 61 59 == 3 then
      let halves := (List.range (r.size / 64)).map (r.base / 64 + ·)
      let s := s.setRun die slot { r with waiting := halves }
      .next ((halves.take 64).foldl (fun s h => s.askBack die slot h) s)
    else
      let a := s.pageAct r
      .next (a.2.pageFinish die slot r a.1)

/-- BISNP_RESPONSE: dirty data of the host merges at the home, which wakes a slice in retention (R169); the next half is asked for, and after
the last one the operation ends (R421). -/
def execBisnpResponse (die slot line : Nat) (dirty : Option (BitVec 512)) (s : State) : Out State :=
  match (s.die die).pages.find? slot with
  | none => .next s
  | some r =>
    if !r.waiting.contains line then .next s
    else
      let s := match dirty with
        | some d => ((((s.foldLine (line / 2)).awake (homeSlice (line / 2))).write (64 * line) 64 d.toNat).cleanse (64 * line) 64)
        | none => s
      let s := { s with snoops := s.snoops - 1 }
      let r := { r with waiting := r.waiting.filter (· ≠ line) }
      let s := s.setRun die slot r
      match r.waiting[63]? with
      | some h => .next (s.askBack die slot h)
      | none =>
      if r.waiting.isEmpty then
        let a := s.pageAct r
        .next (a.2.pageFinish die slot r a.1)
      else .next s

/-- PAGE_QUEUE_RETRY: while the operation runs its queue stays full, and the access is refused again after twice the wait, up to 4,096
cycles; once it has ended the access has been sent (R171; log 57). -/
def execPageQueueRetry (die slot wait : Nat) (h : Held) (s : State) : Out State :=
  .next (match (s.die die).pages.find? slot with
    | none => s
    | some r => if (r.queue.drop Config.pageQueue).contains h then s.refuseFull die slot (min (2 * wait) 4096) h else s)

end Sys2Proof.Machine
end

