-- ==== Sys2Proof/Machine/Deliver.lean ====
section
/-! DEFINITION. Delivery of an event: the same meanings that `exec` gives the event rows. -/

namespace Sys2Proof.Machine

/-- What an event does when it is delivered (R14, R138). -/
def deliverEvent (e : Event) (s : State) : Out State :=
  match e with
  | .icsyncInvalidateAtCore tid core range => execIcsyncInvalidateAtCore tid core range s
  | .pageOpSlotGrant die op => execPageOpSlotGrant die op s
  | .pageSweepAtCore die slot core => execPageSweepAtCore die slot core s
  | .pageOpCompletion die slot => execPageOpCompletion die slot s
  | .pageQueueRetry die slot wait h => execPageQueueRetry die slot wait h s
  | .vhistGrant tid cell asid slot fmt v => execVhistGrant tid cell asid slot fmt v s
  | .longFunctionResult tid r v => execLongFunctionResult tid r v s
  | .descriptorDropAtCell tid cell asid arr => execDescriptorDropAtCell tid cell asid arr s
  | .mintReference q => execMintReference q s
  | .mintDrop q => execMintDrop q s
  | .mintReserve q => execMintReserve q s
  | .mintCreate q data => execMintCreate q data s
  | .pinRelease k slice => execPinRelease k slice s
  | .mintReplyArrival q o => execMintReplyArrival q o s
  | .versionWakeArrival tid result => execVersionWakeArrival tid result s
  | .quotaRetry rcb asid lower => execQuotaRetry rcb asid lower s
  | .forceNodeStep tid => execForceNodeStep tid s
  | .forceCompletion tid => execForceCompletion tid s
  | .poolSourceCopy cell entry => execPoolSourceCopy cell entry s
  | .lockedStoreRelease q op => execLockedStoreRelease q op s
  | .matrixCommandAtHead core => execMatrixCommandAtHead core s
  | .kstepGrant cell => execKstepGrant cell s
  | .kstepRetire core => execKstepRetire core s
  | .epilogueRow core => execEpilogueRow core s
  | .mdrainCompletion core => execMdrainCompletion core s
  | .tellerOpStart cell => execTellerOpStart cell s
  | .redaddSegment cell op => execRedaddSegment cell op s
  | .tellerFault cell op code addr => execTellerFault cell op code addr s
  | .tellerOpCompletion cell op => execTellerOpCompletion cell op s
  | .userEventEntry tid => execUserEventEntry tid s
  | .sleepTimeReached tid => execSleepTimeReached tid s
  | .dispatcherRecordArrival sector r poster => execDispatcherRecordArrival sector r poster s
  | .spillRefill sector rcb asid => execSpillRefill sector rcb asid s
  | .residencyProbe sector => execResidencyProbe sector s
  | .placement sector => execPlacement sector s
  | .migrationPacketArrival p => execMigrationPacketArrival p s
  | .parkLimitExpiry tid => execParkLimitExpiry tid s
  | .stallLimitExpiry tid => execStallLimitExpiry tid s
  | .regionTableUpdateAtCore tid core asid => execRegionTableUpdateAtCore tid core asid s
  | .tapePush src entry addr old width slot tag poison => execTapePush src entry addr old width slot tag poison s
  | .adjointTileContribution q first vals => execAdjointTileContribution q first vals s
  | .cfenceFence tid core cell => execCfenceFence tid core cell s
  | .cfenceRestore tid core cell => execCfenceRestore tid core cell s
  | .creset tid cell => execCreset tid cell s
  | .cellResetEnd cell => execCellResetEnd cell s
  | .slretEnter tid slice => execSlretEnter tid slice s
  | .slretWake tid slice => execSlretWake tid slice s
  | .retentionDataWake slice => execRetentionDataWake slice s
  | .tsplitWrite die v => execTsplitWrite die v s
  | .tarenaWrite die len v => execTarenaWrite die len v s
  | .sevtClear die v => execSevtClear die v s
  | .tlbiShootdownAtCore tid core asid range => execTlbiShootdownAtCore tid core asid range s
  | .preemptArrival tid core slot hold a => execPreemptArrival tid core slot hold a s
  | .imageWritebackCommand core tid => execImageWritebackCommand core tid s
  | .imageLineFetchArrival tid line => execImageLineFetchArrival tid line s
  | .imageLost tid line => execImageLost tid line s
  | .haltTreeArrival tid core rcb => execHaltTreeArrival tid core rcb s
  | .xredContributionAtRoot dev tag im j ver op fmt shape n data nf => execXredContributionAtRoot dev tag im j ver op fmt shape n data nf s
  | .xredRootTimeout tag im j ver => execXredRootTimeout tag im j ver s
  | .xredResultArrival tag im j ver status data nf => execXredResultArrival tag im j ver status data nf s
  | .lineFetchArrival tid line => execLineFetchArrival tid line s
  | .longResultArrival r => execLongResultArrival r s
  | .lineFillArrival q lines => execLineFillArrival q lines s
  | .fillAtHome q => execFillAtHome q s
  | .poolBankAccess q op => execPoolBankAccess q op s
  | .writeThroughAtHome q vals => execWriteThroughAtHome q vals s
  | .writeBackMerge tid core line key data mask nc pois => execWriteBackMerge tid core line key data mask nc pois s
  | .writeAckArrival tid tag => execWriteAckArrival tid tag s
  | .atomicAtHome q op => execAtomicAtHome q op s
  | .contributionAtHome q op vals => execContributionAtHome q op vals s
  | .contributionAckArrival tid => execContributionAckArrival tid s
  | .releaseAtHome q n val => execReleaseAtHome q n val s
  | .acquireAtHome q n => execAcquireAtHome q n s
  | .drainCommandArrival core job => execDrainCommandArrival core job s
  | .drainCompletion job => execDrainCompletion job s
  | .barrierArrivalAtHome w => execBarrierArrivalAtHome w s
  | .waitRegistration w => execWaitRegistration w s
  | .wakeAtHome q timeout => execWakeAtHome q timeout s
  | .waiterWakeArrival w val result => execWaiterWakeArrival w val result s
  | .waiterPollRetry w => execWaiterPollRetry w s
  | .waitDeadlineExpiry w => execWaitDeadlineExpiry w s
  | .suspendedPollerRequeue w => execSuspendedPollerRequeue w s
  | .getsAtHome line die => execGetsAtHome line die s
  | .getmAtHome line die => execGetmAtHome line die s
  | .putmAtHome line die => execPutmAtHome line die s
  | .puteAtHome line die => execPuteAtHome line die s
  | .forwardedRequest line owner dest excl => execForwardedRequest line owner dest excl s
  | .invalidateAtProxy line die => execInvalidateAtProxy line die s
  | .deliverRetry r => execDeliverRetry r s
  | .softErrorCorrected die cls inst loc => execSoftErrorCorrected die cls inst loc s
  | .uncorrectableError die cls inst loc => execUncorrectableError die cls inst loc s
  | .errorWindowEnd die => execErrorWindowEnd die s
  | .powerWindowProjection die high cycles => execPowerWindowProjection die high cycles s
  | .coldReset => execColdReset s
  | .coreRelease => execCoreRelease s
  | .hostDoorbell => execHostDoorbell s
  | .spdmRequest => execSpdmRequest s
  | .linkStateChange link state => execLinkStateChange link state s
  | .flitRetransmit link => execFlitRetransmit link s
  | .linkMessageArrival link m => execLinkMessageArrival link m s
  | .remoteWordAccess m => execRemoteWordAccess m s
  | .remoteKeyRequest m => execRemoteKeyRequest m s
  | .arrivalNotice dev space arr im j ver data => execArrivalNotice dev space arr im j ver data s
  | .shadowFetchReply slice k status data => execShadowFetchReply slice k status data s
  | .hostHdmAccess pa write => execHostHdmAccess pa write s
  | .bisnpResponse die slot line dirty => execBisnpResponse die slot line dirty s
  | .hostSnoop half inv => execHostSnoop half inv s
  | .hostFillReply half excl data => execHostFillReply half excl data s
  | .bridgeDeviceAccess q op => execBridgeDeviceAccess q op s
  | .cxlLinkStateChange up => execCxlLinkStateChange up s

end Sys2Proof.Machine
end

