-- ==== Sys2Proof/Machine/Control.lean ====
section
/-! DEFINITION. The user control registers: GETC and PUTC (R69, R70, R329). -/

namespace Sys2Proof.Machine

/-- `WHERE`: die, y, x, core and slot (R69). -/
def Ctx.whereWord (c : Ctx) : Nat :=
  let cell := cellOf c.core
  c.slot % 16 + 16 * (c.core % 8) + 128 * cellX cell + 4096 * cellY cell + 2 ^ 17 * dieOfCell cell

/-- `LCORE` for a rectangle word of the RCB (R323, R329). -/
def lcoreOf (core rect : Nat) : Word :=
  let y := cellY (cellOf core)
  let x := cellX (cellOf core)
  let y0 := bitsOf rect 4 0
  let x0 := bitsOf rect 9 5
  let h := bitsOf rect 14 10 + 1
  let w := bitsOf rect 19 15 + 1
  if y0 ≤ y ∧ y < y0 + h ∧ x0 ≤ x ∧ x < x0 + w then BitVec.ofNat 64 (((y - y0) * w + (x - x0)) * 8 + core % 8)
  else BitVec.allOnes 64

/-- `LCORE`, with the RCB as its home holds it; the spec does not say what it reads while the RCB is not mapped (log 3). -/
def State.lcore (s : State) : Word × State :=
  match s.rcbWord? s.me.rcb.toNat s.me.asid 17 with
  | some r => (lcoreOf s.me.core r, s)
  | none => s.draw

/-- The value of a user control register other than `LCORE` (R69). -/
def State.controlValue (s : State) (num : Nat) : Word :=
  let c := s.me
  let q := s.core c.core
  match num with
  | 0x000 => BitVec.ofNat 64 (s.pcyc - q.cycle0)
  | 0x001 => BitVec.ofNat 64 s.ticks
  | 0x002 => c.thid
  | 0x003 => BitVec.ofNat 64 c.whereWord
  | 0x005 => c.rcb
  | 0x008 => c.evid.setWidth 64
  | 0x009 => c.evpc
  | 0x00A => c.uehnd
  | 0x010 => c.srkey
  | 0x011 => c.srctr
  | 0x018 => c.tapeb
  | 0x019 => c.tapel
  | 0x01A => c.tapep
  | 0x020 => c.thpc
  | 0x021 => c.thcause
  | 0x028 => BitVec.ofNat 64 ((q.split.map Prod.fst).getD 0)
  | 0x029 => BitVec.ofNat 64 ((q.split.map Prod.snd).getD 0)
  | 0x02A => BitVec.ofNat 64 Config.poolBytes
  | 0x030 => BitVec.ofNat 64 c.pendc
  | 0x031 => BitVec.ofNat 64 c.ackc
  | 0x038 => c.fltpc
  | 0x039 => c.fltaddr
  | 0x03A => c.fltcode.setWidth 64
  | _ => c.uthnd

/-- GETC (R69, R70). -/
def execGetc (a : R5) (num : BitVec 12) (s : State) : Out State :=
  if num = 0x004 then
    let r := s.lcore
    .next (r.2.finish (·.setX a r.1))
  else .next (s.finish (·.setX a (s.controlValue num.toNat)))

/-- A 16-byte aligned value: bits [63:4] as written (R69). -/
def aligned16 (w : Word) : Word := w &&& ~~~15#64

/-- PUTC of one register: only the bits the table names (R69). -/
def Ctx.putControl (c : Ctx) (num : Nat) (w : Word) : Ctx :=
  match num with
  | 0x008 => { c with evid := w.setWidth 16 }
  | 0x009 => { c with evpc := w }
  | 0x00A => { c with uehnd := w }
  | 0x010 => { c with srkey := w }
  | 0x011 => { c with srctr := w }
  | 0x018 => { c with tapeb := aligned16 w }
  | 0x019 => { c with tapel := aligned16 w }
  | 0x01A => { c with tapep := aligned16 w }
  | 0x038 => { c with fltpc := w }
  | 0x039 => { c with fltaddr := w }
  | 0x03A => { c with fltcode := w.setWidth 32 }
  | _ => { c with uthnd := w }

/-- PUTC (R69, R70). -/
def execPutc (b : R5) (num : BitVec 12) (s : State) : Out State :=
  .next (s.finish fun c => c.putControl num.toNat (c.xr b))

end Sys2Proof.Machine
end

