-- ==== Sys2Proof/Machine/Scalar.lean ====
section
/-! DEFINITION. The scalar, predicate and control majors 0x00 to 0x20 and 0x23 (04_scalar.md). -/

namespace Sys2Proof.Machine

/-- The width of an ALU form (R72). -/
def aluWidth (f : F6) : Nat := if f.toNat % 2 = 1 then 32 else 64

/-- An operand of an ALU form read as an integer (R72). -/
def aluRead (f : F6) (v : Word) : Int :=
  if f.toNat = 2 ∨ f.toNat = 3 then ((v.toNat % 2 ^ aluWidth f : Nat) : Int) else signedOf (aluWidth f) v.toNat

/-- The destination's value from the exact result (R72): the low bits, sign-extended from the width. -/
def aluResult (f : F6) (v : Int) : Word := sextWord (aluWidth f) (intBits (aluWidth f) v)

/-- The ALU mould: `A` := op(`B`, op2), clamped in the saturating forms (R72). -/
def State.alu (s : State) (f : F6) (a b : R5) (o : Op2) (op : Int → Int → Int) : Out State :=
  let c := s.me
  let v := op (aluRead f (c.xr b)) (aluRead f (c.op2 o))
  let r := if 4 ≤ f.toNat then satInt (aluWidth f) true v else (v, false)
  .next (s.finish fun c => (c.setX a (aluResult f r.1)).setSats r.2)

/-- NOP. -/
def execNop (s : State) : Out State := .next s.done
/-- ADD (R72). -/
def execAdd (f : F6) (a b : R5) (o : Op2) (s : State) : Out State := s.alu f a b o (· + ·)
/-- SUB (R72). -/
def execSub (f : F6) (a b : R5) (o : Op2) (s : State) : Out State := s.alu f a b o (· - ·)
/-- MUL (R72). -/
def execMul (f : F6) (a b : R5) (o : Op2) (s : State) : Out State := s.alu f a b o (· * ·)
/-- MULH (R72). -/
def execMulh (f : F6) (a b : R5) (o : Op2) (s : State) : Out State :=
  s.alu f a b o (fun x y => (x * y).fdiv (2 ^ aluWidth f))
/-- DIV: truncated; a divisor of 0 gives 0, and the overflow case wraps (R72, R73). -/
def execDiv (f : F6) (a b : R5) (o : Op2) (s : State) : Out State :=
  s.alu f a b o (fun x y => if y = 0 then 0 else x.tdiv y)
/-- REM: a divisor of 0 gives the dividend (R72, R73). -/
def execRem (f : F6) (a b : R5) (o : Op2) (s : State) : Out State :=
  s.alu f a b o (fun x y => if y = 0 then x else x - y * x.tdiv y)

/-- The logical operations: a bit pattern reduced to the form's width (R72). -/
def State.logic (s : State) (f : F6) (a b : R5) (o : Op2) (op : Word → Word → Word) : Out State :=
  .next (s.finish fun c => c.setX a (sextWord (aluWidth f) (op (c.xr b) (c.op2 o)).toNat))

/-- AND (R72). -/
def execAnd (f : F6) (a b : R5) (o : Op2) (s : State) : Out State := s.logic f a b o (· &&& ·)
/-- OR (R72). -/
def execOr (f : F6) (a b : R5) (o : Op2) (s : State) : Out State := s.logic f a b o (· ||| ·)
/-- XOR (R72). -/
def execXor (f : F6) (a b : R5) (o : Op2) (s : State) : Out State := s.logic f a b o (· ^^^ ·)
/-- ANDN (R72). -/
def execAndn (f : F6) (a b : R5) (o : Op2) (s : State) : Out State := s.logic f a b o (fun x y => x &&& ~~~y)

/-- A left shift of a `w`-bit pattern by any amount (R74). -/
def shiftLeft (w n k : Nat) : Nat := if k < w then n * 2 ^ k % 2 ^ w else 0
/-- A logical right shift of a `w`-bit pattern by any amount (R74). -/
def shiftRight (w n k : Nat) : Nat := if k < w then n / 2 ^ k else 0
/-- An arithmetic right shift of a `w`-bit pattern by any amount (R74). -/
def shiftArith (w n k : Nat) : Nat := intBits w ((signedOf w n).fdiv (2 ^ min k w))
/-- A rotation of a `w`-bit pattern left by any amount (R74). -/
def rotateLeft (w n k : Nat) : Nat := (n * 2 ^ (k % w) % 2 ^ w) + n / 2 ^ (w - k % w)

/-- The shift majors: the amount is the whole of op2, unsigned (R74). -/
def State.shift (s : State) (f : F6) (a b : R5) (o : Op2) (op : Nat → Nat → Nat → Nat) : Out State :=
  .next (s.finish fun c =>
    c.setX a (sextWord (aluWidth f) (op (aluWidth f) ((c.xr b).toNat % 2 ^ aluWidth f) (c.op2 o).toNat)))

/-- SHL (R74). -/
def execShl (f : F6) (a b : R5) (o : Op2) (s : State) : Out State := s.shift f a b o shiftLeft
/-- SHR (R74). -/
def execShr (f : F6) (a b : R5) (o : Op2) (s : State) : Out State := s.shift f a b o shiftRight
/-- SAR (R74). -/
def execSar (f : F6) (a b : R5) (o : Op2) (s : State) : Out State := s.shift f a b o shiftArith
/-- ROL (R74). -/
def execRol (f : F6) (a b : R5) (o : Op2) (s : State) : Out State := s.shift f a b o rotateLeft
/-- MIN (R72). -/
def execMin (f : F6) (a b : R5) (o : Op2) (s : State) : Out State := s.alu f a b o min
/-- MAX (R72). -/
def execMax (f : F6) (a b : R5) (o : Op2) (s : State) : Out State := s.alu f a b o max

/-- Number of zero bits above the highest one bit of a 64-bit pattern (R75). -/
def leadingZeros (n : Nat) : Nat := if n = 0 then 64 else 63 - Nat.log2 n

/-- Number of zero bits below the lowest one bit among `fuel` bits (R75). -/
def trailingZeros : Nat → Nat → Nat
  | 0, _ => 0
  | fuel + 1, n => if n % 2 = 1 then 0 else 1 + trailingZeros fuel (n / 2)

/-- BCNT (R75). -/
def execBcnt (f : F6) (a b : R5) (s : State) : Out State :=
  .next (s.finish fun c =>
    let n := (c.xr b).toNat
    c.setX a (BitVec.ofNat 64 (match f.toNat with
      | 0 => popCount 64 n
      | 1 => leadingZeros n
      | _ => trailingZeros 64 n)))

/-- BREV: bits, or bytes (R75). -/
def execBrev (f : F6) (a b : R5) (s : State) : Out State :=
  .next (s.finish fun c => c.setX a (if f = 0 then (c.xr b).reverse
    else BitVec.ofNat 64 (valueOf (bytesOf 8 (c.xr b).toNat).reverse)))

/-- The length a field control names (R76). -/
def fieldLength (ctl : Nat) : Nat := if bitsOf ctl 13 8 = 0 then 64 else bitsOf ctl 13 8

/-- FEXT (R76). -/
def execFext (f : F6) (a b : R5) (o : Op2) (s : State) : Out State :=
  .next (s.finish fun c =>
    let ctl := (c.op2U o).toNat
    let n := fieldLength ctl
    let v := (c.xr b).toNat / 2 ^ (ctl % 64) % 2 ^ n
    c.setX a (if f = 1 then sextWord n v else BitVec.ofNat 64 v))

/-- FINS (R76). -/
def execFins (a b : R5) (o : Op2) (s : State) : Out State :=
  .next (s.finish fun c =>
    let ctl := (c.op2U o).toNat
    let m := BitVec.ofNat 64 ((2 ^ fieldLength ctl - 1) * 2 ^ (ctl % 64))
    c.setX a ((c.xr a &&& ~~~m) ||| (BitVec.ofNat 64 ((c.xr b).toNat * 2 ^ (ctl % 64)) &&& m)))

/-- SEXT (R77). -/
def execSext (f : F6) (a b : R5) (s : State) : Out State :=
  .next (s.finish fun c =>
    let w := 8 * 2 ^ (f.toNat % 4)
    let n := (c.xr b).toNat
    c.setX a (if f.toNat < 4 then sextWord w n else BitVec.ofNat 64 (n % 2 ^ w)))

/-- LI; the immediate stands extended as its form requires (R78). -/
def execLi (f : F6) (a : R5) (i : BitVec 32) (s : State) : Out State :=
  .next (s.finish fun c => c.setX a (match f.toNat with
    | 0 => sext32 i
    | 1 => i.setWidth 64
    | _ => i ++ (c.xr a).extractLsb' 0 32))

/-- SEL (R79). -/
def execSel (f : F6) (a b c : R5) (s : State) : Out State :=
  .next (s.finish fun x => x.setX a (if x.pr (f.toNat % 16) != f.getLsbD 4 then x.xr b else x.xr c))

/-- LEA (R80). -/
def execLea (f : F6) (a b : R5) (o : Op2) (s : State) : Out State :=
  .next (s.finish fun c => c.setX a (c.xr b + c.op2 o * BitVec.ofNat 64 (2 ^ f.toNat)))

/-- The conditions of CMP on operands of `w` bits (R81). -/
def cmpCond (cond w : Nat) (a b : Nat) : Bool :=
  let x := signedOf w a
  let y := signedOf w b
  match cond with
  | 0 => a == b
  | 1 => a != b
  | 2 => x < y
  | 3 => x ≥ y
  | 4 => a < b
  | 5 => a ≥ b
  | 6 => x > y
  | 7 => x ≤ y
  | 8 => a > b
  | 9 => a ≤ b
  | 10 => (a &&& b) != 0
  | _ => (a &&& b) == 0

/-- CMP (R81). -/
def execCmp (f : F6) (a b : R5) (o : Op2) (s : State) : Out State :=
  .next (s.finish fun c =>
    let w := if f.toNat < 16 then 64 else 32
    c.setP a.toNat (cmpCond (f.toNat % 16) w ((c.xr b).toNat % 2 ^ w) ((c.op2 o).toNat % 2 ^ w)))

/-- PLOG (R82). -/
def execPlog (f : F6) (a b c : R5) (s : State) : Out State :=
  .next (s.finish fun x => x.setP a.toNat (tableBit f.toNat (x.pr b.toNat) (x.pr c.toNat)))

/-- PMOV (R83). -/
def execPmov (a b : R5) (s : State) : Out State :=
  .next (s.finish fun c => c.setX a (if c.pr b.toNat then 1 else 0))
/-- PMOV.P (R83). -/
def execPmovP (a b : R5) (s : State) : Out State := .next (s.finish fun c => c.setP a.toNat (c.xr b != 0))
/-- PMOV.GP (R83). -/
def execPmovGp (a : R5) (s : State) : Out State := .next (s.finish fun c => c.setX a (c.pred.setWidth 64))
/-- PMOV.SP (R83). -/
def execPmovSp (b : R5) (s : State) : Out State := .next (s.finish fun c => c.writePred (c.xr b))

/-- The issuing thread, changed, continues at a PC of its own (R32, R84). -/
def State.go (s : State) (f : Ctx → Ctx) (t : Word) : State := s.setMe ((f s.me).jump t)

/-- BR (R39, R84). -/
def execBr (a : R5) (t : Target) (s : State) : Out State :=
  .next (if s.me.pr (a.toNat % 16) != a.getLsbD 4 then s.go id (s.me.target t) else s.done)
/-- JMP (R84). -/
def execJmp (t : Target) (s : State) : Out State := .next (s.go id (s.me.target t))
/-- CALL (R84). -/
def execCall (a : R5) (t : Target) (s : State) : Out State :=
  .next (s.go (fun c => c.setX a c.nextPc) (s.me.target t))
/-- JR: the target is read before the link is written (R84). -/
def execJr (a b : R5) (s : State) : Out State := .next (s.go (fun c => c.setX a c.nextPc) (s.me.xr b))
/-- LOOP: the new counter is tested, and LOOP x0 always branches (R84). -/
def execLoop (a : R5) (t : Target) (s : State) : Out State :=
  let n := s.me.xr a - 1
  .next (if a = 0 ∨ n ≠ 0 then s.go (fun c => c.setX a n) (s.me.target t) else s.finish fun c => c.setX a n)

/-- PADDR (R86). -/
def execPaddr (f : F6) (a b : R5) (o : Op2) (s : State) : Out State :=
  let c := s.me
  let n := (c.xr b).toNat
  let k := (c.op2 o).toNat
  let cell := cellOf c.core
  if f.toNat = 2 then
    .next (s.finish fun c => c.setX a (PoolAddr.absolute ⟨cellY cell, cellX cell, c.core % 8, (n + k) % 2 ^ 17⟩))
  else match poolAddr (c.xr b) c.core with
    | none => .next (s.trapMe ⟨trapAddrSpace, 0, 0, c.xr b⟩)
    | some p =>
      let p := { p with off := (p.off + k) % 2 ^ 17 }
      .next (s.finish fun c => c.setX a (if f.toNat = 1 then p.relative (cellY cell) (cellX cell) else p.absolute))

end Sys2Proof.Machine
end

