-- ==== Sys2Proof/Machine/Dispatch.lean ====
section
/-! DEFINITION. The dispatch: one arm for each constructor of `Instr`. -/

namespace Sys2Proof.Machine

/-- What an instruction or event does (R47: Execute). -/
def exec (i : Instr) (s : State) : Host.Outcome State Fault Refusal :=
  match i with
  | .nop => Sys2Proof.Machine.execNop s
  | .add f a b o => Sys2Proof.Machine.execAdd f a b o s
  | .sub f a b o => Sys2Proof.Machine.execSub f a b o s
  | .mul f a b o => Sys2Proof.Machine.execMul f a b o s
  | .mulh f a b o => Sys2Proof.Machine.execMulh f a b o s
  | .div f a b o => Sys2Proof.Machine.execDiv f a b o s
  | .rem f a b o => Sys2Proof.Machine.execRem f a b o s
  | .and f a b o => Sys2Proof.Machine.execAnd f a b o s
  | .or f a b o => Sys2Proof.Machine.execOr f a b o s
  | .xor f a b o => Sys2Proof.Machine.execXor f a b o s
  | .andn f a b o => Sys2Proof.Machine.execAndn f a b o s
  | .shl f a b o => Sys2Proof.Machine.execShl f a b o s
  | .shr f a b o => Sys2Proof.Machine.execShr f a b o s
  | .sar f a b o => Sys2Proof.Machine.execSar f a b o s
  | .rol f a b o => Sys2Proof.Machine.execRol f a b o s
  | .min f a b o => Sys2Proof.Machine.execMin f a b o s
  | .max f a b o => Sys2Proof.Machine.execMax f a b o s
  | .bcnt f a b => Sys2Proof.Machine.execBcnt f a b s
  | .brev f a b => Sys2Proof.Machine.execBrev f a b s
  | .fext f a b o => Sys2Proof.Machine.execFext f a b o s
  | .fins a b o => Sys2Proof.Machine.execFins a b o s
  | .sext f a b => Sys2Proof.Machine.execSext f a b s
  | .li f a im => Sys2Proof.Machine.execLi f a im s
  | .sel f a b c => Sys2Proof.Machine.execSel f a b c s
  | .lea f a b o => Sys2Proof.Machine.execLea f a b o s
  | .cmp f a b o => Sys2Proof.Machine.execCmp f a b o s
  | .plog f a b c => Sys2Proof.Machine.execPlog f a b c s
  | .pmov a b => Sys2Proof.Machine.execPmov a b s
  | .pmovP a b => Sys2Proof.Machine.execPmovP a b s
  | .pmovGp a => Sys2Proof.Machine.execPmovGp a s
  | .pmovSp b => Sys2Proof.Machine.execPmovSp b s
  | .br a t => Sys2Proof.Machine.execBr a t s
  | .jmp t => Sys2Proof.Machine.execJmp t s
  | .call a t => Sys2Proof.Machine.execCall a t s
  | .jr a b => Sys2Proof.Machine.execJr a b s
  | .loop a t => Sys2Proof.Machine.execLoop a t s
  | .getc a num => Sys2Proof.Machine.execGetc a num s
  | .putc b num => Sys2Proof.Machine.execPutc b num s
  | .paddr f a b o => Sys2Proof.Machine.execPaddr f a b o s
  | .ld f a m => Sys2Proof.Machine.execLd f a m s
  | .st f a m => Sys2Proof.Machine.execSt f a m s
  | .ldv f a m c => Sys2Proof.Machine.execLdv f a m c s
  | .stv f a m c => Sys2Proof.Machine.execStv f a m c s
  | .ldg f a b c d => Sys2Proof.Machine.execLdg f a b c d s
  | .sts f a b c d => Sys2Proof.Machine.execSts f a b c d s
  | .ldm f a m => Sys2Proof.Machine.execLdm f a m s
  | .pref f m => Sys2Proof.Machine.execPref f m s
  | .cmoClean m => Sys2Proof.Machine.execCmoClean m s
  | .cmoFlush m => Sys2Proof.Machine.execCmoFlush m s
  | .cmoInval m => Sys2Proof.Machine.execCmoInval m s
  | .cmoZero m => Sys2Proof.Machine.execCmoZero m s
  | .amo f a m c d => Sys2Proof.Machine.execAmo f a m c d s
  | .cas f a m c d => Sys2Proof.Machine.execCas f a m c d s
  | .red f m c => Sys2Proof.Machine.execRed f m c s
  | .redv f a m c => Sys2Proof.Machine.execRedv f a m c s
  | .acq f a m => Sys2Proof.Machine.execAcq f a m s
  | .rel f a m => Sys2Proof.Machine.execRel f a m s
  | .bar a m => Sys2Proof.Machine.execBar a m s
  | .barN a m => Sys2Proof.Machine.execBarN a m s
  | .waitw f a m c d pe => Sys2Proof.Machine.execWaitw f a m c d pe s
  | .wake m => Sys2Proof.Machine.execWake m s
  | .wakeT m => Sys2Proof.Machine.execWakeT m s
  | .pend a m => Sys2Proof.Machine.execPend a m s
  | .pendC a m => Sys2Proof.Machine.execPendC a m s
  | .fenceFull s1 => Sys2Proof.Machine.execFenceFull s1 s
  | .fenceAcq s1 => Sys2Proof.Machine.execFenceAcq s1 s
  | .fenceRel s1 => Sys2Proof.Machine.execFenceRel s1 s
  | .fenceAck => Sys2Proof.Machine.execFenceAck s
  | .icsync s1 => Sys2Proof.Machine.execIcsync s1 s
  | .icsyncRanged s1 b c => Sys2Proof.Machine.execIcsyncRanged s1 b c s
  | .pgmode n a b c => Sys2Proof.Machine.execPgmode n a b c s
  | .pgmodeCf a c => Sys2Proof.Machine.execPgmodeCf a c s
  | .pgmig n a b c => Sys2Proof.Machine.execPgmig n a b c s
  | .pgq a b => Sys2Proof.Machine.execPgq a b s
  | .pgqL a b => Sys2Proof.Machine.execPgqL a b s
  | .pgqD a => Sys2Proof.Machine.execPgqD a s
  | .vcvt f a b c => Sys2Proof.Machine.execVcvt f a b c s
  | .vqntX f a b c => Sys2Proof.Machine.execVqntX f a b c s
  | .vqnt f a b c => Sys2Proof.Machine.execVqnt f a b c s
  | .vdq f a b c => Sys2Proof.Machine.execVdq f a b c s
  | .vsr f a b => Sys2Proof.Machine.execVsr f a b s
  | .vhist f b c => Sys2Proof.Machine.execVhist f b c s
  | .hread a b im => Sys2Proof.Machine.execHread a b im s
  | .hreadC a b im => Sys2Proof.Machine.execHreadC a b im s
  | .hreadInit a b im => Sys2Proof.Machine.execHreadInit a b im s
  | .vadd f a b c mk => Sys2Proof.Machine.execVadd f a b c mk s
  | .vsub f a b c mk => Sys2Proof.Machine.execVsub f a b c mk s
  | .vmul f a b c mk => Sys2Proof.Machine.execVmul f a b c mk s
  | .vfma f a b c mk => Sys2Proof.Machine.execVfma f a b c mk s
  | .vmin f a b c mk => Sys2Proof.Machine.execVmin f a b c mk s
  | .vmax f a b c mk => Sys2Proof.Machine.execVmax f a b c mk s
  | .vsgn f a b c mk => Sys2Proof.Machine.execVsgn f a b c mk s
  | .vrcp f a b mk => Sys2Proof.Machine.execVrcp f a b mk s
  | .vrsq f a b mk => Sys2Proof.Machine.execVrsq f a b mk s
  | .vsqrt f a b mk => Sys2Proof.Machine.execVsqrt f a b mk s
  | .vdiv f a b c mk => Sys2Proof.Machine.execVdiv f a b c mk s
  | .vexp2 f a b mk => Sys2Proof.Machine.execVexp2 f a b mk s
  | .vlog2 f a b mk => Sys2Proof.Machine.execVlog2 f a b mk s
  | .vcmp f a b c mk => Sys2Proof.Machine.execVcmp f a b c mk s
  | .vsel f a b c => Sys2Proof.Machine.execVsel f a b c s
  | .vlogic f a b c mk => Sys2Proof.Machine.execVlogic f a b c mk s
  | .vshift f a b o mk => Sys2Proof.Machine.execVshift f a b o mk s
  | .viop f a b c mk => Sys2Proof.Machine.execViop f a b c mk s
  | .vbcast f a b o mk => Sys2Proof.Machine.execVbcast f a b o mk s
  | .vext f a b o => Sys2Proof.Machine.execVext f a b o s
  | .vins f a b o => Sys2Proof.Machine.execVins f a b o s
  | .vperm f a b c mk => Sys2Proof.Machine.execVperm f a b c mk s
  | .vshuf f a b c mk => Sys2Proof.Machine.execVshuf f a b c mk s
  | .vred f a b mk => Sys2Proof.Machine.execVred f a b mk s
  | .vdot f a b c mk => Sys2Proof.Machine.execVdot f a b c mk s
  | .klog f a b c => Sys2Proof.Machine.execKlog f a b c s
  | .kmov f a b => Sys2Proof.Machine.execKmov f a b s
  | .vli f a im mk => Sys2Proof.Machine.execVli f a im mk s
  | .tdecl a b => Sys2Proof.Machine.execTdecl a b s
  | .tdeclU a b => Sys2Proof.Machine.execTdeclU a b s
  | .tld a k => Sys2Proof.Machine.execTld a k s
  | .tst a k => Sys2Proof.Machine.execTst a k s
  | .tdrop k => Sys2Proof.Machine.execTdrop k s
  | .tdropAll k => Sys2Proof.Machine.execTdropAll k s
  | .tqry a k => Sys2Proof.Machine.execTqry a k s
  | .twait a k => Sys2Proof.Machine.execTwait a k s
  | .tget f a b c d => Sys2Proof.Machine.execTget f a b c d s
  | .tstv f a k => Sys2Proof.Machine.execTstv f a k s
  | .tunp f a b => Sys2Proof.Machine.execTunp f a b s
  | .tew f a b c d => Sys2Proof.Machine.execTew f a b c d s
  | .tmap f a b c => Sys2Proof.Machine.execTmap f a b c s
  | .tmma f a b c d => Sys2Proof.Machine.execTmma f a b c d s
  | .tred f a b => Sys2Proof.Machine.execTred f a b s
  | .tidx f a b c im => Sys2Proof.Machine.execTidx f a b c im s
  | .tcvt f a b => Sys2Proof.Machine.execTcvt f a b s
  | .tforce a b c => Sys2Proof.Machine.execTforce a b c s
  | .tforceM a => Sys2Proof.Machine.execTforceM a s
  | .tforceQ a b => Sys2Proof.Machine.execTforceQ a b s
  | .thclr a => Sys2Proof.Machine.execThclr a s
  | .thclrAll => Sys2Proof.Machine.execThclrAll s
  | .tadam a b c d => Sys2Proof.Machine.execTadam a b c d s
  | .tfill a b im => Sys2Proof.Machine.execTfill a b im s
  | .tldp a b c disp => Sys2Proof.Machine.execTldp a b c disp s
  | .tstp a b c disp => Sys2Proof.Machine.execTstp a b c disp s
  | .mringSet r a b => Sys2Proof.Machine.execMringSet r a b s
  | .mringPush r a b => Sys2Proof.Machine.execMringPush r a b s
  | .mringRst r a => Sys2Proof.Machine.execMringRst r a s
  | .mma f ra rb => Sys2Proof.Machine.execMma f ra rb s
  | .mfmt a o => Sys2Proof.Machine.execMfmt a o s
  | .mfmtQ a => Sys2Proof.Machine.execMfmtQ a s
  | .mepi a b c => Sys2Proof.Machine.execMepi a b c s
  | .mepiRst a => Sys2Proof.Machine.execMepiRst a s
  | .mdrain f a dst => Sys2Proof.Machine.execMdrain f a dst s
  | .mstat a => Sys2Proof.Machine.execMstat a s
  | .mstatR a b => Sys2Proof.Machine.execMstatR a b s
  | .mstatC a => Sys2Proof.Machine.execMstatC a s
  | .tel f b => Sys2Proof.Machine.execTel f b s
  | .teln f a b c => Sys2Proof.Machine.execTeln f a b c s
  | .telq a => Sys2Proof.Machine.execTelq a s
  | .telqW a => Sys2Proof.Machine.execTelqW a s
  | .ueret => Sys2Proof.Machine.execUeret s
  | .spawn a b => Sys2Proof.Machine.execSpawn a b s
  | .mig n m => Sys2Proof.Machine.execMig n m s
  | .migC n b => Sys2Proof.Machine.execMigC n b s
  | .exit => Sys2Proof.Machine.execExit s
  | .yield => Sys2Proof.Machine.execYield s
  | .post b => Sys2Proof.Machine.execPost b s
  | .postN a b => Sys2Proof.Machine.execPostN a b s
  | .postR b => Sys2Proof.Machine.execPostR b s
  | .postRn a b => Sys2Proof.Machine.execPostRn a b s
  | .rcbopGet a b o => Sys2Proof.Machine.execRcbopGet a b o s
  | .rcbopSet a b o => Sys2Proof.Machine.execRcbopSet a b o s
  | .rcbopCreate a b c => Sys2Proof.Machine.execRcbopCreate a b c s
  | .rcbopHold a b => Sys2Proof.Machine.execRcbopHold a b s
  | .rcbopRelease a b => Sys2Proof.Machine.execRcbopRelease a b s
  | .rcbopRetire a b => Sys2Proof.Machine.execRcbopRetire a b s
  | .sleep f o => Sys2Proof.Machine.execSleep f o s
  | .join a b => Sys2Proof.Machine.execJoin a b s
  | .joinQ a b => Sys2Proof.Machine.execJoinQ a b s
  | .dreg a b => Sys2Proof.Machine.execDreg a b s
  | .dregU a b => Sys2Proof.Machine.execDregU a b s
  | .dregQ a b => Sys2Proof.Machine.execDregQ a b s
  | .dmodeFwd => Sys2Proof.Machine.execDmodeFwd s
  | .dmodeRev => Sys2Proof.Machine.execDmodeRev s
  | .dmodeQ a => Sys2Proof.Machine.execDmodeQ a s
  | .dadj a b => Sys2Proof.Machine.execDadj a b s
  | .dadjL a b => Sys2Proof.Machine.execDadjL a b s
  | .dadjX a b => Sys2Proof.Machine.execDadjX a b s
  | .dadjP a b => Sys2Proof.Machine.execDadjP a b s
  | .dseed b c => Sys2Proof.Machine.execDseed b c s
  | .dseedV b c => Sys2Proof.Machine.execDseedV b c s
  | .dseedT a k => Sys2Proof.Machine.execDseedT a k s
  | .tapeMark a => Sys2Proof.Machine.execTapeMark a s
  | .tapePop a => Sys2Proof.Machine.execTapePop a s
  | .tapeRewind a b => Sys2Proof.Machine.execTapeRewind a b s
  | .tapeQuery a => Sys2Proof.Machine.execTapeQuery a s
  | .dclr a b => Sys2Proof.Machine.execDclr a b s
  | .dclrR a b c => Sys2Proof.Machine.execDclrR a b c s
  | .dclrT k => Sys2Proof.Machine.execDclrT k s
  | .trap im => Sys2Proof.Machine.execTrap im s
  | .trapRet b im => Sys2Proof.Machine.execTrapRet b im s
  | .sysc im => Sys2Proof.Machine.execSysc im s
  | .syscFw im => Sys2Proof.Machine.execSyscFw im s
  | .eret => Sys2Proof.Machine.execEret s
  | .sget a num => Sys2Proof.Machine.execSget a num s
  | .sput b num => Sys2Proof.Machine.execSput b num s
  | .tlbiAll s1 => Sys2Proof.Machine.execTlbiAll s1 s
  | .tlbiAsid s1 b => Sys2Proof.Machine.execTlbiAsid s1 b s
  | .tlbiVa s1 b c => Sys2Proof.Machine.execTlbiVa s1 b c s
  | .tlbiRange s1 b c d => Sys2Proof.Machine.execTlbiRange s1 b c d s
  | .ctxsw a b => Sys2Proof.Machine.execCtxsw a b s
  | .ctxswFl a b => Sys2Proof.Machine.execCtxswFl a b s
  | .ctxswQ a b => Sys2Proof.Machine.execCtxswQ a b s
  | .preempt a b => Sys2Proof.Machine.execPreempt a b s
  | .preemptH a b => Sys2Proof.Machine.execPreemptH a b s
  | .gangHalt a b => Sys2Proof.Machine.execGangHalt a b s
  | .gangResume a b => Sys2Proof.Machine.execGangResume a b s
  | .gangRead a b => Sys2Proof.Machine.execGangRead a b s
  | .keyopGen a b => Sys2Proof.Machine.execKeyopGen a b s
  | .keyopLoad a b c => Sys2Proof.Machine.execKeyopLoad a b c s
  | .keyopClr a b => Sys2Proof.Machine.execKeyopClr a b s
  | .keyopQ a b => Sys2Proof.Machine.execKeyopQ a b s
  | .capr a b => Sys2Proof.Machine.execCapr a b s
  | .caprF a b => Sys2Proof.Machine.execCaprF a b s
  | .errqPop a => Sys2Proof.Machine.execErrqPop a s
  | .errqQ a => Sys2Proof.Machine.execErrqQ a s
  | .errqInj a b => Sys2Proof.Machine.execErrqInj a b s
  | .wfe => Sys2Proof.Machine.execWfe s
  | .abind a b c => Sys2Proof.Machine.execAbind a b c s
  | .abindU a b => Sys2Proof.Machine.execAbindU a b s
  | .abindS a b => Sys2Proof.Machine.execAbindS a b s
  | .abindSu a b => Sys2Proof.Machine.execAbindSu a b s
  | .abindX a b c => Sys2Proof.Machine.execAbindX a b c s
  | .abindRt a b c => Sys2Proof.Machine.execAbindRt a b c s
  | .abindLf a b => Sys2Proof.Machine.execAbindLf a b s
  | .xred a b => Sys2Proof.Machine.execXred a b s
  | .xredMax a b => Sys2Proof.Machine.execXredMax a b s
  | .lstat a o => Sys2Proof.Machine.execLstat a o s
  | .lstatD a o => Sys2Proof.Machine.execLstatD a o s
  | .lstatH a => Sys2Proof.Machine.execLstatH a s
  | .icsyncInvalidateAtCore tid core range => Sys2Proof.Machine.execIcsyncInvalidateAtCore tid core range s
  | .pageOpSlotGrant die op => Sys2Proof.Machine.execPageOpSlotGrant die op s
  | .pageSweepAtCore die slot core => Sys2Proof.Machine.execPageSweepAtCore die slot core s
  | .pageOpCompletion die slot => Sys2Proof.Machine.execPageOpCompletion die slot s
  | .pageQueueRetry die slot wait h => Sys2Proof.Machine.execPageQueueRetry die slot wait h s
  | .vhistGrant tid cell asid slot fmt v => Sys2Proof.Machine.execVhistGrant tid cell asid slot fmt v s
  | .longFunctionResult tid r v => Sys2Proof.Machine.execLongFunctionResult tid r v s
  | .descriptorDropAtCell tid cell asid arr => Sys2Proof.Machine.execDescriptorDropAtCell tid cell asid arr s
  | .mintReference q => Sys2Proof.Machine.execMintReference q s
  | .mintDrop q => Sys2Proof.Machine.execMintDrop q s
  | .mintReserve q => Sys2Proof.Machine.execMintReserve q s
  | .mintCreate q data => Sys2Proof.Machine.execMintCreate q data s
  | .pinRelease k slice => Sys2Proof.Machine.execPinRelease k slice s
  | .mintReplyArrival q o => Sys2Proof.Machine.execMintReplyArrival q o s
  | .versionWakeArrival tid result => Sys2Proof.Machine.execVersionWakeArrival tid result s
  | .quotaRetry rcb asid lower => Sys2Proof.Machine.execQuotaRetry rcb asid lower s
  | .forceNodeStep tid => Sys2Proof.Machine.execForceNodeStep tid s
  | .forceCompletion tid => Sys2Proof.Machine.execForceCompletion tid s
  | .poolSourceCopy cell entry => Sys2Proof.Machine.execPoolSourceCopy cell entry s
  | .lockedStoreRelease q op => Sys2Proof.Machine.execLockedStoreRelease q op s
  | .matrixCommandAtHead core => Sys2Proof.Machine.execMatrixCommandAtHead core s
  | .kstepGrant cell => Sys2Proof.Machine.execKstepGrant cell s
  | .kstepRetire core => Sys2Proof.Machine.execKstepRetire core s
  | .epilogueRow core => Sys2Proof.Machine.execEpilogueRow core s
  | .mdrainCompletion core => Sys2Proof.Machine.execMdrainCompletion core s
  | .tellerOpStart cell => Sys2Proof.Machine.execTellerOpStart cell s
  | .redaddSegment cell op => Sys2Proof.Machine.execRedaddSegment cell op s
  | .tellerFault cell op code addr => Sys2Proof.Machine.execTellerFault cell op code addr s
  | .tellerOpCompletion cell op => Sys2Proof.Machine.execTellerOpCompletion cell op s
  | .userEventEntry tid => Sys2Proof.Machine.execUserEventEntry tid s
  | .sleepTimeReached tid => Sys2Proof.Machine.execSleepTimeReached tid s
  | .dispatcherRecordArrival sector r poster => Sys2Proof.Machine.execDispatcherRecordArrival sector r poster s
  | .spillRefill sector rcb asid => Sys2Proof.Machine.execSpillRefill sector rcb asid s
  | .residencyProbe sector => Sys2Proof.Machine.execResidencyProbe sector s
  | .placement sector => Sys2Proof.Machine.execPlacement sector s
  | .migrationPacketArrival p => Sys2Proof.Machine.execMigrationPacketArrival p s
  | .parkLimitExpiry tid => Sys2Proof.Machine.execParkLimitExpiry tid s
  | .stallLimitExpiry tid => Sys2Proof.Machine.execStallLimitExpiry tid s
  | .regionTableUpdateAtCore tid core asid => Sys2Proof.Machine.execRegionTableUpdateAtCore tid core asid s
  | .tapePush src entry addr old width slot tag poison => Sys2Proof.Machine.execTapePush src entry addr old width slot tag poison s
  | .adjointTileContribution q first vals => Sys2Proof.Machine.execAdjointTileContribution q first vals s
  | .cfenceFence tid core cell => Sys2Proof.Machine.execCfenceFence tid core cell s
  | .cfenceRestore tid core cell => Sys2Proof.Machine.execCfenceRestore tid core cell s
  | .creset tid cell => Sys2Proof.Machine.execCreset tid cell s
  | .cellResetEnd cell => Sys2Proof.Machine.execCellResetEnd cell s
  | .slretEnter tid slice => Sys2Proof.Machine.execSlretEnter tid slice s
  | .slretWake tid slice => Sys2Proof.Machine.execSlretWake tid slice s
  | .retentionDataWake slice => Sys2Proof.Machine.execRetentionDataWake slice s
  | .tsplitWrite die v => Sys2Proof.Machine.execTsplitWrite die v s
  | .tarenaWrite die len v => Sys2Proof.Machine.execTarenaWrite die len v s
  | .sevtClear die v => Sys2Proof.Machine.execSevtClear die v s
  | .tlbiShootdownAtCore tid core asid range => Sys2Proof.Machine.execTlbiShootdownAtCore tid core asid range s
  | .preemptArrival tid core slot hold a => Sys2Proof.Machine.execPreemptArrival tid core slot hold a s
  | .imageWritebackCommand core tid => Sys2Proof.Machine.execImageWritebackCommand core tid s
  | .imageLineFetchArrival tid line => Sys2Proof.Machine.execImageLineFetchArrival tid line s
  | .imageLost tid line => Sys2Proof.Machine.execImageLost tid line s
  | .haltTreeArrival tid core rcb => Sys2Proof.Machine.execHaltTreeArrival tid core rcb s
  | .xredContributionAtRoot dev tag im j ver op fmt shape n data nf => Sys2Proof.Machine.execXredContributionAtRoot dev tag im j ver op fmt shape n data nf s
  | .xredRootTimeout tag im j ver => Sys2Proof.Machine.execXredRootTimeout tag im j ver s
  | .xredResultArrival tag im j ver status data nf => Sys2Proof.Machine.execXredResultArrival tag im j ver status data nf s
  | .lineFetchArrival tid line => Sys2Proof.Machine.execLineFetchArrival tid line s
  | .longResultArrival r => Sys2Proof.Machine.execLongResultArrival r s
  | .lineFillArrival q lines => Sys2Proof.Machine.execLineFillArrival q lines s
  | .fillAtHome q => Sys2Proof.Machine.execFillAtHome q s
  | .poolBankAccess q op => Sys2Proof.Machine.execPoolBankAccess q op s
  | .writeThroughAtHome q vals => Sys2Proof.Machine.execWriteThroughAtHome q vals s
  | .writeBackMerge tid core line key data mask nc pois => Sys2Proof.Machine.execWriteBackMerge tid core line key data mask nc pois s
  | .writeAckArrival tid tag => Sys2Proof.Machine.execWriteAckArrival tid tag s
  | .atomicAtHome q op => Sys2Proof.Machine.execAtomicAtHome q op s
  | .contributionAtHome q op vals => Sys2Proof.Machine.execContributionAtHome q op vals s
  | .contributionAckArrival tid => Sys2Proof.Machine.execContributionAckArrival tid s
  | .releaseAtHome q n val => Sys2Proof.Machine.execReleaseAtHome q n val s
  | .acquireAtHome q n => Sys2Proof.Machine.execAcquireAtHome q n s
  | .drainCommandArrival core job => Sys2Proof.Machine.execDrainCommandArrival core job s
  | .drainCompletion job => Sys2Proof.Machine.execDrainCompletion job s
  | .barrierArrivalAtHome w => Sys2Proof.Machine.execBarrierArrivalAtHome w s
  | .waitRegistration w => Sys2Proof.Machine.execWaitRegistration w s
  | .wakeAtHome q timeout => Sys2Proof.Machine.execWakeAtHome q timeout s
  | .waiterWakeArrival w val result => Sys2Proof.Machine.execWaiterWakeArrival w val result s
  | .waiterPollRetry w => Sys2Proof.Machine.execWaiterPollRetry w s
  | .waitDeadlineExpiry w => Sys2Proof.Machine.execWaitDeadlineExpiry w s
  | .suspendedPollerRequeue w => Sys2Proof.Machine.execSuspendedPollerRequeue w s
  | .getsAtHome line die => Sys2Proof.Machine.execGetsAtHome line die s
  | .getmAtHome line die => Sys2Proof.Machine.execGetmAtHome line die s
  | .putmAtHome line die => Sys2Proof.Machine.execPutmAtHome line die s
  | .puteAtHome line die => Sys2Proof.Machine.execPuteAtHome line die s
  | .forwardedRequest line owner dest excl => Sys2Proof.Machine.execForwardedRequest line owner dest excl s
  | .invalidateAtProxy line die => Sys2Proof.Machine.execInvalidateAtProxy line die s
  | .deliverRetry r => Sys2Proof.Machine.execDeliverRetry r s
  | .softErrorCorrected die cls inst loc => Sys2Proof.Machine.execSoftErrorCorrected die cls inst loc s
  | .uncorrectableError die cls inst loc => Sys2Proof.Machine.execUncorrectableError die cls inst loc s
  | .errorWindowEnd die => Sys2Proof.Machine.execErrorWindowEnd die s
  | .powerWindowProjection die high cycles => Sys2Proof.Machine.execPowerWindowProjection die high cycles s
  | .coldReset => Sys2Proof.Machine.execColdReset s
  | .coreRelease => Sys2Proof.Machine.execCoreRelease s
  | .hostDoorbell => Sys2Proof.Machine.execHostDoorbell s
  | .spdmRequest => Sys2Proof.Machine.execSpdmRequest s
  | .linkStateChange link state => Sys2Proof.Machine.execLinkStateChange link state s
  | .flitRetransmit link => Sys2Proof.Machine.execFlitRetransmit link s
  | .linkMessageArrival link m => Sys2Proof.Machine.execLinkMessageArrival link m s
  | .remoteWordAccess m => Sys2Proof.Machine.execRemoteWordAccess m s
  | .remoteKeyRequest m => Sys2Proof.Machine.execRemoteKeyRequest m s
  | .arrivalNotice dev space arr im j ver data => Sys2Proof.Machine.execArrivalNotice dev space arr im j ver data s
  | .shadowFetchReply slice k status data => Sys2Proof.Machine.execShadowFetchReply slice k status data s
  | .hostHdmAccess pa write => Sys2Proof.Machine.execHostHdmAccess pa write s
  | .bisnpResponse die slot line dirty => Sys2Proof.Machine.execBisnpResponse die slot line dirty s
  | .hostSnoop half inv => Sys2Proof.Machine.execHostSnoop half inv s
  | .hostFillReply half excl data => Sys2Proof.Machine.execHostFillReply half excl data s
  | .bridgeDeviceAccess q op => Sys2Proof.Machine.execBridgeDeviceAccess q op s
  | .cxlLinkStateChange up => Sys2Proof.Machine.execCxlLinkStateChange up s

end Sys2Proof.Machine
end

