-- ==== Sys2Proof/Machine/Issue.lean ====
section
/-! DEFINITION. Issue: entry to a line and its fetch (R32 to R34), the decode sequence with its traps (R44 to R49), guards (R41),
pending and poisoned registers (R66, R101), and which context issues (R63, R64). -/

namespace Sys2Proof.Machine

/-! ## Registers an instruction names (R44, R46, R49) -/

/-- Register types (R44); handles have no value out of range and are not listed. -/
inductive RegKind where
  | x
  | v
  | k
  | p
  deriving DecidableEq, Repr

/-- A register that an instruction names: its field number, type and number, and whether the instruction reads it (a destination
that is only written carries no poison into it, R101). -/
structure RegUse where
  field : Nat
  kind : RegKind
  num : Nat
  reads : Bool
  deriving DecidableEq, Repr

/-- A scalar source. -/
def rx (f : Nat) (r : R5) : RegUse := ⟨f, .x, r.toNat, true⟩
/-- A scalar destination. -/
def wx (f : Nat) (r : R5) : RegUse := ⟨f, .x, r.toNat, false⟩
/-- A vector source. -/
def rv (f : Nat) (r : R5) : RegUse := ⟨f, .v, r.toNat, true⟩
/-- A vector destination. -/
def wv (f : Nat) (r : R5) : RegUse := ⟨f, .v, r.toNat, false⟩
/-- A mask register. -/
def rk (f : Nat) (r : R5) : RegUse := ⟨f, .k, r.toNat, true⟩
/-- A predicate. -/
def rp (f : Nat) (n : Nat) : RegUse := ⟨f, .p, n, true⟩

/-- The second operand where it is a register (R42). -/
def o2 : Op2 → List RegUse
  | .reg c => [rx 2 c]
  | .imm _ => []

/-- The vector second operand where it is a register. -/
def v2 : Op2 → List RegUse
  | .reg c => [rv 2 c]
  | .imm _ => []

/-- The mask of a masked form (R204). -/
def mk2 : Option MaskOp → List RegUse
  | none => []
  | some m => [rk 3 m.d]

/-- A vector destination that keeps lanes under a merging mask. -/
def dv (a : R5) : Option MaskOp → RegUse
  | none => wv 0 a
  | some m => ⟨0, .v, a.toNat, !m.zero⟩

/-- The registers of a key (R229). -/
def kx (k : KeyOp) : List RegUse :=
  [rx 1 k.b, rx 2 k.c, rx 3 k.d] ++ (match k.ver with
    | .reg e => [rx 5 e]
    | .imm _ => [])

/-- A run of vector registers from field `A` on (R243, R246). -/
def runV (a : R5) (n : Nat) (reads : Bool) : List RegUse := (List.range n).map fun i => ⟨0, .v, a.toNat + i, reads⟩

/-- The quad of TEL and TELN (R46, R312); x0 is no first register of one (R320). -/
def quad (b : R5) : List RegUse :=
  if b = 0 then [⟨1, .x, 32, true⟩] else (List.range 4).map fun i => ⟨1, .x, b.toNat + i, true⟩

/-- Every register that an instruction names, by ascending field number (R71, R103, R118, R143, R147, R173, R176, R178, R191, R203,
R229, R238, R269, R297, R320, R341, R356, R398, R423). A load names its destination and a store its data register as written only:
which of them it reads depends on the region it meets (R108), and the instruction looks at their poison itself; a masked vector load reads
its destination's inactive lanes (R101, R106, R107). -/
def regs : Instr → List RegUse
  | .nop => []
  | .add _ a b o | .sub _ a b o | .mul _ a b o | .mulh _ a b o | .div _ a b o | .rem _ a b o | .and _ a b o | .or _ a b o
  | .xor _ a b o | .andn _ a b o | .shl _ a b o | .shr _ a b o | .sar _ a b o | .rol _ a b o | .min _ a b o | .max _ a b o
  | .fext _ a b o | .lea _ a b o | .paddr _ a b o => [wx 0 a, rx 1 b] ++ o2 o
  | .fins a b o => [rx 0 a, rx 1 b] ++ o2 o
  | .bcnt _ a b | .brev _ a b | .sext _ a b => [wx 0 a, rx 1 b]
  | .li f a _ => [if f = 2 then rx 0 a else wx 0 a]
  | .sel f a b c => [wx 0 a, rx 1 b, rx 2 c, rp 4 (f.toNat % 16)]
  | .cmp _ a b o => [rp 0 a.toNat, rx 1 b] ++ o2 o
  | .plog _ a b c => [rp 0 a.toNat, rp 1 b.toNat, rp 2 c.toNat]
  | .pmov a b => [wx 0 a, rp 1 b.toNat]
  | .pmovP a b => [rp 0 a.toNat, rx 1 b]
  | .pmovGp a => [wx 0 a]
  | .pmovSp b => [rx 1 b]
  | .br a _ => [rp 0 (a.toNat % 16)]
  | .jmp _ => []
  | .call a _ => [wx 0 a]
  | .jr a b => [wx 0 a, rx 1 b]
  | .loop a _ => [rx 0 a]
  | .getc a _ | .sget a _ => [wx 0 a]
  | .putc b _ | .sput b _ => [rx 1 b]
  | .ld _ a m | .st _ a m | .ldm _ a m => [wx 0 a, rx 1 m.b]
  | .ldv f a m c => [⟨0, .v, a.toNat, f.getLsbD 2⟩, rx 1 m.b] ++ (if f.getLsbD 2 then [rk 2 c] else [])
  | .stv f a m c => [wv 0 a, rx 1 m.b] ++ (if f.getLsbD 2 then [rk 2 c] else [])
  | .ldg f a b c d => [⟨0, .v, a.toNat, f.getLsbD 4⟩, rx 1 b, rv 2 c] ++ (if f.getLsbD 4 then [rk 3 d] else [])
  | .sts f a b c d => [wv 0 a, rx 1 b, rv 2 c] ++ (if f.getLsbD 4 then [rk 3 d] else [])
  | .pref _ m | .cmoClean m | .cmoFlush m | .cmoInval m | .cmoZero m | .wake m | .wakeT m => [rx 1 m.b]
  | .amo _ a m c d => [wx 0 a, rx 1 m.b, rx 2 c, wx 3 d]
  | .cas _ a m c d => [rx 0 a, rx 1 m.b, rx 2 c, wx 3 d]
  | .red _ m c => [rx 1 m.b, rx 2 c]
  | .redv f a m c => (if f.getLsbD 5 then [rk 0 a] else []) ++ [rx 1 m.b, rv 2 c]
  | .acq f a m => (if f.toNat = 2 then [] else [wx 0 a]) ++ [rx 1 m.b]
  | .rel f a m => (if f.toNat = 2 then [] else [rx 0 a]) ++ [rx 1 m.b]
  | .bar a m | .barN a m => [rx 0 a, rx 1 m.b]
  | .waitw _ a m c d pe => [wx 0 a, rx 1 m.b, rx 2 c, rx 3 d, rp 5 pe.toNat]
  | .pend a m | .pendC a m => [wx 0 a, rx 1 m.b]
  | .fenceFull _ | .fenceAcq _ | .fenceRel _ | .fenceAck | .icsync _ => []
  | .icsyncRanged _ b c => [rx 1 b, rx 2 c]
  | .pgmode _ a b c | .pgmig _ a b c => [wx 0 a, rx 1 b, rx 2 c]
  | .pgmodeCf a c => [wx 0 a, rx 2 c]
  | .pgq a b | .pgqL a b => [wx 0 a, rx 1 b]
  | .pgqD a => [wx 0 a]
  | .vcvt f a b c =>
    let k := f.toNat % 32
    [⟨0, .v, a.toNat, decide (6 ≤ k ∧ k ≤ 9)⟩, rv 1 b] ++
      (if k ∈ [0, 1, 6, 7, 8, 9, 24, 25, 26, 27] then [rv 2 c] else [])
  | .vqntX _ a b c => [wx 0 a, rv 1 b, rx 2 c]
  | .vqnt _ a b c => [rv 0 a, rv 1 b, rx 2 c]
  | .vdq _ a b c => [wv 0 a, rv 1 b, rx 2 c]
  | .vsr _ a b | .tunp _ a b => [wv 0 a, rv 1 b]
  | .vhist _ b c => [rv 1 b, rx 2 c]
  | .hread a b _ | .hreadC a b _ | .hreadInit a b _ => [wx 0 a, rx 1 b]
  | .vadd _ a b c mk | .vsub _ a b c mk | .vmul _ a b c mk | .vmin _ a b c mk | .vmax _ a b c mk | .vdiv _ a b c mk
  | .vlogic _ a b c mk => [dv a mk, rv 1 b, rv 2 c] ++ mk2 mk
  | .vfma _ a b c mk | .vperm _ a b c mk | .vdot _ a b c mk => [rv 0 a, rv 1 b, rv 2 c] ++ mk2 mk
  | .vsgn f a b c mk => [dv a mk, rv 1 b] ++ (if f.toNat / 4 = 3 then [] else [rv 2 c]) ++ mk2 mk
  | .viop f a b c mk => [dv a mk, rv 1 b] ++ (if f.toNat / 4 = 13 then [] else [rv 2 c]) ++ mk2 mk
  | .vshuf f a b c mk => [dv a mk, rv 1 b] ++ (if f.toNat / 4 ≥ 4 then [] else [rv 2 c]) ++ mk2 mk
  | .vrcp _ a b mk | .vrsq _ a b mk | .vsqrt _ a b mk | .vexp2 _ a b mk | .vlog2 _ a b mk => [dv a mk, rv 1 b] ++ mk2 mk
  | .vcmp _ a b c mk => [rk 0 a, rv 1 b, rv 2 c] ++ mk2 mk
  | .vsel _ a b c => [wv 0 a, rv 1 b, rv 2 c]
  | .vshift _ a b o mk => [dv a mk, rv 1 b] ++ v2 o ++ mk2 mk
  | .vbcast f a b o mk => [dv a mk] ++ (if f.getLsbD 2 then [rx 1 b] else [rv 1 b] ++ o2 o) ++ mk2 mk
  | .vext _ a b o => [wx 0 a, rv 1 b] ++ o2 o
  | .vins _ a b o => [rv 0 a, rx 1 b] ++ o2 o
  | .vred _ a b mk => [wx 0 a, rv 1 b] ++ mk2 mk
  | .klog _ a b c => [rk 0 a, rk 1 b, rk 2 c]
  | .kmov f a b => match f.toNat with
    | 0 => [rk 0 a, rk 1 b]
    | 3 | 4 => [rk 0 a, rx 1 b]
    | _ => [wx 0 a, rk 1 b]
  | .vli _ a _ mk => [dv a mk] ++ mk2 mk
  | .tdecl a b | .tdeclU a b => [wx 0 a, rx 1 b]
  | .tld _ k | .tst _ k | .tdrop k | .tdropAll k | .dseedT _ k | .dclrT k => kx k
  | .tqry a k => wx 0 a :: kx k
  | .twait a k => rx 0 a :: kx k
  | .tget f a _ c d => runV a (f.toNat % 8 + 1) false ++ [rx 2 c, rx 3 d]
  | .tstv f a k => runV a (f.toNat + 1) true ++ kx k
  | .tew _ _ _ _ _ | .tmma _ _ _ _ _ | .tred _ _ _ | .tcvt _ _ _ => []
  | .tmap f _ _ c => if f.toNat ≥ 8 then [rx 2 c] else []
  | .tidx f _ _ c _ => if f.toNat ≥ 2 then [rx 2 c] else []
  | .tforce _ b c => [rx 1 b, rx 2 c]
  | .tforceM _ => []
  | .tforceQ a _ => [wx 0 a]
  | .thclr _ | .thclrAll => []
  | .tadam _ b c d => [rx 1 b, rx 2 c, rx 3 d]
  | .tfill _ b _ => [rx 1 b]
  | .tldp _ b c _ | .tstp _ b c _ => [rx 1 b, rx 2 c]
  | .mringSet _ a b | .mringPush _ a b => [wx 0 a, rx 1 b]
  | .mringRst _ a => [wx 0 a]
  | .mma _ _ _ => []
  | .mfmt a o => [wx 0 a] ++ (match o with
    | .reg c => [rx 1 c]
    | .imm _ => [])
  | .mfmtQ a | .mepiRst a | .mstat a | .mstatC a => [wx 0 a]
  | .mepi a b c => [wx 0 a, rx 1 b, rx 2 c]
  | .mdrain _ a d => [wx 0 a] ++ (match d with
    | .pool b c | .mem b c => [rx 1 b, rx 2 c]
    | .ring b => [rx 1 b]
    | .tile k => kx k)
  | .mstatR a b => [wx 0 a, rx 1 b]
  | .tel _ b => quad b
  | .teln _ a b c => [rp 0 a.toNat] ++ quad b ++ [wx 2 c]
  | .telq a | .telqW a => [wx 0 a]
  | .ueret => []
  | .spawn a b => [wx 0 a, rx 1 b]
  | .mig _ m => [rx 1 m.b]
  | .migC _ b => [rx 1 b]
  | .exit | .yield => []
  | .post b | .postR b => [rx 1 b]
  | .postN a b | .postRn a b => [wx 0 a, rx 1 b]
  | .rcbopGet a b o => [wx 0 a, rx 1 b] ++ o2 o
  | .rcbopSet a b o => [rx 0 a, rx 1 b] ++ o2 o
  | .rcbopCreate a b c => [wx 0 a, rx 1 b, rx 2 c]
  | .rcbopHold a b | .rcbopRelease a b | .rcbopRetire a b | .joinQ a b => [wx 0 a, rx 1 b]
  | .sleep _ o => o2 o
  | .join a b => [rx 0 a, rx 1 b]
  | .dreg a b | .dregU a b | .dregQ a b => [wx 0 a, rx 1 b]
  | .dmodeFwd | .dmodeRev => []
  | .dmodeQ a => [wx 0 a]
  | .dadj a b | .dadjL a b | .dadjX a b | .dadjP a b => [wx 0 a, rx 1 b]
  | .dseed b c => [rx 1 b, rx 2 c]
  | .dseedV b c => [rx 1 b, rv 2 c]
  | .tapeMark a | .tapePop a | .tapeQuery a => [wx 0 a]
  | .tapeRewind a b => [wx 0 a, rx 1 b]
  | .dclr a b => [wx 0 a, rx 1 b]
  | .dclrR a b c => [wx 0 a, rx 1 b, rx 2 c]
  | .trap _ => []
  | .trapRet b _ => [rx 1 b]
  | .sysc _ | .syscFw _ | .eret | .wfe => []
  | .tlbiAll _ => []
  | .tlbiAsid _ b => [rx 1 b]
  | .tlbiVa _ b c => [rx 1 b, rx 2 c]
  | .tlbiRange _ b c d => [rx 1 b, rx 2 c, rx 3 d]
  | .ctxsw a b | .ctxswFl a b | .ctxswQ a b | .preempt a b | .preemptH a b | .gangHalt a b | .gangResume a b
  | .gangRead a b => [wx 0 a, rx 1 b]
  | .keyopGen a b | .keyopClr a b | .keyopQ a b => [wx 0 a, rx 1 b]
  | .keyopLoad a b c => [wx 0 a, rx 1 b, rx 2 c]
  | .capr a b | .caprF a b => [wx 0 a, rx 1 b]
  | .errqPop a | .errqQ a => [wx 0 a]
  | .errqInj a b => [wx 0 a, rx 1 b]
  | .abind a b c | .abindX a b c | .abindRt a b c => [wx 0 a, rx 1 b, rx 2 c]
  | .abindU a b | .abindS a b | .abindSu a b | .abindLf a b => [wx 0 a, rx 1 b]
  | .xred a b | .xredMax a b => [wx 0 a, rx 1 b]
  | .lstat a o | .lstatD a o => [wx 0 a] ++ (match o with
    | .reg c => [rx 1 c]
    | .imm _ => [])
  | .lstatH a => [wx 0 a]
  | .icsyncInvalidateAtCore .. | .pageOpSlotGrant .. | .pageSweepAtCore .. | .pageOpCompletion .. | .pageQueueRetry ..
  | .vhistGrant .. | .longFunctionResult .. | .descriptorDropAtCell .. | .mintReference .. | .mintDrop ..
  | .mintReserve .. | .mintCreate .. | .pinRelease .. | .mintReplyArrival .. | .versionWakeArrival .. | .quotaRetry ..
  | .forceNodeStep .. | .forceCompletion .. | .poolSourceCopy .. | .lockedStoreRelease .. | .matrixCommandAtHead ..
  | .kstepGrant .. | .kstepRetire .. | .epilogueRow .. | .mdrainCompletion .. | .tellerOpStart .. | .redaddSegment ..
  | .tellerFault .. | .tellerOpCompletion .. | .userEventEntry .. | .sleepTimeReached .. | .dispatcherRecordArrival ..
  | .spillRefill .. | .residencyProbe .. | .placement .. | .migrationPacketArrival .. | .parkLimitExpiry ..
  | .stallLimitExpiry .. | .regionTableUpdateAtCore .. | .tapePush .. | .adjointTileContribution .. | .cfenceFence ..
  | .cfenceRestore .. | .creset .. | .cellResetEnd .. | .slretEnter .. | .slretWake .. | .retentionDataWake ..
  | .tsplitWrite .. | .tarenaWrite .. | .sevtClear .. | .tlbiShootdownAtCore .. | .preemptArrival ..
  | .imageWritebackCommand .. | .imageLineFetchArrival .. | .imageLost .. | .haltTreeArrival ..
  | .xredContributionAtRoot .. | .xredRootTimeout .. | .xredResultArrival .. | .lineFetchArrival ..
  | .longResultArrival .. | .lineFillArrival .. | .fillAtHome .. | .poolBankAccess .. | .writeThroughAtHome ..
  | .writeBackMerge .. | .writeAckArrival .. | .atomicAtHome .. | .contributionAtHome .. | .contributionAckArrival ..
  | .releaseAtHome .. | .acquireAtHome .. | .drainCommandArrival .. | .drainCompletion .. | .barrierArrivalAtHome ..
  | .waitRegistration .. | .wakeAtHome .. | .waiterWakeArrival .. | .waiterPollRetry .. | .waitDeadlineExpiry ..
  | .suspendedPollerRequeue .. | .getsAtHome .. | .getmAtHome .. | .putmAtHome .. | .puteAtHome ..
  | .forwardedRequest .. | .invalidateAtProxy .. | .deliverRetry .. | .softErrorCorrected .. | .uncorrectableError ..
  | .errorWindowEnd .. | .powerWindowProjection .. | .coldReset | .coreRelease | .hostDoorbell | .spdmRequest
  | .linkStateChange .. | .flitRetransmit .. | .linkMessageArrival .. | .remoteWordAccess .. | .remoteKeyRequest ..
  | .arrivalNotice .. | .shadowFetchReply .. | .hostHdmAccess .. | .bisnpResponse .. | .hostSnoop ..
  | .hostFillReply .. | .bridgeDeviceAccess .. | .cxlLinkStateChange .. => []

/-- Registers of a type (R44). -/
def RegKind.count : RegKind → Nat
  | .x => 24
  | .v => 8
  | .k => 4
  | .p => 16

/-- Whether a register fails the range check, the scalar count of user mode included (R44, R46). -/
def Ctx.outOfRange (c : Ctx) (r : RegUse) : Bool :=
  decide (r.num ≥ r.kind.count) || (r.kind == .x && c.mode == .user && decide (r.num ≥ c.khregs))

/-- Whether a register awaits a long result (R66). -/
def Ctx.awaitsLong (c : Ctx) (r : RegUse) : Bool :=
  match r.kind with
  | .x => c.xPend.getLsbD r.num
  | .v => c.vPend.getLsbD r.num
  | .k => c.kPend.getLsbD r.num
  | .p => c.pPend.getLsbD r.num

/-- The address of the load that poisoned a register that the instruction reads (R101). -/
def Ctx.poisonOf (c : Ctx) (r : RegUse) : Option Word :=
  if !r.reads then none
  else match r.kind with
    | .x => c.xPois.find? r.num
    | .v => c.vPois.find? r.num
    | _ => none

/-! ## Privilege (R47, R50) -/

/-- Whether an instruction needs supervisor or firmware mode (R50, R341, R347, R398, R424). -/
def privileged : Instr → Bool
  | .pgmode _ _ _ _ | .pgmodeCf _ _ | .pgmig _ _ _ _ | .rcbopSet _ _ _ | .rcbopCreate _ _ _ | .rcbopHold _ _
  | .rcbopRelease _ _ | .rcbopRetire _ _ | .syscFw _ | .eret | .sget _ _ | .sput _ _ | .tlbiAll _ | .tlbiAsid _ _
  | .tlbiVa _ _ _ | .tlbiRange _ _ _ _ | .ctxsw _ _ | .ctxswFl _ _ | .ctxswQ _ _ | .preempt _ _ | .preemptH _ _
  | .gangHalt _ _ | .gangResume _ _ | .gangRead _ _ | .keyopGen _ _ | .keyopLoad _ _ _ | .keyopClr _ _ | .keyopQ _ _
  | .errqPop _ | .errqQ _ | .errqInj _ _ | .wfe | .abindX _ _ _ | .abindRt _ _ _ | .abindLf _ _ => true
  | _ => false

/-- Whether an instruction reaches a firmware register, or writes a register that only firmware writes (R377). -/
def firmwareOnly : Instr → Bool
  | .sget _ n => 0x130 ≤ n.toNat
  | .sput _ n => n == 0x110 || 0x120 ≤ n.toNat
  | _ => false

/-- Operands that are no immediate of the form though the decoder passes them: the two rings of an MMA must differ (R297). -/
def operandsClash : Instr → Bool
  | .mma _ ra rb => ra == rb
  | _ => false

/-! ## The decode sequence (R47) -/

/-- The first register that fails a test, in the order of the field numbers (R49). -/
def firstField (rs : List RegUse) (p : RegUse → Bool) : Option Nat := (rs.find? p).map RegUse.field

/-- The trap that the decode sequence raises before the guard is evaluated (R47). -/
def Ctx.beforeGuard (c : Ctx) (w : BitVec 16 × BitVec 64) (op : Instr) : Option Trap :=
  if operandsClash op then some (decodeTrap trapIllegalOp 0 w)
  else if (c.mode == .user && privileged op) || (c.mode == .supervisor && firmwareOnly op) then some (decodeTrap trapPriv 0 w)
  else (firstField (regs op) c.outOfRange).map fun f => decodeTrap trapBadOperand f w

/-- The guard: a trap when its predicate awaits a long result, else whether the instruction runs (R41, R47). -/
def Ctx.guardHolds (c : Ctx) (w : BitVec 16 × BitVec 64) : Option Guard → Except Trap Bool
  | none => .ok true
  | some g => if c.pPend.getLsbD g.g.toNat then .error (decodeTrap trapPendingRead 4 w) else .ok (c.pr g.g.toNat != g.n)

/-- The trap that a running instruction raises for a register it names: one that awaits a long result, then one that is poisoned
(R47, R66, R101). -/
def Ctx.afterGuard (c : Ctx) (w : BitVec 16 × BitVec 64) (op : Instr) : Option Trap :=
  match firstField (regs op) c.awaitsLong with
  | some f => some (decodeTrap trapPendingRead f w)
  | none => ((regs op).findSome? fun r => (c.poisonOf r).map fun a => poisonTrap r.field a)

/-- Run an instruction of the issuing context as it stands in its line (R41, R47). -/
def State.runInsn (s : State) (w : BitVec 16 × BitVec 64) (i : Insn) : Out State :=
  match s.me.beforeGuard w i.op with
  | some t => .next (s.trapMe t)
  | none => match s.me.guardHolds w i.grd with
    | .error t => .next (s.trapMe t)
    | .ok false => .next (s.setMe { s.me with sw := i.sw }.advance)
    | .ok true => match s.me.afterGuard w i.op with
      | some t => .next (s.trapMe t)
      | none => exec i.op (s.setMe { s.me with sw := i.sw })

/-! ## Image lines an instruction needs (R64, R380) -/

/-- The image line of a register. -/
def RegUse.imageLine (r : RegUse) : Nat :=
  match r.kind with
  | .x => if r.num = 0 then 0 else if r.num ≤ 16 then 1 else 2
  | .v => 4 + r.num % 8 / 2
  | .k => 8
  | .p => 0

/-- Whether an instruction names handles (R250). -/
def namesHandles : Instr → Bool
  | .tld _ _ | .tst _ _ | .tget _ _ _ _ _ | .tew _ _ _ _ _ | .tmap _ _ _ _ | .tmma _ _ _ _ _ | .tred _ _ _ | .tidx _ _ _ _ _
  | .tcvt _ _ _ | .tforce _ _ _ | .tforceM _ | .tforceQ _ _ | .thclr _ | .thclrAll | .tadam _ _ _ _ | .tfill _ _ _ | .tldp _ _ _ _
  | .tstp _ _ _ _ | .dseedT _ _ | .exit => true
  | _ => false

/-- The image lines of handles: kinds, keys, and the nodes in use with the entry that a new node takes. -/
def Ctx.handleLines (c : Ctx) : List Nat := [8, 30, 31] ++ ((c.freeEntry.toList ++ c.thunks.map Prod.fst).map fun i => 9 + i / 2)

/-- The image lines that an instruction reads or writes (R64, R380). -/
def Ctx.imageLines (c : Ctx) (op : Instr) : List Nat :=
  let own := match op with
    | .getc _ _ | .putc _ _ | .ueret | .tapeMark _ | .tapePop _ | .tapeRewind _ _ | .tapeQuery _ => [3]
    | .sget _ _ | .sput _ _ | .eret => [29]
    | _ => []
  (0 :: (regs op).map RegUse.imageLine ++ own ++ (if namesHandles op then c.handleLines else [])).dedup

/-- Whether a line of a resident thread's image is in its core's register region. -/
def Ctx.holdsLine (c : Ctx) (n : Nat) : Bool := c.held.getLsbD n && c.heldCore == c.core

/-- What the instruction at the PC decodes to, as far as image lines go: a pattern that is not assigned names none. -/
def Ctx.nextOp (c : Ctx) : Instr := ((decode c.fetched.1 c.fetched.2).map Insn.op).getD .nop

/-- The image lines that must be present before the next instruction: those that it reads or writes, and those fetched ahead of a thread's
first instruction on a core (R46, R64). -/
def Ctx.neededLines (c : Ctx) : List Nat := (c.imageLines c.nextOp ++ (List.range 32).filter c.ahead.getLsbD).dedup

/-- The lines of these that are missing. -/
def Ctx.missing (c : Ctx) : List Nat := c.neededLines.filter fun n => !c.holdsLine n

/-- Fetch the image lines that are missing; the context is not ready until they are present (R64). -/
def State.fetchImage (s : State) (tid : Nat) (need missing : List Nat) : State :=
  missing.foldl (fun s n => s.post (.imageLineFetchArrival tid n))
    (s.modCtx tid fun c => { c with park := some (.image (ofLanes 1 ((List.range 32).map fun n => (need.contains n).toNat))) })

/-! ## Readiness (R63, R64) -/

/-- Whether the condition that a park waits for holds (R64). Parks that an event ends never hold here. -/
def State.parkOver (s : State) (tid : Nat) (p : Park) : Bool :=
  let c := s.ctx tid
  match p with
  | .reply | .word | .version | .statistics | .fetch _ | .collect | .sleep _ => false
  | .ring => s.taskRoom (s.targetSector c.core c.taskRec) c.taskRec
  | .image mask => c.heldCore == c.core && decide (c.held.toNat &&& mask = mask)
  | .quota n => n == 5 && decide ((s.cell c.hold.toNat).locks.length < Config.lockEntries)
  | .teller => c.telout == 0
  | .allLong => c.longs == 0
  | .loads => !s.loading tid
  | .quiet => c.settled
  | .performed system => s.quiet tid system
  | .acks => c.ackc == 0
  | .pendcZero => c.pendc == 0
  | .writeBacks q => !s.writingBack q
  | .plane6 => c.awaits == 0
  | .matrixRoom => s.matrixHasRoom c.core
  | .poolStores => !s.storesTo tid (poolBase c.core) Config.poolBytes
  | .tellerRoom => s.telRoom c
  | .event => s.sevt (dieOf c.core) != 0
  | .lock cell entry => ((s.cell cell).locks.find? entry).isNone
  | .page pa => (s.pageHolding pa).isNone
  | .exit => c.longs == 0 && c.telout == 0

/-- Whether nothing but lines that are not present keeps a context from being ready: it is resident, not halted, not being suspended, and
not parked, or its park is over (R64). -/
def State.runnable (s : State) (tid : Nat) : Bool :=
  let c := s.ctx tid
  c.imstate == .resident && !c.halted && !c.suspending && (match c.park with
    | none => true
    | some p => s.parkOver tid p)

/-- Whether the instruction at the PC has issued and goes on in parts. -/
def Ctx.inFlight (c : Ctx) : Bool := c.midway || c.stage != 0

/-- Whether a context has its line and the image lines that its next instruction needs (R34, R64). -/
def Ctx.equipped (c : Ctx) : Bool := c.line.isSome && c.missing.isEmpty

/-- Whether four cycles have passed since a context's last issue (R63). -/
def State.spaced (s : State) (tid : Nat) : Bool :=
  match (s.ctx tid).lastIssue with
  | none => true
  | some t => decide (t + 4 ≤ s.pcyc)

/-! ## Issue (R47, R63) -/

/-- Instructions that no earlier store of the context is ordered before and that read no memory: they issue while stores to pools of the
sector are still on their way (R115, R138). TEL looks at its own reads itself. -/
def passesStores : Instr → Bool
  | .nop | .add .. | .sub .. | .mul .. | .mulh .. | .div .. | .rem .. | .and .. | .or .. | .xor .. | .andn .. | .shl .. | .shr .. | .sar ..
  | .rol .. | .min .. | .max .. | .fext .. | .lea .. | .paddr .. | .fins .. | .bcnt .. | .brev .. | .sext .. | .li .. | .sel .. | .cmp ..
  | .plog .. | .pmov .. | .pmovP .. | .pmovGp .. | .br .. | .jmp .. | .call .. | .jr .. | .loop .. | .getc .. | .putc ..
  | .tel .. | .teln .. | .telq .. | .telqW .. => true
  | _ => false

/-- Issue of a context that is ready: the instruction at its PC; a pattern that is not assigned raises `ILLEGAL_OP` (R47). -/
def State.issue (s : State) (tid : Nat) : Out State :=
  let c := s.ctx tid
  let w := c.fetched
  let used := c.neededLines.foldl (fun (m : SMap Nat) n => m.set n s.pcyc) c.lineUse
  let s := { s.setCtx tid { c with lastIssue := some s.pcyc, park := none, ahead := 0, lineUse := used, issuedOn := c.core } with cur := tid }
  let s := if passesStores c.nextOp then s else s.landStores tid
  match decode w.1 w.2 with
  | none => .next (s.trapMe (decodeTrap trapIllegalOp 0 w))
  | some i => s.runInsn w i

/-- The instruction in flight of a context goes on, in no issue slot: what it waited for has come (R63, R64). -/
def State.goOn (s : State) (tid : Nat) : State :=
  let c := s.ctx tid
  let t := { s.setCtx tid { c with park := none } with cur := tid }
  let t := if passesStores c.nextOp then t else t.landStores tid
  match decode c.fetched.1 c.fetched.2 with
  | none => s
  | some i => match t.runInsn c.fetched i with
    | .next u => { u with cur := s.cur }
    | _ => s

/-- Instructions that a full structure can hold at issue: the commands of the matrix queue, and TEL (R288, R312). -/
def fillsStructure : Instr → Bool
  | .mfmt .. | .mfmtQ .. | .mepi .. | .mepiRst .. | .mma .. | .mdrain .. | .tel .. => true
  | _ => false

/-- Whether a full structure holds a context at issue (R64): `PENDC` is 32, whatever the next instruction is (R126); or the next
instruction, were it to issue now, would find no room. -/
def State.heldAtIssue (s : State) (tid : Nat) : Bool :=
  let c := s.ctx tid
  decide (c.pendc ≥ 32) || (fillsStructure c.nextOp && match s.issue tid with
    | .next t => (t.ctx tid).park == some .matrixRoom || (t.ctx tid).park == some .tellerRoom
    | _ => false)

/-- Whether a context is ready (R64): no instruction of its own is in flight, its current line and every image line that its next
instruction needs are held, and no full structure holds it. -/
def State.ready (s : State) (tid : Nat) : Bool :=
  s.runnable tid && !(s.ctx tid).inFlight && (s.ctx tid).equipped && !s.heldAtIssue tid

/-- Whether a context may issue in this cycle (R63). -/
def State.eligible (s : State) (tid : Nat) : Bool := s.ready tid && s.spaced tid

/-! ## Before issue: user events and lines (R34, R64, R318) -/

/-- A context comes to hold the line and the image lines that it needs; each may park it (R34, R64). -/
def State.equip (s : State) (tid : Nat) : State :=
  let s := if s.runnable tid && (s.ctx tid).line.isNone then (s.modCtx tid fun c => { c with park := none }).fetchLine tid else s
  let c := s.ctx tid
  if s.runnable tid && c.line.isSome then
    match c.missing with
    | [] => s
    | ls => s.fetchImage tid c.neededLines ls
  else s

/-- A context that is about to issue an instruction takes its oldest pending user event first, and enters its handler's line (R318). -/
def State.takeEvent (s : State) (tid : Nat) : State :=
  let c := s.ctx tid
  if c.uen && !c.events.isEmpty && s.eligible tid then
    match execUserEventEntry tid s with
    | .next t => t.equip tid
    | _ => s
  else s

/-- A context comes to hold what it needs; the instruction that it has in flight goes on; and one about to issue takes its event first
(R34, R64, R318). -/
def State.prepare (s : State) (tid : Nat) : State :=
  if !s.runnable tid then s
  else
    let s := s.equip tid
    let s := if s.runnable tid && (s.ctx tid).inFlight && (s.ctx tid).equipped then (s.goOn tid).equip tid else s
    s.takeEvent tid

/-- Whether a core issues nothing at all: stopped, fenced off, gone, or in the steps of a split (R374, R389, R390, R445). -/
def State.idle (s : State) (core : Nat) : Bool :=
  let q := s.core core
  q.stopped || q.fenced || s.coreGone core || (q.settling && s.writingBack core)

/-- The contexts of a core prepare to issue. -/
def State.prepareCore (s : State) (core : Nat) : State :=
  if s.idle core then s else (s.core core).slots.foldl (fun s e => s.prepare e.2) s

/-- The context of a core that issues in this cycle: the owner of the slot, else the first eligible one after it (R63). Cycle c is the
package's, which a cell reset does not restart (log 73). -/
def State.issuer (s : State) (core : Nat) : Option Nat :=
  if s.idle core then none
  else ((List.range 16).filterMap fun i => ((s.core core).slots.find? ((s.pcyc + i) % 16))).find? s.eligible

/-- Instructions that complete once they are in flight, whether or not their context issues: the operations on a key, and TADAM (R249,
R284); a fence and DMODE, after which a thread that left its slot resumes (R146, R359, R404). -/
def completesAway : Instr → Bool
  | .tld .. | .tst .. | .tstv .. | .tldp .. | .tstp .. | .tadam .. | .dseedT .. | .mdrain .. | .xred .. | .xredMax ..
  | .fenceFull _ | .fenceAcq _ | .fenceRel _ | .fenceAck | .dmodeFwd | .dmodeRev => true
  | _ => false

/-- Whether a context that cannot issue, being suspended, held or halted, has such an instruction in flight that can go on (R249, R284). -/
def State.finishesAway (s : State) (tid : Nat) : Bool :=
  let c := s.ctx tid
  (c.imstate == .suspended || c.imstate == .held || (c.imstate == .resident && c.halted)) && c.inFlight && c.line.isSome &&
    completesAway c.nextOp && !s.coreGone c.core && (match c.park with
      | none => true
      | some p => s.parkOver tid p)

/-- The instruction in flight of such a context goes on; its outcome stands in the image (R249, R284). -/
def State.finishAway (s : State) (tid : Nat) : State := (s.goOn tid).syncImage tid

/-- Instructions in flight of contexts that cannot issue go on. -/
def State.finishThose (s : State) : State :=
  ((s.threads.map Prod.fst).filter s.finishesAway).foldl (fun (s : State) t => s.finishAway t) s

/-- Suspended threads whose wait is over are queued (R337). -/
def State.requeueReady (s : State) : State :=
  (s.threads.filter fun e => e.2.imstate == .suspended && !e.2.queued && (match e.2.park with
    | some p => s.parkOver e.1 p
    | none => true)).foldl (fun s e => s.requeue e.1) s

/-- The turn of the next core: its contexts prepare, and the one whose turn it is issues; after the last core the cycle ends (R63). -/
def State.issueTurn (s : State) : Out State :=
  match s.cores[s.turn]? with
  | none => .next s.tick.retryArrivals.finishThose.requeueReady
  | some (q, _) =>
    let s := { s with turn := s.turn + 1 }.prepareCore q
    match s.issuer q with
    | none => .next s
    | some tid => s.issue tid

end Sys2Proof.Machine
end

