-- ==== Sys2Proof/Machine/Step.lean ====
section
/-! DEFINITION. The step: an event that is due, a message in flight, or the turn of a core; and the placing of an instruction where the
step fetches its next one. -/

namespace Sys2Proof.Machine

/-- What happens next (log 6): what is due happens first; while messages are in flight the environment chooses between a core's turn and a
message (log 3), which arrives in this cycle unless its slice has accepted one of a higher plane in it (R430); else a core has its turn. -/
def State.happen (s : State) : Host.Outcome State Fault Refusal :=
  match s.due with
  | e :: r => deliverEvent e { s with due := r }
  | [] => match s.pending with
    | [] => s.issueTurn
    | _ :: _ =>
      let n := Config.next s.draws % (s.pending.length + 1)
      let s := { s with draws := s.draws + 1 }
      if n = 0 then s.issueTurn
      else
        let k := s.choose (n - 1)
        match s.pending[k]? with
        | none => s.issueTurn
        | some e => if s.tooLate e then s.issueTurn else deliverEvent e ({ s with pending := s.pending.eraseIdx k }.accept e)

/-- One step: what happens next, after which the arenas no longer count as current the lines whose registers it has changed (R380). -/
def step (s : State) : Host.Outcome State Fault Refusal :=
  match s.happen with
  | .next t => .next (t.staleLines s)
  | o => o

/-- The 64 bytes of a line that holds one instruction (R26, R27). -/
def lineOfOne (nbits w : Nat) : List Byte :=
  let tw := nbits - 16
  let tail := bytesOf (tw / 8) (w % 2 ^ tw)
  bytesOf 2 2048 ++ bytesOf 2 (w / 2 ^ tw) ++ List.replicate (60 - tw / 8) 0 ++ tail

/-- The thread whose turn it is made to be: the issuing thread, or where there is none the supervisor's first thread on core 0 (R397
step 6; log 17). -/
def State.nextThread (s : State) : Ctx :=
  match s.threads.find? s.cur with
  | some c => c
  | none => { Ctx.blank with mode := .supervisor, pc := s.svec }

/-- The state with an instruction placed in the line that the next step's context holds, and that context's slot next (log 17). -/
def State.withFetchWord (s : State) (nbits w : Nat) : State :=
  let c := s.nextThread
  let pc := lineAddr c.pc
  let c := { c with imstate := .resident, park := none, halted := false, suspending := false, midway := false, stage := 0,
                    events := [], lastIssue := none, pendc := min c.pendc 31, held := BitVec.allOnes 32, heldCore := c.core, pc := pc, line := some (pc, lineOfOne nbits w) }
  let q := { s.core c.core with released := true, fenced := false, stopped := false, slots := (s.core c.core).slots.set c.slot s.cur }
  let s := (s.setCtx s.cur c).setCore c.core q
  let k := s.cell (cellOf c.core)
  let s := if k.fenced || k.resetUntil.isSome then s.setCell (cellOf c.core) { k with fenced := false, resetUntil := none } else s
  { s with due := [], pending := [], turn := s.cores.findIdx fun e => e.1 == c.core,
           pcyc := s.pcyc + (c.slot + 16 - s.pcyc % 16) % 16 }

end Sys2Proof.Machine
end

