-- ==== Sys2Proof/Safety.lean ====
section
/-! DEFINITION. What counts as a safe step and a safe run: the machine goes on, and neither a fault nor a refusal ends it; and the words in
which statements say how an instruction ends: it completes, it waits, it traps. -/

namespace Sys2Proof

open Sys2Proof.Machine

/-- A step or a meaning answers a next state. -/
def goesOn (o : Out State) : Bool :=
  match o with
  | .next _ => true
  | _ => false

/-- From a state, `n` steps go on. -/
def safeRun : Nat → State → Bool
  | 0, _ => true
  | n + 1, s => match step s with
    | .next t => safeRun n t
    | _ => false

/-- `t` differs from `u` in one thread, which becomes `c`, and in the messages that have been sent, and in nothing else. -/
structure Differs (u t : State) (tid : Nat) (c : Ctx) (es : List Event) : Prop where
  thread : t.ctx tid = c
  others : ∀ k, k ≠ tid → t.ctx k = u.ctx k
  sent : t.pending = u.pending ++ es
  rest : { t with threads := u.threads, pending := u.pending } = u

/-- From `s` the instruction completes: the machine is then as `u`, but that the issuing thread is changed by `f` and moves on to the
next instruction (R31, R37), and that the messages `es` are on their way. -/
def CompletesFrom (i : Instr) (s u : State) (f : Ctx → Ctx) (es : List Event) : Prop :=
  ∃ t, exec i s = .next t ∧ Differs u t u.cur (f (u.ctx u.cur)).advance es

/-- The instruction completes; it changes nothing but the issuing thread, by `f`. -/
def Completes (i : Instr) (s : State) (f : Ctx → Ctx) : Prop := CompletesFrom i s s f []

/-- The instruction completes; it changes the issuing thread by `f`, and sends the messages `es`. -/
def Sends (i : Instr) (s : State) (f : Ctx → Ctx) (es : List Event) : Prop := CompletesFrom i s s f es

/-- A long instruction completes at issue, with its result on the way to a scalar register (R65, R66). -/
def CompletesLong (i : Instr) (s u : State) (a : R5) (w : Word) : Prop :=
  CompletesFrom i s u (·.pendX a) [.longResultArrival (Reply.of u.cur [.x a w none] false)]

/-- From `s` the instruction waits: the machine is then as `u`, but that the issuing thread is parked for `p` at a stage of its
instruction, and that the messages `es` are on their way. -/
def WaitsFrom (i : Instr) (s u : State) (p : Park) (stage : Nat) (es : List Event) : Prop :=
  ∃ t, exec i s = .next t ∧
    Differs u t u.cur { u.ctx u.cur with park := some p, parkSince := none, midway := true, stage := stage } es

/-- The instruction raises a precise trap (R7, R371 to R374). -/
def Traps (i : Instr) (s : State) (t : Trap) : Prop := exec i s = .next (s.trap s.cur t)

/-- Nothing is on its way: no message, no event that is due or timed, nothing waiting at the bridge or at a page operation; and the issuing
thread waits for no result, acknowledgement or contribution. -/
def AtRest (s : State) : Prop :=
  s.pending = [] ∧ s.due = [] ∧ s.timers = [] ∧ s.bridgeWait = [] ∧ (∀ d ∈ s.dies, d.2.pages = []) ∧ s.me.settled = true

/-- The part of a thread that no completed instruction touches but by its own effect: everything but the PC, the line it holds, and the
progress of the instruction in issue. -/
def Ctx.kept (c : Ctx) : Ctx :=
  { c with pc := 0, line := none, park := none, parkSince := none, stallSince := none, midway := false, stage := 0, awaits := 0,
           buf := [], bufBad := [], passed := [], keyReq := none, telReq := none, force := none, sw := false }

/-- The force that the issuing thread's instruction asked for has ended without a fault, and gave these elements (R257, R260). -/
def Forced (s : State) (g : List Nat) : Prop :=
  ∃ f, s.me.force = some f ∧ f.done = true ∧ f.fault = none ∧ g = match f.root with
    | .entry i => f.vals.get i []
    | .ref r => f.read.get r.id []

/-- The instruction begins a force of a rectangle of a base (R260): the thread parks at a stage, and the force's first step is on its way. -/
def Forces (i : Instr) (s u : State) (stage handle : Nat) (root : Base) (q : Rect) : Prop :=
  exec i s = .next (((u.setMe { u.me with force := some (u.me.newForce handle root q) }).parkStage stage).post (.forceNodeStep u.cur))

/-- The issuing thread asks a Mint, and parks for its answer at a stage (R239): a home of this device, by a message. -/
def AsksMint (i : Instr) (s u : State) (stage : Nat) (q : KeyReq) (e : Event) : Prop :=
  exec i s = .next (((u.parkStage stage).setMe { (u.parkStage stage).me with keyReq := some q }).post e)

/-! ## Accesses, as the fields of an instruction give them -/

/-- What a load or store asks (R104, R106, R107): bytes of a lane, whether it moves a vector, `.NA` or `.WT`, whether a scalar load extends
the sign, its register, and its active lanes. -/
structure Access where
  w : Nat
  vector : Bool
  hint : Bool
  signed : Bool
  reg : R5
  lanes : List LaneAcc
  deriving DecidableEq, Repr

/-- Where the results of an access go. -/
def Access.dst (q : Access) : Dst := if q.vector then .v q.reg q.w else .x q.reg q.w q.signed

/-- The pending bit that a long result of the access sets (R66). -/
def Access.pend (q : Access) (c : Ctx) : Ctx := if q.vector then c.pendV q.reg else c.pendX q.reg

/-- The active lanes of a vector access: lane `i` of `w` bytes at a displacement. -/
def activeLanes (c : Ctx) (a b : R5) (w : Nat) (on : Nat → Bool) (disp : Nat → Int) : List LaneAcc :=
  (List.range (64 / w)).filterMap fun i =>
    if on i then some ⟨i, c.xr b, disp i, ((c.vr a).extractLsb' (8 * w * i) (8 * w)).toNat⟩ else none

/-- Bytes of the size codes of R104, and of the lane-width codes of R106. -/
def sizeOf104 (f : F6) : Nat := [8, 1, 2, 4].getD (f.toNat % 4) 0
/-- Lane bytes of LDV and STV. -/
def laneOf106 (f : F6) : Nat := [4, 2, 1, 8].getD (f.toNat % 4) 0
/-- Lane bytes of LDG and STS. -/
def laneOf107 (f : F6) : Nat := if f.getLsbD 0 then 8 else 4

/-- The access of LD, LDV and LDG (`store` false) or of ST, STV and STS (`store` true) by a thread. -/
def accessOf (store : Bool) (c : Ctx) (i : Instr) : Option Access :=
  let scalar (f : F6) (a : R5) (m : MemOp) : Access :=
    let n := sizeOf104 f
    ⟨n, false, f.getLsbD 3, !store && f.getLsbD 2, a,
      [⟨0, c.xr m.b, m.disp.toInt, if store then (c.xr a).toNat % 2 ^ (8 * n) else (c.xr a).toNat⟩]⟩
  let vector (f : F6) (a : R5) (m : MemOp) (k : R5) : Access :=
    let w := laneOf106 f
    ⟨w, true, f.getLsbD 3, false, a, activeLanes c a m.b w (fun i => !f.getLsbD 2 || (c.kr k).getLsbD i) fun i => m.disp.toInt + i * w⟩
  let gather (f : F6) (a b o k : R5) : Access :=
    let w := laneOf107 f
    ⟨w, true, f.getLsbD 3, false, a, activeLanes c a b w (fun i => !f.getLsbD 4 || (c.kr k).getLsbD i)
      fun i => ((c.vr o).extractLsb' (8 * w * i) (8 * w)).toInt * 2 ^ (f.toNat / 2 % 4)⟩
  match i with
  | .ld f a m => if store then none else some (scalar f a m)
  | .ldv f a m k => if store then none else some (vector f a m k)
  | .ldg f a b o k => if store then none else some (gather f a b o k)
  | .st f a m => if store then some (scalar f a m) else none
  | .stv f a m k => if store then some (vector f a m k) else none
  | .sts f a b o k => if store then some (gather f a b o k) else none
  | _ => none

/-- A short lane-wise instruction completes (R188, R189, R202, R204): v[`A`] becomes a vector whose active lanes, of `w` bits, are the elements
given, whose inactive lanes are kept, or zero under zeroing; `NFS` and `SATS` are set when an active element sets them; `SRCTR` steps for
`e` draws where the mode `m` draws; nothing else changes. -/
def CompletesLanes (i : Instr) (s : State) (w : Nat) (a : R5) (mk : Option MaskOp) (m e : Nat) (f : Nat → Elem) : Prop :=
  let n := 512 / w
  let on (k : Nat) : Bool := match mk with
    | none => true
    | some x => (s.me.kr x.d).getLsbD k
  let any (p : Elem → Bool) : Bool := (List.range n).any fun k => on k && p (f k)
  ∃ v : Vec, Completes i s (fun x => ((x.setV a v).raise (any Elem.nf) (any Elem.sat)).stepSr m e) ∧
    ∀ k, k < n → (v.extractLsb' (w * k) w).toNat =
      if on k then (f k).bits % 2 ^ w else if mk.any MaskOp.zero then 0 else ((s.me.vr a).extractLsb' (w * k) w).toNat

/-- The same where every lane is a bit pattern that sets no flag, the lanes being those of the integer codes of R200. -/
def CompletesBits (i : Instr) (s : State) (w : Nat) (a : R5) (mk : Option MaskOp) (f : Nat → BitVec w) : Prop :=
  CompletesLanes i s w a mk 0 0 fun k => { bits := (f k).toNat }

/-- Base and displacement name a run of `n` bytes, at the byte `u` of the machine's memory, of a scratchpad of the issuing thread's sector,
and every check of the address phase passes (R89, R90, R93, R94, R98). -/
structure NearPool (s : State) (base : Word) (disp : Int) (n u : Nat) : Prop where
  form : base.getLsbD 63 = true ∧ base.extractLsb' 30 32 = 0
  core : ∃ p, poolAddr base s.me.core = some p ∧ (u : Int) = poolBase p.pkgCore + p.off + disp ∧ 0 ≤ p.off + disp ∧ p.off + disp < 2 ^ 17
  sector : sectorOf (cellOf (poolCore u)) = sectorOf (cellOf s.me.core)
  aligned : u % n = 0
  pad : ∃ r e, (s.core (poolCore u)).split = some (r, e) ∧ r ≤ u % 2 ^ 17 ∧ u % 2 ^ 17 + n ≤ e
  space : (s.core (poolCore u)).padAsid = some s.me.asid
  free : (s.cell (cellOf (poolCore u))).locks = []
  plain : s.regionsFor s.me.core s.me.asid = []

end Sys2Proof
end

