-- ==== Sys2Proof/Certificates/Slice0/Obligations.lean ====
section
/-! DEFINITION. The statements for the provers. Each says in its docstring which rules of spec/ it formalises; the words `Completes`,
`Sends`, `CompletesFrom`, `CompletesLong`, `WaitsFrom`, `Traps` and `Differs` are those of Sys2Proof/Safety.lean: what they do not name
is unchanged. -/

open Sys2Proof Sys2Proof.Machine

/-! ## Scalar, predicate and control (04_scalar.md) -/

/-- R72: ADD, SUB and MUL write the low bits of the exact result; the `.W` forms the low 32, sign-extended. No flag changes. -/
def Claims.AddSubMulWrap : Prop :=
  ∀ (s : State) (a b : R5) (o : Op2),
    let x := s.me.xr b
    let y := s.me.op2 o
    let lo (v : Word) : BitVec 32 := v.setWidth 32
    Completes (.add 0 a b o) s (·.setX a (x + y)) ∧ Completes (.add 1 a b o) s (·.setX a ((lo x + lo y).signExtend 64)) ∧
    Completes (.sub 0 a b o) s (·.setX a (x - y)) ∧ Completes (.sub 1 a b o) s (·.setX a ((lo x - lo y).signExtend 64)) ∧
    Completes (.mul 0 a b o) s (·.setX a (x * y)) ∧ Completes (.mul 1 a b o) s (·.setX a ((lo x * lo y).signExtend 64))

/-- R72: the saturating forms of ADD and SUB clamp the exact result to the signed range, and set `SATS` when they did. -/
def Claims.AddSubSaturate : Prop :=
  ∀ (s : State) (a b : R5) (o : Op2),
    let x := s.me.xr b
    let y := s.me.op2 o
    let lo (v : Word) : BitVec 32 := v.setWidth 32
    let clamp (w : Nat) (v : Int) : Int := max (-(2 ^ (w - 1))) (min (2 ^ (w - 1) - 1) v)
    let beyond (w : Nat) (v : Int) : Bool := decide (v > 2 ^ (w - 1) - 1 ∨ v < -(2 ^ (w - 1)))
    let put (w : Nat) (v : Int) (c : Ctx) : Ctx := (c.setX a (BitVec.ofInt 64 (clamp w v))).setSats (beyond w v)
    Completes (.add 4 a b o) s (put 64 (x.toInt + y.toInt)) ∧ Completes (.sub 4 a b o) s (put 64 (x.toInt - y.toInt)) ∧
    Completes (.add 5 a b o) s (put 32 ((lo x).toInt + (lo y).toInt)) ∧
    Completes (.sub 5 a b o) s (put 32 ((lo x).toInt - (lo y).toInt))

/-- R72, R73: MULH writes the high half of the double-width product; DIV truncates, a divisor of 0 gives 0 and the overflow case
−2^(w−1); REM has the dividend's sign, and a divisor of 0 gives the dividend. -/
def Claims.MulhDivRem : Prop :=
  ∀ (s : State) (a b : R5) (o : Op2),
    let x := s.me.xr b
    let y := s.me.op2 o
    let lo (v : Word) : BitVec 32 := v.setWidth 32
    let w (v : Word) (c : Ctx) : Ctx := c.setX a v
    let h (v : BitVec 32) (c : Ctx) : Ctx := c.setX a (v.signExtend 64)
    Completes (.mulh 0 a b o) s (w (BitVec.ofInt 64 (x.toInt * y.toInt / 2 ^ 64))) ∧
    Completes (.mulh 1 a b o) s (h (BitVec.ofInt 32 ((lo x).toInt * (lo y).toInt / 2 ^ 32))) ∧
    Completes (.mulh 2 a b o) s (w (BitVec.ofNat 64 (x.toNat * y.toNat / 2 ^ 64))) ∧
    Completes (.mulh 3 a b o) s (h (BitVec.ofNat 32 ((lo x).toNat * (lo y).toNat / 2 ^ 32))) ∧
    Completes (.div 0 a b o) s (w (x.sdiv y)) ∧ Completes (.div 1 a b o) s (h ((lo x).sdiv (lo y))) ∧
    Completes (.div 2 a b o) s (w (x / y)) ∧ Completes (.div 3 a b o) s (h (lo x / lo y)) ∧
    Completes (.rem 0 a b o) s (w (x.srem y)) ∧ Completes (.rem 1 a b o) s (h ((lo x).srem (lo y))) ∧
    Completes (.rem 2 a b o) s (w (x % y)) ∧ Completes (.rem 3 a b o) s (h (lo x % lo y))

/-- R72, R74: the logical operations, MIN and MAX, and the shifts by the whole of the second operand, unsigned, in the `.W` forms too. -/
def Claims.LogicShiftMinMax : Prop :=
  ∀ (s : State) (a b : R5) (o : Op2),
    let x := s.me.xr b
    let y := s.me.op2 o
    let lo (v : Word) : BitVec 32 := v.setWidth 32
    let w (v : Word) (c : Ctx) : Ctx := c.setX a v
    let h (v : BitVec 32) (c : Ctx) : Ctx := c.setX a (v.signExtend 64)
    Completes (.and 0 a b o) s (w (x &&& y)) ∧ Completes (.and 1 a b o) s (h (lo x &&& lo y)) ∧
    Completes (.or 0 a b o) s (w (x ||| y)) ∧ Completes (.or 1 a b o) s (h (lo x ||| lo y)) ∧
    Completes (.xor 0 a b o) s (w (x ^^^ y)) ∧ Completes (.xor 1 a b o) s (h (lo x ^^^ lo y)) ∧
    Completes (.andn 0 a b o) s (w (x &&& ~~~y)) ∧ Completes (.andn 1 a b o) s (h (lo x &&& ~~~(lo y))) ∧
    Completes (.shl 0 a b o) s (w (x <<< y)) ∧ Completes (.shl 1 a b o) s (h (lo x <<< y)) ∧
    Completes (.shr 0 a b o) s (w (x >>> y)) ∧ Completes (.shr 1 a b o) s (h (lo x >>> y)) ∧
    Completes (.sar 0 a b o) s (w (x.sshiftRight y.toNat)) ∧ Completes (.sar 1 a b o) s (h ((lo x).sshiftRight y.toNat)) ∧
    Completes (.rol 0 a b o) s (w (x.rotateLeft y.toNat)) ∧ Completes (.rol 1 a b o) s (h ((lo x).rotateLeft y.toNat)) ∧
    Completes (.min 0 a b o) s (w (if x.slt y then x else y)) ∧ Completes (.min 1 a b o) s (h (if (lo x).slt (lo y) then lo x else lo y)) ∧
    Completes (.min 2 a b o) s (w (if x.ult y then x else y)) ∧ Completes (.min 3 a b o) s (h (if (lo x).ult (lo y) then lo x else lo y)) ∧
    Completes (.max 0 a b o) s (w (if x.slt y then y else x)) ∧ Completes (.max 1 a b o) s (h (if (lo x).slt (lo y) then lo y else lo x)) ∧
    Completes (.max 2 a b o) s (w (if x.ult y then y else x)) ∧ Completes (.max 3 a b o) s (h (if (lo x).ult (lo y) then lo y else lo x))

/-- `Claims.AddSubMulWrap`; `Claims.AddSubSaturate`; `Claims.MulhDivRem`; `Claims.LogicShiftMinMax` together. Each of these forms completes, at issue
or with the answer that its clause names, under conditions on the state and the operands alone: `add`, `sub`, `mul`, `mulh`, `div`, `rem`, `and`,
`or`, `xor`, `andn`, `shl`, `shr`, `sar`, `rol`, `min`, `max`. -/
def Obligations.IntegerArithmetic : Prop := Claims.AddSubMulWrap ∧ Claims.AddSubSaturate ∧ Claims.MulhDivRem ∧ Claims.LogicShiftMinMax

/-- R75: BCNT counts one bits, leading zeros or trailing zeros; BREV reverses bits or bytes. -/
def Claims.BitCounts : Prop :=
  ∀ (s : State) (a b : R5),
    let x := s.me.xr b
    let count (n : Nat) (c : Ctx) : Ctx := c.setX a (BitVec.ofNat 64 n)
    Completes (.bcnt 0 a b) s (count ((List.range 64).filter x.getLsbD).length) ∧
    Completes (.bcnt 1 a b) s (count ((List.range 64).takeWhile fun i => !x.getLsbD (63 - i)).length) ∧
    Completes (.bcnt 2 a b) s (count ((List.range 64).takeWhile fun i => !x.getLsbD i).length) ∧
    (∀ f : F6, f = 0 ∨ f = 1 → ∃ v : Word, Completes (.brev f a b) s (·.setX a v) ∧
      ∀ i, i < 64 → v.getLsbD i = x.getLsbD (if f = 0 then 63 - i else 8 * (7 - i / 8) + i % 8))

/-- R76, R77: FEXT, FEXT.S and FINS take the position from bits [5:0] and the length from bits [13:8] of their control, 0 standing for 64;
SEXT extends the low 8, 16 or 32 bits. -/
def Claims.FieldsAndExtension : Prop :=
  ∀ (s : State) (a b : R5) (o : Op2),
    let x := s.me.xr b
    let ctl := s.me.op2U o
    let p := (ctl.setWidth 6).toNat
    let n := if ctl.extractLsb' 8 6 = 0 then 64 else (ctl.extractLsb' 8 6).toNat
    let m : Word := BitVec.ofNat 64 (2 ^ n - 1)
    Completes (.fext 0 a b o) s (·.setX a ((x >>> p) &&& m)) ∧
    Completes (.fext 1 a b o) s (·.setX a (((x >>> p) <<< (64 - n)).sshiftRight (64 - n))) ∧
    Completes (.fins a b o) s (fun c => c.setX a ((c.xr a &&& ~~~(m <<< p)) ||| ((x <<< p) &&& (m <<< p)))) ∧
    Completes (.sext 0 a b) s (·.setX a ((x.setWidth 8).signExtend 64)) ∧ Completes (.sext 1 a b) s (·.setX a ((x.setWidth 16).signExtend 64)) ∧
    Completes (.sext 2 a b) s (·.setX a ((x.setWidth 32).signExtend 64)) ∧ Completes (.sext 4 a b) s (·.setX a ((x.setWidth 8).setWidth 64)) ∧
    Completes (.sext 5 a b) s (·.setX a ((x.setWidth 16).setWidth 64)) ∧ Completes (.sext 6 a b) s (·.setX a ((x.setWidth 32).setWidth 64))

/-- `Claims.BitCounts`; `Claims.FieldsAndExtension` together. Each of these forms completes, at issue or with the answer that its clause names, under
conditions on the state and the operands alone: `bcnt`, `brev`, `fext`, `fins`, `sext`. -/
def Obligations.BitsAndFields : Prop := Claims.BitCounts ∧ Claims.FieldsAndExtension

/-- R41, R78 to R83: NOP; LI and its forms; SEL by a predicate; LEA; CMP's conditions; PLOG by a truth table; PMOV and its forms, of
which PMOV.SP leaves p0, `REV` and bits [31:23], and reads a mode above 4 as 0. -/
def Claims.MovesAndPredicates : Prop :=
  ∀ (s : State) (f : F6) (a b d : R5) (o : Op2) (imm : BitVec 32),
    let c := s.me
    let x := c.xr b
    let y := c.op2 o
    let lo (v : Word) : BitVec 32 := v.setWidth 32
    let p (k : F6) (v : Bool) : Prop := Completes (.cmp k a b o) s (·.setP a.toNat v)
    Completes .nop s id ∧
    Completes (.li 0 a imm) s (·.setX a (imm.signExtend 64)) ∧ Completes (.li 1 a imm) s (·.setX a (imm.setWidth 64)) ∧
    Completes (.li 2 a imm) s (fun c => c.setX a (imm ++ (c.xr a).setWidth 32)) ∧
    (f.toNat < 32 → Completes (.sel f a b d) s (·.setX a (if c.pr (f.toNat % 16) != f.getLsbD 4 then x else c.xr d))) ∧
    (f.toNat < 5 → Completes (.lea f a b o) s (·.setX a (x + y <<< f.toNat))) ∧
    p 0 (x == y) ∧ p 1 (x != y) ∧ p 2 (x.slt y) ∧ p 3 (y.sle x) ∧ p 4 (x.ult y) ∧ p 5 (y.ule x) ∧ p 6 (y.slt x) ∧ p 7 (x.sle y) ∧
    p 8 (y.ult x) ∧ p 9 (x.ule y) ∧ p 10 (x &&& y != 0) ∧ p 11 (x &&& y == 0) ∧
    p 16 (lo x == lo y) ∧ p 17 (lo x != lo y) ∧ p 18 ((lo x).slt (lo y)) ∧ p 19 ((lo y).sle (lo x)) ∧ p 20 ((lo x).ult (lo y)) ∧
    p 21 ((lo y).ule (lo x)) ∧ p 22 ((lo y).slt (lo x)) ∧ p 23 ((lo x).sle (lo y)) ∧ p 24 ((lo y).ult (lo x)) ∧
    p 25 ((lo x).ule (lo y)) ∧ p 26 (lo x &&& lo y != 0) ∧ p 27 (lo x &&& lo y == 0) ∧
    (f.toNat < 16 → Completes (.plog f a b d) s
      (·.setP a.toNat (f.toNat.testBit ((if c.pr b.toNat then 2 else 0) + (if c.pr d.toNat then 1 else 0))))) ∧
    Completes (.pmov a b) s (·.setX a (if c.pr b.toNat then 1 else 0)) ∧ Completes (.pmovP a b) s (·.setP a.toNat (x != 0)) ∧
    Completes (.pmovGp a) s (·.setX a (c.pred.setWidth 64)) ∧
    (∃ w : BitVec 32, Completes (.pmovSp b) s (fun c => { c with pred := w }) ∧ ∀ i, i < 32 → w.getLsbD i =
      (if i = 0 ∨ i = 17 ∨ 23 ≤ i then c.pred.getLsbD i
       else if 20 ≤ i then x.getLsbD i && decide ((x.extractLsb' 20 3).toNat ≤ 4) else x.getLsbD i))

/-- R31, R39, R84: the control transfers read their sources before they write a link or a counter; a branch that is not taken goes on at
the next instruction. -/
def Claims.ControlTransfers : Prop :=
  ∀ (s : State) (a b : R5) (t : Target),
    let c := s.me
    let goes (i : Instr) (f : Ctx → Ctx) (pc : Word) : Prop := ∃ u, exec i s = .next u ∧ Differs s u s.cur ((f c).jump pc) []
    let target : Word := ((c.pc >>> 6) + t.disp.signExtend 64) <<< 6 ||| t.slot.setWidth 64
    (if c.pr (a.toNat % 16) != a.getLsbD 4 then goes (.br a t) id target else Completes (.br a t) s id) ∧
    goes (.jmp t) id target ∧ goes (.call a t) (·.setX a c.nextPc) target ∧ goes (.jr a b) (·.setX a c.nextPc) (c.xr b) ∧
    (if a = 0 ∨ c.xr a - 1 ≠ 0 then goes (.loop a t) (·.setX a (c.xr a - 1)) target
      else Completes (.loop a t) s (·.setX a (c.xr a - 1)))

/-- `Claims.MovesAndPredicates`; `Claims.ControlTransfers` together. Each of these forms completes, at issue or with the answer that its clause names,
under conditions on the state and the operands alone: `nop`, `li`, `sel`, `lea`, `cmp`, `plog`, `pmov`, `pmovP`, `pmovGp`, `pmovSp`, `br`, `jmp`,
`call`, `jr`, `loop`. -/
def Obligations.MovesComparesAndJumps : Prop := Claims.MovesAndPredicates ∧ Claims.ControlTransfers

/-- R69, R70, R329, log 32: what GETC reads of each user control register, and what PUTC writes: only the bits that the table names. That `PBREG` and `PBPAD`
read 0 on a core whose pool has no split is the model's choice (log 32). -/
def Claims.ControlRegisters : Prop :=
  ∀ (s : State) (a b : R5),
    let c := s.me
    let q := s.core c.core
    let cell := c.core / 8
    let g (n : BitVec 12) (v : Word) : Prop := Completes (.getc a n) s (·.setX a v)
    let p (n : BitVec 12) (f : Word → Ctx → Ctx) : Prop := Completes (.putc b n) s (f (c.xr b))
    let up (w : Word) : Word := w.extractLsb' 4 60 ++ 0#4
    g 0x000 (BitVec.ofNat 64 (s.pcyc - q.cycle0)) ∧ g 0x001 (BitVec.ofNat 64 (s.pcyc * 10 / 33)) ∧ g 0x002 c.thid ∧
    g 0x003 (BitVec.ofNat 64 (c.slot % 16 + 2 ^ 4 * (c.core % 8) + 2 ^ 7 * (cell % 32) + 2 ^ 12 * (cell / 32) +
      2 ^ 17 * (2 * (cell / 32 / 16) + cell % 32 / 16))) ∧
    (∀ r, s.rcbWord? c.rcb.toNat c.asid 17 = some r →
      let y0 := r % 32
      let x0 := r / 2 ^ 5 % 32
      let h := r / 2 ^ 10 % 32 + 1
      let w := r / 2 ^ 15 % 32 + 1
      g 0x004 (if y0 ≤ cell / 32 ∧ cell / 32 < y0 + h ∧ x0 ≤ cell % 32 ∧ cell % 32 < x0 + w
        then BitVec.ofNat 64 (((cell / 32 - y0) * w + (cell % 32 - x0)) * 8 + c.core % 8) else BitVec.allOnes 64)) ∧
    g 0x005 c.rcb ∧ g 0x008 (c.evid.setWidth 64) ∧ g 0x009 c.evpc ∧ g 0x00A c.uehnd ∧ g 0x010 c.srkey ∧ g 0x011 c.srctr ∧
    g 0x018 c.tapeb ∧ g 0x019 c.tapel ∧ g 0x01A c.tapep ∧ g 0x020 c.thpc ∧ g 0x021 c.thcause ∧
    g 0x028 (BitVec.ofNat 64 ((q.split.map Prod.fst).getD 0)) ∧ g 0x029 (BitVec.ofNat 64 ((q.split.map Prod.snd).getD 0)) ∧
    g 0x02A 131072 ∧ g 0x030 (BitVec.ofNat 64 c.pendc) ∧ g 0x031 (BitVec.ofNat 64 c.ackc) ∧ g 0x038 c.fltpc ∧ g 0x039 c.fltaddr ∧
    g 0x03A (c.fltcode.setWidth 64) ∧ g 0x03B c.uthnd ∧
    p 0x008 (fun w c => { c with evid := w.setWidth 16 }) ∧ p 0x009 (fun w c => { c with evpc := w }) ∧
    p 0x00A (fun w c => { c with uehnd := w }) ∧ p 0x010 (fun w c => { c with srkey := w }) ∧ p 0x011 (fun w c => { c with srctr := w }) ∧
    p 0x018 (fun w c => { c with tapeb := up w }) ∧ p 0x019 (fun w c => { c with tapel := up w }) ∧
    p 0x01A (fun w c => { c with tapep := up w }) ∧ p 0x038 (fun w c => { c with fltpc := w }) ∧ p 0x039 (fun w c => { c with fltaddr := w }) ∧
    p 0x03A (fun w c => { c with fltcode := w.setWidth 32 }) ∧ p 0x03B (fun w c => { c with uthnd := w })

/-- R86: PADDR.H gives the own pool's absolute address; PADDR and PADDR.R advance the offset of a pool address, relative coordinates
resolving modulo 32; what is no pool address raises `ADDR_SPACE` with x[`B`] in `FLTADDR`. -/
def Claims.PoolAddresses : Prop :=
  ∀ (s : State) (f : F6) (a b : R5) (o : Op2),
    let c := s.me
    let n := (c.xr b).toNat
    let y := c.core / 8 / 32
    let x := c.core / 8 % 32
    let off (k : Nat) : Nat := (k + (c.op2 o).toNat) % 2 ^ 17
    let abs (y x k o : Nat) : Word := BitVec.ofNat 64 (2 ^ 63 + y * 2 ^ 25 + x * 2 ^ 20 + k * 2 ^ 17 + o)
    let rel (y' x' k o : Nat) : Word :=
      BitVec.ofNat 64 (3 * 2 ^ 62 + (y' + 32 - y) % 32 * 2 ^ 25 + (x' + 32 - x) % 32 * 2 ^ 20 + k * 2 ^ 17 + o)
    c.core < 8192 →
    Completes (.paddr 2 a b o) s (·.setX a (abs y x (c.core % 8) (off n))) ∧
    (f = 0 ∨ f = 1 →
      if n < 2 ^ 63 ∨ n / 2 ^ 30 % 2 ^ 32 ≠ 0 then Traps (.paddr f a b o) s ⟨0x07, 0, 0, c.xr b⟩
      else
        let y' := if n / 2 ^ 62 = 3 then (y + n / 2 ^ 25) % 32 else n / 2 ^ 25 % 32
        let x' := if n / 2 ^ 62 = 3 then (x + n / 2 ^ 20) % 32 else n / 2 ^ 20 % 32
        let k := n / 2 ^ 17 % 8
        Completes (.paddr f a b o) s (·.setX a (if f = 1 then rel y' x' k (off (n % 2 ^ 17)) else abs y' x' k (off (n % 2 ^ 17)))))

/-- `Claims.ControlRegisters`; `Claims.PoolAddresses` together. Each of these forms completes, at issue or with the answer that its clause names,
under conditions on the state and the operands alone: `getc`, `putc`, `paddr`. -/
def Obligations.ControlRegistersAndPoolAddresses : Prop := Claims.ControlRegisters ∧ Claims.PoolAddresses

/-! ## Word memory and pools (05_word_memory.md) -/

/-- R66, R98, R104 to R107: a forward LD, LDV or LDG whose lanes all pass the address phase completes: its destination is pending, and the
request goes out with what the pool cache holds of its lanes bound, each line so used being the core's most recently used (R96); a load of
another device's memory waits parked (R415). -/
def Claims.LoadsComplete : Prop :=
  ∀ (s : State) (f : F6) (a b o k : R5) (m : MemOp) (i : Instr) (q : Access) (ps : List LaneOk),
    i = .ld f a m ∨ i = .ldv f a m k ∨ i = .ldg f a b o k →
    accessOf false s.me i = some q → s.me.rev = false → s.placeLanes s.me false q.w q.lanes = .ok ps →
    let t := s.settleLanes s.me false ps
    let core := t.me.core
    let bound := ps.map fun l => t.bindCached core l.place.lane
    let req (parked : Bool) : MemReq := ⟨t.src, bound, q.dst, q.hint || t.cacheSets core == 0, parked⟩
    let u := ((bound.filter fun l => l.kmask != 0).map laneTag).dedup.foldl (fun s k => s.touchLine core k) t
    exec i s = .next (if ps.any (fun l => match l.place.target with | .remote _ => true | _ => false)
      then (u.parkMe .reply).routeLoad (req true) true else (u.finish q.pend).routeLoad (req false) true)

/-- R95, R105: a forward LD of a scratchpad of its sector returns the little-endian value of the bytes there, extended as the form says; a
word that carries an uncorrectable-error mark poisons the register (R101); where the owner's core is fenced or under reset, the answer is 0
(R389, R390). Nothing else changes, memory included. -/
def Claims.PoolLoadReturnsBytes : Prop :=
  ∀ (s : State) (f : F6) (a : R5) (m : MemOp) (u : Nat),
    f.toNat < 16 → s.me.rev = false →
    let n := sizeOf104 f
    NearPool s (s.me.xr m.b) m.disp.toInt n u →
    let gone := s.coreGone (poolCore u)
    let v := if gone then 0 else s.read u n
    let w : Word := if f.getLsbD 2 then (if n = 1 then (BitVec.ofNat 8 v).signExtend 64 else if n = 2 then (BitVec.ofNat 16 v).signExtend 64
      else if n = 4 then (BitVec.ofNat 32 v).signExtend 64 else BitVec.ofNat 64 v) else BitVec.ofNat 64 v
    ∃ va, Sends (.ld f a m) s (·.pendX a)
      [.longResultArrival (Reply.of s.cur [.x a w (if !gone && s.poisonAt u n then some va else none)] false)]

/-- `Claims.LoadsComplete`; `Claims.PoolLoadReturnsBytes` together. Each of these forms completes, at issue or with the answer that its clause names,
under conditions on the state and the operands alone: `ld`, `ldv`, `ldg`. -/
def Obligations.Loads : Prop := Claims.LoadsComplete ∧ Claims.PoolLoadReturnsBytes

/-- R97, R98, R104 to R107: a forward ST, STV or STS whose lanes all pass the address phase and lie in no differentiable region completes:
each lane in ascending order is written into the pool cache, or is on its way as a store, and the context goes on. -/
def Claims.StoresComplete : Prop :=
  ∀ (s : State) (f : F6) (a b o k : R5) (m : MemOp) (i : Instr) (q : Access) (ps : List LaneOk),
    i = .st f a m ∨ i = .stv f a m k ∨ i = .sts f a b o k →
    accessOf true s.me i = some q → s.me.rev = false → s.me.dataPoison (if q.vector then q.dst else .x q.reg 4 false) = none →
    s.placeLanes s.me true q.w q.lanes = .ok ps → (∀ l ∈ ps, l.adj = none) →
    let t := s.settleLanes s.me true ps
    let u := t.storeLanes t.src s.me.slot q.hint (ps.map fun l => (l.place.lane, l.val))
    exec i s = .next u.done ∧ CompletesFrom i s u id []

/-- R93, R95, R105 to R107: a forward ST, STV or STS whose active lanes all lie in scratchpads of its sector completes, and sends to the
banks each lane's value, in ascending order; nothing else changes. -/
def Claims.PoolStoresAreSent : Prop :=
  ∀ (s : State) (f : F6) (a b o k : R5) (m : MemOp),
    let sent (i : Instr) : Prop := ∀ (q : Access) (p : PoolAddr),
      accessOf true s.me i = some q → s.me.rev = false → s.me.dataPoison (if q.vector then q.dst else .x q.reg 4 false) = none →
      let off (l : LaneAcc) : Nat := (p.off + l.disp).toNat
      (∀ l ∈ q.lanes, poolAddr l.base s.me.core = some p ∧ NearPool s l.base l.disp q.w (poolBase p.pkgCore + off l)) →
      Sends i s id (q.lanes.map fun l => .poolBankAccess ⟨s.src, [⟨poolBase p.pkgCore + off l, ({ p with off := off l }).absolute.toNat, q.w,
        l.idx, 0, 0, 0, 0, false⟩], .none, true, false⟩ (.store [l.val] false))
    sent (.st f a m) ∧ sent (.stv f a m k) ∧ sent (.sts f a b o k)

/-- R2, R93, R97, R101: a store that reaches a bank of the sector writes the low bytes of its value there, and every other byte of memory keeps
its value; of the rest of the machine only the marks of words change. -/
def Claims.PoolStoreWritesBytes : Prop :=
  ∀ (s : State) (src : Src) (l : Lane) (v : Nat),
    nearLane src l = true → s.coreGone (poolCore l.pa) = false →
    ∃ t : State, exec (.poolBankAccess ⟨src, [l], .none, true, false⟩ (.store [v] false)) s = .next t ∧
      (∀ k, k < l.n → t.byte (l.pa + k) = (BitVec.ofNat (8 * l.n) v).extractLsb' (8 * k) 8) ∧
      (∀ k, k < l.pa ∨ l.pa + l.n ≤ k → t.byte k = s.byte k) ∧ { t with mem := s.mem, poisoned := s.poisoned } = s

/-- R96, R97, R105 to R107: what any forward store that pushes nothing leaves of memory: where no `A` or `D` bit has to be set, every byte
reads as before while the stores are on their way or in the pool cache; and one that reaches a bank changes no byte outside its lanes. -/
def Claims.StoreFrame : Prop :=
  (∀ (s t : State) (i : Instr) (q : Access) (ps : List LaneOk),
    accessOf true s.me i = some q → s.me.rev = false → s.placeLanes s.me true q.w q.lanes = .ok ps → (∀ l ∈ ps, l.adj = none) →
    (∀ l ∈ ps, ∀ e, l.place.leaf = some e → e.word.getLsbD 13 && e.word.getLsbD 12) →
    exec i s = .next t → ∀ k, t.byte k = s.byte k) ∧
  ∀ (s t : State) (q : MemReq) (vals : List Nat) (counted : Bool),
    exec (.poolBankAccess q (.store vals counted)) s = .next t →
    ∀ k, (∀ l ∈ q.lanes, k < l.pa ∨ l.pa + l.n ≤ k) → t.byte k = s.byte k

/-- `Claims.StoresComplete`; `Claims.PoolStoresAreSent`; `Claims.PoolStoreWritesBytes`; `Claims.StoreFrame` together. Each of these forms completes,
at issue or with the answer that its clause names, under conditions on the state and the operands alone: `st`, `stv`, `sts`, `poolBankAccess`. -/
def Obligations.Stores : Prop := Claims.StoresComplete ∧ Claims.PoolStoresAreSent ∧ Claims.PoolStoreWritesBytes ∧ Claims.StoreFrame

/-- R89, R90, R93, R98, R100: the traps of the space and alignment checks, for LD and, with the same address, for ST: a reserved space, bits
that must be zero, a sum out of range, an access that is not aligned, one outside the owner's scratchpad (below `PBREG`, above `PBPAD`, or
where the owner has no split), and one of another space than the scratchpad's. -/
def Claims.AddressSpaceTraps : Prop :=
  ∀ (s : State) (f : F6) (a : R5) (m : MemOp),
    let b := s.me.xr m.b
    let n := sizeOf104 f
    let disp := m.disp.toInt
    let ea := b + m.disp.signExtend 64
    let both (t : Trap) : Prop := Traps (.ld f a m) s t ∧
      (s.me.rev = true ∨ s.me.xPois.find? a.toNat = none → Traps (.st f a m) s t)
    let va := (b.toNat % 2 ^ 53 : Nat) + disp
    let off := (b.toNat % 2 ^ 17 : Nat) + disp
    (b.extractLsb' 62 2 = 1 → both ⟨0x07, 1, 0, ea⟩) ∧
    (b.extractLsb' 62 2 = 0 → b.extractLsb' 53 9 ≠ 0 → both ⟨0x07, 2, 0, ea⟩) ∧
    (b.extractLsb' 62 2 = 0 → b.extractLsb' 53 9 = 0 → va < 0 ∨ 2 ^ 53 ≤ va → both ⟨0x07, 3, 0, ea⟩) ∧
    (b.extractLsb' 62 2 = 0 → b.extractLsb' 53 9 = 0 → 0 ≤ va → va < 2 ^ 53 → va % n ≠ 0 → both ⟨0x06, n, 0, ea⟩) ∧
    (b.getLsbD 63 → b.extractLsb' 30 32 ≠ 0 → both ⟨0x07, 2, 0, ea⟩) ∧
    (b.getLsbD 63 → b.extractLsb' 30 32 = 0 → off < 0 ∨ 2 ^ 17 ≤ off → both ⟨0x07, 3, 0, ea⟩) ∧
    (b.getLsbD 63 → b.extractLsb' 30 32 = 0 → 0 ≤ off → off < 2 ^ 17 → off % n ≠ 0 → both ⟨0x06, n, 0, ea⟩) ∧
    (∀ p, poolAddr b s.me.core = some p → 0 ≤ off → off < 2 ^ 17 → off % n = 0 →
      sectorOf (cellOf p.pkgCore) = sectorOf (cellOf s.me.core) →
      ((s.core p.pkgCore).split = none → both ⟨0x07, 4, 0, ea⟩) ∧
      ∀ pbreg pbpad, (s.core p.pkgCore).split = some (pbreg, pbpad) →
        (off < pbreg ∨ pbpad < off + n → both ⟨0x07, 4, 0, ea⟩) ∧
        (pbreg ≤ off → off + n ≤ pbpad → (s.core p.pkgCore).padAsid ≠ some s.me.asid → both ⟨0x07, 5, 0, ea⟩))

/-- R98, R100, R374, R386: the address phase of LD in word memory reports a missing level, then denied permissions, then the page mode; and the
trap leaves every byte, and the `A` and `D` bits, as they are. -/
def Claims.TranslationTraps : Prop :=
  ∀ (s : State) (f : F6) (a : R5) (m : MemOp) (va : Nat),
    resolve s.me.core (s.me.xr m.b) m.disp.toInt 0 = .ok (.word va) → va % sizeOf104 f = 0 →
    let c := s.me
    let w : Word := BitVec.ofNat 64 va
    let leaf := s.leafFor c.core c.asid va false fun l => s.permBits c.mode c.asid l true false false == 0
    (∀ n, leaf = .error n → Traps (.ld f a m) s ⟨0x08, n, 0, w⟩) ∧
    (∀ l, leaf = .ok l →
      let key : Bool := match s.vault.find? l.key with
        | none => false
        | some k => c.mode != .user || k.any || k.owner == c.asid
      let d := (if l.word.getLsbD 8 then 0 else 1) + (if c.mode = .user ∧ l.word.getLsbD 11 = false then 4 else 0) + (if key then 0 else 8)
      (d ≠ 0 → Traps (.ld f a m) s ⟨0x09, d, 0, w⟩) ∧
      (d = 0 → l.mode = 3 ∨ 4 < l.mode → Traps (.ld f a m) s ⟨0x0A, l.mode, 0, w⟩)) ∧
    ∀ t, (s.trap s.cur t).mem = s.mem

/-- `Claims.AddressSpaceTraps`; `Claims.TranslationTraps` together. -/
def Obligations.AddressTraps : Prop := Claims.AddressSpaceTraps ∧ Claims.TranslationTraps

/-- R64, R108, R110, R126: in reverse mode LD of an FP32 element of a differentiable region contributes x[`A`][31:0] to the adjoint cell and writes
no register, and with 32 contributions outstanding a thread is not ready to issue anything; ST takes the adjoint cell's value, clearing it,
as a long result, once no contribution is outstanding; of a cell in another device's memory it waits for the exchange (R415), whose message
carries one cell as an atomic's does: that is the model's choice (log 28). -/
def Claims.ReverseAccess : Prop :=
  ∀ (s : State) (f : F6) (a : R5) (m : MemOp) (l : LaneOk) (ad : Place),
    let c := s.me
    let n := sizeOf104 f
    c.rev = true → l.adj = some ad →
    (s.placeLanes c false n [⟨0, c.xr m.b, m.disp.toInt, (c.xr a).toNat⟩] = .ok [l] →
      c.dataPoison (.x a n (f.getLsbD 2)) = none →
      let t := s.settleLanes c false [l]
      (32 ≤ c.pendc → s.ready s.cur = false) ∧
      exec (.ld f a m) s = .next (t.contributeLanes n false [l]).done) ∧
    (s.placeLanes c true n [⟨0, c.xr m.b, m.disp.toInt, (c.xr a).toNat % 2 ^ (8 * n)⟩] = .ok [l] →
      (c.pendc ≠ 0 → exec (.st f a m) s = .next (s.parkMe .pendcZero)) ∧
      (c.pendc = 0 →
        let cell := { ad.lane with idx := l.place.lane.idx }
        let u := (s.settleLanes c true [l]).yieldLines c.core (linesOf [cell])
        let op : AtomOp := .readClear c.rm [(0, 0)]
        exec (.st f a m) s = .next (if laneRoute u.src.core cell = 5
          then (u.parkMe .reply).remoteLane ⟨u.src, [cell], .x a 4 false, true, true⟩ op cell
          else (u.post (.atomicAtHome ⟨u.src, [cell], .x a 4 false, true, false⟩ op)).finish (·.pendX a))))

/-- R109, R363: a forward ST to a differentiable word pushes one 16-byte entry: TAPE_FULL when the tape has no room for it, with nothing
stored; otherwise it completes, the exchange is under way and `TAPEP` is 16 further on. The 1 in `FLTCODE`[31:16] is the count of entries
asked for, which is the model's choice (log 33). -/
def Claims.ForwardStorePushes : Prop :=
  ∀ (s : State) (f : F6) (a : R5) (m : MemOp) (l : LaneOk),
    let c := s.me
    let n := sizeOf104 f
    let va : Word := BitVec.ofNat 64 l.place.lane.va
    c.rev = false → c.xPois.find? a.toNat = none → l.adj.isSome →
    s.placeLanes c true n [⟨0, c.xr m.b, m.disp.toInt, (c.xr a).toNat % 2 ^ (8 * n)⟩] = .ok [l] →
    (bitsOf c.tapeb.toNat 63 62 = 0 → c.tapep.toNat + 16 > c.tapel.toNat → Traps (.st f a m) s ⟨0x11, 0, 1, va⟩) ∧
    (∀ e, s.placeTape c va l.place.lane.idx 1 = .ok [e] →
      let t := ((s.settleLanes c true [l]).settleAll c.core c.asid true [e])
      exec (.st f a m) s = .next ((t.pushLanes [l] [e]).storeLanes (t.pushLanes [l] [e]).src c.slot (f.getLsbD 3) []).done)

/-- `Claims.ReverseAccess`; `Claims.ForwardStorePushes` together. Each of these forms completes, at issue or with the answer that its clause names,
under conditions on the state and the operands alone: `ld`, `st`. -/
def Obligations.ReverseAndTapedAccess : Prop := Claims.ReverseAccess ∧ Claims.ForwardStorePushes

/-- R98, R113, R162: PREF never traps and never waits, whatever its address; it changes no register and no byte of memory, the leaf's `A` bit
included, since it has no address phase. Where another access would trap it does nothing. PREF.L2 of a line of device memory asks the line's
home for a fill that takes a way of the home slice, and whose answer installs nothing in the pool cache; unless it is dropped, which a free
value tells, for the spec gives the miss queue no length (the model's choice, log 61). -/
def Claims.PrefetchCompletes : Prop :=
  ∀ (s : State) (f : F6) (m : MemOp),
    (∃ t, exec (.pref f m) s = .next t ∧ t.ctx s.cur = s.me.advance ∧ t.mem = s.mem) ∧
    (∀ e, s.place s.me { n := 1, r := true, rdup := true, noPool := some 1 } 0 (s.me.xr m.b) m.disp.toInt = .error e →
      Completes (.pref f m) s id) ∧
    (∀ p e, s.place s.me { n := 1, r := true, rdup := true, noPool := some 1 } 0 (s.me.xr m.b) m.disp.toInt = .ok p →
      p.target = .hbm → p.leaf = some e → s.pageHolding p.lane.pa = none → p.lane.kmask = 0 →
      let line : Lane := { p.lane with pa := p.lane.pa / 128 * 128, n := 128 }
      let t := (s.fillTlbs s.me.core s.me.asid p.lane.va e).draw
      let fill : FillReq := ⟨⟨t.2.src, [line], .none, true, false⟩, []⟩
      exec (.pref 1 m) s = .next (if t.1.getLsbD 0 then t.2.done else t.2.done.post (.fillAtHome fill))) ∧
    ∀ (src : Src) (l : Lane) (ls : List (Nat × BitVec 1024 × BitVec 16)),
      let q : MemReq := ⟨src, [l], .none, true, false⟩
      (laneRoute src.core l = 3 → s.pageHolding (128 * (l.pa / 128)) = none →
        ∃ u, exec (.fillAtHome ⟨q, []⟩) s = .next u ∧ l.pa / 128 ∈ (u.slice (homeSlice (l.pa / 128))).l2 ∧ u.cores = s.cores) ∧
      (laneRoute src.core l = 0 → exec (.lineFillArrival q ls) s = .next s)

/-- R97, R114: CMO on a word-memory address cleans, flushes, flushes or zeroes the line in the issuing core's pool cache; on a pool address
it does nothing. That the zeros of CMO.ZERO go out as write-through stores where no line can be held is the model's choice (log 15). -/
def Claims.CacheMaintenance : Prop :=
  ∀ (s : State) (m : MemOp),
    let c := s.me
    (∀ z, s.placeCmo c z m = .ok none → Completes (if z then .cmoZero m else .cmoClean m) s id ∧
      (z = false → Completes (.cmoFlush m) s id ∧ Completes (.cmoInval m) s id)) ∧
    (∀ p, s.placeCmo c false m = .ok (some p) →
      let t := s.settle c.core c.asid false p
      let line := laneTag p.lane
      exec (.cmoClean m) s = .next (t.cleanLine (some s.cur) t.me.core line).done ∧
      exec (.cmoFlush m) s = .next (t.flushLine (some s.cur) t.me.core line).done ∧
      exec (.cmoInval m) s = .next (t.flushLine (some s.cur) t.me.core line).done) ∧
    (∀ p, s.placeCmo c true m = .ok (some p) →
      let t := s.settle c.core c.asid true p
      exec (.cmoZero m) s = .next (t.storeLanes t.src c.slot false ((List.range 16).map fun i =>
        ({ p.lane with pa := p.lane.pa / 128 * 128 + 8 * i, va := p.lane.va / 128 * 128 + 8 * i, n := 8, idx := i }, 0))).done)

/-- `Claims.PrefetchCompletes`; `Claims.CacheMaintenance` together. Each of these forms completes, at issue or with the answer that its clause names,
under conditions on the state and the operands alone: `pref`, `cmoClean`, `cmoFlush`, `cmoInval`, `cmoZero`. -/
def Obligations.PrefetchAndCache : Prop := Claims.PrefetchCompletes ∧ Claims.CacheMaintenance

/-! ## Atomics, reductions and synchronisation (06_atomics_sync.md) -/

/-- R116, R119, R123, R124, R389: AMO and CAS on a scratchpad of the sector: the bank writes the new value, whatever it is, and CAS only when the old
value equals x[`A`]; the reply carries the old value, sign-extended, and the tag 0; every other byte keeps its value. Where the owner's core
is fenced or under reset the answer is 0 and nothing is written. -/
def Claims.PoolAtomicsReadModifyWrite : Prop :=
  ∀ (s : State) (f : F6) (a b d : R5) (m : MemOp) (u : Nat),
    let c := s.me
    let n := if f.getLsbD 0 then 4 else 8
    let w := 8 * n
    let gone := s.coreGone (poolCore u)
    let old : BitVec w := BitVec.ofNat w (if gone then 0 else s.read u n)
    let y : BitVec w := (c.xr b).setWidth w
    let fresh : BitVec w := match f.toNat / 2 with
      | 0 => old + y
      | 1 => old &&& y
      | 2 => old ||| y
      | 3 => old ^^^ y
      | 4 => if old.sle y then old else y
      | 5 => if y.sle old then old else y
      | 6 => if old ≤ y then old else y
      | 7 => if y ≤ old then old else y
      | _ => y
    let bad := !gone && s.poisonAt u n
    let waits (i : Instr) (v : State) : Prop := ∃ va, WaitsFrom i s v .reply c.stage
      [.longResultArrival (Reply.of s.cur (.x a (old.signExtend 64) (if bad then some va else none) ::
        (if d = 0 then [] else [.x d 0 none])) true)]
    NearPool s (c.xr m.b) m.disp.toInt n u →
    (f.toNat < 18 → waits (.amo f a m b d)
      (if gone then s else s.writeMarked u n fresh.toNat (bad && decide (f.toNat / 2 < 8)))) ∧
    (f.toNat < 2 → waits (.cas f a m b d)
      (if !gone ∧ old = (c.xr a).setWidth w then s.writeMarked u n ((c.xr b).setWidth w : BitVec w).toNat false else s)) ∧
    ∀ v bad k, k < u ∨ u + n ≤ k → (s.writeMarked u n v bad).byte k = s.byte k

/-- R100, R117: an operation that needs a home slice refuses a pool address with `ADDR_SPACE`, code 6: FP RED, ACQ, REL, BAR, WAITW, WAKE, PEND. -/
def Claims.HomeSliceNeeded : Prop :=
  ∀ (s : State) (f : F6) (a b d : R5) (m : MemOp) (pe : BitVec 4) (p : PoolAddr),
    let c := s.me
    let ea := c.xr m.b + m.disp.signExtend 64
    resolve c.core (c.xr m.b) m.disp.toInt 0 = .ok (.pool p) →
    let t : Trap := ⟨0x07, 6, 0, ea⟩
    (16 ≤ f.toNat → Traps (.red f m b) s t) ∧ Traps (.acq f a m) s t ∧ Traps (.rel f a m) s t ∧ Traps (.bar a m) s t ∧
    Traps (.barN a m) s t ∧ Traps (.waitw f a m b d pe) s t ∧ Traps (.wake m) s t ∧ Traps (.wakeT m) s t ∧ Traps (.pend a m) s t ∧
    Traps (.pendC a m) s t

/-- `Claims.PoolAtomicsReadModifyWrite`; `Claims.HomeSliceNeeded` together. Each of these forms completes, at issue or with the answer that its clause
names, under conditions on the state and the operands alone: `amo`, `cas`. -/
def Obligations.PoolAtomics : Prop := Claims.PoolAtomicsReadModifyWrite ∧ Claims.HomeSliceNeeded

/-- R116, R123, R124: an AMO or CAS whose word has its home in HBM writes back the core's own line, leaves for the home and parks for the reply;
one whose bank lies beyond the sector leaves for the bank. -/
def Claims.AtomicsLeaveForHome : Prop :=
  ∀ (s : State) (f : F6) (a b d : R5) (m : MemOp) (p : Place),
    let c := s.me
    let n := if f.getLsbD 0 then 4 else 8
    s.placeAtomic c { n := n, r := true, w := true, onlyDevice := some 6, remote := true, store := true } 0 (c.xr m.b) m.disp.toInt = .ok p →
    let t := (s.settle c.core c.asid true p).parkMe .reply
    let q : MemReq := ⟨t.src, [p.lane], .x a n true, true, true⟩
    ∀ i op, (i = .amo f a m b d ∧ op = .amo (f.toNat / 2) (c.xr b) d) ∨ (i = .cas f a m b d ∧ op = .cas (c.xr a) (c.xr b) d) →
      (laneRoute c.core p.lane = 3 → exec i s = .next ((t.yieldLines c.core [p.lane.pa / 128]).post (.atomicAtHome q op))) ∧
      (laneRoute c.core p.lane = 2 → exec i s = .next (t.post (.poolBankAccess q (.atom op))))

/-- R119, R121, R123, R124: an AMO or CAS is performed at its home once no page operation holds its page: tills fold, the old value is read, the new
one written, the line takes the next tag, its waiters are walked, and the reply carries the old value and the tag. A CAS that writes
nothing takes a tag all the same. -/
def Claims.AtomicsAtHome : Prop :=
  ∀ (s : State) (q : MemReq) (l : Lane) (k : Nat) (b cmp new : Word) (d : R5),
    q.lanes = [l] → s.heldLane q = none →
    let u := s.homeWrite (l.pa / 128)
    let old := u.read l.pa l.n
    let bad := u.poisonAt l.pa l.n
    let next := (u.seqOf (l.pa / 128) + 1) % 2 ^ 16
    let store (v : Nat) (b : Bool) : State := (u.homeStore l.pa l.n v b).2
    let answer (op : AtomOp) (t : State) : State :=
      t.post (.longResultArrival (Reply.of q.src.tid (atomWrites q op l old next bad) q.parked))
    (∀ v, (u.homeStore l.pa l.n v bad).1 = ((u.homeWrite (l.pa / 128)).seqOf (l.pa / 128) + 1) % 2 ^ 16) ∧
    (∃ tag t, exec (.atomicAtHome q (.amo k b d)) s = .next (t.post (.longResultArrival (Reply.of q.src.tid
        (atomWrites q (.amo k b d) l old tag bad) q.parked))) ∧
      (tag, t) = u.homeStore l.pa l.n (amoValue k l.n old b.toNat) (bad && decide (k ≤ 7))) ∧
    (old = cmp.toNat % 2 ^ (8 * l.n) → exec (.atomicAtHome q (.cas cmp new d)) s = .next
      ((store (new.toNat % 2 ^ (8 * l.n)) false).post (.longResultArrival (Reply.of q.src.tid
        (atomWrites q (.cas cmp new d) l old (u.homeStore l.pa l.n (new.toNat % 2 ^ (8 * l.n)) false).1 bad) q.parked)))) ∧
    (old ≠ cmp.toNat % 2 ^ (8 * l.n) → exec (.atomicAtHome q (.cas cmp new d)) s = .next
      (answer (.cas cmp new d) ((u.setSeq (l.pa / 128) next).walkWaiters (l.pa / 128))))

/-- R66, R101, R129, R188: a result arrives: the registers are written, poison with them (a mark on x0 is lost with the value, R45), pending bits
clear, and the thread that parked for it moves on; a reply to an acquire invalidates the clean bytes of the core's pool cache first. -/
def Claims.ResultsArrive : Prop :=
  ∀ (s : State) (tid : Nat) (a : R5) (w : Word) (b : Bool) (bank : R5) (v : Vec) (nf sat : Bool) (bad : Option Word),
    let c := s.ctx tid
    let markX (c : Ctx) : Ctx := match bad with
      | some va => if a = 0 then c else { c with xPois := c.xPois.set a.toNat va }
      | none => c
    let markV (c : Ctx) : Ctx := match bad with
      | some va => { c with vPois := c.vPois.set bank.toNat va }
      | none => c
    (∃ t, exec (.longResultArrival ⟨tid, [.x a w bad], nf, sat, false, false⟩) s = .next (t.syncImage tid) ∧
      Differs s t tid ((markX (c.landX a w)).raise nf sat) []) ∧
    (∃ t, exec (.longResultArrival ⟨tid, [.v bank v (BitVec.allOnes 64) bad], nf, sat, false, false⟩) s = .next (t.syncImage tid) ∧
      Differs s t tid ((markV (c.landV bank v)).raise nf sat) []) ∧
    (∃ t, exec (.longResultArrival ⟨tid, [.x a w bad], nf, sat, false, true⟩) s = .next (t.requeue tid) ∧
      Differs s t tid ((markX (c.setX a w)).raise nf sat).advance []) ∧
    (∃ t, exec (.longResultArrival ⟨tid, [], false, false, true, b⟩) s = .next t ∧
      ∀ e ∈ (t.core c.core).cache, e.2.valid = e.2.dirty ∧ e.2.dirty ≠ 0)

/-- `Claims.AtomicsLeaveForHome`; `Claims.AtomicsAtHome`; `Claims.ResultsArrive` together. Each of these forms completes, at issue or with the answer
that its clause names, under conditions on the state and the operands alone: `amo`, `cas`, `atomicAtHome`, `longResultArrival`. -/
def Obligations.HomeAtomics : Prop := Claims.AtomicsLeaveForHome ∧ Claims.AtomicsAtHome ∧ Claims.ResultsArrive

/-- R64, R116, R125, R126: RED and REDV: with 32 outstanding the thread is not ready to issue; every active lane is checked before any leaves, the contribution
counts once in `PENDC`, lanes in scratchpads of the sector are applied at once, and the rest leaves for the homes or banks. A masked REDV
with no active lane does nothing. -/
def Claims.ReductionsPost : Prop :=
  ∀ (s : State) (f : F6) (a b : R5) (m : MemOp) (ps : List Place),
    let c := s.me
    let op := f.toNat % 32
    let w := if op = 16 then 4 else if 16 < op then 2 else if op % 2 = 1 then 4 else 8
    let one : List LaneAcc := [⟨0, c.xr m.b, m.disp.toInt, (c.xr b).toNat % 2 ^ (8 * w)⟩]
    let all := activeLanes c b m.b w (fun i => !f.getLsbD 5 || (c.kr a).getLsbD i) fun i => m.disp.toInt + i * w
    (all = [] → Completes (.redv f a m b) s id) ∧
    ∀ i ls, (i = .red f m b ∧ ls = one ∧ f.toNat < 32) ∨ (i = .redv f a m b ∧ ls = all ∧ all ≠ []) →
      (32 ≤ c.pendc → s.ready s.cur = false) ∧
      (s.placeReds c op ls = .ok ps →
        let lanes := ps.map Place.lane
        let t := (s.settleAll c.core c.asid true ps).yieldLines c.core (linesOf lanes)
        let t := (lanes.zip (ls.map LaneAcc.val)).foldl (fun (t : State) (e : Lane × Nat) =>
          if laneRoute c.core e.1 = 1 then t.redAtBank op e.1 e.2 else t) t
        exec i s = .next ((t.setMe { t.me with pendc := t.me.pendc + 1 }).routeRed
          ⟨t.src, lanes.map fun l => if laneRoute c.core l = 1 then laneApplied l else l, .none, true, false⟩ op (ls.map LaneAcc.val)).done)

/-- R119, R120, R125, R126, R137: contributions at their homes: an integer one is performed as an AMO's, a floating-point one goes into a till;
its acknowledgement lowers `PENDC` by one; PEND reports the till status without a fold, and its clearing form clears it in the same step. -/
def Claims.ContributionsAtHome : Prop :=
  ∀ (s : State) (q : MemReq) (l : Lane) (op v tid : Nat) (a : R5) (clear : Bool),
    let slice := homeSlice (l.pa / 128)
    (q.lanes = [l] → laneRoute q.src.core l = 3 → l.n ≠ 0 → s.heldLane q = none → exec (.contributionAtHome q op [v]) s = .next
      (State.post (if 16 ≤ op then s.contribute l.pa q.src.core (op - 16) ((Fmt.ofCode (op - 16)).decode v)
        else let u := s.homeWrite (l.pa / 128)
          (u.homeStore l.pa l.n (amoValue (op / 2) l.n (u.read l.pa l.n) v) (u.poisonAt l.pa l.n)).2)
        (.contributionAckArrival q.src.tid))) ∧
    exec (.contributionAckArrival tid) s = .next (s.setCtx tid { s.ctx tid with pendc := (s.ctx tid).pendc - 1 }) ∧
    (q.lanes = [l] → q.dst = .x a 8 false → s.heldLane q = none →
      exec (.atomicAtHome q (.pend clear)) s = .next ((if clear
        then s.setSlice slice { s.slice slice with efs := false, nff := false, efcnt := 0 } else s).post (.longResultArrival
          (Reply.of q.src.tid [.x a (BitVec.ofNat 64 (s.pendWord l.pa)) none] q.parked))))

/-- `Claims.ReductionsPost`; `Claims.ContributionsAtHome` together. Each of these forms completes, at issue or with the answer that its clause names,
under conditions on the state and the operands alone: `red`, `redv`, `contributionAtHome`, `contributionAckArrival`, `atomicAtHome`. -/
def Obligations.ReductionsAndTills : Prop := Claims.ReductionsPost ∧ Claims.ContributionsAtHome

/-- R127, R128, R129: REL waits until nothing of the context is outstanding, then sends its store, counted in `ACKC`; ACQ leaves for the home and parks; at
the home a release records its core, and stores with a tag, unless an eager drain comes first; an acquire drains every recorded core. -/
def Claims.ReleaseAndAcquire : Prop :=
  ∀ (s : State) (f : F6) (a : R5) (m : MemOp) (p : Place) (q : MemReq) (l : Lane) (n : Nat) (v : Word),
    let c := s.me
    let k := if f = 1 then 4 else 8
    let word := l.pa / 8 * 8
    (s.placeAtomic c (homeNeed k (f = 2) (f ≠ 2)) 0 (c.xr m.b) m.disp.toInt = .ok p →
      (c.longs ≠ 0 ∨ c.ackc ≠ 0 ∨ c.pendc ≠ 0 → exec (.rel f a m) s = .next (s.parkMe .quiet)) ∧
      (c.longs = 0 → c.ackc = 0 → c.pendc = 0 →
        let t := (s.settle c.core c.asid (f ≠ 2) p).yieldLines c.core [p.lane.pa / 128]
        exec (.rel f a m) s = .next ((t.setMe { t.me with ackc := t.me.ackc + 1 }).post (.releaseAtHome ⟨t.src, [p.lane], .none, true, false⟩
          (if f = 2 then 0 else k) (c.xr a))).done)) ∧
    (s.placeAtomic c (homeNeed k true false) 0 (c.xr m.b) m.disp.toInt = .ok p →
      let t := (s.settle c.core c.asid false p).yieldLines c.core [p.lane.pa / 128]
      exec (.acq f a m) s = .next ((t.parkMe .reply).post (.acquireAtHome
        ⟨t.src, [p.lane], if f = 2 then .none else .x a k false, true, true⟩ (if f = 2 then 0 else k)))) ∧
    (q.lanes = [l] → s.pageHolding l.pa = none →
      let t := s.foldLine (l.pa / 128)
      (∀ u, t.record word q.src.core = some u → exec (.releaseAtHome q n v) s = .next (u.finishRelease q n v)) ∧
      (t.record word q.src.core = none →
        exec (.releaseAtHome q n v) s = .next (t.startDrain (l.pa / 128) [q.src.core] (.rel q n v))) ∧
      exec (.acquireAtHome q n) s = .next (t.startDrain (l.pa / 128) (t.recorded word) (.acq q n)))

/-- R96, R129, R130, R135: a drained core sends every dirty line home and answers; when the last of a drain has answered, what waited for it goes on:
an acquire, a barrier's phase and a wait that succeeds clear the word's record; the acquire then reads the word, a release is performed. -/
def Claims.DrainsComplete : Prop :=
  ∀ (s : State) (core job : Nat) (j : Job) (q : MemReq) (l : Lane) (n : Nat) (w : Waiter) (v : Word),
    s.jobs.find? job = some j →
    let t := if s.coreGone core then s else s.cleanAll none core fun _ => true
    let left := j.left.filter (· ≠ core)
    let u : State := { t with jobs := t.jobs.set job { j with left := left } }
    let r : State := { s with jobs := s.jobs.erase job }
    let clear (a : Nat) : State := r.clearRecord (a / 8 * 8)
    exec (.drainCommandArrival core job) s = .next (if left = [] then u.post (.drainCompletion job) else u) ∧
    (j.next = .rel q n v → exec (.drainCompletion job) s = .next (r.finishRelease q n v)) ∧
    (j.next = .arrive w → exec (.drainCompletion job) s = .next (r.arrive w)) ∧
    (j.next = .wait w v → exec (.drainCompletion job) s = .next ((clear w.lane.pa).post (.waiterWakeArrival w v 1))) ∧
    (j.next = .bar w v → exec (.drainCompletion job) s = .next (((clear w.lane.pa).walkLine j.line true).post (.waiterWakeArrival w v 1))) ∧
    (j.next = .acq q n → q.lanes = [l] → n ≠ 0 → l.n ≤ 8 → ∃ e : Lane,
      let h := (clear l.pa).homeRead (l.pa / 128)
      exec (.drainCompletion job) s = .next (h.post (.longResultArrival { Reply.of q.src.tid (loadWrites q.dst [e]) true with acquire := true })) ∧
      e.kval = h.read l.pa l.n ∧ e.bad = (l.bad || h.poisonAt l.pa l.n))

/-- `Claims.ReleaseAndAcquire`; `Claims.DrainsComplete` together. Each of these forms completes, at issue or with the answer that its clause names,
under conditions on the state and the operands alone: `rel`, `acq`, `releaseAtHome`, `acquireAtHome`, `drainCommandArrival`, `drainCompletion`. -/
def Obligations.AcquireReleaseDrains : Prop := Claims.ReleaseAndAcquire ∧ Claims.DrainsComplete

/-- R134: an arrival at a barrier word: a word with `BN` 0 or `BARR` not below `BN` is answered 2 and not written; the arrival that completes the phase
writes the next phase with `BARR` 0 and is answered with it; any other raises `BARR` by one and waits for the phase to change; the word's
mark goes with the answer (R101).
Each of these forms completes, at issue or with the answer that its clause names, under conditions on the state and the operands alone:
`barrierArrivalAtHome`. -/
def Obligations.BarrierArrival : Prop :=
  ∀ (s : State) (w₀ : Waiter),
    let a := w₀.lane.pa
    let line := a / 128
    w₀.kind = 2 → s.pageHolding a = none →
    let u := (s.foldLine line).homeWrite line
    let b : Word := BitVec.ofNat 64 (u.read a 8)
    let phase := (b.extractLsb' 32 32)
    let bn := (b.extractLsb' 16 16)
    let barr := (b.extractLsb' 0 16)
    let w := { w₀ with lane := { w₀.lane with bad := u.poisonAt a 8 } }
    (bn = 0 ∨ bn ≤ barr → exec (.barrierArrivalAtHome w₀) s = .next (u.post (.waiterWakeArrival w b 2))) ∧
    (bn ≠ 0 → barr.toNat + 1 = bn.toNat →
      let fresh : Word := (phase + 1) ++ bn ++ 0#16
      exec (.barrierArrivalAtHome w₀) s = .next (((((u.writeMarked a 8 fresh.toNat (u.poisonAt a 8)).tag line).2).walkWaiters line).post
        (.waiterWakeArrival w fresh 1))) ∧
    (barr.toNat + 1 < bn.toNat → exec (.barrierArrivalAtHome w₀) s = .next
      (((u.homeStore a 8 (b + 1).toNat (u.poisonAt a 8)).2).register { w with cond := .phase phase.toNat }))

/-- R128, R131 to R135: BAR (once nothing is outstanding), BAR.N and WAITW leave for the home and park, the park limit counting, with the deadline
at issue plus the limit, none for 0. -/
def Claims.WaitsLeaveForHome : Prop :=
  ∀ (s : State) (f : F6) (a b d : R5) (m : MemOp) (pe : BitVec 4) (p : Place),
    let c := s.me
    let now := s.pcyc * 10 / 33
    let dead (from_ : Nat) (w : Word) : Option Nat := if w = 0 then none else some (from_ + w.toNat)
    let n := if f.getLsbD 3 then 4 else 8
    (s.placeAtomic c (homeNeed 8 true true) 0 (c.xr m.b) m.disp.toInt = .ok p →
      let t := (s.settle c.core c.asid true p).yieldLines c.core [p.lane.pa / 128]
      let first := if c.stage = 0 then now else c.hold.toNat
      (c.longs ≠ 0 ∨ c.ackc ≠ 0 ∨ c.pendc ≠ 0 → ∃ u, exec (.bar a m) s = .next u ∧
        Differs s u s.cur { c with stage := 1, hold := BitVec.ofNat 64 first, park := some .quiet } []) ∧
      (c.longs = 0 → c.ackc = 0 → c.pendc = 0 → exec (.bar a m) s = .next ((t.parkCounted .word).post (.barrierArrivalAtHome
        ⟨t.src, p.lane, .phase 0, dead first (c.xr a), false, a, 0, 1⟩))) ∧
      exec (.barN a m) s = .next ((t.parkCounted .word).post (.barrierArrivalAtHome
        ⟨t.src, p.lane, .phase 0, dead first (c.xr a), false, a, 0, 2⟩))) ∧
    (s.placeAtomic c (homeNeed n true false) 0 (c.xr m.b) m.disp.toInt = .ok p →
      let t := (s.settle c.core c.asid false p).yieldLines c.core [p.lane.pa / 128]
      exec (.waitw f a m b d pe) s = .next ((t.parkCounted .word).post (.waitRegistration
        ⟨t.src, p.lane, .word (f.toNat % 8) (!f.getLsbD 3) (c.xr b), dead now (c.xr d), f.getLsbD 4, a, pe, 0⟩)))

/-- R131 to R133, R136, log 65 and 80: a wait at its home succeeds when its condition holds now, expires when its deadline has passed, is registered while the table
has room, and is polled every 1,024 cycles when it has none; its deadline ends a registered wait, but not that of a phase which is complete and
still draining (R134); WAKE, which has the issuing core write back its line
(the model's choice, log 65), walks a line's waiters and its second form ends those that remain, all at once (the model's choice, log 80). -/
def Claims.WaitsAtHome : Prop :=
  ∀ (s : State) (w : Waiter) (m : MemOp) (p : Place) (q : MemReq) (l : Lane),
    let line := w.lane.pa / 128
    let u := s.homeRead line
    let k := homeSlice line
    let holds := waitHolds w.cond (u.read w.lane.pa w.lane.n)
    let late : Bool := match w.deadline with
      | none => false
      | some d => (d * 33 + 9) / 10 < s.pcyc
    w.lane.n ≤ 8 →
    (s.pageHolding w.lane.pa = none →
      (holds → exec (.waitRegistration w) s = .next (u.satisfy w)) ∧
      (holds = false → u.pcyc = s.pcyc → late → exec (.waitRegistration w) s = .next (u.expire w)) ∧
      (holds = false → u.pcyc = s.pcyc → late = false → Config.waiterEntries ≤ (u.slice k).waiting →
        exec (.waitRegistration w) s = .next (u.at (u.pcyc + 1024) (.waiterPollRetry w))) ∧
      (holds = false → w.deadline = none → (u.slice k).waiting < Config.waiterEntries →
        exec (.waitRegistration w) s = .next (u.setSlice k { u.slice k with waiters := (u.slice k).waiters ++ [w], retained := false }))) ∧
    (exec (.waitDeadlineExpiry w) s = .next (if w ∈ (s.slice k).waiters ∧ (forPhase w && s.phaseDrains w.lane.pa) = false
      then (s.setSlice k { s.slice k with waiters := (s.slice k).waiters.erase w }).expire w else s)) ∧
    (exec (.waiterPollRetry w) s = .next (s.post (if (s.ctx w.src.tid).imstate = .suspended then .suspendedPollerRequeue w
      else .waitRegistration w))) ∧
    exec (.suspendedPollerRequeue w) s = .next ((s.requeue w.src.tid).post (.waitRegistration w)) ∧
    (s.placeAtomic s.me { homeNeed 1 true false with align := false, locks := false } 0 (s.me.xr m.b) m.disp.toInt = .ok p →
      let t := (s.settle s.me.core s.me.asid false p).yieldLines s.me.core [p.lane.pa / 128]
      exec (.wake m) s = .next ((t.post (.wakeAtHome ⟨t.src, [p.lane], .none, true, false⟩ false)).done) ∧
      exec (.wakeT m) s = .next ((t.post (.wakeAtHome ⟨t.src, [p.lane], .none, true, false⟩ true)).done)) ∧
    (q.lanes = [l] → s.pageHolding l.pa = none →
      let g := (s.homeRead (l.pa / 128)).walkWaiters (l.pa / 128)
      let h := homeSlice (l.pa / 128)
      exec (.wakeAtHome q false) s = .next g ∧
      exec (.wakeAtHome q true) s = .next (((g.slice h).waiters.filter fun x => x.lane.pa / 128 = l.pa / 128).foldl State.expire
        (g.setSlice h { g.slice h with waiters := (g.slice h).waiters.filter fun x => x.lane.pa / 128 ≠ l.pa / 128 })))

/-- R131, R133 to R135: a wake writes the results of the wait and the thread goes on: WAITW's value and predicate, a barrier's phase with its result code;
a wake that finds the thread waiting for nothing changes nothing. -/
def Claims.WakeResults : Prop :=
  ∀ (s : State) (w : Waiter) (val : Word) (r : Nat),
    let c := s.ctx w.src.tid
    let code : BitVec 32 := if r = 1 then 0 else if r = 0 then 1 else 2
    let acquires := decide (r = 1) && (w.acq || w.kind == 1)
    let u := if acquires then s.selfInvalidate c.core else s
    (c.park ≠ some .word → exec (.waiterWakeArrival w val r) s = .next s) ∧
    (c.park = some .word → w.lane.bad = false →
      (w.kind = 0 → exec (.waiterWakeArrival w val r) s = .next (u.wakeWith w.src.tid fun c =>
        (c.setX w.a (if w.lane.n = 4 then (val.setWidth 32).signExtend 64 else val)).setP w.pe.toNat (r = 1))) ∧
      (w.kind = 1 ∨ w.kind = 2 → exec (.waiterWakeArrival w val r) s = .next (u.wakeWith w.src.tid
        (·.setX w.a ((val.extractLsb' 32 32) ++ code)))))

/-- R137, log 65: PEND and PEND.C complete at issue, their status word on the way to x[`A`]; no tag is taken and nothing folds. That the line stays
in the issuing core's pool cache is the model's choice (log 65). -/
def Claims.PendCompletes : Prop :=
  ∀ (s : State) (a : R5) (m : MemOp) (p : Place) (clear : Bool),
    s.placeAtomic s.me { homeNeed 1 true false with align := false, locks := false, rdup := true } 0 (s.me.xr m.b) m.disp.toInt = .ok p →
    let t := s.settle s.me.core s.me.asid false p
    ∃ u, exec (if clear then .pendC a m else .pend a m) s = .next u ∧
      Differs t u t.cur (t.me.pendX a).advance [.atomicAtHome ⟨t.src, [p.lane], .x a 8 false, true, false⟩ (.pend clear)]

/-- `Claims.WaitsLeaveForHome`; `Claims.WaitsAtHome`; `Claims.WakeResults`; `Claims.PendCompletes` together. Each of these forms completes, at issue
or with the answer that its clause names, under conditions on the state and the operands alone: `bar`, `barN`, `waitw`, `waitRegistration`,
`waitDeadlineExpiry`, `waiterPollRetry`, `suspendedPollerRequeue`, `wake`, `wakeT`, `wakeAtHome`, `waiterWakeArrival`, `pend`, `pendC`. -/
def Obligations.WaitsAndWakes : Prop := Claims.WaitsLeaveForHome ∧ Claims.WaitsAtHome ∧ Claims.WakeResults ∧ Claims.PendCompletes

/-! ## Fences and pages (07_memory_model.md, 08_coherence_pages.md) -/

/-- R139, R144: FENCE.ACK waits until `ACKC` is 0; FENCE.ACQ until no load is on its way, then invalidates the clean bytes of the core's pool
cache, in scopes CELL and wider; FENCE.REL until every earlier access is performed, then, in those scopes, until every dirty line of the
cache has been written back; FENCE.FULL does the one part and then the other. A fence that finds nothing to wait for goes on at once: all
four forms complete in a thread with nothing on its way, whose core's cache holds nothing dirty. The cache that a fence writes back is
that of the core where it issued, also for a thread that has been placed on another core since (R146, R404). -/
def Claims.Fences : Prop :=
  ∀ (s : State) (k : BitVec 3),
    let c := s.me
    let wide := decide (k.toNat ≤ 4)
    let own := s.selfInvalidate c.core
    let clean := s.cleanAll none c.issuedOn fun _ => true
    (c.ackc ≠ 0 → exec .fenceAck s = .next (s.parkMe .acks)) ∧ (c.ackc = 0 → Completes .fenceAck s id) ∧
    (s.loading s.cur → exec (.fenceAcq k) s = .next (s.parkMe .loads)) ∧
    (s.loading s.cur = false → CompletesFrom (.fenceAcq k) s (if wide then own else s) id []) ∧
    (c.stage = 0 → s.quiet s.cur (k == 0) = false →
      exec (.fenceRel k) s = .next (s.parkMe (.performed (k == 0))) ∧ exec (.fenceFull k) s = .next (s.parkMe (.performed (k == 0)))) ∧
    (c.stage = 0 → s.quiet s.cur (k == 0) → wide = false → Completes (.fenceRel k) s id ∧ Completes (.fenceFull k) s id) ∧
    (c.stage = 0 → s.quiet s.cur (k == 0) → wide → clean.writingBack c.issuedOn = false →
      CompletesFrom (.fenceRel k) s clean id [] ∧ CompletesFrom (.fenceFull k) s (clean.selfInvalidate c.core) id []) ∧
    (c.stage = 0 → s.quiet s.cur (k == 0) → wide → clean.writingBack c.issuedOn →
      ∃ t, exec (.fenceRel k) s = .next t ∧ exec (.fenceFull k) s = .next t ∧
        Differs clean t s.cur { c with stage := 1, midway := true, park := some (.writeBacks c.issuedOn) } []) ∧
    (c.stage = 1 → Completes (.fenceRel k) s id ∧
      (s.loading s.cur = false → CompletesFrom (.fenceFull k) s (if wide then own else s) id [])) ∧
    (AtRest s → c.stage = 0 → (∀ e ∈ (s.core c.issuedOn).cache, e.2.dirty = 0) →
      Completes .fenceAck s id ∧ CompletesFrom (.fenceAcq k) s (if wide then own else s) id [] ∧ Completes (.fenceRel k) s id ∧
      CompletesFrom (.fenceFull k) s (if wide then own else s) id [])

/-- R101, R129, R144: self-invalidation clears the valid bits of every byte that is not dirty, and the marks of words with no dirty byte, and keeps
every dirty byte of every line. -/
def Claims.SelfInvalidationKeepsDirtyBytes : Prop :=
  ∀ (s : State) (q line : Nat) (l : CacheLine),
    ((s.core q).cache.map Prod.fst).Nodup →
    (s.cacheLine q line = some l → l.dirty ≠ 0 → (s.selfInvalidate q).cacheLine q line =
      some { l with valid := l.dirty, pois := l.pois &&& wholeWords l.dirty }) ∧
    (s.cacheLine q line = some l → l.dirty = 0 → (s.selfInvalidate q).cacheLine q line = none) ∧
    (∀ k, k ≠ q → (s.selfInvalidate q).core k = s.core k) ∧ (s.selfInvalidate q).mem = s.mem

/-- R35, R148: ICSYNC checks its range first, performs its fence, asks every core in its scope, and waits for their answers over plane 6; each core
discards its instruction lines and the clean bytes of its pool cache, those of the range alone where there is one, and keeps every dirty
byte. Both forms complete when the last answer has come (stage 9), and the ranged one of an empty range after its fence. That a core
answers in the step in which it acts is the model's choice (log 35). -/
def Claims.InstructionSync : Prop :=
  ∀ (s : State) (k : BitVec 3) (b l : R5) (tid core asid lo hi : Nat),
    let c := s.me
    let base := c.xr b
    let len := (c.xr l).toNat
    let lines := if 2 ^ 24 < len then none else some (c.asid, base.toNat / 64 * 64, min (base.toNat + len) (2 ^ 53))
    (base.extractLsb' 62 2 ≠ 0 → Traps (.icsyncRanged k b l) s ⟨0x07, 1, 0, base⟩) ∧
    (base.extractLsb' 62 2 = 0 → base.extractLsb' 53 9 ≠ 0 → Traps (.icsyncRanged k b l) s ⟨0x07, 2, 0, base⟩) ∧
    (c.stage = 9 → Completes (.icsync k) s id ∧ (base.extractLsb' 53 11 = 0 → Completes (.icsyncRanged k b l) s id)) ∧
    (∀ u, c.stage ≠ 9 → s.relPart k.toNat 0 = .ok u →
      exec (.icsync k) s = .next (u.askCores (u.scopeCores u.me.core k.toNat) fun q => .icsyncInvalidateAtCore u.cur q none) ∧
      (base.extractLsb' 53 11 = 0 → len ≠ 0 → exec (.icsyncRanged k b l) s = .next
        (u.askCores (u.scopeCores u.me.core k.toNat) fun q => .icsyncInvalidateAtCore u.cur q lines)) ∧
      (base.extractLsb' 53 11 = 0 → len = 0 → exec (.icsyncRanged k b l) s = .next u.done)) ∧
    (∀ w, c.stage ≠ 9 → s.relPart k.toNat 0 = .error w → exec (.icsync k) s = .next w) ∧
    (∃ t, exec (.icsyncInvalidateAtCore tid core none) s = .next t ∧ (t.core core).icache = [] ∧
      (t.ctx tid).awaits = (s.ctx tid).awaits - 1 ∧ ∀ e ∈ (t.core core).cache, e.2.valid = e.2.dirty) ∧
    (∃ t, exec (.icsyncInvalidateAtCore tid core (some (asid, lo, hi))) s = .next t ∧ (t.ctx tid).awaits = (s.ctx tid).awaits - 1 ∧
      (∀ e, e ∈ (t.core core).icache ↔ e ∈ (s.core core).icache ∧ ¬(e.1 = asid ∧ lo ≤ e.2.1.toNat ∧ e.2.1.toNat < hi)) ∧
      let named (tag : Nat) : Prop := ∃ r ∈ s.mappedRanges asid lo hi, r.1 / 128 ≤ tagLine tag ∧ tagLine tag * 128 < r.2
      (∀ e, ¬named e.1 → (e ∈ (t.core core).cache ↔ e ∈ (s.core core).cache)) ∧
      (∀ e ∈ (t.core core).cache, named e.1 → e.2.valid = e.2.dirty ∧ e.2.dirty ≠ 0) ∧
      ∀ e ∈ (s.core core).cache, named e.1 → e.2.dirty ≠ 0 →
        (e.1, { e.2 with valid := e.2.dirty, pois := e.2.pois &&& wholeWords e.2.dirty }) ∈ (t.core core).cache)

/-- `Claims.Fences`; `Claims.SelfInvalidationKeepsDirtyBytes`; `Claims.InstructionSync` together. Each of these forms completes, at issue or with the
answer that its clause names, under conditions on the state and the operands alone: `fenceFull`, `fenceAcq`, `fenceRel`, `fenceAck`, `icsync`,
`icsyncRanged`, `icsyncInvalidateAtCore`. -/
def Obligations.FencesAndSync : Prop := Claims.Fences ∧ Claims.SelfInvalidationKeepsDirtyBytes ∧ Claims.InstructionSync

/-- R170, R173, R174: PGMODE and PGMIG wait until every earlier access of the thread is performed (R172); a malformed word answers 3; otherwise the operation goes to the
page unit and the thread parks for the reply. PGMODE.CF clears a die's `MCF`. -/
def Claims.PageInstructions : Prop :=
  ∀ (s : State) (n : Bool) (a b c : R5),
    let w := s.me.xr c
    let va := (s.me.xr b).toNat
    let die (op : PageOp) : Nat := match s.pageLeaf op with
      | some l => bitsOf l.base 39 38
      | none => 0
    let mode : PageOp := ⟨s.src, a, va, (w.extractLsb' 0 9).toNat, false, (w.extractLsb' 9 3).toNat, (w.extractLsb' 12 4).toNat, 0, n⟩
    let mig : PageOp := ⟨s.src, a, va, (w.extractLsb' 0 9).toNat, true, 0, 0, (w.extractLsb' 16 24).toNat * 65536, n⟩
    let busy := s.quiet s.cur true = false
    let three : Event := .longResultArrival (Reply.of s.cur [.x a 3 none] true)
    (busy → exec (.pgmode n a b c) s = .next (s.parkMe (.performed true)) ∧ exec (.pgmig n a b c) s = .next (s.parkMe (.performed true))) ∧
    (¬busy → w.extractLsb' 16 48 ≠ 0 ∨ 4 < (w.extractLsb' 9 3).toNat → WaitsFrom (.pgmode n a b c) s s .reply s.me.stage [three]) ∧
    (¬busy → w.extractLsb' 16 48 = 0 → (w.extractLsb' 9 3).toNat ≤ 4 →
      WaitsFrom (.pgmode n a b c) s s .reply s.me.stage [.pageOpSlotGrant (die mode) mode]) ∧
    (¬busy → w.extractLsb' 40 24 ≠ 0 ∨ w.extractLsb' 9 7 ≠ 0 → WaitsFrom (.pgmig n a b c) s s .reply s.me.stage [three]) ∧
    (¬busy → w.extractLsb' 40 24 = 0 → w.extractLsb' 9 7 = 0 →
      WaitsFrom (.pgmig n a b c) s s .reply s.me.stage [.pageOpSlotGrant (die mig) mig]) ∧
    (AtRest s → ¬busy) ∧
    CompletesLong (.pgmodeCf a c) s (let d := w.toNat % 4; s.setDie d { s.die d with mcf := false }) a 0

/-- R170, R173, R174, R176: at the page unit: no leaf answers 1; an operation on a page that is busy waits; a page whose status is settled answers it
with no step performed; with every slot taken the operation waits, or answers 4 in the `.N` forms; else it takes the first free slot and its
steps begin. -/
def Claims.PageOperationStarts : Prop :=
  ∀ (s : State) (die : Nat) (op : PageOp) (l : Leaf),
    let home := bitsOf l.base 39 38
    let answer (st : Word) : Event := .longResultArrival (Reply.of op.src.tid [.x op.a st none] true)
    let free (k : Nat) : Prop := ((s.die home).pages.find? k).isNone
    (s.pageLeaf op = none → exec (.pageOpSlotGrant die op) s = .next (s.post (answer 1))) ∧
    (s.pageLeaf op = some l → ∀ d, s.pageBusy l = some d →
      exec (.pageOpSlotGrant die op) s = .next (s.setDie d { s.die d with pageWait := (s.die d).pageWait ++ [op] })) ∧
    (s.pageLeaf op = some l → s.pageBusy l = none → ∀ st, pageStatus op l = some st →
      exec (.pageOpSlotGrant die op) s = .next (s.post (answer (BitVec.ofNat 64 st)))) ∧
    (s.pageLeaf op = some l → s.pageBusy l = none → pageStatus op l = none →
      (∀ k, k < 4 → free k → (∀ j, j < k → ¬free j) → exec (.pageOpSlotGrant die op) s = .next (s.pageStart op l home k)) ∧
      ((∀ k, k < 4 → ¬free k) → exec (.pageOpSlotGrant die op) s = .next (if op.noWait then s.post (answer 4)
        else s.setDie home { s.die home with pageWait := (s.die home).pageWait ++ [op] })))

/-- R161, R174, R176: the status that PGMODE and PGMIG answer, over every pair of modes; `none` is a transition whose steps run.
A new frame where no memory exists is malformed (the model's choice, log 51). -/
def Claims.PageTransitionTable : Prop :=
  ∀ (op : PageOp) (l : Leaf),
    let die := bitsOf l.base 39 38
    let hbm := targetOf l.base = .hbm
    let known (a b : Nat) : Prop := (a, b) ∈ [(0, 1), (1, 0), (0, 2), (2, 0), (0, 4), (4, 0), (4, 3), (3, 4)]
    (op.migrate = false → op.mode ≤ 4 → op.mask < 16 →
      (op.mode = 2 → op.mask = 0 ∨ op.mask.testBit die = false → pageStatus op l = some 3) ∧
      (op.mode ≠ 2 → op.mask ≠ 0 → pageStatus op l = some 3) ∧
      ((op.mode = 2 ∧ op.mask.testBit die) ∨ (op.mode ≠ 2 ∧ op.mask = 0) →
        (¬hbm → pageStatus op l = some 2) ∧
        (hbm → l.mode = op.mode → (op.mode = 2 → l.mask = op.mask) → pageStatus op l = some 0) ∧
        (hbm → known l.mode op.mode → pageStatus op l = none) ∧
        (hbm → ¬known l.mode op.mode → (l.mode ≠ op.mode ∨ (op.mode = 2 ∧ l.mask ≠ op.mask)) → pageStatus op l = some 2))) ∧
    (op.migrate = true →
      let bad := hbmExists op.frame = false ∨ (l.big ∧ op.frame % 2 ^ 21 ≠ 0)
      (bad → pageStatus op l = some 3) ∧
      (¬bad → (l.mode ≠ 0 ∧ l.mode ≠ 1 ∧ l.mode ≠ 4) ∨ ¬hbm → pageStatus op l = some 2) ∧
      (¬bad → l.mode = 0 ∨ l.mode = 1 ∨ l.mode = 4 → hbm →
        pageStatus op l = if op.frame < l.base + l.size ∧ l.base < op.frame + l.size then some 5 else none))

/-- R97, R102, R170, R171, R421: the steps of a page operation: a sweep empties a core's pool cache of the page and, after the last core, the operation is completed;
the completion performs its data action, answers the instruction and replays what was held; a change out of HOSTOWN first asks the host
for every 64-byte half, at most 64 of them at a time, and ends with the last answer. An access refused by the full queue is counted and waits
twice as long, up to 4,096 cycles, for as long as the operation runs. That a core which sinks messages answers a sweep with nothing, and that a
refused access is sent again when the operation ends, is the model's choice (log 57), and so is that every half of a page that leaves HOSTOWN is
asked for and none before (log 19). -/
def Claims.PageOperationSteps : Prop :=
  ∀ (s : State) (die slot core wait : Nat) (r : PageRun) (h : Held) (half : Nat) (d : Option (BitVec 512)),
    ((s.die die).pages.find? slot = none → exec (.pageQueueRetry die slot wait h) s = .next s) ∧
    ((s.die die).pages.find? slot = some r →
      (h ∉ r.queue.drop 256 → exec (.pageQueueRetry die slot wait h) s = .next s) ∧
      (h ∈ r.queue.drop 256 → let n := min (2 * wait) 4096
        ∃ t, exec (.pageQueueRetry die slot wait h) s = .next t ∧ (t.die die).pqref = min ((s.die die).pqref + 1) 65535 ∧
          t.timers = s.timers ++ [(s.pcyc + n, .pageQueueRetry die slot n h)] ∧ t.mem = s.mem)) ∧
    ((s.die die).pages.find? slot = none → exec (.pageSweepAtCore die slot core) s = .next s ∧
      exec (.pageOpCompletion die slot) s = .next s ∧ exec (.bisnpResponse die slot half d) s = .next s) ∧
    ((s.die die).pages.find? slot = some r →
      let merge := r.op.migrate = false ∧ r.op.mode = 0 ∧ bitsOf r.leaf.toNat 61 59 = 1
      let bad := s.actMarked r
      let fin (u : State) (r : PageRun) : State := (u.pageAct r).2.pageFinish die slot r (u.pageAct r).1
      (∃ t, exec (.pageSweepAtCore die slot core) s = .next t ∧
        (s.coreGone core = false → ∀ e, e ∈ (t.core core).cache ↔ e ∈ (s.core core).cache ∧ r.inPage (128 * tagLine e.1) = false) ∧
        (s.coreGone core = true → (t.core core).cache = (s.core core).cache ∧ t.mem = s.mem) ∧
        (merge → t.mem = s.mem) ∧
        (r.waiting.filter (· ≠ core) = [] → t.pending.getLast? = some (.pageOpCompletion die slot))) ∧
      (r.op.migrate ∨ bitsOf r.leaf.toNat 61 59 ≠ 3 → exec (.pageOpCompletion die slot) s = .next (fin s { r with bad := bad })) ∧
      (r.op.migrate = false → bitsOf r.leaf.toNat 61 59 = 3 → ∃ t, exec (.pageOpCompletion die slot) s = .next t ∧
        t.snoops = s.snoops + min 64 (r.size / 64) ∧ t.pending.length = s.pending.length + min 64 (r.size / 64) ∧ t.mem = s.mem) ∧
      (half ∉ r.waiting → exec (.bisnpResponse die slot half d) s = .next s) ∧
      (half ∈ r.waiting → ∃ t, exec (.bisnpResponse die slot half d) s = .next t ∧
        let rest := r.waiting.filter (· ≠ half)
        (rest ≠ [] → t.snoops = s.snoops - 1 + (if 64 ≤ rest.length then 1 else 0) ∧
          (∀ v, d = some v → t.read (64 * half) 64 = v.toNat) ∧
          (t.die die).pages.find? slot = some { r with waiting := rest })))

/-- `Claims.PageOperationStarts`; `Claims.PageTransitionTable`; `Claims.PageOperationSteps` together. Each of these forms completes, at issue or with
the answer that its clause names, under conditions on the state and the operands alone: `pageOpSlotGrant`, `pageSweepAtCore`, `pageOpCompletion`,
`pageQueueRetry`, `bisnpResponse`. -/
def Obligations.PageOperations : Prop := Claims.PageOperationStarts ∧ Claims.PageTransitionTable ∧ Claims.PageOperationSteps

/-- R178, R179: PGQ, PGQ.L and PGQ.D complete at issue, with no trap for any address; an address that no valid leaf maps gives 0. -/
def Claims.PageQueries : Prop :=
  ∀ (s : State) (a b : R5),
    let c := s.me
    let va := (c.xr b).toNat
    let d := s.die (c.core / 8 / 32 / 16 * 2 + c.core / 8 % 32 / 16)
    CompletesLong (.pgq a b) s s a (BitVec.ofNat 64 (s.pgqWord c.asid va false)) ∧
    CompletesLong (.pgqL a b) s s a (BitVec.ofNat 64 (s.pgqWord c.asid va true)) ∧
    (2 ^ 53 ≤ va ∨ (∃ n, s.walk c.asid va = .error n) → s.pgqWord c.asid va false = 0 ∧ s.pgqWord c.asid va true = 0) ∧
    (∀ l, va < 2 ^ 53 → s.walk c.asid va = .ok l → targetOf l.base ≠ .hbm → s.pgqWord c.asid va true = 2 ^ 63) ∧
    CompletesLong (.pgqD a) s s a (BitVec.ofNat 64 ((if d.mcf then 2 ^ 63 else 0) +
      ((d.pages.map Prod.fst).foldl (fun m k => m ||| 2 ^ k) 0) * 2 ^ 32 + d.pqref * 2 ^ 16 + d.pqrec))

/-- `Claims.PageInstructions`; `Claims.PageQueries` together. Each of these forms completes, at issue or with the answer that its clause names, under
conditions on the state and the operands alone: `pgmode`, `pgmig`, `pgmodeCf`, `pgq`, `pgqL`, `pgqD`. -/
def Obligations.PageInstructionsAndQueries : Prop := Claims.PageInstructions ∧ Claims.PageQueries

/-! ## Conversions, statistics and vectors (09_numeric_formats.md, 10_vector.md) -/

/-- R206: VADD, VSUB and VMUL round the exact sum, difference or product of each lane pair once, in the mode `RM`, with one draw for each lane.
The sign of a zero or infinite product is the model's choice (log 84). -/
def Claims.VectorArithmetic : Prop :=
  ∀ (s : State) (f : F6) (a b d : R5) (mk : Option MaskOp),
    f.toNat < 3 →
    let c := s.me
    let fm := [fp32, bf16, fp16].getD f.toNat fp32
    let x (k : Nat) : FV := fm.decode ((c.vr b).extractLsb' (fm.w * k) fm.w).toNat
    let y (k : Nat) : FV := fm.decode ((c.vr d).extractLsb' (fm.w * k) fm.w).toNat
    let lanes (i : Instr) (v : Nat → FV) : Prop :=
      CompletesLanes i s fm.w a mk c.rm (512 / fm.w) fun k => c.rounded fm c.rm k (v k)
    lanes (.vadd f a b d mk) (fun k => FV.add c.rm (x k) (y k)) ∧ lanes (.vsub f a b d mk) (fun k => FV.add c.rm (x k) (y k).negate) ∧
    lanes (.vmul f a b d mk) fun k => FV.mul (x k) (y k)

/-- R207, R208, R209, R210: VFMA rounds `±(a × b) ± c` once; VMIN and VMAX choose, without rounding; VSGN replaces the sign; VRCP and VRSQ give the seed
of the correctly rounded reciprocal, whatever `RM`. -/
def Claims.VectorFusedMinMaxSignSeeds : Prop :=
  ∀ (s : State) (f : F6) (a b d : R5) (mk : Option MaskOp),
    f.toNat % 4 < 3 →
    let c := s.me
    let fm := [fp32, bf16, fp16].getD (f.toNat % 4) fp32
    let w := fm.w
    let p (r : R5) (k : Nat) : Nat := ((c.vr r).extractLsb' (w * k) w).toNat
    let x (r : R5) (k : Nat) : FV := fm.decode (p r k)
    let flip (k : Nat) : Bool := [fm.sign (p d k), !fm.sign (p d k), fm.sign (p b k) != fm.sign (p d k)].getD (f.toNat / 4) false
    (f.toNat < 16 → CompletesLanes (.vfma f a b d mk) s w a mk c.rm (512 / w) fun k => c.rounded fm c.rm k
      (fusedValue c.rm (f.toNat / 4) (x b k) (x d k) (x a k))) ∧
    (f.toNat < 8 →
      CompletesLanes (.vmin f a b d mk) s w a mk 0 0 (fun k => Elem.pattern fm (fm.round 0 0 (FV.minMax false (4 ≤ f.toNat) (x b k) (x d k)))) ∧
      CompletesLanes (.vmax f a b d mk) s w a mk 0 0 (fun k => Elem.pattern fm (fm.round 0 0 (FV.minMax true (4 ≤ f.toNat) (x b k) (x d k))))) ∧
    (f.toNat < 16 → CompletesLanes (.vsgn f a b d mk) s w a mk 0 0 fun k => Elem.pattern fm (if (x b k).isNan then fm.canonicalNan (flip k)
      else p b k % 2 ^ (w - 1) + (if flip k then 2 ^ (w - 1) else 0))) ∧
    (f.toNat < 3 →
      CompletesLanes (.vrcp f a b mk) s w a mk 0 0 (fun k => Elem.pattern fm (fm.seed (fm.round 0 0 (FV.div (.fin false 1 1) (x b k))))) ∧
      CompletesLanes (.vrsq f a b mk) s w a mk 0 0 (fun k => Elem.pattern fm (fm.seed (fm.round 0 0 (x b k).rsqrt))))

/-- `Claims.VectorArithmetic`; `Claims.VectorFusedMinMaxSignSeeds` together. Each of these forms completes, at issue or with the answer that its
clause names, under conditions on the state and the operands alone: `vadd`, `vsub`, `vmul`, `vfma`, `vmin`, `vmax`, `vsgn`, `vrcp`, `vrsq`. -/
def Obligations.VectorArithmeticAndFused : Prop := Claims.VectorArithmetic ∧ Claims.VectorFusedMinMaxSignSeeds

/-- R65, R188, R189, R201, R206: VSQRT, VDIV, VEXP2 and VLOG2 are long: the vector returns 20 or 16 cycles after issue, flags and draws act at issue,
and the result, when it comes, writes v[`A`] and clears its pending bit, in the image too where the thread is no longer resident (R381).
The sign of a zero or infinite quotient is the model's choice (log 84). -/
def Claims.LongFunctions : Prop :=
  ∀ (s : State) (f : F6) (a b d : R5) (mk : Option MaskOp) (tid : Nat) (v : Vec),
    f.toNat < 3 →
    let c := s.me
    let fm := [fp32, bf16, fp16].getD f.toNat fp32
    let x (r : R5) (k : Nat) : FV := fm.decode (c.lane fm.w r k)
    let late (i : Instr) (n : Nat) (r : Nat → FV) : Prop :=
      let e (k : Nat) : Elem := c.rounded fm c.rm k (r k)
      CompletesFrom i s (s.at (s.pcyc + n + 1) (.longFunctionResult s.cur a (c.maskedVec fm.w a mk e)))
        (fun x => ((x.raiseAll (c.activeElems fm.w mk e)).stepSr c.rm (512 / fm.w)).pendV a) []
    late (.vsqrt f a b mk) 20 (fun k => (x b k).sqrt) ∧ late (.vdiv f a b d mk) 20 (fun k => (x b k).div (x d k)) ∧
    late (.vexp2 f a b mk) 16 (fun k => (x b k).exp2) ∧ late (.vlog2 f a b mk) 16 (fun k => (x b k).log2) ∧
    ∃ t, exec (.longFunctionResult tid a v) s = .next (t.syncImage tid) ∧ Differs s t tid ((s.ctx tid).landV a v) []

/-- R211: VCMP writes a mask from a lane-wise comparison: NaN compares unequal and unordered, integers are signed but for LTU and GEU, inactive
lanes keep their bit or clear it, and the bits above the lanes are zero. -/
def Claims.VectorCompare : Prop :=
  ∀ (s : State) (f : F6) (a b d : R5) (mk : Option MaskOp),
    f.toNat % 8 < 7 →
    let c := s.me
    let t := f.toNat % 8
    let w := [32, 16, 16, 32, 16, 8, 64].getD t 0
    let fm := [fp32, bf16, fp16].getD t fp32
    let p (k : Nat) : BitVec w := (c.vr b).extractLsb' (w * k) w
    let q (k : Nat) : BitVec w := (c.vr d).extractLsb' (w * k) w
    let x (k : Nat) : FV := fm.decode (p k).toNat
    let y (k : Nat) : FV := fm.decode (q k).toNat
    let un (k : Nat) : Bool := (x k).isNan || (y k).isNan
    let fp (k : Nat) : Bool := [!un k && (x k).eq (y k), un k || !(x k).eq (y k), !un k && (x k).lt (y k), !un k && !(y k).lt (x k),
      !un k && (y k).lt (x k), !un k && !(x k).lt (y k), un k, !un k].getD (f.toNat / 8) false
    let int (k : Nat) : Bool := [p k == q k, p k != q k, (p k).slt (q k), (p k).sle (q k), (q k).slt (p k), (q k).sle (p k), (p k).ult (q k),
      (q k).ule (p k)].getD (f.toNat / 8) false
    ∃ m : Mask, Completes (.vcmp f a b d mk) s (·.setK a m) ∧ ∀ k, k < 128 → m.getLsbD k =
      (decide (k < 512 / w) && if c.active mk k then (if t < 3 then fp k else int k) else !mk.any MaskOp.zero && (c.kr a).getLsbD k)

/-- R212, R213, R214, R216 to R220: the lane moves and bit operations: VSEL, VLOGIC, VSHIFT, VBCAST, VEXT, VINS, VPERM, VSHUF and VLI. -/
def Claims.VectorLaneMoves : Prop :=
  ∀ (s : State) (f : F6) (a b d : R5) (i : BitVec 32) (o : Op2) (mk : Option MaskOp),
    let c := s.me
    let wide (code : Nat) : Nat := [32, 16, 8, 64].getD (code % 4) 0
    let w := wide f.toNat
    let n := 512 / w
    let l (w : Nat) (r : R5) (k : Nat) : BitVec w := (c.vr r).extractLsb' (w * k) w
    let j : Nat := (match o with
      | .reg r => (c.xr r).toNat % n
      | .imm k => k.toNat)
    (f.toNat < 16 → CompletesBits (.vsel f a b d) s (wide (f.toNat / 4)) a none fun k =>
      if (c.kr (BitVec.ofNat 5 (f.toNat % 4))).getLsbD k then l (wide (f.toNat / 4)) b k else l (wide (f.toNat / 4)) d k) ∧
    (f.toNat < 16 → CompletesBits (.vlogic f a b d mk) s 32 a mk fun k => BitVec.ofNat 32 (ofLanes 1 ((List.range 32).map fun e =>
      (f.toNat.testBit (2 * ((l 32 b k).getLsbD e).toNat + ((l 32 d k).getLsbD e).toNat)).toNat))) ∧
    (f.toNat < 16 → CompletesBits (.vshift f a b o mk) s w a mk fun k =>
      let m := match o with
        | .reg r => (l w r k).toNat
        | .imm k => k.toNat
      let x := l w b k
      match f.toNat / 4 with
      | 0 => x <<< m
      | 1 => x >>> m
      | 2 => x.sshiftRight m
      | _ => x.rotateLeft m) ∧
    (f.toNat < 8 → CompletesBits (.vbcast f a b o mk) s w a mk fun _ => if f.getLsbD 2 then (c.xr b).setWidth w else l w b j) ∧
    (f.toNat < 8 → Completes (.vext f a b o) s (·.setX a (if f.getLsbD 2 then (l w b j).signExtend 64 else (l w b j).setWidth 64))) ∧
    (f.toNat < 4 → CompletesBits (.vins f a b o) s w a none fun k => if k = j then (c.xr b).setWidth w else l w a k) ∧
    (f.toNat < 4 → CompletesBits (.vperm f a b d mk) s w a mk fun k =>
      let t := (l w d k).toNat % (2 * n)
      if t < n then l w b t else l w a (t - n)) ∧
    (f.toNat < 24 → CompletesBits (.vshuf f a b d mk) s w a mk fun k => match f.toNat / 4 with
      | 0 => if k % 2 = 1 then l w d (k / 2) else l w b (k / 2)
      | 1 => if k % 2 = 1 then l w d (k / 2 + n / 2) else l w b (k / 2 + n / 2)
      | 2 => if k < n / 2 then l w b (2 * k) else l w d (2 * (k - n / 2))
      | 3 => if k < n / 2 then l w b (2 * k + 1) else l w d (2 * (k - n / 2) + 1)
      | 4 => l w b (n - 1 - k)
      | _ => l w b (k ^^^ 1)) ∧
    (f.toNat < 4 → CompletesBits (.vli f a i mk) s w a mk fun _ => (i.signExtend 64).setWidth w) ∧
    CompletesBits (.vli 4 a i mk) s 32 a mk fun _ => (i.setWidth 16) ++ 0#16

/-- R215: VIOP over every width: wrapping, high-half, minimum, maximum, saturating, absolute and averaging lanes; only the saturating rows set
`SATS`, when they clamp. -/
def Claims.VectorIntegerOps : Prop :=
  ∀ (s : State) (f : F6) (a b d : R5) (mk : Option MaskOp),
    f.toNat < 60 →
    let c := s.me
    let w := [32, 16, 8, 64].getD (f.toNat % 4) 0
    let x (k : Nat) : BitVec w := (c.vr b).extractLsb' (w * k) w
    let y (k : Nat) : BitVec w := (c.vr d).extractLsb' (w * k) w
    let clamp (lo hi v : Int) : Elem := { bits := (BitVec.ofInt w (max lo (min hi v))).toNat, sat := decide (v < lo ∨ hi < v) }
    let plain (v : BitVec w) : Elem := { bits := v.toNat }
    let top : Int := 2 ^ (w - 1)
    CompletesLanes (.viop f a b d mk) s w a mk 0 0 fun k =>
      let p := x k
      let q := y k
      match f.toNat / 4 with
      | 0 => plain (p + q)
      | 1 => plain (p - q)
      | 2 => plain (p * q)
      | 3 => plain (BitVec.ofInt w (p.toInt * q.toInt / 2 ^ w))
      | 4 => plain (BitVec.ofNat w (p.toNat * q.toNat / 2 ^ w))
      | 5 => plain (if p.sle q then p else q)
      | 6 => plain (if p.sle q then q else p)
      | 7 => plain (if p ≤ q then p else q)
      | 8 => plain (if p ≤ q then q else p)
      | 9 => clamp (-top) (top - 1) (p.toInt + q.toInt)
      | 10 => clamp (-top) (top - 1) (p.toInt - q.toInt)
      | 11 => clamp 0 (2 * top - 1) (p.toNat + q.toNat)
      | 12 => clamp 0 (2 * top - 1) ((p.toNat : Int) - q.toNat)
      | 13 => plain (if p.msb then -p else p)
      | _ => plain (BitVec.ofNat w ((p.toNat + q.toNat + 1) / 2))

/-- `Claims.VectorLaneMoves`; `Claims.VectorIntegerOps` together. Each of these forms completes, at issue or with the answer that its clause names,
under conditions on the state and the operands alone: `vsel`, `vlogic`, `vshift`, `vbcast`, `vext`, `vins`, `vperm`, `vshuf`, `vli`, `viop`. -/
def Obligations.LaneMovesAndInteger : Prop := Claims.VectorLaneMoves ∧ Claims.VectorIntegerOps

/-- R221, R222: VRED reduces the active lanes in a fixed tree, inactive lanes standing for the identity; VDOT adds to each FP32 or 32-bit lane the
products of its group.
The sign of a sum that is exactly zero is the model's choice (log 85). -/
def Claims.VectorReductions : Prop :=
  ∀ (s : State) (f : F6) (a b d : R5) (mk : Option MaskOp),
    let c := s.me
    let w := [32, 16, 8, 64].getD (f.toNat % 4) 0
    let on (k : Nat) : Bool := c.active mk k
    let x (k : Nat) : BitVec w := (c.vr b).extractLsb' (w * k) w
    let act : List (BitVec w) := ((List.range (512 / w)).filter on).map x
    let fm := [fp32, bf16, fp16].getD (f.toNat % 4) fp32
    (12 ≤ f.toNat → f.toNat < 16 → Completes (.vred f a b mk) s (·.setX a ((act.foldl (· + ·) 0).signExtend 64))) ∧
    (16 ≤ f.toNat → f.toNat < 20 → Completes (.vred f a b mk) s
      (·.setX a (BitVec.ofInt 64 (act.foldl (fun m v => min m v.toInt) (2 ^ (w - 1) - 1))))) ∧
    (20 ≤ f.toNat → f.toNat < 24 → Completes (.vred f a b mk) s (·.setX a (BitVec.ofInt 64 (act.foldl (fun m v => max m v.toInt) (-2 ^ (w - 1)))))) ∧
    (24 ≤ f.toNat → f.toNat < 28 → Completes (.vred f a b mk) s (·.setX a (BitVec.ofNat 64 (act.foldl (fun m v => min m v.toNat) (2 ^ w - 1))))) ∧
    (28 ≤ f.toNat → f.toNat < 32 → Completes (.vred f a b mk) s (·.setX a (BitVec.ofNat 64 (act.foldl (fun m v => max m v.toNat) 0)))) ∧
    (f.toNat < 12 → f.toNat % 4 < 3 →
      let n := 512 / fm.w
      let leaves := (List.range n).map fun k => (⟨if on k then fp32.round 0 0 (fm.decode (c.lane fm.w b k))
        else [0x80000000, 0xFF800000, 0x7F800000].getD (f.toNat / 4) 0, false⟩ : RedNode)
      ∃ r, treeReduce (c.redCombine (f.toNat / 4)) 6 0 leaves = [r] ∧ Completes (.vred f a b mk) s (fun c =>
        ((c.setX a (BitVec.ofNat 64 r.bits)).setNfs (r.nf || fp32.nonfinite r.bits)).stepSr (if f.toNat < 4 then c.rm else 0) (n - 1))) ∧
    CompletesBits (.vdot 4 a b d mk) s 32 a mk (fun k => (List.range 4).foldl (fun (t : BitVec 32) j =>
      t + ((c.vr b).extractLsb' (32 * k + 8 * j) 8).signExtend 32 * ((c.vr d).extractLsb' (32 * k + 8 * j) 8).signExtend 32)
      ((c.vr a).extractLsb' (32 * k) 32)) ∧
    (f.toNat < 4 →
      let fm := [bf16, fp16, e4m3, e5m2].getD f.toNat bf16
      let g := 32 / fm.w
      CompletesLanes (.vdot f a b d mk) s 32 a mk c.rm 16 fun k => c.rounded fp32 c.rm k (dotValue c.rm
        ((List.range g).map fun j => (fm.decode (c.lane fm.w b (g * k + j)), fm.decode (c.lane fm.w d (g * k + j))))
        (fp32.decode (c.lane 32 a k))))

/-- R223, R224: KLOG by a truth table; KMOV's moves between masks and scalars, its count and its lowest index. -/
def Claims.MaskInstructions : Prop :=
  ∀ (s : State) (f : F6) (a b d : R5),
    let c := s.me
    let m := c.kr b
    let ones := (List.range 128).filter m.getLsbD
    (f.toNat < 16 → ∃ v : Mask, Completes (.klog f a b d) s (·.setK a v) ∧
      ∀ i, i < 128 → v.getLsbD i = f.toNat.testBit (2 * (m.getLsbD i).toNat + ((c.kr d).getLsbD i).toNat)) ∧
    Completes (.kmov 0 a b) s (·.setK a m) ∧ Completes (.kmov 1 a b) s (·.setX a (m.setWidth 64)) ∧
    Completes (.kmov 2 a b) s (·.setX a ((m >>> 64).setWidth 64)) ∧
    Completes (.kmov 3 a b) s (·.setK a (((c.kr a >>> 64).setWidth 64 : Word) ++ c.xr b)) ∧
    Completes (.kmov 4 a b) s (·.setK a (c.xr b ++ ((c.kr a).setWidth 64 : Word))) ∧
    Completes (.kmov 5 a b) s (·.setX a (BitVec.ofNat 64 ones.length)) ∧
    Completes (.kmov 6 a b) s (·.setX a (BitVec.ofNat 64 (ones.headD 128)))

/-- `Claims.VectorCompare`; `Claims.MaskInstructions` together. Each of these forms completes, at issue or with the answer that its clause names,
under conditions on the state and the operands alone: `vcmp`, `klog`, `kmov`. -/
def Obligations.CompareAndMasks : Prop := Claims.VectorCompare ∧ Claims.MaskInstructions

/-- R187, R192: the conversions of VCVT: FP32 pairs to 16-bit formats and to 8-bit halves, widenings, integers, and saturating narrowings. -/
def Claims.Conversions : Prop :=
  ∀ (s : State) (f : F6) (a b d : R5),
    let c := s.me
    let sat := f.getLsbD 5
    let p (w : Nat) (r : R5) (k : Nat) : Nat := ((c.vr r).extractLsb' (w * k) w).toNat
    let i (w : Nat) (r : R5) (k : Nat) : Int := ((c.vr r).extractLsb' (w * k) w).toInt
    let pair (k : Nat) : FV := fp32.decode (if k < 16 then p 32 b k else p 32 d (k - 16))
    let shape (n w e : Nat) (v : Nat → Elem) : Prop :=
      f.toNat = n ∨ (f.toNat = n + 32 ∧ n ∈ [0, 1, 6, 7, 8, 9, 22, 23]) → CompletesLanes (.vcvt f a b d) s w a none c.rm e v
    let widen (n : Nat) (fm : Fmt) (k0 : Nat) : Prop := f.toNat = n → CompletesLanes (.vcvt f a b d) s 32 a none 0 0
      fun k => Elem.pattern fp32 (fp32.round 0 0 (fm.decode (p fm.w b (k0 + k))))
    let narrow (n w : Nat) (signed : Bool) : Prop := f.toNat = n → CompletesLanes (.vcvt f a b d) s w a none 0 0 fun k =>
      let r := if k < 256 / w then b else d
      let k := if k < 256 / w then k else k - 256 / w
      let v : Int := if signed then i (2 * w) r k else p (2 * w) r k
      let lo : Int := if signed then -2 ^ (w - 1) else 0
      let hi : Int := if signed then 2 ^ (w - 1) - 1 else 2 ^ w - 1
      { bits := (BitVec.ofInt w (max lo (min hi v))).toNat, sat := decide (v < lo ∨ hi < v) }
    let eighth (n : Nat) (fm : Fmt) (h : Nat) : Prop := f.toNat = n ∨ f.toNat = n + 32 → ∃ v : Vec,
      Completes (.vcvt f a b d) s (fun x => ((x.setV a v).raiseAll ((List.range 32).map fun k => c.converted fm sat c.rm k (pair k))).stepSr c.rm 32) ∧
      ∀ k, k < 64 → (v.extractLsb' (8 * k) 8).toNat = if k / 32 = h then (c.converted fm sat c.rm (k % 32) (pair (k % 32))).bits % 256 else p 8 a k
    shape 0 16 32 (fun k => c.converted bf16 sat c.rm k (pair k)) ∧ shape 1 16 32 (fun k => c.converted fp16 sat c.rm k (pair k)) ∧
    widen 2 bf16 0 ∧ widen 3 bf16 16 ∧ widen 4 fp16 0 ∧ widen 5 fp16 16 ∧ eighth 6 e4m3 0 ∧ eighth 7 e4m3 1 ∧ eighth 8 e5m2 0 ∧ eighth 9 e5m2 1 ∧
    widen 10 e4m3 0 ∧ widen 11 e4m3 16 ∧ widen 12 e4m3 32 ∧ widen 13 e4m3 48 ∧
    widen 14 e5m2 0 ∧ widen 15 e5m2 16 ∧ widen 16 e5m2 32 ∧ widen 17 e5m2 48 ∧
    shape 18 32 16 (fun k => c.convertedInt 32 true c.rm k (pair k)) ∧ shape 19 32 16 (fun k => c.rounded fp32 c.rm k (FV.ofInt (i 32 b k))) ∧
    shape 20 32 16 (fun k => c.rounded fp32 c.rm k (FV.ofInt (p 32 b k))) ∧ shape 21 32 16 (fun k => c.convertedInt 32 false c.rm k (pair k)) ∧
    shape 22 16 32 (fun k => c.converted bf16 sat c.rm k (fp16.decode (p 16 b k))) ∧
    shape 23 16 32 (fun k => c.converted fp16 sat c.rm k (bf16.decode (p 16 b k))) ∧
    narrow 24 16 true ∧ narrow 25 8 true ∧ narrow 26 16 false ∧ narrow 27 8 false ∧
    (f.toNat = 28 → CompletesBits (.vcvt f a b d) s 32 a none fun k => BitVec.ofInt 32 (i 16 b k)) ∧
    (f.toNat = 29 → CompletesBits (.vcvt f a b d) s 32 a none fun k => BitVec.ofInt 32 (i 16 b (k + 16))) ∧
    (f.toNat = 30 → CompletesBits (.vcvt f a b d) s 16 a none fun k => BitVec.ofInt 16 (i 8 b k)) ∧
    (f.toNat = 31 → CompletesBits (.vcvt f a b d) s 16 a none fun k => BitVec.ofInt 16 (i 8 b (k + 32)))

/-- R193 to R195: VSR rounds FP32 lanes through a narrower format; VQNT.X raises a block scale over the lanes of v[`B`]; VQNT quantises 16 lanes into one
64-bit slot of v[`A`], with `SATS`; VDQ expands one. -/
def Claims.BlockQuantisation : Prop :=
  ∀ (s : State) (f : F6) (a b d : R5),
    let c := s.me
    let p (k : Nat) : Nat := ((c.vr b).extractLsb' (32 * k) 32).toNat
    let m := if f.getLsbD 4 then 4 else c.rm
    let fm := Fmt.ofCode (f.toNat % 8)
    let t := f.toNat % 4
    let e := ((c.xr d).setWidth 6).toNat
    let q (k : Nat) : Nat × Bool := nxQuantise t e c.rm (c.rnd c.rm k) (fp32.decode (p k))
    (f.toNat % 8 = 0 → CompletesLanes (.vsr f a b) s 32 a none 0 0 fun k => Elem.pattern fp32 (fp32.round 0 0 (fp32.decode (p k)))) ∧
    (f.toNat % 8 ≠ 0 → CompletesLanes (.vsr f a b) s 32 a none m 16 fun k =>
      let r := c.converted fm (f.getLsbD 3) m k (fp32.decode (p k))
      { bits := fp32.round 0 0 (fm.decode r.bits), nf := r.nf, sat := r.sat }) ∧
    Completes (.vqntX f a b d) s (·.setX a (BitVec.ofNat 64 (t * 64 + ((List.range 16).map fun k => fp32.decode (p k)).foldl (scaleStep t) e))) ∧
    (f.toNat < 32 → ∃ v : Vec, Completes (.vqnt f a b d) s (fun x => ((x.setV a v).setSats ((List.range 16).any fun k => (q k).2)).stepSr c.rm 16) ∧
      (∀ k, k < 16 → (v.extractLsb' (64 * (f.toNat / 4) + 4 * k) 4).toNat = (q k).1 % 16) ∧
      ∀ k, k < 8 → k ≠ f.toNat / 4 → v.extractLsb' (64 * k) 64 = (c.vr a).extractLsb' (64 * k) 64) ∧
    CompletesLanes (.vdq f a b d) s 32 a none 0 0 fun k => Elem.pattern fp32 (fp32.round 0 0 (nxDecode ((c.xr d).setWidth 8).toNat
      ((c.vr b).extractLsb' (64 * (f.toNat / 4) + 4 * k) 4).toNat))

/-- `Claims.LongFunctions`; `Claims.Conversions`; `Claims.BlockQuantisation` together. Each of these forms completes, at issue or with the answer that
its clause names, under conditions on the state and the operands alone: `vsqrt`, `vdiv`, `vexp2`, `vlog2`, `longFunctionResult`, `vcvt`, `vsr`,
`vqntX`, `vqnt`, `vdq`. -/
def Obligations.LongVectorAndConversion : Prop := Claims.LongFunctions ∧ Claims.Conversions ∧ Claims.BlockQuantisation

/-- R196 to R199: VHIST waits for the cell's unit, which applies it only to a slot of the issuer's space; HREAD, HREAD.C and HREAD.INIT complete at
once: an item of the slot, the item cleared, the slot taken over. -/
def Claims.Statistics : Prop :=
  ∀ (s : State) (f : F6) (a b d : R5) (i : BitVec 32) (tid cell asid slot fmt : Nat) (v : Vec),
    let c := s.me
    let own := c.core / 8
    let k := ((c.xr b).setWidth 4).toNat
    let t := s.statSlot own k
    let u := s.statSlot cell slot
    let values : List FV := if fmt = 0 then (List.range 16).map fun k => fp32.decode ((v.extractLsb' (32 * k) 32).toNat)
      else (List.range 32).map fun k => (Fmt.ofCode fmt).decode ((v.extractLsb' (16 * k) 16).toNat)
    WaitsFrom (.vhist f b d) s s .statistics c.stage [.vhistGrant s.cur own c.asid ((c.xr d).setWidth 4).toNat f.toNat (c.vr b)] ∧
    (∃ r, exec (.vhistGrant tid cell asid slot fmt v) s = .next r ∧ Differs (if u.owner = some asid
      then s.setStat cell slot (values.foldl StatSlot.count u) else s) r tid (s.ctx tid).advance []) ∧
    Completes (.hread a b i) s (·.setX a (if t.owner = some c.asid then t.item i.toNat else 0)) ∧
    (t.owner = some c.asid → CompletesFrom (.hreadC a b i) s (s.setStat own k (t.clearItem i.toNat)) (·.setX a (t.item i.toNat)) []) ∧
    (t.owner ≠ some c.asid → Completes (.hreadC a b i) s (·.setX a 0)) ∧
    CompletesFrom (.hreadInit a b i) s (s.setStat own k ⟨some c.asid, i.toInt, [], 0, 0, 0⟩) (·.setX a 0) []

/-- `Claims.VectorReductions`; `Claims.Statistics` together. Each of these forms completes, at issue or with the answer that its clause names, under
conditions on the state and the operands alone: `vred`, `vdot`, `vhist`, `vhistGrant`, `hread`, `hreadC`, `hreadInit`. -/
def Obligations.ReductionsAndStatistics : Prop := Claims.VectorReductions ∧ Claims.Statistics

/-! ## Versioned tiles (11_versioned_tiles.md) -/

/-- R65, R225 to R228, R264: both forms complete: TDECL is a load of the 32 bytes of the descriptor, whose long result is the status: 1 for a
descriptor that is not valid, 2 for one that differs from the array's, 5 for a full directory, and 0 otherwise, the array then being entered;
TDECL.U answers 4 for an array not declared and 3 while a version lives, else it leaves the directory and every cell drops it before the
instruction completes with 0. -/
def Claims.Declarations : Prop :=
  ∀ (s : State) (a b : R5) (tid cell asid arr : Nat) (bs : List Byte),
    let c := s.me
    let owner := (s.ctx tid).asid
    let d := descOf bs
    let k := directorySlice owner d.aid
    let aid := (c.xr b).toNat % 65536
    let h := directorySlice c.asid aid
    let live := s.slices.any fun e => e.2.mint.any fun m => m.key.asid == c.asid && m.key.arr == aid && m.st.live
    let lands (u : State) (w : Word) : Prop := ∃ t, exec (.longResultArrival (Reply.of tid [.decl a bs] false)) s = .next (t.syncImage tid) ∧
      Differs u t tid ((s.ctx tid).landX a w) []
    (∀ t, s.place c { n := 32, r := true, rdup := true } 0 (c.xr b) 0 = .error (.trap t) → Traps (.tdecl a b) s t) ∧
    (∀ p, s.place c { n := 32, r := true, rdup := true } 0 (c.xr b) 0 = .ok p →
      let t := s.settle c.core c.asid false p
      let bound := (List.range 4).map fun i =>
        t.bindCached t.me.core { p.lane with pa := p.lane.pa + 8 * i, va := p.lane.va + 8 * i, n := 8, idx := i }
      let req (parked : Bool) : MemReq := ⟨t.src, bound, .decl a, true, parked⟩
      let u := ((bound.filter fun l => l.kmask != 0).map laneTag).dedup.foldl (fun s k => s.touchLine t.me.core k) t
      exec (.tdecl a b) s = .next (if (match p.target with | .remote _ => true | _ => false) then (u.parkMe .reply).routeLoad (req true) true
        else (u.finish (·.pendX a)).routeLoad (req false) true)) ∧
    (s.descValid owner bs = false → lands s 1) ∧
    (s.descValid owner bs → ∀ e, s.declared owner d.aid = some e → lands s (if e = d then 0 else 2)) ∧
    (s.descValid owner bs → s.declared owner d.aid = none → Config.directoryEntries ≤ (s.slice k).arrays.length → lands s 5) ∧
    (s.descValid owner bs → s.declared owner d.aid = none → (s.slice k).arrays.length < Config.directoryEntries →
      lands (s.setSlice k { s.slice k with arrays := (s.slice k).arrays ++ [(owner, d)] }) 0) ∧
    (c.stage = 1 → Completes (.tdeclU a b) s (·.setX a 0)) ∧
    (c.stage = 0 → s.declared c.asid aid = none → CompletesLong (.tdeclU a b) s s a 4) ∧
    (c.stage = 0 → (s.declared c.asid aid).isSome → live → CompletesLong (.tdeclU a b) s s a 3) ∧
    (c.stage = 0 → (s.declared c.asid aid).isSome → live = false →
      let u := s.setSlice h { s.slice h with arrays := (s.slice h).arrays.filter fun e => !(e.1 == c.asid && e.2.aid == aid) }
      ∃ t, exec (.tdeclU a b) s = .next t ∧ Differs u t s.cur { c with park := some .reply, parkSince := none, midway := true, stage := 1, awaits := Config.cells }
        ((List.range Config.cells).map fun n => .descriptorDropAtCell s.cur n c.asid aid)) ∧
    (let u := ((s.setCell cell { s.cell cell with descs := (s.cell cell).descs.filter fun e => !(e.1 == asid && e.2.aid == arr) }).forgetArray
        (2 * cell) asid arr).forgetArray (2 * cell + 1) asid arr
      let v := u.modCtx tid fun c => { c with awaits := c.awaits - 1 }
      exec (.descriptorDropAtCell tid cell asid arr) s = .next (if (v.ctx tid).awaits = 0 then v.wakeAgain tid else v))

/-- R230: an instruction that names a tile by key raises `ADDR_SPACE`, code 8, when the array is not declared, and code 7 when the tile row or column
lies outside its grid, with the key packed in `FLTADDR`; nothing else happens. One that is past its key phase keeps the descriptor it read
(R228). -/
def Claims.KeyPhaseTraps : Prop :=
  ∀ (s : State) (f : F6) (a : R5) (ko : KeyOp),
    let c := s.me
    let ver : Nat := (match ko.ver with
      | .imm v => v.toNat
      | .reg e => (c.xr e).toNat % 2 ^ 24)
    let k : Key := ⟨c.asid, (c.xr ko.b).toNat % 65536, (c.xr ko.c).toNat, (c.xr ko.d).toNat, ver⟩
    let packed : Word := BitVec.ofNat 64 (k.arr * 2 ^ 48 + k.i % 4096 * 2 ^ 36 + k.j % 4096 * 2 ^ 24 + k.ver)
    let each (t : Trap) : Prop := Traps (.tld a ko) s t ∧ Traps (.tst a ko) s t ∧ Traps (.tdrop ko) s t ∧ Traps (.tdropAll ko) s t ∧
      Traps (.tqry a ko) s t ∧ Traps (.twait a ko) s t ∧ Traps (.tstv f a ko) s t
    c.keyReq = none →
    (s.lookupDesc (c.core / 8) c.asid k.arr = none → each ⟨0x07, 8, 0, packed⟩) ∧
    (∀ d u, s.lookupDesc (c.core / 8) c.asid k.arr = some (d, u) → d.gi < k.i ∨ d.gj < k.j → each ⟨0x07, 7, 0, packed⟩) ∧
    ∀ q : KeyReq, q.key.arr = k.arr → (∀ d, q.use ≠ .snap d) → s.keyPhase { c with keyReq := some q } k = .ok (q.desc, s)

/-- `Claims.Declarations`; `Claims.KeyPhaseTraps` together. Each of these forms completes, at issue or with the answer that its clause names, under
conditions on the state and the operands alone: `tdecl`, `tdeclU`, `descriptorDropAtCell`. -/
def Obligations.DeclarationsAndKeyTraps : Prop := Claims.Declarations ∧ Claims.KeyPhaseTraps

/-- R236, R239, R240, R244, R245: TLD, TDROP, TDROP.ALL, TQRY and TWAIT of an array of this device, once the key phase has passed: the request goes to
the key's home; when the reference is there TLD binds its handle, and a drop is complete; TQRY is a long result; TWAIT parks under the park
limit, its deadline counted from issue, and a timer ends it. -/
def Claims.VersionRequests : Prop :=
  ∀ (s u : State) (a : R5) (ko : KeyOp) (d : Desc),
    let c := s.me
    let k := (c.keyOf ko).1
    s.keyPhase c k = .ok (d, u) → u.me = c → u.cur = s.cur → d.remote = false → c.reverseOn d = false →
    let since := (c.keyReq.map KeyReq.since).getD u.ticks
    let q (use : KeyUse) : KeyReq := ⟨u.src, k, descHome d k.i k.j, d, use, 0, since, c.rcb.toNat, c.asid, none⟩
    let r : Ref := ⟨u.serial, k, descHome d k.i k.j, none, d.rows, d.cols, d.fmt, d.blk, d.diff⟩
    let w : KeyUse := .twait a (if c.xr a = 0 then none else some (u.ticks + (c.xr a).toNat))
    (c.stage = 0 → AsksMint (.tld a ko) s u 1 (q (.tld a)) (.mintReference (q (.tld a)))) ∧
    (c.stage = 1 → exec (.tld a ko) s = .next (State.done (State.bindHandle { u with serial := u.serial + 1 } u.cur a (.version r)))) ∧
    (c.stage = 0 → AsksMint (.tdrop ko) s u 1 (q (.tdrop false)) (.mintDrop (q (.tdrop false)))) ∧
    (c.stage = 0 → AsksMint (.tdropAll ko) s u 1 (q (.tdrop true)) (.mintDrop (q (.tdrop true)))) ∧
    (c.stage = 1 → CompletesFrom (.tdrop ko) s u id [] ∧ CompletesFrom (.tdropAll ko) s u id []) ∧
    (c.stage = 0 → CompletesFrom (.tqry a ko) s u (·.pendX a) [.mintReference (q (.tqry a))]) ∧
    let p := u.parkCounted .version
    let p := if c.xr a = 0 then p else p.at (((u.ticks + (c.xr a).toNat) * 33 + 9) / 10 + 1) (.versionWakeArrival u.cur 1)
    exec (.twait a ko) s = .next ((p.setMe { p.me with keyReq := some (q w), stage := 1 }).post (.mintReference (q w)))

/-- R241, R243: TST and TSTV of an array of this device, forward: first the key is reserved; then TST's handle is forced whole and TSTV's registers
are gathered, and the version is created; then the instruction is complete. A handle of another shape is refused with code 9. -/
def Claims.VersionStores : Prop :=
  ∀ (s u : State) (f : F6) (a : R5) (ko : KeyOp) (d : Desc),
    let c := s.me
    let k := (c.keyOf ko).1
    s.keyPhase c k = .ok (d, u) → u.me = c → u.cur = s.cur → u.ticks = s.ticks → d.remote = false → c.reverseOn d = false →
    let q : KeyReq := ⟨u.src, k, descHome d k.i k.j, d, .tst, (c.keyOf ko).2, (c.keyReq.map KeyReq.since).getD s.ticks, c.rcb.toNat, c.asid, none⟩
    (∀ b sh, c.target? a = some (b, sh) →
      (sh ≠ ⟨d.rows, d.cols, d.fmt, d.blk⟩ → exec (.tst a ko) s = .next (u.trap u.cur ⟨0x07, 9, 0, keyPacked k⟩)) ∧
      (sh = ⟨d.rows, d.cols, d.fmt, d.blk⟩ →
        (c.stage = 0 → AsksMint (.tst a ko) s u 1 q (.mintReserve q)) ∧
        (c.stage = 1 → c.force = none → Forces (.tst a ko) s u 1 a.toNat b ⟨0, d.rows - 1, 0, d.cols - 1⟩) ∧
        (∀ g, c.stage = 1 → Forced s g → let e : Event := .mintCreate q (bytesOfElems d.fmt d.rows d.cols d.blk g)
          AsksMint (.tst a ko) s u 2 q e) ∧
        (c.stage = 2 → CompletesFrom (.tst a ko) s u id []))) ∧
    (c.target? a = none → exec (.tst a ko) s = .next (u.trap u.cur (c.opTrap 0x02 3))) ∧
    ((d.fmt = 5 → a.toNat + (f.toNat + 1) ≤ 7 ∧ c.vPend.getLsbD (a.toNat + (f.toNat + 1)) = false) → c.vPois = [] →
      (c.stage = 0 → AsksMint (.tstv f a ko) s u 1 q (.mintReserve q)) ∧
      (c.stage = 1 → AsksMint (.tstv f a ko) s u 2 q (.mintCreate q (tstvBytes d c a.toNat (f.toNat + 1)))) ∧
      (c.stage = 2 → CompletesFrom (.tstv f a ko) s u id []))

/-- R65, R246, R247, R257, R260: TGET completes once the force of the rows or the rectangle that its run spans is done: its registers are pending,
and their values on their way as long results; TUNP unpacks 4-bit codes. -/
def Claims.TileReads : Prop :=
  ∀ (s : State) (f : F6) (a b p q : R5) (base : Base) (sh : Shape),
    let c := s.me
    let n := f.toNat % 8 + 1
    let t := if f.getLsbD 4 then takeScales sh (c.xr p).toNat
      else if f.getLsbD 3 then takeCols sh n (c.xr p).toNat (c.xr q).toNat else takeRows sh n (c.xr p).toNat (c.xr q).toNat
    (c.target? b = none → Traps (.tget f a b p q) s (c.opTrap 0x02 3)) ∧
    (c.target? b = some (base, sh) → c.rev = false →
      ((f.getLsbD 3 ∧ sh.fmt = 5) ∨ (f.getLsbD 4 ∧ sh.fmt ≠ 5) → Traps (.tget f a b p q) s (c.opTrap 0x02 1)) ∧
      ((f.getLsbD 3 → sh.fmt ≠ 5) → (f.getLsbD 4 → sh.fmt = 5) →
        let takes (g : List Nat) : Prop := Sends (.tget f a b p q) s (fun x => (takeValues f a sh t g).foldl (fun x r => x.pendV r.1) x)
          ((takeValues f a sh t g).map fun r => .longResultArrival (Reply.of s.cur [.v r.1 r.2 (BitVec.allOnes 64) none] false))
        (t.rect = none → takes []) ∧
        (∀ r, t.rect = some r → c.force = none → Forces (.tget f a b p q) s s 1 b.toNat base r) ∧
        (∀ r g, t.rect = some r → Forced s g → takes g))) ∧
    (f.toNat < 4 → ∃ v : Vec, Completes (.tunp f a b) s (·.setV a v) ∧ ∀ k, k < 64 → v.extractLsb' (8 * k) 8 =
      let code : BitVec 4 := (c.vr b).extractLsb' (4 * ((if f.getLsbD 0 then 64 else 0) + k)) 4
      if f.getLsbD 1 then code.signExtend 8 else code.setWidth 8)

/-- R246: the lanes of TGET's row form, in v[`A`] and the registers that follow, are consecutive elements of the tile in row order, from row x[`C`],
column x[`D`], the lanes past its last element being zero. -/
def Claims.RowReadsInOrder : Prop :=
  ∀ (f : F6) (a : R5) (sh : Shape) (row col : Nat) (g : List Nat),
    let n := f.toNat % 8 + 1
    let w := codeWidth sh.fmt
    let per := 512 / w
    let rs := takeValues f a sh (takeRows sh n row col) g
    f.toNat < 8 → w ∈ [4, 8, 16, 32, 64] → g.length = sh.rows * sh.cols →
    rs.map Prod.fst = (List.range n).map (fun k => BitVec.ofNat 5 (a.toNat + k)) ∧
    ∀ i, i < n * per → ∃ r, rs[i / per]? = some r ∧ (r.2.extractLsb' (w * (i % per)) w).toNat =
      (if row * sh.cols + col + i < sh.rows * sh.cols then g.getD (row * sh.cols + col + i) 0 % 2 ^ w else 0)

/-- `Claims.TileReads`; `Claims.RowReadsInOrder` together. Each of these forms completes, at issue or with the answer that its clause names, under
conditions on the state and the operands alone: `tget`, `tunp`. -/
def Obligations.TileReading : Prop := Claims.TileReads ∧ Claims.RowReadsInOrder

/-- R232, R235, R239, R240, R244, R245: what the Mint does with a reference, a drop, a query and a wait: a dead key is refused; a reference takes a pin and
a reader (or counts an early read) of a key that is allocated when it is free, and stalls without quota, room or pin; a drop takes a
reader; a query changes nothing; a wait for a version that is not there is answered 1 where its deadline is over, and else is registered with
the key, the thread parked for the version, and looks again after 1,024 cycles where the waiter table is full. -/
def Claims.MintReads : Prop :=
  ∀ (s : State) (q : KeyReq) (h : R5) (dl : Option Nat),
    q.peer = none → q.desc.remote = false →
    let answer (u : State) (o : MintOutcome) : State := u.post (.mintReplyArrival q o)
    let dead := s.keyDead q.key q.home
    (q.use = .tld h → dead → exec (.mintReference q) s = .next (answer s .dead)) ∧
    (q.use = .tld h → dead = false → ∀ u, s.reference q true = .ok u → exec (.mintReference q) s = .next (answer u .ok)) ∧
    (q.use = .tld h → dead = false → ∀ n, s.reference q true = .error n → exec (.mintReference q) s = .next (s.stallReq q n (.mintReference q))) ∧
    (q.use = .tqry h → exec (.mintReference q) s = .next (answer s (.word (s.queryWord q)))) ∧
    (q.use = .twait h dl → dead → exec (.mintReference q) s = .next (answer s (.word 2))) ∧
    (q.use = .twait h dl → dead = false → (s.entry q.key q.home).map MintEntry.st = some .present →
      exec (.mintReference q) s = .next (answer s (.word 0))) ∧
    (q.use = .twait h dl → dead = false → (s.entry q.key q.home).map MintEntry.st ≠ some .present →
      (s.overdue dl → exec (.mintReference q) s = .next (answer s (.word 1))) ∧
      (s.overdue dl = false → (∀ n, s.needEntry q = .error n → exec (.mintReference q) s = .next (s.stallReq q n (.mintReference q))) ∧
        ∀ u, s.needEntry q = .ok u → u.waits q.src.tid q.key q.home = false →
          (Config.waiterEntries ≤ (u.slice q.home).waiting →
            exec (.mintReference q) s = .next (u.at (u.pcyc + 1024) (.versionWakeArrival q.src.tid 4))) ∧
          ((u.slice q.home).waiting < Config.waiterEntries → exec (.mintReference q) s = .next
            ((u.modEntry q.key q.home fun e => { e with waiters := e.waiters ++ [.thread q.src.tid] }).modCtx q.src.tid fun c =>
              if c.keyReq = some q then { c with park := some .version } else c)))) ∧
    (∀ k h, q.use = .adjRead k h → exec (.mintReference q) s = .next (s.readAdjoint q none)) ∧
    (∀ all, q.use = .tdrop all → dead → exec (.mintDrop q) s = .next (answer s .dead)) ∧
    (∀ u, q.use = .tdrop false → dead = false → s.needEntry q = .ok u →
      exec (.mintDrop q) s = .next (answer ((u.modEntry q.key q.home MintEntry.consume).reclaim q.key q.home) .ok)) ∧
    (∀ u, q.use = .tdrop true → dead = false → s.needEntry q = .ok u →
      exec (.mintDrop q) s = .next (answer ((u.modEntry q.key q.home fun e => if e.st = MintSt.present then { e with readers := 0 }
        else { e with dropAll := true }).reclaim q.key q.home) .ok)) ∧
    exec (.pinRelease q.key q.home) s = .next (s.unpin q.key q.home)

/-- R232, R241: single assignment: a key that is CREATING, PRESENT or DEAD is never reserved again, the request being answered `WRITE_ONCE` with the state;
a PENDING or free key with room is reserved CREATING with storage of the tile's size, the free key's entry being made first; a creation makes the
version PRESENT with its data and its readers, less the early reads, and DEAD at once where neither a reader nor a pin is left. -/
def Claims.SingleAssignment : Prop :=
  ∀ (s : State) (q : KeyReq) (data : List Byte) (e : MintEntry),
    q.peer = none → q.use = .tst →
    let answer (u : State) (o : MintOutcome) : State := u.post (.mintReplyArrival q o)
    let n0 := if q.rdr ≠ 0 then q.rdr else q.desc.rdr
    let left := if e.dropAll then 0 else if n0 = 65535 then 65535 else n0 - e.early
    q.desc.remote = false →
    (s.keyDead q.key q.home → exec (.mintReserve q) s = .next (answer s (.writeOnce 4))) ∧
    (s.keyDead q.key q.home = false → s.entry q.key q.home = some e → e.st = .creating → exec (.mintReserve q) s = .next (answer s (.writeOnce 2))) ∧
    (s.keyDead q.key q.home = false → s.entry q.key q.home = some e → e.st = .present → exec (.mintReserve q) s = .next (answer s (.writeOnce 3))) ∧
    (s.keyDead q.key q.home = false → s.entry q.key q.home = some e → e.st = .pending → ∀ r, s.findRun q.home (descBytes q.desc) = some r →
      ∃ t, exec (.mintReserve q) s = .next t ∧ t = answer (s.modEntry q.key q.home fun e =>
        { e with st := .creating, prior := some .pending, run := some r }) .ok) ∧
    (s.keyDead q.key q.home = false → s.entry q.key q.home = none →
      (∀ k, s.allocEntry q.key q.home .pending q.rcb q.rcbAsid = .error k → exec (.mintReserve q) s = .next (s.stallReq q k (.mintReserve q))) ∧
      ∀ u r, s.allocEntry q.key q.home .pending q.rcb q.rcbAsid = .ok u → u.findRun q.home (descBytes q.desc) = some r →
        exec (.mintReserve q) s = .next (answer (u.modEntry q.key q.home fun e => { e with st := .creating, prior := none, run := some r }) .ok)) ∧
    (∃ t, exec (.mintCreate q data) s = .next t ∧ (s.entry q.key q.home = some e →
      (e.pins ≠ 0 ∨ left ≠ 0 → ∃ e', t.entry q.key q.home = some e' ∧
        e'.st = .present ∧ e'.data = data ∧ e'.readers = left ∧ e'.waiters = [] ∧ e'.pins = e.pins) ∧
      (e.pins = 0 → left = 0 → ∃ e', t.entry q.key q.home = some e' ∧ e'.st = .dead ∧ e'.data = [] ∧ e'.run = none)))

/-- R235, R428: a charge given up lowers the counts, and what waits for a quota tries again; an adjoint tile's contribution goes into the core's till
block at the key's home, and is acknowledged; where the tile or the block finds no room, neither is made. -/
def Claims.QuotaAndAdjointBlocks : Prop :=
  ∀ (s : State) (rcb asid first : Nat) (lower : Bool) (q : KeyReq) (vals : List (Nat × Nat)),
    let u := if lower then s.charge rcb asid false else s
    exec (.quotaRetry rcb asid lower) s = .next (u.retryStalled fun code r => code == 1 && (u.chain rcb asid).any ((u.chain r.rcb r.rcbAsid).contains ·)) ∧
    (q.desc.remote = false →
    (∀ v w, q.peer = none → s.needAdj q.key q.home q.desc q.rcb q.rcbAsid = .ok v → v.needBlock q = .ok w →
      exec (.adjointTileContribution q first vals) s = .next (((w.setSlice q.home { w.slice q.home with
        tills := (w.slice q.home).tills.map (addToBlock q.key q.src.core vals) }).post (.mintReplyArrival q .ok)).post (.contributionAckArrival q.src.tid))) ∧
    (∀ n, s.needAdj q.key q.home q.desc q.rcb q.rcbAsid = .error n →
      exec (.adjointTileContribution q first vals) s = .next (s.stallReq q n (.adjointTileContribution q 0 vals))) ∧
    (∀ v n, s.needAdj q.key q.home q.desc q.rcb q.rcbAsid = .ok v → v.needBlock q = .error n →
      exec (.adjointTileContribution q first vals) s = .next (s.stallReq q n (.adjointTileContribution q 0 vals))))

/-- R248, R416: the reverse forms, and the forms on another device's array, once the key phase has passed. In reverse on a differentiable
array TLD's handle, forced whole, and TGET's registers are contributed to the key's adjoint tile, counted once in `PENDC`; TST reserves an
anonymous version, reads the adjoint tile, makes the version and binds its handle; TSTV reads into its registers the elements that they cover.
At the home a read folds the tile's blocks first; TST's releases the tile, TSTV's clears the elements that it reads, and lanes beyond the tile's
last element receive 0, the model's choice (log 86). An operation on another device's array is one message to the owner, and ends in `LINK_DOWN`
where no binding or route leads there. -/
def Claims.ReverseAndRemoteTiles : Prop :=
  ∀ (s u : State) (f : F6) (a b p r : R5) (ko : KeyOp) (d : Desc) (x : KeyReq),
    let c := s.me
    let k := (c.keyOf ko).1
    let rdr := (c.keyOf ko).2
    let n := f.toNat + 1
    let since := (c.keyReq.map KeyReq.since).getD s.ticks
    let q (use : KeyUse) (rdr : Nat) : KeyReq := ⟨u.src, k, descHome d k.i k.j, d, use, rdr, since, c.rcb.toNat, c.asid, none⟩
    let sh : Shape := ⟨d.rows, d.cols, d.fmt, d.blk⟩
    let gives (i : Instr) (v : State) (y : KeyReq) (vals : List (Nat × Nat)) : Prop := ∃ t, exec i s = .next t ∧
      Differs v t v.cur { c with pendc := c.pendc + 1, buf := contributionBytes vals, keyReq := some y, park := some .reply, parkSince := none,
                                 midway := true, stage := 2 } [.adjointTileContribution y 0 vals]
    let away (i : Instr) (stage : Nat) (y : KeyReq) (op : Nat) (data : List Byte) : Prop :=
      let v := (u.parkStage stage).setMe { (u.parkStage stage).me with keyReq := some y }
      (u.bindingTo c.asid d.dev = none ∨ u.route d.dev = none →
        exec i s = .next (v.post (.mintReplyArrival y (.linkDown d.dev (u.routes.get d.dev 0))))) ∧
      ∀ bd l, u.bindingTo c.asid d.dev = some bd → u.route d.dev = some l → exec i s = .next ((v.await (.key y)).2.sendOn l d.dev
        (.remoteKey ⟨u.devid.toNat, l, bd.xport, k.arr, k.i, k.j, k.ver, op, data, y.rdr, d.fmt, d.blk * 2 ^ 14 + d.rows * 128 + d.cols, u.serial⟩))
    (s.keyPhase c k = .ok (d, u) → u.me = c → u.cur = s.cur → u.ticks = s.ticks →
      (c.rev → d.diff → d.fmt < 5 → d.remote = false →
        (c.target? a = none → exec (.tld a ko) s = .next (u.trap u.cur (c.opTrap 0x02 3))) ∧
        (∀ e g, c.target? a = some (e, g) → g ≠ sh → exec (.tld a ko) s = .next (u.trap u.cur ⟨0x07, 9, 0, keyPacked k⟩)) ∧
        (∀ e, c.target? a = some (e, sh) →
          (c.stage = 2 → CompletesFrom (.tld a ko) s u id []) ∧
          (c.stage ≠ 2 → c.force = none → Forces (.tld a ko) s (u.setMe { u.me with keyReq := some (q .contribute 0) }) 1 a.toNat e
            ⟨0, d.rows - 1, 0, d.cols - 1⟩) ∧
          (∀ g, c.stage ≠ 2 → Forced s g → gives (.tld a ko) u (q .contribute 0) (tileContributions d.fmt g))) ∧
        (c.stage = 0 → let y := q (.adjTake (16 * n)) 0
          AsksMint (.tstv f a ko) s u 1 y (.mintReference y)) ∧
        (c.stage ≠ 0 → CompletesFrom (.tstv f a ko) s u (fun z => (List.range n).foldl (fun z i =>
          z.setV (BitVec.ofNat 5 (a.toNat + i)) (BitVec.ofNat 512 (field c.buf (64 * i) 64))) z) []) ∧
        (c.stage = 0 → c.anon < 2 ^ 24 →
          let w : Desc := ⟨0xFFFF, 0, d.rows, d.cols, 4095, 4095, 0, false, false, dieOf c.core, false, 0, 0⟩
          let m : Key := ⟨c.asid, 0xFFFF, (c.thid.extractLsb' 12 12).toNat, (c.thid.extractLsb' 0 12).toNat, c.anon⟩
          let y : KeyReq := ⟨u.src, m, descHome w m.i m.j, w, .snap d, 0, since, c.rcb.toNat, c.asid, none⟩
          AsksMint (.tst a ko) s (u.setMe { u.me with anon := c.anon + 1 }) 1 y (.mintReserve y)) ∧
        (∀ y, c.stage = 1 → c.keyReq = some y → let z := q (.adjRead y.key y.home) 0
          AsksMint (.tst a ko) s u 2 z (.mintReference z)) ∧
        (∀ y m h, c.stage = 2 → c.keyReq = some y → y.use = .adjRead m h →
          let z : KeyReq := { y with key := m, home := h, use := .snap d, desc := { y.desc with fmt := 0, blk := 0, remote := false, rdr := 0 } }
          AsksMint (.tst a ko) s u 3 z (.mintCreate z c.buf)) ∧
        (∀ y, c.stage = 3 → c.keyReq = some y → exec (.tst a ko) s = .next (State.done (State.bindHandle { u with serial := u.serial + 1 } u.cur a
          (.version ⟨u.serial, y.key, y.home, none, d.rows, d.cols, 0, 0, false⟩))))) ∧
      (d.remote →
        (c.reverseOn d = false → c.stage = 0 → away (.tld a ko) 1 (q (.tld a) 0) 0 []) ∧
        (c.reverseOn d = false → c.stage = 1 → exec (.tld a ko) s = .next (State.done (State.bindHandle { u with serial := u.serial + 1 } u.cur a
          (.version ⟨u.serial, k, descHome d k.i k.j, some d.dev, d.rows, d.cols, d.fmt, d.blk, d.diff⟩)))) ∧
        (c.stage = 0 → away (.tdrop ko) 1 (q (.tdrop false) 0) 1 [] ∧ away (.tdropAll ko) 1 (q (.tdrop true) 0) 2 []) ∧
        (c.stage = 0 → away (.tqry a ko) 1 (q (.tqry a) 0) 3 []) ∧ (c.stage = 1 → CompletesFrom (.tqry a ko) s u (·.setX a c.hold) []) ∧
        (∀ e, c.reverseOn d = false → c.target? a = some (e, sh) → (c.stage = 0 → away (.tst a ko) 1 (q .tst rdr) 5 []) ∧
          (∀ g, c.stage = 1 → Forced s g → away (.tst a ko) 2 (q .tst rdr) 6 (bytesOfElems d.fmt d.rows d.cols d.blk g))) ∧
        (c.reverseOn d = false → d.fmt ≠ 5 → c.vPois = [] → (c.stage = 0 → away (.tstv f a ko) 1 (q .tst rdr) 5 []) ∧
          (c.stage = 1 → away (.tstv f a ko) 2 (q .tst rdr) 6 (tstvBytes d c a.toNat n))))) ∧
    (∀ y g, c.target? b = some (.ref y, g) → c.rev → y.diff → y.fmt < 5 → y.dev = none → f.getLsbD 4 = false → c.vPois = [] →
      let m := f.toNat % 8 + 1
      let t := if f.getLsbD 3 then takeCols g m (c.xr p).toNat (c.xr r).toNat else takeRows g m (c.xr p).toNat (c.xr r).toNat
      let z : KeyReq := ⟨s.src, y.key, y.home, leafDesc y, .contribute, 0, since, c.rcb.toNat, c.asid, none⟩
      (c.stage = 2 → Completes (.tget f a b p r) s id) ∧ (c.stage ≠ 2 → gives (.tget f a b p r) s z (c.takeContributions a g t))) ∧
    (x.peer = none → x.desc.remote = false → ∀ v, s.needAdj x.key x.home x.desc x.rcb x.rcbAsid = .ok v →
      let w := v.foldBlocks x.home x.key
      let vs := w.adjVals x.key x.home (x.desc.rows * x.desc.cols)
      (∀ m h, x.use = .adjRead m h → exec (.mintReference x) s = .next ((w.dropAdj x.key x.home).post (.mintReplyArrival x (.tile (vs.flatMap (bytesOf 4)))))) ∧
      (∀ m, x.use = .adjTake m → exec (.mintReference x) s = .next ((w.modEntry x.key x.home fun e => { e with
        adj := e.adj.map fun z => { z with vals := z.vals.zipIdx.map fun o => if o.2 < m then 0 else o.1 } }).post
        (.mintReplyArrival x (.tile ((vs.take m ++ List.replicate (m - vs.length) 0).flatMap (bytesOf 4))))))) ∧
    (∀ bs, (s.ctx x.src.tid).keyReq = some x → (∃ m, x.use = .adjTake m) ∨ (∃ m h, x.use = .adjRead m h) →
      exec (.mintReplyArrival x (.tile bs)) s = .next ((s.modCtx x.src.tid fun c => { c with buf := bs }).wakeAgain x.src.tid))

/-- `Claims.VersionRequests`; `Claims.VersionStores`; `Claims.QuotaAndAdjointBlocks`; `Claims.ReverseAndRemoteTiles` together. Each of these forms
completes, at issue or with the answer that its clause names, under conditions on the state and the operands alone: `tld`, `tdrop`, `tdropAll`,
`tqry`, `twait`, `tst`, `tstv`, `quotaRetry`, `adjointTileContribution`. -/
def Obligations.VersionStoresAndQuota : Prop := Claims.VersionRequests ∧ Claims.VersionStores ∧ Claims.QuotaAndAdjointBlocks ∧ Claims.ReverseAndRemoteTiles

/-- R236, R239, R244, R245, R249: a Mint's answer lets the waiting instruction go on, gives TWAIT and TQRY their word, or raises the trap of the key; a wake
of a version gives TWAIT its result, once, and lets a force look again, its park still counting where it only looks again; the time of a
TWAIT runs out once its deadline's cycle has ended, but not while its request is still on its way to the home, where it is evaluated first. -/
def Claims.MintAnswers : Prop :=
  ∀ (s : State) (q : KeyReq) (w : Word) (h : R5) (result : Nat) (f : Force),
    let tid := q.src.tid
    let c := s.ctx tid
    let trap (code detail : Nat) : Out State := .next (s.wakeTrap tid ⟨code, detail, 0, keyPacked q.key⟩)
    (c.keyReq = some q → q.use = .tld h ∨ q.use = .tst ∨ q.use = .tdrop false ∨ q.use = .tdrop true →
      exec (.mintReplyArrival q .ok) s = .next (s.wakeAgain tid) ∧ exec (.mintReplyArrival q .dead) s = trap 0x0D 4 ∧
      (∀ n, exec (.mintReplyArrival q (.writeOnce n)) s = trap 0x0C n) ∧ (∀ n, exec (.mintReplyArrival q (.space n)) s = trap 0x07 n) ∧
      (∀ n, exec (.mintReplyArrival q (.stall n)) s = .next (s.stallThread q n))) ∧
    (∀ dl, q.use = .twait h dl → c.keyReq = some q → exec (.mintReplyArrival q (.word w)) s = .next (s.wakeWith tid (·.setX h w))) ∧
    (q.use = .tqry h → c.keyReq ≠ some q → ∃ t, exec (.mintReplyArrival q (.word w)) s = .next (t.syncImage tid) ∧ Differs s t tid (c.landX h w) []) ∧
    (c.park ≠ some .version → c.force.isSome ∨ c.keyReq = none → exec (.versionWakeArrival tid result) s = .next s) ∧
    (∀ dl, c.force = none → c.keyReq = some q → q.use = .twait h dl →
      (s.waits tid q.key q.home = false → s.asking q = false → result = 0 ∨ result = 2 →
        exec (.versionWakeArrival tid result) s = .next (s.wakeWith tid (·.setX h (BitVec.ofNat 64 result)))) ∧
      (s.answered tid q = false → s.sending q = false → (∃ d, dl = some d ∧ (d * 33 + 9) / 10 < s.pcyc) →
        exec (.versionWakeArrival tid 1) s = .next (((s.takeBack tid).unwait tid q.key q.home).wakeWith tid (·.setX h 1))) ∧
      ((∀ d, dl = some d → s.pcyc ≤ (d * 33 + 9) / 10) ∨ s.answered tid q ∨ s.sending q → exec (.versionWakeArrival tid 1) s = .next s)) ∧
    (c.park = some .version → c.force = some f → c.imstate = .resident → result < 2 →
      exec (.versionWakeArrival tid result) s = .next ((s.endWait tid).post (.forceNodeStep tid))) ∧
    (c.park = some .version → c.force = some f → c.imstate = .resident →
      exec (.versionWakeArrival tid 4) s = .next ((s.lookAtKey tid).post (.forceNodeStep tid)))

/-- `Claims.MintReads`; `Claims.SingleAssignment`; `Claims.MintAnswers` together. Each of these forms completes, at issue or with the answer that its
clause names, under conditions on the state and the operands alone: `mintReference`, `mintDrop`, `pinRelease`, `mintReserve`, `mintCreate`,
`mintReplyArrival`, `versionWakeArrival`. -/
def Obligations.MintBehaviour : Prop := Claims.MintReads ∧ Claims.SingleAssignment ∧ Claims.MintAnswers

/-! ## Lazy tiles (12_lazy_tiles.md) -/

/-- R250, R251, R253, R254, R270 to R275: the instructions that make a node: an EMPTY source raises `ILLEGAL_OP` with code 3 and an unaccepted shape with code 2; otherwise the node,
with the rounding mode and draw base of this moment, goes under the destination handle, `SRCTR` steps by its draws, and no element is
computed. -/
def Claims.NodesAreMade : Prop :=
  ∀ (s : State) (i : Instr) (f : F6) (a b x y : R5) (imm : BitVec 32),
    let c := s.me
    let sl (r : R5) := c.slotFor r none
    let node (op : Nat) (sh : Shape) (srcs : List Slot) (opnd : Nat) : Node :=
      ⟨op, f.toNat, sh.rows, sh.cols, sh.fmt, sh.blk, srcs, opnd, c.rm, c.srkey, c.drawLtn, c.srctr, c.pc, none, s.serial, none⟩
    let makes (i : Instr) (n : Node) (draws : Nat) : Prop := exec i s = .next (s.append a n draws)
    let float (sh : Shape) : Bool := isFloatCode sh.fmt
    let size (sh : Shape) : Nat := sh.rows * sh.cols
    let twos : List Instr := [.tew f a b x y, .tmma f a b x y]
    let ones : List Instr := [.tmap f a b x, .tred f a b, .tcvt f a b]
    ((i ∈ twos ∧ (sl b = none ∨ sl x = none)) ∨ (i ∈ ones ∧ sl b = none) ∨
      (sl y = none ∧ ((i = .tew f a b x y ∧ f.toNat = 6) ∨ (i = .tmma f a b x y ∧ f.toNat = 1))) → Traps i s (c.opTrap 0x02 3)) ∧
    (∀ u v, sl b = some u → sl x = some v → f.toNat ≠ 6 →
      (float u.shape ∧ v.shape = u.shape → makes (.tew f a b x y) (node 2 u.shape [u, v] 0) (size u.shape)) ∧
      (float u.shape = false ∨ v.shape ≠ u.shape → Traps (.tew f a b x y) s (c.opTrap 0x02 2))) ∧
    (∀ u v w, sl b = some u → sl x = some v → sl y = some w → f.toNat = 6 →
      (float u.shape ∧ v.shape = u.shape ∧ w.shape = u.shape → makes (.tew f a b x y) (node 2 u.shape [u, v, w] 0) (size u.shape)) ∧
      (float u.shape = false ∨ v.shape ≠ u.shape ∨ w.shape ≠ u.shape → Traps (.tew f a b x y) s (c.opTrap 0x02 2))) ∧
    (∀ u, sl b = some u → if float u.shape
      then makes (.tmap f a b x) (node 3 u.shape [u] ((c.xr x).toNat % 2 ^ 32)) (if f.toNat < 2 then 0 else size u.shape)
      else Traps (.tmap f a b x) s (c.opTrap 0x02 2)) ∧
    (∀ u v, sl b = some u → sl x = some v →
      let fits (m : Nat) : Prop := productFmt u.shape.fmt v.shape.fmt = some m ∧ u.shape.cols = v.shape.rows ∧
        shapeOk ⟨u.shape.rows, v.shape.cols, m, 0⟩ ∧ (v.shape.fmt = 5 → c.alongColumns 33 v = false)
      (f.toNat ≠ 1 → (∀ m, fits m → makes (.tmma f a b x y) (node 4 ⟨u.shape.rows, v.shape.cols, m, 0⟩ [u, v] 0) 0) ∧
        ((∀ m, ¬fits m) → Traps (.tmma f a b x y) s (c.opTrap 0x02 2))) ∧
      (∀ w, sl y = some w → f.toNat = 1 → let sh (m : Nat) : Shape := ⟨u.shape.rows, v.shape.cols, m, 0⟩
        (∀ m, fits m → w.shape = sh m → makes (.tmma f a b x y) (node 4 (sh m) [u, v, w] 0) 0) ∧
        ((∀ m, fits m → w.shape ≠ sh m) → Traps (.tmma f a b x y) s (c.opTrap 0x02 2)))) ∧
    (∀ u, sl b = some u →
      let sh : Shape := if f.toNat < 4 then { u.shape with cols := 8 } else { u.shape with rows := 8 }
      if float u.shape then makes (.tred f a b) (node 5 sh [u] 0) (size sh) else Traps (.tred f a b) s (c.opTrap 0x02 2)) ∧
    (∀ u, sl b = some u →
      let sh : Shape := if f.toNat < 32 then { u.shape with fmt := tcvtTarget f.toNat, blk := 0 }
        else { u.shape with fmt := 5, blk := bitsOf f.toNat 3 2 }
      let fits := u.shape.fmt ≠ 9 ∧ u.shape.fmt ≠ 13 ∧ shapeOk sh ∧ (sh.fmt = 5 → u.shape.cols % blockLen sh.blk = 0)
      (fits → makes (.tcvt f a b) (node 6 sh [u] 0) (size sh)) ∧ (¬fits → Traps (.tcvt f a b) s (c.opTrap 0x02 2))) ∧
    (∀ sh p, shapeWord (c.xr b).toNat = some (sh, p) → sh.fmt ≠ 5 → shapeOk sh →
      exec (.tfill a b imm) s = .next (s.append a { node 1 sh [] ((imm.signExtend 64).toNat % 2 ^ codeWidth sh.fmt) with f := 0 } 0)) ∧
    ((∀ sh p, shapeWord (c.xr b).toNat = some (sh, p) → sh.fmt = 5 ∨ shapeOk sh = false) → Traps (.tfill a b imm) s (c.opTrap 0x02 2))

/-- R252, R254, R263, R264: appending a node when the table has room for it: the handle names the node, the references that neither a handle nor a
source holds any longer are released, `SRCTR` has stepped, and the instruction is complete; with no room at the expert level it raises
`THUNK_FULL`, and at the basic level the oldest live node is first made a version: it is forced whole, an anonymous version is reserved with
its data, every name of the node becomes the version's, and the instruction is issued again. That the destination handle counts in the number
that a fault of this force reports is the model's choice (log 89). -/
def Claims.AppendBindsTheHandle : Prop :=
  ∀ (s : State) (a : R5) (n : Node) (draws : Nat),
    let c := s.me
    let t := s.append a n draws
    (∀ e, (c.withNode a n).freeEntry = some e →
      (t.ctx s.cur).handle a = .node e ∧ (t.ctx s.cur).thunks.find? e = some n ∧ (t.ctx s.cur).pc = c.nextPc ∧
      (t.ctx s.cur).x = c.x ∧ (t.ctx s.cur).v = c.v ∧ (t.ctx s.cur).k = c.k ∧ (t.ctx s.cur).pred = c.pred ∧
      (t.ctx s.cur).srctr = (if c.rm ≤ 3 then c.srctr else c.srctr + BitVec.ofNat 64 ((draws + 3) / 4)) ∧ t.mem = s.mem ∧
      (∀ r ∈ c.refs, r.dev = none → (∀ z ∈ c.refs, z.id = r.id → z = r) → (∀ z ∈ (t.ctx s.cur).refs, z.id ≠ r.id) →
        .pinRelease r.key r.home ∈ t.pending) ∧
      ∀ m ∈ t.pending, m ∈ s.pending ∨ ∃ r ∈ c.refs, m = .pinRelease r.key r.home ∧ ∀ z ∈ (t.ctx s.cur).refs, z.id ≠ r.id) ∧
    ((c.withNode a n).freeEntry = none → c.khthk ≠ 0 → t = s.trap s.cur ⟨0x0F, 1, 0, 0⟩) ∧
    (∀ i m, (c.withNode a n).freeEntry = none → c.khthk = 0 → ((c.withNode a n).youngest.filter fun e => e.1 ≠ 32).getLast? = some (i, m) →
      (c.stage ≠ 41 → c.force = none → t = ((s.setMe { c with force := some (c.newForce (c.faultNumber i) (.entry i)
        ⟨0, m.rows - 1, 0, m.cols - 1⟩) }).parkStage 40).post (.forceNodeStep s.cur)) ∧
      (∀ g q u, c.stage ≠ 41 → Forced s g → s.anonReq m.shape (.anon (bytesOfElems m.fmt m.rows m.cols m.blk g)) = some (q, u) →
        t = ((u.parkStage 41).setMe { (u.parkStage 41).me with keyReq := some q }).post (.mintReserve q)) ∧
      (∀ q, c.stage = 41 → c.keyReq = some q →
        let r : Ref := ⟨s.serial, q.key, q.home, none, m.rows, m.cols, m.fmt, m.blk, false⟩
        let v := State.rebind { s with serial := s.serial + 1 } s.cur fun c => c.replaceEntry i r
        let w := v.setMe { v.me with stage := 0, keyReq := none, force := none }
        t = w.setMe { w.me with park := none, midway := true }))

/-- R250, R255, R256, R276: TIDX of an EMPTY handle raises `ILLEGAL_OP`; otherwise it makes a view over its source, or over the source's own source when that is a view with room for the step; an
index out of range raises `ILLEGAL_OP`; an element of a view that a step sends outside its source is the step's fill. -/
def Claims.Views : Prop :=
  ∀ (s : State) (f : F6) (a b x : R5) (imm : BitVec 32) (v w : Slot) (step : Option MapStep),
    let c := s.me
    let p := (c.xr x).toNat
    let fill := (imm.signExtend 64).toNat
    (c.slotFor b none = none → Traps (.tidx f a b x imm) s (c.opTrap 0x02 3)) ∧
    (c.slotFor b none = some v → tidxStep f.toNat v.shape p fill = none → Traps (.tidx f a b x imm) s (c.opTrap 0x02 2)) ∧
    (c.slotFor b none = some v → tidxStep f.toNat v.shape p fill = some step → c.slotFor b step = some w →
      (shapeOk w.shape = false → Traps (.tidx f a b x imm) s (c.opTrap 0x02 2)) ∧
      (shapeOk w.shape → exec (.tidx f a b x imm) s = .next (s.append a (s.newNode 0 f.toNat w.shape [w] 0) 0))) ∧
    (∀ (rows cols r k : Nat) (g : Nat → Nat), r < cols → k < rows →
      slotElem rows cols g [⟨1, 0, 0, cols, rows, 0⟩] r k = g (k * cols + r)) ∧
    ∀ (rows cols : Nat) (g : Nat → Nat) (dr dc : Int) (r k fill h l : Nat), slotElem rows cols g [⟨2, dr, dc, h, l, fill⟩] r k =
      if 0 ≤ r + dr ∧ r + dr < rows ∧ 0 ≤ k + dc ∧ k + dc < cols then g ((r + dr).toNat * cols + (k + dc).toNat) else fill

/-- `Claims.NodesAreMade`; `Claims.AppendBindsTheHandle`; `Claims.Views` together. Each of these forms completes, at issue or with the answer that its
clause names, under conditions on the state and the operands alone: `tew`, `tmap`, `tmma`, `tred`, `tcvt`, `tfill`, `tidx`. -/
def Obligations.ThunkNodes : Prop := Claims.NodesAreMade ∧ Claims.AppendBindsTheHandle ∧ Claims.Views

/-- R252, R257, R262, R263, R277, R278: TFORCE computes a region and delivers nothing; TFORCE.M makes a node a version; TFORCE.Q reports a handle; THCLR and
THCLR.ALL release. A force that ended in a fault raises `THUNK_FAULT` with the handle, the node's PC in `THPC` and the cause in
`THCAUSE`. -/
def Claims.Forcing : Prop :=
  ∀ (s : State) (a b x : R5) (base : Base) (sh : Shape),
    let c := s.me
    let r := clipRect ((c.xr b).extractLsb' 0 16).toNat ((c.xr b).extractLsb' 16 16).toNat ((c.xr x).extractLsb' 0 16).toNat
      ((c.xr x).extractLsb' 16 16).toNat sh.rows sh.cols
    (c.handle a = .empty → Traps (.tforce a b x) s (c.opTrap 0x02 3) ∧ Traps (.tforceM a) s (c.opTrap 0x02 3)) ∧
    (c.target? a = some (base, sh) →
      (r = none → Completes (.tforce a b x) s id) ∧
      (∀ q, r = some q → c.force = none → Forces (.tforce a b x) s s 1 a.toNat base q) ∧
      (∀ q g, r = some q → Forced s g → Completes (.tforce a b x) s id) ∧
      (∀ q f pc cause ad, r = some q → c.force = some f → f.done → f.fault = some (pc, cause, ad) →
        exec (.tforce a b x) s = .next ((s.setMe { c with thpc := pc, thcause := BitVec.ofNat 64 (cause % 2 ^ 32) }).trapMe
          ⟨0x10, f.handle, 0, ad⟩))) ∧
    (∀ v, c.handle a = .version v → Completes (.tforceM a) s id) ∧
    (∀ k n, c.handle a = .node k → c.thunks.find? k = some n → exec (.tforceM a) s = .next (s.materialise k n State.done)) ∧
    Completes (.tforceQ a b) s (·.setX a (c.forceQuery b)) ∧
    (c.handle b = .empty → c.forceQuery b = BitVec.ofNat 64 (32 - c.thunks.length)) ∧
    exec (.thclr a) s = .next (s.bindHandle s.cur a .empty).done ∧ exec .thclrAll s = .next (s.clearHandles s.cur).done ∧
    ((s.bindHandle s.cur a .empty).ctx s.cur).handle a = .empty

/-- R242, R259, R260, R261, R304: a step of a force: the next source not yet read is read; with every source read the next node is computed, a product
going through the core's matrix queue; with nothing left the force is complete. The completion keeps the outcome, sets the flags of what was
computed unless the force faulted, and lets the instruction go on. -/
def Claims.ForceSteps : Prop :=
  ∀ (s : State) (tid e : Nat) (f : Force) (r : Ref) (q : Rect) (pc : Word) (rest : List Nat),
    let c := s.ctx tid
    let queue := (s.core c.core).matrix.queue
    let cmd : MatCmd := .force (s.srcOf tid) e
    (c.force = none → exec (.forceNodeStep tid) s = .next s ∧ exec (.forceCompletion tid) s = .next s) ∧
    (c.force = some f → f.done = false → f.fault = none →
      (List.find? (fun l => (f.read.find? l.1.id).isNone) f.leafs = some (r, q, pc) → exec (.forceNodeStep tid) s = .next (s.readLeaf tid f r pc)) ∧
      (List.find? (fun l => (f.read.find? l.1.id).isNone) f.leafs = none →
        (f.todo = [] → exec (.forceNodeStep tid) s = .next (s.post (.forceCompletion tid))) ∧
        (f.todo = e :: rest → (c.thunks.find? e).map Node.op ≠ some 4 →
          exec (.forceNodeStep tid) s = .next ((s.setCtx tid (c.computeEntry f e)).post (.forceNodeStep tid))) ∧
        (f.todo = e :: rest → (c.thunks.find? e).map Node.op = some 4 →
          (queue.contains cmd → exec (.forceNodeStep tid) s = .next s) ∧
          (queue.contains cmd = false → queue.length < 8 → exec (.forceNodeStep tid) s = .next (s.enqueueMatrix c.core cmd)) ∧
          (queue.contains cmd = false → 8 ≤ queue.length →
            exec (.forceNodeStep tid) s = .next (s.at (s.pcyc + 1) (.forceNodeStep tid)))))) ∧
    (c.force = some f → f.done ∨ f.fault.isSome → exec (.forceNodeStep tid) s = .next s) ∧
    (c.force = some f → f.done → exec (.forceCompletion tid) s = .next s) ∧
    (c.force = some f → f.done = false → f.fault = none →
      exec (.forceCompletion tid) s = .next (State.wakeAgain (s.modCtx tid fun c =>
        { c.raise f.nf f.sat with force := some { f with done := true }, parkSince := none }) tid)) ∧
    (c.force = some f → f.done = false → f.fault.isSome →
      exec (.forceCompletion tid) s = .next (State.wakeAgain (s.modCtx tid fun c =>
        { c with force := some { f with done := true }, parkSince := none }) tid))

/-- R255, R259, R270: the value of an elementwise node is its operation on the elements that its slots show at the same coordinate, whatever region the
force demands: an element computed in a small region equals the same element of the whole tile. -/
def Claims.RegionIndependence : Prop :=
  ∀ (n : Node) (f : Force) (p q : Rect) (r c : Nat),
    r < n.rows → c < n.cols → p.has r c → q.has r c →
    (n.compute f p)[r * n.cols + c]? = (n.compute f q)[r * n.cols + c]? ∧ (n.compute f p)[r * n.cols + c]? = some (n.elem f r c)

/-- `Claims.Forcing`; `Claims.ForceSteps`; `Claims.RegionIndependence` together. Each of these forms completes, at issue or with the answer that its
clause names, under conditions on the state and the operands alone: `tforce`, `tforceM`, `tforceQ`, `thclr`, `thclrAll`, `forceNodeStep`,
`forceCompletion`. -/
def Obligations.ForcingOfThunks : Prop := Claims.Forcing ∧ Claims.ForceSteps ∧ Claims.RegionIndependence

/-- R93, R98, R100, R265, R266, R279, R280: TLDP, its address phase passed, performs the stores on their way to its range, takes a lock over it and a pending
key, stalls where the table of locks is full, and binds the node; TSTP, forward, forces its handle, stores each element at its bank and completes
when all are acknowledged. A malformed shape word, and for TSTP one that does not match the handle, raises `ILLEGAL_OP`; a base that is no pool
address, and a range outside one scratchpad unless an element fails an earlier check, raise `ADDR_SPACE`. -/
def Claims.PoolTiles : Prop :=
  ∀ (s : State) (a b x : R5) (disp : BitVec 32) (sh : Shape) (pitch at_ e : Nat) (ps : List LaneOk) (base : Base) (q : KeyReq) (u : State),
    let c := s.me
    let owner := s.serial
    let last := at_ + rangeSpan sh pitch - 1
    let va := formed (c.xr b) disp.toInt
    let lanes (store : Bool) := (rangeLanes (c.xr b) disp.toInt sh pitch fun _ => 0).map (s.placeLane c store (rangeWidth sh))
    let outside (i : Instr) (store : Bool) : Prop :=
      (∀ w, resolve c.core (c.xr b) disp.toInt 0 = .ok (.word w) → Traps i s ⟨0x07, 1, 0, va⟩) ∧
      (∀ t, resolve c.core (c.xr b) disp.toInt 0 = .error (.trap t) → Traps i s t) ∧
      (∀ p k, resolve c.core (c.xr b) disp.toInt 0 = .ok (.pool p) → s.bankRefuses p.pkgCore p.off (rangeSpan sh pitch) c.asid = some k →
        (∀ z ∈ stopsOf (lanes store), 5 ≤ z.step) → Traps i s ⟨0x07, k, 0, va⟩)
    (shapeWord (c.xr x).toNat = none → Traps (.tldp a b x disp) s (c.opTrap 0x02 2)) ∧
    (shapeWord (c.xr x).toNat = some (sh, pitch) → shapeOk sh = false → Traps (.tldp a b x disp) s (c.opTrap 0x02 2)) ∧
    (shapeWord (c.xr x).toNat = some (sh, pitch) → shapeOk sh → c.poolReq = none → outside (.tldp a b x disp) false) ∧
    (shapeWord (c.xr x).toNat = some (sh, pitch) → shapeOk sh → c.rev = false → c.poolReq = none →
      s.placeRange false (c.xr b) disp.toInt sh pitch (fun _ => 0) = .ok (at_, ps) →
      let cell := poolCore at_ / 8
      ((c.withNode a (s.newNode 7 0 sh [] 0)).freeEntry).isSome →
      (s.freeLock cell = none → exec (.tldp a b x disp) s = .next (s.stallLocks cell)) ∧
      (s.freeLock cell = some e → s.anonReq sh .pool = some (q, u) →
        let y : KeyReq := { q with since := c.stallSince.getD s.ticks }
        let v := State.landOn { u with serial := owner + 1 } at_ last
        ∃ t, exec (.tldp a b x disp) s = .next t ∧ t.pending = v.pending ++ [.mintReference y] ∧ t.mem = v.mem ∧
          (t.cell cell).locks = (v.cell cell).locks.set e ⟨if c.khthk = 0 then 2 else 3, false, c.asid, at_, last, owner⟩ ∧
          (t.ctx s.cur).stage = 1 ∧ (t.ctx s.cur).park = some .reply ∧ (t.ctx s.cur).keyReq = some y ∧
          (t.ctx s.cur).hold = BitVec.ofNat 64 (owner * 2 ^ 32 + cell * 256 + e))) ∧
    (∀ l, shapeWord (c.xr x).toNat = some (sh, pitch) → shapeOk sh → c.stage = 1 → c.keyReq = some q → q.use = .pool →
      let cell := (c.hold.extractLsb' 8 24).toNat
      let k := (c.hold.extractLsb' 0 8).toNat
      (s.cell cell).locks.find? k = some l → exec (.tldp a b x disp) s = .next (s.append a { s.newNode 7 0 sh [] 0 with
        pool := some ⟨cell, k, ⟨(c.hold.extractLsb' 32 32).toNat, q.key, q.home, none, sh.rows, sh.cols, sh.fmt, sh.blk, false⟩, l.lo, pitch⟩ } 0)) ∧
    (c.target? a = none → Traps (.tstp a b x disp) s (c.opTrap 0x02 3)) ∧
    (c.target? a = some (base, sh) →
      (shapeWord (c.xr x).toNat = none → Traps (.tstp a b x disp) s (c.opTrap 0x02 2)) ∧
      (∀ g, shapeWord (c.xr x).toNat = some (g, pitch) → sh ≠ { g with blk := sh.blk } → c.stage ≠ 2 → Traps (.tstp a b x disp) s (c.opTrap 0x02 2)) ∧
      (shapeWord (c.xr x).toNat = some ({ sh with blk := 0 }, pitch) → c.snapping = false →
        (c.stage = 2 → c.ackc ≠ 0 → exec (.tstp a b x disp) s = .next (s.parkMe .acks)) ∧
        (c.stage = 2 → c.ackc = 0 → Completes (.tstp a b x disp) s id) ∧
        (c.stage ≠ 2 → outside (.tstp a b x disp) true) ∧
        (c.rev = false → c.stage ≠ 2 → s.placeRange true (c.xr b) disp.toInt sh pitch (fun _ => 0) = .ok (at_, ps) → ∀ g, sh.fmt ≠ 5 → Forced s g →
          exec (.tstp a b x disp) s = .next (s.storeRange (ps.map fun l => { l with val := g.getD l.place.lane.idx 0 })))))

/-- R285: reverse TLDP and TSTP of a range with differentiable elements. TLDP forces its handle, whose shape must match, and reduces each such
element into its adjoint cell, counted once in `PENDC`. TSTP waits for outstanding contributions, reserves an anonymous version, reads and
clears the adjoint cells in one operation, makes the version of them and binds its handle; other elements are free (log 3). -/
def Claims.ReversePoolTiles : Prop :=
  ∀ (s : State) (a b x : R5) (disp : BitVec 32) (sh : Shape) (pitch at_ : Nat) (ps : List LaneOk) (base : Base) (g : List Nat) (q : KeyReq) (d : Desc),
    let c := s.me
    let ds := diffLanes ps
    let ls := adjLanes ds
    (shapeWord (c.xr x).toNat = some (sh, pitch) → shapeOk sh → c.rev → c.poolReq = none → ds ≠ [] →
      s.placeRange false (c.xr b) disp.toInt sh pitch (fun _ => 0) = .ok (at_, ps) →
      (c.target? a = none → Traps (.tldp a b x disp) s (c.opTrap 0x02 3)) ∧
      (∀ h, c.target? a = some (base, h) → h ≠ sh → Traps (.tldp a b x disp) s (c.opTrap 0x02 2)) ∧
      (c.target? a = some (base, sh) → c.force = none → Forces (.tldp a b x disp) s s 1 a.toNat base ⟨0, sh.rows - 1, 0, sh.cols - 1⟩) ∧
      (c.target? a = some (base, sh) → Forced s g →
        let v := (s.settleLanes c false ps).yieldLines c.core (linesOf ls)
        v.me = c → CompletesFrom (.tldp a b x disp) s v (fun z => { z with pendc := z.pendc + 1 })
          [.contributionAtHome ⟨v.src, ls, .none, true, false⟩ 16 (rangeContribution sh.fmt ds g)])) ∧
    (c.target? a = some (base, sh) → shapeWord (c.xr x).toNat = some ({ sh with blk := 0 }, pitch) → ds ≠ [] →
      s.placeRange true (c.xr b) disp.toInt sh pitch (fun _ => 0) = .ok (at_, ps) →
      let fsh : Shape := ⟨sh.rows, sh.cols, 0, 0⟩
      let mine : Prop := c.keyReq = some q ∧ q.use = .snap d
      (c.rev → c.stage = 0 → c.keyReq = none →
        (c.pendc ≠ 0 → exec (.tstp a b x disp) s = .next (s.parkMe .pendcZero)) ∧
        (c.pendc = 0 → c.anon < 2 ^ 24 →
          let w : Desc := ⟨0xFFFF, 0, sh.rows, sh.cols, 4095, 4095, 0, false, false, dieOf c.core, false, 0, 0⟩
          let m : Key := ⟨c.asid, 0xFFFF, (c.thid.extractLsb' 12 12).toNat, (c.thid.extractLsb' 0 12).toNat, c.anon⟩
          let y : KeyReq := ⟨s.src, m, descHome w m.i m.j, w, .snap (snapDesc fsh), 0, s.ticks, c.rcb.toNat, c.asid, none⟩
          AsksMint (.tstp a b x disp) s (s.setMe { c with anon := c.anon + 1 }) 1 y (.mintReserve y))) ∧
      (mine → c.stage = 1 → let v := (s.settleLanes c true ps).yieldLines c.core (linesOf ls)
        exec (.tstp a b x disp) s = .next ((v.parkStage 2).sendClear ⟨v.src, ls, .buf, true, true⟩ (.readClear 0 (ls.map fun _ => (0, 0))))) ∧
      (mine → c.stage = 2 → AsksMint (.tstp a b x disp) s { s with draws := s.draws + ps.length } 3 q (.mintCreate q (snapshotBytes s ps c.buf))) ∧
      (mine → c.stage = 3 → exec (.tstp a b x disp) s = .next (State.done (State.bindHandle { s with serial := s.serial + 1 } s.cur a
        (.version ⟨s.serial, q.key, q.home, none, sh.rows, sh.cols, 0, 0, false⟩)))))

/-- R101, R262, R265, R266: the copy of a pool source reads the range with its error marks into its version and releases the lock; with no storage or quota it
tries again, under the stall limits of the threads that wait; a held store is performed once no lock holds it. -/
def Claims.PoolSourceCopies : Prop :=
  ∀ (s u : State) (cell e : Nat) (l : Lock) (p : PoolSrc) (sh : Shape) (q : MemReq) (op : BankOp),
    ((s.cell cell).locks.find? e = none → exec (.poolSourceCopy cell e) s = .next s) ∧
    ((s.cell cell).locks.find? e = some l → 2 ≤ l.kind → s.sourceOf l.owner = some (p, sh) →
      s.reserve p.ref.key p.ref.home (tileBytes sh.fmt sh.rows sh.cols sh.blk) 0 p.ref.key.asid = .ok u →
      let v := (u.modEntry p.ref.key p.ref.home fun e => { e with marks := u.rangeMarks p sh }).create p.ref.key p.ref.home 0 (u.rangeBytes p sh)
      exec (.poolSourceCopy cell e) s = .next (v.setCell cell { v.cell cell with locks := (v.cell cell).locks.erase e })) ∧
    ((s.cell cell).locks.find? e = some l → 2 ≤ l.kind → s.sourceOf l.owner = some (p, sh) → ∀ n,
      s.reserve p.ref.key p.ref.home (tileBytes sh.fmt sh.rows sh.cols sh.blk) 0 p.ref.key.asid = .error (.stall n) →
      exec (.poolSourceCopy cell e) s = .next ((s.stallWaiters p.ref.key p.ref.home n).at (s.pcyc + 1) (.poolSourceCopy cell e))) ∧
    (s.bankSource q.src (bankLate op) q.lanes = none → exec (.lockedStoreRelease q op) s = .next (s.atBank q op)) ∧
    (s.bankSource q.src (bankLate op) q.lanes = some (cell, e) → exec (.lockedStoreRelease q op) s = .next ((s.startCopy cell e).at (s.pcyc + 1)
      (.lockedStoreRelease q op)))

/-- R98, R281 to R284, R444: TADAM. Its address phase traps or sets A and D and notes the lanes; then a header that does not fit raises
`ILLEGAL_OP`, a step not above the header's answers 1, and otherwise the gradient is forced. It then reads the block: 1 again where the header's
step has risen, 2 for a value that is not finite, counted in the header, 3 for a negative `c2`; else it computes every element, writes parameters
and moments at their homes, and last the step number, whose acknowledgement is the result. That the header's format is read in the address phase, and the guard again with the block, is the model's
choice (log 78). -/
def Claims.OptimiserStep : Prop :=
  ∀ (s : State) (a b x y : R5) (base : Base) (sh : Shape),
    let c := s.me
    let n := sh.count
    let i : Instr := .tadam a b x y
    let result (u : State) (nf : Bool) (v : Nat) : Prop := CompletesFrom i s u (fun z => ((z.raise nf false).stepSr c.rm n).pendX y)
      [.longResultArrival (Reply.of u.cur [.x y (BitVec.ofNat 64 v) none] false)]
    let free : Prop := c.passed.find? (fun l => (s.pageHolding l.pa).isSome) = none
    let ls := c.passed.dropLast
    (c.target? a = none → Traps i s (c.opTrap 0x02 3)) ∧
    (c.target? a = some (base, sh) → c.stage = 0 → c.passed = [] →
      (∀ t, s.place c (adamNeed 128 true) 0 (c.xr b) 0 = .error (.trap t) → Traps i s t) ∧
      (∀ hp rp ps, s.place c (adamNeed 128 true) 0 (c.xr b) 0 = .ok hp → s.placeBlock (c.xr b) (blockBytes (s.view hp.lane.pa 64) sh) = .ok ps →
        s.place c (adamNeed 32 false) 0 (c.xr x) 0 = .ok rp → s.regionsFor c.core c.asid = [] →
        let v := (s.settleAll c.core c.asid true ps).settle c.core c.asid false rp
        v.me = c → exec i s = exec i (v.setMe { c with passed := ps.map Place.lane ++ [rp.lane] }))) ∧
    (∀ hl, c.target? a = some (base, sh) → c.stage = 0 → c.passed.head? = some hl → free → s.quiet s.cur true → s.writingBack c.core = false →
      (s.core c.core).cache = [] →
      let u := s.homeRead (hl.pa / 128)
      let h := u.read hl.pa 64
      u.me = c → u.cur = s.cur →
      (headerOk h sh = false → exec i s = .next (u.trap u.cur (c.opTrap 0x02 2))) ∧
      (headerOk h sh → ((blockLayout (bitsOf h 119 112) n).2.2 + 127) / 128 < c.passed.length →
        ((c.xr y).toNat ≤ h % 2 ^ 64 → result u false 1) ∧
        (h % 2 ^ 64 < (c.xr y).toNat → c.force = none →
          Forces i s (u.setMe { c with hold := BitVec.ofNat 64 (bitsOf h 119 112) }) 1 a.toNat base ⟨0, sh.rows - 1, 0, sh.cols - 1⟩))) ∧
    (∀ g hl rl, c.target? a = some (base, sh) → c.stage = 1 → Forced s g → ls.head? = some hl → c.passed.getLast? = some rl → free →
      s.stepOnWay hl.pa = false →
      let k := c.hold.toNat % 4
      let w := (blockLayout k n).1
      let mo := (blockLayout k n).2.1
      let u := (c.passed.map fun l => lineOf l.pa).foldl State.homeRead s
      let r := (List.range 7).map fun j => fp32.decode (u.read (rl.pa + 4 * j) 4)
      let gs := g.map (elemFV sh.fmt)
      let p (e : Nat) : FV := (Fmt.ofCode k).decode (u.blockRead ls (64 + w * e) w)
      let m (e : Nat) : FV := fp32.decode (u.blockRead ls (mo + 4 * e) 4)
      let v (e : Nat) : FV := fp32.decode (u.blockRead ls (mo + 4 * n + 4 * e) 4)
      let c2 := r.getD 5 (.fin false 0 1)
      let odd : Bool := (r ++ gs).any FV.special || (List.range n).any fun e => (p e).special || (m e).special || (v e).special
      let outs := (List.range n).map fun e => adamStep (Fmt.ofCode k) ⟨c.rm, c.srkey, c.drawLtn, c.srctr⟩ r e (gs.getD e (.fin false 0 1)) (p e) (m e) (v e)
      let es := outs.flatMap fun o => [o.p, o.m, o.v]
      u.me = c → u.cur = s.cur →
      ((c.xr y).toNat ≤ u.blockRead ls 0 8 → result u false 1) ∧
      (u.blockRead ls 0 8 < (c.xr y).toNat →
        (odd → let z := u.blockWrite ls 8 4 (min (u.blockRead ls 8 4 + 1) (2 ^ 32 - 1))
          z.me = c → result z true 2) ∧
        (odd = false → (c2.neg? && !c2.isZero) → result u false 3) ∧
        (odd = false → (c2.neg? && !c2.isZero) = false →
          let z := BitVec.ofNat 64 (k + 4 * (es.any Elem.nf).toNat + 8 * (es.any Elem.sat).toNat)
          exec i s = .next (u.setMe { c with stage := 2, midway := true, buf := adamBytes w outs, hold := z })))) ∧
    (∀ hl, c.target? a = some (base, sh) → c.stage = 2 → ls.head? = some hl → free →
      let h := c.hold.toNat
      let w := (blockLayout (h % 4) n).1
      let mo := (blockLayout (h % 4) n).2.1
      let part (e off k : Nat) : Nat := valueOf ((c.buf.drop ((w + 8) * e + off)).take k)
      let u := (List.range n).foldl (fun (s : State) e => ((s.blockWrite ls (64 + w * e) w (part e 0 w)).blockWrite ls (mo + 4 * e) 4
        (part e w 4)).blockWrite ls (mo + 4 * n + 4 * e) 4 (part e (w + 4) 4)) s
      u.me = c → CompletesFrom i s u (fun z => ((z.raise (bitOf h 2) (bitOf h 3)).stepSr c.rm n).pendX y)
        [.writeThroughAtHome ⟨u.src, [{ hl with n := 8 }], .x y 8 false, true, false⟩ [(c.xr y).toNat]])

/-- `Claims.PoolTiles`; `Claims.ReversePoolTiles`; `Claims.PoolSourceCopies`; `Claims.OptimiserStep` together. Each of these forms completes, at issue
or with the answer that its clause names, under conditions on the state and the operands alone: `tldp`, `tstp`, `poolSourceCopy`,
`lockedStoreRelease`, `tadam`. -/
def Obligations.PoolTilesAndOptimiser : Prop := Claims.PoolTiles ∧ Claims.ReversePoolTiles ∧ Claims.PoolSourceCopies ∧ Claims.OptimiserStep

/-! ## Matrix unit (13_matrix_unit.md) -/

/-- R287, R290, R291, R298, R303: MRING.SET, PUSH and RST answer their status and change the ring as it says, PUSH once the context's earlier
stores to the core's pool are performed, the slot that a drain in progress writes counting as filled (the model's choice, log 76); MSTAT, MSTAT.R and MSTAT.C report. A
command of a context whose space is not the scratchpad's raises `ADDR_SPACE`, code 5. -/
def Claims.Rings : Prop :=
  ∀ (s : State) (r : BitVec 2) (a b : R5),
    let c := s.me
    let m := (s.core c.core).matrix
    let w := c.xr b
    let stores := s.storesTo s.cur (poolBase c.core) 0x20000
    let put (rings : SMap Ring) : State := s.setMatrix c.core { m with rings := rings }
    let fresh : Ring := ⟨(w.extractLsb' 40 6).toNat + 1, 256 * (w.extractLsb' 32 7).toNat, (w.extractLsb' 0 17).toNat, 0, 0, 0⟩
    let formed : Prop := w.extractLsb' 46 18 = 0 ∧ w.getLsbD 39 = false ∧ w.extractLsb' 17 15 = 0 ∧ w.extractLsb' 0 8 = 0 ∧
      w.extractLsb' 32 7 ≠ 0
    let inside : Prop := ∃ lo hi, (s.core c.core).split = some (lo, hi) ∧ lo ≤ fresh.base ∧ fresh.base + fresh.cnt * fresh.size ≤ hi
    let clear : Prop := ∀ e ∈ m.rings, e.1 ≠ r.toNat →
      e.2.base + e.2.cnt * e.2.size ≤ fresh.base ∨ fresh.base + fresh.cnt * fresh.size ≤ e.2.base
    let idle : Prop := m.busy r.toNat = false ∧ ∀ g, m.rings.find? r.toNat = some g → g.occ = 0
    let status (n : Word) : Prop := CompletesLong (.mringSet r a b) s s a n
    let core : Word := BitVec.ofNat 64 (m.lost.toNat * 2 ^ 63 + m.retired * 2 ^ 32 + m.fctx * 2 ^ 16 + m.queue.length * 2 ^ 8 + epLength m.prog)
    ((s.core c.core).padAsid = some c.asid →
      (w = 0 → idle → CompletesLong (.mringSet r a b) s (put (m.rings.erase r.toNat)) a 0) ∧ (w = 0 → ¬idle → status 4) ∧
      (w ≠ 0 → ¬formed → status 1) ∧ (formed → ¬inside → status 2) ∧ (formed → inside → ¬clear → status 3) ∧
      (formed → inside → clear → ¬idle → status 4) ∧
      (formed → inside → clear → idle → CompletesLong (.mringSet r a b) s (put (m.rings.set r.toNat fresh)) a 0) ∧
      (stores → exec (.mringPush r a b) s = .next (s.parkMe .poolStores)) ∧
      (stores = false → m.rings.find? r.toNat = none → CompletesLong (.mringPush r a b) s s a 5) ∧
      (∀ g, stores = false → m.rings.find? r.toNat = some g → if g.cnt < g.occ + m.claimed r.toNat + w.toNat then CompletesLong (.mringPush r a b) s s a 5
        else
          let n : Ring := ⟨g.cnt, g.size, g.base, g.head, (g.tail + w.toNat) % g.cnt, g.occ + w.toNat⟩
          exec (.mringPush r a b) s = .next (((put (m.rings.set r.toNat n)).doneLong a 0).kickCell (c.core / 8))) ∧
      (m.busy r.toNat → CompletesLong (.mringRst r a) s s a 4) ∧
      (∀ g, m.busy r.toNat = false → m.rings.find? r.toNat = some g →
        CompletesLong (.mringRst r a) s (put (m.rings.set r.toNat { g with head := 0, tail := 0, occ := 0 })) a 0) ∧
      CompletesLong (.mstat a) s s a core ∧ CompletesLong (.mstatC a) s (s.setMatrix c.core { m with lost := false }) a core ∧
      (m.rings.find? (w.toNat % 4) = none → CompletesLong (.mstatR a b) s s a 0) ∧
      (∀ g, m.rings.find? (w.toNat % 4) = some g →
        CompletesLong (.mstatR a b) s s a (BitVec.ofNat 64 (2 ^ 63 + g.occ * 2 ^ 48 + g.head * 2 ^ 40 + g.tail * 2 ^ 32)))) ∧
    ((s.core c.core).padAsid ≠ some c.asid → ∀ i ∈ [Instr.mringSet r a b, .mringPush r a b, .mringRst r a, .mstat a, .mstatR a b, .mstatC a,
      .mfmtQ a, .mepi a b b, .mepiRst a, .mma 0 r r], ∃ ad, exec i s = .next ({ s with draws := s.draws + 1 }.trap s.cur ⟨0x07, 5, 0, ad⟩))

/-- R288, R293, R295, R299 to R302, log 56: a matrix command enters its core's queue when the queue holds fewer than eight, and the instruction is then complete
(its result, if it has one, comes later); with the queue full the context waits. MMA needs its two rings defined (`ILLEGAL_OP`, cause 5) and
their slots large enough (cause 6); MFMT's context must be valid (cause 7); a drain's draws are stepped over at issue, by the conversions of the program that then stands there, which is the model's choice (log 56). -/
def Claims.MatrixCommands : Prop :=
  ∀ (s u : State) (f : F6) (ra rb : BitVec 2) (a b x : R5) (o : Op2) (ko : KeyOp) (d : Desc) (ps : List Place),
    let c := s.me
    let m := (s.core c.core).matrix
    let room : Prop := m.queue.length < 8
    let w := (c.op2U o).toNat
    let queues (i : Instr) (u : State) (g : Ctx → Ctx) (cmd : MatCmd) : Prop := exec i s = .next ((u.finish g).enqueueMatrix c.core cmd)
    let fmt := f.toNat % 16
    let mode := if m.issued.testBit 14 then 4 else m.issued / 4096 % 4
    let step (k : Ctx) : Ctx := (k.stepSr mode (4096 * (cvtCount m.prog + 1))).pendX a
    let weight := 1 + s.rcbWord c.rcb.toNat c.asid 3 % 8
    (s.core c.core).padAsid = some c.asid →
    (fctxOk w = false → Traps (.mfmt a o) s (c.opTrap 0x02 7)) ∧
    (fctxOk w → room → queues (.mfmt a o) (s.setMatrix c.core { m with issued := w }) (·.pendX a) (.mfmt s.src a w)) ∧
    (room → queues (.mfmtQ a) s (·.pendX a) (.mfmtQ s.src a) ∧ queues (.mepiRst a) s (·.pendX a) (.mepiRst s.src a)) ∧
    (¬room → (fctxOk w → WaitsFrom (.mfmt a o) s s .matrixRoom c.stage []) ∧ WaitsFrom (.mfmtQ a) s s .matrixRoom c.stage [] ∧
      WaitsFrom (.mepiRst a) s s .matrixRoom c.stage []) ∧
    (∀ p, resolve c.core (c.xr b) 0 0 = .ok (.pool p) → p.pkgCore = c.core → s.inPad c.core p.off 1 →
      (p.off % 4 ≠ 0 → Traps (.mepi a b x) s ⟨0x06, 4, 0, c.xr b⟩) ∧
      (p.off % 4 = 0 → room → queues (.mepi a b x) s (·.pendX a) (.mepi s.src a p.off (c.xr x).toNat)) ∧
      (p.off % 4 = 0 → ¬room → WaitsFrom (.mepi a b x) s s .matrixRoom c.stage [])) ∧
    (m.rings.find? ra.toNat = none ∨ m.rings.find? rb.toNat = none → Traps (.mma f ra rb) s (c.opTrap 0x02 5)) ∧
    (∀ p q, m.rings.find? ra.toNat = some p → m.rings.find? rb.toNat = some q →
      if p.size < operandBytes (m.issued % 16) (m.issued / 256 % 4) (m.issued.testBit 10) ∨
          q.size < operandBytes (m.issued / 16 % 16) (m.issued / 256 % 4) (m.issued.testBit 11) then Traps (.mma f ra rb) s (c.opTrap 0x02 6)
      else if room then queues (.mma f ra rb) s id (.mma s.src ra.toNat rb.toNat (f.getLsbD 0) (f.getLsbD 1) (f.getLsbD 2) weight)
      else WaitsFrom (.mma f ra rb) s s .matrixRoom c.stage []) ∧
    (room →
      (∀ r, m.rings.find? ((c.xr b).toNat % 4) = some r → 4096 * codeWidth fmt / 8 ≤ r.size → s.regionsFor c.core c.asid = [] →
        queues (.mdrain f a (.ring b)) s step (.drain s.src a fmt (.ring ((c.xr b).toNat % 4)) c.srkey c.drawLtn c.srctr)) ∧
      (
        let done : State := ((s.finish step).enqueueMatrix c.core (.drain s.src a fmt (.rows (ps.map Place.lane)) c.srkey c.drawLtn c.srctr)).settleAll
          c.core c.asid true ps
        (s.placeDrain fmt true (c.xr b) (c.xr x) = .ok ps → exec (.mdrain f a (.pool b x)) s = .next done) ∧
        (s.placeDrain fmt false (c.xr b) (c.xr x) = .ok ps → exec (.mdrain f a (.mem b x)) s = .next done)) ∧
      (s.keyPhase c (c.keyOf ko).1 = .ok (d, u) → u.me = c → u.cur = s.cur → u.core c.core = s.core c.core → d.rows = 64 → d.cols = 64 → d.fmt = fmt →
        let q : KeyReq := { u.keyReqOf (c.keyOf ko).1 d .tst (c.keyOf ko).2 with since := (c.keyReq.map KeyReq.since).getD u.ticks }
        (c.stage = 0 → d.remote = false → AsksMint (.mdrain f a (.tile ko)) s u 1 q (.mintReserve q)) ∧
        (c.stage ≠ 0 → queues (.mdrain f a (.tile ko)) u step (.drain u.src a fmt (.tile q) c.srkey c.drawLtn c.srctr))))

/-- `Claims.Rings`; `Claims.MatrixCommands` together. Each of these forms completes, at issue or with the answer that its clause names, under
conditions on the state and the operands alone: `mringSet`, `mringPush`, `mringRst`, `mstat`, `mstatR`, `mstatC`, `mfmt`, `mfmtQ`, `mepi`, `mepiRst`,
`mma`, `mdrain`. -/
def Obligations.MatrixRingsAndCommands : Prop := Claims.Rings ∧ Claims.MatrixCommands

/-- R288, R289, R291, R294 to R296, R299 to R304: what the matrix unit does with the command at the head: a core that is a candidate and has credit is granted a
k-step, and pays one credit; when no candidate has credit, every core's credit first becomes the weight of its head command; a k-step writes the
accumulator and pops its rings, one of a force discards what was not drained and leaves the accumulator zero; MFMT and MEPI put their context and
program in force; a drain computes its rows one by one and then writes its tile, rows or ring slot, each element at its place, and completes when no
write is on its way. For I8 operands every element gains the sum of the products
modulo 2^32.
Each of these forms completes, at issue or with the answer that its clause names, under conditions on the state and the operands alone: `kstepGrant`,
`kstepRetire`, `matrixCommandAtHead`, `epilogueRow`, `mdrainCompletion`. -/
def Obligations.MatrixUnit : Prop :=
  ∀ (s : State) (cell core q : Nat),
    let m := (s.core core).matrix
    let can (q : Nat) : Bool := (s.core q).matrix.candidate
    let weight (tid : Nat) : Nat := 1 + s.rcbWord (s.ctx tid).rcb.toNat (s.ctx tid).asid 3 % 8
    (
      let order := (List.range 8).map fun k => 8 * cell + ((s.cell cell).granted + 1 + k) % 8
      let grant (v : State) (q : Nat) : State :=
        let n := (v.core q).matrix
        let u := v.setMatrix q { n with credit := n.credit - 1, granted := true }
        (u.setCell cell { u.cell cell with granted := q % 8 }).post (.kstepRetire q)
      (order.any (fun q => (s.core q).matrix.granted) ∨ order.all (fun q => !can q) → exec (.kstepGrant cell) s = .next s) ∧
      (order.all (fun q => !(s.core q).matrix.granted) → List.find? (fun q => can q && (s.core q).matrix.credit != 0) order = some q →
        exec (.kstepGrant cell) s = .next (grant s q)) ∧
      (order.all (fun q => !(s.core q).matrix.granted) → order.all (fun q => !can q || (s.core q).matrix.credit == 0) →
        let v := order.foldl State.reload s
        List.find? (fun q => can q && (v.core q).matrix.credit != 0) order = some q → exec (.kstepGrant cell) s = .next (grant v q))) ∧
    (∀ cmd rest, m.queue = cmd :: rest → s.reload core = s.setMatrix core { m with credit := match cmd with
      | .mma _ _ _ _ _ _ w => w
      | cmd => weight cmd.tid }) ∧
    (∀ src i rest, m.queue = .force src i :: rest →
      let int := ((s.ctx src.tid).thunks.find? i).map Node.fmt == some 8
      let n := { m with lost := m.lost || m.undrained, undrained := false, acc := [], int := int, queue := rest, granted := false }
      ∃ t, exec (.kstepRetire core) s = .next t ∧ (t.core core).matrix = n) ∧
    (∀ src ra rb z pa pb w rest g h, m.queue = .mma src ra rb z pa pb w :: rest → m.rings.find? ra = some g → m.rings.find? rb = some h →
      let int := m.fctx % 16 == 6
      let acc := kstep m.fctx (s.operand core g (m.fctx % 16) (m.fctx / 256 % 4) (m.fctx.testBit 10))
        (s.operand core h (m.fctx / 16 % 16) (m.fctx / 256 % 4) (m.fctx.testBit 11)) (if z ∨ m.int ≠ int then [] else m.acc)
      let pop (r : Ring) (yes : Bool) : Ring := if yes then { r with head := (r.head + 1) % r.cnt, occ := r.occ - 1 } else r
      let rings := (m.rings.set ra (pop g pa)).set rb (pop h pb)
      exec (.kstepRetire core) s =
        .next (s.retire core fun m => { m with acc := acc, int := int, undrained := true, granted := false, rings := rings })) ∧
    (∀ (as bs : List Nat) (acc : Nat), as.length = 64 → bs.length = 64 →
      ((kstepElem 6 6 0 0 as bs acc : Nat) : Int) = ((acc : Int) + ((as.zip bs).map fun p => signedOf 8 p.1 * signedOf 8 p.2).sum) % 2 ^ 32) ∧
    (∀ src a w rest, m.queue = .mfmt src a w :: rest →
      exec (.matrixCommandAtHead core) s = .next ((s.retire core fun m => { m with fctx := w }).matrixResult src a (BitVec.ofNat 64 m.fctx))) ∧
    (∀ src a rest, m.queue = .mepiRst src a :: rest →
      exec (.matrixCommandAtHead core) s = .next ((s.retire core fun m => { m with prog := [0] }).matrixResult src a 0)) ∧
    (∀ src a off cnt rest, m.queue = .mepi src a off cnt :: rest →
      let ws := (List.range (min cnt 64)).map fun i => s.read (poolBase core + off + 4 * i) 4
      let st := s.epStatus core off cnt ws
      exec (.matrixCommandAtHead core) s = .next ((s.retire core fun m => if st = 0 then { m with prog := ws } else m).matrixResult src a (BitVec.ofNat 64 st))) ∧
    (∀ src a fmt dst key ltn ctr rest, m.queue = .drain src a fmt dst key ltn ctr :: rest →
      (m.row < 64 → (m.row = 0 → m.mayDrain dst) →
        let mode := if m.fctx.testBit 14 then 4 else m.fctx / 4096 % 4
        let out := m.drainRow ⟨mode, key, ltn, ctr⟩ fmt fun off i => s.read (poolBase core + off + 4 * i) 4
        let u := out.2.foldl (fun (s : State) e => s.applyStat (core / 8) src.asid e.1 (e.2.map fp32.decode)) s
        let nf := m.nf || out.1.any Elem.nf
        let sat := m.sat || out.1.any Elem.sat
        let n := { m with row := m.row + 1, out := m.out ++ out.1.map Elem.bits, nf := nf, sat := sat }
        exec (.epilogueRow core) s = .next ((u.setMatrix core n).post (if m.row = 63 then .mdrainCompletion core else .epilogueRow core))) ∧
      ((∀ t, dst ≠ .tile t) →
        (m.row = 64 → let u := s.writeThrough src ((m.drainLanes core fmt dst).zip m.out)
          exec (.mdrainCompletion core) s = .next ((u.setMatrix core { (u.core core).matrix with row := 65 }).post (.mdrainCompletion core))) ∧
        (m.row = 65 → s.writesInFlight src → exec (.mdrainCompletion core) s = .next (s.at (s.pcyc + 1) (.mdrainCompletion core)))) ∧
      (∀ ls, dst = .rows ls → m.drainLanes core fmt dst = ls ∧
        (m.row = 65 → s.writesInFlight src = false → exec (.mdrainCompletion core) s = .next (s.endDrain core src a))) ∧
      (∀ k r, dst = .ring k → m.rings.find? k = some r →
        (∀ i, i < 4096 → ∃ l, (m.drainLanes core fmt dst)[i]? = some l ∧ l.n = codeWidth fmt / 8 ∧
          l.pa = poolBase core + r.base + r.tail * r.size + i * l.n) ∧
        (m.row = 65 → s.writesInFlight src = false → let n : Ring := ⟨r.cnt, r.size, r.base, r.head, (r.tail + 1) % r.cnt, r.occ + 1⟩
          exec (.mdrainCompletion core) s = .next ((s.setMatrix core { m with rings := m.rings.set k n }).endDrain core src a))) ∧
      (∀ q, dst = .tile q → q.desc.remote = false →
        exec (.mdrainCompletion core) s = .next ((s.create q.key q.home (creators q) (bytesOfElems fmt 64 64 0 m.out)).endDrain core src a)))

/-! ## Teller (14_teller.md) -/

/-- R308, R309, R312, R321: TEL and TELN: a malformed request raises `ILLEGAL_OP` with the word's number; without room TEL's context waits and TELN answers
false with the reason; an accepted request (here one without a key or a parameter block, of a thread with no store on its way to a pool) enters the
core's FIFO with its locks and counts in TELQ; the forms with `.F` do so at once where nothing is to be released. A request that has waited is not
checked again; one with a key carries its operation's number to the Mint. TELQ.W waits for zero. -/
def Claims.TellerRequests : Prop :=
  ∀ (s u : State) (f : F6) (a b x : R5) (o : TelOp) (ls : List (Nat × Lock)) (locks : List (Nat × Nat)),
    let c := s.me
    let w (i : Nat) : Word := c.xr (BitVec.ofNat 5 (b.toNat + i))
    let q0 := (w 0).toNat
    let op := q0 % 16
    let len := (w 3).toNat / 2 ^ 40
    let h : TelShape := ⟨1, len, 0, 0, 0⟩
    let fresh : TelOp := ⟨0, s.src, c.mode, c.rcb.toNat, c.asid, [w 0, w 1, w 2, w 3], 1, len, 0, 0, 0, none, [], false, false, [], 0, [], [], [],
      0, 0, none, 0, false⟩
    let p := s.setMe { c with telReq := some (o, ls) }
    let mine := ls.map fun l => (l.1, { l.2 with owner := s.serial })
    let busy := s.telBusy o.src.core o.rcb o.rcbAsid
    (c.telReq = none → (∀ a n, s.storesTo s.cur a n = false) → ∀ n, requestFault q0 (w 1).toNat (w 2).toNat (w 3).toNat = some n →
      Traps (.tel f b) s (c.opTrap 0x02 (8 + n)) ∧ Traps (.teln f a b x) s (c.opTrap 0x02 (8 + n))) ∧
    (c.telReq = some (o, ls) ∨ (c.telReq = none ∧ o = fresh ∧ (∀ a n, s.storesTo s.cur a n = false) ∧
        requestFault q0 (w 1).toNat (w 2).toNat (w 3).toNat = none ∧ (w 3).extractLsb' 0 17 = 0 ∧ q0.testBit 6 = false ∧ op ≠ 1 ∧ op ≠ 2 ∧
        s.telLocks op (w 1) (w 2) h 0 = .ok ls) →
      f.getLsbD 0 = false ∨ (AtRest s ∧ ∀ e ∈ (s.core c.core).cache, e.2.dirty = 0) →
      (∀ n, busy = some n → WaitsFrom (.tel f b) s p .tellerRoom c.stage [] ∧
        Completes (.teln f a b x) s (fun k => (k.setP a.toNat false).setX x (BitVec.ofNat 64 n))) ∧
      (busy = none → p.enterLocks mine = none → WaitsFrom (.tel f b) s p .tellerRoom c.stage [] ∧
        Completes (.teln f a b x) s (fun k => (k.setP a.toNat false).setX x 2)) ∧
      (busy = none → p.enterLocks mine = some (u, locks) →
        let n := { o with id := s.serial, key := o.key.map (numbered s.serial), locks := locks }
        let v := { u with serial := s.serial + 1 }.acceptTel n
        exec (.tel f b) s = .next v.done ∧ exec (.teln f a b x) s = .next (v.finish fun k => (k.setP a.toNat true).setX x 0) ∧
        v.fifo o.src.core = u.fifo o.src.core ++ [n] ∧ (u.me = p.me → v.me.telout = c.telout + 1))) ∧
    Sends (.telq a) s (·.pendX a) [.longResultArrival { Reply.of s.cur [.x a (BitVec.ofNat 64 c.telout) none] false with acquire := c.telout == 0 }] ∧
    (c.telout ≠ 0 → exec (.telqW a) s = .next (s.parkCounted .teller)) ∧
    (c.telout = 0 → exec (.telqW a) s = .next ((s.selfInvalidate c.core).finish fun k => k.setX a 0))

/-- R309 to R312: requests with a parameter block and with a key. A block must lie in the core's scratchpad (`ADDR_SPACE`, code 4), aligned on 16
bytes, and be well formed (`ILLEGAL_OP`, cause 12); a request that takes its shape from a block must have one (cause 13); a key record in a
scratchpad must lie in the core's own, aligned; the key's array must be declared and its grid hold the key, and the bytes must fit its tile.
Such a request, its locks placed, goes on as one that has been checked: with the block's shape and handler, and with the key, its descriptor and
readers. -/
def Claims.TellerKeyedRequests : Prop :=
  ∀ (s v : State) (f : F6) (a b x : R5) (bs : List Byte) (d : Desc) (ls : List (Nat × Lock)),
    let c := s.me
    let w (i : Nat) : Word := c.xr (BitVec.ofNat 5 (b.toNat + i))
    let q0 := (w 0).toNat
    let op := q0 % 16
    let wide := q0.testBit 6
    let off := ((w 3).extractLsb' 0 17).toNat
    let ad := (PoolAddr.mk (cellY (c.core / 8)) (cellX (c.core / 8)) (c.core % 8) off).absolute
    let hnd := BitVec.ofNat 64 (field bs 0 8)
    let h : TelShape := if wide then ⟨field bs 8 4, field bs 12 4, signedOf 64 (field bs 16 8), signedOf 64 (field bs 24 8), hnd⟩
      else ⟨1, (w 3).toNat / 2 ^ 40, 0, 0, hnd⟩
    let fresh (u : State) (key : Option KeyReq) : TelOp := ⟨0, u.src, c.mode, c.rcb.toNat, c.asid, [w 0, w 1, w 2, w 3], h.rows, h.rlen, h.sstr, h.dstr,
      h.hnd, key, [], false, false, [], 0, [], [], [], 0, 0, none, 0, false⟩
    let both (g : Instr → Prop) : Prop := g (.tel f b) ∧ g (.teln f a b x)
    c.telReq = none → (∀ a n, s.storesTo s.cur a n = false) → requestFault q0 (w 1).toNat (w 2).toNat (w 3).toNat = none →
    (off = 0 → wide → both fun i => Traps i s (c.opTrap 0x02 13)) ∧
    (off ≠ 0 → s.inPad c.core off 48 = false → both fun i => Traps i s ⟨0x07, 4, 0, ad⟩) ∧
    (off ≠ 0 → s.inPad c.core off 48 → off % 16 ≠ 0 → both fun i => Traps i s ⟨0x06, 16, 0, ad⟩) ∧
    (off ≠ 0 → s.inPad c.core off 48 → off % 16 = 0 → blockOk q0 (s.readBytes (poolBase c.core + off) 48) = false →
      both fun i => Traps i s (c.opTrap 0x02 12)) ∧
    ((off = 0 ∧ wide = false ∧ bs = []) ∨
        (off ≠ 0 ∧ s.inPad c.core off 48 ∧ off % 16 = 0 ∧ bs = s.readBytes (poolBase c.core + off) 48 ∧ blockOk q0 bs) →
      (op ≠ 1 → op ≠ 2 → s.telLocks op (w 1) (w 2) h 0 = .ok ls →
        both fun i => exec i s = exec i (s.setMe { c with telReq := some (fresh s none, ls) })) ∧
      (∀ p, op = 1 ∨ op = 2 → let at_ := if op = 1 then w 2 else w 1
        resolve c.core at_ 0 0 = .ok (.pool p) →
        (p.pkgCore ≠ c.core ∨ s.inPad c.core p.off 16 = false → both fun i => Traps i s ⟨0x07, 4, 0, at_⟩) ∧
        (p.pkgCore = c.core → s.inPad c.core p.off 16 → p.off % 16 ≠ 0 → both fun i => Traps i s ⟨0x06, 16, 0, at_⟩) ∧
        (p.pkgCore = c.core → s.inPad c.core p.off 16 → p.off % 16 = 0 →
          let r := s.readBytes (poolBase c.core + p.off) 16
          let k : Key := ⟨c.asid, field r 0 2, field r 2 2 % 2 ^ 12, field r 4 2 % 2 ^ 12, field r 8 4 % 2 ^ 24⟩
          let rdr := field r 12 2
          let use : KeyUse := if op = 1 then .tover (c.core / 8) 0 else .fromv (c.core / 8) 0 (rdr == 1)
          let y : KeyReq := ⟨v.src, k, descHome d k.i k.j, d, use, rdr, (c.keyReq.map KeyReq.since).getD v.ticks, c.rcb.toNat, c.asid, none⟩
          let fits : Prop := if op = 1 then h.rows * h.rlen = descBytes d else h.rows * h.rlen ≤ descBytes d
          (∀ t, s.keyPhase c k = .error t → both fun i => Traps i s t) ∧
          (s.keyPhase c k = .ok (d, v) → v.me = c → v.cur = s.cur →
            (¬fits → both fun i => exec i s = .next (v.trap v.cur (c.opTrap 0x02 (if wide then 12 else 11)))) ∧
            (fits → v.telLocks op (w 1) (w 2) h 0 = .ok ls →
              both fun i => exec i s = exec i (v.setMe { c with telReq := some (fresh v (some y), ls) }))))))

/-- R144, R156, R318, R319: before an instruction issues, the oldest pending user event is taken: `EVID` and `EVPC` are saved, `UPRED`'s event enable is cleared,
control goes to the event's handler, or to `UEHND` when that is 0, once the thread's loads have arrived, and the core's clean bytes are
invalidated, its dirty ones staying; UERET enables events
again and goes to `EVPC`. -/
def Claims.UserEvents : Prop :=
  ∀ (s : State) (tid : Nat) (id h : Word) (r : List (Word × Word)),
    let c := s.ctx tid
    (c.events = [] → exec (.userEventEntry tid) s = .next s) ∧
    (c.events = (id, h) :: r → ∃ t, exec (.userEventEntry tid) s = .next t ∧
      (let pc := if h = 0 then c.uehnd else h
       let park := if s.loading tid then some Park.loads else none
       t.ctx tid = { c with evid := id.setWidth 16, evpc := c.pc, pred := putBit c.pred 16 false, events := r, pc := pc, line := none, park := park }) ∧
      (t.core c.core).cache = (((s.core c.core).cache.filter fun e => e.2.dirty ≠ 0).map fun e =>
        (e.1, { e.2 with valid := e.2.dirty, pois := e.2.pois &&& wholeWords e.2.dirty })) ∧ t.mem = s.mem ∧ ∀ k, k ≠ tid → t.ctx k = s.ctx k) ∧
    ∃ t, exec .ueret s = .next t ∧ t.me.pc = s.me.evpc ∧ t.me.pred = putBit s.me.pred 16 true ∧ t.me.x = s.me.x ∧ t.me.v = s.me.v ∧ t.mem = s.mem

/-- `Claims.TellerRequests`; `Claims.TellerKeyedRequests`; `Claims.UserEvents` together. Each of these forms completes, at issue or with the answer
that its clause names, under conditions on the state and the operands alone: `tel`, `teln`, `telq`, `telqW`, `userEventEntry`, `ueret`. -/
def Obligations.TellerRequestsAndEvents : Prop := Claims.TellerRequests ∧ Claims.TellerKeyedRequests ∧ Claims.UserEvents

/-- R235, R306, R307, R313 to R317: an operation starts from the FIFO served next when the in-flight set has room: TOVER reserves its key and
FROMV pins its own first, and waits until the version is there. Each step then goes on with one of the units left, drawn freely: it moves the
unit, or only reads one of its source words ahead, which free value says; a unit whose slice has accepted a message of a higher plane in the
cycle waits for the next. A REDADD's segment of 64 KiB is read whole and each element applied once; a fault stops the operation and tells its
domain. When every unit is moved and no write is on its way it finishes: TOVER's version, FROMV's pin; ring, status word, locks, user event.
That a beat's source words are read in any number of steps, and that it is written in one, is the model's choice (log 10).
Each of these forms completes, at issue or with the answer that its clause names, under conditions on the state and the operands alone:
`tellerOpStart`, `tellerOpCompletion`, `redaddSegment`, `tellerFault`. -/
def Obligations.TellerOperations : Prop :=
  ∀ (s u v : State) (cell id q : Nat) (o : TelOp) (r : List TelOp) (code : Nat) (addr : Word) (bs : List (Byte × Bool)) (ps : List Nat) (y : KeyReq),
    let k := s.cell cell
    let op := (o.q.getD 0 0).toNat % 16
    let total := o.rows * o.rlen
    let goes (t : State) : Prop := exec (.tellerOpCompletion cell id) s = .next (t.post (.tellerOpCompletion cell id))
    let ends (t : State) : Prop := goes (t.modOp cell id fun o => { o with finish := some 0 })
    (k.flight.length ≥ Config.tellerInFlight → exec (.tellerOpStart cell) s = .next s) ∧
    (k.flight.length < Config.tellerInFlight → k.nextFifo cell = some q → k.fifos.get q [] = o :: r →
      let p := { o with started := true, left := o.units, tile := if op = 1 then List.replicate total 0 else [] }
      let n := { k with fifos := k.fifos.set q r, flight := k.flight ++ [p], turn := (q + 1) % 8 }
      let first (e : Event) : Prop := exec (.tellerOpStart cell) s = .next (((s.setCell cell n).post (.tellerOpStart cell)).post e)
      (o.key = none → first (if op = 3 then .redaddSegment cell o.id else .tellerOpCompletion cell o.id)) ∧
      (op = 1 → o.key = some y → y.desc.remote = false → first (.mintReserve y)) ∧ (op = 2 → o.key = some y → first (.mintReference y))) ∧
    (k.op id = none → exec (.tellerOpCompletion cell id) s = .next s ∧ exec (.redaddSegment cell id) s = .next s ∧
      exec (.tellerFault cell id code addr) s = .next s) ∧
    (k.op id = some o → o.id = id → o.stopped = 0 → o.finish = none →
      (o.key = some y → o.ready = false → goes (s.modOp cell id fun o => { o with ready := true })) ∧
      (∀ e, o.key = some y → o.ready → op = 2 → o.tile = [] → y.desc.remote = false → s.entry y.key y.home = some e →
        (e.st = .present → goes (s.modOp cell id fun o => { o with tile := e.data })) ∧
        (e.st = .dead → exec (.tellerOpCompletion cell id) s = .next (s.post (.tellerFault cell id (0x0D + 256 * 4) (keyPacked y.key)))) ∧
        (e.st = .pending ∨ e.st = .creating → ∀ t, s.addWaiter y (.teller cell id) = some t → exec (.tellerOpCompletion cell id) s = .next t)) ∧
      (o.left ≠ [] → (o.key = none ∧ op ≠ 3) ∨ (o.key = some y ∧ o.ready ∧ (op = 2 → o.tile ≠ [])) →
        let n := o.left.getD ((Config.freeWord s.draws).toNat % o.left.length) 0
        let d := { s with draws := s.draws + 1 }
        let e := { s with draws := s.draws + 2 }
        let w := Config.freeWord (s.draws + 1)
        let z := o.sourceOf n
        (d.telLate o n → exec (.tellerOpCompletion cell id) s = .next (d.at (s.pcyc + 1) (.tellerOpCompletion cell id))) ∧
        (d.telLate o n = false → o.reads = false ∨ w.getLsbD 0 = false →
          (∀ x, e.telUnit cell o n = .error x → exec (.tellerOpCompletion cell id) s = .next (e.telStopped cell o n x)) ∧
          (e.telUnit cell o n = .ok u → goes u)) ∧
        (d.telLate o n = false → o.reads → w.getLsbD 0 →
          (∀ x, e.telRun cell o (z.1 + w.toNat / 2 % z.2) 1 = .error x → exec (.tellerOpCompletion cell id) s = .next (e.telStopped cell o n x)) ∧
          (∀ x, e.telRun cell o (z.1 + w.toNat / 2 % z.2) 1 = .ok (bs, u) → (u.cell cell).op id = some x → x.part.length ≠ o.part.length → goes u))) ∧
      (o.key = none → o.left = [] → s.writesInFlight o.src = false → ends s ∧
        exec (.redaddSegment cell id) s = .next (s.post (.tellerOpCompletion cell id))) ∧
      (o.key = some y → o.ready → y.desc.remote = false → o.left = [] →
        (op = 1 → ends (s.create y.key y.home (creators y) o.tile)) ∧
        (op = 2 → o.tile ≠ [] → s.writesInFlight o.src = false → ends (s.post (.pinRelease y.key y.home)))) ∧
      (∀ n ns, op = 3 → o.left = n :: ns → n ∉ o.applied →
        let fmt := (o.q.getD 0 0).toNat / 4096 % 16
        let z := codeWidth fmt / 8
        let len := min 65536 (total - 65536 * n)
        s.telRun cell o (65536 * n) len = .ok (bs, u) → (∀ x ∈ bs, x.2 = false) →
        u.telTargets o z ((List.range (len / z)).map fun i => 65536 * n + z * i) = .ok (ps, v) →
        let vs := (List.range (len / z)).map fun i => valueOf (((bs.drop (z * i)).take z).map Prod.fst)
        let w := (ps.zip vs).foldl (fun s e => s.telApply o.src.core fmt e.1 e.2) v
        exec (.redaddSegment cell id) s = .next ((w.modOp cell id fun o => { o with
          left := ns, bytes := o.bytes + len, applied := if o.applied.contains n then o.applied else o.applied ++ [n] }).post (.redaddSegment cell id))) ∧
      (code % 256 = 0x0E → s.telStalls cell o = false → exec (.tellerFault cell id code addr) s = .next s) ∧
      (code % 256 ≠ 0x0E ∨ s.telStalls cell o →
        let u := State.modOp { s with stalled := s.stalled.filter fun e => !stalledFor cell id e } cell id fun o =>
          { o with stopped := if replayable code then 1 else 2 }
        exec (.tellerFault cell id code addr) s = .next (u.deliver ⟨o.rcb, o.rcbAsid, 0x13 + 256 * (code % 2 ^ 24), o.src.pc, (u.ctx o.src.tid).thid, addr, o.q,
          o.bytes, o.rcb, false, false, false, some (cell, id)⟩))) ∧
    (k.op id = some o → o.id = id → o.stopped = 0 → ∀ st, o.finish = some st →
      (o.posted = false → s.writesInFlight o.src →
        exec (.tellerOpCompletion cell id) s = .next (s.at (s.pcyc + 1) (.tellerOpCompletion cell id))) ∧
      (o.posted ∨ s.writesInFlight o.src = false →
        let u := if o.posted then s else (s.telFinish o st).modOp cell id fun o => { o with posted := true }
        exec (.tellerOpCompletion cell id) s = .next (u.telLeave cell o)))
/-! ## Threads and resources (15_threads_resources.md) -/

/-- R323 to R325, R347 to R349, log 20: RCBOP.GET reads a word of an RCB of the thread's own chain (`PRIV` outside it, `ILLEGAL_OP` past word 31); the others read and change
the RCB at its home and answer a status: 1 bad value, 2 above the parent's, 3 bad parent, 4 wrong state. A park limit that SET writes takes effect
for the RCB's existing threads whose kernel names none. CREATE writes the words it was given, or for a child those inherited where its mask says so, with its parent,
a new identity, its level and state 1, and zero in the words that hardware keeps. Which words each form accepts and compares with the parent's is the model's choice
(log 20). JOIN waits with acquire for `RCBLIVE` = 0, and JOIN.Q reads it.
Each of these forms completes, at issue or with the answer that its clause names, under conditions on the state and the operands alone: `rcbopGet`,
`rcbopSet`, `rcbopCreate`, `rcbopHold`, `rcbopRelease`, `rcbopRetire`, `join`, `joinQ`. -/
def Obligations.RegionControlBlocks : Prop :=
  ∀ (s : State) (a b p : R5) (o : Op2) (q h : Place),
    let c := s.me
    let idx := (c.op2U o).toNat
    let v := (c.xr a).toNat
    let asidOf (n : List Nat) : Nat := n.getD 3 0 / 2 ^ 32 % 512
    let made (u : State) (pa : Nat) (n : List Nat) (parent level : Nat) : State :=
      let words := (List.range 32).map fun k => if k = 21 then u.rcbSerial % 2 ^ 32 * 2 ^ 32 + level * 256 + 1 else if k = 0 then parent
        else if k ∈ [11, 12, 18, 19, 20] then 0 else n.getD k 0
      let v := ofLanes 64 words
      let t := ({ u with rcbSerial := u.rcbSerial + 1 }.homeStore pa 128 (v % 2 ^ 1024) false).2
      (t.homeStore (pa + 128) 128 (v / 2 ^ 1024) false).2
    (31 < idx → Traps (.rcbopGet a b o) s (c.opTrap 0x02 0) ∧ Traps (.rcbopSet a b o) s (c.opTrap 0x02 0)) ∧
    (idx ≤ 31 → (c.xr b).toNat ∉ s.chain c.rcb.toNat c.asid → Traps (.rcbopGet a b o) s (c.opTrap 0x05 0)) ∧
    (∀ i n, (i = .rcbopGet a b o ∧ n = idx ∧ idx ≤ 31 ∧ (c.xr b).toNat ∈ s.chain c.rcb.toNat c.asid) ∨ (i = .joinQ a b ∧ n = 18) →
      s.place c { n := 8, r := true, noPool := some 6, onlyDevice := some 6 } 0 (c.xr b) (8 * n : Nat) = .ok q →
      exec i s = .next (((s.settle c.core c.asid false q).finish (·.pendX a)).routeLoad
        ⟨(s.settle c.core c.asid false q).src, [q.lane], .x a 8 false, true, false⟩)) ∧
    (s.placeAtomic c (homeNeed 8 true false) 0 (c.xr b) (8 * 18 : Nat) = .ok q →
      let u := (s.settle c.core c.asid false q).yieldLines c.core [q.lane.pa / 128]
      exec (.join a b) s = .next ((u.parkCounted .word).post
        (.waitRegistration ⟨u.src, q.lane, .word 0 true 0, deadlineFrom u.ticks (c.xr a), true, a, 0, 3⟩))) ∧
    (s.rcbPlace (c.xr b) true = .ok q → s.pageHolding q.lane.pa = none → (s.core c.core).cache = [] → s.writingBack c.core = false →
      let u := s.settle c.core c.asid true q
      let w (k : Nat) : Nat := u.view (q.lane.pa + 8 * k) 8
      let st := w 21 % 8
      let put (k n : Nat) : State := (u.homeStore (q.lane.pa + 8 * k) 8 n false).2
      let state (n : Nat) : State := put 21 (w 21 / 8 * 8 + n)
      let up := u.rcbWord (w 0) (w 3 / 2 ^ 32 % 512) idx
      let live : Prop := st = 1 ∨ st = 2
      let fits : Prop := budgetOk idx v ∧ (idx = 3 → v / 2 ^ 32 % 512 ≠ 0 ∧ (w 0 = 0 ∨ v / 2 ^ 32 % 512 = w 3 / 2 ^ 32 % 512))
      (if live then CompletesLong (.rcbopHold a b) s (state 2) a 0 else CompletesLong (.rcbopHold a b) s u a 4) ∧
      (if st = 2 then CompletesLong (.rcbopRelease a b) s (state 1) a 0 else CompletesLong (.rcbopRelease a b) s u a 4) ∧
      (if ¬live then CompletesLong (.rcbopRetire a b) s u a 4
        else if w 18 = 0 then CompletesLong (.rcbopRetire a b) s (state 3) a 0 else CompletesLong (.rcbopRetire a b) s u a 1) ∧
      (idx < 3 ∨ 5 < idx → idx ≤ 31 → CompletesLong (.rcbopSet a b o) s u a 1) ∧
      (3 ≤ idx → idx ≤ 5 → (¬live → CompletesLong (.rcbopSet a b o) s u a 4) ∧ (live → ¬fits → CompletesLong (.rcbopSet a b o) s u a 1) ∧
        (live → fits → w 0 ≠ 0 → withinParent idx v up = false → CompletesLong (.rcbopSet a b o) s u a 2) ∧
        (live → fits → (w 0 = 0 ∨ withinParent idx v up) →
          let v' := if idx = 5 then u.limitParks (c.xr b).toNat (w 3 / 2 ^ 32 % 512) (v % 2 ^ 17) else u
          CompletesLong (.rcbopSet a b o) s (v'.homeStore (q.lane.pa + 8 * idx) 8 v false).2 a 0)) ∧
      (c.xr p = 0 → (live → CompletesLong (.rcbopCreate a b p) s u a 4) ∧
        (¬live → let n := u.rcbWords q.lane.pa
          (rcbOk n true = false ∨ asidOf n = 0 ∨ u.asidValid (asidOf n) = false → CompletesLong (.rcbopCreate a b p) s u a 1) ∧
          (rcbOk n true → asidOf n ≠ 0 → u.asidValid (asidOf n) → CompletesLong (.rcbopCreate a b p) s (made u q.lane.pa n 0 0) a 0)))) ∧
    (c.xr p ≠ 0 → s.rcbPlace (c.xr p) false = .ok h → s.rcbPlace (c.xr b) true = .ok q → s.pageHolding q.lane.pa = none → (s.core c.core).cache = [] →
      s.writingBack c.core = false →
      let u := s.settle c.core c.asid true q
      let w := u.rcbWords q.lane.pa
      let up := u.rcbWords h.lane.pa
      let n := inherit w up
      let live (l : List Nat) : Prop := l.getD 21 0 % 8 = 1 ∨ l.getD 21 0 % 8 = 2
      let level := up.getD 21 0 / 256 % 8 + 1
      let given : Prop := rcbOk w false ∧ asidOf n ≠ 0 ∧ u.asidValid (asidOf n)
      let inside : Prop := withinParent 3 (n.getD 3 0) (up.getD 3 0) ∧ withinParent 4 (n.getD 4 0) (up.getD 4 0) ∧
        withinParent 5 (n.getD 5 0) (up.getD 5 0) ∧ rectInside (rectOf (n.getD 17 0)) (rectOf (up.getD 17 0))
      let status (k : Word) : Prop := CompletesLong (.rcbopCreate a b p) s u a k
      (live w → status 4) ∧ (¬live w → ¬live up ∨ 7 < level → status 3) ∧
      (¬live w → live up → level ≤ 7 → (¬given → status 1) ∧ (given → ¬inside → status 2) ∧
        (given → inside → CompletesLong (.rcbopCreate a b p) s (made u q.lane.pa n (c.xr p).toNat level) a 0)))

/-- R342 to R344, log 71: the four POST forms and SPAWN read the task record, its RCB and its kernel header in turn; a record, RCB or header that breaks the
rules raises `ILLEGAL_OP`, cause 13, 14 or 15; then the record goes to a dispatcher. Accepted, POST is complete (POST.N with x[`A`] =
0); refused for want of room, POST.N answers 1 and POST waits until the stall limit. That a refused SPAWN gives back its thread's number only where no other thread
has taken one since is the model's choice (log 71). -/
def Claims.PostingTasks : Prop :=
  ∀ (s : State) (a b : R5) (i : Instr) (tid : Nat) (u : State),
    let c := s.me
    let r := c.taskParts
    let rec_ := recordOf64 r.1
    let posts : List Instr := [.post b, .postN a b, .postR b, .postRn a b]
    let sent (u : State) : State := (u.parkStage 5).post (.dispatcherRecordArrival (u.targetSector u.me.core u.me.taskRec) u.me.taskRec (some u.cur))
    (i ∈ posts ∨ i = .spawn a b →
      (c.stage = 0 → exec i s = .next ((s.setMe { c with stallSince := some (c.stallSince.getD s.ticks) }).readInto 1 { n := 64, r := true, rdup := true }
        (c.xr b) 0)) ∧
      (c.stage = 1 → (if rec_.flags / 4 ≠ 0 ∨ rec_.entry.toNat % 64 ≠ 0 then Traps i s (c.opTrap 0x02 13)
        else if rec_.rcb % 256 ≠ 0 then Traps i s (c.opTrap 0x02 14) else exec i s = .next (s.readInto 2 rcbNeed (BitVec.ofNat 64 rec_.rcb) 0))) ∧
      (c.stage = 2 → if rcbBad rec_ c.asid r.2.1 then Traps i s (c.opTrap 0x02 14)
        else exec i s = .next (s.readInto 3 headerNeed (entryOf rec_ r.2.1) (-64)))) ∧
    (i ∈ posts → c.stage = 3 → headerBad c.mode r.2.1 r.2.2 → Traps i s (c.opTrap 0x02 15)) ∧
    (c.stage = 3 → headerBad c.mode r.2.1 r.2.2 = false →
      exec (.post b) s = .next (sent s) ∧ exec (.postN a b) s = .next (sent s) ∧
      (s.relPart 1 3 = .ok u → exec (.postR b) s = .next (sent u) ∧ exec (.postRn a b) s = .next (sent u)) ∧
      (s.createThread c.taskRec (headerOf r.2.2) = none → CompletesLong (.spawn a b) s s a (BitVec.ofNat 64 (2 ^ 63 + 1))) ∧
      (s.createThread c.taskRec (headerOf r.2.2) = some (tid, u) →
        let v := (u.modCtx tid fun d => { d with queued := true, lastCore := u.me.core, core := u.me.core })
        let w := v.setMe { v.me with awaits := tid }
        exec (.spawn a b) s = .next ((w.parkStage 5).post (.dispatcherRecordArrival (w.targetSector w.me.core c.taskRec)
          { w.readyRecord tid none with flags := c.taskRec.flags, opnd := c.taskRec.opnd } (some w.cur))))) ∧
    (c.stage = 5 → c.hold = 0 → Completes (.post b) s id ∧ Completes (.postR b) s id ∧ Completes (.postN a b) s (·.setX a 0) ∧
      Completes (.postRn a b) s (·.setX a 0) ∧ CompletesLong (.spawn a b) s s a (s.ctx c.awaits).thid) ∧
    (c.stage = 6 → exec (.post b) s = .next (sent s) ∧ exec (.postR b) s = .next (sent s)) ∧
    (c.stage = 5 → c.hold ≠ 0 → Completes (.postN a b) s (·.setX a 1) ∧ Completes (.postRn a b) s (·.setX a 1) ∧
      exec (.post b) s = .next (s.parkRing b) ∧ exec (.postR b) s = .next (s.parkRing b) ∧ CompletesLong (.spawn a b) s (s.unspawn c.taskRec c.awaits) a (BitVec.ofNat 64 (2 ^ 63 + 2)))

/-- R111, R112, R337, R339, R340, R345, R346, log 69: the instructions by which a thread waits, moves or leaves its slot. EXIT with its release done and nothing
outstanding frees the image, the slot and the counts; YIELD is suspended once its long results are back; SLEEP waits for a time; MIG
and MIG.C go to the owner of an address or to a core, carrying the first vectors; LDM moves as MIG does and loads there, or is an LD when it is there; of an
address of host or remote memory, which no core of this device owns, it raises `ADDR_SPACE` code 6, the model's choice (log 69).
A packet's 3 + n flits hold the state that the thread has when it arrives.
Each of these forms completes, at issue or with the answer that its clause names, under conditions on the state and the operands alone: `exit`,
`yield`, `sleep`, `mig`, `migC`, `ldm`. -/
def Obligations.LeavingASlot : Prop :=
  ∀ (s u : State) (n f g : F6) (a b : R5) (m : MemOp) (o : Op2) (q : Place) (l : LaneOk) (dest : Nat) (r : R5),
    let c := s.me
    let idle : Prop := c.longs = 0 ∧ c.ackc = 0 ∧ c.pendc = 0 ∧ (s.core c.core).cache = [] ∧ s.writingBack c.core = false
    (s.relPart 1 0 = .ok u → (u.me.telout ≠ 0 ∨ u.me.longs ≠ 0 → WaitsFrom .exit s u .exit u.me.stage []) ∧
      (u.me.telout = 0 → u.me.longs = 0 →
        let d := u.me
        let v := (((u.setMe { d with events := [] }).clearHandles u.cur).freeImage d.rcb.toNat d.asid u.cur).leaveSlot u.cur .free
        exec .exit s = .next ((v.modCtx u.cur fun c => { c.abandon with held := 0 }).lowerLive d.rcb.toNat d.asid))) ∧
    (if c.longs ≠ 0 then WaitsFrom .yield s s .allLong c.stage [] else exec .yield s = .next (s.done.suspend s.cur)) ∧
    (let v := (c.op2U o).toNat
     let t := if f = 0 then s.ticks + v else v
     if t ≤ s.ticks then Completes (.sleep f o) s id
      else exec (.sleep f o) s = .next ((s.parkCounted (.sleep t)).at (cycleOfTick t) (.sleepTimeReached s.cur))) ∧
    (idle → let dest := (c.xr b).toNat % 8192
      if dest = c.core then exec (.migC n b) s = .next (s.clearHandles s.cur).done else exec (.migC n b) s = .next (s.sendAway dest (n.toNat % 16) none id)) ∧
    (s.place c migNeed 0 (c.xr m.b) m.disp.toInt = .ok q → (s.pageHolding q.lane.pa).isSome →
      exec (.mig n m) s = .next (s.parkMe (.page q.lane.pa))) ∧
    (s.place c migNeed 0 (c.xr m.b) m.disp.toInt = .ok q → s.pageHolding q.lane.pa = none → idle →
      let u := s.settle c.core c.asid false q
      u.me = c → (u.core c.core).cache = [] → u.writingBack c.core = false → exec (.mig n m) s = .next (if ownerCore c q = c.core then (u.clearHandles u.cur).done
        else u.sendAway (ownerCore c q) n.toNat none id)) ∧
    (s.placeLanes c false (sizeOf104 (BitVec.ofNat 6 (f.toNat / 16))) [⟨0, c.xr m.b, m.disp.toInt, (c.xr a).toNat⟩] = .ok [l] → l.place.target = .hbm →
      l.adj = none → idle →
      (ownerCore c l.place = c.core → g.toNat = f.toNat / 16 → exec (.ldm f a m) s = exec (.ld g a m) s) ∧
      (ownerCore c l.place ≠ c.core → let u := s.settleLanes c false [l]
        let there : Src := { u.src with core := ownerCore c l.place }
        let size := sizeOf104 (BitVec.ofNat 6 (f.toNat / 16))
        exec (.ldm f a m) s = .next (u.sendAway (ownerCore c l.place) (f.toNat % 16)
          (some (formed (c.xr m.b) m.disp.toInt, f.toNat / 16, a, ⟨there, [l.place.lane], .x a size false, false, false⟩)) (·.pendX a)))) ∧
    (s.placeLanes c false (sizeOf104 (BitVec.ofNat 6 (f.toNat / 16))) [⟨0, c.xr m.b, m.disp.toInt, (c.xr a).toNat⟩] = .ok [l] → l.place.target ≠ .hbm →
      Traps (.ldm f a m) s ⟨0x07, 6, 0, formed (c.xr m.b) m.disp.toInt⟩) ∧
    (let t := s.sendAway dest n.toNat none id
     let d := t.ctx s.cur
     let flits := packetFlits d s.cur n.toNat none
     let e := d.unpack n.toNat flits
     d.imstate = .suspended ∧ d.queued ∧ flits.length = 3 + n.toNat ∧ e.xr r = c.xr r ∧ e.vr r = (if r.toNat < n.toNat then c.vr r else 0) ∧
      e.k = Vector.replicate 4 0 ∧ e.pc = c.nextPc ∧ e.pred = c.pred ∧
      t.pending.getLast? = some (.migrationPacketArrival ⟨s.cur, dest, n.toNat, flits, none⟩))

/-- R64, R111, R235, R337, R340, R346, R381 to R383: what ends a thread's time in a slot or brings it back: the end of a sleep; the park limit, which suspends
once the long results are back; the stall limit, which traps, unless an answer that ends the stall is on its way, and ends a force in a fault; a packet's arrival, which takes a slot, waits in the buffer of eight, or
goes to the dispatcher; a line of its image, fetched when the next instruction needs it.
Each of these forms completes, at issue or with the answer that its clause names, under conditions on the state and the operands alone:
`sleepTimeReached`, `parkLimitExpiry`, `stallLimitExpiry`, `migrationPacketArrival`, `imageLineFetchArrival`, `imageWritebackCommand`, `imageLost`. -/
def Obligations.SlotEvents : Prop :=
  ∀ (s : State) (tid t core line : Nat) (p : Packet),
    let c := s.ctx tid
    (c.park = some (.sleep t) → exec (.sleepTimeReached tid) s = .next (if t ≤ s.ticks then s.wakeWith tid id else s)) ∧
    (c.imstate = .resident → c.halted = false → c.suspending ∨ (c.park.isSome ∧ ∃ since, c.parkSince = some since ∧ since + c.parkFor ≤ s.pcyc) →
      exec (.parkLimitExpiry tid) s = .next (if c.longs = 0 then s.suspend tid
        else (s.setCtx tid { c with suspending := true }).at (s.pcyc + 1) (.parkLimitExpiry tid))) ∧
    (c.imstate ≠ .resident → exec (.parkLimitExpiry tid) s = .next s) ∧
    (c.park = none ∨ c.stallSince = none → exec (.stallLimitExpiry tid) s = .next s) ∧
    (∀ since, c.park = some .ring → c.stallSince = some since → exec (.stallLimitExpiry tid) s = .next
      (if s.pcyc < cycleOfTick (since + s.rcbWord c.rcb.toNat c.asid 5 / 2 ^ 32 % 2 ^ 32) then s else s.wakeTrap tid ⟨0x15, 0, 0, c.hold⟩)) ∧
    (∀ code since, c.park = some (.quota code) → c.stallSince = some since →
      let rcb := (c.keyReq.map KeyReq.rcb).getD c.rcb.toNat
      let limit := cycleOfTick (since + s.rcbWord rcb c.asid 5 / 2 ^ 32 % 2 ^ 32)
      (s.pcyc < limit → exec (.stallLimitExpiry tid) s = .next s) ∧
      (limit ≤ s.pcyc → c.keyReq = none → exec (.stallLimitExpiry tid) s = .next (s.quotaStall tid code)) ∧
      (∀ q, limit ≤ s.pcyc → c.keyReq = some q →
        ((∀ o, .mintReplyArrival q o ∈ s.pending ++ s.due → ∃ n, o = .stall n) → exec (.stallLimitExpiry tid) s = .next (s.quotaStall tid code)) ∧
        (∀ o, .mintReplyArrival q o ∈ s.pending ++ s.due → (∀ n, o ≠ .stall n) → exec (.stallLimitExpiry tid) s = .next s))) ∧
    (∀ since f r z pc, c.park = some .version → c.stallSince = some since → c.force = some f → f.done = false → f.fault = none →
      List.find? (fun e => (f.read.find? e.1.id).isNone) f.leafs = some (r, z, pc) → exec (.stallLimitExpiry tid) s = .next
        (if s.pcyc < cycleOfTick (since + s.rcbWord c.rcb.toNat c.asid 5 / 2 ^ 32 % 2 ^ 32) then s
          else (s.unwait tid r.key r.home).faultForce tid f pc (0x0E + 256 * c.stallCode) (keyPacked r.key))) ∧
    (let d := s.ctx p.tid
     (s.coreGone p.core → exec (.migrationPacketArrival p) s =
      .next ((s.countContext d.rcb.toNat d.asid false).killThread p.tid trapCutMessage 0)) ∧
     (s.coreGone p.core = false → s.mayTake p.core d.asid d.split →
      let u := (s.modCtx p.tid (·.unpack p.n p.flits)).seat p.tid p.core true p.load
      exec (.migrationPacketArrival p) s = .next ([0, 1, 2, 4, 5, 6, 7, 8].foldl (fun s n => s.holdLine p.tid n) u)) ∧
     (s.coreGone p.core = false → s.mayTake p.core d.asid d.split = false → (s.core p.core).arrivals.length < 8 →
      let q := s.core p.core
      exec (.migrationPacketArrival p) s = .next (s.setCore p.core { q with arrivals := q.arrivals ++ [p] })) ∧
     (s.coreGone p.core = false → s.mayTake p.core d.asid d.split = false → 8 ≤ (s.core p.core).arrivals.length →
      let u := ((s.modCtx p.tid (·.unpack p.n p.flits)).countContext d.rcb.toNat d.asid false).syncImage p.tid
      exec (.migrationPacketArrival p) s = .next (u.post (.dispatcherRecordArrival (sectorOf (p.core / 8))
        { u.readyRecord p.tid (some p.core) with load := p.load } none)))) ∧
    (c.imstate = .resident → c.heldCore = c.core → c.held.getLsbD line = false →
      (s.poisonAt (tid + 128 * line) 128 → exec (.imageLineFetchArrival tid line) s = .next (s.post (.imageLost tid line))) ∧
      (s.poisonAt (tid + 128 * line) 128 = false → exec (.imageLineFetchArrival tid line) s = .next ((s.regionRoom c.core tid).modCtx tid fun d =>
        { d with held := d.held ||| BitVec.twoPow 32 line, heldCore := c.core, lineUse := d.lineUse.set line s.pcyc }))) ∧
    exec (.imageWritebackCommand core tid) s = .next (if c.heldCore = core then s.dropImage tid else s) ∧
    exec (.imageLost tid line) s = .next ((s.modCtx tid fun c => { c with imvalid := c.imvalid &&& ~~~BitVec.twoPow 32 line }).killThread tid 0x1D line)

/-- R331 to R336, R342, R382, log 21, 35: a dispatcher: a posted record is accepted, stamped and counted when there is room for it, and the poster is told which; with
no room for another record the store spills to the RCB's ring, whose oldest record comes back every 16 cycles, as the ring's bytes then say, to a dispatcher of its rectangle that
holds no record of its RCB; a record of a killed thread is dropped; a probe marks the four oldest records of the top priority; a placement picks one eligible record (here the
only one) and seats it on a core. That the poster learns the answer in the step of the arrival (log 35), that a record of the hardware's own is never refused, and what a
dispatcher keeps of a record beside the ring (log 21) are the model's choice. -/
def Claims.Dispatchers : Prop :=
  ∀ (s : State) (k tid rcb asid : Nat) (r : TaskRec) (i q : Nat),
    let d := s.dispatcher k
    let answer (v : Word) (s : State) : State := (s.modCtx tid fun c => { c with hold := v }).wakeAgain tid
    let stamp := s.ticks * 2 ^ 16 + (s.ctx tid).core
    let dead (r : TaskRec) : Prop := ∃ t, r.thread = some t ∧ (s.ctx t).imstate = .killed
    (r.thread = none → exec (.dispatcherRecordArrival k r (some tid)) s = .next (if s.taskRoom k r
      then answer 0 ((s.raiseLive r.rcb r.asid).acceptRecord k { r with stamp := stamp }) else answer 1 s)) ∧
    exec (.dispatcherRecordArrival k r none) s = .next (if s.taskRoom k r then s.acceptRecord k r else s.store k r) ∧
    (dead r → s.acceptRecord k r = s) ∧
    (¬dead r → s.acceptRecord k r = if d.records.length < Config.dispatcherStore then s.store k r else s.spill k r) ∧
    ((s.store k r).dispatcher k).records = d.records ++ [r] ∧
    (s.rcbWord rcb asid 12 ≤ s.rcbWord rcb asid 11 → exec (.spillRefill k rcb asid) s = .next s) ∧
    (let head := s.rcbWord rcb asid 11
     let mine (e : Nat × Nat × Nat × TaskRec) : Bool := e.1 == asid && e.2.1 == s.rcbWord rcb asid 9 && e.2.2.1 == head
     let ends (u : State) : Prop := exec (.spillRefill k rcb asid) s = .next (if u.ringCount rcb asid = 0 then u else u.at (u.pcyc + 16) (.spillRefill k rcb asid))
     let taken : State := ({ s with spilled := s.spilled.filter fun x => !mine x } : State).setRcbWord rcb asid 11 (head + 1)
     let again (u : State) : State := u.retryHeld fun x => s.ringOwner x.rcb x.asid == rcb && x.asid == asid
     head < s.rcbWord rcb asid 12 → (s.spilled.find? mine = none → ends s) ∧
      ∀ e pa, s.spilled.find? mine = some e → s.hwAddr asid (s.ringAddr rcb asid head) = some pa → let r := s.ringRecord e.2.2.2 pa
        (dead r → ends (again taken)) ∧
        (¬dead r → d.records.length < Config.dispatcherStore → sectorMeets k (rectOf (s.rcbWord r.rcb r.asid 17)) →
          (∀ x ∈ d.records, x.rcb = r.rcb → x.asid ≠ r.asid) → ends (again (taken.store k r))) ∧
        (¬dead r → Config.dispatcherStore ≤ d.records.length → ends s)) ∧
    (∀ pa, r.thread = none → let n := s.ringRecord r pa
      n.own = BitVec.ofNat 64 (s.view pa 8) ∧ n.rcb = s.view (pa + 8) 8 % 2 ^ 64 ∧ n.opnd = BitVec.ofNat 64 (s.view (pa + 24) 8) ∧
        n.stamp = s.view (pa + 56) 8 % 2 ^ 64 ∧ n.asid = r.asid ∧ n.superv = r.superv ∧ n.service = r.service) ∧
    (let marks := s.toProbe d.records.zipIdx
     ∃ t, exec (.residencyProbe k) s = .next t ∧ (t.dispatcher k).records.length = d.records.length ∧ t.threads = s.threads ∧ t.mem = s.mem ∧
      ∀ j x, d.records[j]? = some x → (t.dispatcher k).records[j]? = some (if marks.contains j then { x with probed := true, hit := s.probeHits k x }
        else { x with probed := false, hit := false })) ∧
    (d.records = [] → exec (.placement k) s = .next s) ∧
    (let cands := d.records.zipIdx.filter fun e => !(s.eligibleCores k e.1).isEmpty
     (cands = [] → exec (.placement k) s = .next (s.lookAgain k)) ∧
     (s.pick cands = some (r, i) → s.bestCore r (s.eligibleCores k r) = some q → d.records.zipIdx.filter (fun e => e.2 != i) = [] →
      let u := (s.setDispatcher k { d with records := [] }).placeOn r q
      (u.dispatcher k).records = [] → exec (.placement k) s = .next u)) ∧
    (r.thread = some tid → s.placeOn r q = (s.countContext r.rcb r.asid true).seat tid q false r.load)

/-- `Claims.PostingTasks`; `Claims.Dispatchers` together. Each of these forms completes, at issue or with the answer that its clause names, under
conditions on the state and the operands alone: `post`, `postN`, `postR`, `postRn`, `spawn`, `dispatcherRecordArrival`, `spillRefill`,
`residencyProbe`, `placement`. -/
def Obligations.TasksAndDispatch : Prop := Claims.PostingTasks ∧ Claims.Dispatchers

/-! ## Differentiable execution (16_differentiable.md) -/

/-- R351, R352, R357: DREG reads a descriptor and enters its region in the lowest free slot, answering 256 times the slot, or 1 malformed, 2
overlapping, 3 no slot; DREG.U empties a slot (4 when it is empty); a changed table goes to every core of the space; DREG.Q reports a
slot.
Each of these forms completes, at issue or with the answer that its clause names, under conditions on the state and the operands alone: `dreg`,
`dregU`, `dregQ`, `regionTableUpdateAtCore`. -/
def Obligations.Regions : Prop :=
  ∀ (s : State) (a b : R5) (r : Region) (core asid tid : Nat),
    let c := s.me
    let t := s.regionTables.get c.asid []
    let k := (c.xr b).toNat % 16
    let told := (s.cores.filter fun e => e.2.padAsid == some c.asid).map Prod.fst
    let changes (i : Instr) (w : Word) (n : SMap Region) : Prop :=
      ∃ u, exec i s = .next u ∧ Differs { s with regionTables := s.regionTables.set c.asid n } u s.cur (c.pendX a).advance
        (told.map (fun q => .regionTableUpdateAtCore s.cur q c.asid) ++ [.longResultArrival (Reply.of s.cur [.x a w none] false)])
    (c.stage = 0 → exec (.dreg a b) s = .next (s.readStruct (c.xr b) 0 32)) ∧
    (c.stage ≠ 0 → regionOfBytes c.buf = none → CompletesLong (.dreg a b) s s a 1) ∧
    (c.stage ≠ 0 → regionOfBytes c.buf = some r →
      let bad := rangesMeet r.base (r.cnt * r.width) r.adj (4 * r.cnt) || t.any fun e => e.2.overlaps r
      (bad → CompletesLong (.dreg a b) s s a 2) ∧
      (bad = false → (∀ n, n < 16 → (t.find? n).isSome) → CompletesLong (.dreg a b) s s a 3) ∧
      (bad = false → ∀ n, n < 16 → t.find? n = none → (∀ m, m < n → (t.find? m).isSome) →
        changes (.dreg a b) (BitVec.ofNat 64 (256 * n)) (t.set n r))) ∧
    (t.find? k = none → CompletesLong (.dregU a b) s s a 4 ∧ CompletesLong (.dregQ a b) s s a 0) ∧
    (t.find? k = some r → changes (.dregU a b) 0 (t.erase k) ∧
      CompletesLong (.dregQ a b) s s a (BitVec.ofNat 64 (2 ^ 63 + 2 ^ 32 * r.fmt + r.cnt))) ∧
    exec (.regionTableUpdateAtCore tid core asid) s = .next (if (s.core core).padAsid = some asid
      then s.setCore core { s.core core with regions := s.regionTables.get asid [] } else s)

/-- R353, R358, R360, R361, log 28: DMODE sets or clears `UPRED`'s mode once nothing of the thread is outstanding; for an element of word memory in a region DADJ gives
its cell's address, DADJ.L reads the cell, DADJ.X exchanges it, DADJ.P loads the element forward, and DSEED and DSEED.V contribute one
`PENDC`, a thread whose `PENDC` is 32 not being ready to issue (R64, R126); an address that is no element raises `DIFF_SHAPE`, a misaligned one
`ADDR_ALIGN`. That DADJ.X of another device's cell asks its home by a read-clear request, and parks for the answer, is the model's choice
(log 28). -/
def Claims.AdjointCells : Prop :=
  ∀ (s : State) (a b x : R5) (k : Nat) (r : Region) (p : Place) (ps : List Place),
    let c := s.me
    let at_ := (c.xr b).toNat
    let n := (at_ - r.base) / r.width
    let cell : Word := BitVec.ofNat 64 (r.adj + 4 * n)
    let quiet : Prop := s.quiet s.cur true
    let read : Need := { n := 4, r := true, noPool := some 6, rdup := true }
    let update (remote : Bool) : Need := { n := 4, r := true, w := true, noPool := some 6, onlyDevice := some 6, remote := remote, store := true }
    (if quiet then Completes .dmodeFwd s (fun c => { c with pred := putBit c.pred 17 false }) ∧
        Completes .dmodeRev s (fun c => { c with pred := putBit c.pred 17 true })
      else WaitsFrom .dmodeFwd s s (.performed true) c.stage [] ∧ WaitsFrom .dmodeRev s s (.performed true) c.stage []) ∧
    (AtRest s → quiet) ∧
    Completes (.dmodeQ a) s (·.setX a (if c.pred.getLsbD 17 then 1 else 0)) ∧
    (at_ < 2 ^ 53 → regionOf (s.regionsFor c.core c.asid) at_ 1 = none →
      ∀ i ∈ [Instr.dadj a b, .dadjL a b, .dadjX a b, .dadjP a b, .dseed b x, .dseedV b x], Traps i s ⟨0x12, 255, 0, c.xr b⟩) ∧
    (at_ < 2 ^ 53 → regionOf (s.regionsFor c.core c.asid) at_ 1 = some (k, r) → at_ % r.width ≠ 0 →
      ∀ i ∈ [Instr.dadj a b, .dadjL a b, .dadjX a b, .dadjP a b, .dseed b x, .dseedV b x], Traps i s ⟨0x06, r.width, 0, c.xr b⟩) ∧
    (at_ < 2 ^ 53 → regionOf (s.regionsFor c.core c.asid) at_ 1 = some (k, r) → at_ % r.width = 0 →
      Completes (.dadj a b) s (·.setX a cell) ∧
      (s.place c read 0 cell 0 = .ok p →
        let u := (s.settle c.core c.asid false p).yieldLines c.core [p.lane.pa / 128]
        (c.pendc ≠ 0 → WaitsFrom (.dadjL a b) s s .pendcZero c.stage []) ∧
        (c.pendc = 0 → exec (.dadjL a b) s = .next (u.loadLanes (.x a 4 false) true [⟨p, 0, none⟩] (·.pendX a)))) ∧
      (s.place c (update true) 0 cell 0 = .ok p →
        let u := (s.settle c.core c.asid true p).yieldLines c.core [p.lane.pa / 128]
        let q : MemReq := ⟨u.src, [p.lane], .x a 4 false, true, false⟩
        let op : AtomOp := .readClear c.rm [(0, 0)]
        (c.pendc ≠ 0 → WaitsFrom (.dadjX a b) s s .pendcZero c.stage []) ∧
        (c.pendc = 0 → awayLanes q = [] → exec (.dadjX a b) s = .next ((u.post (.atomicAtHome q op)).finish (·.pendX a))) ∧
        (c.pendc = 0 → awayLanes q ≠ [] → exec (.dadjX a b) s = .next ((u.parkMe .reply).sendClear { q with parked := true } op))) ∧
      (s.place c (update false) 0 cell 0 = .ok p →
        (32 ≤ c.pendc → s.ready s.cur = false) ∧
        let v := (s.settleAll c.core c.asid true [p]).yieldLines c.core (linesOf [p.lane])
        exec (.dseed b x) s = .next ((v.post (.contributionAtHome ⟨v.src, [p.lane], .none, true, false⟩ 16 [(c.xr x).toNat % 2 ^ 32])).finish
          fun c => { c with pendc := c.pendc + 1 })) ∧
      (s.place c { n := r.width, r := true, rdup := true } 0 (c.xr b) 0 = .ok p →
        exec (.dadjP a b) s = .next ((s.settle c.core c.asid false p).loadLanes (.x a r.width false) false [⟨p, 0, none⟩] (·.pendX a))) ∧
      (at_ + 16 * r.width ≤ r.base + r.cnt * r.width →
        placeAll (fun i => s.placeCell (update false) i r (at_ + i * r.width)) (List.range 16) = .ok ps →
        let v := (s.settleAll c.core c.asid true ps).yieldLines c.core (linesOf (ps.map Place.lane))
        exec (.dseedV b x) s = .next ((v.post (.contributionAtHome ⟨v.src, ps.map Place.lane, .none, true, false⟩ 16
          ((List.range 16).map fun i => ((c.vr x).extractLsb' (32 * i) 32).toNat))).finish fun c => { c with pendc := c.pendc + 1 })))

/-- R361, R365, log 22: DSEED.T forces its handle whole and contributes it to the adjoint tile of a differentiable array, another array raising `DIFF_SHAPE` (that
one whose format has no adjoint tile takes no contribution is the model's choice, log 22); DCLR and DCLR.R wait until no contribution is outstanding,
store +0 at the cells of a region or of a range, and answer 0 when every store is acknowledged, DCLR answering 4 for an empty slot; DCLR.T has the Mint release the adjoint tile. -/
def Claims.SeedAndClear : Prop :=
  ∀ (s u : State) (a b l : R5) (ko : KeyOp) (d : Desc) (x : Base) (sh : Shape) (r : Region) (ps : List Place),
    let c := s.me
    let k := (c.keyOf ko).1
    let need : Need := { n := 4, w := true, noPool := some 6, store := true }
    let cells (first n : Nat) : Prop := placeAll (fun i => s.place c need 0 (BitVec.ofNat 64 (first + 4 * i)) 0) (List.range n) = .ok ps
    let stored : State :=
      let v := (s.settleAll c.core c.asid true ps).storeLanes s.src c.slot true (ps.map fun p => (p.lane, 0))
      v.setMe { v.me with stage := 1, midway := true, park := some .acks }
    (s.keyPhase c k = .ok (d, u) → u.me = c → u.cur = s.cur →
      (d.diff = false → exec (.dseedT a ko) s = .next (u.trap u.cur ⟨0x12, 255, 0, keyPacked k⟩)) ∧
      (d.diff → c.target? a = some (x, sh) → sh = ⟨d.rows, d.cols, d.fmt, d.blk⟩ →
        let whole : Rect := ⟨0, d.rows - 1, 0, d.cols - 1⟩
        let q := u.keyReqOf k d .contribute 0
        let v := u.setMe { c with keyReq := some q }
        (5 ≤ d.fmt → (c.force = none → Forces (.dseedT a ko) s u 1 a.toNat x whole) ∧ (∀ g, Forced s g → CompletesFrom (.dseedT a ko) s u id [])) ∧
        (d.fmt < 5 → (c.stage = 2 → CompletesFrom (.dseedT a ko) s u id []) ∧
          (32 ≤ c.pendc → s.ready s.cur = false) ∧
          (c.stage = 0 → c.force = none → Forces (.dseedT a ko) s v 1 a.toNat x whole) ∧
          (∀ g, c.stage = 1 → Forced s g → d.remote = false →
            let vals := tileContributions d.fmt g
            AsksMint (.dseedT a ko) s (v.setMe { v.me with pendc := c.pendc + 1, buf := contributionBytes vals }) 2 q (.adjointTileContribution q 0 vals)))) ∧
      (c.stage = 1 → CompletesFrom (.dclrT ko) s u id []) ∧
      (c.stage = 0 → d.remote = false → c.pendc = 0 → AsksMint (.dclrT ko) s u 1 (u.keyReqOf k d .adjDrop 0) (.mintDrop (u.keyReqOf k d .adjDrop 0)))) ∧
    (let slot := (c.xr b).toNat % 16
     ((s.regionsFor c.core c.asid).find? slot = none → (c.stage = 0 → c.pendc = 0 → CompletesLong (.dclr a b) s s a 4) ∧
      (c.stage = 0 → c.pendc ≠ 0 → WaitsFrom (.dclr a b) s s .pendcZero c.stage [])) ∧
     ((s.regionsFor c.core c.asid).find? slot = some r → (c.stage = 1 → CompletesLong (.dclr a b) s s a 0) ∧
      (c.stage = 0 → c.pendc = 0 → cells r.adj r.cnt → exec (.dclr a b) s = .next stored))) ∧
    (let n := (c.xr l).toNat
     let at_ := (c.xr b).toNat
     ((n = 0 ∧ c.pendc = 0) ∨ c.stage = 1 → CompletesLong (.dclrR a b l) s s a 0) ∧
     (n = 0 → c.stage = 0 → c.pendc ≠ 0 → WaitsFrom (.dclrR a b l) s s .pendcZero c.stage []) ∧
     (n ≠ 0 → c.stage = 0 → at_ < 2 ^ 53 →
      (regionOf (s.regionsFor c.core c.asid) at_ 1 = none → Traps (.dclrR a b l) s ⟨0x12, 255, 0, c.xr b⟩) ∧
      (∀ slot, regionOf (s.regionsFor c.core c.asid) at_ 1 = some (slot, r) →
        (r.base + r.cnt * r.width < at_ + n → Traps (.dclrR a b l) s ⟨0x12, 255, 0, c.xr b⟩) ∧
        (at_ + n ≤ r.base + r.cnt * r.width → c.pendc = 0 → r.base ≤ at_ →
          cells (r.adj + (at_ - r.base) / r.width * 4) ((at_ + n - 1 - r.base) / r.width - (at_ - r.base) / r.width + 1) →
          exec (.dclrR a b l) s = .next stored))))

/-- `Claims.AdjointCells`; `Claims.SeedAndClear` together. Each of these forms completes, at issue or with the answer that its clause names, under
conditions on the state and the operands alone: `dmodeFwd`, `dmodeRev`, `dmodeQ`, `dadj`, `dadjL`, `dadjX`, `dadjP`, `dseed`, `dseedV`, `dseedT`,
`dclr`, `dclrR`, `dclrT`. -/
def Obligations.AdjointsAndSeeds : Prop := Claims.AdjointCells ∧ Claims.SeedAndClear

/-- R362 to R364, log 27: a tape entry is the 16 bytes of its address, old value, width, slot and tag. TAPE.MARK and TAPE.QUERY read `TAPEP`; TAPE.POP reads the entry
below it, restores the old value, with its error mark (that the mark goes with it, and that reading the entry reports none, is the model's
choice, log 27), and steps `TAPEP` back, answering 1 for an empty tape, 2 for a pointer outside it, 3 for a malformed
entry; TAPE.REWIND pops to a mark and answers how many it popped.
Each of these forms completes, at issue or with the answer that its clause names, under conditions on the state and the operands alone: `tapeMark`,
`tapeQuery`, `tapePop`, `tapeRewind`, `tapePush`. -/
def Obligations.Tape : Prop :=
  ∀ (s : State) (a b : R5) (p : Place) (src : Src) (entry : Lane) (addr old width slot tag : Nat) (poison : Bool),
    let c := s.me
    let e := c.buf
    let w := field e 12 1
    let m := c.xr b
    let down := { c with tapep := c.tapep - 16, hold := c.hold + 1 }
    let malformed : Prop := (w ≠ 2 ∧ w ≠ 4) ∨ 16 ≤ field e 13 1 ∨ 2 ^ (8 * w) ≤ field e 8 4
    let restores (i : Instr) : Prop := s.place c { n := w, w := true, store := true } 0 (BitVec.ofNat 64 (field e 0 8)) 0 = .ok p →
      let v := (s.settle c.core c.asid true p).storeLanes s.src c.slot true [({ p.lane with bad := c.bufBad.getD 1 false }, field e 8 4)]
      exec i s = .next (v.setMe { v.me with stage := 2, midway := true, park := some .acks })
    let lower : Prop := c.tapep.toNat < c.tapeb.toNat
    Completes (.tapeMark a) s (·.setX a c.tapep) ∧
    Completes (.tapeQuery a) s (·.setX a (if lower then BitVec.ofNat 64 (2 ^ 63) else BitVec.ofNat 64 ((c.tapep.toNat - c.tapeb.toNat) / 16))) ∧
    (c.stage = 0 → (c.tapep = c.tapeb → CompletesLong (.tapePop a) s s a 1) ∧
      (c.tapep ≠ c.tapeb → lower ∨ c.tapel.toNat < c.tapep.toNat → CompletesLong (.tapePop a) s s a 2) ∧
      (c.tapep ≠ c.tapeb → ¬lower → c.tapep.toNat ≤ c.tapel.toNat → c.ackc = 0 → exec (.tapePop a) s = .next s.readEntry) ∧
      (m.toNat % 16 ≠ 0 ∨ m.toNat < c.tapeb.toNat ∨ c.tapep.toNat < m.toNat → CompletesLong (.tapeRewind a b) s s a (BitVec.ofNat 64 (2 ^ 63 + 2))) ∧
      (m = c.tapep → m.toNat % 16 = 0 → ¬lower → CompletesLong (.tapeRewind a b) s s a 0) ∧
      (m.toNat % 16 = 0 → c.tapeb.toNat ≤ m.toNat → m.toNat < c.tapep.toNat → c.ackc = 0 →
        exec (.tapeRewind a b) s = .next (s.setMe { c with hold := 0 }).readEntry)) ∧
    (c.stage = 1 → (malformed → CompletesLong (.tapePop a) s s a 3 ∧ CompletesLong (.tapeRewind a b) s s a (BitVec.ofNat 64 (2 ^ 63 + 3))) ∧
      (¬malformed → restores (.tapePop a) ∧ restores (.tapeRewind a b))) ∧
    (c.stage = 2 → c.ackc ≠ 0 → WaitsFrom (.tapePop a) s s .acks 2 [] ∧ WaitsFrom (.tapeRewind a b) s s .acks 2 []) ∧
    (c.stage = 2 → c.ackc = 0 → CompletesLong (.tapePop a) s (s.setMe down) a 0 ∧
      (c.tapep - 16 = m → CompletesLong (.tapeRewind a b) s (s.setMe down) a (c.hold + 1)) ∧
      (c.tapep - 16 ≠ m → exec (.tapeRewind a b) s = .next (s.setMe down).readEntry)) ∧
    exec (.tapePush src entry addr old width slot tag poison) s = .next ((s.modCtx src.tid fun c => { c with ackc := c.ackc - 1 }).writeThrough src
      [({ entry with bad := poison }, addr % 2 ^ 64 + 2 ^ 64 * (old % 2 ^ 32) + 2 ^ 96 * width + 2 ^ 104 * slot + 2 ^ 112 * tag)])

/-! ## System (17_system.md) -/

/-- R371 to R374, R399: taking a trap. A routed trap in user mode goes to the user handler with `FLTPC`, `FLTADDR` and `FLTCODE`; any other of a user or
supervisor context goes to `SVEC`, saving the PC, the code word, the address, and `UEN` with the mode, in supervisor mode with `UEN`
cleared; one that finds `SSTAT.INT` set, and one in firmware mode, goes to `FVEC`; one that finds `FSTAT.INT` set stops the core. Nothing else
of the thread that execution reads changes, and no memory. SYSC and SYSC.FW return to the next instruction, TRAP to itself. -/
def Claims.TakingATrap : Prop :=
  ∀ (s : State) (t : Trap) (i : BitVec 16),
    let c := s.me
    let routed : Bool := (t.code ≠ 0 && t.code ≤ 0x12 && t.code ≠ 0x05 && !(t.code == 0x0A && t.detail == 3)) || t.code == 0x15 || t.code == 0x16 ||
      t.code == 0x17 || t.code == 0x1A
    let word := t.code % 256 + 256 * (t.detail % 256) + 65536 * (t.hi % 65536)
    let status : BitVec 4 := 8#4 ||| (if c.pred.getLsbD 16 then 4#4 else 0) ||| (match c.mode with
      | .user => 0#4
      | .supervisor => 1#4
      | .firmware => 2#4)
    let kept (d : Ctx) : Prop := d.x = c.x ∧ d.v = c.v ∧ d.k = c.k ∧ (∀ n, n ≠ 16 → d.pred.getLsbD n = c.pred.getLsbD n) ∧ d.handles = c.handles ∧
      d.thunks = c.thunks ∧ d.park = none ∧ d.midway = false
    let toUser (u : State) (t : Trap) : Prop := let d := u.me
      u.cur = s.cur ∧ u.mem = s.mem ∧ kept d ∧ d.fltpc = c.pc ∧ d.fltaddr = t.addr ∧ d.fltcode = BitVec.ofNat 32 word ∧ d.pc = c.uthnd ∧ d.mode = c.mode ∧
        d.pred = c.pred
    let toSuper (u : State) (epc : Word) (t : Trap) (word : Nat) : Prop := let d := u.me
      u.cur = s.cur ∧ u.mem = s.mem ∧ kept d ∧ d.sepc = epc ∧ d.scause = BitVec.ofNat 64 word ∧ d.saddr = t.addr ∧ d.sstat = status ∧ d.mode = .supervisor ∧
        d.pc = s.svec ∧ d.pred.getLsbD 16 = false
    let toFirmware (u : State) (epc : Word) (word : Nat) : Prop := let d := u.me
      u.cur = s.cur ∧ u.mem = s.mem ∧ kept d ∧ d.fepc = epc ∧ d.fcause = BitVec.ofNat 64 word ∧ d.fstat = status ∧ d.mode = .firmware ∧ d.pc = s.fvec ∧
        d.pred.getLsbD 16 = false
    let handled := c.mode = .user ∧ routed ∧ c.khtraps.getLsbD t.code ∧ c.uthnd ≠ 0
    (handled → toUser (s.trap s.cur t) t) ∧
    (¬handled → c.mode ≠ .firmware → c.sstat.getLsbD 3 = false → toSuper (s.trap s.cur t) c.pc t word) ∧
    (¬handled → c.mode ≠ .firmware → c.sstat.getLsbD 3 → c.fstat.getLsbD 3 = false → toFirmware (s.trap s.cur t) c.pc word) ∧
    (c.mode = .firmware → c.fstat.getLsbD 3 = false → toFirmware (s.trap s.cur t) c.pc word) ∧
    (c.mode = .firmware → c.fstat.getLsbD 3 → ((s.trap s.cur t).core c.core).stopped ∧ (s.trap s.cur t).me = c) ∧
    Traps (.trap i) s ⟨0x1A, 0, i.toNat, 0⟩ ∧
    (c.mode ≠ .firmware → c.sstat.getLsbD 3 = false →
      ∃ u, exec (.sysc i) s = .next u ∧ toSuper u c.nextPc ⟨0x19, 0, i.toNat, 0⟩ (0x19 + 65536 * i.toNat)) ∧
    (c.fstat.getLsbD 3 = false → ∃ u, exec (.syscFw i) s = .next u ∧ toFirmware u c.nextPc (0x19 + 65536 * i.toNat))

/-- R400: ERET returns to `SEPC`, or from firmware to `FEPC`, restores the saved `UEN` and the saved mode (no higher than the returning one's may
be), and clears `INT`. -/
def Claims.ReturningFromATrap : Prop :=
  ∀ (s : State),
    let c := s.me
    let mode (pm : BitVec 2) (fw : Bool) : Mode := if pm = 1 then .supervisor else if pm = 2 ∧ fw then .firmware else .user
    ∃ u, exec .eret s = .next u ∧ u.cur = s.cur ∧ u.mem = s.mem ∧ (let d := u.me
      d.x = c.x ∧ d.v = c.v ∧ d.k = c.k ∧ (∀ n, n ≠ 16 → d.pred.getLsbD n = c.pred.getLsbD n) ∧
      (c.mode = .firmware → d.pc = c.fepc ∧ d.mode = mode (c.fstat.extractLsb' 0 2) true ∧ d.pred.getLsbD 16 = c.fstat.getLsbD 2 ∧ d.fstat.getLsbD 3 = false) ∧
      (c.mode ≠ .firmware → d.pc = c.sepc ∧ d.mode = mode (c.sstat.extractLsb' 0 2) false ∧ d.pred.getLsbD 16 = c.sstat.getLsbD 2 ∧
        d.sstat.getLsbD 3 = false))

/-- `Claims.TakingATrap`; `Claims.ReturningFromATrap` together. Each of these forms completes, at issue or with the answer that its clause names,
under conditions on the state and the operands alone: `trap`, `sysc`, `syscFw`, `eret`. -/
def Obligations.TrapsAndReturns : Prop := Claims.TakingATrap ∧ Claims.ReturningFromATrap

/-- R377, R401: SGET reads a system register and changes nothing else; SPUT writes one: the context's own, the device's, or one whose write acts (an
arena, a split, retention, a fence, a cell reset, `SEVT`), and the instruction is complete. -/
def Claims.SystemRegisters : Prop :=
  ∀ (s : State) (a b : R5),
    let c := s.me
    let v := c.xr b
    let d := s.die (dieOf c.core)
    let reads (n : BitVec 12) (w : Word) : Prop := Completes (.sget a n) s (·.setX a w)
    let puts (n : BitVec 12) (f : Ctx → Ctx) : Prop := ∃ t, exec (.sput b n) s = .next t ∧ t = s.setMe (f c.advance)
    let acts (n : BitVec 12) (e : Instr) : Prop := exec (.sput b n) s = exec e s.done
    let core := v.toNat % 8192
    reads 0x100 c.sepc ∧ reads 0x101 c.scause ∧ reads 0x102 c.saddr ∧ reads 0x103 (c.sstat.setWidth 64) ∧ reads 0x104 s.svec ∧ reads 0x105 c.sscr0 ∧
    reads 0x106 c.sscr1 ∧ reads 0x107 ((s.sevt (dieOf c.core)).setWidth 64) ∧ reads 0x108 (BitVec.ofNat 64 (c.asid % 512)) ∧ reads 0x110 s.asidtb ∧
    reads 0x111 (BitVec.ofNat 64 d.tsplit ||| if d.tsplitSticky then BitVec.twoPow 64 63 else 0) ∧ reads 0x113 c.slrstat ∧
    reads 0x114 (BitVec.ofNat 64 d.pwrthr) ∧ reads 0x115 d.tarena ∧ reads 0x116 (d.tarlen ||| if d.tarlenSticky then BitVec.twoPow 64 63 else 0) ∧
    reads 0x11A c.cstat ∧ reads 0x120 (s.devid.setWidth 64) ∧ reads 0x130 s.fvec ∧ reads 0x131 c.fepc ∧ reads 0x132 c.fcause ∧
    reads 0x133 (c.fstat.setWidth 64) ∧
    puts 0x100 (fun k => { k with sepc := v }) ∧ puts 0x101 (fun k => { k with scause := v }) ∧ puts 0x102 (fun k => { k with saddr := v }) ∧
    puts 0x103 (fun k => { k with sstat := v.setWidth 4 }) ∧ puts 0x105 (fun k => { k with sscr0 := v }) ∧ puts 0x106 (fun k => { k with sscr1 := v }) ∧
    puts 0x131 (fun k => { k with fepc := v }) ∧ puts 0x132 (fun k => { k with fcause := v }) ∧ puts 0x133 (fun k => { k with fstat := v.setWidth 4 }) ∧
    exec (.sput b 0x104) s = .next { s.done with svec := v } ∧ exec (.sput b 0x110) s = .next { s.done with asidtb := v } ∧
    exec (.sput b 0x120) s = .next { s.done with devid := v.setWidth 10 } ∧ exec (.sput b 0x130) s = .next { s.done with fvec := v } ∧
    acts 0x107 (.sevtClear (dieOf c.core) v) ∧ acts 0x111 (.tsplitWrite (dieOf c.core) v) ∧
    acts 0x112 (if v.getLsbD 63 then .slretEnter s.cur (v.toNat % 2048) else .slretWake s.cur (v.toNat % 2048)) ∧
    acts 0x115 (.tarenaWrite (dieOf c.core) false v) ∧ acts 0x116 (.tarenaWrite (dieOf c.core) true v) ∧
    acts 0x118 (if v.getLsbD 63 then .cfenceFence s.cur core (v.getLsbD 13) else .cfenceRestore s.cur core (v.getLsbD 13)) ∧
    acts 0x119 (.creset s.cur (v.toNat % 1024))

/-- R169, R377 to R379, R389, R390, log 43, 52 and 58: what the acting writes do: a slice enters retention only when its tables are empty; a split that gives up storage in use, an arena that does
not fit, and a change of the arena while it is in use set the sticky bit and change nothing else; a fence pre-empts the residents and fences the core or cell until it is restored; a cell reset is refused
during a reset, and otherwise leaves the cell's cores with nothing and ends after 4,096 cycles, when their cycle counts start again. That a wake which only supplies data leaves the slice in retention (logs 43 and
58), and which lines a new split evicts (log 52), is the model's choice. -/
def Claims.ActingWrites : Prop :=
  ∀ (s : State) (tid slice die core cell q : Nat) (v : Word) (b : Bool),
    let sl := s.slice slice
    let d := s.die die
    let stat (u : State) (n : Word) : Out State := .next (u.modCtx tid fun c => { c with cstat := n })
    (sl.tills = [] → sl.waiters = [] → sl.records = [] → sl.mint = [] → exec (.slretEnter tid slice) s =
      .next ((s.setSlice slice { sl with retained := true }).modCtx tid fun c => { c with slrstat := 0 })) ∧
    (sl.tills ≠ [] ∨ sl.waiters ≠ [] ∨ sl.records ≠ [] ∨ sl.mint ≠ [] → exec (.slretEnter tid slice) s = .next (s.modCtx tid fun c => { c with slrstat := 1 })) ∧
    exec (.slretWake tid slice) s = .next ((s.setSlice slice { sl with retained := false }).modCtx tid fun c => { c with slrstat := 0 }) ∧
    exec (.retentionDataWake slice) s = .next s ∧
    (let n := v.toNat % 8
     let used : Prop := ∃ sl ∈ s.slicesOf die, ∃ r ∈ sl.runs, r.arena = false ∧ n * 256 < r.start + r.len
     (n = 7 ∨ (n < d.tsplit ∧ used) → exec (.tsplitWrite die v) s = .next (s.setDie die { d with tsplitSticky := true })) ∧
     (n ≠ 7 → d.tsplit ≤ n ∨ ¬used →
      exec (.tsplitWrite die v) s = .next (((s.setDie die { d with tsplit := n }).l2Split die).wakeDie die))) ∧
    (let base := if b then d.tarena else v
     let n := if b then v &&& 0xFFFFFFFF#64 else d.tarlen
     let used := (s.slicesOf die).any fun sl => sl.runs.any fun r => r.arena
     exec (.tarenaWrite die b v) s = .next (if (used && (base != d.tarena || n != d.tarlen)) || !arenaOk die base.toNat n.toNat then s.setDie die { d with tarlenSticky := true }
      else (s.setDie die { d with tarena := base, tarlen := n }).wakeDie die)) ∧
    exec (.sevtClear die v) s = .next (s.setDie die { d with sevt := d.sevt &&& ~~~v.setWidth 8 }) ∧
    (let cores := if b then (List.range 8).map (8 * (core / 8) + ·) else [core]
     let u := (cores.flatMap fun q => (s.core q).slots.map Prod.snd).foldl (fun s t => s.preempt t false) s
     exec (.cfenceFence tid core b) s = stat (u.setFence core b true) 0) ∧
    exec (.cfenceRestore tid core b) s = stat (s.setFence core b false) 0 ∧
    (s.setFence core false b).core core = { s.core core with fenced := b } ∧
    ((s.cell cell).resetUntil.isSome → exec (.creset tid cell) s = stat s 1) ∧
    ((s.cell cell).resetUntil = none → q / 8 = cell → ∃ t, exec (.creset tid cell) s = .next t ∧ (t.core q).slots = [] ∧ (t.core q).cache = [] ∧
      (t.core q).tlb = [] ∧ (t.core q).split = none ∧ (t.cell cell).resetUntil = some (s.pcyc + 4096) ∧ (t.cell cell).fenced = (s.cell cell).fenced) ∧
    (q / 8 = cell → ∃ t, exec (.cellResetEnd cell) s = .next t ∧ (t.cell cell).resetUntil = none ∧ t.core q = { s.core q with cycle0 := s.pcyc } ∧ t.mem = s.mem)

/-- `Claims.SystemRegisters`; `Claims.ActingWrites` together. Each of these forms completes, at issue or with the answer that its clause names, under
conditions on the state and the operands alone: `sget`, `sput`, `slretEnter`, `slretWake`, `retentionDataWake`, `tsplitWrite`, `tarenaWrite`,
`sevtClear`, `cfenceFence`, `cfenceRestore`, `creset`, `cellResetEnd`. -/
def Obligations.SystemRegistersAndWrites : Prop := Claims.SystemRegisters ∧ Claims.ActingWrites

/-- R388, R402 to R405, log 18, 23, 35, 77 and 91: TLBI does its release, asks every core of its scope to drop what it names, and is complete when all have
acknowledged, which a core does once no access translated through a removed entry is left in it; CTXSW seats a held thread (2 when it is not held, 1 when the
core cannot take it, or a level's budget of contexts is full, which is the model's choice, log 91); CTXSW.FL writes back a slot's lines that the core holds (which lines count as
dirty is the model's choice, log 18); PREEMPT answers the thread's id, or bit 63 for an empty slot; a halt reaches every core within 64 cycles, which then latches its counts and stops the
subtree's contexts; GANG.RESUME releases the subtree, a part of a halted one too, whose contexts go on with the lines that they hold (the model's choice, log 77); GANG.READ reads a latch. That a core's
acknowledgement counts in the step in which it acts (log 35), and by how much its message counts have grown (log 23), is the model's choice.
Each of these forms completes, at issue or with the answer that its clause names, under conditions on the state and the operands alone: `tlbiAll`,
`tlbiAsid`, `tlbiVa`, `tlbiRange`, `tlbiShootdownAtCore`, `ctxsw`, `ctxswFl`, `ctxswQ`, `preempt`, `preemptH`, `preemptArrival`, `gangHalt`,
`gangResume`, `gangRead`, `haltTreeArrival`. -/
def Obligations.SystemControl : Prop :=
  ∀ (s u : State) (a b x l : R5) (sc : BitVec 3) (tid core slot rcb : Nat) (asid : Option Nat) (range : Option (Nat × Nat)) (hold : Bool),
    let c := s.me
    let scope := if sc = 0 then 1 else sc.toNat
    let named := c.xr b
    let va := (c.xr x).toNat
    let n := (c.xr l).toNat
    let asks (i : Instr) (asid : Option Nat) (range : Option (Nat × Nat)) : Prop :=
      (c.stage ≠ 9 → s.relPart scope 0 = .ok u → exec i s = .next (u.askCores (s.scopeCores c.core scope) fun q => .tlbiShootdownAtCore u.cur q asid range)) ∧
      (c.stage = 9 → exec i s = .next ((s.scopeCores c.core scope).foldl (fun s q => s.shootDown asid range q) s).done)
    let space := some (named.toNat % 512)
    (asks (.tlbiAll sc) none none ∧ asks (.tlbiAsid sc b) space none ∧ asks (.tlbiVa sc b x) space (some (va, va + 1)) ∧
      (n ≠ 0 → n ≤ 2 ^ 32 → asks (.tlbiRange sc b x l) space (some (va, va + n))) ∧ (2 ^ 32 < n → asks (.tlbiRange sc b x l) space none)) ∧
    (n = 0 → c.stage ≠ 9 → s.relPart scope 0 = .ok u → CompletesFrom (.tlbiRange sc b x l) s u id []) ∧
    (let u := s.shootDown asid range core
     (s.translated asid range core = false → exec (.tlbiShootdownAtCore tid core asid range) s = .next (u.ackPlane6 tid)) ∧
     (s.translated asid range core → exec (.tlbiShootdownAtCore tid core asid range) s = .next (u.at (u.pcyc + 1) (.tlbiShootdownAtCore tid core asid range)))) ∧
    ((s.shootDown none none core).core core).tlb = [] ∧ ((s.shootDown none none core).cell (core / 8)).tlb = [] ∧
    ((s.shootDown none none core).die (dieOf core)).tlb = [] ∧
    (let t := s.ctx named.toNat
     (t.imstate ≠ .held → CompletesLong (.ctxsw a b) s s a 2) ∧
     (t.imstate = .held → s.mayTake c.core t.asid t.split = false ∨ s.asidValid t.asid = false ∨ s.contextFits t.rcb.toNat t.asid = false →
      CompletesLong (.ctxsw a b) s s a 1) ∧
     (t.imstate = .held → s.mayTake c.core t.asid t.split → s.asidValid t.asid → s.contextFits t.rcb.toNat t.asid →
      exec (.ctxsw a b) s = .next (((s.countContext t.rcb.toNat t.asid true).seat named.toNat c.core false none).doneLong a 0))) ∧
    (let ts := s.slotThreads c.core (named.toNat % 16)
     let mine := ts.filter fun t => (s.ctx t).heldCore == c.core
     exec (.ctxswFl a b) s = .next ((mine.foldl (fun s t => s.writeBackImage t) s).doneLong a (BitVec.ofNat 64 (mine.map fun t => (s.dirtyLines t).length).sum)) ∧
     (ts = [] → CompletesLong (.ctxswQ a b) s s a 0) ∧
     (∀ t r, ts = t :: r → CompletesLong (.ctxswQ a b) s s a (BitVec.ofNat 64 ((if (s.ctx t).imstate = .resident then 1 else 2) * 2 ^ 62 +
      (if (s.ctx t).heldCore = c.core then (s.ctx t).heldLines.length else 0) * 2 ^ 48 + (s.ctx t).thid.toNat % 2 ^ 32)))) ∧
    WaitsFrom (.preempt a b) s s .reply c.stage [.preemptArrival s.cur (named.toNat % 8192) (named.toNat / 2 ^ 16 % 16) false a] ∧
    WaitsFrom (.preemptH a b) s s .reply c.stage [.preemptArrival s.cur (named.toNat % 8192) (named.toNat / 2 ^ 16 % 16) true a] ∧
    ((s.core core).slots.find? slot = none → exec (.preemptArrival tid core slot hold a) s = .next (s.wakeWith tid fun c => c.setX a (BitVec.ofNat 64 (2 ^ 63)))) ∧
    (∀ t, (s.core core).slots.find? slot = some t → exec (.preemptArrival tid core slot hold a) s =
      .next ((if hold then s.leaveSlot t .held else (s.leaveSlot t .suspended).requeue t).wakeWith tid fun c => c.setX a (s.ctx t).thid)) ∧
    (c.stage = 9 → CompletesLong (.gangHalt a b) s s a c.hold) ∧
    (let halts (on : Bool) := s.halts.filter (fun h => !s.inSubtree c.asid named.toNat h.2.1 h.1) ++ [(c.asid, named.toNat, on)]
     (c.stage ≠ 9 → ∃ t ts, exec (.gangHalt a b) s = .next t ∧ t.halts = halts true ∧
       t.me = { c with hold := 0, stage := 9, awaits := s.cores.length, park := some .plane6 } ∧ t.timers = s.timers ++ ts ∧ t.mem = s.mem ∧
       ts.map Prod.snd = s.cores.map (fun q => .haltTreeArrival s.cur q.1 named.toNat) ∧ ∀ e ∈ ts, s.pcyc < e.1 ∧ e.1 ≤ s.pcyc + 64) ∧
     (∃ t, CompletesLong (.gangResume a b) s t a
         (BitVec.ofNat 64 (s.threads.filter fun e => e.2.halted && s.inSubtree c.asid named.toNat e.2.rcb.toNat e.2.asid).length) ∧
       t.halts = halts false ∧ t.mem = s.mem ∧ t.cores = s.cores ∧
       (∀ k, s.inSubtree c.asid named.toNat (s.ctx k).rcb.toNat (s.ctx k).asid → (t.ctx k).halted = false) ∧
       ∀ k, (t.ctx k).line = (s.ctx k).line ∧ (t.ctx k).pc = (s.ctx k).pc)) ∧
    (let q := s.core core
     let grown (old new : Nat) : Prop := ∃ d, d ≤ 8 * (s.pcyc - q.cycle0 - q.latch.1) ∧ new = (old + d) % 2 ^ 48
     ∃ t, exec (.haltTreeArrival tid core rcb) s = .next t ∧ (t.core core).latch.1 = s.pcyc - q.cycle0 ∧ (t.core core).latch.2.2.2 ∧
      grown q.latch.2.1 (t.core core).latch.2.1 ∧ grown q.latch.2.2.1 (t.core core).latch.2.2.1 ∧
      ∀ k ∈ s.gangOf core (s.ctx tid).asid rcb, (t.ctx k).halted) ∧
    (let p := (s.core (named.toNat % 8192)).latch
     CompletesLong (.gangRead a b) s s a (BitVec.ofNat 64 (match named.toNat / 8192 % 4 with
      | 0 => p.1
      | 1 => p.2.1
      | 2 => p.2.2.1
      | _ => p.2.2.2.toNat)))

/-- R392, R393, R396, R406 to R409, log 5, 7, 37 and 42: KEYOP answers 2 for a malformed slot word, 1 for a slot in use, 4 for an empty one, 3 for a blob that does not unwrap, and
otherwise fills or clears the slot (whether a blob unwraps is a free choice, log 5), and the clearing leaves no line under its keys (log 37); CAPR reads the capability list, whose records follow one another by their headers, and CAPR.F finds an id (that
the nine ids ascend and the records are contiguous is the model's choice, log 7); ERRQ.POP takes the oldest entry of the die's queue and
ERRQ.Q counts; ERRQ.INJ answers 1 for a location that does not exist, and else arms it, the error of an HBM page showing when the page is next read, of another
location at a free time (the model's choice, log 42; so is which locations of a structure exist whose layout the spec does not give, log 7); WFE waits for an
event of the die, and goes on after one that has come, whatever `SEVT` reads by then. -/
def Claims.KeysErrorsEvents : Prop :=
  ∀ (s : State) (a b x : R5) (e : Word) (r : List Word),
    let c := s.me
    let w := c.xr b
    let k := w.toNat % 128
    let bad : Prop := w.extractLsb' 7 9 ≠ 0 ∨ w.extractLsb' 26 38 ≠ 0
    let slot : KeySlot := ⟨(w.extractLsb' 16 9).toNat, w.getLsbD 25⟩
    let filled : State := { s with vault := s.vault.set k slot }
    let die := dieOf c.core
    let d := s.die die
    (bad → CompletesLong (.keyopGen a b) s s a 2 ∧ CompletesLong (.keyopLoad a b x) s s a 2 ∧ CompletesLong (.keyopClr a b) s s a 2) ∧
    (¬bad → (s.vault.find? k).isSome → CompletesLong (.keyopGen a b) s s a 1 ∧ CompletesLong (.keyopLoad a b x) s s a 1 ∧
      ∃ t, CompletesLong (.keyopClr a b) s t a 0 ∧ t.vault = s.vault.erase k ∧ (∀ e ∈ t.proxies, e.2.key ≠ k) ∧ (∀ e ∈ t.lineKeys, e.2 ≠ k) ∧
        ∀ q, ∀ l ∈ (t.core q).cache, l.2.key ≠ k) ∧
    (¬bad → s.vault.find? k = none → CompletesLong (.keyopGen a b) s filled a 0 ∧ CompletesLong (.keyopClr a b) s s a 4 ∧
      (c.stage ≠ 0 → if Config.unwraps c.buf then CompletesLong (.keyopLoad a b x) s filled a 0 else CompletesLong (.keyopLoad a b x) s s a 3)) ∧
    (s.vault.find? k = none → CompletesLong (.keyopQ a b) s s a 0) ∧
    (∀ y, s.vault.find? k = some y → CompletesLong (.keyopQ a b) s s a (BitVec.ofNat 64 (2 ^ 63 + y.any.toNat * 2 ^ 25 + y.owner % 512 * 2 ^ 16))) ∧
    Completes (.capr a b) s (·.setX a (s.capRead w.toNat)) ∧ (w.toNat % 8 ≠ 0 → s.capRead w.toNat = 0) ∧
    Completes (.caprF a b) s (·.setX a (BitVec.ofNat 64 (capFind (w.toNat % 65536)))) ∧ (∀ id, 9 < id → capFind id = 0) ∧ capFind 0 = 0 ∧
    (∀ id, 1 ≤ id → id ≤ 9 → (s.capRead (capFind id)).toNat / 2 ^ 48 = id ∧
      (s.capRead (capFind id)).toNat % 2 ^ 24 = if id = 9 then 0 else capFind (id + 1)) ∧
    (d.errq = [] → CompletesLong (.errqPop a) s s a 0) ∧
    (d.errq = e :: r → CompletesLong (.errqPop a) s (s.setDie die { d with errq := r }) a e) ∧
    CompletesLong (.errqQ a) s (s.setDie die { d with errOverflow := 0 }) a (BitVec.ofNat 64 (d.errq.length % 2 ^ 16 + d.errOverflow % 2 ^ 32 * 2 ^ 16)) ∧
    (let cls := (w.extractLsb' 56 4).toNat
     let inst := (w.extractLsb' 40 16).toNat
     let loc := (w.extractLsb' 16 24).toNat
     let u := s.setDie die { d with armed := d.armed ++ [(cls, inst, loc)] }
     (locationExists die cls inst loc = false → CompletesLong (.errqInj a b) s s a 1) ∧
     (locationExists die cls inst loc → if cls = 8 then CompletesLong (.errqInj a b) s u a 0
      else exec (.errqInj a b) s = .next ((u.post (.softErrorCorrected die cls inst loc)).doneLong a 0)) ∧
     ((9 < cls ∨ (cls ∈ [0, 4, 5] ∧ 8192 ≤ inst) ∨ (cls ∈ [1, 2, 3] ∧ 2048 ≤ inst) ∨ (cls = 9 ∧ (8 ≤ inst ∨ die ≠ 0))) → locationExists die cls inst loc = false) ∧
     (cls = 8 → (locationExists die cls inst loc ↔ hbmExists (loc * 65536) ∧ loc * 65536 / 2 ^ 38 % 4 = die))) ∧
    (if s.sevt die = 0 ∧ c.stage ≠ 1 then WaitsFrom .wfe s s .event 1 [] else Completes .wfe s id)

/-- R375, R376, R399, R447, log 40: a fault record is delivered to the nearest domain whose area can be written, in its lowest free slot, and counted; while there is none, or no
free slot, it is tried again after 1,024 cycles. TRAP.RET by another thread than the domain's handler raises `PRIV`; a disposition that the
record's code does not accept answers in x[`B`]; an accepted one is acted on and the slot is freed. Which dispositions a code accepts that R376 does not list is the model's choice (log 40). -/
def Claims.FaultRecords : Prop :=
  ∀ (s : State) (r : FaultRec) (b : R5) (disp : BitVec 16) (dom pa k : Nat) (lf : Leaf) (p : Place),
    let c := s.me
    let again (s : State) (r : FaultRec) : Out State := .next (s.at (s.pcyc + 1024) (.deliverRetry r))
    (s.domainArea r.home r.asid = none → exec (.deliverRetry r) s = .next ((s.at (s.pcyc + 1024) (.deliverRetry { r with stuck := true })).wakeEvents 0)) ∧
    (s.domainArea r.home r.asid = some (dom, pa, lf) → s.freeRecord pa = none → r.waited → exec (.deliverRetry r) s = again s { r with stuck := false }) ∧
    (s.domainArea r.home r.asid = some (dom, pa, lf) → s.freeRecord pa = none → r.waited = false →
      exec (.deliverRetry r) s = again ((s.touchLeaf lf true).2.bumpArea (pa + 8)) { r with waited := true, stuck := false }) ∧
    (s.domainArea r.home r.asid = some (dom, pa, lf) → s.freeRecord pa = some k →
      let u := (s.touchLeaf lf true).2
      let at_ := pa + 128 * k
      let v : State := match r.op with
        | none => u
        | some (cell, op) => { u with stops := (u.stops.filter fun x => x.1 != at_) ++ [(at_, cell, op)] }
      exec (.deliverRetry r) s = .next ((v.homeStore at_ 128 (valueOf (faultBytes r (dom != r.home))) false).2.bumpArea pa)) ∧
    (s.freeRecord pa = some k → 1 ≤ k ∧ k ≤ 31 ∧ s.view (pa + 128 * k + 4) 1 = 0 ∧ ∀ j, 1 ≤ j → j < k → s.view (pa + 128 * j + 4) 1 ≠ 0) ∧
    (c.thid.toNat ≠ s.rcbWord c.rcb.toNat c.asid 8 → Traps (.trapRet b disp) s (c.opTrap 0x05 0)) ∧
    (c.thid.toNat = s.rcbWord c.rcb.toNat c.asid 8 →
      s.place c { n := 128, r := true, w := true, noPool := some 6, onlyDevice := some 6, store := true } 0 (c.xr b) 0 = .ok p →
      s.pageHolding p.lane.pa = none → (s.core c.core).cache = [] → s.writingBack c.core = false →
      let u := s.settle c.core c.asid true p
      let at_ := p.lane.pa
      let bs := (List.range 16).flatMap fun i => bytesOf 8 (u.view (at_ + 8 * i) 8)
      (field bs 4 1 ≠ 1 ∨ accepts (field bs 0 4) disp.toNat = false → CompletesFrom (.trapRet b disp) s u (·.setX b (BitVec.ofNat 64 (2 ^ 63 + 2))) []) ∧
      (field bs 4 1 = 1 → accepts (field bs 0 4) disp.toNat →
        let v := (u.homeStore (at_ + 4) 2 (2 + 256 * disp.toNat) false).2
        let w := v.actDisposition at_ bs disp.toNat
        exec (.trapRet b disp) s = .next (({ w with stops := w.stops.filter fun x => x.1 != at_ }).homeStore (at_ + 4) 1 0 false).2.done))

/-- `Claims.KeysErrorsEvents`; `Claims.FaultRecords` together. Each of these forms completes, at issue or with the answer that its clause names, under
conditions on the state and the operands alone: `keyopGen`, `keyopLoad`, `keyopClr`, `keyopQ`, `capr`, `caprF`, `errqPop`, `errqQ`, `errqInj`, `wfe`,
`trapRet`, `deliverRetry`. -/
def Obligations.KeysErrorsAndRecords : Prop := Claims.KeysErrorsEvents ∧ Claims.FaultRecords

/-! ## Links and host (18_multi_device.md, 19_host.md) -/

/-- R412, R414, R418, R424, R425, log 39, 44 and 49: each ABIND form answers its status by a reply for which the context parks: 5 the device itself, 4 already bound, 3 no slot, 1 no route, 7 not bound, 6
still used, 2 refused; a bind and a subscription go to the owner and back. LSTAT, LSTAT.D and LSTAT.H report a link, a route and the host link; an
immediate out of range raises `ILLEGAL_OP`. That a register operand of LSTAT counts modulo its range (log 39), the order in which ABIND checks (log 44), and the state in
which a restored link is found (log 49) are the model's choice.
Each of these forms completes, at issue or with the answer that its clause names, under conditions on the state and the operands alone: `abind`,
`abindU`, `abindS`, `abindSu`, `abindX`, `abindRt`, `abindLf`, `lstat`, `lstatD`, `lstatH`. -/
def Obligations.Bindings : Prop :=
  ∀ (s : State) (a b x : R5) (o : Op2),
    let c := s.me
    let v := (c.xr b).toNat
    let w := (c.xr x).toNat
    let low := v % 1024
    let high := v / 2 ^ 16 % 1024
    let own := s.devid.toNat
    let answers (i : Instr) (u : State) (n : Word) : Prop :=
      WaitsFrom i s u .reply c.stage [.longResultArrival (Reply.of s.cur [.x a n none] true)]
    let trip (i : Instr) (form dev arr xport op : Nat) : Prop :=
      (s.route dev = none → answers i s 1) ∧
      (∀ l, s.route dev = some l → let u := s.await (.bind s.cur a form dev arr xport)
        exec i s = .next ((u.2.sendOn l dev (.remoteKey ⟨own, l, xport, arr, 0, 0, 0, op, [], 0, 0, 0, u.1⟩)).parkMe .reply))
    (low = own → answers (.abind a b x) s 5 ∧ answers (.abindU a b) s 5) ∧
    (low ≠ own → (∀ e, s.bindingTo c.asid low = some e → answers (.abind a b x) s (BitVec.ofNat 64 (4 + 256 * e.slot))) ∧
      (s.bindingTo c.asid low = none → answers (.abindU a b) s 7 ∧ (s.freeBinding c.asid = none → answers (.abind a b x) s 3) ∧
        ((s.freeBinding c.asid).isSome → trip (.abind a b x) 0 low 0 (w % 256) 11)) ∧
      ((s.bindingTo c.asid low).isSome → if s.slices.any fun e => e.2.arrays.any fun d => d.1 == c.asid && d.2.remote && d.2.dev == low
        then answers (.abindU a b) s 6
        else answers (.abindU a b) { s with bindings := s.bindings.filter fun e => !(e.asid == c.asid && e.dev == low) } 0)) ∧
    (high = own → answers (.abindS a b) s 5 ∧ answers (.abindSu a b) s 5) ∧
    (high ≠ own → s.bindingTo c.asid high = none → answers (.abindS a b) s 7 ∧ answers (.abindSu a b) s 7) ∧
    (∀ e, high ≠ own → s.bindingTo c.asid high = some e → trip (.abindS a b) 2 high (v % 65536) e.xport 9 ∧
      trip (.abindSu a b) 3 high (v % 65536) e.xport 10) ∧
    (c.xr b = 0 → answers (.abindX a b x) { s with exports := s.exports.erase (w % 256) } 0) ∧
    (c.xr b ≠ 0 → (c.stage = 0 → exec (.abindX a b x) s = .next (s.readStruct (c.xr b) 0 32)) ∧
      (c.stage ≠ 0 → (exportOk c.buf = false ∨ s.rcbWord? (field c.buf 0 8) c.asid 3 = none → answers (.abindX a b x) s 2) ∧
        (∀ p, exportOk c.buf → s.rcbWord? (field c.buf 0 8) c.asid 3 = some p →
          let e : Export := ⟨field c.buf 0 8, p / 2 ^ 32 % 512, field c.buf 8 8, field c.buf 16 8, field c.buf 24 2, field c.buf 26 1⟩
          answers (.abindX a b x) { s with exports := s.exports.set (w % 256) e } 0))) ∧
    answers (.abindRt a b x) { s with routes := if w.testBit 63 then s.routes.set low (w % 8) else s.routes.erase low } 0 ∧
    (v.testBit 63 → (s.link (v % 8)).state = 3 → answers (.abindLf a b) s 0) ∧
    (v.testBit 63 → (s.link (v % 8)).state ≠ 3 → exec (.abindLf a b) s = .next ((s.setLink (v % 8) 3).parkResult a 0)) ∧
    (v.testBit 63 = false → (s.link (v % 8)).state ≠ 3 → answers (.abindLf a b) s 0) ∧
    (v.testBit 63 = false → (s.link (v % 8)).state = 3 → exec (.abindLf a b) s =
      .next ((State.setLink { s with draws := s.draws + 1 } (v % 8) ((Config.freeWord s.draws).toNat % 3)).parkResult a 0)) ∧
    (∀ i, o = .imm i → (8 ≤ i.toNat → Traps (.lstat a o) s (c.opTrap 0x02 0)) ∧ (1024 ≤ i.toNat → Traps (.lstatD a o) s (c.opTrap 0x02 0))) ∧
    (∀ k, (∀ i, o = .imm i → k = i.toNat ∧ k < 8) → (∀ r, o = .reg r → k = (c.xr r).toNat % 8) → let l := s.link k
      CompletesLong (.lstat a o) s s a (BitVec.ofNat 64 (l.state % 8 * 2 ^ 61 + l.peer % 1024 * 2 ^ 51 + l.peerLink % 8 * 2 ^ 48 +
        l.retrans % 65536 * 2 ^ 16 + l.lanes % 65536))) ∧
    (∀ k, (∀ i, o = .imm i → k = i.toNat ∧ k < 1024) → (∀ r, o = .reg r → k = (c.xr r).toNat % 1024) →
      (s.routes.find? k = none → CompletesLong (.lstatD a o) s s a 0) ∧
      (∀ l, s.routes.find? k = some l → CompletesLong (.lstatD a o) s s a (BitVec.ofNat 64 (2 ^ 63 + (if (s.link l).state = 2 then 8 else 0) + l % 8)))) ∧
    CompletesLong (.lstatH a) s s a (BitVec.ofNat 64 (s.cxlUp.toNat * 2 ^ 63 + min s.hostRefused 65535 * 2 ^ 32 + min s.snoops 64 * 2 ^ 16 + s.splitLines % 65536))

/-- R419, R420, log 47 and 48: XRED and XRED.MAX read the control and group records, refer to the input, wait for it, reserve the output, contribute, and complete with the answer of
the root, which the status of a malformed record precedes. The root reduces the contributions in ascending order of device id when all have come, answers
2 when they disagree, and aborts with 3 after 2^30 ticks; one that has failed stays known until as many members have come as any of them names, each later one
being answered 2 as it comes (the model's choice, log 48, as is what a breach of R419 answers, log 47); a member creates its output, or gives it up, and releases its input.
Each of these forms completes, at issue or with the answer that its clause names, under conditions on the state and the operands alone: `xred`,
`xredMax`, `xredContributionAtRoot`, `xredRootTimeout`, `xredResultArrival`. -/
def Obligations.Collectives : Prop :=
  ∀ (s u : State) (a b : R5) (i : Instr) (d : Desc) (op dev tag ti tj ver fmt shape n status : Nat) (data : List Byte) (nf : Bool) (q : KeyReq)
      (g : Machine.Collect) (tid : Nat),
    let c := s.me
    let bs := c.buf
    let kin := xredKey c.asid bs (field bs 16 4)
    let kout := xredKey c.asid bs (field bs 20 4)
    (i = .xred a b ∧ op = 0 ∨ i = .xredMax a b ∧ op = 1 →
      (c.stage = 0 → exec i s = .next (s.readInto 1 { n := 32, r := true, rdup := true } (c.xr b) 0)) ∧
      (c.stage = 1 → exec i s = .next (s.readInto 2 { n := 64, r := true, rdup := true } (BitVec.ofNat 64 (field bs 0 8)) 0)) ∧
      (c.stage = 2 → s.groupOk c.asid bs = false → CompletesLong i s s a 1) ∧
      (s.groupOk c.asid bs → s.keyPhase c kin = .ok (d, u) → u.me = c → u.cur = s.cur →
        (c.stage = 2 → d.remote ∨ 2 < d.fmt → CompletesLong i s u a 1) ∧
        (d.remote = false → d.fmt ≤ 2 → (c.stage = 2 → AsksMint i s u 3 (u.keyReqOf kin d .xredIn 0) (.mintReference (u.keyReqOf kin d .xredIn 0))) ∧
          (c.stage = 3 → ((u.entry kin (descHome d kin.i kin.j)).map MintEntry.st) = some MintSt.present → ∃ v : State,
            v = u.setMe { c with parkSince := none } ∧ exec i s = .next (v.askMint 4 (v.keyReqOf kout d .xredOut (field bs 14 2))
              (.mintReserve (v.keyReqOf kout d .xredOut (field bs 14 2))))) ∧
          (c.stage = 4 → exec i s = .next (u.contributeXred op a d)))) ∧
      (c.stage = 5 → Completes i s fun k => (k.setX a k.hold).raise (k.hold.getLsbD 8) false)) ∧
    ((∀ e ∈ s.collects, e.named tag ti tj ver = false) → 1 < n →
      let l := s.collects.filter (fun e => !e.named tag ti tj ver) ++ [⟨tag, ti, tj, ver, op, fmt, shape, n, [(dev, data, nf)], s.ticks, false⟩]
      exec (.xredContributionAtRoot dev tag ti tj ver op fmt shape n data nf) s =
        .next { s.at (cycleOfTick (s.ticks + 2 ^ 30)) (.xredRootTimeout tag ti tj ver) with collects := l }) ∧
    (List.find? (fun e => e.named tag ti tj ver) s.collects = some g → g.parts ≠ [] →
      let parts := insertPart (dev, data, nf) (g.parts.filter fun p => p.1 ≠ dev)
      let m := { g with parts := parts, n := max g.n n }
      let f := { m with failed := true }
      let rest := s.collects.filter fun e => !e.named tag ti tj ver
      let kept (e : Machine.Collect) : State := { s with collects := if max g.n n ≤ parts.length then rest else rest ++ [e] }
      let arrival : Instr := .xredContributionAtRoot dev tag ti tj ver op fmt shape n data nf
      (g.failed = false → g.op = op → g.fmt = fmt → g.shape = shape → g.n = n → exec arrival s =
        .next (if max g.n n ≤ parts.length then State.answerAll (kept m) m 0 m.result.1 m.result.2 else kept m)) ∧
      (g.failed = false → g.op ≠ op ∨ g.fmt ≠ fmt ∨ g.shape ≠ shape ∨ g.n ≠ n → exec arrival s = .next (State.answerAll (kept f) f 2 [] false)) ∧
      (g.failed → exec arrival s = .next (State.answerMember (kept f) f dev 2 [] false))) ∧
    (List.find? (fun e => e.named tag ti tj ver) s.collects = none → exec (.xredRootTimeout tag ti tj ver) s = .next s) ∧
    (List.find? (fun e => e.named tag ti tj ver) s.collects = some g →
      let gone : State := { s with collects := s.collects.filter fun e => !e.named tag ti tj ver }
      (s.ticks < g.since + 2 ^ 30 → exec (.xredRootTimeout tag ti tj ver) s = .next s) ∧
      (g.since + 2 ^ 30 ≤ s.ticks → exec (.xredRootTimeout tag ti tj ver) s = .next (if g.failed then gone else gone.answerAll g 3 [] false))) ∧
    (let t := s.ctx tid
     s.threads = [(tid, t)] → t.park = some .collect → field t.buf 34 2 = tag → t.keyReq = some q → q.key.i = ti → q.key.j = tj → q.key.ver = ver →
      exec (.xredResultArrival tag ti tj ver status data nf) s = .next (if status ≠ 0 then s.failXred tid status
        else (((s.create q.key q.home (creators q) data).unpin (t.xredInput q.key) q.home).modCtx tid fun c =>
          { c with hold := BitVec.ofNat 64 (256 * nf.toNat) }).wakeAgain tid))

/-- R411 to R413, R415 to R418, R420, log 25 and 49: what arrives over the links: a message goes to its destination, or, on a link that is not UP, nowhere; one on its way through
leaves by the route entry of its destination, and where there is none, or eight devices have passed it on, its sender is answered 64 where it waits for an answer; a remote word access, atomics among them, is performed at
the home in the exported space, queued while a page operation holds its page, and refused with code 10 without a right, outside the window or without a translation (the model's choice, log 25), and its answer leaves by that device's route entry or, with none, is dropped; a key request is performed at the owner's Mint, code 8 for an array that is
not declared, 7 for a tile outside its grid; a pin or a reservation that is given back asks for no right; a shadow takes the data that its fetch returns; a fenced link stays fenced
(the model's choice, log 49). -/
def Claims.LinkEvents : Prop :=
  ∀ (s : State) (link state : Nat) (m : LinkMsg) (w : RemoteWord) (r : RemoteKey) (e : Export) (pa : Nat) (l : Leaf) (slice status : Nat) (k : Key)
      (data : List Byte) (n : MintEntry) (dev space arr i j ver hops : Nat) (bs : Option (List Byte)) (f : LinkMsg),
    let p := s.link (link % 8)
    let reply (dev ref status : Nat) (val : Word) (data : List Byte) (u : State) : State := match u.route dev with
      | none => u
      | some k => u.sendOn k dev (.reply ref status val data)
    (p.state = 3 ∨ state % 4 = 3 → exec (.linkStateChange link state) s = .next s) ∧
    (p.state ≠ 3 → state % 4 ≠ 3 → exec (.linkStateChange link state) s = .next (s.setLink (link % 8) (state % 4))) ∧
    exec (.flitRetransmit link) s = .next { s with links := s.links.set (link % 8) { p with retrans := min (p.retrans + 1) 65535 } } ∧
    ((s.link link).state ≠ 2 → exec (.linkMessageArrival link m) s = .next s) ∧
    ((s.link link).state = 2 → exec (.linkMessageArrival link (.remoteWord w)) s = .next (s.post (.remoteWordAccess { w with link := link })) ∧
      exec (.linkMessageArrival link (.remoteKey r)) s = .next (s.post (.remoteKeyRequest { r with link := link })) ∧
      exec (.linkMessageArrival link (.notice dev space arr i j ver bs)) s = .next (s.post (.arrivalNotice dev space arr i j ver bs)) ∧
      (∀ ref val, exec (.linkMessageArrival link (.reply ref status val data)) s = .next (s.replyArrives ref status val data)) ∧
      (∀ tag op fmt shape n nf, exec (.linkMessageArrival link (.collect dev tag i j ver op fmt shape n data nf)) s =
        .next (s.post (.xredContributionAtRoot dev tag i j ver op fmt shape n data nf))) ∧
      (∀ tag nf, exec (.linkMessageArrival link (.result tag i j ver status data nf)) s = .next (s.post (.xredResultArrival tag i j ver status data nf))) ∧
      (∀ x, s.route dev = some x → hops < 8 → exec (.linkMessageArrival link (.forward dev hops f)) s = .next (s.sendOn x dev (.forward dev (hops + 1) f))) ∧
      (s.route dev = none ∨ 8 ≤ hops → exec (.linkMessageArrival link (.forward dev hops f)) s = .next (s.answerDropped f))) ∧
    s.answerDropped (.remoteWord w) = reply w.dev w.ref 64 0 [] s ∧
    s.answerDropped (.remoteKey r) = (if r.op = 8 ∨ r.op = 12 then s else reply r.dev r.ref 64 0 [] s) ∧
    (∀ ref val, s.answerDropped (.reply ref status val data) = s) ∧ s.answerDropped (.notice dev space arr i j ver bs) = s ∧
    (s.remotePlace w = none → exec (.remoteWordAccess w) s = .next (reply w.dev w.ref 42 0 [] s)) ∧
    (s.remotePlace w = some (pa, l) → ∀ die slot, s.pageHolding pa = some (die, slot) →
      exec (.remoteWordAccess w) s = .next (s.hold die slot (.remote w pa))) ∧
    (s.remotePlace w = some (pa, l) → s.pageHolding pa = none → let u := (s.touchLeaf l (w.store.isSome || w.op.isSome)).2
      (w.op = none → w.store = none → let v := u.homeRead (pa / 128)
        exec (.remoteWordAccess w) s = .next (reply w.dev w.ref 0 (BitVec.ofNat 64 (v.read pa w.n)) (if v.poisonAt pa w.n then [1] else []) v)) ∧
      (∀ x, w.op = none → w.store = some x → exec (.remoteWordAccess w) s = .next (reply w.dev w.ref 0 0 [] (u.homeStore pa w.n x false).2)) ∧
      (∀ op x, w.op = some op → let v := u.homeWrite (pa / 128)
        let bad := v.poisonAt pa w.n
        atomNew op w.n (v.read pa w.n) = some x → let t := v.homeStore pa w.n x (bad && atomDerives op)
        exec (.remoteWordAccess w) s = .next (reply w.dev w.ref 0 (BitVec.ofNat 64 (v.read pa w.n)) (bytesOf 8 t.1 ++ if bad then [1] else []) t.2))) ∧
    (r.op = 8 ∨ r.op = 12 → (s.declared r.rdr r.arr = none → exec (.remoteKeyRequest r) s = .next s) ∧
      ∀ d, s.declared r.rdr r.arr = some d → let y : Key := ⟨r.rdr, r.arr, r.i, r.j, r.ver⟩
        exec (.remoteKeyRequest r) s = .next (if r.op = 8 then s.unpin y (descHome d r.i r.j) else s.unreserve y (descHome d r.i r.j))) ∧
    (s.exportFor r.xport r.dev = none → r.op ≠ 8 → r.op ≠ 12 → exec (.remoteKeyRequest r) s = .next (reply r.dev r.ref 42 0 [] s)) ∧
    (s.exportFor r.xport r.dev = some e →
      (r.op = 11 → exec (.remoteKeyRequest r) s = .next (reply r.dev r.ref 0 (BitVec.ofNat 64 e.asid) [] s)) ∧
      (r.op = 0 → e.rights.testBit 0 = false → exec (.remoteKeyRequest r) s = .next (reply r.dev r.ref 42 0 [] s)) ∧
      (r.op = 0 → e.rights.testBit 0 → s.declared e.asid r.arr = none → exec (.remoteKeyRequest r) s = .next (reply r.dev r.ref 40 0 [] s)) ∧
      (r.op = 0 → e.rights.testBit 0 → r.shape = 0 → ∀ d, s.declared e.asid r.arr = some d →
        if d.gi < r.i ∨ d.gj < r.j then exec (.remoteKeyRequest r) s = .next (reply r.dev r.ref 39 0 [] s)
        else exec (.remoteKeyRequest r) s = .next (s.post (.mintReference
          { src := ⟨0, 0, e.asid, 0⟩, key := ⟨e.asid, r.arr, r.i, r.j, r.ver⟩, home := descHome d r.i r.j, desc := { d with remote := false }, use := .tld 0, rdr := r.rdr,
            since := s.ticks, rcb := e.rcb, rcbAsid := e.asid, peer := some (r.link, r.dev, r.ref) })))) ∧
    (s.localNames dev space arr = [] → exec (.arrivalNotice dev space arr i j ver bs) s = .next s) ∧
    (∀ d, s.localNames dev space arr = [d] → exec (.arrivalNotice dev space arr i j ver bs) s = .next (s.noticeAt d.1 d.2 dev i j ver bs)) ∧
    (s.entry k slice = none → exec (.shadowFetchReply slice k status data) s = .next s) ∧
    (s.entry k slice = some n → n.st = .waiting → exec (.shadowFetchReply slice k 0 data) s =
      .next ((s.modEntry k slice fun e => { e with st := .held, data := data }).walkKey k slice 0))

/-- R395, R397, R409, R421, R422, R425: the host reads and writes only frames that it owns, at their home, and is answered; another access counts, and a read is then answered with
free data that is marked; the bridge serves a load from halves it holds and a store whose halves it owns, asks the host for the others, gives a half up or shares it at a snoop, whose
response carries dirty data, and writes back a dirty half that it evicts; a doorbell and an SPDM request raise their events, which end the WFE parks of the die. -/
def Claims.HostEvents : Prop :=
  ∀ (s : State) (pa half : Nat) (write : Option (BitVec 512)) (q : MemReq) (vals : List Nat) (counted inv up : Bool) (h : Half) (data : BitVec 512),
    let at_ := pa % 2 ^ 40 / 64 * 64
    let mine : Prop := hbmExists at_ ∧ at_ / 65536 ∈ s.hostFrames
    let refused : State := { s with hostRefused := min (s.hostRefused + 1) 65535 }
    (¬mine → exec (.hostHdmAccess pa write) s = .next (match write with
      | some _ => refused
      | none => refused.hostData.2.tellHost (.read at_ (BitVec.ofNat 512 refused.hostData.1) true))) ∧
    (mine → s.pageHolding at_ = none → exec (.hostHdmAccess pa write) s = .next (match write with
      | none => let u := s.homeRead (at_ / 128)
        u.tellHost (.read at_ (BitVec.ofNat 512 (u.read at_ 64)) (u.poisonAt at_ 64))
      | some v => (s.homeStore at_ 64 v.toNat false).2)) ∧
    (mine → (s.pageHolding at_).isSome → exec (.hostHdmAccess pa write) s = .next (s.at (s.pcyc + 64) (.hostHdmAccess at_ write))) ∧
    (s.bridge.find? half = none → exec (.hostSnoop half inv) s = .next s) ∧
    (s.bridge.find? half = some h → exec (.hostSnoop half inv) s =
      .next { (if h.st = 3 then s.tellHost (.snooped half h.data h.pois) else s) with
        bridge := if inv then s.bridge.erase half else s.bridge.set half { h with st := 1 } }) ∧
    (s.bridge.find? half = some h → s.evictHalf half =
      (if h.st = 3 then State.tellHost { s with bridge := s.bridge.erase half } (.written half h.data h.pois) else { s with bridge := s.bridge.erase half })) ∧
    (s.behind q = false → s.missingHalves q = [] → let host := hostLanes q.lanes
      let serve (l : Lane) : Lane := if l ∈ host then laneBind l (s.hostBytes l) (2 ^ l.n - 1) (s.hostMarked l) else l
      exec (.bridgeDeviceAccess q .load) s = .next (s.routeLoad { q with lanes := q.lanes.map serve })) ∧
    (s.behind q = false → s.missingHalves q ≠ [] → exec (.bridgeDeviceAccess q .load) s =
      .next ((s.askHost (s.missingHalves q) false).waitAtBridge q .load)) ∧
    (s.behind q = false → s.unowned q = [] → let u := (q.lanes.zip vals).foldl (fun s e => s.hostWrite e.1 e.2) s
      exec (.bridgeDeviceAccess q (.store vals counted)) s = .next (if counted then u.post (.writeAckArrival q.src.tid 0) else u)) ∧
    (s.behind q = false → s.unowned q ≠ [] → exec (.bridgeDeviceAccess q (.store vals counted)) s =
      .next ((s.askHost (s.unowned q) true).waitAtBridge q (.store vals counted))) ∧
    (s.bridgePeers (half / 2) = [] → s.bridge.find? half = none → 
      let all := s.bridgeWait.map (fun w => Event.bridgeDeviceAccess w.1 w.2) ++ s.pending
      exec (.hostFillReply half up data) s = .next { s with bridge := s.bridge.set half ⟨if up then 2 else 1, data, 0⟩, bridgeWait := [], pending := all }) ∧
    exec (.cxlLinkStateChange up) s = .next { s with cxlUp := up } ∧
    exec .hostDoorbell s = .next ((s.setDie 0 { s.die 0 with sevt := (s.die 0).sevt ||| 2 }).wakeEvents 0) ∧
    exec .spdmRequest s = .next ((s.setDie 0 { s.die 0 with sevt := (s.die 0).sevt ||| 16 }).wakeEvents 0) ∧
    ∀ die tid, (s.wakeEvents die).ctx tid =
      if (s.ctx tid).park = some .event ∧ dieOf (s.ctx tid).core = die then { s.ctx tid with park := none } else s.ctx tid

/-- `Claims.LinkEvents`; `Claims.HostEvents` together. Each of these forms completes, at issue or with the answer that its clause names, under
conditions on the state and the operands alone: `linkStateChange`, `flitRetransmit`, `linkMessageArrival`, `remoteWordAccess`, `remoteKeyRequest`,
`arrivalNotice`, `shadowFetchReply`, `hostHdmAccess`, `hostSnoop`, `bridgeDeviceAccess`, `hostFillReply`, `cxlLinkStateChange`, `hostDoorbell`,
`spdmRequest`. -/
def Obligations.LinkAndHostEvents : Prop := Claims.LinkEvents ∧ Claims.HostEvents

/-- R24, R391, R392, R394, R395, R397, R408, R409, log 5, 23 and 54: a corrected error is counted, and the fourth at a location of a window queues an entry of kind 1, an armed one an entry of kind 3; an
uncorrectable error marks data and queues an entry of kind 2; a full queue only counts; throttling is counted and raises its event where it begins; a cold reset whose
firmware verifies brings the device up, its blocks measured, one that does not tells the host, and in the release cycle every core leaves reset. Which word of a location an
uncorrectable error marks (log 23), what firmware writes and whether it verifies (log 5), and what a measurement register holds (log 54) are the model's
choice, as free values.
Each of these forms completes, at issue or with the answer that its clause names, under conditions on the state and the operands alone:
`softErrorCorrected`, `uncorrectableError`, `errorWindowEnd`, `powerWindowProjection`, `coldReset`, `coreRelease`. -/
def Obligations.ErrorsAndBoot : Prop :=
  ∀ (s : State) (die cls inst loc cycles : Nat) (high : Bool) (w : Word),
    let d := s.die die
    let entry (kind cnt : Nat) : Word := BitVec.ofNat 64 (cnt % 65536 + 65536 * (loc % 2 ^ 24) + 2 ^ 40 * (inst % 65536) + 2 ^ 56 * (cls % 16) + 2 ^ 60 * kind)
    let here (e : Nat × Nat × Nat × Nat) : Bool := e.1 == cls && e.2.1 == inst && e.2.2.1 == loc
    let n := (((d.errCounts.find? here).map fun e => e.2.2.2).getD 0) + 1
    let counted : State := s.setDie die { d with errCounts := (d.errCounts.filter fun e => !here e) ++ [(cls, inst, loc, n)] }
    (cls ≠ 9 → (cls, inst, loc) ∉ d.armed → exec (.softErrorCorrected die cls inst loc) s =
      .next (if n = 4 then counted.queueError die (entry 1 4) else counted)) ∧
    (cls ≠ 9 → (cls, inst, loc) ∈ d.armed → n ≠ 4 → exec (.softErrorCorrected die cls inst loc) s = .next
      ((counted.setDie die { counted.die die with armed := d.armed.erase (cls, inst, loc) }).queueError die (entry 3 0))) ∧
    (d.errq.length < Config.errorQueue → s.queueError die w = (s.setDie die { d with errq := d.errq ++ [w] }).wakeEvents die) ∧
    (Config.errorQueue ≤ d.errq.length → s.queueError die w = s.setDie die { d with errOverflow := d.errOverflow + 1 }) ∧
    exec (.uncorrectableError die cls inst loc) s =
      .next ((State.markData { s with draws := s.draws + 1 } cls inst loc (Config.freeWord s.draws)).queueError die (entry 2 0)) ∧
    (∃ t, exec (.errorWindowEnd die) s = .next t ∧ (t.die die).errCounts = [] ∧ t.mem = s.mem ∧ t.threads = s.threads) ∧
    (let on : Die := { d with pwrthr := d.pwrthr + cycles, throttled := true }
     exec (.powerWindowProjection die high cycles) s = .next (if high then (if d.throttled then s.setDie die on else (s.setDie die on).raiseEvent die 8)
      else s.setDie die { d with throttled := false })) ∧
    s.raiseEvent die 8 = (s.setDie die { d with sevt := d.sevt ||| 8 }).wakeEvents die ∧
    (Config.romVerifies = false → exec .coldReset s = .next { State.reset with pending := [], draws := s.draws, toHost := [.verifyFailed] }) ∧
    (Config.romVerifies → ∃ t, exec .coldReset s = .next t ∧ t.svec = Config.firmwareWrites 0x104 ∧ t.fvec = Config.firmwareWrites 0x130 ∧
      t.asidtb = Config.firmwareWrites 0x110 ∧ t.firmwareUp ∧ t.threads = [] ∧
      t.toHost = [] ∧ ∀ b, t.measured.find? b = if 1 ≤ b ∧ b ≤ 5 then some (Config.measurement b) else none) ∧
    ∃ t, exec .coreRelease s = .next t ∧ t.cores.length = Config.cores ∧ (∀ e ∈ t.cores, e.2.released ∧ e.2.cycle0 = s.pcyc) ∧ t.me.mode = .supervisor ∧
      t.me.pc = s.svec ∧ t.mem = s.mem

/-! ## The path of word memory: fills, write-backs, the directory (05_word_memory.md, 08_coherence_pages.md) -/

/-- R32, R34, R96, R97, R104, R119, R164, R166, log 13: a fill is served by the home (the die is the home's, the load allocates nothing, or the page is
DEVOWN), else by the die's copy, else an NC copy is made, else the die sends GetS first; its arrival fills the bytes of the line that are not dirty, unless the load allocates
nothing, and the load goes on; a clean copy that retention put to sleep is read at the home, and a line held for the skipped list is bound, not installed; a
write-through store is performed at the home, and in an NC copy of the storing die, and answered with its tag, or with the long result that it is the reply of; the answer counts down `ACKC`; a line
fetched for a context that waits for it is put into the line cache and entered; for a context that does not wait for this fetch it does nothing. -/
def Claims.FillsAndWriteThroughs : Prop :=
  ∀ (s : State) (q : MemReq) (line mode : Nat) (l : Lane) (v tid tag serial : Nat) (skip : List Nat) (bytes : List Byte),
    let die := dieOf q.src.core
    let near := q.na || homeDie line == die || mode == 2
    let h := s.homeRead line
    let back (u : State) (d : BitVec 1024) (p : BitVec 16) : Prop := exec (.fillAtHome ⟨q, skip⟩) s =
      .next ((u.tagCopies die q).post (.lineFillArrival { q with lanes := q.lanes.map (bindFrom [(line, d, p)]) } (if line ∈ skip then [] else [(line, d, p)])))
    let asleep (p : Proxy) : Prop := (s.slice (sliceAt die (sliceIndex line))).retained = true ∧ p.clean = true
    (unboundLines q = [(line, mode)] → s.pageHolding (128 * line) = none →
      (near = true → back h (BitVec.ofNat 1024 (h.readLine line)) (h.linePoison line)) ∧
      (near = false → ∀ p, s.proxy line die = some p → (¬asleep p → back s p.data p.pois) ∧
        (asleep p → let u := s.foldLine line; back u (BitVec.ofNat 1024 (u.view (128 * line) 128)) (u.linePoison line))) ∧
      (near = false → s.proxy line die = none → mode ≠ 1 →
        exec (.fillAtHome ⟨q, skip⟩) s = .next ((s.postFront (.fillAtHome ⟨q, skip⟩)).postFront (.getsAtHome line die))) ∧
      (near = false → s.proxy line die = none → mode = 1 → let d := BitVec.ofNat 1024 (h.readLine line)
        back (h.setProxy line die ⟨.nc, d, 0, h.linePoison line, 0, 0⟩) d (h.linePoison line))) ∧
    (∀ slot d, unboundLines q = [(line, mode)] → s.pageHolding (128 * line) = some (d, slot) →
      exec (.fillAtHome ⟨q, skip⟩) s = .next (s.hold d slot (.fill ⟨q, skip⟩))) ∧
    (∀ ls, q.na = true → exec (.lineFillArrival q ls) s = .next (s.routeLoad q)) ∧
    (q.na = false → q.lanes = [l] → ∀ (d : BitVec 1024) (p : BitVec 16),
      exec (.lineFillArrival q [(lineOf l.pa, d, p)]) s = .next ((s.fillCached q.src.core (lineOf l.pa) l.key l.mode d p).routeLoad q)) ∧
    (∀ (core key : Nat) (d : BitVec 1024) (p : BitVec 16) (c : CacheLine), s.cacheSets core ≠ 0 → s.cacheLine core (tagOf line key) = some c →
      ∃ n, (s.fillCached core line key mode d p).cacheLine core (tagOf line key) = some n ∧ n.valid = BitVec.allOnes 128 ∧ n.dirty = c.dirty ∧ n.key = c.key ∧
        ∀ i, i < 128 → n.data.extractLsb' (8 * i) 8 = if c.dirty.getLsbD i then c.data.extractLsb' (8 * i) 8 else d.extractLsb' (8 * i) 8) ∧
    (q.lanes = [l] → s.pageHolding l.pa = none → s.proxy (lineOf l.pa) die = none →
      let w := s.homeStore l.pa l.n v l.bad
      ((∀ r w g, q.dst ≠ .x r w g) → exec (.writeThroughAtHome q [v]) s = .next (w.2.post (.writeAckArrival q.src.tid w.1))) ∧
        (∀ r n g, q.dst = .x r n g → exec (.writeThroughAtHome q [v]) s = .next (w.2.post (.longResultArrival (Reply.of q.src.tid [.x r 0 none] false)))) ∧
        w.1 = ((s.homeWrite (lineOf l.pa)).seqOf (lineOf l.pa) + 1) % 65536) ∧
    (q.lanes = [l] → s.pageHolding l.pa = none →
      let u := (s.homeWrite (lineOf l.pa)).writeMarked l.pa l.n v l.bad
      let c := u.updateCopy die [(l, v)]
      let w := c.tag (lineOf l.pa)
      exec (.writeThroughAtHome q [v]) s = .next ((w.2.walkWaiters (lineOf l.pa)).answerWrite q w.1) ∧
        ∀ p, u.proxy (lineOf l.pa) die = some p → p.st = .nc → ∃ n, c.proxy (lineOf l.pa) die = some n ∧ n.st = .nc ∧ n.dirty = p.dirty ∧
          ∀ k, k < 128 → n.data.extractLsb' (8 * k) 8 =
            if l.pa % 128 ≤ k ∧ k < l.pa % 128 + l.n then BitVec.ofNat 8 (v / 2 ^ (8 * (k - l.pa % 128))) else p.data.extractLsb' (8 * k) 8) ∧
    exec (.writeAckArrival tid tag) s = .next (s.modCtx tid fun c => { c with ackc := c.ackc - 1 }) ∧
    ((s.ctx tid).park ≠ some (.fetch serial) → exec (.lineFetchArrival tid ⟨serial, bytes⟩) s = .next s) ∧
    ((s.ctx tid).park = some (.fetch serial) → exec (.lineFetchArrival tid ⟨serial, bytes⟩) s =
      .next ((s.icachePut (s.ctx tid).core (s.ctx tid).asid (lineAddr (s.ctx tid).pc) bytes).enterLine tid bytes))

/-- R96, R97, R119, R163, R164, R166, R169: the merge of a write-back at the home replaces the bytes that its mask names and no other byte of memory, gives the
line's next tag, and answers the thread it counts for; where the home die is another's, the merge goes into the die's own copy, of an NC page without a
request, of another page after GetM unless the die holds E or M. A slice of a cell under reset, the die's own or a home that must be asked, answers, and what it was sent is lost
(R146, R389). -/
def Claims.WriteBacksMerge : Prop :=
  ∀ (s : State) (tid : Nat) (core line key : Nat) (d : BitVec 1024) (m : BitVec 128) (nc : Bool) (pois : BitVec 16),
    let die := dieOf core
    let i := Instr.writeBackMerge (some tid) core line key d m nc pois
    let e := Event.writeBackMerge (some tid) core line key d m nc pois
    let h := s.homeWrite line
    let merged (x old : BitVec 1024) : Prop :=
      ∀ k, k < 128 → x.extractLsb' (8 * k) 8 = if m.getLsbD k then d.extractLsb' (8 * k) 8 else old.extractLsb' (8 * k) 8
    let here := s.mergeGone line die nc = false
    (s.mergeGone line die nc ↔ s.sliceGone (sliceAt die (sliceIndex line)) ∨ (s.sliceGone (homeSlice line) ∧
      ¬∃ p, s.proxy line die = some p ∧ (nc = true ∨ p.st = .m ∨ p.st = .e))) ∧
    (¬here → exec i s = .next (s.post (.writeAckArrival tid 0))) ∧
    (here → homeDie line = die → ∃ t, exec i s = .next t ∧ t.seqOf line = (h.seqOf line + 1) % 65536 ∧
      (t.byte = fun a => if lineOf a = line ∧ m.getLsbD (a % 128) then d.extractLsb' (8 * (a % 128)) 8 else h.byte a) ∧
      .writeAckArrival tid ((h.seqOf line + 1) % 65536) ∈ t.pending) ∧
    (here → homeDie line ≠ die → nc = false →
      (∀ p, s.proxy line die = some p → p.st = .m ∨ p.st = .e → ∃ x marks, merged x p.data ∧ exec i s =
        .next (((s.setProxy line die ⟨.m, x, p.dirty, marks, (p.seq + 1) % 65536, key⟩).awakeCopy line die).post (.writeAckArrival tid ((p.seq + 1) % 65536)))) ∧
      ((∀ p, s.proxy line die = some p → p.st ≠ .m ∧ p.st ≠ .e) → exec i s = .next ((s.postFront e).postFront (.getmAtHome line die)))) ∧
    (here → homeDie line ≠ die → nc = true → ∀ p, s.proxy line die = some p → ∃ x marks, merged x p.data ∧ exec i s =
      .next (((s.setProxy line die ⟨p.st, x, p.dirty ||| m, marks, p.seq, key⟩).awakeCopy line die).post (.writeAckArrival tid 0))) ∧
    (s.dirOf line = none → s.tilledOn line = [] → (s.slice (homeSlice line)).retained = false → line ∈ (s.slice (homeSlice line)).l2 → h = s)

/-- `Claims.FillsAndWriteThroughs`; `Claims.WriteBacksMerge` together. Each of these forms completes, at issue or with the answer that its clause
names, under conditions on the state and the operands alone: `fillAtHome`, `lineFillArrival`, `writeThroughAtHome`, `writeAckArrival`,
`lineFetchArrival`, `writeBackMerge`. -/
def Obligations.FillsAndWriteBacks : Prop := Claims.FillsAndWriteThroughs ∧ Claims.WriteBacksMerge

/-- R162 to R165, R446, log 52: the directory's transitions: GetS, GetM, a forwarded request, PutM and PutO, PutE and PutS, and an invalidation, from each directory
state; a die's copy is dropped where the table invalidates it, and no other line's copies or directory state changes. A line in state U takes an entry of a set that has
room. A line takes a way of the slice, and a set never holds more lines than the slice has ways (R162, R446): which lines share the ways of a set, and which one
leaves, is the model's choice (log 52).
Each of these forms completes, at issue or with the answer that its clause names, under conditions on the state and the operands alone: `getsAtHome`,
`getmAtHome`, `forwardedRequest`, `putmAtHome`, `puteAtHome`, `invalidateAtProxy`. -/
def Obligations.DirectoryTransitions : Prop :=
  ∀ (s : State) (line r d : Nat) (ds : List Nat) (p x : Proxy), r < 4 → d < 4 → r ≠ d → (∀ y ∈ ds, y < 4 ∧ y ≠ d) → s.tilledOn line = [] →
    let moves (i : Instr) (dir : Option Dir) (copy : Nat → Option Proxy) (home : State → Prop) : Prop :=
      ∃ t, exec i s = .next t ∧ t.dirOf line = dir ∧ (∀ k, k < 4 → t.proxy line k = copy k) ∧ home t ∧
        ∀ l k, l ≠ line → k < 4 → t.dirOf l = s.dirOf l ∧ t.proxy l k = s.proxy l k
    let same (t : State) : Prop := t.mem = s.mem ∧ t.poisoned = s.poisoned
    let has (f : List (Nat × Proxy)) (gone : List Nat) (k : Nat) : Option Proxy :=
      match SMap.find? f k with
      | some c => some c
      | none => if k ∈ gone then none else s.proxy line k
    let granted (st : CopyState) : Proxy := ⟨st, BitVec.ofNat 1024 (s.readLine line), 0, s.linePoison line, s.seqOf line, 0⟩
    let dirty := p.st = .m ∨ p.st = .o
    let came (t : State) : Prop := t.byte = fun a => if lineOf a = line then p.data.extractLsb' (8 * (a % 128)) 8 else s.byte a
    (let k := sliceAt r (sliceIndex line); let t := s.l2Take line r
      line ∈ (t.slice k).l2 ∧ (0 < s.l2Ways r → (s.l2Peers k line).length ≤ s.l2Ways r → (t.l2Peers k line).length ≤ s.l2Ways r)) ∧
    (s.dirOf line = none → (s.dirPeers line).length < 16 →
      moves (.getsAtHome line r) (some (.ex r)) (has [(r, granted .e)] []) same ∧
      moves (.getmAtHome line r) (some (.ex r)) (has [(r, granted .e)] []) same) ∧
    (s.dirOf line = some (.sh ds) → r ∉ ds →
      moves (.getsAtHome line r) (some (.sh (ds ++ [r]))) (has [(r, granted .s)] []) same ∧
      (s.proxy line r = none → moves (.getmAtHome line r) (some (.ex r)) (has [(r, granted .e)] ds) same)) ∧
    (s.dirOf line = some (.sh (r :: ds)) → s.proxy line r = some x → r ∉ ds →
      moves (.getmAtHome line r) (some (.ex r)) (has [(r, { x with st := .e, seq := s.seqOf line })] ds) same) ∧
    (s.dirOf line = some (.ex d) ∨ s.dirOf line = some (.ow d ds) →
      exec (.getsAtHome line r) s = .next ((s.l2Take line (homeDie line)).postFront (.forwardedRequest line d r false)) ∧
      exec (.getmAtHome line r) s = .next ((s.l2Take line (homeDie line)).postFront (.forwardedRequest line d r true))) ∧
    (s.dirOf line = some (.ow d ds) → s.proxy line d = some p →
      moves (.getmAtHome line d) (some (.ex d)) (has [(d, { p with st := .m })] ds) same) ∧
    (s.dirOf line = some (.ex d) → s.proxy line d = some p →
      moves (.forwardedRequest line d r true) (some (.ex r)) (has [(r, { p with st := if dirty then .m else .e })] [d]) same ∧
      (p.st = .m → moves (.forwardedRequest line d r false) (some (.ow d [r])) (has [(d, { p with st := .o }), (r, { p with st := .s })] []) same) ∧
      (p.st = .e → moves (.forwardedRequest line d r false) (some (.sh [d, r])) (has [(d, { p with st := .s }), (r, { p with st := .s })] []) same) ∧
      (p.st = .m → moves (.putmAtHome line d) none (has [] [d]) came) ∧ (p.st = .e → moves (.puteAtHome line d) none (has [] [d]) same)) ∧
    (s.dirOf line = some (.ow d ds) → s.proxy line d = some p → p.st = .o →
      (r ∉ ds → moves (.forwardedRequest line d r false) (some (.ow d (ds ++ [r]))) (has [(d, p), (r, { p with st := .s })] []) same) ∧
      moves (.forwardedRequest line d r true) (some (.ex r)) (has [(r, { p with st := .m })] (d :: ds)) same ∧
      moves (.putmAtHome line d) (if ds = [] then none else some (.sh ds)) (has [] [d]) came) ∧
    (∀ o, s.proxy line r = some x → x.st = .s → o = some (Dir.sh ds) ∨ o = some (Dir.ow d ds) → s.dirOf line = o →
      let left := ds.filter (· ≠ r)
      let dir := match o with
        | some (.sh _) => if left.isEmpty then none else some (Dir.sh left)
        | _ => some (Dir.ow d left)
      moves (.puteAtHome line r) dir (has [] [r]) same ∧ moves (.invalidateAtProxy line r) dir (has [] [r]) same)
/-! ## The machine as a whole (02_lines.md, 05_word_memory.md, 17_system.md) -/

/-- R379, R397, R445, log 1, 2, 4: the machine right after reset: memory canonical and every byte 0, no thread, no word marked, `TSPLIT` 0 on each die, every
sequence counter 0, no core's pool split, and the ROM's run the one thing that awaits. -/
def Obligations.ResetState : Prop :=
  let r := State.reset
  Memory.wf r.mem ∧ (∀ a, r.byte a = 0) ∧ r.threads = [] ∧ r.poisoned = [] ∧ r.pending = [.coldReset] ∧ r.due = [] ∧ r.timers = [] ∧ r.pcyc = 0 ∧
    r.svec = 0 ∧ r.asidtb = 0 ∧ r.fvec = 0 ∧ r.devid = 0 ∧ r.vault = [] ∧ r.firmwareUp = false ∧
    (∀ d, (r.die d).tsplit = 0 ∧ (r.die d).tsplitSticky = false ∧ (r.die d).sevt = 0 ∧ (r.die d).errq = []) ∧
    (∀ l, r.seqOf l = 0 ∧ r.dirOf l = none) ∧ ∀ q, (r.core q).released = false ∧ (r.core q).split = none ∧ (r.core q).cache = []

/-- What a step makes of an answer: the arenas' copies of the registers that it has changed are no longer current (R380). -/
def Claims.Ends (s : State) (o : Out State) : Out State :=
  match o with
  | .next t => .next (t.staleLines s)
  | o => o

/-- The instruction that a core's turn reaches: no event is due and no message in flight, and after the contexts of the core whose turn it is have prepared,
which gives `u`, the context `tid` issues: it is the owner of the cycle's slot or the first eligible one after it, and so holds its line and the image
lines that the instruction needs (R47, R63, R64, R318). `v` is the state in which the instruction runs: the context is noted as having issued, and but for an
instruction that reads no memory and is ordered after no store its own stores to pools of the sector are performed (R115). -/
structure Claims.Reaches (s u v : State) (tid : Nat) : Prop where
  quiet : s.due = [] ∧ s.pending = []
  turn : ∃ e, s.cores[s.turn]? = some e ∧ u = ({ s with turn := s.turn + 1 } : State).prepareCore e.1 ∧ u.issuer e.1 = some tid
  runs : let c := u.ctx tid
    let used := c.neededLines.foldl (fun m n => m.set n u.pcyc) c.lineUse
    let w := { u.setCtx tid { c with lastIssue := some u.pcyc, park := none, ahead := 0, lineUse := used, issuedOn := c.core } with cur := tid }
    v = if passesStores c.nextOp then w else w.landStores tid

/-- R31, R34, R37, R41, R47, R64, R66, R101, R318: where a turn reaches an instruction that decodes, whose mode and registers pass the checks and whose guard
holds, the step is the meaning of the decoded instruction, its switch marker noted: nothing else is added but that the arenas' copies go stale. A context
prepares nothing where it is not runnable, or has no instruction in flight and no user event to take and lacks no line; an instruction in flight goes on in
the same way, and not as an issue. -/
def Obligations.StepRunsDecoded : Prop :=
  (∀ (s u v : State) (tid : Nat) (i : Insn), Claims.Reaches s u v tid →
    let w := (u.ctx tid).fetched
    let c := v.me
    decode w.1 w.2 = some i → operandsClash i.op = false → (c.mode = .user → privileged i.op = false) →
    (c.mode = .supervisor → firmwareOnly i.op = false) →
    (∀ r ∈ regs i.op, c.outOfRange r = false ∧ c.awaitsLong r = false ∧ c.poisonOf r = none) →
    (∀ g, i.grd = some g → c.pPend.getLsbD g.g.toNat = false ∧ c.pr g.g.toNat ≠ g.n) →
    step s = Claims.Ends s (exec i.op (v.setMe { v.me with sw := i.sw }))) ∧
  (∀ (s : State) (tid : Nat), let c := s.ctx tid
    let held := c.line.isSome = true ∧ c.missing = []
    (s.runnable tid = false ∨ ((c.uen = false ∨ c.events = []) ∧ held ∧ c.midway = false ∧ c.stage = 0) → s.prepare tid = s) ∧
    (s.runnable tid = true → held → c.midway = true ∨ c.stage ≠ 0 → s.prepare tid = ((s.goOn tid).equip tid).takeEvent tid)) ∧
  ∀ (s t : State) (tid : Nat) (i : Insn), let c := s.ctx tid
    let w : State := { s.setCtx tid { c with park := none } with cur := tid }
    let v := if passesStores c.nextOp then w else w.landStores tid
    let d := v.me
    decode c.fetched.1 c.fetched.2 = some i → operandsClash i.op = false → (d.mode = .user → privileged i.op = false) →
    (d.mode = .supervisor → firmwareOnly i.op = false) → (∀ r ∈ regs i.op, d.outOfRange r = false ∧ d.awaitsLong r = false ∧ d.poisonOf r = none) →
    (∀ g, i.grd = some g → d.pPend.getLsbD g.g.toNat = false ∧ d.pr g.g.toNat ≠ g.n) →
    exec i.op (v.setMe { v.me with sw := i.sw }) = .next t → s.goOn tid = { t with cur := s.cur }

/-- R41, R44, R46, R47, R49, R66, R101: the decode sequence: a pattern that is not assigned raises `ILLEGAL_OP`; a privileged one in a lower mode `PRIV`; a register
out of range `BAD_OPERAND`, and a source that awaits a long result `PENDING_READ`, each with the lowest field that fails; the guard is tested between the two, and
one that is false only moves on. The tail stands in `FLTADDR`, the head in `FLTCODE`[31:16]. -/
def Obligations.DecodeSequence : Prop :=
  ∀ (s u v : State) (tid : Nat) (i : Insn), Claims.Reaches s u v tid →
    let w := (u.ctx tid).fetched
    let c := v.me
    let ends (t : State) : Prop := step s = Claims.Ends s (.next t)
    let stops (code field : Nat) : Prop := ends (v.trap v.cur ⟨code, field, w.1.toNat, w.2⟩)
    let low (p : RegUse → Bool) (f : Nat) : Prop := (∃ r ∈ regs i.op, p r ∧ r.field = f) ∧ ∀ r ∈ regs i.op, p r → f ≤ r.field
    let denied := (c.mode = .user ∧ privileged i.op) ∨ (c.mode = .supervisor ∧ firmwareOnly i.op)
    let fits := ∀ r ∈ regs i.op, c.outOfRange r = false
    (decode w.1 w.2 = none → stops 0x02 0) ∧
    (decode w.1 w.2 = some i → operandsClash i.op = true → stops 0x02 0) ∧
    (decode w.1 w.2 = some i → operandsClash i.op = false → (denied → stops 0x05 0) ∧
      (¬denied → (∀ f, low c.outOfRange f → stops 0x03 f) ∧
        (fits → ∀ g, i.grd = some g → (c.pPend.getLsbD g.g.toNat = true → stops 0x04 4) ∧
          (c.pPend.getLsbD g.g.toNat = false → c.pr g.g.toNat = g.n → ends (v.setMe { v.me with sw := i.sw }.advance))) ∧
        (fits → (∀ g, i.grd = some g → c.pPend.getLsbD g.g.toNat = false ∧ c.pr g.g.toNat ≠ g.n) →
          (∀ f, low c.awaitsLong f → stops 0x04 f) ∧
          ((∀ r ∈ regs i.op, c.awaitsLong r = false) → ∀ f, low (fun r => (c.poisonOf r).isSome) f →
            ∃ r ∈ regs i.op, r.field = f ∧ ∃ a, c.poisonOf r = some a ∧ ends (v.trap v.cur ⟨0x16, f, 0, a⟩)))))

/-- `answer` is what the meaning of a message or an event answers, as the constructor of that name gives it. -/
def Claims.Delivers (s : State) (answer : Out State) : Event → Prop
  | .icsyncInvalidateAtCore tid core range => answer = exec (.icsyncInvalidateAtCore tid core range) s
  | .pageOpSlotGrant die op => answer = exec (.pageOpSlotGrant die op) s
  | .pageSweepAtCore die slot core => answer = exec (.pageSweepAtCore die slot core) s
  | .pageOpCompletion die slot => answer = exec (.pageOpCompletion die slot) s
  | .pageQueueRetry die slot wait h => answer = exec (.pageQueueRetry die slot wait h) s
  | .vhistGrant tid cell asid slot fmt v => answer = exec (.vhistGrant tid cell asid slot fmt v) s
  | .longFunctionResult tid r v => answer = exec (.longFunctionResult tid r v) s
  | .descriptorDropAtCell tid cell asid arr => answer = exec (.descriptorDropAtCell tid cell asid arr) s
  | .mintReference q => answer = exec (.mintReference q) s
  | .mintDrop q => answer = exec (.mintDrop q) s
  | .mintReserve q => answer = exec (.mintReserve q) s
  | .mintCreate q data => answer = exec (.mintCreate q data) s
  | .pinRelease k slice => answer = exec (.pinRelease k slice) s
  | .mintReplyArrival q o => answer = exec (.mintReplyArrival q o) s
  | .versionWakeArrival tid result => answer = exec (.versionWakeArrival tid result) s
  | .quotaRetry rcb asid lower => answer = exec (.quotaRetry rcb asid lower) s
  | .forceNodeStep tid => answer = exec (.forceNodeStep tid) s
  | .forceCompletion tid => answer = exec (.forceCompletion tid) s
  | .poolSourceCopy cell entry => answer = exec (.poolSourceCopy cell entry) s
  | .lockedStoreRelease q op => answer = exec (.lockedStoreRelease q op) s
  | .matrixCommandAtHead core => answer = exec (.matrixCommandAtHead core) s
  | .kstepGrant cell => answer = exec (.kstepGrant cell) s
  | .kstepRetire core => answer = exec (.kstepRetire core) s
  | .epilogueRow core => answer = exec (.epilogueRow core) s
  | .mdrainCompletion core => answer = exec (.mdrainCompletion core) s
  | .tellerOpStart cell => answer = exec (.tellerOpStart cell) s
  | .redaddSegment cell op => answer = exec (.redaddSegment cell op) s
  | .tellerFault cell op code addr => answer = exec (.tellerFault cell op code addr) s
  | .tellerOpCompletion cell op => answer = exec (.tellerOpCompletion cell op) s
  | .userEventEntry tid => answer = exec (.userEventEntry tid) s
  | .sleepTimeReached tid => answer = exec (.sleepTimeReached tid) s
  | .dispatcherRecordArrival sector r poster => answer = exec (.dispatcherRecordArrival sector r poster) s
  | .spillRefill sector rcb asid => answer = exec (.spillRefill sector rcb asid) s
  | .residencyProbe sector => answer = exec (.residencyProbe sector) s
  | .placement sector => answer = exec (.placement sector) s
  | .migrationPacketArrival p => answer = exec (.migrationPacketArrival p) s
  | .parkLimitExpiry tid => answer = exec (.parkLimitExpiry tid) s
  | .stallLimitExpiry tid => answer = exec (.stallLimitExpiry tid) s
  | .regionTableUpdateAtCore tid core asid => answer = exec (.regionTableUpdateAtCore tid core asid) s
  | .tapePush src entry addr old width slot tag poison => answer = exec (.tapePush src entry addr old width slot tag poison) s
  | .adjointTileContribution q first vals => answer = exec (.adjointTileContribution q first vals) s
  | .cfenceFence tid core cell => answer = exec (.cfenceFence tid core cell) s
  | .cfenceRestore tid core cell => answer = exec (.cfenceRestore tid core cell) s
  | .creset tid cell => answer = exec (.creset tid cell) s
  | .cellResetEnd cell => answer = exec (.cellResetEnd cell) s
  | .slretEnter tid slice => answer = exec (.slretEnter tid slice) s
  | .slretWake tid slice => answer = exec (.slretWake tid slice) s
  | .retentionDataWake slice => answer = exec (.retentionDataWake slice) s
  | .tsplitWrite die v => answer = exec (.tsplitWrite die v) s
  | .tarenaWrite die len v => answer = exec (.tarenaWrite die len v) s
  | .sevtClear die v => answer = exec (.sevtClear die v) s
  | .tlbiShootdownAtCore tid core asid range => answer = exec (.tlbiShootdownAtCore tid core asid range) s
  | .preemptArrival tid core slot hold a => answer = exec (.preemptArrival tid core slot hold a) s
  | .imageWritebackCommand core tid => answer = exec (.imageWritebackCommand core tid) s
  | .imageLineFetchArrival tid line => answer = exec (.imageLineFetchArrival tid line) s
  | .imageLost tid line => answer = exec (.imageLost tid line) s
  | .haltTreeArrival tid core rcb => answer = exec (.haltTreeArrival tid core rcb) s
  | .xredContributionAtRoot dev tag im j ver op fmt shape n data nf => answer = exec (.xredContributionAtRoot dev tag im j ver op fmt shape n data nf) s
  | .xredRootTimeout tag im j ver => answer = exec (.xredRootTimeout tag im j ver) s
  | .xredResultArrival tag im j ver status data nf => answer = exec (.xredResultArrival tag im j ver status data nf) s
  | .lineFetchArrival tid line => answer = exec (.lineFetchArrival tid line) s
  | .longResultArrival r => answer = exec (.longResultArrival r) s
  | .lineFillArrival q lines => answer = exec (.lineFillArrival q lines) s
  | .fillAtHome q => answer = exec (.fillAtHome q) s
  | .poolBankAccess q op => answer = exec (.poolBankAccess q op) s
  | .writeThroughAtHome q vals => answer = exec (.writeThroughAtHome q vals) s
  | .writeBackMerge tid core line key data mask nc pois => answer = exec (.writeBackMerge tid core line key data mask nc pois) s
  | .writeAckArrival tid tag => answer = exec (.writeAckArrival tid tag) s
  | .atomicAtHome q op => answer = exec (.atomicAtHome q op) s
  | .contributionAtHome q op vals => answer = exec (.contributionAtHome q op vals) s
  | .contributionAckArrival tid => answer = exec (.contributionAckArrival tid) s
  | .releaseAtHome q n val => answer = exec (.releaseAtHome q n val) s
  | .acquireAtHome q n => answer = exec (.acquireAtHome q n) s
  | .drainCommandArrival core job => answer = exec (.drainCommandArrival core job) s
  | .drainCompletion job => answer = exec (.drainCompletion job) s
  | .barrierArrivalAtHome w => answer = exec (.barrierArrivalAtHome w) s
  | .waitRegistration w => answer = exec (.waitRegistration w) s
  | .wakeAtHome q timeout => answer = exec (.wakeAtHome q timeout) s
  | .waiterWakeArrival w val result => answer = exec (.waiterWakeArrival w val result) s
  | .waiterPollRetry w => answer = exec (.waiterPollRetry w) s
  | .waitDeadlineExpiry w => answer = exec (.waitDeadlineExpiry w) s
  | .suspendedPollerRequeue w => answer = exec (.suspendedPollerRequeue w) s
  | .getsAtHome line die => answer = exec (.getsAtHome line die) s
  | .getmAtHome line die => answer = exec (.getmAtHome line die) s
  | .putmAtHome line die => answer = exec (.putmAtHome line die) s
  | .puteAtHome line die => answer = exec (.puteAtHome line die) s
  | .forwardedRequest line owner dest excl => answer = exec (.forwardedRequest line owner dest excl) s
  | .invalidateAtProxy line die => answer = exec (.invalidateAtProxy line die) s
  | .deliverRetry r => answer = exec (.deliverRetry r) s
  | .softErrorCorrected die cls inst loc => answer = exec (.softErrorCorrected die cls inst loc) s
  | .uncorrectableError die cls inst loc => answer = exec (.uncorrectableError die cls inst loc) s
  | .errorWindowEnd die => answer = exec (.errorWindowEnd die) s
  | .powerWindowProjection die high cycles => answer = exec (.powerWindowProjection die high cycles) s
  | .coldReset => answer = exec (.coldReset) s
  | .coreRelease => answer = exec (.coreRelease) s
  | .hostDoorbell => answer = exec (.hostDoorbell) s
  | .spdmRequest => answer = exec (.spdmRequest) s
  | .linkStateChange link state => answer = exec (.linkStateChange link state) s
  | .flitRetransmit link => answer = exec (.flitRetransmit link) s
  | .linkMessageArrival link m => answer = exec (.linkMessageArrival link m) s
  | .remoteWordAccess m => answer = exec (.remoteWordAccess m) s
  | .remoteKeyRequest m => answer = exec (.remoteKeyRequest m) s
  | .arrivalNotice dev space arr im j ver data => answer = exec (.arrivalNotice dev space arr im j ver data) s
  | .shadowFetchReply slice k status data => answer = exec (.shadowFetchReply slice k status data) s
  | .hostHdmAccess pa write => answer = exec (.hostHdmAccess pa write) s
  | .bisnpResponse die slot line dirty => answer = exec (.bisnpResponse die slot line dirty) s
  | .hostSnoop half inv => answer = exec (.hostSnoop half inv) s
  | .hostFillReply half excl data => answer = exec (.hostFillReply half excl data) s
  | .bridgeDeviceAccess q op => answer = exec (.bridgeDeviceAccess q op) s
  | .cxlLinkStateChange up => answer = exec (.cxlLinkStateChange up) s

/-- R430, log 3, 6: a step delivers what is due before anything else; with messages in flight a free choice lets a core have its turn or delivers one of
them, but that a message whose slice has accepted one of a higher plane in the cycle waits for a later cycle; to deliver an event is to perform its meaning. -/
def Obligations.EventsAreDelivered : Prop :=
  ∀ (s : State) (e : Event) (r : List Event),
    let n := Config.next s.draws % (s.pending.length + 1)
    let u := { s with draws := s.draws + 1 }
    let k := u.choose (n - 1)
    let delivers (v : State) : Prop := ∃ a, Claims.Delivers v a e ∧ step s = Claims.Ends s a
    Claims.Delivers s (deliverEvent e s) e ∧ (s.due = e :: r → delivers { s with due := r }) ∧
    (s.due = [] → s.pending ≠ [] → n = 0 → step s = Claims.Ends s u.issueTurn) ∧
    (s.due = [] → n ≠ 0 → s.pending[k]? = some e →
      (u.tooLate e = true → step s = Claims.Ends s u.issueTurn) ∧ (u.tooLate e = false → delivers (({ u with pending := s.pending.eraseIdx k } : State).accept e)))

/-- R14, R115, R119, R129, R164, R170, R352, R412, log 3: which of the messages in flight arrives: one that no older one must precede, any of them at a
free choice. Two accesses keep their order where they share a byte and come from one core, or where one is a step of the directory; messages over one link, a device's requests, requests
for one key, and a region table's updates before the result of the instruction that changed it keep theirs; a write-back of a draining core arrives before the drain ends. Of the VHISTs at a
cell's unit the next core in round-robin order is granted. The freedom in between is the model's, which takes no other order from the spec (log 3). -/
def Obligations.MessageOrder : Prop :=
  ∀ (s : State) (k i job : Nat) (o y : Event) (a b : Touch),
    let j := s.choose k
    let meets := ∃ x ∈ a.spans, ∃ z ∈ b.spans, x.1 < z.1 + z.2 ∧ z.1 < x.1 + x.2
    (s.pending ≠ [] → j < s.pending.length) ∧
    (s.jobs = [] → i < j → s.pending[i]? = some o → s.pending[j]? = some y → s.blocks o y = false) ∧
    (s.jobs = [] → s.pending[k]? = some y → (∀ n e, n < k → s.pending[n]? = some e → s.blocks e y = false) → s.histRank y = none → j = k) ∧
    (∀ cell r n, s.pending[j]? = some y → s.histRank y = some (cell, r) → s.pending[i]? = some o → s.histRank o = some (cell, n) → r ≤ n) ∧
    (touchOf o = some a → touchOf y = some b → (s.blocks o y = true ↔ meets ∧ (a.kind = 3 ∨ b.kind = 3 ∨ a.core = b.core))) ∧
    (∀ x, touchOf o = some a → a.kind = 2 → s.jobs.find? job = some x → a.core ∈ x.cores → afterRelease x a = false → s.blocks o (.drainCompletion job) = true) ∧
    (∀ l m l' m', s.blocks (.linkMessageArrival l m) (.linkMessageArrival l' m') = true ↔ l = l') ∧
    (∀ m m', s.blocks (.remoteKeyRequest m) (.remoteKeyRequest m') = true ↔ m.dev = m'.dev) ∧
    (∀ q q' : KeyReq, ∀ data, (s.blocks (.mintReference q) (.mintReference q') = true ↔ q.key = q'.key) ∧
      (s.blocks (.mintReserve q) (.mintCreate q' data) = true ↔ q.key = q'.key) ∧ (s.blocks (.mintDrop q) (.mintReference q') = true ↔ q.key = q'.key)) ∧
    (∀ tid core asid r, s.blocks (.regionTableUpdateAtCore tid core asid) (.longResultArrival r) = true ↔ r.tid = tid) ∧
    ∀ (q : MemReq) vals op core tid line key d m nc pois die,
      touchOf (.writeThroughAtHome q vals) = some ⟨q.src.core, q.lanes.map fun l => (l.pa, l.n), 0⟩ ∧
      touchOf (.atomicAtHome q op) = some ⟨q.src.core, q.lanes.map fun l => (l.pa, l.n), 1⟩ ∧
      touchOf (.writeBackMerge tid core line key d m nc pois) = some ⟨core, [(128 * line, 128)], 2⟩ ∧
      touchOf (.getmAtHome line die) = some ⟨0, [(128 * line, 128)], 3⟩

/-- R26 to R28, R36 to R43, R71, R103, R203, R229, R297: words of the spec's worked lines and of its encodings, bit for bit, decode to the
instructions that they stand for. -/
def Obligations.DecodeWords : Prop :=
  decode 0x42C5 0x00640000 = some ⟨false, none, .li 0 5 100⟩ ∧ decode 0x2026 0x00E5 = some ⟨false, none, .add 0 6 5 (.reg 7)⟩ ∧
  decode 0x6026 0x0001234504600006 = some ⟨false, some ⟨3, false⟩, .add 0 6 6 (.imm 74565)⟩ ∧
  decode 0xC608 0x00080006 = some ⟨true, none, .ld 0 8 ⟨6, 8⟩⟩ ∧ decode 0x4382 0x00000001 = some ⟨false, none, .br 2 ⟨0, 1⟩⟩ ∧
  decode 0x4405 0x00000003 = some ⟨false, none, .loop 5 ⟨0, 3⟩⟩ ∧ decode 0x4321 0x01901006 = some ⟨false, none, .cmp 4 1 6 (.imm 400)⟩ ∧
  decode 0x22E8 0x0406 = some ⟨false, none, .sel 1 8 6 0⟩ ∧
  decode (0#1 ++ 1#2 ++ 0x70#8 ++ 1#5) ((0#6 ++ 3#5 ++ 2#5).setWidth 64) = some ⟨false, none, .vadd 0 1 2 3 none⟩ ∧
  decode (0#1 ++ 3#2 ++ 0xA1#8 ++ 4#5) (0#32 ++ 9#6 ++ 0#1 ++ 0#4 ++ 8#5 ++ 0#6 ++ 7#5 ++ 6#5) =
    some ⟨false, some ⟨0, false⟩, .tld 4 ⟨6, 7, 8, .reg 9⟩⟩ ∧
  decode (0#1 ++ 1#2 ++ 0xC1#8 ++ 4#5) ((1#6 ++ 0#5 ++ 0#5).setWidth 64) = some ⟨false, none, .mma 1 0 1⟩ ∧
  decode (0#1 ++ 1#2 ++ 0x24#8 ++ 0#5) 0 = none ∧ decode (0#1 ++ 0#2 ++ 0x01#8 ++ 0#5) 0 = none

/-- R36 to R48, R50, R71, R103, R118, R143, R147, R173, R203, R229, R297: every well-formed instruction has words, and they decode to it, with every operand,
guard and switch marker. -/
def Obligations.EncodeDecode : Prop :=
  ∀ i : Insn, WellFormed i = true → ∃ w, encode i = some w ∧ decode w.1 w.2 = some i

/-- The model's memory, as a step leaves it: where addresses rose and no listed byte was 0, so it is after every step. -/
def Obligations.MemoryStaysCanonical : Prop :=
  ∀ s t : State, Memory.wf s.mem = true → step s = .next t → Memory.wf t.mem = true

/-- R2: bytes written are little-endian and read back; a write changes no other byte, keeps the canonical form, and touches nothing but memory. -/
def Obligations.MemoryReadsBackWrites : Prop :=
  ∀ (s : State) (a n v : Nat),
    (s.write a n v).read a n = v % 2 ^ (8 * n) ∧ (∀ k, k < n → (s.write a n v).byte (a + k) = BitVec.ofNat 8 (v / 2 ^ (8 * k))) ∧
    (∀ k, k < a ∨ a + n ≤ k → (s.write a n v).byte k = s.byte k) ∧ (Memory.wf s.mem = true → Memory.wf (s.write a n v).mem = true) ∧
    { s.write a n v with mem := s.mem } = s
end

