-- ==== Sys2Proof/Laws/Maps.lean ====
section
/-! SUPPORT. Laws of sparse tables: what a table holds after a write. -/

namespace Sys2Proof

variable {α : Type}

theorem SMap.find?_set_self (m : SMap α) (k : Nat) (v : α) : (m.set k v).find? k = some v := by
  induction m with
  | nil => simp [SMap.set, SMap.find?]
  | cons e r ih =>
    obtain ⟨j, w⟩ := e
    simp only [SMap.set]
    split
    · simp [SMap.find?]
    · split
      · simp [SMap.find?]
      · have : j ≠ k := fun h => by simp_all
        simp [SMap.find?, this, ih]

theorem SMap.find?_set_other (m : SMap α) (k j : Nat) (v : α) (h : j ≠ k) : (m.set k v).find? j = m.find? j := by
  induction m with
  | nil => simp [SMap.set, SMap.find?, Ne.symm h]
  | cons e r ih =>
    obtain ⟨i, w⟩ := e
    simp only [SMap.set]
    split
    · simp [SMap.find?, Ne.symm h]
    · split
      · rename_i _ e
        subst e
        simp [SMap.find?, Ne.symm h]
      · by_cases g : i = j
        · simp [SMap.find?, g]
        · simp [SMap.find?, g, ih]

@[simp] theorem SMap.get_set_self (m : SMap α) (k : Nat) (v d : α) : (m.set k v).get k d = v := by
  simp [SMap.get, SMap.find?_set_self]

theorem SMap.get_set_other (m : SMap α) (k j : Nat) (v d : α) (h : j ≠ k) : (m.set k v).get j d = m.get j d := by
  simp [SMap.get, SMap.find?_set_other m k j v h]

/-- Writing a key twice leaves the second value. -/
@[simp] theorem SMap.set_set (m : SMap α) (k : Nat) (v w : α) : (m.set k v).set k w = m.set k w := by
  induction m with
  | nil => simp [SMap.set]
  | cons e r ih =>
    obtain ⟨j, x⟩ := e
    simp only [SMap.set]
    split
    · simp [SMap.set]
    · split
      · simp [SMap.set]
      · rename_i h1 h2
        simp [SMap.set, h1, h2, ih]

end Sys2Proof
end

