-- ==== Sys2Proof/Laws/State.lean ====
section
/-! SUPPORT. One lemma for each field of the state under each named update: the fields it does not write, and what it writes. -/

namespace Sys2Proof.Machine

/-! ## `setCtx` -/

@[simp] theorem State.setCtx_pcyc (s : State) (tid : Nat) (c : Ctx) : (s.setCtx tid c).pcyc = s.pcyc := rfl
@[simp] theorem State.setCtx_pending (s : State) (tid : Nat) (c : Ctx) : (s.setCtx tid c).pending = s.pending := rfl
@[simp] theorem State.setCtx_due (s : State) (tid : Nat) (c : Ctx) : (s.setCtx tid c).due = s.due := rfl
@[simp] theorem State.setCtx_accepted (s : State) (tid : Nat) (c : Ctx) : (s.setCtx tid c).accepted = s.accepted := rfl
@[simp] theorem State.setCtx_timers (s : State) (tid : Nat) (c : Ctx) : (s.setCtx tid c).timers = s.timers := rfl
@[simp] theorem State.setCtx_cur (s : State) (tid : Nat) (c : Ctx) : (s.setCtx tid c).cur = s.cur := rfl
@[simp] theorem State.setCtx_turn (s : State) (tid : Nat) (c : Ctx) : (s.setCtx tid c).turn = s.turn := rfl
@[simp] theorem State.setCtx_draws (s : State) (tid : Nat) (c : Ctx) : (s.setCtx tid c).draws = s.draws := rfl
@[simp] theorem State.setCtx_mem (s : State) (tid : Nat) (c : Ctx) : (s.setCtx tid c).mem = s.mem := rfl
@[simp] theorem State.setCtx_poisoned (s : State) (tid : Nat) (c : Ctx) : (s.setCtx tid c).poisoned = s.poisoned := rfl
@[simp] theorem State.setCtx_lineKeys (s : State) (tid : Nat) (c : Ctx) : (s.setCtx tid c).lineKeys = s.lineKeys := rfl
@[simp] theorem State.setCtx_cores (s : State) (tid : Nat) (c : Ctx) : (s.setCtx tid c).cores = s.cores := rfl
@[simp] theorem State.setCtx_cells (s : State) (tid : Nat) (c : Ctx) : (s.setCtx tid c).cells = s.cells := rfl
@[simp] theorem State.setCtx_slices (s : State) (tid : Nat) (c : Ctx) : (s.setCtx tid c).slices = s.slices := rfl
@[simp] theorem State.setCtx_dies (s : State) (tid : Nat) (c : Ctx) : (s.setCtx tid c).dies = s.dies := rfl
@[simp] theorem State.setCtx_proxies (s : State) (tid : Nat) (c : Ctx) : (s.setCtx tid c).proxies = s.proxies := rfl
@[simp] theorem State.setCtx_jobs (s : State) (tid : Nat) (c : Ctx) : (s.setCtx tid c).jobs = s.jobs := rfl
@[simp] theorem State.setCtx_serial (s : State) (tid : Nat) (c : Ctx) : (s.setCtx tid c).serial = s.serial := rfl
@[simp] theorem State.setCtx_stalled (s : State) (tid : Nat) (c : Ctx) : (s.setCtx tid c).stalled = s.stalled := rfl
@[simp] theorem State.setCtx_dispatchers (s : State) (tid : Nat) (c : Ctx) : (s.setCtx tid c).dispatchers = s.dispatchers := rfl
@[simp] theorem State.setCtx_spilled (s : State) (tid : Nat) (c : Ctx) : (s.setCtx tid c).spilled = s.spilled := rfl
@[simp] theorem State.setCtx_rcbSerial (s : State) (tid : Nat) (c : Ctx) : (s.setCtx tid c).rcbSerial = s.rcbSerial := rfl
@[simp] theorem State.setCtx_halts (s : State) (tid : Nat) (c : Ctx) : (s.setCtx tid c).halts = s.halts := rfl
@[simp] theorem State.setCtx_stops (s : State) (tid : Nat) (c : Ctx) : (s.setCtx tid c).stops = s.stops := rfl
@[simp] theorem State.setCtx_toHost (s : State) (tid : Nat) (c : Ctx) : (s.setCtx tid c).toHost = s.toHost := rfl
@[simp] theorem State.setCtx_collects (s : State) (tid : Nat) (c : Ctx) : (s.setCtx tid c).collects = s.collects := rfl
@[simp] theorem State.setCtx_regionTables (s : State) (tid : Nat) (c : Ctx) : (s.setCtx tid c).regionTables = s.regionTables := rfl
@[simp] theorem State.setCtx_svec (s : State) (tid : Nat) (c : Ctx) : (s.setCtx tid c).svec = s.svec := rfl
@[simp] theorem State.setCtx_asidtb (s : State) (tid : Nat) (c : Ctx) : (s.setCtx tid c).asidtb = s.asidtb := rfl
@[simp] theorem State.setCtx_devid (s : State) (tid : Nat) (c : Ctx) : (s.setCtx tid c).devid = s.devid := rfl
@[simp] theorem State.setCtx_fvec (s : State) (tid : Nat) (c : Ctx) : (s.setCtx tid c).fvec = s.fvec := rfl
@[simp] theorem State.setCtx_vault (s : State) (tid : Nat) (c : Ctx) : (s.setCtx tid c).vault = s.vault := rfl
@[simp] theorem State.setCtx_links (s : State) (tid : Nat) (c : Ctx) : (s.setCtx tid c).links = s.links := rfl
@[simp] theorem State.setCtx_routes (s : State) (tid : Nat) (c : Ctx) : (s.setCtx tid c).routes = s.routes := rfl
@[simp] theorem State.setCtx_exports (s : State) (tid : Nat) (c : Ctx) : (s.setCtx tid c).exports = s.exports := rfl
@[simp] theorem State.setCtx_bindings (s : State) (tid : Nat) (c : Ctx) : (s.setCtx tid c).bindings = s.bindings := rfl
@[simp] theorem State.setCtx_subs (s : State) (tid : Nat) (c : Ctx) : (s.setCtx tid c).subs = s.subs := rfl
@[simp] theorem State.setCtx_subscribers (s : State) (tid : Nat) (c : Ctx) : (s.setCtx tid c).subscribers = s.subscribers := rfl
@[simp] theorem State.setCtx_sent (s : State) (tid : Nat) (c : Ctx) : (s.setCtx tid c).sent = s.sent := rfl
@[simp] theorem State.setCtx_remotes (s : State) (tid : Nat) (c : Ctx) : (s.setCtx tid c).remotes = s.remotes := rfl
@[simp] theorem State.setCtx_bridge (s : State) (tid : Nat) (c : Ctx) : (s.setCtx tid c).bridge = s.bridge := rfl
@[simp] theorem State.setCtx_bridgeWait (s : State) (tid : Nat) (c : Ctx) : (s.setCtx tid c).bridgeWait = s.bridgeWait := rfl
@[simp] theorem State.setCtx_hostFrames (s : State) (tid : Nat) (c : Ctx) : (s.setCtx tid c).hostFrames = s.hostFrames := rfl
@[simp] theorem State.setCtx_hostRefused (s : State) (tid : Nat) (c : Ctx) : (s.setCtx tid c).hostRefused = s.hostRefused := rfl
@[simp] theorem State.setCtx_snoops (s : State) (tid : Nat) (c : Ctx) : (s.setCtx tid c).snoops = s.snoops := rfl
@[simp] theorem State.setCtx_cxlUp (s : State) (tid : Nat) (c : Ctx) : (s.setCtx tid c).cxlUp = s.cxlUp := rfl
@[simp] theorem State.setCtx_measured (s : State) (tid : Nat) (c : Ctx) : (s.setCtx tid c).measured = s.measured := rfl
@[simp] theorem State.setCtx_firmwareUp (s : State) (tid : Nat) (c : Ctx) : (s.setCtx tid c).firmwareUp = s.firmwareUp := rfl

/-! ## `setMe` -/

@[simp] theorem State.setMe_pcyc (s : State) (c : Ctx) : (s.setMe c).pcyc = s.pcyc := rfl
@[simp] theorem State.setMe_pending (s : State) (c : Ctx) : (s.setMe c).pending = s.pending := rfl
@[simp] theorem State.setMe_due (s : State) (c : Ctx) : (s.setMe c).due = s.due := rfl
@[simp] theorem State.setMe_accepted (s : State) (c : Ctx) : (s.setMe c).accepted = s.accepted := rfl
@[simp] theorem State.setMe_timers (s : State) (c : Ctx) : (s.setMe c).timers = s.timers := rfl
@[simp] theorem State.setMe_cur (s : State) (c : Ctx) : (s.setMe c).cur = s.cur := rfl
@[simp] theorem State.setMe_turn (s : State) (c : Ctx) : (s.setMe c).turn = s.turn := rfl
@[simp] theorem State.setMe_draws (s : State) (c : Ctx) : (s.setMe c).draws = s.draws := rfl
@[simp] theorem State.setMe_mem (s : State) (c : Ctx) : (s.setMe c).mem = s.mem := rfl
@[simp] theorem State.setMe_poisoned (s : State) (c : Ctx) : (s.setMe c).poisoned = s.poisoned := rfl
@[simp] theorem State.setMe_lineKeys (s : State) (c : Ctx) : (s.setMe c).lineKeys = s.lineKeys := rfl
@[simp] theorem State.setMe_cores (s : State) (c : Ctx) : (s.setMe c).cores = s.cores := rfl
@[simp] theorem State.setMe_cells (s : State) (c : Ctx) : (s.setMe c).cells = s.cells := rfl
@[simp] theorem State.setMe_slices (s : State) (c : Ctx) : (s.setMe c).slices = s.slices := rfl
@[simp] theorem State.setMe_dies (s : State) (c : Ctx) : (s.setMe c).dies = s.dies := rfl
@[simp] theorem State.setMe_proxies (s : State) (c : Ctx) : (s.setMe c).proxies = s.proxies := rfl
@[simp] theorem State.setMe_jobs (s : State) (c : Ctx) : (s.setMe c).jobs = s.jobs := rfl
@[simp] theorem State.setMe_serial (s : State) (c : Ctx) : (s.setMe c).serial = s.serial := rfl
@[simp] theorem State.setMe_stalled (s : State) (c : Ctx) : (s.setMe c).stalled = s.stalled := rfl
@[simp] theorem State.setMe_dispatchers (s : State) (c : Ctx) : (s.setMe c).dispatchers = s.dispatchers := rfl
@[simp] theorem State.setMe_spilled (s : State) (c : Ctx) : (s.setMe c).spilled = s.spilled := rfl
@[simp] theorem State.setMe_rcbSerial (s : State) (c : Ctx) : (s.setMe c).rcbSerial = s.rcbSerial := rfl
@[simp] theorem State.setMe_halts (s : State) (c : Ctx) : (s.setMe c).halts = s.halts := rfl
@[simp] theorem State.setMe_stops (s : State) (c : Ctx) : (s.setMe c).stops = s.stops := rfl
@[simp] theorem State.setMe_toHost (s : State) (c : Ctx) : (s.setMe c).toHost = s.toHost := rfl
@[simp] theorem State.setMe_collects (s : State) (c : Ctx) : (s.setMe c).collects = s.collects := rfl
@[simp] theorem State.setMe_regionTables (s : State) (c : Ctx) : (s.setMe c).regionTables = s.regionTables := rfl
@[simp] theorem State.setMe_svec (s : State) (c : Ctx) : (s.setMe c).svec = s.svec := rfl
@[simp] theorem State.setMe_asidtb (s : State) (c : Ctx) : (s.setMe c).asidtb = s.asidtb := rfl
@[simp] theorem State.setMe_devid (s : State) (c : Ctx) : (s.setMe c).devid = s.devid := rfl
@[simp] theorem State.setMe_fvec (s : State) (c : Ctx) : (s.setMe c).fvec = s.fvec := rfl
@[simp] theorem State.setMe_vault (s : State) (c : Ctx) : (s.setMe c).vault = s.vault := rfl
@[simp] theorem State.setMe_links (s : State) (c : Ctx) : (s.setMe c).links = s.links := rfl
@[simp] theorem State.setMe_routes (s : State) (c : Ctx) : (s.setMe c).routes = s.routes := rfl
@[simp] theorem State.setMe_exports (s : State) (c : Ctx) : (s.setMe c).exports = s.exports := rfl
@[simp] theorem State.setMe_bindings (s : State) (c : Ctx) : (s.setMe c).bindings = s.bindings := rfl
@[simp] theorem State.setMe_subs (s : State) (c : Ctx) : (s.setMe c).subs = s.subs := rfl
@[simp] theorem State.setMe_subscribers (s : State) (c : Ctx) : (s.setMe c).subscribers = s.subscribers := rfl
@[simp] theorem State.setMe_sent (s : State) (c : Ctx) : (s.setMe c).sent = s.sent := rfl
@[simp] theorem State.setMe_remotes (s : State) (c : Ctx) : (s.setMe c).remotes = s.remotes := rfl
@[simp] theorem State.setMe_bridge (s : State) (c : Ctx) : (s.setMe c).bridge = s.bridge := rfl
@[simp] theorem State.setMe_bridgeWait (s : State) (c : Ctx) : (s.setMe c).bridgeWait = s.bridgeWait := rfl
@[simp] theorem State.setMe_hostFrames (s : State) (c : Ctx) : (s.setMe c).hostFrames = s.hostFrames := rfl
@[simp] theorem State.setMe_hostRefused (s : State) (c : Ctx) : (s.setMe c).hostRefused = s.hostRefused := rfl
@[simp] theorem State.setMe_snoops (s : State) (c : Ctx) : (s.setMe c).snoops = s.snoops := rfl
@[simp] theorem State.setMe_cxlUp (s : State) (c : Ctx) : (s.setMe c).cxlUp = s.cxlUp := rfl
@[simp] theorem State.setMe_measured (s : State) (c : Ctx) : (s.setMe c).measured = s.measured := rfl
@[simp] theorem State.setMe_firmwareUp (s : State) (c : Ctx) : (s.setMe c).firmwareUp = s.firmwareUp := rfl

/-! ## `setCore` -/

@[simp] theorem State.setCore_pcyc (s : State) (q : Nat) (c : Core) : (s.setCore q c).pcyc = s.pcyc := rfl
@[simp] theorem State.setCore_pending (s : State) (q : Nat) (c : Core) : (s.setCore q c).pending = s.pending := rfl
@[simp] theorem State.setCore_due (s : State) (q : Nat) (c : Core) : (s.setCore q c).due = s.due := rfl
@[simp] theorem State.setCore_accepted (s : State) (q : Nat) (c : Core) : (s.setCore q c).accepted = s.accepted := rfl
@[simp] theorem State.setCore_timers (s : State) (q : Nat) (c : Core) : (s.setCore q c).timers = s.timers := rfl
@[simp] theorem State.setCore_cur (s : State) (q : Nat) (c : Core) : (s.setCore q c).cur = s.cur := rfl
@[simp] theorem State.setCore_turn (s : State) (q : Nat) (c : Core) : (s.setCore q c).turn = s.turn := rfl
@[simp] theorem State.setCore_draws (s : State) (q : Nat) (c : Core) : (s.setCore q c).draws = s.draws := rfl
@[simp] theorem State.setCore_mem (s : State) (q : Nat) (c : Core) : (s.setCore q c).mem = s.mem := rfl
@[simp] theorem State.setCore_poisoned (s : State) (q : Nat) (c : Core) : (s.setCore q c).poisoned = s.poisoned := rfl
@[simp] theorem State.setCore_lineKeys (s : State) (q : Nat) (c : Core) : (s.setCore q c).lineKeys = s.lineKeys := rfl
@[simp] theorem State.setCore_threads (s : State) (q : Nat) (c : Core) : (s.setCore q c).threads = s.threads := rfl
@[simp] theorem State.setCore_cells (s : State) (q : Nat) (c : Core) : (s.setCore q c).cells = s.cells := rfl
@[simp] theorem State.setCore_slices (s : State) (q : Nat) (c : Core) : (s.setCore q c).slices = s.slices := rfl
@[simp] theorem State.setCore_dies (s : State) (q : Nat) (c : Core) : (s.setCore q c).dies = s.dies := rfl
@[simp] theorem State.setCore_proxies (s : State) (q : Nat) (c : Core) : (s.setCore q c).proxies = s.proxies := rfl
@[simp] theorem State.setCore_jobs (s : State) (q : Nat) (c : Core) : (s.setCore q c).jobs = s.jobs := rfl
@[simp] theorem State.setCore_serial (s : State) (q : Nat) (c : Core) : (s.setCore q c).serial = s.serial := rfl
@[simp] theorem State.setCore_stalled (s : State) (q : Nat) (c : Core) : (s.setCore q c).stalled = s.stalled := rfl
@[simp] theorem State.setCore_dispatchers (s : State) (q : Nat) (c : Core) : (s.setCore q c).dispatchers = s.dispatchers := rfl
@[simp] theorem State.setCore_spilled (s : State) (q : Nat) (c : Core) : (s.setCore q c).spilled = s.spilled := rfl
@[simp] theorem State.setCore_rcbSerial (s : State) (q : Nat) (c : Core) : (s.setCore q c).rcbSerial = s.rcbSerial := rfl
@[simp] theorem State.setCore_halts (s : State) (q : Nat) (c : Core) : (s.setCore q c).halts = s.halts := rfl
@[simp] theorem State.setCore_stops (s : State) (q : Nat) (c : Core) : (s.setCore q c).stops = s.stops := rfl
@[simp] theorem State.setCore_toHost (s : State) (q : Nat) (c : Core) : (s.setCore q c).toHost = s.toHost := rfl
@[simp] theorem State.setCore_collects (s : State) (q : Nat) (c : Core) : (s.setCore q c).collects = s.collects := rfl
@[simp] theorem State.setCore_regionTables (s : State) (q : Nat) (c : Core) : (s.setCore q c).regionTables = s.regionTables := rfl
@[simp] theorem State.setCore_svec (s : State) (q : Nat) (c : Core) : (s.setCore q c).svec = s.svec := rfl
@[simp] theorem State.setCore_asidtb (s : State) (q : Nat) (c : Core) : (s.setCore q c).asidtb = s.asidtb := rfl
@[simp] theorem State.setCore_devid (s : State) (q : Nat) (c : Core) : (s.setCore q c).devid = s.devid := rfl
@[simp] theorem State.setCore_fvec (s : State) (q : Nat) (c : Core) : (s.setCore q c).fvec = s.fvec := rfl
@[simp] theorem State.setCore_vault (s : State) (q : Nat) (c : Core) : (s.setCore q c).vault = s.vault := rfl
@[simp] theorem State.setCore_links (s : State) (q : Nat) (c : Core) : (s.setCore q c).links = s.links := rfl
@[simp] theorem State.setCore_routes (s : State) (q : Nat) (c : Core) : (s.setCore q c).routes = s.routes := rfl
@[simp] theorem State.setCore_exports (s : State) (q : Nat) (c : Core) : (s.setCore q c).exports = s.exports := rfl
@[simp] theorem State.setCore_bindings (s : State) (q : Nat) (c : Core) : (s.setCore q c).bindings = s.bindings := rfl
@[simp] theorem State.setCore_subs (s : State) (q : Nat) (c : Core) : (s.setCore q c).subs = s.subs := rfl
@[simp] theorem State.setCore_subscribers (s : State) (q : Nat) (c : Core) : (s.setCore q c).subscribers = s.subscribers := rfl
@[simp] theorem State.setCore_sent (s : State) (q : Nat) (c : Core) : (s.setCore q c).sent = s.sent := rfl
@[simp] theorem State.setCore_remotes (s : State) (q : Nat) (c : Core) : (s.setCore q c).remotes = s.remotes := rfl
@[simp] theorem State.setCore_bridge (s : State) (q : Nat) (c : Core) : (s.setCore q c).bridge = s.bridge := rfl
@[simp] theorem State.setCore_bridgeWait (s : State) (q : Nat) (c : Core) : (s.setCore q c).bridgeWait = s.bridgeWait := rfl
@[simp] theorem State.setCore_hostFrames (s : State) (q : Nat) (c : Core) : (s.setCore q c).hostFrames = s.hostFrames := rfl
@[simp] theorem State.setCore_hostRefused (s : State) (q : Nat) (c : Core) : (s.setCore q c).hostRefused = s.hostRefused := rfl
@[simp] theorem State.setCore_snoops (s : State) (q : Nat) (c : Core) : (s.setCore q c).snoops = s.snoops := rfl
@[simp] theorem State.setCore_cxlUp (s : State) (q : Nat) (c : Core) : (s.setCore q c).cxlUp = s.cxlUp := rfl
@[simp] theorem State.setCore_measured (s : State) (q : Nat) (c : Core) : (s.setCore q c).measured = s.measured := rfl
@[simp] theorem State.setCore_firmwareUp (s : State) (q : Nat) (c : Core) : (s.setCore q c).firmwareUp = s.firmwareUp := rfl

/-! ## `setCell` -/

@[simp] theorem State.setCell_pcyc (s : State) (k : Nat) (c : Cell) : (s.setCell k c).pcyc = s.pcyc := rfl
@[simp] theorem State.setCell_pending (s : State) (k : Nat) (c : Cell) : (s.setCell k c).pending = s.pending := rfl
@[simp] theorem State.setCell_due (s : State) (k : Nat) (c : Cell) : (s.setCell k c).due = s.due := rfl
@[simp] theorem State.setCell_accepted (s : State) (k : Nat) (c : Cell) : (s.setCell k c).accepted = s.accepted := rfl
@[simp] theorem State.setCell_timers (s : State) (k : Nat) (c : Cell) : (s.setCell k c).timers = s.timers := rfl
@[simp] theorem State.setCell_cur (s : State) (k : Nat) (c : Cell) : (s.setCell k c).cur = s.cur := rfl
@[simp] theorem State.setCell_turn (s : State) (k : Nat) (c : Cell) : (s.setCell k c).turn = s.turn := rfl
@[simp] theorem State.setCell_draws (s : State) (k : Nat) (c : Cell) : (s.setCell k c).draws = s.draws := rfl
@[simp] theorem State.setCell_mem (s : State) (k : Nat) (c : Cell) : (s.setCell k c).mem = s.mem := rfl
@[simp] theorem State.setCell_poisoned (s : State) (k : Nat) (c : Cell) : (s.setCell k c).poisoned = s.poisoned := rfl
@[simp] theorem State.setCell_lineKeys (s : State) (k : Nat) (c : Cell) : (s.setCell k c).lineKeys = s.lineKeys := rfl
@[simp] theorem State.setCell_threads (s : State) (k : Nat) (c : Cell) : (s.setCell k c).threads = s.threads := rfl
@[simp] theorem State.setCell_cores (s : State) (k : Nat) (c : Cell) : (s.setCell k c).cores = s.cores := rfl
@[simp] theorem State.setCell_slices (s : State) (k : Nat) (c : Cell) : (s.setCell k c).slices = s.slices := rfl
@[simp] theorem State.setCell_dies (s : State) (k : Nat) (c : Cell) : (s.setCell k c).dies = s.dies := rfl
@[simp] theorem State.setCell_proxies (s : State) (k : Nat) (c : Cell) : (s.setCell k c).proxies = s.proxies := rfl
@[simp] theorem State.setCell_jobs (s : State) (k : Nat) (c : Cell) : (s.setCell k c).jobs = s.jobs := rfl
@[simp] theorem State.setCell_serial (s : State) (k : Nat) (c : Cell) : (s.setCell k c).serial = s.serial := rfl
@[simp] theorem State.setCell_stalled (s : State) (k : Nat) (c : Cell) : (s.setCell k c).stalled = s.stalled := rfl
@[simp] theorem State.setCell_dispatchers (s : State) (k : Nat) (c : Cell) : (s.setCell k c).dispatchers = s.dispatchers := rfl
@[simp] theorem State.setCell_spilled (s : State) (k : Nat) (c : Cell) : (s.setCell k c).spilled = s.spilled := rfl
@[simp] theorem State.setCell_rcbSerial (s : State) (k : Nat) (c : Cell) : (s.setCell k c).rcbSerial = s.rcbSerial := rfl
@[simp] theorem State.setCell_halts (s : State) (k : Nat) (c : Cell) : (s.setCell k c).halts = s.halts := rfl
@[simp] theorem State.setCell_stops (s : State) (k : Nat) (c : Cell) : (s.setCell k c).stops = s.stops := rfl
@[simp] theorem State.setCell_toHost (s : State) (k : Nat) (c : Cell) : (s.setCell k c).toHost = s.toHost := rfl
@[simp] theorem State.setCell_collects (s : State) (k : Nat) (c : Cell) : (s.setCell k c).collects = s.collects := rfl
@[simp] theorem State.setCell_regionTables (s : State) (k : Nat) (c : Cell) : (s.setCell k c).regionTables = s.regionTables := rfl
@[simp] theorem State.setCell_svec (s : State) (k : Nat) (c : Cell) : (s.setCell k c).svec = s.svec := rfl
@[simp] theorem State.setCell_asidtb (s : State) (k : Nat) (c : Cell) : (s.setCell k c).asidtb = s.asidtb := rfl
@[simp] theorem State.setCell_devid (s : State) (k : Nat) (c : Cell) : (s.setCell k c).devid = s.devid := rfl
@[simp] theorem State.setCell_fvec (s : State) (k : Nat) (c : Cell) : (s.setCell k c).fvec = s.fvec := rfl
@[simp] theorem State.setCell_vault (s : State) (k : Nat) (c : Cell) : (s.setCell k c).vault = s.vault := rfl
@[simp] theorem State.setCell_links (s : State) (k : Nat) (c : Cell) : (s.setCell k c).links = s.links := rfl
@[simp] theorem State.setCell_routes (s : State) (k : Nat) (c : Cell) : (s.setCell k c).routes = s.routes := rfl
@[simp] theorem State.setCell_exports (s : State) (k : Nat) (c : Cell) : (s.setCell k c).exports = s.exports := rfl
@[simp] theorem State.setCell_bindings (s : State) (k : Nat) (c : Cell) : (s.setCell k c).bindings = s.bindings := rfl
@[simp] theorem State.setCell_subs (s : State) (k : Nat) (c : Cell) : (s.setCell k c).subs = s.subs := rfl
@[simp] theorem State.setCell_subscribers (s : State) (k : Nat) (c : Cell) : (s.setCell k c).subscribers = s.subscribers := rfl
@[simp] theorem State.setCell_sent (s : State) (k : Nat) (c : Cell) : (s.setCell k c).sent = s.sent := rfl
@[simp] theorem State.setCell_remotes (s : State) (k : Nat) (c : Cell) : (s.setCell k c).remotes = s.remotes := rfl
@[simp] theorem State.setCell_bridge (s : State) (k : Nat) (c : Cell) : (s.setCell k c).bridge = s.bridge := rfl
@[simp] theorem State.setCell_bridgeWait (s : State) (k : Nat) (c : Cell) : (s.setCell k c).bridgeWait = s.bridgeWait := rfl
@[simp] theorem State.setCell_hostFrames (s : State) (k : Nat) (c : Cell) : (s.setCell k c).hostFrames = s.hostFrames := rfl
@[simp] theorem State.setCell_hostRefused (s : State) (k : Nat) (c : Cell) : (s.setCell k c).hostRefused = s.hostRefused := rfl
@[simp] theorem State.setCell_snoops (s : State) (k : Nat) (c : Cell) : (s.setCell k c).snoops = s.snoops := rfl
@[simp] theorem State.setCell_cxlUp (s : State) (k : Nat) (c : Cell) : (s.setCell k c).cxlUp = s.cxlUp := rfl
@[simp] theorem State.setCell_measured (s : State) (k : Nat) (c : Cell) : (s.setCell k c).measured = s.measured := rfl
@[simp] theorem State.setCell_firmwareUp (s : State) (k : Nat) (c : Cell) : (s.setCell k c).firmwareUp = s.firmwareUp := rfl

/-! ## `setSlice` -/

@[simp] theorem State.setSlice_pcyc (s : State) (k : Nat) (c : Slice) : (s.setSlice k c).pcyc = s.pcyc := rfl
@[simp] theorem State.setSlice_pending (s : State) (k : Nat) (c : Slice) : (s.setSlice k c).pending = s.pending := rfl
@[simp] theorem State.setSlice_due (s : State) (k : Nat) (c : Slice) : (s.setSlice k c).due = s.due := rfl
@[simp] theorem State.setSlice_accepted (s : State) (k : Nat) (c : Slice) : (s.setSlice k c).accepted = s.accepted := rfl
@[simp] theorem State.setSlice_timers (s : State) (k : Nat) (c : Slice) : (s.setSlice k c).timers = s.timers := rfl
@[simp] theorem State.setSlice_cur (s : State) (k : Nat) (c : Slice) : (s.setSlice k c).cur = s.cur := rfl
@[simp] theorem State.setSlice_turn (s : State) (k : Nat) (c : Slice) : (s.setSlice k c).turn = s.turn := rfl
@[simp] theorem State.setSlice_draws (s : State) (k : Nat) (c : Slice) : (s.setSlice k c).draws = s.draws := rfl
@[simp] theorem State.setSlice_mem (s : State) (k : Nat) (c : Slice) : (s.setSlice k c).mem = s.mem := rfl
@[simp] theorem State.setSlice_poisoned (s : State) (k : Nat) (c : Slice) : (s.setSlice k c).poisoned = s.poisoned := rfl
@[simp] theorem State.setSlice_lineKeys (s : State) (k : Nat) (c : Slice) : (s.setSlice k c).lineKeys = s.lineKeys := rfl
@[simp] theorem State.setSlice_threads (s : State) (k : Nat) (c : Slice) : (s.setSlice k c).threads = s.threads := rfl
@[simp] theorem State.setSlice_cores (s : State) (k : Nat) (c : Slice) : (s.setSlice k c).cores = s.cores := rfl
@[simp] theorem State.setSlice_cells (s : State) (k : Nat) (c : Slice) : (s.setSlice k c).cells = s.cells := rfl
@[simp] theorem State.setSlice_dies (s : State) (k : Nat) (c : Slice) : (s.setSlice k c).dies = s.dies := rfl
@[simp] theorem State.setSlice_proxies (s : State) (k : Nat) (c : Slice) : (s.setSlice k c).proxies = s.proxies := rfl
@[simp] theorem State.setSlice_jobs (s : State) (k : Nat) (c : Slice) : (s.setSlice k c).jobs = s.jobs := rfl
@[simp] theorem State.setSlice_serial (s : State) (k : Nat) (c : Slice) : (s.setSlice k c).serial = s.serial := rfl
@[simp] theorem State.setSlice_stalled (s : State) (k : Nat) (c : Slice) : (s.setSlice k c).stalled = s.stalled := rfl
@[simp] theorem State.setSlice_dispatchers (s : State) (k : Nat) (c : Slice) : (s.setSlice k c).dispatchers = s.dispatchers := rfl
@[simp] theorem State.setSlice_spilled (s : State) (k : Nat) (c : Slice) : (s.setSlice k c).spilled = s.spilled := rfl
@[simp] theorem State.setSlice_rcbSerial (s : State) (k : Nat) (c : Slice) : (s.setSlice k c).rcbSerial = s.rcbSerial := rfl
@[simp] theorem State.setSlice_halts (s : State) (k : Nat) (c : Slice) : (s.setSlice k c).halts = s.halts := rfl
@[simp] theorem State.setSlice_stops (s : State) (k : Nat) (c : Slice) : (s.setSlice k c).stops = s.stops := rfl
@[simp] theorem State.setSlice_toHost (s : State) (k : Nat) (c : Slice) : (s.setSlice k c).toHost = s.toHost := rfl
@[simp] theorem State.setSlice_collects (s : State) (k : Nat) (c : Slice) : (s.setSlice k c).collects = s.collects := rfl
@[simp] theorem State.setSlice_regionTables (s : State) (k : Nat) (c : Slice) : (s.setSlice k c).regionTables = s.regionTables := rfl
@[simp] theorem State.setSlice_svec (s : State) (k : Nat) (c : Slice) : (s.setSlice k c).svec = s.svec := rfl
@[simp] theorem State.setSlice_asidtb (s : State) (k : Nat) (c : Slice) : (s.setSlice k c).asidtb = s.asidtb := rfl
@[simp] theorem State.setSlice_devid (s : State) (k : Nat) (c : Slice) : (s.setSlice k c).devid = s.devid := rfl
@[simp] theorem State.setSlice_fvec (s : State) (k : Nat) (c : Slice) : (s.setSlice k c).fvec = s.fvec := rfl
@[simp] theorem State.setSlice_vault (s : State) (k : Nat) (c : Slice) : (s.setSlice k c).vault = s.vault := rfl
@[simp] theorem State.setSlice_links (s : State) (k : Nat) (c : Slice) : (s.setSlice k c).links = s.links := rfl
@[simp] theorem State.setSlice_routes (s : State) (k : Nat) (c : Slice) : (s.setSlice k c).routes = s.routes := rfl
@[simp] theorem State.setSlice_exports (s : State) (k : Nat) (c : Slice) : (s.setSlice k c).exports = s.exports := rfl
@[simp] theorem State.setSlice_bindings (s : State) (k : Nat) (c : Slice) : (s.setSlice k c).bindings = s.bindings := rfl
@[simp] theorem State.setSlice_subs (s : State) (k : Nat) (c : Slice) : (s.setSlice k c).subs = s.subs := rfl
@[simp] theorem State.setSlice_subscribers (s : State) (k : Nat) (c : Slice) : (s.setSlice k c).subscribers = s.subscribers := rfl
@[simp] theorem State.setSlice_sent (s : State) (k : Nat) (c : Slice) : (s.setSlice k c).sent = s.sent := rfl
@[simp] theorem State.setSlice_remotes (s : State) (k : Nat) (c : Slice) : (s.setSlice k c).remotes = s.remotes := rfl
@[simp] theorem State.setSlice_bridge (s : State) (k : Nat) (c : Slice) : (s.setSlice k c).bridge = s.bridge := rfl
@[simp] theorem State.setSlice_bridgeWait (s : State) (k : Nat) (c : Slice) : (s.setSlice k c).bridgeWait = s.bridgeWait := rfl
@[simp] theorem State.setSlice_hostFrames (s : State) (k : Nat) (c : Slice) : (s.setSlice k c).hostFrames = s.hostFrames := rfl
@[simp] theorem State.setSlice_hostRefused (s : State) (k : Nat) (c : Slice) : (s.setSlice k c).hostRefused = s.hostRefused := rfl
@[simp] theorem State.setSlice_snoops (s : State) (k : Nat) (c : Slice) : (s.setSlice k c).snoops = s.snoops := rfl
@[simp] theorem State.setSlice_cxlUp (s : State) (k : Nat) (c : Slice) : (s.setSlice k c).cxlUp = s.cxlUp := rfl
@[simp] theorem State.setSlice_measured (s : State) (k : Nat) (c : Slice) : (s.setSlice k c).measured = s.measured := rfl
@[simp] theorem State.setSlice_firmwareUp (s : State) (k : Nat) (c : Slice) : (s.setSlice k c).firmwareUp = s.firmwareUp := rfl

/-! ## `setDie` -/

@[simp] theorem State.setDie_pcyc (s : State) (k : Nat) (c : Die) : (s.setDie k c).pcyc = s.pcyc := rfl
@[simp] theorem State.setDie_pending (s : State) (k : Nat) (c : Die) : (s.setDie k c).pending = s.pending := rfl
@[simp] theorem State.setDie_due (s : State) (k : Nat) (c : Die) : (s.setDie k c).due = s.due := rfl
@[simp] theorem State.setDie_accepted (s : State) (k : Nat) (c : Die) : (s.setDie k c).accepted = s.accepted := rfl
@[simp] theorem State.setDie_timers (s : State) (k : Nat) (c : Die) : (s.setDie k c).timers = s.timers := rfl
@[simp] theorem State.setDie_cur (s : State) (k : Nat) (c : Die) : (s.setDie k c).cur = s.cur := rfl
@[simp] theorem State.setDie_turn (s : State) (k : Nat) (c : Die) : (s.setDie k c).turn = s.turn := rfl
@[simp] theorem State.setDie_draws (s : State) (k : Nat) (c : Die) : (s.setDie k c).draws = s.draws := rfl
@[simp] theorem State.setDie_mem (s : State) (k : Nat) (c : Die) : (s.setDie k c).mem = s.mem := rfl
@[simp] theorem State.setDie_poisoned (s : State) (k : Nat) (c : Die) : (s.setDie k c).poisoned = s.poisoned := rfl
@[simp] theorem State.setDie_lineKeys (s : State) (k : Nat) (c : Die) : (s.setDie k c).lineKeys = s.lineKeys := rfl
@[simp] theorem State.setDie_threads (s : State) (k : Nat) (c : Die) : (s.setDie k c).threads = s.threads := rfl
@[simp] theorem State.setDie_cores (s : State) (k : Nat) (c : Die) : (s.setDie k c).cores = s.cores := rfl
@[simp] theorem State.setDie_cells (s : State) (k : Nat) (c : Die) : (s.setDie k c).cells = s.cells := rfl
@[simp] theorem State.setDie_slices (s : State) (k : Nat) (c : Die) : (s.setDie k c).slices = s.slices := rfl
@[simp] theorem State.setDie_proxies (s : State) (k : Nat) (c : Die) : (s.setDie k c).proxies = s.proxies := rfl
@[simp] theorem State.setDie_jobs (s : State) (k : Nat) (c : Die) : (s.setDie k c).jobs = s.jobs := rfl
@[simp] theorem State.setDie_serial (s : State) (k : Nat) (c : Die) : (s.setDie k c).serial = s.serial := rfl
@[simp] theorem State.setDie_stalled (s : State) (k : Nat) (c : Die) : (s.setDie k c).stalled = s.stalled := rfl
@[simp] theorem State.setDie_dispatchers (s : State) (k : Nat) (c : Die) : (s.setDie k c).dispatchers = s.dispatchers := rfl
@[simp] theorem State.setDie_spilled (s : State) (k : Nat) (c : Die) : (s.setDie k c).spilled = s.spilled := rfl
@[simp] theorem State.setDie_rcbSerial (s : State) (k : Nat) (c : Die) : (s.setDie k c).rcbSerial = s.rcbSerial := rfl
@[simp] theorem State.setDie_halts (s : State) (k : Nat) (c : Die) : (s.setDie k c).halts = s.halts := rfl
@[simp] theorem State.setDie_stops (s : State) (k : Nat) (c : Die) : (s.setDie k c).stops = s.stops := rfl
@[simp] theorem State.setDie_toHost (s : State) (k : Nat) (c : Die) : (s.setDie k c).toHost = s.toHost := rfl
@[simp] theorem State.setDie_collects (s : State) (k : Nat) (c : Die) : (s.setDie k c).collects = s.collects := rfl
@[simp] theorem State.setDie_regionTables (s : State) (k : Nat) (c : Die) : (s.setDie k c).regionTables = s.regionTables := rfl
@[simp] theorem State.setDie_svec (s : State) (k : Nat) (c : Die) : (s.setDie k c).svec = s.svec := rfl
@[simp] theorem State.setDie_asidtb (s : State) (k : Nat) (c : Die) : (s.setDie k c).asidtb = s.asidtb := rfl
@[simp] theorem State.setDie_devid (s : State) (k : Nat) (c : Die) : (s.setDie k c).devid = s.devid := rfl
@[simp] theorem State.setDie_fvec (s : State) (k : Nat) (c : Die) : (s.setDie k c).fvec = s.fvec := rfl
@[simp] theorem State.setDie_vault (s : State) (k : Nat) (c : Die) : (s.setDie k c).vault = s.vault := rfl
@[simp] theorem State.setDie_links (s : State) (k : Nat) (c : Die) : (s.setDie k c).links = s.links := rfl
@[simp] theorem State.setDie_routes (s : State) (k : Nat) (c : Die) : (s.setDie k c).routes = s.routes := rfl
@[simp] theorem State.setDie_exports (s : State) (k : Nat) (c : Die) : (s.setDie k c).exports = s.exports := rfl
@[simp] theorem State.setDie_bindings (s : State) (k : Nat) (c : Die) : (s.setDie k c).bindings = s.bindings := rfl
@[simp] theorem State.setDie_subs (s : State) (k : Nat) (c : Die) : (s.setDie k c).subs = s.subs := rfl
@[simp] theorem State.setDie_subscribers (s : State) (k : Nat) (c : Die) : (s.setDie k c).subscribers = s.subscribers := rfl
@[simp] theorem State.setDie_sent (s : State) (k : Nat) (c : Die) : (s.setDie k c).sent = s.sent := rfl
@[simp] theorem State.setDie_remotes (s : State) (k : Nat) (c : Die) : (s.setDie k c).remotes = s.remotes := rfl
@[simp] theorem State.setDie_bridge (s : State) (k : Nat) (c : Die) : (s.setDie k c).bridge = s.bridge := rfl
@[simp] theorem State.setDie_bridgeWait (s : State) (k : Nat) (c : Die) : (s.setDie k c).bridgeWait = s.bridgeWait := rfl
@[simp] theorem State.setDie_hostFrames (s : State) (k : Nat) (c : Die) : (s.setDie k c).hostFrames = s.hostFrames := rfl
@[simp] theorem State.setDie_hostRefused (s : State) (k : Nat) (c : Die) : (s.setDie k c).hostRefused = s.hostRefused := rfl
@[simp] theorem State.setDie_snoops (s : State) (k : Nat) (c : Die) : (s.setDie k c).snoops = s.snoops := rfl
@[simp] theorem State.setDie_cxlUp (s : State) (k : Nat) (c : Die) : (s.setDie k c).cxlUp = s.cxlUp := rfl
@[simp] theorem State.setDie_measured (s : State) (k : Nat) (c : Die) : (s.setDie k c).measured = s.measured := rfl
@[simp] theorem State.setDie_firmwareUp (s : State) (k : Nat) (c : Die) : (s.setDie k c).firmwareUp = s.firmwareUp := rfl

/-! ## `post` -/

@[simp] theorem State.post_pcyc (s : State) (e : Event) : (s.post e).pcyc = s.pcyc := rfl
@[simp] theorem State.post_due (s : State) (e : Event) : (s.post e).due = s.due := rfl
@[simp] theorem State.post_accepted (s : State) (e : Event) : (s.post e).accepted = s.accepted := rfl
@[simp] theorem State.post_timers (s : State) (e : Event) : (s.post e).timers = s.timers := rfl
@[simp] theorem State.post_cur (s : State) (e : Event) : (s.post e).cur = s.cur := rfl
@[simp] theorem State.post_turn (s : State) (e : Event) : (s.post e).turn = s.turn := rfl
@[simp] theorem State.post_draws (s : State) (e : Event) : (s.post e).draws = s.draws := rfl
@[simp] theorem State.post_mem (s : State) (e : Event) : (s.post e).mem = s.mem := rfl
@[simp] theorem State.post_poisoned (s : State) (e : Event) : (s.post e).poisoned = s.poisoned := rfl
@[simp] theorem State.post_lineKeys (s : State) (e : Event) : (s.post e).lineKeys = s.lineKeys := rfl
@[simp] theorem State.post_threads (s : State) (e : Event) : (s.post e).threads = s.threads := rfl
@[simp] theorem State.post_cores (s : State) (e : Event) : (s.post e).cores = s.cores := rfl
@[simp] theorem State.post_cells (s : State) (e : Event) : (s.post e).cells = s.cells := rfl
@[simp] theorem State.post_slices (s : State) (e : Event) : (s.post e).slices = s.slices := rfl
@[simp] theorem State.post_dies (s : State) (e : Event) : (s.post e).dies = s.dies := rfl
@[simp] theorem State.post_proxies (s : State) (e : Event) : (s.post e).proxies = s.proxies := rfl
@[simp] theorem State.post_jobs (s : State) (e : Event) : (s.post e).jobs = s.jobs := rfl
@[simp] theorem State.post_serial (s : State) (e : Event) : (s.post e).serial = s.serial := rfl
@[simp] theorem State.post_stalled (s : State) (e : Event) : (s.post e).stalled = s.stalled := rfl
@[simp] theorem State.post_dispatchers (s : State) (e : Event) : (s.post e).dispatchers = s.dispatchers := rfl
@[simp] theorem State.post_spilled (s : State) (e : Event) : (s.post e).spilled = s.spilled := rfl
@[simp] theorem State.post_rcbSerial (s : State) (e : Event) : (s.post e).rcbSerial = s.rcbSerial := rfl
@[simp] theorem State.post_halts (s : State) (e : Event) : (s.post e).halts = s.halts := rfl
@[simp] theorem State.post_stops (s : State) (e : Event) : (s.post e).stops = s.stops := rfl
@[simp] theorem State.post_toHost (s : State) (e : Event) : (s.post e).toHost = s.toHost := rfl
@[simp] theorem State.post_collects (s : State) (e : Event) : (s.post e).collects = s.collects := rfl
@[simp] theorem State.post_regionTables (s : State) (e : Event) : (s.post e).regionTables = s.regionTables := rfl
@[simp] theorem State.post_svec (s : State) (e : Event) : (s.post e).svec = s.svec := rfl
@[simp] theorem State.post_asidtb (s : State) (e : Event) : (s.post e).asidtb = s.asidtb := rfl
@[simp] theorem State.post_devid (s : State) (e : Event) : (s.post e).devid = s.devid := rfl
@[simp] theorem State.post_fvec (s : State) (e : Event) : (s.post e).fvec = s.fvec := rfl
@[simp] theorem State.post_vault (s : State) (e : Event) : (s.post e).vault = s.vault := rfl
@[simp] theorem State.post_links (s : State) (e : Event) : (s.post e).links = s.links := rfl
@[simp] theorem State.post_routes (s : State) (e : Event) : (s.post e).routes = s.routes := rfl
@[simp] theorem State.post_exports (s : State) (e : Event) : (s.post e).exports = s.exports := rfl
@[simp] theorem State.post_bindings (s : State) (e : Event) : (s.post e).bindings = s.bindings := rfl
@[simp] theorem State.post_subs (s : State) (e : Event) : (s.post e).subs = s.subs := rfl
@[simp] theorem State.post_subscribers (s : State) (e : Event) : (s.post e).subscribers = s.subscribers := rfl
@[simp] theorem State.post_sent (s : State) (e : Event) : (s.post e).sent = s.sent := rfl
@[simp] theorem State.post_remotes (s : State) (e : Event) : (s.post e).remotes = s.remotes := rfl
@[simp] theorem State.post_bridge (s : State) (e : Event) : (s.post e).bridge = s.bridge := rfl
@[simp] theorem State.post_bridgeWait (s : State) (e : Event) : (s.post e).bridgeWait = s.bridgeWait := rfl
@[simp] theorem State.post_hostFrames (s : State) (e : Event) : (s.post e).hostFrames = s.hostFrames := rfl
@[simp] theorem State.post_hostRefused (s : State) (e : Event) : (s.post e).hostRefused = s.hostRefused := rfl
@[simp] theorem State.post_snoops (s : State) (e : Event) : (s.post e).snoops = s.snoops := rfl
@[simp] theorem State.post_cxlUp (s : State) (e : Event) : (s.post e).cxlUp = s.cxlUp := rfl
@[simp] theorem State.post_measured (s : State) (e : Event) : (s.post e).measured = s.measured := rfl
@[simp] theorem State.post_firmwareUp (s : State) (e : Event) : (s.post e).firmwareUp = s.firmwareUp := rfl

/-! ## `postFront` -/

@[simp] theorem State.postFront_pcyc (s : State) (e : Event) : (s.postFront e).pcyc = s.pcyc := rfl
@[simp] theorem State.postFront_due (s : State) (e : Event) : (s.postFront e).due = s.due := rfl
@[simp] theorem State.postFront_accepted (s : State) (e : Event) : (s.postFront e).accepted = s.accepted := rfl
@[simp] theorem State.postFront_timers (s : State) (e : Event) : (s.postFront e).timers = s.timers := rfl
@[simp] theorem State.postFront_cur (s : State) (e : Event) : (s.postFront e).cur = s.cur := rfl
@[simp] theorem State.postFront_turn (s : State) (e : Event) : (s.postFront e).turn = s.turn := rfl
@[simp] theorem State.postFront_draws (s : State) (e : Event) : (s.postFront e).draws = s.draws := rfl
@[simp] theorem State.postFront_mem (s : State) (e : Event) : (s.postFront e).mem = s.mem := rfl
@[simp] theorem State.postFront_poisoned (s : State) (e : Event) : (s.postFront e).poisoned = s.poisoned := rfl
@[simp] theorem State.postFront_lineKeys (s : State) (e : Event) : (s.postFront e).lineKeys = s.lineKeys := rfl
@[simp] theorem State.postFront_threads (s : State) (e : Event) : (s.postFront e).threads = s.threads := rfl
@[simp] theorem State.postFront_cores (s : State) (e : Event) : (s.postFront e).cores = s.cores := rfl
@[simp] theorem State.postFront_cells (s : State) (e : Event) : (s.postFront e).cells = s.cells := rfl
@[simp] theorem State.postFront_slices (s : State) (e : Event) : (s.postFront e).slices = s.slices := rfl
@[simp] theorem State.postFront_dies (s : State) (e : Event) : (s.postFront e).dies = s.dies := rfl
@[simp] theorem State.postFront_proxies (s : State) (e : Event) : (s.postFront e).proxies = s.proxies := rfl
@[simp] theorem State.postFront_jobs (s : State) (e : Event) : (s.postFront e).jobs = s.jobs := rfl
@[simp] theorem State.postFront_serial (s : State) (e : Event) : (s.postFront e).serial = s.serial := rfl
@[simp] theorem State.postFront_stalled (s : State) (e : Event) : (s.postFront e).stalled = s.stalled := rfl
@[simp] theorem State.postFront_dispatchers (s : State) (e : Event) : (s.postFront e).dispatchers = s.dispatchers := rfl
@[simp] theorem State.postFront_spilled (s : State) (e : Event) : (s.postFront e).spilled = s.spilled := rfl
@[simp] theorem State.postFront_rcbSerial (s : State) (e : Event) : (s.postFront e).rcbSerial = s.rcbSerial := rfl
@[simp] theorem State.postFront_halts (s : State) (e : Event) : (s.postFront e).halts = s.halts := rfl
@[simp] theorem State.postFront_stops (s : State) (e : Event) : (s.postFront e).stops = s.stops := rfl
@[simp] theorem State.postFront_toHost (s : State) (e : Event) : (s.postFront e).toHost = s.toHost := rfl
@[simp] theorem State.postFront_collects (s : State) (e : Event) : (s.postFront e).collects = s.collects := rfl
@[simp] theorem State.postFront_regionTables (s : State) (e : Event) : (s.postFront e).regionTables = s.regionTables := rfl
@[simp] theorem State.postFront_svec (s : State) (e : Event) : (s.postFront e).svec = s.svec := rfl
@[simp] theorem State.postFront_asidtb (s : State) (e : Event) : (s.postFront e).asidtb = s.asidtb := rfl
@[simp] theorem State.postFront_devid (s : State) (e : Event) : (s.postFront e).devid = s.devid := rfl
@[simp] theorem State.postFront_fvec (s : State) (e : Event) : (s.postFront e).fvec = s.fvec := rfl
@[simp] theorem State.postFront_vault (s : State) (e : Event) : (s.postFront e).vault = s.vault := rfl
@[simp] theorem State.postFront_links (s : State) (e : Event) : (s.postFront e).links = s.links := rfl
@[simp] theorem State.postFront_routes (s : State) (e : Event) : (s.postFront e).routes = s.routes := rfl
@[simp] theorem State.postFront_exports (s : State) (e : Event) : (s.postFront e).exports = s.exports := rfl
@[simp] theorem State.postFront_bindings (s : State) (e : Event) : (s.postFront e).bindings = s.bindings := rfl
@[simp] theorem State.postFront_subs (s : State) (e : Event) : (s.postFront e).subs = s.subs := rfl
@[simp] theorem State.postFront_subscribers (s : State) (e : Event) : (s.postFront e).subscribers = s.subscribers := rfl
@[simp] theorem State.postFront_sent (s : State) (e : Event) : (s.postFront e).sent = s.sent := rfl
@[simp] theorem State.postFront_remotes (s : State) (e : Event) : (s.postFront e).remotes = s.remotes := rfl
@[simp] theorem State.postFront_bridge (s : State) (e : Event) : (s.postFront e).bridge = s.bridge := rfl
@[simp] theorem State.postFront_bridgeWait (s : State) (e : Event) : (s.postFront e).bridgeWait = s.bridgeWait := rfl
@[simp] theorem State.postFront_hostFrames (s : State) (e : Event) : (s.postFront e).hostFrames = s.hostFrames := rfl
@[simp] theorem State.postFront_hostRefused (s : State) (e : Event) : (s.postFront e).hostRefused = s.hostRefused := rfl
@[simp] theorem State.postFront_snoops (s : State) (e : Event) : (s.postFront e).snoops = s.snoops := rfl
@[simp] theorem State.postFront_cxlUp (s : State) (e : Event) : (s.postFront e).cxlUp = s.cxlUp := rfl
@[simp] theorem State.postFront_measured (s : State) (e : Event) : (s.postFront e).measured = s.measured := rfl
@[simp] theorem State.postFront_firmwareUp (s : State) (e : Event) : (s.postFront e).firmwareUp = s.firmwareUp := rfl

/-! ## What is written -/

@[simp] theorem State.ctx_setCtx (s : State) (tid : Nat) (c : Ctx) : (s.setCtx tid c).ctx tid = c := by simp [State.ctx, State.setCtx]
theorem State.ctx_setCtx_other (s : State) (tid k : Nat) (c : Ctx) (h : k ≠ tid) : (s.setCtx tid c).ctx k = s.ctx k := by
  simp [State.ctx, State.setCtx, SMap.get_set_other _ _ _ _ _ h]
@[simp] theorem State.me_setMe (s : State) (c : Ctx) : (s.setMe c).me = c := by simp [State.me, State.setMe, State.ctx, State.setCtx]
@[simp] theorem State.setMe_ctx (s : State) (c : Ctx) : (s.setMe c).ctx s.cur = c := by simp [State.setMe]
theorem State.setMe_ctx_other (s : State) (k : Nat) (c : Ctx) (h : k ≠ s.cur) : (s.setMe c).ctx k = s.ctx k := by
  simp [State.setMe, State.ctx_setCtx_other _ _ _ _ h]
@[simp] theorem State.setMe_setMe (s : State) (c d : Ctx) : (s.setMe c).setMe d = s.setMe d := by simp [State.setMe, State.setCtx]
@[simp] theorem State.post_ctx (s : State) (e : Event) (k : Nat) : (s.post e).ctx k = s.ctx k := rfl
@[simp] theorem State.post_me (s : State) (e : Event) : (s.post e).me = s.me := rfl
@[simp] theorem State.post_pending (s : State) (e : Event) : (s.post e).pending = s.pending ++ [e] := rfl
@[simp] theorem State.core_setCore (s : State) (q : Nat) (c : Core) : (s.setCore q c).core q = c := by simp [State.core, State.setCore]
@[simp] theorem State.cell_setCell (s : State) (q : Nat) (c : Cell) : (s.setCell q c).cell q = c := by simp [State.cell, State.setCell]
@[simp] theorem State.slice_setSlice (s : State) (q : Nat) (c : Slice) : (s.setSlice q c).slice q = c := by simp [State.slice, State.setSlice]
@[simp] theorem State.die_setDie (s : State) (q : Nat) (c : Die) : (s.setDie q c).die q = c := by simp [State.die, State.setDie]

end Sys2Proof.Machine
end

