-- ==== Sys2Proof/Laws/Completion.lean ====
section
/-! SUPPORT. How the shared endings of an instruction (`done`, `finish`, `doneX`, `doneLong`, `parkMe`, `parkStage`) answer the words of
Safety: each says once what its ending does. -/

namespace Sys2Proof

open Sys2Proof.Machine

theorem differs_setCtx (u : State) (tid : Nat) (c : Ctx) : Differs u (u.setCtx tid c) tid c [] where
  thread := by simp
  others k h := by simp [State.ctx_setCtx_other _ _ _ _ h]
  sent := by simp
  rest := rfl

theorem differs_post {u t : State} {tid : Nat} {c : Ctx} {es : List Event} (h : Differs u t tid c es) (e : Event) :
    Differs u (t.post e) tid c (es ++ [e]) where
  thread := h.thread
  others := h.others
  sent := by simp [h.sent]
  rest := h.rest

theorem completesFrom_finish {i : Instr} {s u : State} {f : Ctx → Ctx} (h : exec i s = .next (u.finish f)) : CompletesFrom i s u f [] :=
  ⟨_, h, differs_setCtx _ _ _⟩

theorem completes_finish {i : Instr} {s : State} {f : Ctx → Ctx} (h : exec i s = .next (s.finish f)) : Completes i s f :=
  completesFrom_finish h

theorem completesFrom_done {i : Instr} {s u : State} (h : exec i s = .next u.done) : CompletesFrom i s u id [] :=
  ⟨_, h, differs_setCtx _ _ _⟩

theorem completesFrom_finish_post {i : Instr} {s u : State} {f : Ctx → Ctx} {e : Event}
    (h : exec i s = .next ((u.finish f).post e)) : CompletesFrom i s u f [e] :=
  ⟨_, h, differs_post (differs_setCtx _ _ _) e⟩

theorem completesLong_doneLong {i : Instr} {s u : State} {a : R5} {w : Word} (h : exec i s = .next (u.doneLong a w)) :
    CompletesLong i s u a w := by
  refine completesFrom_finish_post (h.trans ?_)
  rfl

theorem waitsFrom_parkMe {i : Instr} {s u : State} {p : Park} (h : exec i s = .next (u.parkMe p)) :
    WaitsFrom i s u p u.me.stage [] :=
  ⟨_, h, differs_setCtx _ _ _⟩

theorem waitsFrom_parkMe_post {i : Instr} {s u : State} {p : Park} {e : Event} (h : exec i s = .next ((u.parkMe p).post e)) :
    WaitsFrom i s u p u.me.stage [e] :=
  ⟨_, h, differs_post (differs_setCtx _ _ _) e⟩

theorem waitsFrom_parkStage_post {i : Instr} {s u : State} {n : Nat} {e : Event}
    (h : exec i s = .next ((u.parkStage n).post e)) : WaitsFrom i s u .reply n [e] :=
  ⟨_, h, differs_post (differs_setCtx _ _ _) e⟩

end Sys2Proof
end

