-- ==== Sys2Proof/Laws/Memory.lean ====
section
/-! SUPPORT. Laws of memory: a read after a write, what a write leaves, and that every write keeps the canonical form (R2, R91). -/

namespace Sys2Proof.Machine

/-! ## One byte -/

theorem memGet_memIns_self (m : List Host.Cell) (a : Nat) (b : Byte) : memGet (memIns m a b) a = b := by
  induction m with
  | nil => simp [memIns, memGet]
  | cons e r ih =>
    obtain ⟨k, c⟩ := e
    simp only [memIns]
    split
    · simp [memGet]
    · split
      · simp [memGet]
      · rename_i h
        simp [memGet, Ne.symm h, ih]

theorem memGet_memIns_other (m : List Host.Cell) (a j : Nat) (b : Byte) (h : j ≠ a) : memGet (memIns m a b) j = memGet m j := by
  induction m with
  | nil => simp [memIns, memGet, Ne.symm h]
  | cons e r ih =>
    obtain ⟨k, c⟩ := e
    simp only [memIns]
    split
    · simp [memGet, Ne.symm h]
    · split
      · rename_i _ e
        subst e
        simp [memGet, Ne.symm h]
      · by_cases g : k = j
        · simp [memGet, g]
        · simp [memGet, g, ih]

theorem memGet_filter (m : List Host.Cell) (p : Nat → Bool) (j : Nat) :
    memGet (m.filter fun e => p e.1) j = if p j then memGet m j else 0 := by
  induction m with
  | nil => simp [memGet]
  | cons e r ih =>
    obtain ⟨k, c⟩ := e
    simp only [List.filter_cons]
    by_cases g : k = j
    · subst g
      by_cases h : p k
      · simp [h, memGet]
      · simp [h, ih]
    · by_cases h : p k
      · simp [h, memGet, g, ih]
      · simp [h, memGet, g, ih]

/-- A byte written reads back. -/
@[simp] theorem memGet_memPut_self (m : List Host.Cell) (a : Nat) (b : Byte) : memGet (memPut m a b) a = b := by
  unfold memPut
  split
  · rename_i h
    have := memGet_filter m (fun k => decide (k ≠ a)) a
    simp_all
  · exact memGet_memIns_self m a b

/-- A byte written leaves every other byte. -/
theorem memGet_memPut_other (m : List Host.Cell) (a j : Nat) (b : Byte) (h : j ≠ a) : memGet (memPut m a b) j = memGet m j := by
  unfold memPut
  split
  · have := memGet_filter m (fun k => decide (k ≠ a)) j
    simp_all
  · exact memGet_memIns_other m a j b h

/-! ## Canonical form -/

/-- The canonical form, said of the list's neighbours and members. -/
theorem wf_iff (m : List Host.Cell) : Memory.wf m = true ↔ m.Pairwise (fun x y => x.1 < y.1) ∧ ∀ e ∈ m, e.2 ≠ 0 := by
  induction m with
  | nil => simp [Memory.wf]
  | cons e r ih =>
    obtain ⟨a, b⟩ := e
    cases r with
    | nil => simp [Memory.wf]
    | cons f t =>
      obtain ⟨k, c⟩ := f
      simp only [Memory.wf, Bool.and_eq_true, bne_iff_ne, ne_eq, decide_eq_true_eq, ih]
      constructor
      · rintro ⟨⟨hb, hl⟩, hp, hn⟩
        refine ⟨?_, ?_⟩
        · rw [List.pairwise_cons]
          refine ⟨fun x hx => ?_, hp⟩
          rcases List.mem_cons.1 hx with rfl | hx
          · exact hl
          · exact Nat.lt_trans hl ((List.pairwise_cons.1 hp).1 x hx)
        · intro x hx
          rcases List.mem_cons.1 hx with rfl | hx
          · exact hb
          · exact hn x hx
      · rintro ⟨hp, hn⟩
        rw [List.pairwise_cons] at hp
        exact ⟨⟨hn (a, b) (by simp), hp.1 (k, c) (by simp)⟩, hp.2, fun x hx => hn x (List.mem_cons_of_mem _ hx)⟩

theorem wf_filter (m : List Host.Cell) (p : Host.Cell → Bool) (h : Memory.wf m = true) : Memory.wf (m.filter p) = true := by
  rw [wf_iff] at *
  exact ⟨h.1.filter p, fun e he => h.2 e (List.mem_of_mem_filter he)⟩

theorem mem_memIns {m : List Host.Cell} {a : Nat} {b : Byte} {e : Host.Cell} (h : e ∈ memIns m a b) : e = (a, b) ∨ e ∈ m := by
  induction m with
  | nil => simpa [memIns] using h
  | cons f r ih =>
    obtain ⟨k, c⟩ := f
    simp only [memIns] at h
    split at h
    · simpa using h
    · split at h
      · rcases List.mem_cons.1 h with h | h
        · exact .inl h
        · exact .inr (List.mem_cons_of_mem _ h)
      · rcases List.mem_cons.1 h with h | h
        · exact .inr (h ▸ List.mem_cons_self)
        · exact (ih h).imp id (List.mem_cons_of_mem _)

theorem wf_memIns (m : List Host.Cell) (a : Nat) (b : Byte) (hb : b ≠ 0) (h : Memory.wf m = true) : Memory.wf (memIns m a b) = true := by
  rw [wf_iff] at *
  induction m with
  | nil => exact ⟨by simp [memIns], fun x hx => by simp [memIns] at hx; exact hx ▸ hb⟩
  | cons f r ih =>
    obtain ⟨k, c⟩ := f
    obtain ⟨hp, hn⟩ := h
    have hp' := List.pairwise_cons.1 hp
    simp only [memIns]
    split
    · rename_i hl
      refine ⟨List.pairwise_cons.2 ⟨fun x hx => ?_, hp⟩, ?_⟩
      · rcases List.mem_cons.1 hx with rfl | hx
        · exact hl
        · exact Nat.lt_trans hl (hp'.1 x hx)
      · intro x hx
        rcases List.mem_cons.1 hx with rfl | hx
        · exact hb
        · exact hn x hx
    · split
      · rename_i _ he
        subst he
        refine ⟨List.pairwise_cons.2 ⟨hp'.1, hp'.2⟩, ?_⟩
        intro x hx
        rcases List.mem_cons.1 hx with rfl | hx
        · exact hb
        · exact hn x (List.mem_cons_of_mem _ hx)
      · rename_i h1 h2
        obtain ⟨q1, q2⟩ := ih ⟨hp'.2, fun x hx => hn x (List.mem_cons_of_mem _ hx)⟩
        refine ⟨List.pairwise_cons.2 ⟨fun x hx => ?_, q1⟩, ?_⟩
        · rcases mem_memIns hx with rfl | hx
          · simp only
            omega
          · exact hp'.1 x hx
        · intro x hx
          rcases List.mem_cons.1 hx with rfl | hx
          · exact hn _ List.mem_cons_self
          · exact q2 x hx

/-- Writing a byte keeps the canonical form. -/
theorem wf_memPut (m : List Host.Cell) (a : Nat) (b : Byte) (h : Memory.wf m = true) : Memory.wf (memPut m a b) = true := by
  unfold memPut
  split
  · exact wf_filter m _ h
  · exact wf_memIns m a b ‹_› h

theorem wf_memPutList (bs : List Byte) (m : List Host.Cell) (a : Nat) (h : Memory.wf m = true) :
    Memory.wf (memPutList m a bs) = true := by
  induction bs generalizing m a with
  | nil => exact h
  | cons b r ih => exact ih _ _ (wf_memPut m a b h)

/-! ## The machine's writes -/

/-- Every write of bytes keeps the canonical form. -/
theorem State.wf_writeBytes (s : State) (a : Nat) (bs : List Byte) (h : Memory.wf s.mem = true) :
    Memory.wf (s.writeBytes a bs).mem = true := wf_memPutList bs s.mem a h

theorem State.wf_write (s : State) (a n v : Nat) (h : Memory.wf s.mem = true) : Memory.wf (s.write a n v).mem = true :=
  s.wf_writeBytes a _ h

theorem State.wf_writeMarked (s : State) (a n v : Nat) (bad : Bool) (h : Memory.wf s.mem = true) :
    Memory.wf (s.writeMarked a n v bad).mem = true := by
  unfold State.writeMarked
  split <;> exact s.wf_write a n v h

theorem State.wf_writeLine (s : State) (line v mask : Nat) (h : Memory.wf s.mem = true) :
    Memory.wf (s.writeLine line v mask).mem = true := s.wf_write _ _ _ h

@[simp] theorem State.poison_mem (s : State) (a n : Nat) : (s.poison a n).mem = s.mem := rfl
@[simp] theorem State.cleanse_mem (s : State) (a n : Nat) : (s.cleanse a n).mem = s.mem := rfl

/-- The memory of the machine right after reset has the canonical form. -/
theorem reset_wf : Memory.wf State.reset.mem = true := rfl

/-- A byte outside a run of bytes written keeps its value. -/
theorem memGet_memPutList_other (bs : List Byte) (m : List Host.Cell) (a j : Nat) (h : j < a ∨ a + bs.length ≤ j) :
    memGet (memPutList m a bs) j = memGet m j := by
  induction bs generalizing m a with
  | nil => rfl
  | cons b r ih =>
    simp only [List.length_cons] at h
    rw [memPutList, ih _ _ (by omega), memGet_memPut_other _ _ _ _ (by omega)]

/-- A byte inside a run of bytes written is that byte of the run. -/
theorem memGet_memPutList_self (bs : List Byte) (m : List Host.Cell) (a k : Nat) (h : k < bs.length) :
    memGet (memPutList m a bs) (a + k) = bs[k] := by
  induction bs generalizing m a k with
  | nil => simp at h
  | cons b r ih =>
    cases k with
    | zero => rw [memPutList, memGet_memPutList_other _ _ _ _ (by omega)]; simp
    | succ k =>
      have := ih (memPut m a b) (a + 1) k (by simpa using h)
      rw [memPutList]
      simpa [Nat.add_assoc, Nat.add_comm 1 k] using this

end Sys2Proof.Machine
end

