-- ==== Sys2Proof/Tests/Slice0.lean ====
section
/-! SUPPORT. The model's own tests: ill-formed instructions that the checks refuse, words of every instruction written out from the spec's
encodings, and for every statement with hypotheses a state and operands that meet them. -/

namespace Sys2Proof.Tests

set_option Elab.async false

open Sys2Proof Sys2Proof.Machine

/-! ## A small machine -/

/-- A leaf for the frame at 0x10000 of die 0, readable, writable, executable, for user mode, with `A` and `D` set (R385). -/
def leafWord : Word := BitVec.ofNat 64 (2 ^ 63 + 2 ^ 62 + 0x10000 + 0x3F00)

/-- The same leaf with a page mode (R161). -/
def leafOf (mode : Nat) : Word := BitVec.ofNat 64 (leafWord.toNat + mode * 2 ^ 59)

/-- A thread at slot 0 of core 0: x1 a word-memory address, x2 a pool address of its core, x3 a line further, x4 a number. -/
def thread : Ctx :=
  let c : Ctx := { Ctx.blank with imstate := .resident, held := BitVec.allOnes 32 }
  (((c.setX 1 0x10100).setX 2 0x8000000000000100).setX 3 0x10180).setX 4 5

/-- A core with that thread, a split pool of space 0, and a translation of the page at 0x10000 of space 0. -/
def core0 : Core :=
  { Core.initial with released := true, split := some (0x80, 0x10000), padAsid := some 0, slots := [(0, 0)],
                      tlb := [⟨0, 1, false, leafWord, 0x4000008⟩] }

/-- The tables of space 0, which map that page (R384, R385). -/
def tables : State :=
  (((((State.reset.write 0 8 0x1000000).write 8 1 1).write 0x1000000 8 (2 ^ 63 + 0x2000000)).write 0x2000000 8
    (2 ^ 63 + 0x3000000)).write 0x3000000 8 (2 ^ 63 + 0x4000000)).write 0x4000008 8 leafWord.toNat

/-- The machine with one thread. -/
def machine (c : Ctx) : State :=
  { tables with pending := [], threads := [(0, c)], cores := [(0, core0)], vault := [(0, ⟨0, true⟩)] }

/-- The evaluation ends well, and its value has the property: a hypothesis `e = .ok v`, and what is assumed of `v`. -/
def okAnd {ε α : Type} (e : Except ε α) (p : α → Bool) : Bool :=
  match e with
  | .ok v => p v
  | .error _ => false

/-- The evaluation ends in an error with the property. -/
def errAnd {ε α : Type} (e : Except ε α) (p : ε → Bool) : Bool :=
  match e with
  | .ok _ => false
  | .error v => p v

/-- The value is there and has the property: a hypothesis `o = some v`, and what is assumed of `v`. -/
def someAnd {α : Type} (o : Option α) (p : α → Bool) : Bool :=
  match o with
  | some v => p v
  | none => false

/-- The step or meaning goes on, to a state with the property. -/
def nextAnd (o : Out State) (p : State → Bool) : Bool :=
  match o with
  | .next t => p t
  | _ => false


/-! ## Witnesses: the hypotheses of the statements can be met -/

/-- ControlTransfers, at a branch taken and not taken and a loop at its last pass; ControlRegisters' rectangle. -/
theorem test_witness_scalar :
    let s := machine thread
    (s.me.pr 0 = true ∧ s.me.pr 1 = false) ∧ (s.me.xr 5 - 1 ≠ 0) ∧
    (((machine (thread.setX 5 1)).me.xr 5 - 1) = 0) ∧ s.me.core < 8192 ∧ (s.me.xr 2).toNat ≥ 2 ^ 63 ∧ (s.me.xr 1).toNat < 2 ^ 63 := by
  decide +kernel

theorem test_witness_rectangle : someAnd ((machine { thread with rcb := 0x10000 }).rcbWord? 0x10000 0 17) (fun _ => true) = true := by decide +kernel

/-- A machine whose page at 0x10000 has a leaf of another word. -/
def withLeaf (c : Ctx) (w : Word) : State :=
  (machine c).setCore 0 { core0 with tlb := [⟨0, 1, false, w, 0x4000008⟩] }

/-- A machine with a differentiable region of space 0 at 0x10100, its adjoints at 0x10200 (R352). -/
def withRegion (c : Ctx) : State :=
  (machine c).setCore 0 { core0 with regions := [(0, { base := 0x10100, cnt := 4, adj := 0x10200, fmt := 0 })] }

/-- The thread in reverse mode, and with a tape in its page. -/
def backward : Ctx := { thread with pred := thread.pred ||| 0x20000 }
def taping : Ctx := { thread with tapeb := 0x10400, tapep := 0x10400, tapel := 0x10800 }

/-- LoadsComplete: LD, LDV and LDG of word memory, LD at the last byte of the page, and LD of a scratchpad. -/
theorem test_witness_loads :
    [Instr.ld 0 5 ⟨1, 8⟩, .ld 1 5 ⟨1, 0xFEFF⟩, .ld 0 5 ⟨2, 0⟩, .ldv 0 5 ⟨1, -64⟩ 0, .ldg 0 5 1 6 0].all (fun i =>
      let s := machine thread
      someAnd (accessOf false s.me i) fun q => !s.me.rev && okAnd (s.placeLanes s.me false q.w q.lanes) fun _ => true) := by
  decide +kernel

/-- StoresComplete and StoreFrame: ST, STV and STS that reach no differentiable region and leave the leaf as it is. -/
theorem test_witness_stores :
    [Instr.st 0 5 ⟨1, 8⟩, .st 0 5 ⟨2, 0⟩, .stv 0 5 ⟨1, -64⟩ 0, .sts 0 5 1 6 0].all (fun i =>
      let s := machine thread
      someAnd (accessOf true s.me i) fun q => !s.me.rev && s.me.dataPoison (if q.vector then q.dst else .x q.reg 4 false) == none &&
        (goesOn (exec i s)) && okAnd (s.placeLanes s.me true q.w q.lanes) fun ps =>
          ps.all fun l => l.adj == none && l.place.leaf.all fun e => e.word.getLsbD 13 && e.word.getLsbD 12) := by
  decide +kernel

/-- What NearPool asks, of a pool address and the bounds of its scratchpad, as one evaluation. -/
def nearTest (s : State) (base : Word) (disp : Int) (n u : Nat) (p : PoolAddr) (r e : Nat) : Bool :=
  base.getLsbD 63 && base.extractLsb' 30 32 == 0 && poolAddr base s.me.core == some p &&
  decide ((u : Int) = poolBase p.pkgCore + p.off + disp) && decide (0 ≤ p.off + disp) && decide (p.off + disp < 2 ^ 17) &&
  sectorOf (cellOf (poolCore u)) == sectorOf (cellOf s.me.core) && u % n == 0 && (s.core (poolCore u)).split == some (r, e) &&
  decide (r ≤ u % 2 ^ 17) && decide (u % 2 ^ 17 + n ≤ e) && (s.core (poolCore u)).padAsid == some s.me.asid &&
  (s.cell (cellOf (poolCore u))).locks == [] && s.regionsFor s.me.core s.me.asid == []

theorem nearPool_of_test {s : State} {base : Word} {disp : Int} {n u : Nat} {p : PoolAddr} {r e : Nat}
    (h : nearTest s base disp n u p r e = true) : NearPool s base disp n u := by
  simp only [nearTest, Bool.and_eq_true, beq_iff_eq, decide_eq_true_eq] at h
  obtain ⟨⟨⟨⟨⟨⟨⟨⟨⟨⟨⟨⟨⟨h1, h2⟩, h3⟩, h4⟩, h5⟩, h6⟩, h7⟩, h8⟩, h9⟩, h10⟩, h11⟩, h12⟩, h13⟩, h14⟩ := h
  exact ⟨⟨h1, h2⟩, ⟨p, h3, h4, h5, h6⟩, h7, h8, ⟨r, e, h9, h10, h11⟩, h12, h13, h14⟩

/-- PoolStoresAreSent: ST, STV and STS of a scratchpad of the sector. -/
theorem test_witness_pool_stores :
    [Instr.st 0 5 ⟨2, 0⟩, .stv 0 5 ⟨2, 0⟩ 0, .sts 0 5 2 6 0].all (fun i =>
      let s := machine thread
      someAnd (accessOf true s.me i) fun q => !s.me.rev && s.me.dataPoison (if q.vector then q.dst else .x q.reg 4 false) == none &&
        !q.lanes.isEmpty && q.lanes.all fun l => poolAddr l.base s.me.core == some ⟨0, 0, 0, 0x100⟩ &&
          nearTest s l.base l.disp q.w (poolBase 0 + (0x100 + l.disp).toNat) ⟨0, 0, 0, 0x100⟩ 0x80 0x10000) := by
  decide +kernel

/-- PoolStoreWritesBytes and StoreFrame: a lane of a scratchpad of the sector, whose core is there. -/
theorem test_witness_pool_store :
    let s := machine thread
    let l : Lane := ⟨poolBase 0 + 0x100, 0, 8, 0, 0, 0, 0, 0, false⟩
    nearLane s.src l = true ∧ s.coreGone (poolCore l.pa) = false ∧
      goesOn (exec (.poolBankAccess ⟨s.src, [l], .none, true, false⟩ (.store [5] false)) s) = true := by decide +kernel

/-- PoolLoadReturnsBytes, PoolAtomicsReadModifyWrite: an address of a scratchpad of the sector, at its first byte. -/
theorem test_witness_pool : NearPool (machine thread) ((machine thread).me.xr 2) (-128) 8 (poolBase 0 + 0x80) where
  form := by decide +kernel
  core := ⟨⟨0, 0, 0, 0x100⟩, by decide +kernel⟩
  sector := by decide +kernel
  aligned := by decide +kernel
  pad := ⟨0x80, 0x10000, by decide +kernel⟩
  space := by decide +kernel
  free := by decide +kernel
  plain := by decide +kernel

/-- AddressSpaceTraps: a base for each clause, and displacements at the ends of the ranges. -/
theorem test_witness_spaces :
    let on (w : Word) := (machine (thread.setX 1 w)).me.xr 1
    ((on 0x4000000000000000).extractLsb' 62 2 = 1) ∧
    ((on 0x0020000000000000).extractLsb' 62 2 = 0 ∧ (on 0x0020000000000000).extractLsb' 53 9 ≠ 0) ∧
    ((on 0x001FFFFFFFFFFFFF).extractLsb' 53 9 = 0 ∧ (2 : Int) ^ 53 ≤ ((on 0x001FFFFFFFFFFFFF).toNat % 2 ^ 53 : Nat) + 1) ∧
    (((on 4).toNat % 2 ^ 53 : Nat) + (0 : Int)) % 8 ≠ 0 ∧
    ((on 0x8000000040000000).getLsbD 63 ∧ (on 0x8000000040000000).extractLsb' 30 32 ≠ 0) ∧
    ((on 0x800000000001FFFF).getLsbD 63 ∧ (2 : Int) ^ 17 ≤ ((on 0x800000000001FFFF).toNat % 2 ^ 17 : Nat) + 1) ∧
    (on 0x8000000000000004).extractLsb' 30 32 = 0 ∧
    (poolAddr (on 0x8000000000020000) 0).isSome ∧ ((machine thread).core 1).split = none := by
  decide +kernel

/-- TranslationTraps: a page that is not mapped; pages whose leaves deny reading or the user, or whose key slot holds no keys; modes that refuse. -/
theorem test_witness_translation :
    (resolve 0 ((machine thread).me.xr 1) 8 0 == .ok (.word 0x10108)) && 0x10108 % sizeOf104 0 == 0 &&
    errAnd ((machine thread).leafFor 0 0 0x20000 false fun _ => true) (· == 3) &&
    [leafWord - 0x100, leafWord - 0x800, leafWord + 0x10000000000000, leafOf 3, leafOf 5].all (fun w =>
      okAnd ((withLeaf thread w).leafFor 0 0 0x10108 false fun _ => true) fun _ => true) := by decide +kernel

/-- ReverseAccess: LD and ST of a differentiable word in reverse mode, with 0, 31 and 32 contributions outstanding. -/
theorem test_witness_reverse :
    [0, 31, 32].all (fun n => [false, true].all fun st =>
      let s := withRegion { backward with pendc := n }
      s.me.rev && okAnd (s.placeLanes s.me st 4 [⟨0, s.me.xr 1, 0, (s.me.xr 5).toNat % 2 ^ 32⟩]) fun ps =>
        ps.length == 1 && ps.all (·.adj.isSome) && s.me.dataPoison (.x 5 4 false) == none) := by decide +kernel

/-- ForwardStorePushes: a tape with room for one entry, and one that ends a byte before. -/
theorem test_witness_tape :
    let at_ (c : Ctx) (p : LaneOk → Bool) := let s := withRegion c
      !s.me.rev && (s.me.xPois.find? 5).isNone && bitsOf s.me.tapeb.toNat 63 62 == 0 &&
      okAnd (s.placeLanes s.me true 4 [⟨0, s.me.xr 1, 0, (s.me.xr 5).toNat % 2 ^ 32⟩]) fun ps =>
        ps.length == 1 && ps.all (·.adj.isSome) && ps.all p
    at_ { taping with tapel := 0x1040F } (fun _ => true) &&
    at_ { taping with tapel := 0x10410 } (fun l => okAnd ((withRegion { taping with tapel := 0x10410 }).placeTape
      { taping with tapel := 0x10410 } (BitVec.ofNat 64 l.place.lane.va) l.place.lane.idx 1) fun es => es.length == 1) := by decide +kernel

/-- PrefetchCompletes: an address where nothing is mapped. CacheMaintenance: a pool address, and a line of word memory, to clean and to zero. -/
theorem test_witness_prefetch_cmo :
    let s := machine (thread.setX 6 0x30000)
    errAnd (s.place s.me { n := 1, r := true, rdup := true, noPool := some 1 } 0 (s.me.xr 6) 0) (fun _ => true) &&
    [false, true].all (fun z => okAnd (s.placeCmo s.me z ⟨2, 0⟩) (· == none) && okAnd (s.placeCmo s.me z ⟨1, 0⟩) (·.isSome)) := by
  decide +kernel

/-- A lane of word memory in the frame at 0x10000. -/
def wordAt (a n : Nat) : Lane := ⟨a, a, n, 0, 0, 0, 0, 0, false⟩

/-- A request of the thread for one lane. -/
def request (l : Lane) (d : Dst) (parked : Bool) : MemReq := ⟨⟨0, 0, 0, 0⟩, [l], d, true, parked⟩

/-- Waits on the word at 0x10100: WAITW, BAR and BAR.N, with and without a deadline. -/
def waits (kind : Nat) (cond : WaitCond) (deadline : Option Nat) : Waiter :=
  ⟨⟨0, 0, 0, 0⟩, wordAt 0x10100 8, cond, deadline, false, 5, 1, kind⟩

/-- The machine with a barrier word of phase 7 at 0x10100: `BN` and `BARR`. -/
def barrier (bn barr : Nat) : State := (machine thread).write 0x10100 8 (7 * 2 ^ 32 + bn * 65536 + barr)

/-- The machine with a drain in progress. -/
def draining (d : Drain) (left : List Nat) : State := { machine thread with jobs := [(1, ⟨0x202, [0, 3], left, d⟩)] }

/-- HomeSliceNeeded; AtomicsLeaveForHome to a home and to a bank beyond the sector; ReleaseAndAcquire, WaitsLeaveForHome, WaitsAtHome (WAKE) and
PendCompletes: the address phase that each needs passes. -/
theorem test_witness_atomic_places :
    let s := machine (thread.setX 6 (0x8000000000000100 + 2 ^ 25 * 20))
    let amo : Need := { n := 8, r := true, w := true, onlyDevice := some 6, remote := true, store := true }
    okAnd (resolve 0 (s.me.xr 2) 0 0) (· == .pool ⟨0, 0, 0, 0x100⟩) && decide (s.me.pendc < 32) &&
    okAnd (s.placeAtomic s.me amo 0 (s.me.xr 1) 0) (fun p => laneRoute 0 p.lane == 3) &&
    okAnd (s.placeAtomic s.me amo 0 (s.me.xr 6) 0) (fun p => laneRoute 0 p.lane == 2) &&
    [homeNeed 8 false true, homeNeed 8 true false, homeNeed 8 true true, homeNeed 4 true false,
      { homeNeed 1 true false with align := false, locks := false }, { homeNeed 1 true false with align := false, locks := false, rdup := true }].all
      fun n => okAnd (s.placeAtomic s.me n 0 (s.me.xr 1) 0) fun _ => true := by decide +kernel

/-- AtomicsAtHome: a word that no page operation holds, and a CAS that writes and one that does not; ContributionsAtHome, integer and FP32, and PEND. -/
theorem test_witness_at_home :
    let q := request (wordAt 0x10100 8) (.x 5 8 false) true
    let s := barrier 2 1
    s.heldLane q == none && s.pageHolding 0x10100 == none && ((s.homeWrite 0x202).read 0x10100 8 == 7 * 2 ^ 32 + 2 * 65536 + 1) &&
    laneRoute 0 (wordAt 0x10104 4) == 3 := by decide +kernel

/-- ReductionsPost: RED and REDV with active lanes, with none, and with 31 and 32 outstanding. -/
theorem test_witness_reductions :
    let s := machine thread
    let all (f : F6) := activeLanes s.me 5 1 8 (fun i => !f.getLsbD 5 || (s.me.kr 0).getLsbD i) fun i => (i : Int) * 8
    all 32 == [] && all 0 != [] && okAnd (s.placeReds s.me 0 [⟨0, s.me.xr 1, 0, 0⟩]) (fun _ => true) &&
    okAnd (s.placeReds s.me 0 (all 0)) (fun _ => true) && decide ((machine { thread with pendc := 31 }).me.pendc < 32) &&
    decide (32 ≤ (machine { thread with pendc := 32 }).me.pendc) := by decide +kernel

/-- ReleaseAndAcquire, WaitsLeaveForHome: contexts with something outstanding; a release that its record takes, and one whose record is full. -/
theorem test_witness_release :
    let s := machine thread
    s.me.longs == 0 && s.me.ackc == 0 && s.me.pendc == 0 && (machine { thread with ackc := 1 }).me.ackc != 0 &&
    someAnd ((s.foldLine 0x202).record 0x10100 0) (fun _ => true) &&
    (let u := s.setSlice (homeSlice 0x202) { s.slice (homeSlice 0x202) with records := [(0x10100, [1, 2, 3, 4, 5, 6, 7, 8])] }
     (u.foldLine 0x202).record 0x10100 0 == none) := by
  decide +kernel

/-- DrainsComplete: a drain for each thing that can follow it, with one core left and with two. -/
theorem test_witness_drains :
    let q := request (wordAt 0x10100 8) (.x 5 8 false) true
    let w := waits 0 (.word 0 true 5) none
    ([.rel q 8 5, .arrive w, .wait w 5, .bar w 5, .acq q 8] : List Drain).all (fun d =>
      (draining d [3]).jobs.find? 1 == some ⟨0x202, [0, 3], [3], d⟩ && (draining d [0, 3]).jobs.find? 1 == some ⟨0x202, [0, 3], [0, 3], d⟩) &&
    decide ((wordAt 0x10100 8).n ≤ 8) := by decide +kernel

/-- BarrierArrival: `BN` 0, `BARR` equal to `BN`, the arrival that completes the phase, and one that does not. -/
theorem test_witness_barrier :
    let parts (s : State) : BitVec 16 × BitVec 16 :=
      let b : Word := BitVec.ofNat 64 (((s.foldLine 0x202).homeWrite 0x202).read 0x10100 8)
      (b.extractLsb' 16 16, b.extractLsb' 0 16)
    parts (barrier 0 0) == (0, 0) && parts (barrier 3 3) == (3, 3) && parts (barrier 3 2) == (3, 2) && parts (barrier 3 1) == (3, 1) &&
    (waits 2 (.phase 7) none).kind == 2 && !(forPhase (waits 2 (.phase 7) none) && (barrier 3 1).phaseDrains 0x10100) && (barrier 3 1).pageHolding 0x10100 == none := by decide +kernel

/-- WaitsAtHome: a condition that holds and one that does not, a deadline that has passed, and a table with room. -/
theorem test_witness_waits :
    let s := { barrier 2 1 with pcyc := 1000 }
    let u := s.homeRead 0x202
    waitHolds (.phase 6) (u.read 0x10100 8) && !waitHolds (.phase 7) (u.read 0x10100 8) && u.pcyc == s.pcyc &&
    decide ((10 * 33 + 9) / 10 < s.pcyc) && decide (¬(1000 * 33 + 9) / 10 < s.pcyc) &&
    decide ((u.slice (homeSlice 0x202)).waiting < Config.waiterEntries) && s.pageHolding 0x10100 == none := by decide +kernel

/-- WakeResults: a thread that waits and one that does not, for WAITW, BAR and BAR.N. -/
theorem test_witness_wakes :
    ((machine { thread with park := some .word }).ctx 0).park == some .word && ((machine thread).ctx 0).park != some .word &&
    [0, 1, 2].all (fun k => !(waits k (.phase 0) none).lane.bad && (waits k (.phase 0) none).kind == k) := by decide +kernel


/-- A pool-cache line with four dirty bytes, and the machine with one dirty and one clean line. -/
def dirtyLine : CacheLine := { data := 77, valid := 255, dirty := 15, pois := 0, writers := 1, key := 0, nc := false, used := 0 }
def caching (c : Ctx) : State :=
  (machine c).setCore 0 { core0 with cache := [(tagOf 0x202 0, dirtyLine), (tagOf 0x203 0, { dirtyLine with dirty := 0 })] }

/-- An operation on the page at 0x10000: PGMODE to a mode, and PGMIG to a frame; and its run, with cores or halves that have not answered. -/
def toMode (mode mask : Nat) : PageOp := ⟨⟨0, 0, 0, 0⟩, 5, 0x10100, 0, false, mode, mask, 0, false⟩
def toFrame (frame : Nat) : PageOp := ⟨⟨0, 0, 0, 0⟩, 5, 0x10100, 0, true, 0, 0, frame, true⟩
def runOf (op : PageOp) (leaf : Word) (left : List Nat) : PageRun :=
  ⟨op, 0x10000, 65536, if op.migrate then some op.frame else none, 0x4000008, leaf, left, [], [], 0, 0, false⟩
def paging (r : PageRun) : State := (caching thread).setDie 0 { Die.initial with pages := [(1, r)] }

/-- A thread with nothing on its way, in a machine at rest; and one whose load is on its way. -/
theorem test_witness_at_rest : AtRest (machine thread) := by unfold AtRest; decide +kernel
def loadingOne : State :=
  { machine { thread with longs := 1 } with pending := [.fillAtHome ⟨request (wordAt 0x10100 8) (.x 5 8 false) false, []⟩] }

/-- Fences, and the instruction synchronisation: nothing outstanding and something, each stage, each width of scope, and a cache with and
without dirty lines. -/
theorem test_witness_fences :
    let s := machine thread
    s.me.ackc == 0 && s.me.longs == 0 && s.me.stage == 0 && s.quiet 0 true && s.quiet 0 false &&
    (machine { thread with ackc := 1 }).me.ackc != 0 && loadingOne.loading 0 && !s.loading 0 && (s.core 0).cache == [] &&
    !(machine { thread with ackc := 1 }).quiet 0 true && (machine { thread with stage := 1 }).me.stage == 1 &&
    decide ((4 : BitVec 3).toNat ≤ 4) && !decide ((5 : BitVec 3).toNat ≤ 4) &&
    !(s.cleanAll none 0 fun _ => true).writingBack 0 && ((caching thread).cleanAll none 0 fun _ => true).writingBack 0 := by decide +kernel

/-- SelfInvalidationKeepsDirtyBytes: a dirty and a clean line. InstructionSync: a range that is none, a stage that is done, a fence that ends and one
that waits. -/
theorem test_witness_invalidation :
    let s := caching thread
    decide ((s.core 0).cache.map Prod.fst).Nodup && someAnd (s.cacheLine 0 (tagOf 0x202 0)) (·.dirty != 0) && someAnd (s.cacheLine 0 (tagOf 0x203 0)) (·.dirty == 0) &&
    (0x4000000000000000#64).extractLsb' 62 2 != 0 && (0x0020000000000000#64).extractLsb' 53 9 != 0 && (s.me.xr 1).extractLsb' 53 11 == 0 &&
    (s.me.xr 5).toNat == 0 && (s.me.xr 4).toNat != 0 &&
    okAnd ((machine thread).relPart 0 0) (fun _ => true) && errAnd ((machine { thread with ackc := 1 }).relPart 0 0) (fun _ => true) := by
  decide +kernel

/-- PageInstructions: a thread with something outstanding, words that are malformed and well formed. PageOperationStarts: no leaf, a status that is
settled, and one whose steps run, with a free slot and with none. -/
theorem test_witness_page_starts :
    let full := (machine thread).setDie 0 { Die.initial with pages := [0, 1, 2, 3].map fun k => (k, { runOf (toMode 1 0) leafWord [] with pte := 8, base := 0x7000000 }) }
    (0x10000#64).extractLsb' 16 48 != 0 && (5#64 <<< 9).extractLsb' 9 3 != 4 && (1#64 <<< 40).extractLsb' 40 24 != 0 &&
    ((machine thread).pageLeaf { toMode 1 0 with va := 0x900000 } == none) &&
    someAnd ((machine thread).pageLeaf (toMode 0 0)) (fun l => pageStatus (toMode 0 0) l == some 0) &&
    someAnd ((machine thread).pageLeaf (toMode 1 0)) (fun l => pageStatus (toMode 1 0) l == none && (machine thread).pageBusy l == none &&
      full.pageBusy l == none && ((machine thread).die 0).pages.find? 0 == none && bitsOf l.base 39 38 == 0) &&
    [0, 1, 2, 3].all (fun k => ((full.die 0).pages.find? k).isSome) &&
    (let s := paging (runOf (toMode 4 0) leafWord [])
     someAnd (s.pageLeaf (toMode 1 0)) fun l => s.pageBusy l == some 0) && !(machine { thread with ackc := 1 }).quiet 0 true := by decide +kernel

/-- PageTransitionTable: for every clause an operation and a leaf of device memory, and one of host memory. -/
theorem test_witness_page_table :
    let at_ (m : Nat) : Leaf := ⟨leafOf m, 0x4000008, false⟩
    let host : Leaf := ⟨leafWord + 0x800000000000, 0x4000008, false⟩
    targetOf (at_ 0).base == .hbm && targetOf host.base == .host && (at_ 2).mode == 2 && (at_ 0).mask == 0 && (toMode 2 1).mask.testBit 0 &&
    !(toMode 2 2).mask.testBit 0 && (at_ 3).mode == 3 && bitsOf (at_ 1).base 39 38 == 0 &&
    decide (0x50000 < (at_ 0).base + (at_ 0).size → ¬(at_ 0).base < 0x50000 + (at_ 0).size ∨ True) &&
    hbmExists (toFrame 0x50000).frame && !hbmExists (toFrame 0x2000000000).frame && (⟨leafWord, 0x4000008, true⟩ : Leaf).big := by decide +kernel

/-- PageOperationSteps: a slot that holds no operation, a sweep with one core left, a change out of HOSTOWN, an answer that is the last, an access in
and one beyond a full queue, and a core that is fenced. -/
theorem test_witness_page_steps :
    let host := runOf (toMode 4 0) (leafOf 3) [0x404]
    ((machine thread).die 0).pages.find? 1 == none && ((paging host).die 0).pages.find? 1 == some host &&
    bitsOf host.leaf.toNat 61 59 == 3 && host.waiting.contains 0x404 && !host.waiting.contains 0x405 &&
    ((paging (runOf (toMode 0 0) (leafOf 1) [0])).die 0).pages.find? 1 == some (runOf (toMode 0 0) (leafOf 1) [0]) &&
    (runOf (toFrame 0x50000) leafWord [0]).op.migrate &&
    (let full := { host with queue := List.replicate 256 (Held.teller 0 0 0 0) ++ [.teller 1 0 0 0] }
     ((paging full).die 0).pages.find? 1 == some full && (full.queue.drop 256).contains (.teller 1 0 0 0) && !(host.queue.drop 256).contains (.teller 1 0 0 0)) &&
    ((paging host).setCore 0 { (paging host).core 0 with fenced := true }).coreGone 0 := by decide +kernel

/-- PageQueries: an address beyond the space, one that nothing maps, and one that a leaf maps. -/
theorem test_witness_page_queries :
    decide (2 ^ 53 ≤ ((machine thread).me.xr 2).toNat) && errAnd ((machine thread).walk 0 0x900000) (fun _ => true) &&
    okAnd ((machine thread).walk 0 0x10100) (fun l => targetOf l.base == .hbm) &&
    okAnd (((machine thread).write 0x4000008 8 (leafWord.toNat + 0x800000000000)).walk 0 0x10100) (fun l => targetOf l.base != .hbm) := by
  decide +kernel


/-- The vector statements: every range of the form field that a clause assumes has its two ends, and a statistics slot of the issuer's space and one
of no space. -/
theorem test_witness_vectors :
    [((0 : F6), 3), (2, 3), (0, 4), (3, 4), (0, 8), (7, 8), (0, 16), (15, 16), (0, 24), (23, 24), (0, 32), (31, 32), (0, 60), (59, 60)].all
      (fun e => decide (e.1.toNat < e.2)) &&
    [(12, 16), (16, 20), (20, 24), (24, 28), (28, 32)].all (fun e => decide (e.1 ≤ (BitVec.ofNat 6 e.1).toNat) &&
      decide ((BitVec.ofNat 6 (e.2 - 1)).toNat < e.2)) &&
    decide ((2 : F6).toNat % 4 < 3 ∧ (10 : F6).toNat % 4 < 3 ∧ (10 : F6).toNat < 12 ∧ (14 : F6).toNat % 8 < 7 ∧ (8 : F6).toNat % 8 = 0) &&
    (List.range 32).all (fun n => (BitVec.ofNat 6 n).toNat == n) && [0, 1, 6, 7, 8, 9, 22, 23].all (fun n => (BitVec.ofNat 6 (n + 32)).toNat == n + 32) &&
    (let s := (machine thread).setStat 0 4 ⟨some 0, 3, [], 0, 0, 0⟩
     (s.statSlot 0 4).owner == some s.me.asid && (s.statSlot 0 5).owner != some s.me.asid) := by decide +kernel

/-- An FP32 array of 8 × 8 tiles in a grid of 4 × 4, a key of it, and the machine that has declared it, with storage for tiles. -/
def descB : List Byte := [7, 0, 0, 0, 0, 0, 3, 0, 3, 0, 0, 0, 0, 0, 2, 0] ++ List.replicate 16 0
def desc0 : Desc := descOf descB
def tileThread : Ctx := ((thread.setX 6 7).setX 7 1).setX 8 1
def keyOp0 : KeyOp := ⟨6, 7, 8, .imm 0⟩
def key0 : Key := ⟨0, 7, 1, 1, 0⟩
def home0 : Nat := descHome desc0 1 1
def tiling (c : Ctx) (mint : List MintEntry) : State :=
  let s := (machine c).setDie 0 { Die.initial with tsplit := 1 }
  let s := s.setSlice (directorySlice 0 7) { Slice.initial with arrays := [(0, desc0)] }
  s.setSlice home0 { s.slice home0 with mint := mint }
def entryIn (st : MintSt) : MintEntry := { MintEntry.new key0 st 0 0 with pins := 1, readers := 2 }
def req (use : KeyUse) : KeyReq := ⟨⟨0, 0, 0, 0⟩, key0, home0, desc0, use, 0, 0, 0, 0, none⟩
def ref0 : Ref := ⟨1, key0, home0, none, 8, 8, 0, 0, false⟩

/-- A thread whose handle 3 names a version, and one whose force of it has ended. -/
def holding (r : Ref) (force : Option Force) (stage : Nat) : Ctx :=
  { tileThread.setHandle 3 (.version r) with force := force, stage := stage }
def forced (r : Ref) : Force :=
  { handle := 3, root := .ref r, rects := [], leafs := [], read := [(r.id, List.replicate 64 1)], todo := [], vals := [], nf := false, sat := false,
    fault := none, done := true }

/-- Declarations: bytes that are no descriptor, one that is, an array declared alike and otherwise, a full directory; a live version and none. -/
theorem test_witness_declarations :
    let s := tiling tileThread []
    let slice := directorySlice 0 7
    let full := (machine thread).setSlice slice { Slice.initial with arrays := List.replicate 64 (0, { desc0 with aid := 8 }) }
    s.descValid 0 (List.replicate 32 255) == false && s.descValid 0 descB && s.declared 0 7 == some desc0 &&
    (s.declared 0 7 != some { desc0 with rdr := 3 }) && (machine thread).declared 0 7 == none && full.declared 0 7 == none &&
    decide (Config.directoryEntries ≤ (full.slice slice).arrays.length) && decide (((machine thread).slice slice).arrays.length < Config.directoryEntries) &&
    (let live (s : State) := s.slices.any fun e => e.2.mint.any fun m => m.key.asid == 0 && m.key.arr == 7 && m.st.live
     live s == false && live (tiling tileThread [entryIn .present])) && s.me.stage == 0 &&
    (tiling { tileThread with stage := 1, buf := descB } []).me.stage == 1 := by decide +kernel

/-- KeyPhaseTraps: an array that is not declared, and a tile outside the grid. VersionRequests: a key phase that passes, both stages, a thread that does
not reverse. VersionStores: handles of the array's shape, of another, of none, and a force that has ended. -/
theorem test_witness_keys :
    let s := tiling tileThread []
    s.me.keyReq == none && (s.lookupDesc 0 0 8).isNone && someAnd (s.lookupDesc 0 0 7) (fun e => e.1 == desc0 && decide (e.1.gi < 9)) &&
    (let k := (s.me.keyOf keyOp0).1
     k == key0 && okAnd (s.keyPhase s.me k) (fun e => e.2.me == s.me && e.2.cur == s.cur && e.2.ticks == s.ticks && e.1.remote == false &&
      s.me.reverseOn e.1 == false)) &&
    [0, 1, 2].all (fun n => (tiling { tileThread with stage := n } []).me.stage == n) &&
    (let c := holding ref0 (some (forced ref0)) 1
     c.target? 3 == some (.ref ref0, ⟨8, 8, 0, 0⟩) && c.target? 4 == none && c.stage == 1 &&
      (holding { ref0 with fmt := 1 } none 1).target? 3 == some (.ref { ref0 with fmt := 1 }, ⟨8, 8, 1, 0⟩) && (holding ref0 none 1).force == none &&
      someAnd c.force (fun f => f.done && f.fault == none)) && desc0.fmt == 0 && s.me.vPois == [] := by decide +kernel

/-- TileReads and RowReadsInOrder: shapes that a form accepts and does not, a run inside and outside the tile, the element widths. -/
theorem test_witness_tile_reads :
    let sh : Shape := ⟨8, 8, 0, 0⟩
    (takeRows sh 1 8 0).rect == none && someAnd (takeRows sh 1 0 0).rect (· == ⟨0, 1, 0, 7⟩) && decide ((7 : F6).toNat < 8) && (8 : F6).getLsbD 3 && (16 : F6).getLsbD 4 && sh.fmt != 5 &&
    (holding { ref0 with fmt := 5 } none 0).target? 3 == some (.ref { ref0 with fmt := 5 }, ⟨8, 8, 5, 0⟩) && tileThread.rev == false &&
    [0, 1, 3, 5, 13].map codeWidth == [32, 16, 8, 4, 64] &&
    (List.replicate (sh.rows * sh.cols) 0).length == sh.rows * sh.cols && decide (0 < 1 * (512 / 32)) := by decide +kernel

/-- MintReads and SingleAssignment: a key that is dead, free, pending, creating, present, an entry with a pin; room for a reference and for a tile, and
no room. QuotaAndAdjointBlocks: an adjoint tile and a block that can be made, and one that cannot. -/
theorem test_witness_mint :
    let s (l : List MintEntry) := tiling tileThread l
    let none_ := (tiling tileThread []).setDie 0 Die.initial
    let q := req (.tld 3)
    q.peer == none && q.desc.remote == false && (s [entryIn .dead]).keyDead key0 home0 && (s []).keyDead key0 home0 == false &&
    okAnd ((s []).reference q true) (fun _ => true) && errAnd ((s [{ entryIn .present with pins := 65535 }]).reference q true) (· == 3) &&
    ((s [entryIn .present]).entry key0 home0).map MintEntry.st == some .present && okAnd ((s []).needEntry q) (fun _ => true) &&
    [MintSt.pending, .creating, .present].all (fun st => someAnd ((s [entryIn st]).entry key0 home0) (fun e => e.st == st && e.pins != 0) &&
      (s [entryIn st]).keyDead key0 home0 == false) &&
    ((s [entryIn .pending]).findRun home0 (descBytes desc0)).isSome &&
    okAnd ((s []).needAdj key0 home0 desc0 0 0) (fun v => okAnd (v.needBlock (req .contribute)) fun _ => true) &&
    (let big : KeyReq := { req .contribute with desc := { desc0 with rows := 64, cols := 64 } }
     okAnd ((s []).needAdj key0 home0 big.desc 0 0) fun v => errAnd (v.needBlock big) (· == 2)) &&
    errAnd (none_.needAdj key0 home0 desc0 0 0) (· == 2) := by decide +kernel

/-- MintAnswers: a thread that waits for the answer and one that does not, one parked for a version with a force and without. -/
theorem test_witness_mint_answers :
    let waits (u : KeyUse) (f : Option Force) : Ctx := { tileThread with keyReq := some (req u), park := some .version, force := f, imstate := .resident }
    let s := machine (waits (.tld 3) (some (forced ref0)))
    (s.ctx 0).keyReq == some (req (.tld 3)) && (s.ctx 0).keyReq != some (req (.tqry 3)) && (s.ctx 0).park == some .version &&
    (s.ctx 0).force == some (forced ref0) && (s.ctx 0).imstate == .resident &&
    (let t := machine (waits (.twait 3 none) none)
     (t.ctx 0).keyReq == some (req (.twait 3 none)) && (t.ctx 0).force == none && !t.waits 0 key0 home0 && !t.asking (req (.twait 3 none)) &&
      !t.answered 0 (req (.twait 3 none)) && { t with pending := [.versionWakeArrival 0 0] }.answered 0 (req (.twait 3 none)) &&
      decide ((5 * 33 + 9) / 10 < { t with pcyc := 20 }.pcyc) && decide (t.pcyc ≤ (5 * 33 + 9) / 10)) &&
    ((machine thread).ctx 0).park != some .version && ((machine thread).ctx 0).keyReq == none && s.me.keyReq != none := by decide +kernel

/-- Declarations: the place of TDECL's descriptor, and an address where nothing is mapped. -/
theorem test_witness_descriptor_places :
    let s := machine (tileThread.setX 9 0x900000)
    let n : Need := { n := 32, r := true, rdup := true }
    okAnd (s.place s.me n 0 (s.me.xr 1) 0) (fun p => (match p.target with | .remote _ => false | _ => true)) &&
    errAnd (s.place s.me n 0 (s.me.xr 9) 0) fun e => (match e with | .trap _ => true | _ => false) := by decide +kernel

/-- MintReads: a wait for a key that is not there, its deadline over and not, with room for it, with no room, and with a full table of waiters.
SingleAssignment: a free key with room and with none, a creation with neither reader nor pin. MintAnswers: a request on its way, and none. -/
theorem test_witness_mint_waits :
    let q := req (.twait 3 (some 5))
    let s (l : List MintEntry) := tiling tileThread l
    let full : State := let t := s []
      t.setSlice home0 { t.slice home0 with waiters := List.replicate 2048 (waits 0 (.word 0 true 5) none) }
    (s []).keyDead key0 home0 == false && ((s []).entry key0 home0).map MintEntry.st != some .present && !(s []).overdue (some 5) && !(s []).overdue none &&
    ({ s [] with pcyc := 20 } : State).overdue (some 5) && okAnd ((s []).needEntry q) (fun u => !u.waits 0 key0 home0 && decide ((u.slice home0).waiting < Config.waiterEntries)) &&
    okAnd (full.needEntry q) (fun u => decide (Config.waiterEntries ≤ (u.slice home0).waiting)) &&
    errAnd ((s (List.replicate 4096 { entryIn .present with key := { key0 with ver := 2 } })).needEntry q) (· == 2) := by
  decide +kernel
theorem test_witness_first_creation :
    let s (l : List MintEntry) := tiling tileThread l
    (s []).keyDead key0 home0 == false && ((s []).entry key0 home0).isNone &&
    okAnd ((s []).allocEntry key0 home0 .pending 0 0) (fun u => (u.findRun home0 (descBytes desc0)).isSome) &&
    someAnd ((s [{ entryIn .creating with pins := 0, early := 0 }]).entry key0 home0) (fun e => e.pins == 0 && e.early == 0 && desc0.rdr != 3) &&
    (let e : MintEntry := { entryIn .creating with pins := 0, dropAll := true }
     ((s [e]).entry key0 home0).map (·.dropAll) == some true) &&
    (let w := machine { tileThread with keyReq := some (req (.twait 3 none)), park := some .version }
     !w.sending (req (.twait 3 none)) && ({ w with pending := [.mintReference (req (.twait 3 none))] } : State).sending (req (.twait 3 none))) := by decide +kernel

/-- ReverseAndRemoteTiles, on this device: a differentiable array in reverse, at each stage, with handles of its shape, of another and of none, a force that
has ended; a read of registers of a differentiable version; the adjoint tile at the home, and its answer. -/
theorem test_witness_reverse_tiles :
    let diff : Desc := { desc0 with diff := true }
    let s (c : Ctx) : State := (tiling c []).setSlice (directorySlice 0 7) { Slice.initial with arrays := [(0, diff)] }
    let rev (c : Ctx) : Ctx := { c with pred := c.pred ||| 0x20000 }
    let passes (c : Ctx) : Bool := okAnd ((s c).keyPhase c (c.keyOf keyOp0).1) fun e => e.1 == diff && e.2.me == c && e.2.cur == (s c).cur && e.2.ticks == (s c).ticks
    let other : Ref := { ref0 with rows := 4 }
    let y : KeyReq := { req (.snap diff) with desc := { diff with rdr := 0 } }
    let z : KeyReq := { y with use := .adjRead key0 home0 }
    (rev tileThread).rev && decide (diff.fmt < 5) && passes (rev tileThread) && passes (rev { tileThread with stage := 2 }) && tileThread.stage == 0 &&
    (rev (holding ref0 none 0)).target? 3 == some (.ref ref0, ⟨diff.rows, diff.cols, diff.fmt, diff.blk⟩) && (rev tileThread).target? 3 == none &&
    (rev (holding other none 0)).target? 3 == some (.ref other, ⟨4, 8, 0, 0⟩) && passes (rev (holding ref0 (some (forced ref0)) 1)) &&
    someAnd (rev (holding ref0 (some (forced ref0)) 1)).force (fun f => f.done && f.fault == none) && decide ((rev tileThread).anon < 2 ^ 24) &&
    ({ tileThread with stage := 1, keyReq := some y } : Ctx).keyReq == some y && ({ tileThread with stage := 2, keyReq := some z } : Ctx).keyReq == some z &&
    ({ tileThread with stage := 3, keyReq := some y } : Ctx).keyReq == some y && z.peer == none && z.desc.remote == false &&
    okAnd ((s tileThread).needAdj z.key z.home z.desc z.rcb z.rcbAsid) (fun _ => true) &&
    ((machine { tileThread with keyReq := some (req (.adjTake 16)), park := some .reply }).ctx 0).keyReq == some (req (.adjTake 16)) &&
    (let r : Ref := { ref0 with diff := true }
     (rev (holding r none 0)).target? 3 == some (.ref r, ⟨8, 8, 0, 0⟩) && r.dev == none && !(7 : F6).getLsbD 4 && tileThread.vPois == []) := by decide +kernel

/-- Nodes over the version of handle 3: an elementwise node in entry 0 and a product in entry 1, named by handles 4 and 5; a matrix of 4-bit codes
under handle 6. -/
def slot0 : Slot := ⟨.ref ref0, 8, 8, 0, 0, []⟩
def nodeOf (op f : Nat) (fmt : Nat) : Node :=
  { op := op, f := f, rows := 8, cols := 8, fmt := fmt, blk := 0, srcs := [{ slot0 with fmt := fmt }, { slot0 with fmt := fmt }], opnd := 0, rm := 0,
    drawKey := 0, drawLtn := 0, drawCtr := 0, pc := 0, region := none, order := 1, pool := none }
def lazyThread : Ctx :=
  let c := ((tileThread.setHandle 3 (.version ref0)).setHandle 4 (.node 0)).setHandle 5 (.node 1)
  { c.setHandle 6 (.version { ref0 with id := 2, fmt := 5 }) with thunks := [(0, nodeOf 2 0 0), (1, nodeOf 4 0 1)] }
def fullTable : Ctx :=
  { lazyThread with thunks := (List.range 32).map fun k => (k, nodeOf 2 0 0), handles := Vector.ofFn fun k => .node k.val }

/-- NodesAreMade: handles that are EMPTY and not, of one shape and of two, of float and integer formats; forms 1 and 6 and others; products of 16-bit
codes; shape words that are well formed and not. -/
theorem test_witness_nodes :
    let c := lazyThread
    let float (sl : Option Slot) := someAnd sl fun v => isFloatCode v.shape.fmt
    c.slotFor 1 none == none && float (c.slotFor 3 none) && float (c.slotFor 4 none) && (c.slotFor 3 none).map Slot.shape == (c.slotFor 4 none).map Slot.shape &&
    someAnd (c.slotFor 6 none) (fun v => isFloatCode v.shape.fmt == false && v.shape != slot0.shape && !c.alongColumns 33 v == false) &&
    someAnd (c.slotFor 5 none) (fun v => productFmt v.shape.fmt v.shape.fmt == some 0 && v.shape.cols == v.shape.rows && shapeOk ⟨8, 8, 0, 0⟩ &&
      someAnd (c.slotFor 3 none) (fun w => w.shape == ⟨8, 8, 0, 0⟩)) &&
    (0 : F6).toNat != 1 && (0 : F6).toNat != 6 && (1 : F6).toNat == 1 && (6 : F6).toNat == 6 && tcvtTarget 1 != 5 &&
    shapeWord 0 == some (⟨8, 8, 0, 0⟩, 0) && shapeWord 15 == none := by decide +kernel

/-- AppendBindsTheHandle: a table with room and a full one at the expert level. Views: a step that is accepted, one that is not, a shape that is
accepted and one that is not; coordinates inside. -/
theorem test_witness_append_views :
    let c := lazyThread
    (c.withNode 7 (nodeOf 2 0 0)).freeEntry == some 2 && (fullTable.withNode 7 { nodeOf 2 0 0 with srcs := [{ slot0 with base := .entry 7 }] }).freeEntry == none &&
    ({ fullTable with khthk := 1 }).khthk != 0 && someAnd (c.slotFor 3 none) (fun v => tidxStep 3 v.shape 9 0 == none &&
      someAnd (tidxStep 2 v.shape (3 * 2 ^ 32 + 3 * 2 ^ 34) 0) (fun t => someAnd (c.slotFor 3 t) fun w => shapeOk w.shape)) &&
    someAnd (c.slotFor 5 none) (fun v => someAnd (tidxStep 2 v.shape (3 * 2 ^ 32 + 3 * 2 ^ 34) 0) fun t => (c.slotFor 5 t).isSome) &&
    !shapeOk ⟨64, 64, 13, 0⟩ && (let big : Ref := { ref0 with rows := 32, fmt := 13 }
      someAnd ((c.setHandle 3 (.version big)).slotFor 3 none) fun v => someAnd (tidxStep 2 v.shape (15 * 2 ^ 32) 0) fun t =>
        someAnd ((c.setHandle 3 (.version big)).slotFor 3 t) fun w => !shapeOk w.shape) && decide (0 < 8 ∧ 7 < 8) := by decide +kernel

/-- Forcing: a handle that is EMPTY, one of a version, one of a node; a region that is empty and one that is not; no force, one that ended well and one that
ended in a fault. -/
theorem test_witness_forcing :
    let c := lazyThread
    let r (b : Nat) := clipRect (b % 65536) (b / 65536) 0 7 8 8
    c.handle 1 == .empty && c.target? 3 == some (.ref ref0, ⟨8, 8, 0, 0⟩) && c.handle 3 == .version ref0 && c.handle 4 == .node 0 &&
    (c.thunks.find? 0).isSome && r 9 == none && r 0x70000 == some ⟨0, 7, 0, 7⟩ && c.force == none &&
    (let f : Force := { forced ref0 with fault := some (4, 5, 6) }
     (holding ref0 (some f) 1).force == some f && f.done && f.fault == some (4, 5, 6)) &&
    (holding ref0 (some (forced ref0)) 1).force == some (forced ref0) && (forced ref0).done && (forced ref0).fault == none := by decide +kernel

/-- ForceSteps: no force; one with a source not yet read; one with nothing left; one whose next node is elementwise, and one whose next node is a
product, with room in the matrix queue, with none, and with its command there; a force that failed. RegionIndependence: a coordinate in two rectangles. -/
theorem test_witness_force_steps :
    let f : Force := { forced ref0 with done := false, root := .entry 0 }
    let at_ (f : Force) : State := machine { lazyThread with force := some f }
    let leaf : Ref × Rect × Word := (ref0, ⟨0, 7, 0, 7⟩, 4)
    let unread (f : Force) : Option (Ref × Rect × Word) := f.leafs.find? fun l => (f.read.find? l.1.id).isNone
    ((machine lazyThread).ctx 0).force == none && ((at_ f).ctx 0).force == some f && f.done == false && f.fault == none &&
    unread { f with leafs := [leaf], read := [] } == some leaf && unread { f with leafs := [leaf] } == none && f.todo == [] &&
    (lazyThread.thunks.find? 0).map Node.op != some 4 && (lazyThread.thunks.find? 1).map Node.op == some 4 &&
    decide (((at_ f).core 0).matrix.queue.length < 8) && decide (8 ≤ (List.replicate 8 (MatCmd.mfmtQ ⟨0, 0, 0, 0⟩ 4)).length) &&
    !(List.replicate 8 (MatCmd.mfmtQ ⟨0, 0, 0, 0⟩ 4)).contains (.force ((at_ f).srcOf 0) 1) && !((at_ f).core 0).matrix.queue.contains (.force ((at_ f).srcOf 0) 1) &&
    [MatCmd.force ((at_ f).srcOf 0) 1].contains (.force ((at_ f).srcOf 0) 1) && ({ f with fault := some (4, 5, 6) } : Force).fault.isSome &&
    ({ f with todo := [0] } : Force).todo == [0] && (⟨0, 7, 0, 7⟩ : Rect).has 3 3 && (⟨2, 3, 3, 4⟩ : Rect).has 3 3 := by decide +kernel

/-- PoolTiles: a range that is placed, for a load and a store; a free lock; a key for the version; both stages; a handle of the shape, forced. -/
theorem test_witness_pool_tiles :
    let sh : Shape := ⟨8, 8, 0, 0⟩
    let c := { lazyThread with stage := 2, force := some (forced ref0) }
    let s := machine c
    shapeWord (c.xr 0).toNat == some (sh, 0) && shapeWord 15 == none && shapeOk sh && c.rev == false &&
    okAnd (s.placeRange false (c.xr 2) 0 sh 0 fun _ => 0) (fun p => (s.freeLock (poolCore p.1 / 8)).isSome) &&
    okAnd (s.placeRange true (c.xr 2) 0 sh 0 fun _ => 0) (fun _ => true) && (s.anonReq sh .pool).isSome && lazyThread.stallSince == none &&
    ((lazyThread.withNode 7 (s.newNode 7 0 sh [] 0)).freeEntry).isSome && c.target? 1 == none && c.target? 3 == some (.ref ref0, { sh with blk := 0 }) &&
    c.snapping == false && c.ackc == 0 && ({ c with ackc := 1 } : Ctx).ackc != 0 && c.stage == 2 && ({ c with stage := 1, keyReq := some (req .pool) } : Ctx).keyReq == some (req .pool) := by
  decide +kernel

/-- PoolSourceCopies: an entry with no lock, a source with storage and one without; a store that a source holds back and one that none does. -/
theorem test_witness_pool_sources :
    let src : PoolSrc := ⟨0, 3, { ref0 with id := 9 }, poolBase 0 + 0x100, 0⟩
    let lock : Lock := ⟨2, false, 0, poolBase 0 + 0x100, poolBase 0 + 0x1FF, 9⟩
    let node : Node := { nodeOf 7 0 0 with srcs := [], pool := some src }
    let s (split : Nat) := ((tiling { lazyThread with thunks := [(0, node)] } []).setDie 0 { Die.initial with tsplit := split }).setCell 0
      { Cell.initial with locks := [(3, lock)] }
    let bytes := tileBytes 0 8 8 0
    ((s 1).cell 0).locks.find? 2 == none && ((s 1).cell 0).locks.find? 3 == some lock && decide (2 ≤ lock.kind) &&
    (s 1).sourceOf 9 == some (src, ⟨8, 8, 0, 0⟩) && okAnd ((s 1).reserve key0 home0 bytes 0 0) (fun _ => true) &&
    errAnd ((s 0).reserve key0 home0 bytes 0 0) (· == .stall 2) && (s 1).bankSource ⟨0, 0, 0, 0⟩ (bankLate .load) [] == none &&
    (let l : Lane := ⟨poolBase 0 + 0x104, 0, 4, 0, 0, 0, 0, 0, false⟩
     (s 1).bankSource ⟨0, 0, 0, 0⟩ (bankLate (.store [5] true)) [l] == some (0, 3)) := by decide +kernel

/-- OptimiserStep: a thread with nothing outstanding, an empty cache, a header that fits and one that does not, a block with its places, a step
above the header's and one that is not. -/
theorem test_witness_optimiser :
    let c := holding ref0 (some (forced ref0)) 1
    let s := machine c
    c.target? 3 == some (.ref ref0, ⟨8, 8, 0, 0⟩) && (s.regionsFor 0 0 == []) && s.quiet 0 true && !s.writingBack 0 && (s.core 0).cache == [] &&
    okAnd (s.place c (adamNeed 32 false) 0 (c.xr 3) 0) (fun _ => true) &&
    okAnd (s.place c (adamNeed 128 true) 0 (c.xr 1) 0) (fun hp =>
      let u := s.homeRead (hp.lane.pa / 128)
      let h := u.read hp.lane.pa 64
      u.me == c && u.cur == s.cur && (u.core 0).cache == [] && u.regionsFor 0 0 == [] && headerOk h ⟨8, 8, 0, 0⟩ && !headerOk h ⟨16, 8, 0, 0⟩ &&
      okAnd (u.placeBlock (c.xr 1) (blockLayout (bitsOf h 119 112) 64).2.2) (fun ps => ps.all fun l => (u.pageHolding l.lane.pa).isNone) &&
      decide ((c.xr 0).toNat ≤ h % 2 ^ 64) && decide (h % 2 ^ 64 < (c.xr 4).toNat)) && c.stage != 0 && tileThread.stage == 0 := by decide +kernel

/-- AppendBindsTheHandle: a name given up, and one that stays; at the basic level with no room, each stage of making the oldest node a version. -/
theorem test_witness_append_releases :
    let c := lazyThread
    let w := { (machine c).append 6 (nodeOf 2 0 0) 0 with due := [] }
    c.refs.any (fun r => r.id == 2) && !(w.ctx 0).refs.any (fun r => r.id == 2) && (w.ctx 0).refs.any (fun r => r.id == 1) &&
    c.refs.all (fun r => r.dev == none && c.refs.all fun z => z.id != r.id || z == r) &&
    (let full := fullTable.withNode 7 { nodeOf 2 0 0 with srcs := [{ slot0 with base := .entry 7 }] }
     full.freeEntry == none && fullTable.khthk == 0 && fullTable.stage == 0 && fullTable.force == none &&
      someAnd (full.youngest.filter fun e => e.1 ≠ 32).getLast? (fun e =>
        ((machine { fullTable with force := some (forced ref0), stage := 40 }).anonReq e.2.shape (.anon [])).isSome)) &&
    ({ fullTable with stage := 41, keyReq := some (req (.anon [])) } : Ctx).keyReq == some (req (.anon [])) := by decide +kernel

/-- PoolTiles: bases that are no pool address, that are misformed, and a range that runs past its scratchpad; a TLDP that is past its lock; a cell whose
locks are all taken; a shape word of another shape. -/
theorem test_witness_pool_ranges :
    let sh : Shape := ⟨8, 8, 0, 0⟩
    let c := ((lazyThread.setX 9 0x800000000000FFF0).setX 10 0x4000000000000000).setX 11 16
    let s := machine c
    let lanes (b : R5) (st : Bool) := (rangeLanes (c.xr b) 0 sh 0 fun _ => 0).map (s.placeLane c st (rangeWidth sh))
    c.poolReq == none && okAnd (resolve c.core (c.xr 1) 0 0) (fun w => match w with | .word _ => true | .pool _ => false) &&
    errAnd (resolve c.core (c.xr 10) 0 0) (fun t => match t with | .trap _ => true | _ => false) &&
    okAnd (resolve c.core (c.xr 9) 0 0) (fun w => match w with
      | .pool p => s.bankRefuses p.pkgCore p.off (rangeSpan sh 0) c.asid == some 4
      | .word _ => false) && [false, true].all (fun st => (stopsOf (lanes 9 st)).all fun z => decide (5 ≤ z.step)) &&
    (let full := s.setCell 0 { Cell.initial with locks := (List.range 64).map fun k => (k, ⟨0, false, 0, 0, 0, 0⟩) }
     full.freeLock 0 == none && !(List.isEmpty full.cells)) && someAnd (shapeWord (c.xr 11).toNat) (fun g => g.1 != sh) &&
    (let t := (machine { c with stage := 1, keyReq := some (req .pool), hold := 3 }).setCell 0 { Cell.initial with locks := [(3, ⟨2, false, 0, 0, 0, 9⟩)] }
     t.me.poolReq == some (req .pool) && (req .pool).use == .pool && ((t.cell (t.me.hold.extractLsb' 8 24).toNat).locks.find? (t.me.hold.extractLsb' 0 8).toNat).isSome) := by
  decide +kernel

/-- ReversePoolTiles: a range over differentiable elements, in reverse; handles of its shape, of another and of none; a force that has ended;
contributions outstanding and none; a snapshot's request at each stage. -/
theorem test_witness_reverse_pool :
    let region : Region := { base := 0x8000000000000100, cnt := 64, adj := 0x10200, fmt := 0 }
    let at_ (c : Ctx) : State := (machine c).setCore 0 { core0 with regions := [(0, region)] }
    let rev (c : Ctx) : Ctx := { c with pred := c.pred ||| 0x20000 }
    let sh : Shape := ⟨8, 8, 0, 0⟩
    let c := rev (lazyThread.setX 11 16)
    let s := at_ c
    shapeWord (c.xr 0).toNat == some (sh, 0) && c.rev && c.poolReq == none && c.keyReq == none && c.stage == 0 && c.pendc == 0 && decide (c.anon < 2 ^ 24) &&
    [false, true].all (fun st => okAnd (s.placeRange st (c.xr 2) 0 sh 0 fun _ => 0) fun p => diffLanes p.2 != [] &&
      ((s.settleLanes c false p.2).yieldLines c.core (linesOf (adjLanes (diffLanes p.2)))).me == c) &&
    c.target? 3 == some (.ref ref0, sh) && c.target? 1 == none && (c.setHandle 3 (.version { ref0 with rows := 4 })).target? 3 == some (.ref { ref0 with rows := 4 }, ⟨4, 8, 0, 0⟩) &&
    someAnd (rev { lazyThread with stage := 1, force := some (forced ref0) }).force (fun f => f.done && f.fault == none) && ({ c with pendc := 1 } : Ctx).pendc != 0 &&
    [1, 2, 3].all (fun n => ({ c with stage := n, keyReq := some (req (.snap desc0)) } : Ctx).keyReq == some (req (.snap desc0))) := by decide +kernel

/-- OptimiserStep: before and after its address phase; the lanes that it keeps, with every page free; a step number that nothing is writing; a block that is
above the thread's step and below; each stage. -/
theorem test_witness_optimiser_stages :
    let lane (a : Nat) : Lane := ⟨a, a, 128, 0, 0, 0, 0, 0, false⟩
    let kept : List Lane := (List.range 13).map (fun k => lane (0x10100 + 128 * k)) ++ [{ lane 0x10080 with n := 32 }]
    let at_ (c : Ctx) : Ctx := { c with passed := kept }
    let s := machine (at_ (holding ref0 (some (forced ref0)) 1))
    tileThread.passed == [] && s.me.passed.head? == some (lane 0x10100) && s.me.passed.getLast? == some { lane 0x10080 with n := 32 } &&
    s.me.passed.find? (fun l => (s.pageHolding l.pa).isSome) == none && s.stepOnWay 0x10100 == false && s.me.passed.dropLast.head? == some (lane 0x10100) &&
    s.me.stage == 1 && (at_ (holding ref0 none 0)).stage == 0 && (at_ (holding ref0 (some (forced ref0)) 2)).stage == 2 &&
    decide (((blockLayout 0 64).2.2 + 127) / 128 < kept.length) && decide ((s.me.xr 0).toNat ≤ s.blockRead kept.dropLast 0 8) &&
    decide (s.blockRead kept.dropLast 0 8 < (s.me.xr 4).toNat) && okAnd (s.place s.me (adamNeed 128 true) 0 (s.me.xr 1) 0) (fun hp =>
      okAnd (s.placeBlock (s.me.xr 1) (blockBytes (s.view hp.lane.pa 64) ⟨8, 8, 0, 0⟩)) fun ps => okAnd (s.place s.me (adamNeed 32 false) 0 (s.me.xr 3) 0) fun rp =>
        ((s.settleAll 0 0 true ps).settle 0 0 false rp).me == s.me) &&
    errAnd (s.place s.me (adamNeed 128 true) 0 (s.me.xr 2) 0) (fun t => match t with | .trap _ => true | _ => false) := by decide +kernel

/-- The matrix unit of core 0: rings 0 and 1, of a size for 64 × 64 FP8 codes, ring 2 too small, and a queue. -/
def ring0 : Ring := ⟨2, 4096, 0x1000, 0, 1, 1⟩
def matrixOf (queue : List MatCmd) : Matrix :=
  { Matrix.initial with queue := queue, rings := [(0, ring0), (1, { ring0 with base := 0x4000 }), (2, ⟨1, 256, 0x8000, 0, 0, 0⟩)], credit := 1 }
def matrixing (m : Matrix) : State := (machine thread).setCore 0 { core0 with matrix := m }
def mmaCmd : MatCmd := .mma ⟨0, 0, 0, 0⟩ 0 1 false true true 1

/-- Rings: the scratchpad's space and another's; the zero word; words that are malformed, outside the scratchpad, over another ring, and clear; a ring
that is idle, one that holds a slot, one that a command names; a push that fits and one that does not, with
a store of the thread to the pool on its way and with none. -/
theorem test_witness_rings :
    let m := matrixOf []
    let s := matrixing m
    let w : Word := 0x100#64 ||| (1#64 <<< 32)
    (s.core s.me.core).padAsid == some s.me.asid && ((matrixing m).setCore 0 { core0 with padAsid := some 1 }).cores != [] &&
    (((matrixing m).setCore 0 { core0 with padAsid := some 1 }).core 0).padAsid != some s.me.asid &&
    w.extractLsb' 46 18 == 0 && !w.getLsbD 39 && w.extractLsb' 17 15 == 0 && w.extractLsb' 0 8 == 0 && w.extractLsb' 32 7 != 0 && (w ||| 1).extractLsb' 0 8 != 0 &&
    (s.core 0).split == some (0x80, 0x10000) && decide (0x80 ≤ 0x100 ∧ 0x100 + 256 ≤ 0x10000 ∧ ¬0x10000 + 256 ≤ 0x10000) &&
    m.rings.all (fun e => decide (e.2.base + e.2.cnt * e.2.size ≤ 0x100 ∨ 0x100 + 256 ≤ e.2.base)) && decide (0x1000 < ring0.base + 256) &&
    m.busy 2 == false && (matrixOf [mmaCmd]).busy 0 && m.rings.find? 2 == some ⟨1, 256, 0x8000, 0, 0, 0⟩ && ring0.occ != 0 && m.rings.find? 3 == none &&
    decide (ring0.cnt < ring0.occ + 2) && decide (¬ring0.cnt < ring0.occ + 1) && !s.storesTo 0 (poolBase 0) 0x20000 &&
    (let l : Lane := ⟨poolBase 0 + 0x104, 0, 4, 0, 0, 0, 0, 0, false⟩
     ({ s with pending := [.poolBankAccess ⟨s.src, [l], .none, true, false⟩ (.store [5] false)] }).storesTo 0 (poolBase 0) 0x20000) := by decide +kernel

/-- MatrixCommands: a queue with room and a full one; a format context that is valid and one that is not; rings that are undefined, too small, large
enough; a program address that is aligned and one that is not; places of a drain in the pool and in word memory; a key of a 64 × 64 array. -/
theorem test_witness_matrix_commands :
    let s := matrixing (matrixOf [])
    let big : Desc := { desc0 with rows := 64, cols := 64, gi := 3, gj := 3 }
    let t := (matrixing (matrixOf [])).setSlice (directorySlice 0 7) { Slice.initial with arrays := [(0, big)] }
    let t := t.setMe tileThread
    (s.core 0).padAsid == some s.me.asid && decide ((s.core 0).matrix.queue.length < 8) && decide (¬(List.replicate 8 mmaCmd).length < 8) &&
    fctxOk 0x33 && !fctxOk 0 && okAnd (resolve 0 (s.me.xr 2) 0 0) (fun p => match p with
      | .pool p => p.pkgCore == 0 && s.inPad 0 p.off 1 && p.off % 4 == 0
      | .word _ => false) && okAnd (resolve 0 (s.me.xr 2 + 1) 0 0) (fun p => match p with
      | .pool p => p.pkgCore == 0 && s.inPad 0 p.off 1 && p.off % 4 != 0
      | .word _ => false) &&
    (s.core 0).matrix.rings.find? 3 == none && decide (operandBytes 3 0 false ≤ ring0.size) && decide (256 < operandBytes 3 0 false) &&
    decide (4096 * codeWidth 3 / 8 ≤ ring0.size) && (s.regionsFor 0 0 == []) &&
    okAnd (t.keyPhase t.me key0) (fun e => e.1.rows == 64 && e.1.cols == 64 && e.1.fmt == 0 && e.1.remote == false && e.2.me == t.me &&
      e.2.core 0 == t.core 0) && t.me.stage == 0 := by decide +kernel

/-- Places of every element are places of all. -/
theorem placeAll_ok (f : Nat → Except Stop Place) (l : List Nat) (h : ∀ i ∈ l, ∃ p, f i = .ok p) : ∃ ps, placeAll f l = .ok ps := by
  have h0 : stopsOf (l.map f) = [] := by
    simp only [stopsOf, List.filterMap_eq_nil_iff, List.mem_map]
    rintro x ⟨i, hi, rfl⟩
    obtain ⟨p, hp⟩ := h i hi
    rw [hp]
  simp [placeAll, allPass, h0, firstStop]

/-- The place of an element of a drain of FP8 codes to the pool. -/
def drainPlace (base : Word) (e : Nat) : Except Stop Place :=
  match (matrixing (matrixOf [])).place (matrixing (matrixOf [])).me
      { n := 1, w := true, store := true, noPool := none } 0 base (((e / 64 * 64 + e % 64 * 1 : Nat) : Int)) with
  | .error x => .error x
  | .ok q => match q.region with
    | some (slot, _) => .error (.trap (shapeTrap slot 0 q.lane.va))
    | none => .ok q
theorem drainPlace_ok : ∀ i, i < 64 → ∀ j, j < 64 → okAnd (drainPlace 0x8000000000000100 (64 * i + j)) (fun _ => true) := by decide +kernel

theorem okAnd_exists {ε α : Type} {p : α → Bool} : ∀ {e : Except ε α}, okAnd e p = true → ∃ v, e = .ok v
  | .ok v, _ => ⟨v, rfl⟩

/-- MatrixCommands: the places of a drain to the pool. -/
theorem test_witness_drain_places : ∃ ps, (matrixing (matrixOf [])).placeDrain 3 true 0x8000000000000100 0 = .ok ps := by
  have e : (matrixing (matrixOf [])).placeDrain 3 true 0x8000000000000100 0 = placeAll (drainPlace 0x8000000000000100) (List.range 4096) := by
    unfold State.placeDrain
    simp only [show (matrixing (matrixOf [])).me.core = 0 from rfl]
    unfold State.placeDrain.go drainPlace
    rfl
  rw [e]
  refine placeAll_ok _ _ fun n hn => ?_
  have h := drainPlace_ok (n / 64) (by have := List.mem_range.1 hn; omega) (n % 64) (by omega)
  rw [Nat.div_add_mod] at h
  exact okAnd_exists h

/-- MatrixUnit: a grant for one core and for none; each command at the head; a drain at its first row, a later one, its rows written, and complete, with a
write on its way and with none; a ring with room and a tile; cores without credit; a k-step of a force. -/
theorem test_witness_matrix_unit :
    let s := matrixing (matrixOf [mmaCmd])
    let can (s : State) (q : Nat) : Bool := (s.core q).matrix.candidate
    let drain (d : DrainTo) : MatCmd := .drain ⟨0, 0, 0, 0⟩ 4 3 d 0 0 0
    let at_ (n : Nat) (d : DrainTo) : Matrix := { matrixOf [drain d] with row := n }
    (List.range 8).all (fun q => !(s.core q).matrix.granted) && (List.range 8).all (fun q => !can (machine thread) q) &&
    [1, 2, 3, 4, 5, 6, 7, 0].find? (fun q => can s q && (s.core q).matrix.credit != 0) == some 0 &&
    (matrixing { matrixOf [mmaCmd] with granted := true }).cores.any (fun e => e.2.matrix.granted) &&
    (s.core 0).matrix.rings.find? 0 == some ring0 && (s.core 0).matrix.rings.find? 1 == some { ring0 with base := 0x4000 } &&
    (List.replicate 64 0).length == 64 && [MatCmd.mfmt ⟨0, 0, 0, 0⟩ 4 0x11, .mepiRst ⟨0, 0, 0, 0⟩ 4, .mepi ⟨0, 0, 0, 0⟩ 4 0x100 1].all (fun c =>
      (matrixOf [c]).queue == [c]) &&
    (at_ 0 (.ring 0)).mayDrain (.ring 0) && (at_ 63 (.ring 0)).row == 63 && (at_ 64 (.rows [])).row == 64 && (at_ 65 (.rows [])).row == 65 &&
    (matrixing (at_ 65 (.rows []))).writesInFlight ⟨0, 0, 0, 0⟩ == false &&
    ({ matrixing (at_ 65 (.rows [])) with pending := [.writeThroughAtHome ⟨⟨0, 0, 0, 0⟩, [], .none, true, false⟩ []] }).writesInFlight ⟨0, 0, 0, 0⟩ &&
    (let poor := matrixing { matrixOf [mmaCmd] with credit := 0 }
     (List.range 8).all (fun q => !can poor q || (poor.core q).matrix.credit == 0) &&
      can ((List.range 8).foldl State.reload poor) 0 && (((List.range 8).foldl State.reload poor).core 0).matrix.credit != 0) &&
    can (matrixing { matrixOf [.force ⟨0, 0, 0, 0⟩ 1] with credit := 1 }) 0 && (req .tst).desc.remote == false := by decide +kernel

/-- A request of 256 bytes from word memory to the pool, in x8 to x11 of a thread, and its operation. -/
def copyThread : Ctx := ((((thread.setX 8 0).setX 9 0x10100).setX 10 0x8000000000000100).setX 11 (256#64 <<< 40))
def telOp (key : Option KeyReq) (left : List Nat) (finish : Option Nat) : TelOp :=
  ⟨4, ⟨0, 0, 0, 0⟩, .user, 0, 0, [0, 0x10100, 0x8000000000000100, 256#64 <<< 40], 1, 256, 0, 0, 0, key, [], true, false, left, 0, [], [], [], 0, 0, finish, 0,
    false⟩
def telling (flight waiting : List TelOp) : State :=
  (machine copyThread).setCell 0 { Cell.initial with flight := flight, fifos := if waiting = [] then [] else [(0, waiting)] }

/-- TellerRequests: a request that is well formed and one that is not, new and one that has waited; room, a full FIFO and a full lock table; a thread with
no store on its way, at rest and with a clean cache; TELQ at zero and not. UserEvents: no event and one, with a load on its way and with none. -/
theorem test_witness_teller_requests :
    let s := telling [] []
    let full := telling [] (List.replicate 8 (telOp none [] none))
    let locked := (machine copyThread).setCell 0 { Cell.initial with locks := (List.range 64).map fun k => (k, ⟨0, false, 0, 0, 0, 0⟩) }
    let w (k : Nat) : Word := s.me.xr (BitVec.ofNat 5 (8 + k))
    let h : TelShape := ⟨1, 256, 0, 0, 0⟩
    let waited : Ctx := { copyThread with telReq := some (telOp none [] none, []) }
    requestFault (w 0).toNat (w 1).toNat (w 2).toNat (w 3).toNat == none && (requestFault 15 0 0 0).isSome && (w 3).extractLsb' 0 17 == 0 &&
    !(w 0).toNat.testBit 6 && (w 0).toNat % 16 != 1 && (w 0).toNat % 16 != 2 && !(0 : F6).getLsbD 0 && s.me.telReq == none &&
    ((telling [] []).setMe waited).me.telReq == some (telOp none [] none, []) && (telOp none [] none).key == none && (s.core 0).cache == [] &&
    okAnd (s.telLocks 0 (w 1) (w 2) h 0) (fun ls => (s.enterLocks ls).isSome && (locked.enterLocks ls).isNone) &&
    s.telBusy 0 0 0 == none && full.telBusy 0 0 0 == some 1 && locked.telBusy 0 0 0 == none && s.me.telout == 0 && ({ copyThread with telout := 1 } : Ctx).telout != 0 &&
    (machine { thread with events := [] }).me.events == [] && (machine { thread with events := [(3, 0x4000)] }).me.events == [(3, 0x4000)] && loadingOne.loading 0 &&
    !(machine thread).loading 0 := by
  decide +kernel
theorem test_witness_no_store : ∀ a n, (telling [] []).storesTo (telling [] []).cur a n = false := fun _ _ => rfl
theorem test_witness_teller_at_rest : AtRest (telling [] []) := by unfold AtRest; decide +kernel

/-- TellerOperations: a full in-flight set; an operation to start; one that is not there; one with units left that can move or fault, and one with
none; one that has finished, with a write on its way and with none; codes that can be delivered; a REDADD whose segment reads well and has its places. -/
theorem test_witness_teller_operations :
    let o := telOp none [0, 1] none
    let s := telling [o] []
    decide ((List.replicate 64 o).length ≥ Config.tellerInFlight) && (let t := telling [] [{ o with started := false }]
      (t.cell 0).nextFifo 0 == some 0 && (t.cell 0).fifos.get 0 [] == [{ o with started := false }] && decide ((t.cell 0).flight.length < Config.tellerInFlight)) &&
    o.key == none && (s.cell 0).op 5 == none && (s.cell 0).op 4 == some o && o.stopped == 0 && o.finish == none && o.left != [] && (0 : Nat) % 16 != 3 &&
    okAnd (s.telUnit 0 o 0) (fun _ => true) && errAnd (({ s with cores := [] } : State).telUnit 0 { o with q := [0, 0x10100, 0x900000, 256#64 <<< 40] } 0) (fun _ => true) &&
    (telOp none [] none).left == [] && s.writesInFlight o.src == false &&
    ({ s with pending := [.writeThroughAtHome ⟨⟨0, 0, 0, 0⟩, [], .none, true, false⟩ []] }).writesInFlight o.src &&
    (let r : TelOp := { telOp none [0] none with q := [0x3003, 0x10100, 0x10200, 256#64 <<< 40] }
     let t := telling [r] []
     (t.cell 0).op 4 == some r && !r.applied.contains 0 && okAnd (t.telRun 0 r 0 256) (fun e => e.1.all (fun b => !b.2) &&
      okAnd (e.2.telTargets r 4 ((List.range 64).map (4 * ·))) fun p => p.1.length == 64)) && (telOp none [] (some 0)).finish == some 0 && (0x07 : Nat) % 256 != 0x0E := by
  decide +kernel

/-- Rings: the slot that a drain in progress writes counts as filled; with no drain at the head, or none of its rows out, none does. -/
theorem test_witness_claimed_slot :
    let drain : MatCmd := .drain ⟨0, 0, 0, 0⟩ 4 3 (.ring 1) 0 0 0
    let m : Matrix := { matrixOf [drain] with row := 3 }
    m.claimed 1 == 1 && m.claimed 0 == 0 && (matrixOf [drain]).claimed 1 == 0 && (matrixOf []).claimed 1 == 0 && (matrixing m).cur == 0 &&
    someAnd (m.rings.find? 1) (fun g => decide (g.cnt < g.occ + m.claimed 1 + 1) && decide (¬g.cnt < g.occ + 0 + 1)) := by decide +kernel

/-- A thread with a request in x8 to x11 whose words are given, of a machine that knows the array 7 and holds a record of its key in the thread's scratchpad at
0x100. -/
def asking (q0 q1 q2 q3 : Word) : State :=
  (tiling ((((tileThread.setX 8 q0).setX 9 q1).setX 10 q2).setX 11 q3) []).writeBytes (poolBase 0 + 0x100)
    ([7, 0, 1, 0, 1, 0, 0, 0, 0, 0, 0, 0, 2, 0, 0, 0] ++ List.replicate 48 0)

/-- TellerKeyedRequests: requests that need a parameter block and lack one; blocks outside the scratchpad, misaligned, malformed and well formed; key
records outside, misaligned and in place, of an array that is not declared; bytes that fit the tile and that do not. -/
theorem test_witness_teller_blocks :
    let c := (asking 0 0x10100 0x8000000000000100 (256#64 <<< 40)).me
    let s := asking 0 0x10100 0x8000000000000100 (256#64 <<< 40)
    let formed (q0 q1 q2 q3 : Nat) : Bool := requestFault q0 q1 q2 q3 == none
    let block : List Byte := List.replicate 8 0 ++ [2, 0, 0, 0, 64, 0, 0, 0] ++ List.replicate 32 0
    c.telReq == none && formed 0x40 0x10100 0x10200 0 && formed 0x40 0x10100 0x10200 0x200 && (0x40 : Nat).testBit 6 && !s.inPad 0 0x1FFF0 48 &&
    s.inPad 0 0x108 48 && 0x108 % 16 != 0 && s.inPad 0 0x200 48 && !blockOk 0x40 (s.readBytes (poolBase 0 + 0x200) 48) &&
    (let t := s.writeBytes (poolBase 0 + 0x200) block
     blockOk 0x40 (t.readBytes (poolBase 0 + 0x200) 48) && okAnd (t.telLocks 0 (0x10100 : Word) 0x10180 ⟨2, 64, 0, 0, 0⟩ 0) (fun _ => true)) := by decide +kernel
theorem test_witness_teller_keys :
    let pad (a : Word) (k : Nat → Nat → Bool) : Bool := okAnd (resolve 0 a 0 0) fun w => match w with
      | .pool p => k p.pkgCore p.off
      | .word _ => false
    let s := asking 1 0x10100 0x8000000000000100 (256#64 <<< 40)
    let r := s.readBytes (poolBase 0 + 0x100) 16
    let k : Key := ⟨0, field r 0 2, field r 2 2 % 2 ^ 12, field r 4 2 % 2 ^ 12, field r 8 4 % 2 ^ 24⟩
    requestFault 1 0x10100 0x8000000000000100 (256 * 2 ^ 40) == none && requestFault 2 0x8000000000000100 0x10100 (256 * 2 ^ 40) == none &&
    pad 0x8000000000000100 (fun core off => core == 0 && s.inPad 0 off 16 && off % 16 == 0) && pad 0x8000000000000108 (fun core off => core == 0 && s.inPad 0 off 16 && off % 16 != 0) &&
    pad 0x8000000000000000 (fun core off => core == 0 && !s.inPad 0 off 16) && k == key0 && okAnd (s.keyPhase s.me k) (fun e => e.1 == desc0 && e.2.me == s.me && e.2.cur == s.cur &&
      okAnd (e.2.telLocks 1 0x10100 0x8000000000000100 ⟨1, 256, 0, 0, 0⟩ 0) (fun _ => true) &&
      okAnd (e.2.telLocks 2 0x8000000000000100 0x10100 ⟨1, 256, 0, 0, 0⟩ 0) (fun _ => true)) && 1 * 256 == descBytes desc0 && decide (¬1 * 264 ≤ descBytes desc0) &&
    errAnd ((machine s.me).keyPhase s.me key0) (fun _ => true) := by decide +kernel

/-- TellerOperations, with a key: operations that start; one that is not ready; a version that is there, dead and to come; a unit that a higher plane's
message is before, and none; a word of a unit read ahead; one that has moved everything. A stall that still holds, and one that does not. -/
theorem test_witness_teller_versions :
    let keyed (use : KeyUse) : KeyReq := req use
    let op (n : Nat) (left : List Nat) : TelOp := { telOp (some (keyed (if n = 1 then .tover 0 0 else .fromv 0 0 false))) left none with
      q := [BitVec.ofNat 64 n, 0x10100, 0x10180, 256#64 <<< 40], ready := true }
    let at_ (o : TelOp) (m : List MintEntry) : State := let s := tiling copyThread m
      s.setCell 0 { Cell.initial with flight := [o] }
    let waiting (o : TelOp) : State := let s := tiling copyThread []
      s.setCell 0 { Cell.initial with fifos := [(0, [o])] }
    [1, 2].all (fun n => let o := { op n [] with started := false }
      ((waiting o).cell 0).nextFifo 0 == some 0 && ((waiting o).cell 0).fifos.get 0 [] == [o] && o.key.any (!·.desc.remote)) &&
    (at_ { op 1 [0] with ready := false } []).writesInFlight ⟨0, 0, 0, 0⟩ == false && (op 2 [0]).tile == [] &&
    [MintSt.present, .dead, .pending, .creating].all (fun st => someAnd ((at_ (op 2 [0]) [entryIn st]).entry key0 home0) (·.st == st)) &&
    ((at_ (op 2 [0]) [entryIn .pending]).addWaiter (keyed (.fromv 0 0 false)) (.teller 0 4)).isSome &&
    (let o := telOp none [0, 1] none
     let s := telling [o] []
     !s.telLate o 0 && ({ s with accepted := [(homeSlice 0x202, 7)] } : State).telLate o 0 && o.reads && !(op 2 [0]).reads &&
      okAnd (s.telRun 0 o 3 1) (fun e => someAnd ((e.2.cell 0).op 4) fun x => x.part.length != o.part.length) &&
      errAnd (({ s with cores := [] } : State).telRun 0 { o with q := [0, 0x900000, 0x10180, 256#64 <<< 40] } 3 1) (fun _ => true) &&
      !s.telStalls 0 o && ({ s with remotes := [(1, .key (keyed .tst))] } : State).telStalls 0 { o with key := some (keyed .tst), ready := false }) &&
    (at_ { op 2 [] with tile := [1] } []).writesInFlight ⟨0, 0, 0, 0⟩ == false := by decide +kernel

/-- A region control block at 0x10200 in a state, with a parent, that passes the checks of a root; a kernel header below 0x10480, and a record of a
task that starts there. -/
def header60 : List Byte :=
  bytesOf 4 0x484B4C4E ++ [1, 0, 8, 0, 16, 32, 128, 1] ++ bytesOf 4 0 ++ bytesOf 4 0x80000000 ++ [0, 0, 0, 0] ++ bytesOf 4 0 ++ bytesOf 4 256 ++
    bytesOf 4 64 ++ List.replicate 24 0
def headerBytes : List Byte := header60 ++ bytesOf 4 (crc32c header60)
def rcbWordsOf (parent state asid : Nat) : List (Nat × Nat) :=
  [(0, parent), (1, 0x7FFF), (2, 0x10480), (3, asid * 2 ^ 32), (4, 100 * 2 ^ 32 + 4 * 2 ^ 16 + 8), (5, 2 ^ 32 + 256), (10, 4), (13, 0x100000), (14, 8),
    (17, 31 * 2 ^ 10 + 31 * 2 ^ 15), (21, state)]
def putRcb (at_ parent state asid : Nat) (s : State) : State :=
  (rcbWordsOf parent state asid).foldl (fun s e => s.write (at_ + 8 * e.1) 8 e.2) s
def taskMachine (c : Ctx) (state asid : Nat) : State :=
  (putRcb 0x10200 0 state asid (machine c)).writeBytes 0x10440 headerBytes
def rcbThread : Ctx := (((thread.setX 1 0x10200).setX 5 0x10300)).setX 6 (100#64 <<< 32 ||| 4 <<< 16 ||| 8)
def record0 : List Byte := bytesOf 8 0x10480 ++ bytesOf 8 0x10200 ++ bytesOf 4 0xFFFFFFFF ++ bytesOf 4 0 ++ List.replicate 40 0

/-- RegionControlBlocks: an index past the words; an RCB of the thread's chain and none; places of a word, of its live count, of an RCB; each
state; values that fit, that do not, that fit the parent and do not; records that may become an RCB and may not. -/
theorem test_witness_rcbs :
    let c := { rcbThread with rcb := 0x10200 }
    let s := taskMachine c 1 0
    let place (i : Nat) := s.place c { n := 8, r := true, noPool := some 6, onlyDevice := some 6 } 0 (c.xr 1) (8 * i : Nat)
    let words (state asid : Nat) : List Nat := (taskMachine c state asid).rcbWords 0x10200
    decide (31 < (c.op2U (.imm 32)).toNat) && decide ((c.op2U (.imm 31)).toNat ≤ 31) && (s.chain 0x10200 0).contains (c.xr 1).toNat &&
    !(s.chain 0x10200 0).contains (c.xr 5).toNat && okAnd (place 31) (fun _ => true) && okAnd (place 18) (fun _ => true) &&
    okAnd (s.placeAtomic c (homeNeed 8 true false) 0 (c.xr 1) (8 * 18 : Nat)) (fun _ => true) &&
    okAnd (s.rcbPlace (c.xr 1) true) (fun q => s.pageHolding q.lane.pa == none && [0, 1, 2, 3].all (fun st =>
      (taskMachine c st 0).view (q.lane.pa + 8 * 21) 8 % 8 == st) && s.view (q.lane.pa + 8 * 18) 8 == 0) &&
    (s.core 0).cache == [] && !s.writingBack 0 && budgetOk 4 (c.xr 6).toNat && !budgetOk 4 0 && withinParent 4 (c.xr 6).toNat (c.xr 6).toNat &&
    !withinParent 4 (2 ^ 63) (c.xr 6).toNat && rcbOk (words 0 1) true && !rcbOk (List.replicate 32 0) true && bitsOf ((words 0 1).getD 3 0) 40 32 == 1 &&
    ((machine c).write 0x18 1 1).asidValid 1 && !s.asidValid 1 && c.xr 0 == 0 && c.xr 5 != 0 && okAnd (s.rcbPlace (c.xr 5) false) (fun _ => true) := by
  decide +kernel

/-- PostingTasks: every stage; records, RCBs and headers that are refused and accepted; a thread that can be created and one that cannot; both answers. -/
theorem test_witness_posting :
    let s := taskMachine rcbThread 1 0
    let rcb (state : Nat) : List Byte := (List.range 256).map fun k => (taskMachine rcbThread state 0).byte (0x10200 + k)
    let at_ (rcbBytes header : List Byte) : Ctx := { rcbThread with stage := 3, buf := record0 ++ rcbBytes ++ header }
    let c := at_ (rcb 1) headerBytes
    let t := { s with threads := [(0, c)] }
    let r := recordOf64 c.taskParts.1
    r.flags / 4 == 0 && r.entry.toNat % 64 == 0 && r.rcb % 256 == 0 && (recordOf64 (List.replicate 64 1)).flags / 4 != 0 &&
    (recordOf64 (List.replicate 8 0 ++ [1] ++ List.replicate 55 0)).rcb % 256 != 0 && !rcbBad r 0 c.taskParts.2.1 && rcbBad r 0 (rcb 0) &&
    !headerBad .user c.taskParts.2.1 c.taskParts.2.2 && headerBad .user (rcb 1) (List.replicate 64 0) && okAnd (t.relPart 1 3) (fun _ => true) &&
    someAnd (t.createThread c.taskRec (headerOf c.taskParts.2.2)) (fun _ => true) &&
    ((t.write (0x10200 + 8 * 14) 8 1).createThread c.taskRec (headerOf c.taskParts.2.2)).isNone && ({ c with stage := 5, hold := 0 } : Ctx).hold == 0 &&
    ({ c with stage := 5, hold := 1 } : Ctx).hold != 0 := by decide +kernel

/-- LeavingASlot: an EXIT with its release done, with Teller operations left and without; long results back and not; times past and to come; cores here
and elsewhere; addresses that this core and another own. -/
theorem test_witness_leaving :
    let s := machine thread
    let c := s.me
    okAnd (s.relPart 1 0) (fun u => u.me.telout == 0 && u.me.longs == 0) && okAnd ((machine { thread with telout := 1 }).relPart 1 0) (fun u => u.me.telout != 0) &&
    (machine { thread with longs := 1 }).me.longs != 0 && c.longs == 0 && c.ackc == 0 && c.pendc == 0 && (s.core 0).cache == [] &&
    decide (s.ticks + (c.op2U (.imm 0)).toNat ≤ s.ticks) && decide (¬s.ticks + (c.op2U (.imm 9)).toNat ≤ s.ticks) &&
    (c.xr 0).toNat % 8192 == c.core && (c.xr 4).toNat % 8192 != c.core && okAnd (s.place c migNeed 0 (c.xr 1) 0) (fun q =>
      let u := s.settle 0 0 false q
      u.me == c && (u.core 0).cache == [] && ownerCore c q != c.core) && okAnd (s.place c migNeed 0 0x10000 (0 : Int)) (fun _ => true) &&
    okAnd (s.placeLanes c false 4 [⟨0, c.xr 1, 0, 0⟩]) (fun ls => match ls with
      | [l] => l.place.target == .hbm && l.adj == none && ownerCore c l.place != c.core && ownerCore { c with core := ownerCore c l.place } l.place == ownerCore c l.place
      | _ => false) && (2 : F6).toNat == (32 : F6).toNat / 16 := by decide +kernel

/-- SlotEvents: a sleeper, a resident that is parked and over its limit, a thread that stalls for a ring and one that stalls for a quota; one that is being suspended; a core that is gone, one that takes a packet, one
that cannot, with and without room in its buffer; a line that a core does not hold, with an error mark and without. -/
theorem test_witness_slot_events :
    let parked (p : Park) : State := machine { thread with park := some p, parkSince := some 0, stallSince := some 0 }
    let late : State := { parked .reply with pcyc := 9 }
    let full : State := (machine thread).setCore 0 { core0 with slots := (List.range 16).map fun k => (k, k) }
    let gone : State := (machine thread).setCore 0 { core0 with fenced := true }
    ((parked (.sleep 5)).ctx 0).park == some (.sleep 5) && (late.ctx 0).imstate == .resident && (late.ctx 0).halted == false && (late.ctx 0).parkSince == some 0 &&
    decide (0 + (late.ctx 0).parkFor ≤ late.pcyc) && ((machine { thread with imstate := .suspended }).ctx 0).imstate != .resident &&
    ((machine thread).ctx 0).park == none && ((parked .ring).ctx 0).park == some .ring && ((parked .ring).ctx 0).stallSince == some 0 &&
    gone.coreGone 0 && !(machine thread).coreGone 0 && ((machine thread).setCore 0 { core0 with slots := [] }).mayTake 0 0 (0, 0) &&
    !full.mayTake 0 0 (0, 0) && !full.coreGone 0 && decide ((full.core 0).arrivals.length < 8) && decide (8 ≤ (List.replicate 8 (⟨0, 0, 0, [], none⟩ : Packet)).length) &&
    (machine { thread with held := 0 }).cores != [] && !((machine { thread with held := 0 }).ctx 0).held.getLsbD 3 &&
    ((machine { thread with held := 0 }).ctx 0).heldCore == 0 && !(machine thread).poisonAt (0 + 128 * 3) 128 &&
    ({ machine thread with poisoned := [48] }).poisonAt (0 + 128 * 3) 128 && (let q := machine { thread with park := some (.quota 2), stallSince := some 0, keyReq := some (req (.tld 3)) }
     (q.ctx 0).park == some (.quota 2) && (q.ctx 0).stallSince == some 0 && (q.ctx 0).keyReq == some (req (.tld 3)) &&
      !(q.pending ++ q.due).contains (.mintReplyArrival (req (.tld 3)) .ok)) && (machine { thread with suspending := true }).threads.all (·.2.suspending) := by decide +kernel

/-- Dispatchers: a posted record and a ready one; rings that are empty and not, with a record of the ring; a store that is full; a dispatcher with no record and with one, for
which one core is best. -/
theorem test_witness_dispatchers :
    let s := (taskMachine { thread with imstate := .suspended } 1 0).setCore 0 { core0 with slots := [], split := none }
    let r : TaskRec := { recordOf64 record0 with thread := some 0 }
    let k := sectorOf 0
    let t := s.setDispatcher k { s.dispatcher k with records := [r] }
    let cands (s : State) := (s.dispatcher k).records.zipIdx.filter fun e => !(s.eligibleCores k e.1).isEmpty
    r.thread == some 0 && (recordOf64 record0).thread == none && decide (s.rcbWord 0x10200 0 12 ≤ s.rcbWord 0x10200 0 11) &&
    (let w := s.write (0x10200 + 8 * 12) 8 1
     decide (w.rcbWord 0x10200 0 11 < w.rcbWord 0x10200 0 12) &&
      sectorMeets k (rectOf (w.rcbWord 0x10200 0 17)) && ({ w with spilled := [(0, 0, 0, recordOf64 record0)] }).spilled.any fun e => e.1 == 0 &&
        e.2.1 == w.rcbWord 0x10200 0 9 && e.2.2.1 == w.rcbWord 0x10200 0 11) && decide (Config.dispatcherStore ≤ (List.replicate 256 r).length) &&
    (s.dispatcher k).records == [] && t.pick (cands t) == some (r, 0) && t.bestCore r (t.eligibleCores k r) == some 0 &&
    ((t.dispatcher k).records.zipIdx.filter fun e => e.2 != 0) == [] &&
    (((t.setDispatcher k { t.dispatcher k with records := [] }).placeOn r 0).dispatcher k).records == [] := by decide +kernel

/-- RegionControlBlocks: a child whose words are right, inside its parent's and outside; a parent of state 1, of another, and of level 7. -/
theorem test_witness_child_rcbs :
    let c := { rcbThread with rcb := 0x10200 }
    let s (parent child : Nat) : State := (putRcb 0x10300 0 child 1 (putRcb 0x10200 0 parent 1 (machine c))).write 0x18 1 1
    let words (t : State) (a : Nat) := t.rcbWords a
    let live (l : List Nat) : Bool := l.getD 21 0 % 8 == 1 || l.getD 21 0 % 8 == 2
    let inside (n up : List Nat) : Bool := withinParent 3 (n.getD 3 0) (up.getD 3 0) && withinParent 4 (n.getD 4 0) (up.getD 4 0) &&
      withinParent 5 (n.getD 5 0) (up.getD 5 0) && rectInside (rectOf (n.getD 17 0)) (rectOf (up.getD 17 0))
    let t := s 1 0
    let n := inherit (words t 0x10300) (words t 0x10200)
    c.xr 1 != 0 && okAnd (t.rcbPlace (c.xr 1) false) (fun h => h.lane.pa == 0x10200) && okAnd (t.rcbPlace (c.xr 5) true) (fun q => q.lane.pa == 0x10300 && t.pageHolding q.lane.pa == none) &&
    rcbOk (words t 0x10300) false && n.getD 3 0 / 2 ^ 32 % 512 == 1 && t.asidValid 1 && inside n (words t 0x10200) &&
    !inside n ((words t 0x10200).set 4 (99 * 2 ^ 32 + 4 * 2 ^ 16 + 8)) && live (words t 0x10200) && !live (words t 0x10300) && live (words (s 1 2) 0x10300) &&
    !live (words (s 3 0) 0x10200) && !rcbOk (words (machine c) 0x10300) false && (words t 0x10200).getD 21 0 / 256 % 8 + 1 == 1 &&
    decide (7 < (words (s (1 + 7 * 256) 0) 0x10200).getD 21 0 / 256 % 8 + 1) && (t.core 0).cache == [] && !t.writingBack 0 := by decide +kernel

/-- LeavingASlot: an LDM of an address of host memory. -/
theorem test_witness_host_move :
    let s := withLeaf thread (leafWord + 0x800000000000)
    okAnd (s.placeLanes s.me false 8 [⟨0, s.me.xr 1, 0, (s.me.xr 5).toNat⟩]) (fun ls => ls.length == 1 && ls.all fun l => l.place.target == .host && l.adj == none) := by
  decide +kernel

/-- SlotEvents: a stall for a quota whose answer is on its way, another refusal and a grant; a force that stalls for a version; limits over and not. -/
theorem test_witness_stalls :
    let q := req (.tld 3)
    let s : State := machine { thread with park := some (.quota 2), stallSince := some 0, keyReq := some q }
    let with_ (o : MintOutcome) : State := { s with pending := [.mintReplyArrival q o] }
    (with_ .ok).pending.contains (.mintReplyArrival q .ok) && (with_ (.stall 2)).pending.all (fun e => e == .mintReplyArrival q (.stall 2)) &&
    (machine { thread with park := some (.quota 1), stallSince := some 0 }).me.keyReq == none &&
    decide (cycleOfTick (0 + s.rcbWord 0 0 5 / 2 ^ 32 % 2 ^ 32) ≤ s.pcyc) &&
    decide ((taskMachine { thread with rcb := 0x10200 } 1 0).pcyc < cycleOfTick (0 + (taskMachine { thread with rcb := 0x10200 } 1 0).rcbWord 0x10200 0 5 / 2 ^ 32 % 2 ^ 32)) &&
    (let f : Force := { forced ref0 with done := false, read := [], leafs := [(ref0, ⟨0, 7, 0, 7⟩, 4)] }
     let c : Ctx := { thread with park := some .version, stallSince := some 0, force := some f }
     c.force == some f && f.done == false && f.fault == none && (List.find? (fun e => (f.read.find? e.1.id).isNone) f.leafs) == some (ref0, ⟨0, 7, 0, 7⟩, 4)) := by
  decide +kernel

/-- Dispatchers: a record that the ring holds, of a thread that is killed and of one that is not; a dispatcher without a record of its RCB in another space. -/
theorem test_witness_refills :
    let s := (taskMachine { thread with imstate := .killed } 1 0).setCore 0 { core0 with slots := [], split := none }
    let w := ((s.write (0x10200 + 8 * 12) 8 1).write (0x10200 + 8 * 9) 8 0x10800).writeBytes 0x10800 record0
    let r : TaskRec := { recordOf64 record0 with thread := some 0 }
    let t (r : TaskRec) : State := { w with spilled := [(0, w.rcbWord 0x10200 0 9, w.rcbWord 0x10200 0 11, r)] }
    let k := sectorOf 0
    (t r).rcbWord 0x10200 0 11 == 0 && ((t r).hwAddr 0 ((t r).ringAddr 0x10200 0 0)).isSome && someAnd r.thread (fun n => ((t r).ctx n).imstate == .killed) &&
    (recordOf64 record0).thread == none && someAnd ((t r).hwAddr 0 ((t r).ringAddr 0x10200 0 0)) (fun pa =>
      let n := (t (recordOf64 record0)).ringRecord (recordOf64 record0) pa
      n.thread == none && sectorMeets k (rectOf ((t r).rcbWord n.rcb n.asid 17))) && ((t r).dispatcher k).records == [] && (w.spilled == []) &&
    decide (((t r).dispatcher k).records.length < Config.dispatcherStore) := by decide +kernel

/-- A region of 32 FP32 elements at 0x10100 with its cells at 0x10800, in slot 2 of space 0. -/
def region0 : Region := ⟨0x10100, 0x10800, 32, 0⟩
def regionBytes : List Byte := bytesOf 8 0x10100 ++ bytesOf 8 0x10800 ++ bytesOf 4 32 ++ List.replicate 12 0
def inRegion (c : Ctx) : State := { (machine c).setCore 0 { core0 with regions := [(2, region0)] } with regionTables := [(0, [(2, region0)])] }

/-- Regions: bytes that are a region and are not; one that meets another, a table with a free slot and a full one; a slot that is empty and one that is not. -/
theorem test_witness_regions :
    let full : SMap Region := (List.range 16).map fun k => (k, ⟨0x20000 + 0x100 * k, 0x30000 + 0x100 * k, 16, 0⟩)
    let bad (t : SMap Region) : Bool := rangesMeet region0.base (region0.cnt * region0.width) region0.adj (4 * region0.cnt) || t.any fun e => e.2.overlaps region0
    let s := inRegion (thread.setX 1 2)
    regionOfBytes regionBytes == some region0 && regionOfBytes (List.replicate 32 255) == none && bad (s.regionTables.get 0 []) && !bad [] && !bad full &&
    (List.range 16).all (fun n => (full.find? n).isSome) && (SMap.find? ([] : SMap Region) 0).isNone &&
    (s.regionTables.get 0 []).find? ((s.me.xr 1).toNat % 16) == some region0 && (s.regionTables.get 0 []).find? ((s.me.xr 4).toNat % 16) == none &&
    (s.core 0).padAsid == some 0 && thread.stage == 0 && ({ thread with stage := 1, buf := regionBytes } : Ctx).stage != 0 := by decide +kernel

/-- AdjointCells and SeedAndClear: a thread that is quiet and one that is not; an element of a region and an address of none, aligned and not; its
cell, element and run of 16 placed; counts of `PENDC` below the limit and at it; arrays with adjoints and without; ranges that are empty, inside, beyond. -/
theorem test_witness_adjoint_cells :
    let s := inRegion tileThread
    let c := s.me
    let read : Need := { n := 4, r := true, noPool := some 6, rdup := true }
    let update (remote : Bool) : Need := { n := 4, r := true, w := true, noPool := some 6, onlyDevice := some 6, remote := remote, store := true }
    let clear : Need := { n := 4, w := true, noPool := some 6, store := true }
    let diff : Desc := { desc0 with diff := true }
    let t := (tiling tileThread []).setSlice (directorySlice 0 7) { Slice.initial with arrays := [(0, diff)] }
    c.longs == 0 && c.ackc == 0 && c.pendc == 0 && ({ c with pendc := 32 } : Ctx).pendc == 32 &&
    regionOf (s.regionsFor 0 0) 0x10100 1 == some (2, region0) && regionOf (s.regionsFor 0 0) 0x10000 1 == none && 0x10102 % region0.width != 0 &&
    0x10100 % region0.width == 0 && okAnd (s.place c read 0 0x10800 0) (fun _ => true) &&
    [false, true].all (fun r => okAnd (s.place c (update r) 0 0x10800 0) fun p => awayLanes ⟨s.src, [p.lane], .x 4 4 false, true, false⟩ == []) && s.quiet 0 true &&
    !(machine { c with ackc := 1 }).quiet 0 true && awayLanes ⟨s.src, [⟨2 ^ 40, 0, 4, 0, 0, 0, 0, 0, false⟩], .x 4 4 false, true, false⟩ != [] &&
    okAnd (s.place c { n := 4, r := true, rdup := true } 0 (c.xr 1) 0) (fun _ => true) && decide (0x10100 + 16 * 4 ≤ region0.base + region0.cnt * region0.width) &&
    okAnd (placeAll (fun i => s.placeCell (update false) i region0 (0x10100 + i * 4)) (List.range 16)) (fun _ => true) &&
    okAnd (placeAll (fun i => s.place c clear 0 (BitVec.ofNat 64 (0x10800 + 4 * i)) 0) (List.range 32)) (fun _ => true) &&
    okAnd (t.keyPhase c key0) (fun e => e.1.diff && decide (e.1.fmt < 5) && e.1.remote == false && e.2.me == c && e.2.cur == t.cur) && desc0.diff == false &&
    (let h := holding { ref0 with diff := true } (some (forced { ref0 with diff := true })) 1
     h.target? 3 == some (.ref { ref0 with diff := true }, ⟨diff.rows, diff.cols, diff.fmt, diff.blk⟩) && h.stage == 1 && h.pendc == 0) &&
    (s.regionsFor 0 0).find? 2 == some region0 && (s.regionsFor 0 0).find? 3 == none && (c.xr 0).toNat == 0 && (c.xr 4).toNat != 0 &&
    decide (0x10100 + 5 ≤ region0.base + region0.cnt * region0.width) && decide (region0.base + region0.cnt * region0.width < 0x1017C + 5) &&
    regionOf (s.regionsFor 0 0) 0x1017C 1 == some (2, region0) := by decide +kernel

/-- Tape: pointers equal, outside, below the limit; marks that are aligned and reached, and not; an entry that is well formed and one that is not; its
place; each stage, with stores unacknowledged and without. -/
theorem test_witness_tape_instructions :
    let c := { thread with tapeb := 0x10100, tapel := 0x10200, tapep := 0x10120, buf := bytesOf 8 0x10180 ++ bytesOf 4 7 ++ [4, 2, 0, 0], stage := 1 }
    let s := machine c
    let low : Ctx := { c with tapep := 0x100F0 }
    field c.buf 12 1 == 4 && decide (field c.buf 13 1 < 16 ∧ field c.buf 8 4 < 2 ^ 32) && field (List.replicate 16 255) 12 1 == 255 &&
    okAnd (s.place c { n := 4, w := true, store := true } 0 (BitVec.ofNat 64 (field c.buf 0 8)) 0) (fun _ => true) && c.tapep != c.tapeb &&
    ({ c with tapep := c.tapeb } : Ctx).tapep == c.tapeb && decide (low.tapep.toNat < low.tapeb.toNat ∧ ¬c.tapep.toNat < c.tapeb.toNat) &&
    decide (c.tapep.toNat ≤ c.tapel.toNat) && (c.xr 1).toNat % 16 == 0 && decide (c.tapeb.toNat ≤ (c.xr 1).toNat ∧ (c.xr 1).toNat < c.tapep.toNat) &&
    (c.xr 4).toNat % 16 != 0 && ({ c with tapep := c.xr 1 } : Ctx).tapep == c.xr 1 && ({ c with tapep := 0x10110 } : Ctx).tapep - 16 == c.xr 1 &&
    c.tapep - 16 != c.xr 1 && c.ackc == 0 && ({ c with ackc := 1, stage := 2 } : Ctx).ackc != 0 := by decide +kernel

/-- AdjointCells and SeedAndClear: a thread with every contribution outstanding, which is not ready to issue. -/
theorem test_witness_full_pendc : decide (32 ≤ ({ thread with pendc := 32 } : Ctx).pendc) && decide (32 ≤ ({ thread with pendc := 33 } : Ctx).pendc) := by decide +kernel

/-- TakingATrap and ReturningFromATrap: a user with a handler for the code and without; contexts of each mode with `INT` clear and set. -/
theorem test_witness_traps :
    let user : Ctx := { thread with khtraps := 1 <<< 6, uthnd := 0x4000 }
    user.mode == .user && user.khtraps.getLsbD 6 && user.uthnd != 0 && !user.khtraps.getLsbD 2 && thread.uthnd == 0 && user.sstat.getLsbD 3 == false &&
    ({ user with sstat := 8 } : Ctx).sstat.getLsbD 3 && user.fstat.getLsbD 3 == false && ({ user with fstat := 8 } : Ctx).fstat.getLsbD 3 &&
    ({ user with mode := .firmware } : Ctx).mode == .firmware && ({ user with mode := .supervisor } : Ctx).mode != .firmware := by decide +kernel

/-- ActingWrites: a slice whose tables are empty and one that holds a version; splits that are reserved, larger and smaller; a cell in reset and not. -/
theorem test_witness_acting_writes :
    let s := machine thread
    (s.slice 0).tills == [] && (s.slice 0).waiters == [] && (s.slice 0).records == [] && (s.slice 0).mint == [] &&
    ((tiling tileThread [entryIn .present]).slice home0).mint != [] && (7#64).toNat % 8 == 7 && (3#64).toNat % 8 != 7 && decide ((s.die 0).tsplit ≤ (3#64).toNat % 8) &&
    (s.cell 0).resetUntil == none && (((machine thread).setCell 0 { Cell.initial with resetUntil := some 9 }).cell 0).resetUntil.isSome && 7 / 8 == 0 := by
  decide +kernel

/-- SystemControl: a release that is done; lengths zero, in range, beyond; threads held and not, a core that takes one and one that does not; slots empty
and not; both stages. -/
theorem test_witness_system_control :
    let held : State := (machine { thread with imstate := .held }).setCore 0 { core0 with slots := [] }
    let c := (thread.setX 5 (1#64 <<< 33)).setX 4 0
    okAnd ((machine c).relPart 1 0) (fun _ => true) && c.stage != 9 && ({ c with stage := 9 } : Ctx).stage == 9 && (c.xr 4).toNat == 0 && (c.xr 3).toNat != 0 &&
    decide ((c.xr 3).toNat ≤ 2 ^ 32) && decide (2 ^ 32 < (c.xr 5).toNat) && ((machine c).ctx (c.xr 4).toNat).imstate != .held &&
    (held.ctx (c.xr 4).toNat).imstate == .held && held.mayTake 0 0 (0, 0) && !(held.setCore 0 { core0 with fenced := true }).mayTake 0 0 (0, 0) &&
    (machine c).slotThreads 0 0 == [0] && (machine c).slotThreads 0 5 == [] && (core0.slots.find? 0) == some 0 && core0.slots.find? 1 == none := by
  decide +kernel

/-- KeysErrorsEvents: slot words that are malformed and well formed; slots in use and empty; an error queue that is empty and one that is not. -/
theorem test_witness_keys_errors :
    let s := machine thread
    (0x80#64).extractLsb' 7 9 != 0 && (1#64 <<< 30).extractLsb' 26 38 != 0 && (0x10000#64).extractLsb' 7 9 == 0 && (0x10000#64).extractLsb' 26 38 == 0 &&
    (s.vault.find? 0).isSome && s.vault.find? 5 == none && thread.stage == 0 && ({ thread with stage := 1 } : Ctx).stage != 0 && (s.die 0).errq == [] &&
    ((s.setDie 0 { Die.initial with errq := [3, 4] }).die 0).errq == [3, 4] && s.sevt 0 == 0 && (s.setDie 0 { Die.initial with sevt := 2 }).sevt 0 != 0 := by
  decide +kernel

/-- FaultRecords: a domain with an area that has a free slot, one whose slots are all taken, and none; the domain's handler and another thread; a record
that the disposition fits, and one that it does not. -/
theorem test_witness_fault_records :
    let c : Ctx := { thread with rcb := 0x10200, thid := 77 }
    let s := ((taskMachine c 1 0).write (0x10200 + 8 * 7) 8 0x11000).write (0x10200 + 8 * 8) 8 77
    let full := (List.range 31).foldl (fun s k => s.write (0x11000 + 128 * (k + 1) + 4) 1 1) s
    let b := (((s.setMe (c.setX 1 0x11080)).write 0x11080 4 0x1C).write 0x11084 1 1)
    someAnd (s.domainArea 0x10200 0) (fun e => e.1 == 0x10200 && s.freeRecord e.2.1 == some 1 && full.freeRecord e.2.1 == none) &&
    someAnd (full.domainArea 0x10200 0) (fun _ => true) && (machine thread).domainArea 0 0 == none && c.thid.toNat == s.rcbWord 0x10200 0 8 &&
    ({ c with thid := 5 } : Ctx).thid.toNat != s.rcbWord 0x10200 0 8 && (s.core 0).cache == [] && !s.writingBack 0 &&
    okAnd (b.place b.me { n := 128, r := true, w := true, noPool := some 6, onlyDevice := some 6, store := true } 0 (b.me.xr 1) 0) (fun p =>
      let u := b.settle 0 0 true p
      let bs := (List.range 16).flatMap fun i => bytesOf 8 (u.view (p.lane.pa + 8 * i) 8)
      field bs 4 1 == 1 && accepts (field bs 0 4) 3 && !accepts (field bs 0 4) 1) := by decide +kernel

/-- SystemControl: a subtree halted and not, a part of one; a removed translation that an access on its way uses, and none; a budget of contexts that is
full; a slot's thread whose lines another core holds. -/
theorem test_witness_gangs :
    let s := taskMachine { rcbThread with rcb := 0x10200 } 1 0
    let halted : State := { s with halts := [(0, 0x10200, true)] }
    s.inSubtree 0 0x10200 0x10200 0 && (halted.gangOf 0 0 0x10200).contains 0 && !s.inSubtree 0 0x10300 0x10200 0 && s.threads.all (fun e => !e.2.halted) &&
    !s.translated none none 0 && (machine { thread with passed := [wordAt 0x10100 8] }).translated none none 0 &&
    s.contextFits 0x10200 0 && !(s.write (0x10200 + 8 * 19) 8 (2 ^ 32 - 1)).contextFits 0x10200 0 && !(machine thread).asidValid 1 && ((machine thread).write 0x18 1 1).asidValid 1 &&
    ((machine { thread with heldCore := 5 }).slotThreads 0 0).filter (fun t => ((machine { thread with heldCore := 5 }).ctx t).heldCore == 0) == [] &&
    ((machine thread).slotThreads 0 0).filter (fun t => ((machine thread).ctx t).heldCore == 0) == [0] := by decide +kernel

/-- KeysErrorsEvents: locations that exist and that do not, of an HBM page and of another class; a wait for an event that has come and one that has not. -/
theorem test_witness_locations :
    locationExists 0 8 0 1 && !locationExists 1 8 0 1 && !locationExists 0 10 0 0 && !locationExists 0 0 8192 0 && !locationExists 0 1 2048 0 && !locationExists 1 9 0 0 &&
    (machine { thread with stage := 1 }).me.stage == 1 && thread.stage != 1 && (machine thread).sevt 0 == 0 := by decide +kernel

/-- FaultRecords: a record that has waited and one that has not, one of a Teller operation; an area with no free slot. -/
theorem test_witness_deliveries :
    let c : Ctx := { thread with rcb := 0x10200, thid := 77 }
    let s := ((taskMachine c 1 0).write (0x10200 + 8 * 7) 8 0x11000).write (0x10200 + 8 * 8) 8 77
    let full := (List.range 31).foldl (fun s k => s.write (0x11000 + 128 * (k + 1) + 4) 1 1) s
    let r : FaultRec := ⟨0x10200, 0, 0x113, 0, 77, 0, [], 0, 0x10200, false, false, false, some (0, 4)⟩
    someAnd (full.domainArea r.home r.asid) (fun e => full.freeRecord e.2.1 == none && s.freeRecord e.2.1 == some 1) && !r.waited && ({ r with waited := true } : FaultRec).waited &&
    r.op == some (0, 4) && ({ r with op := none } : FaultRec).op == none := by decide +kernel

/-- A machine with link 0 up to device 5, which space 0 has bound, an export of the page at 0x10000 of space 0, and an array of device 5. -/
def linked (c : Ctx) : State :=
  { taskMachine c 1 0 with
    links := [(0, ⟨2, 5, 0, 0, 0⟩), (1, ⟨3, 6, 0, 0, 0⟩)], routes := [(5, 0), (6, 1)], bindings := [⟨0, 1, 5, 4, 3⟩],
    exports := [(0, ⟨0x10200, 0, 0x10000, 0x10000, 5, 15⟩), (1, ⟨0x10200, 0, 0x10000, 0x10000, 5, 0⟩)] }
def linkedTile (c : Ctx) : State :=
  (linked c).setSlice (directorySlice 0 7) { Slice.initial with arrays := [(0, { desc0 with remote := true, dev := 5 })] }
def exportBytes : List Byte := bytesOf 8 0x10200 ++ bytesOf 8 0x10000 ++ bytesOf 8 0x10000 ++ [5, 0, 15, 0, 0, 0, 0, 0]

/-- Bindings: the device itself, one that is bound, one that is not, with a route and without; slots free and none; an array that uses a binding;
an export record that is accepted and one that is not; a link that is fenced and one that is not; immediates in range and out of it. -/
theorem test_witness_bindings :
    let s := linked thread
    let full : State := { s with bindings := (List.range 63).map fun k => ⟨0, k + 1, k + 100, 0, 0⟩ }
    s.devid.toNat == 0 && (s.bindingTo 0 5).isSome && s.bindingTo 0 6 == none && s.route 5 == some 0 && s.route 6 == none && (s.freeBinding 0).isSome &&
    (full.freeBinding 0).isNone && full.bindingTo 0 5 == none && (linkedTile thread).slices.any (fun e => e.2.arrays.any fun d => d.1 == 0 && d.2.remote && d.2.dev == 5) &&
    exportOk exportBytes && !exportOk (List.replicate 32 255) && (s.rcbWord? (field exportBytes 0 8) 0 3).isSome && (s.rcbWord? 0x90000 0 3).isNone &&
    (s.link 1).state == 3 && (s.link 0).state != 3 && (s.link 0).state == 2 && s.routes.find? 9 == none && s.routes.find? 5 == some 0 &&
    (2 ^ 63 : Nat).testBit 63 && !(5 : Nat).testBit 63 && (s.me.xr 0) == 0 && s.me.xr 4 != 0 && thread.stage == 0 := by decide +kernel

/-- A group record of devices 0 and 5 for a collective on array 7, with the control record. -/
def groupBytes : List Byte :=
  bytesOf 8 0x10100 ++ bytesOf 2 7 ++ bytesOf 2 1 ++ bytesOf 2 1 ++ bytesOf 2 2 ++ bytesOf 4 0 ++ bytesOf 4 1 ++ List.replicate 8 0 ++ bytesOf 2 2 ++ bytesOf 2 9 ++
    bytesOf 4 0 ++ bytesOf 2 0 ++ bytesOf 2 5 ++ List.replicate 52 0

/-- Collectives: a group that is well formed and one that is not; an input present; the first contribution, one that agrees, completes, disagrees; a
collective whose time is over; the member that waits for it. -/
theorem test_witness_collectives :
    let c : Ctx := { tileThread with buf := groupBytes, stage := 3 }
    let s := { tiling c [entryIn .present] with bindings := [⟨0, 1, 5, 4, 3⟩] }
    let g : Machine.Collect := ⟨9, 1, 1, 1, 0, 0, 1032, 2, [(5, [], false)], 0, false⟩
    let t := { s with collects := [g] }
    s.groupOk 0 groupBytes && !s.groupOk 0 (List.replicate 96 0) && xredKey 0 groupBytes 0 == key0 && okAnd (s.keyPhase c (xredKey 0 groupBytes 0)) (fun e =>
      e.2.me == c && e.2.cur == s.cur && e.1.remote == false && decide (e.1.fmt ≤ 2) &&
      ((e.2.entry key0 (descHome e.1 1 1)).map MintEntry.st) == some .present) && ((s.collects.find? fun e => e.named 9 1 1 1) == none) &&
    (t.collects.find? fun e => e.named 9 1 1 1) == some g && g.parts != [] && g.failed == false && g.op == 0 && g.n == 2 && g.op != 1 && decide ((1 : Nat) < g.n) &&
    (let late : State := { t with pcyc := 2 ^ 40 }
     decide (g.since + 2 ^ 30 ≤ late.ticks)) &&
    (let w : State := machine { c with park := some .collect, keyReq := some { req .xredOut with key := { key0 with ver := 1 } } }
     w.threads.map Prod.fst == [0] && (w.ctx 0).park == some .collect && field (w.ctx 0).buf 34 2 == 9) := by decide +kernel

/-- LinkEvents: links of each kind; an access in the exported window, with its page held and not, and one without the right; a key request with the right, without, and of no export;
an array that names the device, and none; a shadow that waits, and none. -/
theorem test_witness_link_events :
    let s := linked thread
    let w (xport : Nat) : RemoteWord := ⟨5, 0, xport, 0x100, 8, none, none, 0⟩
    let k : Key := ⟨0, 7, 1, 1, 0⟩
    (s.link 1).state == 3 && (s.link 0).state == 2 && 5 % 4 != 3 && 7 % 4 == 3 && s.remotePlace (w 1) == none &&
    someAnd (s.remotePlace (w 0)) (fun e => s.pageHolding e.1 == none &&
      (({ s with dies := (paging (runOf (toMode 4 0) leafWord [])).dies }).pageHolding e.1).isSome) && s.exportFor 9 5 == none && someAnd (s.exportFor 0 5) (fun e => e.rights.testBit 0) &&
    someAnd (s.exportFor 1 5) (fun e => !e.rights.testBit 0) && s.declared 0 7 == none && s.localNames 5 3 7 == [] && ((tiling tileThread []).declared 0 7).isSome &&
    (linkedTile thread).localNames 5 3 7 == [(0, { desc0 with remote := true, dev := 5 })] && s.entry k home0 == none &&
    (let t := tiling tileThread [{ MintEntry.new k .waiting 0 0 with pins := 1 }]
     (t.entry k home0).map MintEntry.st == some .waiting) := by decide +kernel

/-- HostEvents: a frame that the host owns and one that it does not; halves that the bridge holds, owns, lacks; ErrorsAndBoot: an error armed and not, the
fourth and another, a full queue and one with room. -/
theorem test_witness_host_errors :
    let l : Lane := ⟨0x800000010000, 0, 8, 0, 0, 0, 0, 0, false⟩
    let q : MemReq := ⟨⟨0, 0, 0, 0⟩, [l], .x 3 8 false, false, false⟩
    let h := 0x800000010000 / 64
    let s := { machine thread with hostFrames := [1] }
    let owning : State := { s with bridge := [(h, ⟨3, 0, 0⟩), (h + 1, ⟨3, 0, 0⟩)] }
    hbmExists 0x10000 && s.hostFrames.contains (0x10000 / 65536) && !s.hostFrames.contains (0x20000 / 65536) && s.pageHolding 0x10000 == none &&
    s.bridge.find? h == none && owning.bridge.find? h == some ⟨3, 0, 0⟩ && s.behind q == false && owning.missingHalves q == [] && s.missingHalves q != [] &&
    owning.unowned q == [] && s.unowned q != [] && s.bridgePeers (h / 2) == [] && (s.die 0).armed == [] &&
    ((s.setDie 0 { Die.initial with armed := [(1, 2, 3)] }).die 0).armed.contains (1, 2, 3) && (0 : Nat) != 9 && decide ((s.die 0).errq.length < Config.errorQueue) &&
    decide (Config.errorQueue ≤ (List.replicate 256 (0 : Word)).length) := by decide +kernel

/-- ReverseAndRemoteTiles, on another device: its array with a binding and a route, with no binding, with no route; a TLD, drop, query and store at each stage;
a handle of the array's shape. LinkEvents: transit with hops left and with none, with a route and with none; a release of a pin in an array that is declared and in one
that is not. -/
theorem test_witness_remote_tiles :
    let s (c : Ctx) : State := linkedTile c
    let passes (c : Ctx) : Bool := okAnd ((s c).keyPhase c (c.keyOf keyOp0).1) fun e => e.1.remote && e.1.dev == 5 && e.2.me == c && e.2.cur == (s c).cur &&
      e.2.ticks == (s c).ticks && (e.2.bindingTo c.asid 5).isSome && e.2.route 5 == some 0
    let cut : State := { s tileThread with bindings := [] }
    let lost : State := { s tileThread with routes := [] }
    passes tileThread && passes (holding ref0 none 0) && passes (holding ref0 (some (forced ref0)) 1) && tileThread.stage == 0 && cut.bindingTo 0 5 == none && lost.route 5 == none &&
    (holding ref0 (some (forced ref0)) 1).target? 3 == some (.ref ref0, ⟨desc0.rows, desc0.cols, desc0.fmt, desc0.blk⟩) && tileThread.reverseOn { desc0 with remote := true } == false &&
    (s tileThread).route 5 == some 0 && (s tileThread).route 9 == none && (tiling tileThread []).declared 0 7 == some desc0 && (tiling tileThread []).declared 0 8 == none := by
  decide +kernel

/-- LinkEvents: an atomic that writes and one that does not. Collectives: one that has failed and is not complete, and one that the arrival completes.
HostEvents: a half that is dirty, at a snoop and at an eviction. ErrorsAndBoot: a die that is throttled and one that is not. -/
theorem test_witness_host_dirty :
    let s := { machine thread with bridge := [(6, ⟨3, 5, 1⟩), (8, ⟨2, 5, 0⟩)] }
    let g : Machine.Collect := ⟨9, 1, 1, 1, 0, 0, 1032, 3, [(5, [], false)], 0, true⟩
    (s.bridge.find? 6).map Half.st == some 3 && (s.bridge.find? 8).map Half.st == some 2 && g.failed && g.parts != [] && decide (max g.n 2 > 2) && decide (max g.n 3 ≤ 3) &&
    (s.die 0).throttled == false && ((s.setDie 0 { Die.initial with throttled := true }).die 0).throttled && !hbmExists (2 ^ 40 - 64) && (0 : Nat) ∉ s.hostFrames := by decide +kernel

/-- FillsAndWriteThroughs: a load of one line, near and far, with the die's copy and without; a line that the cache holds; a store of one lane; a thread that
waits for its line and one that does not; a clean copy that sleeps and one that does not; a page held. -/
theorem test_witness_fills :
    let l : Lane := ⟨0x10100, 0x10100, 8, 0, 0, 0, 0, 0, false⟩
    let far : Lane := { l with pa := 2 ^ 38 + 0x100 }
    let q (l : Lane) : MemReq := ⟨⟨0, 0, 0, 0⟩, [l], .x 3 8 false, false, false⟩
    let s := caching thread
    let copy : Proxy := ⟨.s, 0, 0, 0, 0, 0⟩
    unboundLines (q l) == [(0x202, 0)] && unboundLines (q { far with mode := 1 }) == [(2 ^ 31 + 2, 1)] && homeDie 0x202 == 0 && homeDie (2 ^ 31 + 2) == 1 &&
    s.pageHolding (128 * 0x202) == none && (s.setProxy (2 ^ 31 + 2) 0 copy).proxy (2 ^ 31 + 2) 0 == some copy &&
    !((s.setProxy (2 ^ 31 + 2) 0 copy).slice (sliceAt 0 (sliceIndex (2 ^ 31 + 2)))).retained && copy.clean &&
    (s.setSlice (sliceAt 0 (sliceIndex (2 ^ 31 + 2))) { Slice.initial with retained := true }).slices.any (·.2.retained) &&
    ((paging (runOf (toMode 4 0) leafWord [])).pageHolding (128 * 0x202)).isSome && s.proxy (2 ^ 31 + 2) 0 == none &&
    s.cacheSets 0 != 0 && s.cacheLine 0 (tagOf 0x202 0) == some dirtyLine && (q l).lanes == [l] && s.proxy 0x202 0 == none && (s.ctx 0).park != some (.fetch 1) &&
    ((machine { thread with park := some (.fetch 1) }).ctx 0).park == some (.fetch 1) := by
  decide +kernel

/-- WriteBacksMerge and DirectoryTransitions: a line in each directory state, the owner's copy in each state, a copy that is shared, an entry's set with room;
a slice of a cell under reset, and a slice that holds the line. -/
theorem test_witness_directory :
    let copy (st : CopyState) : Proxy := ⟨st, 0, 0, 0, 0, 0⟩
    let s (d : Option Dir) (ps : List (Nat × CopyState)) : State :=
      let t := (machine thread).setSlice (homeSlice 0x202) { Slice.initial with dir := d.toList.map fun x => (0x202, x) }
      ps.foldl (fun s e => s.setProxy 0x202 e.1 (copy e.2)) t
    homeDie 0x202 == 0 && homeDie (2 ^ 31) == 1 && (s none []).dirOf 0x202 == none && (s none []).tilledOn 0x202 == [] && ((s none []).slice (homeSlice 0x202)).retained == false &&
    decide (((s none []).dirPeers 0x202).length < 16) && (s (some (.sh [2])) [(2, .s)]).dirOf 0x202 == some (.sh [2]) && (s (some (.sh [1, 2])) [(1, .s), (2, .s)]).proxy 0x202 1 == some (copy .s) &&
    (s (some (.sh [2])) [(2, .s)]).proxy 0x202 1 == none && [CopyState.m, .e].all (fun st => (s (some (.ex 2)) [(2, st)]).dirOf 0x202 == some (.ex 2) &&
      (s (some (.ex 2)) [(2, st)]).proxy 0x202 2 == some (copy st)) && (s (some (.ow 2 [3])) [(2, .o), (3, .s)]).dirOf 0x202 == some (.ow 2 [3]) &&
    (s (some (.ow 2 [3])) [(2, .o), (3, .s)]).proxy 0x202 2 == some (copy .o) && !([3] : List Nat).contains 1 && (s (some (.ow 2 [3])) [(2, .o), (3, .s)]).proxy 0x202 3 == some (copy .s) &&
    [1, 2, 3].all (fun k => decide (k < 4)) && (s none []).sliceGone (sliceAt 0 (sliceIndex 0x202)) == false &&
    ((machine thread).setCell (sliceAt 0 (sliceIndex 0x202) / 2) { Cell.initial with resetUntil := some 9 }).sliceGone (sliceAt 0 (sliceIndex 0x202)) &&
    (((s none []).l2Take 0x202 0).slice (homeSlice 0x202)).l2 == [0x202] && decide (0 < (s none []).l2Ways 0) &&
    decide (((s none []).l2Peers (homeSlice 0x202) 0x202).length ≤ (s none []).l2Ways 0) &&
    ((machine thread).setProxy (2 ^ 31) 0 (copy .m)).proxy (2 ^ 31) 0 == some (copy .m) && ((machine thread).setProxy (2 ^ 31) 0 (copy .nc)).proxy (2 ^ 31) 0 == some (copy .nc) := by
  decide +kernel

/-- FillsAndWriteThroughs: the copy of a page that is not coherent, at the storing die. WriteBacksMerge: a home under reset that a die must ask, and one that it
need not, for it holds the line. -/
theorem test_witness_lost_homes :
    let far : Nat := 2 ^ 31
    let copy (st : CopyState) : Proxy := ⟨st, 0, 0, 0, 0, 0⟩
    let s : State := (machine thread).setProxy far 0 (copy .nc)
    let gone : State := (machine thread).setCell (homeSlice far / 2) { Cell.initial with resetUntil := some 9 }
    (s.proxy far 0).map Proxy.st == some .nc && !s.mergeGone far 0 true && gone.sliceGone (homeSlice far) && !gone.sliceGone (sliceAt 0 (sliceIndex far)) && gone.mergeGone far 0 false &&
    !(gone.setProxy far 0 (copy .m)).mergeGone far 0 false && !(machine thread).mergeGone 0x202 0 false := by decide +kernel

/-- The state after the contexts of the core whose turn it is have prepared, and the state in which a context of it runs its instruction. -/
def prepared (s : State) : State :=
  match s.cores[s.turn]? with
  | some e => ({ s with turn := s.turn + 1 } : State).prepareCore e.1
  | none => s
def running (s : State) (tid : Nat) : State :=
  let u := prepared s
  let c := u.ctx tid
  let used := c.neededLines.foldl (fun m n => m.set n u.pcyc) c.lineUse
  let w := { u.setCtx tid { c with lastIssue := some u.pcyc, park := none, ahead := 0, lineUse := used, issuedOn := c.core } with cur := tid }
  if passesStores c.nextOp then w else w.landStores tid

/-- Every check of `Claims.Reaches` as one evaluation. -/
def reaches (s : State) (tid : Nat) : Bool :=
  s.due == [] && s.pending == [] && someAnd s.cores[s.turn]? (fun e => (prepared s).issuer e.1 == some tid)
theorem reaches_ok {s : State} {tid : Nat} (h : reaches s tid = true) : Claims.Reaches s (prepared s) (running s tid) tid := by
  simp only [reaches, Bool.and_eq_true, beq_iff_eq] at h
  obtain ⟨⟨h1, h2⟩, h3⟩ := h
  cases e : s.cores[s.turn]? with
  | none => simp [e, someAnd] at h3
  | some x => exact ⟨⟨h1, h2⟩, ⟨x, e, by simp [prepared, e], by simpa [e, someAnd] using h3⟩, rfl⟩

/-- A thread whose line holds one instruction. -/
def atWord (nbits w : Nat) (c : Ctx) : Ctx := { c with line := some (0, lineOfOne nbits w) }

/-- StepRunsDecoded: the line of `LI x5, 100` is reached, and nothing stops the instruction. -/
theorem test_witness_step :
    reaches (machine (atWord 48 0x42C500640000 thread)) 0 &&
    (let c := (running (machine (atWord 48 0x42C500640000 thread)) 0).me
     someAnd (decode c.fetched.1 c.fetched.2) fun i => i.op == .li 0 5 100 && operandsClash i.op == false && privileged i.op == false && i.grd == none &&
      (regs i.op).all fun r => c.outOfRange r == false && c.awaitsLong r == false && c.poisonOf r == none) := by decide +kernel
theorem test_witness_reaches : ∃ s u v, Claims.Reaches s u v 0 :=
  ⟨_, _, _, reaches_ok (Bool.and_eq_true_iff.1 test_witness_step).1⟩

/-- DecodeSequence: a pattern that is not assigned; a privileged instruction in user mode; a register out of range; one that awaits a long result; one that
carries a mark; a guard that awaits a long result, and one that is false. -/
theorem test_witness_decode_sequence :
    let run (nbits w : Nat) (c : Ctx) (p : Ctx → Insn → Bool) : Bool :=
      let s := machine (atWord nbits w c)
      let d := (running s 0).me
      reaches s 0 && someAnd (decode d.fetched.1 d.fetched.2) (p d)
    let low (i : Insn) (p : RegUse → Bool) : Bool := (regs i.op).any p
    let none_ := machine (atWord 16 0x2480 thread)
    reaches none_ 0 && (decode (none_.ctx 0).fetched.1 (none_.ctx 0).fetched.2).isNone &&
    run 16 0x1CC0 thread (fun c i => c.mode == .user && privileged i.op && !operandsClash i.op) &&
    run 32 0x202600E5 { thread with khregs := 4 } (fun c i => low i c.outOfRange) && run 32 0x202600E5 { thread with xPend := 1 <<< 7 } (fun c i => low i c.awaitsLong) &&
    run 32 0x202600E5 { thread with xPois := [(7, 0x10100)] } (fun c i => low i fun r => (c.poisonOf r).isSome) &&
    run 80 0x60260001234504600006 { thread with pPend := 1 <<< 3 } (fun c i => someAnd i.grd fun g => c.pPend.getLsbD g.g.toNat) &&
    run 80 0x60260001234504600006 thread (fun c i => someAnd i.grd fun g => c.pr g.g.toNat == g.n && !c.pPend.getLsbD g.g.toNat) := by decide +kernel

/-- EventsAreDelivered: an event that is due, and messages in flight, one of them behind a message of a higher plane. -/
theorem test_witness_events :
    let s : State := { machine thread with due := [.hostDoorbell], pending := [.spdmRequest] }
    s.due == [.hostDoorbell] && s.pending != [] && ({ s with due := [] } : State).due == [] && (s.pending[0]?).isSome && !s.tooLate .spdmRequest &&
    ({ s with accepted := [(homeSlice 0x202, 7)] }).tooLate (.fillAtHome ⟨request (wordAt 0x10100 8) (.x 5 8 false) false, []⟩) := by decide +kernel

/-- EncodeDecode, MemoryStaysCanonical: a well-formed instruction; a canonical memory with bytes in it, and a step from it. -/
theorem test_witness_global :
    WellFormed ⟨false, some ⟨3, true⟩, .add 0 6 6 (.imm 74565)⟩ = true ∧ Memory.wf (machine thread).mem = true ∧ (machine thread).mem ≠ [] ∧
    nextAnd (step (machine (atWord 48 0x42C500640000 thread))) (fun t => t.me.xr 5 == 100) = true := by decide +kernel

/-- MessageOrder: stores of one core to one byte, of two cores, and to two bytes; the grants of two cores at a cell's unit; a write-back of a core that a
release drains, before the release and after it. -/
theorem test_witness_message_order :
    let store (core a : Nat) : Event := .writeThroughAtHome ⟨⟨0, core, 0, 0⟩, [wordAt a 8], .none, true, false⟩ [5]
    let s (p : List Event) : State := { machine thread with pending := p }
    let same := s [store 0 0x10100, store 0 0x10100]
    let apart := s [store 0 0x10100, store 1 0x10100, store 0 0x10180]
    let grants := s [.vhistGrant 0 0 0 4 0 0, .vhistGrant 1 0 0 4 0 0]
    let wb : Event := .writeBackMerge (some 0) 3 0x202 0 0 0 false 0
    same.jobs == [] && same.blocks (store 0 0x10100) (store 0 0x10100) && same.choose 1 == 0 && apart.choose 1 == 1 && apart.choose 2 == 2 && apart.histRank (store 0 0x10100) == none &&
    (grants.histRank (.vhistGrant 0 0 0 4 0 0)).isSome && grants.pending.length == 2 && someAnd (touchOf wb) (fun t => t.kind == 2 && t.core == 3) &&
    (let q := request (wordAt 0x10100 8) (.x 5 8 false) true
     let j : Job := ⟨0x202, [0, 3], [3], .rel q 8 5⟩
     ({ machine thread with jobs := [(1, j)] } : State).jobs.find? 1 == some j && j.cores.contains 3 && someAnd (touchOf wb) (fun t => !afterRelease j t)) := by decide +kernel

/-- StepRunsDecoded: an instruction in flight, whose context is runnable and equipped, goes on. -/
theorem test_witness_in_flight :
    let s := machine { atWord 48 0x42C500640000 thread with midway := true }
    s.runnable 0 && (s.ctx 0).line.isSome && (s.ctx 0).missing == [] && (s.ctx 0).midway && (s.ctx 0).events == [] && !(machine { thread with halted := true }).runnable 0 &&
    (let w : State := { s.setCtx 0 { s.ctx 0 with park := none } with cur := 0 }
     someAnd (decode (s.ctx 0).fetched.1 (s.ctx 0).fetched.2) fun i => nextAnd (exec i.op (w.setMe { w.me with sw := i.sw })) fun t => t.me.xr 5 == 100) := by decide +kernel

/-! ## Ill-formed instructions -/

/-- Each check of `WellFormed` refuses a term: the form fields, scalar instructions. -/
theorem test_ill_formed_scalar :
    ([.add 2 1 2 (.reg 3), .add 0 1 2 (.imm 0x80000000), .mul 2 1 2 (.reg 3), .mulh 4 1 2 (.reg 3), .shl 2 1 2 (.reg 3), .shl 0 1 2 (.imm 64), .shl 1 1 2 (.imm 32),
      .bcnt 3 1 2, .brev 2 1 2, .fext 2 1 2 (.reg 3), .fext 0 1 2 (.imm 0x4000), .fext 0 1 2 (.imm 0x40), .fins 1 2 (.imm 0x4000), .sext 3 1 2, .li 3 1 0,
      .sel 32 1 2 3, .lea 5 1 2 (.reg 3), .cmp 12 1 2 (.reg 3), .cmp 32 1 2 (.reg 3), .plog 16 1 2 3, .getc 1 0xFFF, .putc 1 0xFFF, .paddr 3 1 2 (.reg 3)] : List Instr).all
      (fun i => !WellFormed ⟨false, none, i⟩) = true := by decide +kernel

/-- Memory, atomics and fences. -/
theorem test_ill_formed_memory :
    ([.ld 4 1 ⟨2, 0⟩, .ld 16 1 ⟨2, 0⟩, .ld 0 1 ⟨2, 0x8000⟩, .st 4 1 ⟨2, 0⟩, .ldv 16 1 ⟨2, 0⟩ 0, .ldv 0 1 ⟨2, 0⟩ 1, .ldg 32 1 2 3 0, .ldg 0 1 2 3 1, .ldg 16 1 2 3 1, .ldm 9 1 ⟨2, 0⟩, .pref 3 ⟨2, 0⟩,
      .amo 18 1 ⟨2, 0⟩ 3 0, .amo 0 1 ⟨2, 0⟩ 3 4, .cas 2 1 ⟨2, 0⟩ 3 0, .red 19 ⟨2, 0⟩ 3, .redv 19 0 ⟨2, 0⟩ 3, .redv 0 1 ⟨2, 0⟩ 3, .acq 3 0 ⟨2, 0⟩, .acq 2 1 ⟨2, 0⟩,
      .waitw 0 1 ⟨2, 0⟩ 3 4 5, .fenceFull 7, .icsync 7] : List Instr).all (fun i => !WellFormed ⟨false, none, i⟩) = true ∧
    ([.amo 0 1 ⟨2, 0⟩ 3 1, .cas 0 1 ⟨2, 0⟩ 3 1, .waitw 32 1 ⟨2, 0⟩ 3 4 5] : List Instr).all (fun i => !WellFormed ⟨false, some ⟨1, false⟩, i⟩) = true := by
  decide +kernel

/-- Conversions, statistics, vectors and masks. -/
theorem test_ill_formed_vectors :
    ([.vcvt 34 1 2 3, .vcvt 2 1 2 3, .vqntX 31 1 2 3, .vqntX 36 1 2 3, .vqnt 32 1 2 3, .vdq 1 1 2 3, .vdq 32 1 2 3, .vsr 5 1 2, .vhist 3 1 2, .hread 1 2 69, .hreadC 1 2 67,
      .hreadInit 1 2 128, .vadd 3 1 2 3 none, .vfma 16 1 2 3 none, .vfma 3 1 2 3 none, .vmin 8 1 2 3 none, .vsgn 16 1 2 0 none, .vsgn 12 1 2 3 none, .vrcp 3 1 2 none,
      .vcmp 7 1 2 3 none, .vsel 16 1 2 3, .vlogic 16 1 2 3 none, .vshift 16 1 2 (.reg 3) none, .vshift 0 1 2 (.imm 32) none, .viop 60 1 2 3 none, .viop 52 1 2 3 none,
      .vbcast 8 1 2 (.reg 0) none, .vbcast 4 1 2 (.reg 1) none, .vbcast 0 1 2 (.imm 16) none, .vext 8 1 2 (.reg 3), .vext 0 1 2 (.imm 16), .vins 4 1 2 (.reg 3),
      .vperm 4 1 2 3 none, .vshuf 24 1 2 0 none, .vshuf 16 1 2 3 none, .vred 32 1 2 none, .vred 3 1 2 none, .vdot 5 1 2 3 none, .klog 16 1 2 3, .kmov 7 1 2,
      .vli 5 1 0 none, .vli 1 1 0x10000 none, .vadd 0 1 2 3 (some ⟨1, false⟩), .vred 0 1 2 (some ⟨1, true⟩)] : List Instr).all (fun i => !WellFormed ⟨false, none, i⟩) = true := by
  decide +kernel

/-- Tiles, lazy tiles, the matrix unit, and the rest. -/
theorem test_ill_formed_tiles :
    ([.tld 1 ⟨2, 3, 4, .reg 5⟩, .tget 0 1 2 3 4, .tstv 8 1 ⟨2, 3, 4, .imm 0⟩, .tunp 4 1 2, .tew 7 1 2 3 0, .tew 0 1 2 3 4, .tew 6 1 2 3 4, .tmap 10 1 2 3, .tmap 0 1 2 3,
      .tmma 2 1 2 3 0, .tmma 0 1 2 3 4, .tmma 1 1 2 3 4, .tred 7 1 2, .tred 3 1 2, .tidx 5 1 2 3 0, .tidx 0 1 2 3 0, .tidx 3 1 2 3 1, .tcvt 7 1 2, .tcvt 44 1 2, .tadam 1 2 3 4,
      .tldp 1 2 3 4, .mma 8 1 2, .mfmt 1 (.imm 0x10000), .mdrain 5 1 (.ring 2), .mdrain 16 1 (.pool 2 3), .tel 2 1, .teln 2 1 2 3, .mig 9 ⟨1, 0⟩, .migC 9 1, .rcbopGet 1 2 (.imm 32),
      .sleep 2 (.reg 1), .dseedT 1 ⟨2, 3, 4, .reg 5⟩, .sget 1 0xFFF, .sput 1 0xFFF, .tlbiAll 6, .tlbiRange 0 1 2 3, .lstat 1 (.imm 8), .lstatD 1 (.imm 1024),
      .coldReset] : List Instr).all (fun i => !WellFormed ⟨false, none, i⟩) = true := by decide +kernel

/-- Words of majors 0x00 to 0x0F. -/
theorem test_decode_scalar0 :
    [(16, 0x0, .nop),
     (32, 0x202510E6, .add 4 5 6 (.reg 7)),
     (32, 0x204514E6, .sub 5 5 6 (.reg 7)),
     (32, 0x206504E6, .mul 1 5 6 (.reg 7)),
     (32, 0x20850CE6, .mulh 3 5 6 (.reg 7)),
     (32, 0x20A508E6, .div 2 5 6 (.reg 7)),
     (32, 0x20C504E6, .rem 1 5 6 (.reg 7)),
     (32, 0x20E504E6, .and 1 5 6 (.reg 7)),
     (32, 0x210504E6, .or 1 5 6 (.reg 7)),
     (32, 0x212504E6, .xor 1 5 6 (.reg 7)),
     (32, 0x214504E6, .andn 1 5 6 (.reg 7)),
     (32, 0x216504E6, .shl 1 5 6 (.reg 7)),
     (32, 0x218504E6, .shr 1 5 6 (.reg 7)),
     (32, 0x21A504E6, .sar 1 5 6 (.reg 7)),
     (32, 0x21C504E6, .rol 1 5 6 (.reg 7)),
     (32, 0x21E508E6, .min 2 5 6 (.reg 7))].all (fun e => decodeTableWord e.1 e.2.1 == some e.2.2) = true := by decide

/-- Words of majors 0x10 to 0x23. -/
theorem test_decode_scalar1 :
    [(32, 0x22050CE6, .max 3 5 6 (.reg 7)),
     (32, 0x22250806, .bcnt 2 5 6),
     (32, 0x22450406, .brev 1 5 6),
     (32, 0x226504E6, .fext 1 5 6 (.reg 7)),
     (32, 0x228500E6, .fins 5 6 (.reg 7)),
     (32, 0x22A51406, .sext 5 5 6),
     (32, 0x22E544E6, .sel 17 5 6 7),
     (32, 0x23050CE6, .lea 3 5 6 (.reg 7)),
     (32, 0x232550E6, .cmp 20 5 6 (.reg 7)),
     (32, 0x234518E6, .plog 6 5 6 7),
     (32, 0x23650006, .pmov 5 6),
     (32, 0x23650406, .pmovP 5 6),
     (32, 0x23650800, .pmovGp 5),
     (32, 0x23600C06, .pmovSp 6),
     (32, 0x23E50006, .jr 5 6),
     (32, 0x246508E6, .paddr 2 5 6 (.reg 7))].all (fun e => decodeTableWord e.1 e.2.1 == some e.2.2) = true := by decide

/-- Words of majors 0x16 to 0x22. -/
theorem test_decode_scalar2 :
    [(48, 0x42C5FFFD0800, .li 2 5 (-3)),
     (48, 0x439200000124, .br 18 ⟨9, 4⟩),
     (48, 0x43A000000124, .jmp ⟨9, 4⟩),
     (48, 0x43C500000124, .call 5 ⟨9, 4⟩),
     (48, 0x440500000124, .loop 5 ⟨9, 4⟩),
     (48, 0x442500180000, .getc 5 0x018),
     (48, 0x444000190006, .putc 6 0x019)].all (fun e => decodeTableWord e.1 e.2.1 == some e.2.2) = true := by decide

/-- Words of majors 0x34 to 0x38. -/
theorem test_decode_memory0 :
    [(32, 0x268514E6, .ldg 5 5 6 7 0),
     (32, 0x26A510E6, .sts 4 5 6 7 0),
     (32, 0x290520E6, .amo 8 5 ⟨6, 0⟩ 7 0),
     (32, 0x292504E6, .cas 1 5 ⟨6, 0⟩ 7 0),
     (32, 0x294024E6, .red 9 ⟨6, 0⟩ 7),
     (32, 0x2965A4E6, .redv 41 5 ⟨6, 0⟩ 7),
     (32, 0x2A250006, .pend 5 ⟨6, 0⟩),
     (32, 0x2A250406, .pendC 5 ⟨6, 0⟩),
     (48, 0x4605FFF81806, .ld 6 5 ⟨6, -8⟩),
     (48, 0x462500080C06, .st 3 5 ⟨6, 8⟩),
     (48, 0x464500081466, .ldv 5 5 ⟨6, 8⟩ 3),
     (48, 0x466500081866, .stv 6 5 ⟨6, 8⟩ 3),
     (48, 0x46C500082006, .ldm 8 5 ⟨6, 8⟩),
     (48, 0x46E000080806, .pref 2 ⟨6, 8⟩),
     (48, 0x470000080006, .cmoClean ⟨6, 8⟩),
     (48, 0x470000080406, .cmoFlush ⟨6, 8⟩)].all (fun e => decodeTableWord e.1 e.2.1 == some e.2.2) = true := by decide

/-- Words of majors 0x38 to 0x50. -/
theorem test_decode_memory1 :
    [(48, 0x470000080806, .cmoInval ⟨6, 8⟩),
     (48, 0x470000080C06, .cmoZero ⟨6, 8⟩),
     (80, 0x690500000008006828E6, .amo 10 5 ⟨6, 8⟩ 7 8),
     (48, 0x498500080406, .acq 1 5 ⟨6, 8⟩),
     (48, 0x49A500080406, .rel 1 5 ⟨6, 8⟩),
     (48, 0x49C500080006, .bar 5 ⟨6, 8⟩),
     (48, 0x49C500080406, .barN 5 ⟨6, 8⟩),
     (80, 0x69E500000008086824E6, .waitw 9 5 ⟨6, 8⟩ 7 8 2),
     (48, 0x4A0000080006, .wake ⟨6, 8⟩),
     (48, 0x4A0000080406, .wakeT ⟨6, 8⟩)].all (fun e => decodeTableWord e.1 e.2.1 == some e.2.2) = true := by decide

/-- Words of majors 0x60 to 0x6A. -/
theorem test_decode_fence_vector0 :
    [(32, 0x2C000C00, .fenceFull 3),
     (32, 0x2C002C00, .fenceAcq 3),
     (32, 0x2C004C00, .fenceRel 3),
     (32, 0x2C006000, .fenceAck),
     (32, 0x2C200C00, .icsync 3),
     (32, 0x2C202CE6, .icsyncRanged 3 6 7),
     (32, 0x2C4504E6, .pgmode true 5 6 7),
     (32, 0x2C4508E0, .pgmodeCf 5 7),
     (32, 0x2C6504E6, .pgmig true 5 6 7),
     (32, 0x2C850006, .pgq 5 6),
     (32, 0x2C850406, .pgqL 5 6),
     (32, 0x2C850800, .pgqD 5),
     (32, 0x2D0524E6, .vcvt 9 5 6 7),
     (32, 0x2D2588E6, .vqntX 34 5 6 7),
     (32, 0x2D2518E6, .vqnt 6 5 6 7),
     (32, 0x2D4530E6, .vdq 12 5 6 7)].all (fun e => decodeTableWord e.1 e.2.1 == some e.2.2) = true := by decide

/-- Words of majors 0x6B to 0x7D. -/
theorem test_decode_fence_vector1 :
    [(32, 0x2D654806, .vsr 18 5 6),
     (32, 0x2D8008E6, .vhist 2 6 7),
     (32, 0x2E0504E6, .vadd 1 5 6 7 none),
     (32, 0x2E2504E6, .vsub 1 5 6 7 none),
     (32, 0x2E4504E6, .vmul 1 5 6 7 none),
     (32, 0x2E6538E6, .vfma 14 5 6 7 none),
     (32, 0x2E8514E6, .vmin 5 5 6 7 none),
     (32, 0x2EA518E6, .vmax 6 5 6 7 none),
     (32, 0x2EC524E6, .vsgn 9 5 6 7 none),
     (32, 0x2EE50406, .vrcp 1 5 6 none),
     (32, 0x2F050406, .vrsq 1 5 6 none),
     (32, 0x2F250406, .vsqrt 1 5 6 none),
     (32, 0x2F4504E6, .vdiv 1 5 6 7 none),
     (32, 0x2F650406, .vexp2 1 5 6 none),
     (32, 0x2F850406, .vlog2 1 5 6 none),
     (32, 0x2FA528E6, .vcmp 10 5 6 7 none)].all (fun e => decodeTableWord e.1 e.2.1 == some e.2.2) = true := by decide

/-- Words of majors 0x7E to 0x6D. -/
theorem test_decode_fence_vector2 :
    [(32, 0x2FC524E6, .vsel 9 5 6 7),
     (32, 0x2FE518E6, .vlogic 6 5 6 7 none),
     (32, 0x300534E6, .vshift 13 5 6 (.reg 7) none),
     (32, 0x302558E6, .viop 22 5 6 7 none),
     (32, 0x304508E6, .vbcast 2 5 6 (.reg 7) none),
     (32, 0x306518E6, .vext 6 5 6 (.reg 7)),
     (32, 0x308508E6, .vins 2 5 6 (.reg 7)),
     (32, 0x30A50CE6, .vperm 3 5 6 7 none),
     (32, 0x30C54406, .vshuf 17 5 6 0 none),
     (32, 0x30E53806, .vred 14 5 6 none),
     (32, 0x310510E6, .vdot 4 5 6 7 none),
     (32, 0x312524E6, .klog 9 5 6 7),
     (32, 0x31451406, .kmov 5 5 6),
     (48, 0x4DA500440006, .hread 5 6 68),
     (48, 0x4DA500420406, .hreadC 5 6 66),
     (48, 0x4DA5FF600806, .hreadInit 5 6 (-160))].all (fun e => decodeTableWord e.1 e.2.1 == some e.2.2) = true := by decide

/-- Words of majors 0x70 to 0x8B. -/
theorem test_decode_fence_vector3 :
    [(80, 0x6E0500000000186204E6, .vadd 1 5 6 7 (some ⟨2, true⟩)),
     (80, 0x7005000000070C620406, .vshift 1 5 6 (.imm 7) (some ⟨2, false⟩)),
     (48, 0x5165FFFF0400, .vli 1 5 (-1) none)].all (fun e => decodeTableWord e.1 e.2.1 == some e.2.2) = true := by decide

/-- Words of majors 0xA0 to 0xA3. -/
theorem test_decode_tile0 :
    [(32, 0x34050006, .tdecl 5 6),
     (32, 0x34050406, .tdeclU 5 6),
     (32, 0x35050C06, .tunp 3 5 6),
     (32, 0x360514E6, .tew 5 5 6 7 0),
     (32, 0x362524E6, .tmap 9 5 6 7),
     (32, 0x364500E6, .tmma 0 5 6 7 0),
     (32, 0x36651406, .tred 5 5 6),
     (32, 0x36A58406, .tcvt 33 5 6),
     (32, 0x36C500E6, .tforce 5 6 7),
     (32, 0x36C50400, .tforceM 5),
     (32, 0x36C50806, .tforceQ 5 6),
     (32, 0x36E50000, .thclr 5),
     (32, 0x36E00400, .thclrAll),
     (80, 0x742500000000246800E6, .tld 5 ⟨6, 7, 8, .reg 9⟩),
     (80, 0x744500ABCDEF806800E6, .tst 5 ⟨6, 7, 8, .imm 0xABCDEF⟩),
     (80, 0x746000000000246800E6, .tdrop ⟨6, 7, 8, .reg 9⟩)].all (fun e => decodeTableWord e.1 e.2.1 == some e.2.2) = true := by decide

/-- Words of majors 0xA3 to 0xBB. -/
theorem test_decode_tile1 :
    [(80, 0x746000000000246804E6, .tdropAll ⟨6, 7, 8, .reg 9⟩),
     (80, 0x748500000000246800E6, .tqry 5 ⟨6, 7, 8, .reg 9⟩),
     (80, 0x74A500000000246800E6, .twait 5 ⟨6, 7, 8, .reg 9⟩),
     (80, 0x74C500000000006840E6, .tget 16 5 6 7 8),
     (80, 0x74E50000000024681CE6, .tstv 7 5 ⟨6, 7, 8, .reg 9⟩),
     (48, 0x5685FFFF08E6, .tidx 2 5 6 7 (-1)),
     (80, 0x770500000000006800E6, .tadam 5 6 7 8),
     (48, 0x572500090006, .tfill 5 6 9),
     (80, 0x7745FFFFFFC0006000E6, .tldp 5 6 7 (-64)),
     (80, 0x776500000040006000E6, .tstp 5 6 7 64)].all (fun e => decodeTableWord e.1 e.2.1 == some e.2.2) = true := by decide

/-- Words of majors 0xC0 to 0xCA. -/
theorem test_decode_engine0 :
    [(32, 0x38050806, .mringSet 2 5 6),
     (32, 0x38051806, .mringPush 2 5 6),
     (32, 0x38052800, .mringRst 2 5),
     (32, 0x38291400, .mma 5 1 2),
     (32, 0x38450006, .mfmt 5 (.reg 6)),
     (32, 0x38450400, .mfmtQ 5),
     (32, 0x386500E6, .mepi 5 6 7),
     (32, 0x38650400, .mepiRst 5),
     (32, 0x388518E6, .mdrain 6 5 (.pool 6 7)),
     (32, 0x38A50000, .mstat 5),
     (32, 0x38A50406, .mstatR 5 6),
     (32, 0x38A50800, .mstatC 5),
     (32, 0x39000406, .tel 1 6),
     (32, 0x392504E6, .teln 1 5 6 7),
     (32, 0x39450000, .telq 5),
     (32, 0x39450400, .telqW 5)].all (fun e => decodeTableWord e.1 e.2.1 == some e.2.2) = true := by decide

/-- Words of majors 0xCB to 0xD1. -/
theorem test_decode_engine1 :
    [(16, 0x1960, .ueret),
     (32, 0x39850006, .spawn 5 6),
     (32, 0x39A01C06, .mig 7 ⟨6, 0⟩),
     (32, 0x39A05C06, .migC 7 6),
     (16, 0x19C0, .exit),
     (16, 0x19E0, .yield),
     (32, 0x3A000006, .post 6),
     (32, 0x3A050406, .postN 5 6),
     (32, 0x3A000806, .postR 6),
     (32, 0x3A050C06, .postRn 5 6),
     (32, 0x3A2500E6, .rcbopGet 5 6 (.reg 7)),
     (32, 0x3A2504E6, .rcbopSet 5 6 (.reg 7)),
     (32, 0x3A2508E6, .rcbopCreate 5 6 7),
     (32, 0x3A250C06, .rcbopHold 5 6),
     (32, 0x3A251006, .rcbopRelease 5 6),
     (32, 0x3A251406, .rcbopRetire 5 6)].all (fun e => decodeTableWord e.1 e.2.1 == some e.2.2) = true := by decide

/-- Words of majors 0xD2 to 0xE0. -/
theorem test_decode_engine2 :
    [(32, 0x3A4004E0, .sleep 1 (.reg 7)),
     (32, 0x3A650006, .join 5 6),
     (32, 0x3A650406, .joinQ 5 6),
     (32, 0x3B850006, .dreg 5 6),
     (32, 0x3B850406, .dregU 5 6),
     (32, 0x3B850806, .dregQ 5 6),
     (32, 0x3BA00000, .dmodeFwd),
     (32, 0x3BA00400, .dmodeRev),
     (32, 0x3BA50800, .dmodeQ 5),
     (32, 0x3BC50006, .dadj 5 6),
     (32, 0x3BC50406, .dadjL 5 6),
     (32, 0x3BC50806, .dadjX 5 6),
     (32, 0x3BC50C06, .dadjP 5 6),
     (32, 0x3BE000E6, .dseed 6 7),
     (32, 0x3BE004E6, .dseedV 6 7),
     (32, 0x3C050000, .tapeMark 5)].all (fun e => decodeTableWord e.1 e.2.1 == some e.2.2) = true := by decide

/-- Words of majors 0xE0 to 0xE1. -/
theorem test_decode_engine3 :
    [(32, 0x3C050400, .tapePop 5),
     (32, 0x3C050806, .tapeRewind 5 6),
     (32, 0x3C050C00, .tapeQuery 5),
     (32, 0x3C250006, .dclr 5 6),
     (32, 0x3C2504E6, .dclrR 5 6 7),
     (80, 0x7885000000002468C0E6, .mdrain 0x30 5 (.tile ⟨6, 7, 8, .reg 9⟩)),
     (80, 0x7BE500000000246808E6, .dseedT 5 ⟨6, 7, 8, .reg 9⟩),
     (80, 0x7C2000000000246808E6, .dclrT ⟨6, 7, 8, .reg 9⟩)].all (fun e => decodeTableWord e.1 e.2.1 == some e.2.2) = true := by decide

/-- Words of majors 0xE6 to 0xED. -/
theorem test_decode_system0 :
    [(16, 0x1CC0, .eret),
     (32, 0x3D200C00, .tlbiAll 3),
     (32, 0x3D202C06, .tlbiAsid 3 6),
     (32, 0x3D204CE6, .tlbiVa 3 6 7),
     (32, 0x3D450006, .ctxsw 5 6),
     (32, 0x3D450406, .ctxswFl 5 6),
     (32, 0x3D450806, .ctxswQ 5 6),
     (32, 0x3D650006, .preempt 5 6),
     (32, 0x3D650406, .preemptH 5 6),
     (32, 0x3D850006, .gangHalt 5 6),
     (32, 0x3D850406, .gangResume 5 6),
     (32, 0x3D850806, .gangRead 5 6),
     (32, 0x3DA50006, .keyopGen 5 6),
     (32, 0x3DA504E6, .keyopLoad 5 6 7),
     (32, 0x3DA50806, .keyopClr 5 6),
     (32, 0x3DA50C06, .keyopQ 5 6)].all (fun e => decodeTableWord e.1 e.2.1 == some e.2.2) = true := by decide

/-- Words of majors 0xEE to 0xFA. -/
theorem test_decode_system1 :
    [(32, 0x3DC50006, .capr 5 6),
     (32, 0x3DC50406, .caprF 5 6),
     (32, 0x3DE50000, .errqPop 5),
     (32, 0x3DE50400, .errqQ 5),
     (32, 0x3DE50806, .errqInj 5 6),
     (16, 0x1E00, .wfe),
     (32, 0x3F0500E6, .abind 5 6 7),
     (32, 0x3F050406, .abindU 5 6),
     (32, 0x3F050806, .abindS 5 6),
     (32, 0x3F050C06, .abindSu 5 6),
     (32, 0x3F0510E6, .abindX 5 6 7),
     (32, 0x3F0514E6, .abindRt 5 6 7),
     (32, 0x3F051806, .abindLf 5 6),
     (32, 0x3F250006, .xred 5 6),
     (32, 0x3F250406, .xredMax 5 6),
     (32, 0x3F450006, .lstat 5 (.reg 6))].all (fun e => decodeTableWord e.1 e.2.1 == some e.2.2) = true := by decide

/-- Words of majors 0xFA to 0xE9. -/
theorem test_decode_system2 :
    [(32, 0x3F450406, .lstatD 5 (.reg 6)),
     (32, 0x3F450800, .lstatH 5),
     (48, 0x5C80004D0000, .trap 77),
     (48, 0x5C80004D0406, .trapRet 6 77),
     (48, 0x5CA0004D0000, .sysc 77),
     (48, 0x5CA0004D0400, .syscFw 77),
     (48, 0x5CE501040000, .sget 5 0x104),
     (48, 0x5D0001050006, .sput 6 0x105),
     (80, 0x7D2000000000006868E6, .tlbiRange 2 6 7 8)].all (fun e => decodeTableWord e.1 e.2.1 == some e.2.2) = true := by decide


end Sys2Proof.Tests
end

section
/-! PROOFS. Memory as a run of bytes: a little-endian value and its bytes, what `write` puts at each address, and what is read back
(R2). -/

namespace Sys2Proof.Machine

/-! ## Bytes of a value -/

@[simp] theorem length_bytesOf (n v : Nat) : (bytesOf n v).length = n := by
  induction n generalizing v with
  | zero => rfl
  | succ n ih => simp [bytesOf, ih]

theorem getElem_bytesOf (n v k : Nat) (h : k < (bytesOf n v).length) : (bytesOf n v)[k] = BitVec.ofNat 8 (v / 2 ^ (8 * k)) := by
  induction n generalizing v k with
  | zero => simp at h
  | succ n ih =>
    cases k with
    | zero => simp [bytesOf]
    | succ k =>
      have shift : 2 ^ (8 * (k + 1)) = 256 * 2 ^ (8 * k) := by rw [Nat.mul_add, Nat.pow_add, Nat.mul_comm]
      simp [bytesOf, ih, shift, Nat.div_div_eq_div_mul]

/-- The bytes of a value have that value, up to their number. -/
theorem valueOf_bytesOf (n v : Nat) : valueOf (bytesOf n v) = v % 2 ^ (8 * n) := by
  induction n generalizing v with
  | zero => simp [bytesOf, valueOf, Nat.mod_one]
  | succ n ih =>
    have split : 2 ^ (8 * (n + 1)) = 256 * 2 ^ (8 * n) := by rw [Nat.mul_add, Nat.pow_add, Nat.mul_comm]
    simp [bytesOf, valueOf, ih, split, Nat.mod_mul]

/-! ## Reading -/

@[simp] theorem State.length_readBytes (s : State) (a n : Nat) : (s.readBytes a n).length = n := by
  induction n generalizing a with
  | zero => rfl
  | succ n ih => simp [State.readBytes, ih]

theorem State.getElem_readBytes (s : State) (a n k : Nat) (h : k < (s.readBytes a n).length) :
    (s.readBytes a n)[k] = s.byte (a + k) := by
  induction n generalizing a k with
  | zero => simp at h
  | succ n ih =>
    cases k with
    | zero => rfl
    | succ k => simp [State.readBytes, ih, Nat.add_assoc, Nat.add_comm 1 k]

/-! ## What a write leaves -/

theorem State.byte_write_self (s : State) (a n v k : Nat) (h : k < n) :
    (s.write a n v).byte (a + k) = BitVec.ofNat 8 (v / 2 ^ (8 * k)) :=
  (memGet_memPutList_self _ _ _ _ (by simpa using h)).trans (getElem_bytesOf n v k _)

theorem State.byte_write_other (s : State) (a n v k : Nat) (h : k < a ∨ a + n ≤ k) : (s.write a n v).byte k = s.byte k :=
  memGet_memPutList_other _ _ _ _ (by simpa using h)

theorem State.readBytes_write_self (s : State) (a n v : Nat) : (s.write a n v).readBytes a n = bytesOf n v := by
  refine List.ext_getElem (by simp) fun k hk _ => ?_
  rw [State.length_readBytes] at hk
  rw [State.getElem_readBytes, getElem_bytesOf, State.byte_write_self s a n v k hk]

theorem State.read_write_self (s : State) (a n v : Nat) : (s.write a n v).read a n = v % 2 ^ (8 * n) := by
  rw [State.read, State.readBytes_write_self, valueOf_bytesOf]

/-- Settles O60: the laws of `memPutList` said of `write`, whose run of bytes are those of its value. -/
theorem memoryReadsBackWrites : Obligations.MemoryReadsBackWrites := by
  intro s a n v
  exact ⟨s.read_write_self a n v, s.byte_write_self a n v, s.byte_write_other a n v, s.wf_write a n v, rfl⟩

end Sys2Proof.Machine
end

section
/-! PROOFS. Operations that write no memory: the pool cache, messages, translation caches and traps (R96 to R98, R370 to R374, R387). One
lemma each says that the bytes stay; a fold of such operations keeps them too. -/

namespace Sys2Proof.Machine

/-- What every step of a fold keeps, the fold keeps. -/
theorem foldl_keeps {α β γ : Type} (g : β → γ) (f : β → α → β) (h : ∀ b a, g (f b a) = g b) (l : List α) (b : β) :
    g (l.foldl f b) = g b := by
  induction l generalizing b with
  | nil => rfl
  | cons a r ih => rw [List.foldl_cons, ih, h]

theorem State.byte_congr {s t : State} (h : t.mem = s.mem) (k : Nat) : t.byte k = s.byte k := by
  rw [State.byte, State.byte, h]

/-! ## Contexts, messages and traps -/

@[simp] theorem State.done_mem (s : State) : s.done.mem = s.mem := rfl

@[simp] theorem State.startCopy_mem (s : State) (cell entry : Nat) : (s.startCopy cell entry).mem = s.mem := by
  unfold State.startCopy
  split <;> rfl

@[simp] theorem State.queueError_mem (s : State) (die : Nat) (w : Word) : (s.queueError die w).mem = s.mem := by
  simp only [State.queueError]
  split <;> rfl

@[simp] theorem State.firmwareTrap_mem (s : State) (tid : Nat) (epc : Word) (t : Trap) : (s.firmwareTrap tid epc t).mem = s.mem := by
  unfold State.firmwareTrap
  split
  · exact State.queueError_mem _ _ _
  · rfl

@[simp] theorem State.superTrap_mem (s : State) (tid : Nat) (epc : Word) (t : Trap) : (s.superTrap tid epc t).mem = s.mem := by
  simp only [State.superTrap]
  split
  · exact State.firmwareTrap_mem _ _ _ _
  · split
    · exact State.firmwareTrap_mem _ _ _ _
    · rfl

@[simp] theorem State.trapMe_mem (s : State) (t : Trap) : (s.trapMe t).mem = s.mem := by
  simp only [State.trapMe, State.trap]
  split
  · rfl
  · exact State.superTrap_mem _ _ _ _

/-! ## Translation caches -/

@[simp] theorem State.fillTlbs_mem (s : State) (core asid va : Nat) (l : Leaf) : (s.fillTlbs core asid va l).mem = s.mem := rfl

/-- A leaf with `A` and `D` set is left as it is (R386). -/
theorem State.touchLeaf_of_set (s : State) (l : Leaf) (h : (l.word.getLsbD 13 && l.word.getLsbD 12) = true) :
    s.touchLeaf l true = (l, s) := by
  obtain ⟨ha, hd⟩ := Bool.and_eq_true_iff.1 h
  have set : (2 ^ 13 + 2 ^ 12) ||| l.word.toNat = l.word.toNat := by
    have bits : 2 ^ 13 + 2 ^ 12 = 2 ^ 13 ||| 2 ^ 12 := by decide
    refine Nat.eq_of_testBit_eq fun i => ?_
    rw [bits, Nat.testBit_or, Nat.testBit_or, Nat.testBit_two_pow, Nat.testBit_two_pow]
    by_cases h13 : 13 = i
    · subst h13; simp [show l.word.toNat.testBit 13 from ha]
    · by_cases h12 : 12 = i
      · subst h12; simp [show l.word.toNat.testBit 12 from hd]
      · simp [h13, h12]
  simp only [State.touchLeaf, if_true, set]

/-- The end of the phase writes no memory where no `A` or `D` bit has to be set (R98). -/
theorem State.settleLanes_mem (s : State) (c : Ctx) (ps : List LaneOk) (ha : ∀ l ∈ ps, l.adj = none)
    (hl : ∀ l ∈ ps, ∀ e, l.place.leaf = some e → e.word.getLsbD 13 && e.word.getLsbD 12) : (s.settleLanes c true ps).mem = s.mem := by
  have settle_mem : ∀ (t : State) (p : Place), (∀ e, p.leaf = some e → e.word.getLsbD 13 && e.word.getLsbD 12) →
      (t.settle c.core c.asid true p).mem = t.mem := by
    intro t p hp
    unfold State.settle
    split
    · rfl
    · rename_i e he
      simp [State.touchLeaf_of_set t e (hp e he)]
  induction ps generalizing s with
  | nil => rfl
  | cons l r ih =>
    have rest := ih (s.settle c.core c.asid true l.place) (fun x hx => ha x (List.mem_cons_of_mem _ hx))
      fun x hx => hl x (List.mem_cons_of_mem _ hx)
    rw [settle_mem s l.place (hl l List.mem_cons_self)] at rest
    simpa only [State.settleLanes, List.foldl_cons, ha l List.mem_cons_self] using rest

/-! ## The pool cache and the stores that leave the core -/

@[simp] theorem State.postWriteBack_mem (s : State) (tid : Option Nat) (core tag : Nat) (l : CacheLine) :
    (s.postWriteBack tid core tag l).mem = s.mem := by
  unfold State.postWriteBack
  split
  · rfl
  · cases tid <;> rfl

@[simp] theorem State.flushLine_mem (s : State) (tid : Option Nat) (core tag : Nat) : (s.flushLine tid core tag).mem = s.mem := by
  unfold State.flushLine
  split
  · rfl
  · exact State.postWriteBack_mem _ _ _ _ _

@[simp] theorem State.cacheRoom_mem (s : State) (core tag : Nat) : (s.cacheRoom core tag).mem = s.mem := by
  simp only [State.cacheRoom]
  split
  · rfl
  · split
    · rfl
    · split
      · exact State.flushLine_mem _ _ _ _
      · rfl

@[simp] theorem State.storeCached_mem (s : State) (core slot : Nat) (l : Lane) (v : Nat) : (s.storeCached core slot l v).mem = s.mem :=
  State.cacheRoom_mem _ _ _

@[simp] theorem State.updateCached_mem (s : State) (core : Nat) (l : Lane) (v : Nat) : (s.updateCached core l v).mem = s.mem := by
  unfold State.updateCached
  split <;> rfl

@[simp] theorem State.remoteStore_mem (s : State) (src : Src) (l : Lane) (v : Nat) : (s.remoteStore src l v).mem = s.mem := by
  simp only [State.remoteStore]
  split
  · rfl
  · split <;> rfl

@[simp] theorem State.postThrough_mem (s : State) (src : Src) (g : List (Lane × Nat)) : (s.postThrough src g).mem = s.mem := by
  have update (t : State) : (g.foldl (fun s e => s.updateCached src.core e.1 e.2) t).mem = t.mem :=
    foldl_keeps State.mem (fun (s : State) (e : Lane × Nat) => s.updateCached src.core e.1 e.2) (fun b e => b.updateCached_mem src.core e.1 e.2) g t
  have remote (t : State) : (g.foldl (fun s e => s.remoteStore src e.1 e.2) t).mem = t.mem :=
    foldl_keeps State.mem (fun (s : State) (e : Lane × Nat) => s.remoteStore src e.1 e.2) (fun b e => b.remoteStore_mem src e.1 e.2) g t
  simp only [State.postThrough]
  split
  · exact update s
  · split
    case h_5 => exact (remote _).trans (update s)
    all_goals exact update s

@[simp] theorem State.writeThrough_mem (s : State) (src : Src) (ls : List (Lane × Nat)) : (s.writeThrough src ls).mem = s.mem :=
  foldl_keeps State.mem _ (fun b g => b.postThrough_mem src g) _ s

theorem State.storeLane_mem {s t : State} {src : Src} {slot : Nat} {wt : Bool} {l : Lane} {v : Nat}
    (h : s.storeLane src slot wt l v = some t) : t.mem = s.mem := by
  unfold State.storeLane at h
  split at h
  · cases h; rfl
  · split at h
    · cases h
    · cases h; exact State.storeCached_mem _ _ _ _ _
  · cases h

/-- A forward store leaves memory as it is while its lanes are on their way or in the pool cache (R96, R97). -/
@[simp] theorem State.storeLanes_mem (s : State) (src : Src) (slot : Nat) (wt : Bool) (ls : List (Lane × Nat)) :
    (s.storeLanes src slot wt ls).mem = s.mem := by
  refine (State.writeThrough_mem _ _ _).trans (foldl_keeps (fun a : State × List (Lane × Nat) => a.1.mem) _ (fun a e => ?_) ls (s, []))
  split
  · exact State.storeLane_mem ‹_›
  · rfl

end Sys2Proof.Machine
end

section
/-! PROOFS. The forward forms of ST, STV and STS: each is `storeInstr` on the access that its fields give, and what that does where every lane
passes the address phase and pushes nothing (R98, R104 to R107). -/

namespace Sys2Proof.Machine

/-! ## The fields of the store forms -/

theorem accessSize_eq (f : F6) : accessSize f.toNat = sizeOf104 f := by
  revert f
  decide

theorem vectorLaneBytes_eq (f : F6) : vectorLaneBytes f = laneOf106 f := by
  revert f
  decide

theorem gatherLaneBytes_eq (f : F6) : gatherLaneBytes f = laneOf107 f := rfl

theorem sizeOf104_dvd (f : F6) : sizeOf104 f ∣ 8 := by
  revert f
  decide

theorem laneOf106_dvd (f : F6) : laneOf106 f ∣ 8 := by
  revert f
  decide

theorem laneOf107_dvd (f : F6) : laneOf107 f ∣ 8 := by
  revert f
  decide

/-- A lane of a register, as the spec cuts it out. -/
theorem Ctx.lane_eq_extract (c : Ctx) (w : Nat) (r : R5) (i : Nat) (hw : w ∣ 8) :
    c.lane (8 * w) r i = ((c.vr r).extractLsb' (8 * w * i) (8 * w)).toNat := by
  have pos : 0 < w := Nat.pos_of_dvd_of_pos hw (by decide)
  have width : 8 * w * i + 8 * w - 1 + 1 - 8 * w * i = 8 * w := by omega
  simp [Ctx.lane, laneOf, bitsOf, BitVec.extractLsb'_toNat, width]

/-- The two's-complement reading of a bit pattern's number is the pattern's (R67). -/
theorem signedOf_toNat {w : Nat} (x : BitVec w) (hw : 0 < w) : signedOf w x.toNat = x.toInt := by
  have double : 2 ^ w = 2 * 2 ^ (w - 1) := by rw [← Nat.pow_succ', Nat.succ_eq_add_one, Nat.sub_add_cancel hw]
  have cast : ((2 ^ w : Nat) : Int) = 2 ^ w := Nat.cast_pow 2 w
  have below := x.isLt
  simp only [signedOf, BitVec.toInt_eq_toNat_cond, Nat.mod_eq_of_lt below]
  split <;> split <;> omega

/-- Active lanes, listed by filter and map or at once. -/
theorem map_filter_eq_filterMap {α β : Type} (p : α → Bool) (g : α → β) (l : List α) :
    (l.filter p).map g = l.filterMap fun i => if p i then some (g i) else none := by
  rw [← List.filterMap_eq_map, List.filterMap_filter]
  rfl

theorem Ctx.vectorLanes_eq (c : Ctx) (f : F6) (a : R5) (m : MemOp) (k : R5) :
    c.vectorLanes f a m k = activeLanes c a m.b (laneOf106 f) (fun i => !f.getLsbD 2 || (c.kr k).getLsbD i)
      fun i => m.disp.toInt + i * laneOf106 f := by
  simp only [Ctx.vectorLanes, activeLanes, vectorLaneBytes_eq, map_filter_eq_filterMap, c.lane_eq_extract _ _ _ (laneOf106_dvd f)]

theorem Ctx.gatherLanes_eq (c : Ctx) (f : F6) (a b o k : R5) :
    c.gatherLanes f a b o k = activeLanes c a b (laneOf107 f) (fun i => !f.getLsbD 4 || (c.kr k).getLsbD i) fun i =>
      ((c.vr o).extractLsb' (8 * laneOf107 f * i) (8 * laneOf107 f)).toInt * 2 ^ (f.toNat / 2 % 4) := by
  have pos : 0 < laneOf107 f := Nat.pos_of_dvd_of_pos (laneOf107_dvd f) (by decide)
  have scale : bitsOf f.toNat 2 1 = f.toNat / 2 % 4 := by simp [bitsOf, Nat.shiftRight_eq_div_pow]
  simp only [Ctx.gatherLanes, activeLanes, gatherLaneBytes_eq, map_filter_eq_filterMap, scale,
    c.lane_eq_extract _ _ _ (laneOf107_dvd f), signedOf_toNat _ (Nat.mul_pos (by decide : 0 < 8) pos)]

/-- The register whose poison stops a store (R101). -/
abbrev storedReg (q : Access) : Dst := if q.vector then q.dst else .x q.reg 4 false

/-- Every store form is `storeInstr` on its access. -/
theorem exec_of_accessOf {s : State} {i : Instr} {q : Access} (h : accessOf true s.me i = some q) :
    ∃ pend, exec i s = .next (s.storeInstr q.w q.vector q.hint (storedReg q) pend q.lanes) := by
  simp only [accessOf, if_true] at h
  split at h
  case h_4 f a m =>
    cases h
    exact ⟨(·.pendX a), by rw [← accessSize_eq]; rfl⟩
  case h_5 f a m k =>
    cases h
    exact ⟨(·.pendV a), by rw [← Ctx.vectorLanes_eq, ← vectorLaneBytes_eq]; rfl⟩
  case h_6 f a b o k =>
    cases h
    exact ⟨(·.pendV a), by rw [← Ctx.gatherLanes_eq]; rfl⟩
  all_goals simp at h

/-- The lanes of a store form are of 1, 2, 4 or 8 bytes (R104, R106, R107). -/
theorem width_of_accessOf {s : State} {i : Instr} {q : Access} (h : accessOf true s.me i = some q) : q.w ∣ 8 := by
  simp only [accessOf, if_true] at h
  split at h
  case h_4 f a m => cases h; exact sizeOf104_dvd f
  case h_5 f a m k => cases h; exact laneOf106_dvd f
  case h_6 f a b o k => cases h; exact laneOf107_dvd f
  all_goals simp at h

/-! ## A forward store that pushes nothing -/

section Forward

variable {s : State} {w : Nat} {vector wt : Bool} {dst : Dst} {pend : Ctx → Ctx} {ls : List LaneAcc} {ps : List LaneOk}

theorem diffLanes_of_plain (ha : ∀ l ∈ ps, l.adj = none) : diffLanes ps = [] :=
  List.filter_eq_nil_iff.2 fun l hl => by simp [ha l hl]

theorem plainLanes_of_plain (ha : ∀ l ∈ ps, l.adj = none) : plainLanes ps = ps :=
  List.filter_eq_self.2 fun l hl => by simp [ha l hl]

/-- It ends the phase of its lanes, stores them, and goes on. -/
theorem storeInstr_forward (hr : s.me.rev = false) (hd : s.me.dataPoison dst = none) (hp : s.placeLanes s.me true w ls = .ok ps)
    (ha : ∀ l ∈ ps, l.adj = none) : s.storeInstr w vector wt dst pend ls =
      ((s.settleLanes s.me true ps).storeLanes (s.settleLanes s.me true ps).src s.me.slot wt
        (ps.map fun l => (l.place.lane, l.val))).done := by
  simp [State.storeInstr, hr, hd, hp, diffLanes_of_plain ha, plainLanes_of_plain ha]

theorem storeInstr_poisoned {a : Word} (hr : s.me.rev = false) (hd : s.me.dataPoison dst = some a) :
    s.storeInstr w vector wt dst pend ls = s.trapMe (poisonTrap 0 a) := by
  simp [State.storeInstr, hr, hd]

end Forward

end Sys2Proof.Machine
end

section
/-! PROOFS. Stores to scratchpads of the issuing thread's sector: the address phase passes and settles nothing, each lane goes to its bank
as a message, and the bank writes the bytes (R93, R95, R97, R98). -/

namespace Sys2Proof.Machine

/-! ## Pool addresses -/

/-- A pool address whose sum stays inside its pool resolves (R89, R90). -/
theorem resolve_pool {core : Nat} {base : Word} {disp : Int} {p : PoolAddr} (lane : Nat) (hb : base.getLsbD 63 = true)
    (hp : poolAddr base core = some p) (h0 : 0 ≤ p.off + disp) (h1 : p.off + disp < 2 ^ 17) :
    resolve core base disp lane = .ok (.pool { p with off := (p.off + disp).toNat }) := by
  have top : bitsOf base.toNat 63 62 = 2 ∨ bitsOf base.toNat 63 62 = 3 := by
    have odd : base.toNat / 2 ^ 63 % 2 = 1 := by simpa [BitVec.getLsbD, Nat.testBit_eq_decide_div_mod_eq] using hb
    simp only [bitsOf, Nat.shiftRight_eq_div_pow]
    omega
  have inside : ¬(p.off + disp < 0 ∨ p.off + disp ≥ 2 ^ 17) := by omega
  rcases top with top | top <;> simp only [resolve, top, hp, if_neg inside]

theorem poolCore_poolBase (q o : Nat) (ho : o < 2 ^ 17) : poolCore (poolBase q + o) = q := by
  simp only [poolCore, poolBase]
  omega

theorem poolBase_add_mod (q o : Nat) (ho : o < 2 ^ 17) : (poolBase q + o) % 2 ^ 17 = o := by
  simp only [poolBase]
  omega

/-- A pool begins at a multiple of every access width. -/
theorem mod_eq_zero_of_pool {q o w : Nat} (hw : w ∣ 8) (h : (poolBase q + o) % w = 0) : o % w = 0 := by
  have base : w ∣ poolBase q := hw.trans ⟨2 ^ 45 + q * 2 ^ 14, by simp only [poolBase]; omega⟩
  exact Nat.mod_eq_zero_of_dvd ((Nat.dvd_add_right base).1 (Nat.dvd_of_mod_eq_zero h))

/-! ## The address phase -/

/-- The offset in its pool that a lane of an access addresses. -/
def bankOff (p : PoolAddr) (l : LaneAcc) : Nat := (p.off + l.disp).toNat

/-- The lane that goes to the bank. -/
def bankLane (p : PoolAddr) (w : Nat) (l : LaneAcc) : Lane :=
  ⟨poolBase p.pkgCore + bankOff p l, ({ p with off := bankOff p l }).absolute.toNat, w, l.idx, 0, 0, 0, 0, false⟩

/-- What the phase answers for it: a place with no leaf, in no region. -/
def bankOk (p : PoolAddr) (w : Nat) (l : LaneAcc) : LaneOk :=
  ⟨{ lane := bankLane p w l, target := .hbm, far := false, leaf := none, region := none }, l.val, none⟩

section Near

variable {s : State} {p : PoolAddr} {w : Nat} {l : LaneAcc}

/-- What `NearPool` gives of a lane whose base is the pool address `p`: the sum stays inside the pool. -/
theorem bankOff_of_near (hp : poolAddr l.base s.me.core = some p)
    (h : NearPool s l.base l.disp w (poolBase p.pkgCore + bankOff p l)) :
    0 ≤ p.off + l.disp ∧ p.off + l.disp < 2 ^ 17 ∧ bankOff p l < 2 ^ 17 := by
  obtain ⟨p', hp', -, h0, h1⟩ := h.core
  cases hp.symm.trans hp'
  refine ⟨h0, h1, ?_⟩
  simp only [bankOff]
  omega

theorem placePool_near (hw : w ∣ 8) (a : Word) (hp : poolAddr l.base s.me.core = some p)
    (h : NearPool s l.base l.disp w (poolBase p.pkgCore + bankOff p l)) :
    s.placePool s.me { n := w, w := true, store := true } l.idx a { p with off := bankOff p l } = .ok (bankOk p w l).place := by
  obtain ⟨-, -, ho⟩ := bankOff_of_near hp h
  have core := poolCore_poolBase p.pkgCore _ ho
  have aligned := mod_eq_zero_of_pool hw h.aligned
  have sector := h.sector
  have space := h.space
  have free := h.free
  obtain ⟨r, e, split, lo, hi⟩ := h.pad
  rw [poolBase_add_mod _ _ ho] at lo hi
  rw [core] at sector space free split
  have pkg : ({ p with off := bankOff p l } : PoolAddr).pkgCore = p.pkgCore := rfl
  have accepts : s.bankRefuses p.pkgCore (bankOff p l) w s.me.asid = none := by
    simp [State.bankRefuses, split, space, Nat.not_lt.2 lo, Nat.not_lt.2 hi]
  simp [State.placePool, pkg, aligned, sector, accepts, free, lockHit, h.plain, regionOf, bankOk, bankLane]

theorem placeLane_near (hw : w ∣ 8) (hp : poolAddr l.base s.me.core = some p)
    (h : NearPool s l.base l.disp w (poolBase p.pkgCore + bankOff p l)) : s.placeLane s.me true w l = .ok (bankOk p w l) := by
  obtain ⟨h0, h1, -⟩ := bankOff_of_near hp h
  have place : s.place s.me { n := w, w := true, store := true } l.idx l.base l.disp = .ok (bankOk p w l).place := by
    simp only [State.place, resolve_pool l.idx h.form.1 hp h0 h1]
    exact placePool_near hw _ hp h
  simp only [State.placeLane, Bool.not_true, place]
  rfl

end Near

/-- Where every lane passes, the phase passes. -/
theorem allPass_map_ok {α β : Type} (f : α → Except Stop β) (g : α → β) (l : List α) (h : ∀ a ∈ l, f a = .ok (g a)) :
    allPass (l.map f) = .ok (l.map g) := by
  have results : l.map f = l.map fun a => .ok (g a) := List.map_congr_left h
  simp [allPass, results, stopsOf, List.filterMap_map, firstStop]

/-- Lanes in pools set no bit and fill no translation cache. -/
theorem settleLanes_bank (s : State) (c : Ctx) (p : PoolAddr) (w : Nat) (ls : List LaneAcc) :
    s.settleLanes c true (ls.map (bankOk p w)) = s := by
  induction ls with
  | nil => rfl
  | cons l r ih => exact ih

/-! ## On the way to the bank -/

/-- A store of one lane on its way to a bank. -/
def bankStoreEvent (src : Src) (e : Lane × Nat) : Event := .poolBankAccess ⟨src, [e.1], .none, true, false⟩ (.store [e.2] false)

theorem nearLane_bankLane {s : State} {p : PoolAddr} {w : Nat} {l : LaneAcc} (hw : w ∣ 8)
    (h : NearPool s l.base l.disp w (poolBase p.pkgCore + bankOff p l)) : nearLane s.src (bankLane p w l) = true := by
  have pos : 0 < w := Nat.pos_of_dvd_of_pos hw (by decide)
  have unbound : (0 == 2 ^ w - 1) = false := beq_false_of_ne (Nat.sub_pos_of_lt (Nat.one_lt_two_pow pos.ne')).ne
  have pool : isPool (poolBase p.pkgCore + bankOff p l) = true := by
    simp only [isPool, poolBase]
    exact decide_eq_true (by omega)
  simp [nearLane, laneRoute, laneBound, bankLane, unbound, pool, h.sector, State.src]

theorem State.post_foldl (s : State) (es : List Event) : es.foldl State.post s = { s with pending := s.pending ++ es } := by
  induction es generalizing s with
  | nil => simp
  | cons e r ih => simp [ih, State.post]

/-- Lanes to banks of the sector leave the core in order, and nothing is left to write through (R97). -/
theorem State.storeLanes_near (s : State) (src : Src) (slot : Nat) (wt : Bool) (ls : List (Lane × Nat))
    (h : ∀ e ∈ ls, nearLane src e.1 = true) :
    s.storeLanes src slot wt ls = { s with pending := s.pending ++ ls.map (bankStoreEvent src) } := by
  rw [← State.post_foldl]
  induction ls generalizing s with
  | nil => rfl
  | cons e r ih =>
    have near : laneRoute src.core { e.1 with kmask := 0 } = 1 := by simpa [nearLane] using h e List.mem_cons_self
    have first : s.storeLane src slot wt e.1 e.2 = some (s.post (bankStoreEvent src e)) := by simp only [State.storeLane, near, bankStoreEvent]
    have rest := ih (s.post (bankStoreEvent src e)) fun x hx => h x (List.mem_cons_of_mem _ hx)
    simpa only [State.storeLanes, List.foldl_cons, first, List.map_cons] using rest

/-- An instruction that sends messages and goes on. -/
theorem sends_done {i : Instr} {s : State} {es : List Event} (h : exec i s = .next ({ s with pending := s.pending ++ es } : State).done) :
    Sends i s id es :=
  have d := differs_setCtx { s with pending := s.pending ++ es } s.cur s.me.advance
  ⟨_, h, ⟨d.thread, d.others, by simp [State.done], rfl⟩⟩

/-- A store form whose lanes lie in scratchpads of its sector sends them to the banks. -/
theorem sends_of_near {s : State} {i : Instr} {q : Access} {p : PoolAddr} (hq : accessOf true s.me i = some q) (hr : s.me.rev = false)
    (hd : s.me.dataPoison (storedReg q) = none)
    (hl : ∀ l ∈ q.lanes, poolAddr l.base s.me.core = some p ∧ NearPool s l.base l.disp q.w (poolBase p.pkgCore + bankOff p l)) :
    Sends i s id (q.lanes.map fun l => bankStoreEvent s.src (bankLane p q.w l, l.val)) := by
  have hw := width_of_accessOf hq
  have pass : s.placeLanes s.me true q.w q.lanes = .ok (q.lanes.map (bankOk p q.w)) :=
    allPass_map_ok _ _ _ fun l hx => placeLane_near hw (hl l hx).1 (hl l hx).2
  obtain ⟨pend, he⟩ := exec_of_accessOf hq
  refine sends_done (he.trans ?_)
  rw [storeInstr_forward hr hd pass (by simp [bankOk]), settleLanes_bank, State.storeLanes_near]
  · simp [Function.comp_def, bankOk]
  · simp only [List.map_map, List.mem_map, forall_exists_index, and_imp, forall_apply_eq_imp_iff₂]
    exact fun l hx => nearLane_bankLane hw (hl l hx).2

/-! ## At the bank -/

/-- A byte of a value's low bytes. -/
theorem extractLsb'_byte (n v k : Nat) (hk : k < n) :
    (BitVec.ofNat (8 * n) v).extractLsb' (8 * k) 8 = BitVec.ofNat 8 (v / 2 ^ (8 * k)) := by
  refine BitVec.eq_of_getLsbD_eq fun i hi => ?_
  have inside : 8 * k + i < 8 * n := by omega
  simp only [BitVec.getLsbD_extractLsb', BitVec.getLsbD_ofNat, hi, inside, decide_true, Bool.true_and, Nat.testBit_div_two_pow,
    Nat.add_comm i]

theorem State.byte_writeMarked (s : State) (a n v : Nat) (bad : Bool) (k : Nat) :
    (s.writeMarked a n v bad).byte k = (s.write a n v).byte k := by
  cases bad <;> rfl

/-- Of the machine beside memory and its marks a write changes nothing. -/
theorem State.writeMarked_rest (s : State) (a n v : Nat) (bad : Bool) :
    { s.writeMarked a n v bad with mem := s.mem, poisoned := s.poisoned } = s := by
  cases bad <;> rfl

/-- An access from within the sector that was checked at issue is performed when its bank's core is there (R98). -/
theorem State.bankAnswer_near {s : State} {src : Src} {l : Lane} (store : Bool) (hn : nearLane src l = true)
    (hg : s.coreGone (poolCore l.pa) = false) : s.bankAnswer src false l store = .ok := by
  simp [State.bankAnswer, hn, hg]

theorem exec_bankStore_near {s : State} {src : Src} {l : Lane} (v : Nat) (hn : nearLane src l = true)
    (hg : s.coreGone (poolCore l.pa) = false) :
    exec (.poolBankAccess ⟨src, [l], .none, true, false⟩ (.store [v] false)) s = .next (s.writeMarked l.pa l.n v l.bad) := by
  change execPoolBankAccess _ _ s = _
  simp [execPoolBankAccess, State.bankSource, bankWrites, bankLate, State.atBank, State.bankStore, s.bankAnswer_near true hn hg]

/-- A store of one lane at a bank changes no byte outside the lane, whatever the bank answers (R93). -/
theorem State.byte_bankStore (s : State) (src : Src) (late : Bool) (l : Lane) (v k : Nat) (hk : k < l.pa ∨ l.pa + l.n ≤ k) :
    (s.bankStore src late l v).byte k = s.byte k := by
  unfold State.bankStore
  split
  · rw [State.byte_writeMarked, State.byte_write_other s _ _ _ _ hk]
  · rfl
  · rfl

/-- So do the stores of a message. -/
theorem State.byte_bankStores (s : State) (src : Src) (late : Bool) (ls : List (Lane × Nat)) (k : Nat)
    (hk : ∀ e ∈ ls, k < e.1.pa ∨ e.1.pa + e.1.n ≤ k) :
    (ls.foldl (fun (s : State) (e : Lane × Nat) => s.bankStore src late e.1 e.2) s).byte k = s.byte k := by
  induction ls generalizing s with
  | nil => rfl
  | cons e r ih =>
    rw [List.foldl_cons, ih _ fun x hx => hk x (List.mem_cons_of_mem _ hx), s.byte_bankStore src late _ _ k (hk e List.mem_cons_self)]

/-- A store that reaches a bank changes no byte outside its lanes. -/
theorem byte_exec_bankStore {s t : State} {q : MemReq} {vals : List Nat} {counted : Bool}
    (h : exec (.poolBankAccess q (.store vals counted)) s = .next t) (k : Nat) (hk : ∀ l ∈ q.lanes, k < l.pa ∨ l.pa + l.n ≤ k) :
    t.byte k = s.byte k := by
  change execPoolBankAccess _ _ s = _ at h
  have stores := s.byte_bankStores q.src counted (q.lanes.zip vals) k fun e he => hk e.1 (List.of_mem_zip he).1
  unfold execPoolBankAccess at h
  split at h
  · cases h
    exact State.byte_congr (State.startCopy_mem _ _ _) k
  · cases h
    cases counted <;> exact stores

end Sys2Proof.Machine
end

section
/-! PROOFS. The statements about stores (O6), from the laws of the store forms, of the near banks and of what writes no memory. -/

namespace Sys2Proof.Machine

theorem storesComplete : Claims.StoresComplete := by
  intro s f a b o k m i q ps _ hq hr hd hp ha
  obtain ⟨pend, he⟩ := exec_of_accessOf hq
  have ends := he.trans (congrArg _ (storeInstr_forward hr hd hp ha))
  exact ⟨ends, completesFrom_done ends⟩

theorem poolStoresAreSent : Claims.PoolStoresAreSent := by
  intro s f a b o k m
  exact ⟨fun q p hq hr hd hl => sends_of_near hq hr hd hl, fun q p hq hr hd hl => sends_of_near hq hr hd hl,
    fun q p hq hr hd hl => sends_of_near hq hr hd hl⟩

theorem poolStoreWritesBytes : Claims.PoolStoreWritesBytes := by
  intro s src l v hn hg
  refine ⟨_, exec_bankStore_near v hn hg, fun k hk => ?_, fun k hk => ?_, s.writeMarked_rest _ _ _ _⟩
  · rw [State.byte_writeMarked, s.byte_write_self _ _ _ _ hk, extractLsb'_byte _ _ _ hk]
  · rw [State.byte_writeMarked, s.byte_write_other _ _ _ _ hk]

/-- A forward store that pushes nothing leaves every byte, whether it is performed or its data register is poisoned (R96, R97, R101). -/
theorem exec_store_mem {s t : State} {i : Instr} {q : Access} {ps : List LaneOk} (hq : accessOf true s.me i = some q)
    (hr : s.me.rev = false) (hp : s.placeLanes s.me true q.w q.lanes = .ok ps) (ha : ∀ l ∈ ps, l.adj = none)
    (hl : ∀ l ∈ ps, ∀ e, l.place.leaf = some e → e.word.getLsbD 13 && e.word.getLsbD 12) (h : exec i s = .next t) : t.mem = s.mem := by
  obtain ⟨pend, he⟩ := exec_of_accessOf hq
  cases he.symm.trans h
  cases hd : s.me.dataPoison (storedReg q) with
  | some a => rw [storeInstr_poisoned hr hd, State.trapMe_mem]
  | none => rw [storeInstr_forward hr hd hp ha, State.done_mem, State.storeLanes_mem, s.settleLanes_mem _ _ ha hl]

theorem storeFrame : Claims.StoreFrame :=
  ⟨fun _ _ _ _ _ hq hr hp ha hl h => State.byte_congr (exec_store_mem hq hr hp ha hl h), fun _ _ _ _ _ h => byte_exec_bankStore h⟩

/-- Settles O6, claim by claim. -/
theorem stores : Obligations.Stores :=
  ⟨storesComplete, poolStoresAreSent, poolStoreWritesBytes, storeFrame⟩

end Sys2Proof.Machine
end

section
/-! PROOFS. The order among messages in flight (O56): when an older message blocks a younger one, which message is settled on for a choice,
and which VHIST a cell's unit grants (R14, R115, R119, R129, R164, R170, R197, R352, R412, log 3). -/

namespace Sys2Proof.Machine

/-! ## When an older message blocks a younger one -/

theorem spansMeet_iff (x z : Nat × Nat) : spansMeet x z = true ↔ x.1 < z.1 + z.2 ∧ z.1 < x.1 + x.2 := by
  simp [spansMeet]

theorem meet_iff (a b : Touch) :
    meet a b = true ↔ ∃ x ∈ a.spans, ∃ z ∈ b.spans, x.1 < z.1 + z.2 ∧ z.1 < x.1 + x.2 := by
  simp [meet, spansMeet_iff]

/-- Two accesses keep their order where they share a byte and one core sent both, or one is a step of the directory (R115, R164). -/
theorem State.blocks_touch_iff (s : State) {o y : Event} {a b : Touch} (ha : touchOf o = some a) (hb : touchOf y = some b) :
    s.blocks o y = true ↔ meet a b = true ∧ (a.kind = 3 ∨ b.kind = 3 ∨ a.core = b.core) := by
  simp [State.blocks, ha, hb, or_assoc]

/-- A drain waits for the write-backs of its cores, but for those that come after its release (R129, log 75). -/
theorem State.blocks_drainCompletion (s : State) {o : Event} {a : Touch} {j : Nat} {x : Job} (ha : touchOf o = some a) (hk : a.kind = 2)
    (hj : s.jobs.find? j = some x) (hc : a.core ∈ x.cores) (hr : afterRelease x a = false) : s.blocks o (.drainCompletion j) = true := by
  have untouched : touchOf (.drainCompletion j) = none := rfl
  simp [State.blocks, ha, untouched, hk, hj, hc, hr]

/-- Requests to a Mint keep their order where they are for one key (R232). -/
theorem State.blocks_mintKey_iff (s : State) (q q' : KeyReq) (data : List Byte) :
    (s.blocks (.mintReference q) (.mintReference q') = true ↔ q.key = q'.key) ∧
    (s.blocks (.mintReserve q) (.mintCreate q' data) = true ↔ q.key = q'.key) ∧
    (s.blocks (.mintDrop q) (.mintReference q') = true ↔ q.key = q'.key) := by
  simp [State.blocks, touchOf, mintKey]

/-- A VHIST waits for no older message: its unit's turn alone orders it (R197). -/
theorem State.blocks_vhistGrant (s : State) (o : Event) (tid cell a b c d) : s.blocks o (.vhistGrant tid cell a b c d) = false := by
  unfold State.blocks
  split
  · split <;> simp_all [mintKey]
  · rfl

/-! ## The message settled on -/

/-- No older message must be delivered before the `j`-th. -/
def State.Unpreceded (s : State) (j : Nat) : Prop :=
  ∀ i o y, i < j → s.pending[i]? = some o → s.pending[j]? = some y → s.blocks o y = false

theorem State.waitsForJob_eq_none {s : State} (hj : s.jobs = []) (e : Event) (ahead : Bool) : s.waitsForJob e ahead = none := by
  unfold State.waitsForJob
  split
  · rfl
  · simp [hj]

theorem lt_of_findIdx?_take {α : Type} {l : List α} {k j : Nat} {p : α → Bool} (h : (l.take k).findIdx? p = some j) :
    j < k ∧ j < l.length := by
  obtain ⟨hlt, -⟩ := List.findIdx?_eq_some_iff_getElem.1 h
  simpa using hlt

theorem State.settleOn_lt (s : State) (fuel : Nat) (ahead : Bool) (k : Nat) (hk : k < s.pending.length) :
    s.settleOn fuel ahead k < s.pending.length := by
  induction fuel generalizing ahead k with
  | zero => exact hk
  | succ fuel ih =>
    rw [State.settleOn]
    split
    · exact hk
    · split
      next hb => exact ih _ _ (lt_of_findIdx?_take hb).2
      · split
        · split
          next hi =>
            obtain ⟨hlt, -⟩ := List.findIdx?_eq_some_iff_getElem.1 hi
            exact ih _ _ hlt
          · exact hk
        · exact hk

/-- With no drain in progress, settling on a message goes on with an older one that blocks it, or stays where none does. -/
theorem State.settleOn_succ {s : State} (hj : s.jobs = []) {k : Nat} {e : Event} (he : s.pending[k]? = some e) (fuel : Nat) (ahead : Bool) :
    (∃ j o, j < k ∧ s.pending[j]? = some o ∧ s.blocks o e = true ∧
      s.settleOn (fuel + 1) ahead k = s.settleOn fuel (ahead || isWriteBack e) j) ∨
    (s.settleOn (fuel + 1) ahead k = k ∧ s.Unpreceded k) := by
  rw [State.settleOn]
  simp only [he, State.waitsForJob_eq_none hj]
  split
  next j hb =>
    obtain ⟨hlt, hblocks, -⟩ := List.findIdx?_eq_some_iff_getElem.1 hb
    obtain ⟨hk, hlen⟩ := lt_of_findIdx?_take hb
    rw [List.getElem_take] at hblocks
    exact .inl ⟨j, s.pending[j], hk, List.getElem?_eq_getElem hlen, hblocks, rfl⟩
  next hb =>
    refine .inr ⟨rfl, fun i o y hi ho hy => ?_⟩
    obtain rfl : e = y := Option.some.inj (he.symm.trans hy)
    refine List.findIdx?_eq_none_iff.1 hb o (List.mem_of_getElem? (i := i) ?_)
    rw [List.getElem?_take_of_lt hi, ho]

theorem State.settleOn_unpreceded {s : State} (hj : s.jobs = []) {fuel k : Nat} (hf : k < fuel) (hk : k < s.pending.length) (ahead : Bool) :
    s.Unpreceded (s.settleOn fuel ahead k) := by
  induction fuel generalizing ahead k with
  | zero => omega
  | succ fuel ih =>
    obtain ⟨j, _, hlt, -, -, heq⟩ | ⟨heq, hfree⟩ := State.settleOn_succ hj (List.getElem?_eq_getElem hk) fuel ahead
    · rw [heq]
      exact ih (by omega) (by omega) _
    · rwa [heq]

theorem State.settleOn_eq_self {s : State} (hj : s.jobs = []) {fuel k : Nat} {e : Event} (hf : 0 < fuel) (he : s.pending[k]? = some e)
    (hfree : s.Unpreceded k) (ahead : Bool) : s.settleOn fuel ahead k = k := by
  obtain ⟨fuel, rfl⟩ := Nat.exists_eq_add_one.2 hf
  obtain ⟨j, o, hlt, ho, hblocks, -⟩ | ⟨heq, -⟩ := State.settleOn_succ hj he fuel ahead
  · simp [hfree j o e hlt ho he] at hblocks
  · exact heq

/-! ## The grant of a statistics unit -/

/-- What has a rank at a cell's unit is a VHIST, and a rank counts cores of the cell (R197). -/
theorem State.histRank_eq_some {s : State} {e : Event} {cell r : Nat} (h : s.histRank e = some (cell, r)) :
    r < 8 ∧ ∃ tid a b c d, e = .vhistGrant tid cell a b c d := by
  unfold State.histRank at h
  split at h
  · simp only [Option.some.injEq, Prod.mk.injEq] at h
    obtain ⟨rfl, rfl⟩ := h
    exact ⟨Nat.mod_lt _ (by decide), _, _, _, _, _, rfl⟩
  · cases h

theorem State.grantFirst_eq_self {s : State} {k : Nat} (h : s.pending[k]?.bind s.histRank = none) : s.grantFirst k = k := by
  simp [State.grantFirst, h]

/-- Where the first VHIST of a rank at a cell's unit stands among the messages in flight. -/
def State.histAt (s : State) (cell r : Nat) : Option Nat := s.pending.findIdx? fun e => s.histRank e == some (cell, r)

theorem State.grantFirst_eq {s : State} {k cell r : Nat} (h : s.pending[k]?.bind s.histRank = some (cell, r)) :
    s.grantFirst k = ((List.range 8).findSome? (s.histAt cell)).getD k := by
  simp only [State.grantFirst, h]
  rfl

theorem State.histAt_ne_none {s : State} {i cell r : Nat} {o : Event} (ho : s.pending[i]? = some o) (hr : s.histRank o = some (cell, r)) :
    s.histAt cell r ≠ none := fun hnone => by
  simpa [hr] using List.findIdx?_eq_none_iff.1 hnone o (List.mem_of_getElem? ho)

/-- The `j`-th message is a VHIST, and no other at its cell's unit comes before it in round-robin order (R197). -/
def State.NextGrant (s : State) (j : Nat) : Prop :=
  ∃ f cell q, s.pending[j]? = some f ∧ s.histRank f = some (cell, q) ∧
    ∀ (i : Nat) (o : Event) (n : Nat), s.pending[i]? = some o → s.histRank o = some (cell, n) → q ≤ n

/-- The ranks are searched in rising order, and the one chosen has one of them. -/
theorem State.grantFirst_nextGrant {s : State} {k cell r : Nat} (h : s.pending[k]?.bind s.histRank = some (cell, r)) :
    s.NextGrant (s.grantFirst k) := by
  obtain ⟨e, he, hr⟩ := Option.bind_eq_some_iff.1 h
  cases hfind : (List.range 8).findSome? (s.histAt cell) with
  | none =>
    have rank_lt : r < 8 := (State.histRank_eq_some hr).1
    exact absurd (List.findSome?_eq_none_iff.1 hfind r (List.mem_range.2 rank_lt)) (State.histAt_ne_none he hr)
  | some j =>
    obtain ⟨before, q, after, hsplit, hq, hbefore⟩ := List.findSome?_eq_some_iff.1 hfind
    obtain ⟨hlt, hrank, -⟩ := List.findIdx?_eq_some_iff_getElem.1 hq
    have granted : s.grantFirst k = j := by rw [State.grantFirst_eq h, hfind, Option.getD_some]
    refine ⟨s.pending[j], cell, q, by rw [granted, List.getElem?_eq_getElem hlt], by simpa using hrank, fun i o n ho hn => ?_⟩
    have sorted : (before ++ q :: after).Pairwise (· < ·) := hsplit ▸ List.pairwise_lt_range
    have hmem : n ∈ before ++ q :: after := hsplit ▸ List.mem_range.2 (State.histRank_eq_some hn).1
    obtain hin | rfl | hin : n ∈ before ∨ n = q ∨ n ∈ after := by simpa using hmem
    · exact absurd (hbefore n hin) (State.histAt_ne_none ho hn)
    · exact le_rfl
    · exact Nat.le_of_lt ((List.pairwise_cons.1 (List.pairwise_append.1 sorted).2.1).1 n hin)

/-! ## The message delivered -/

/-- A choice delivers the message settled on, or a VHIST of least rank at a cell's unit. -/
theorem State.choose_cases (s : State) (k : Nat) :
    (s.choose k = s.settleOn (2 * s.pending.length) false (k % s.pending.length) ∧ s.pending[s.choose k]?.bind s.histRank = none) ∨
    s.NextGrant (s.choose k) := by
  cases h : s.pending[s.settleOn (2 * s.pending.length) false (k % s.pending.length)]?.bind s.histRank with
  | none =>
    have same := State.grantFirst_eq_self h
    exact .inl ⟨same, by rw [State.choose, same, h]⟩
  | some p => exact .inr (State.grantFirst_nextGrant h)

theorem State.choose_lt (s : State) (k : Nat) (h : s.pending ≠ []) : s.choose k < s.pending.length := by
  obtain ⟨heq, -⟩ | ⟨_, _, _, hf, -, -⟩ := s.choose_cases k
  · rw [heq]
    exact s.settleOn_lt _ _ _ (Nat.mod_lt _ (List.length_pos_iff.2 h))
  · exact (List.getElem?_eq_some_iff.1 hf).1

theorem State.choose_unpreceded {s : State} (hj : s.jobs = []) (k : Nat) : s.Unpreceded (s.choose k) := by
  intro i o y hi ho hy
  obtain ⟨heq, -⟩ | ⟨f, _, _, hf, hrank, -⟩ := s.choose_cases k
  · have hlen : k % s.pending.length < s.pending.length := Nat.mod_lt _ (by have := (List.getElem?_eq_some_iff.1 hy).1; omega)
    exact (heq ▸ State.settleOn_unpreceded hj (by omega) hlen false : s.Unpreceded (s.choose k)) i o y hi ho hy
  · obtain rfl : f = y := Option.some.inj (hf.symm.trans hy)
    obtain ⟨-, _, _, _, _, _, rfl⟩ := State.histRank_eq_some hrank
    exact s.blocks_vhistGrant o _ _ _ _ _ _

/-- Any message that no older one must precede can be the one delivered, but that the VHISTs at a unit keep their turn. -/
theorem State.choose_eq_self {s : State} (hj : s.jobs = []) {k : Nat} {y : Event} (hy : s.pending[k]? = some y) (hfree : s.Unpreceded k)
    (hr : s.histRank y = none) : s.choose k = k := by
  have hk : k < s.pending.length := (List.getElem?_eq_some_iff.1 hy).1
  have settled : s.settleOn (2 * s.pending.length) false (k % s.pending.length) = k := by
    rw [Nat.mod_eq_of_lt hk]
    exact State.settleOn_eq_self hj (by omega) hy hfree false
  rw [State.choose, settled]
  exact State.grantFirst_eq_self (by simp [hy, hr])

theorem State.choose_least_rank {s : State} {k i cell r n : Nat} {o y : Event} (hy : s.pending[s.choose k]? = some y)
    (hr : s.histRank y = some (cell, r)) (ho : s.pending[i]? = some o) (hn : s.histRank o = some (cell, n)) : r ≤ n := by
  obtain ⟨-, hnone⟩ | ⟨f, cell', q, hf, hq, least⟩ := s.choose_cases k
  · simp [hy, hr] at hnone
  · obtain rfl : f = y := Option.some.inj (hf.symm.trans hy)
    obtain ⟨rfl, rfl⟩ : cell' = cell ∧ q = r := by simpa [hq] using hr
    exact least i o n ho hn

/-- Settles O56, clause by clause: what is chosen is unpreceded (`State.choose_unpreceded`), and `State.blocks` says what precedes what. -/
theorem messageOrder : Obligations.MessageOrder := by
  intro s k i job o y a b
  refine ⟨s.choose_lt k, fun hj hi ho hy => State.choose_unpreceded hj k i o y hi ho hy, fun hj hy hfree hr => ?_,
    fun cell r n hy hr ho hn => State.choose_least_rank hy hr ho hn, fun ha hb => ?_,
    fun x ha hk hx hc hr => s.blocks_drainCompletion ha hk hx hc hr, fun l m l' m' => ?_, fun m m' => ?_, s.blocks_mintKey_iff,
    fun tid core asid r => ?_, fun q vals op core tid line key d m nc pois die => ⟨rfl, rfl, rfl, rfl⟩⟩
  · refine State.choose_eq_self hj hy (fun n e y' hn he hy' => ?_) hr
    obtain rfl : y = y' := Option.some.inj (hy.symm.trans hy')
    exact hfree n e hn he
  · rw [s.blocks_touch_iff ha hb, meet_iff]
  all_goals simp [State.blocks, touchOf]

end Sys2Proof.Machine
end

section
/-! PROOFS. Errors, throttling and boot (O49): how a corrected error is counted (R391, R392, R408), and what the writes of a die's registers
leave as firmware brings the device up (R378, R379, R394, R397). -/

namespace Sys2Proof.Machine

/-! ## Corrected errors -/

/-- How many corrected errors of a location a window then holds (R391). -/
def Die.tally (d : Die) (cls inst loc : Nat) : Nat :=
  ((d.errCounts.find? fun e => e.1 == cls && e.2.1 == inst && e.2.2.1 == loc).map fun e => e.2.2.2).getD 0 + 1

/-- A die that has counted a corrected error of a location (R391). -/
def Die.counting (d : Die) (cls inst loc : Nat) : Die :=
  { d with errCounts := (d.errCounts.filter fun e => !(e.1 == cls && e.2.1 == inst && e.2.2.1 == loc)) ++ [(cls, inst, loc, d.tally cls inst loc)] }

theorem State.queueError_of_room {s : State} {die : Nat} (w : Word) (h : (s.die die).errq.length < Config.errorQueue) :
    s.queueError die w = (s.setDie die { s.die die with errq := (s.die die).errq ++ [w] }).wakeEvents die :=
  if_pos h

theorem State.queueError_of_full {s : State} {die : Nat} (w : Word) (h : Config.errorQueue ≤ (s.die die).errq.length) :
    s.queueError die w = s.setDie die { s.die die with errOverflow := (s.die die).errOverflow + 1 } :=
  if_neg (Nat.not_lt.2 h)

@[simp] theorem State.wakeEvents_die (s : State) (k die : Nat) : (s.wakeEvents k).die die = s.die die := rfl

/-- An error that is queued leaves what is armed. -/
@[simp] theorem State.queueError_armed (s : State) (die : Nat) (w : Word) : ((s.queueError die w).die die).armed = (s.die die).armed := by
  obtain h | h := Nat.lt_or_ge (s.die die).errq.length Config.errorQueue
  · simp [State.queueError_of_room w h]
  · simp [State.queueError_of_full w h]

/-- The fourth corrected error of a window queues an entry of kind 1; another is only counted (R391). -/
theorem State.countError_eq (s : State) (die cls inst loc : Nat) : s.countError die cls inst loc =
    if (s.die die).tally cls inst loc = 4 then
      (s.setDie die ((s.die die).counting cls inst loc)).queueError die (errorEntry 1 cls inst loc 4)
    else s.setDie die ((s.die die).counting cls inst loc) := by
  split
  next h =>
    change (if (s.die die).tally cls inst loc = 4 then _ else _) = _
    rw [if_pos h, ← h]
    rfl
  next h => exact if_neg h

theorem State.countError_armed (s : State) (die cls inst loc : Nat) :
    ((s.countError die cls inst loc).die die).armed = (s.die die).armed := by
  rw [State.countError_eq]
  split <;> simp [Die.counting]

/-- Only an error of a device-link lane counts at a link (R425). -/
theorem State.laneError_of_ne {cls : Nat} (s : State) (inst : Nat) (h : cls ≠ 9) : s.laneError cls inst = s := if_neg h

theorem exec_softErrorCorrected_unarmed {s : State} {die cls inst loc : Nat} (hc : cls ≠ 9) (ha : (cls, inst, loc) ∉ (s.die die).armed) :
    exec (.softErrorCorrected die cls inst loc) s = .next (s.countError die cls inst loc) := by
  change execSoftErrorCorrected die cls inst loc s = _
  simp [execSoftErrorCorrected, State.laneError_of_ne _ _ hc, State.countError_armed, ha]

/-- An armed error that shows is disarmed and queues an entry of kind 3 (R408). -/
theorem exec_softErrorCorrected_armed {s t : State} {die cls inst loc : Nat} (hc : cls ≠ 9) (ha : (cls, inst, loc) ∈ (s.die die).armed)
    (ht : s.countError die cls inst loc = t) : exec (.softErrorCorrected die cls inst loc) s =
      .next ((t.setDie die { t.die die with armed := (s.die die).armed.erase (cls, inst, loc) }).queueError die (errorEntry 3 cls inst loc 0)) := by
  subst ht
  change execSoftErrorCorrected die cls inst loc s = _
  simp [execSoftErrorCorrected, State.laneError_of_ne _ _ hc, State.countError_armed, ha]

/-- The end of a window clears the counts of its die, and touches neither memory nor a thread (R391). -/
theorem exec_errorWindowEnd_clears (s : State) (die : Nat) :
    ∃ t, exec (.errorWindowEnd die) s = .next t ∧ (t.die die).errCounts = [] ∧ t.mem = s.mem ∧ t.threads = s.threads := by
  refine ⟨_, rfl, ?_, ?_, ?_⟩ <;> split <;> simp [State.at, State.die, State.setDie]

/-! ## What the writes of a die's registers leave -/

/-- A state but for its dies and slices, and what their registers' writes may send, retry, time or draw. -/
def State.besideDies (s : State) : State :=
  { s with dies := [], slices := [], pending := [], stalled := [], timers := [], draws := 0 }

theorem State.at_besideDies (s : State) (cycle : Nat) (e : Event) : (s.at cycle e).besideDies = s.besideDies := rfl

theorem State.l2Evict_besideDies (s : State) (k line : Nat) : (s.l2Evict k line).besideDies = s.besideDies := by
  simp only [State.l2Evict]
  split
  · rfl
  · split <;> rfl

theorem State.l2Shrink_besideDies (s : State) (k line fuel : Nat) : (s.l2Shrink k line fuel).besideDies = s.besideDies := by
  induction fuel generalizing s with
  | zero => rfl
  | succ fuel ih =>
    simp only [State.l2Shrink]
    split
    · rfl
    · rw [ih, State.l2Evict_besideDies]
      rfl

theorem State.l2Split_besideDies (s : State) (die : Nat) : (s.l2Split die).besideDies = s.besideDies :=
  foldl_keeps State.besideDies _ (fun t k => foldl_keeps State.besideDies _ (fun u l => u.l2Shrink_besideDies k l 16) _ t) _ s

theorem execTsplitWrite_besideDies (die : Nat) (v : Word) (s : State) :
    ∃ t, execTsplitWrite die v s = .next t ∧ t.besideDies = s.besideDies := by
  refine ⟨_, rfl, ?_⟩
  split
  · rfl
  · exact State.l2Split_besideDies _ die

theorem execTarenaWrite_besideDies (die : Nat) (len : Bool) (v : Word) (s : State) :
    ∃ t, execTarenaWrite die len v s = .next t ∧ t.besideDies = s.besideDies :=
  ⟨_, rfl, (apply_ite State.besideDies _ _ _).trans (ite_self s.besideDies)⟩

/-- Firmware's writes of a die's registers leave the rest of the machine (R397). -/
theorem State.firmwareDie_besideDies (s : State) (die : Nat) : (s.firmwareDie die).besideDies = s.besideDies := by
  obtain ⟨t, ht, split⟩ := execTsplitWrite_besideDies die (Config.firmwareWrites (0x111 + 4096 * die)) s
  obtain ⟨u, hu, base⟩ := execTarenaWrite_besideDies die false (Config.firmwareWrites (0x115 + 4096 * die)) t
  obtain ⟨v, hv, length⟩ := execTarenaWrite_besideDies die true (Config.firmwareWrites (0x116 + 4096 * die)) u
  simp only [State.firmwareDie, ht, hu, hv]
  exact length.trans (base.trans split)

/-! ## Bring-up -/

theorem find?_measurements (bs : List Nat) (b : Nat) :
    (measurements bs).find? b = if b ∈ bs then some (Config.measurement b) else none := by
  induction bs with
  | nil => rfl
  | cons c r ih =>
    by_cases h : c = b
    · subst h; simp [measurements, SMap.find?]
    · simpa [measurements, SMap.find?, h, Ne.symm h] using ih

/-- The measured blocks of a device that is up are 1 to 5 (R394). -/
theorem find?_measurements_all (b : Nat) :
    (measurements [1, 2, 3, 4, 5]).find? b = if 1 ≤ b ∧ b ≤ 5 then some (Config.measurement b) else none := by
  have range : b ∈ [1, 2, 3, 4, 5] ↔ 1 ≤ b ∧ b ≤ 5 := by
    simp only [List.mem_cons, List.not_mem_nil, or_false]
    omega
  simp only [find?_measurements, range]

theorem exec_coldReset_unverified (s : State) (h : Config.romVerifies = false) :
    exec .coldReset s = .next { State.reset with pending := [], draws := s.draws, toHost := [.verifyFailed] } := by
  change execColdReset s = _
  simp [execColdReset, h]

/-- The state that firmware leaves before it writes the registers of the dies (R397). -/
def State.broughtUp (s : State) : State :=
  { s.firmwareStarts with
    mem := Config.bootMemory.foldl (fun m e => memPut m (e.1 % 2 ^ 40) e.2) s.firmwareStarts.mem
    asidtb := Config.firmwareWrites 0x110, svec := Config.firmwareWrites 0x104, fvec := Config.firmwareWrites 0x130
    devid := (Config.firmwareWrites 0x120).setWidth 10, measured := measurements [1, 2, 3, 4, 5] }

/-- A verified cold reset leaves, beside the dies, the state that firmware has brought up (R394, R397). -/
theorem exec_coldReset_verified (s : State) (h : Config.romVerifies = true) :
    ∃ t, exec .coldReset s = .next t ∧ t.besideDies = s.broughtUp.besideDies := by
  have booted : execColdReset s =
      .next (((List.range 4).foldl State.firmwareDie s.broughtUp).at (max 1 Config.releaseCycle) .coreRelease) := by
    simp only [execColdReset, h, Bool.not_true, Bool.false_eq_true, if_false, State.broughtUp]
  exact ⟨_, booted, (State.at_besideDies _ _ _).trans (foldl_keeps State.besideDies _ State.firmwareDie_besideDies _ _)⟩

theorem coldReset_brings_up (s : State) (h : Config.romVerifies = true) :
    ∃ t, exec .coldReset s = .next t ∧ t.svec = Config.firmwareWrites 0x104 ∧ t.fvec = Config.firmwareWrites 0x130 ∧
      t.asidtb = Config.firmwareWrites 0x110 ∧ t.firmwareUp ∧ t.threads = [] ∧ t.toHost = [] ∧
      ∀ b, t.measured.find? b = if 1 ≤ b ∧ b ≤ 5 then some (Config.measurement b) else none := by
  obtain ⟨t, ht, same⟩ := exec_coldReset_verified s h
  have kept {α : Type} (f : State → α) : f t.besideDies = f s.broughtUp.besideDies := congrArg f same
  have measured : t.measured = measurements [1, 2, 3, 4, 5] := kept State.measured
  exact ⟨t, ht, kept State.svec, kept State.fvec, kept State.asidtb, kept State.firmwareUp, kept State.threads, kept State.toHost,
    fun b => measured ▸ find?_measurements_all b⟩

/-- Every core leaves reset in the release cycle, and the supervisor starts at `SVEC` (R397). -/
theorem coreRelease_releases (s : State) :
    ∃ t, exec .coreRelease s = .next t ∧ t.cores.length = Config.cores ∧ (∀ e ∈ t.cores, e.2.released ∧ e.2.cycle0 = s.pcyc) ∧
      t.me.mode = .supervisor ∧ t.me.pc = s.svec ∧ t.mem = s.mem := by
  refine ⟨_, rfl, by simp, fun e he => ?_, by simp [State.me, State.ctx], by simp [State.me, State.ctx], rfl⟩
  simp only [List.mem_map] at he
  obtain ⟨q, -, rfl⟩ := he
  exact ⟨rfl, rfl⟩

/-- Settles O49, clause by clause. -/
theorem errorsAndBoot : Obligations.ErrorsAndBoot := by
  intro s die cls inst loc cycles high w d entry here n counted
  refine ⟨fun hc ha => ?_, fun hc ha hn => ?_, State.queueError_of_room w, State.queueError_of_full w, rfl, exec_errorWindowEnd_clears s die,
    rfl, rfl, exec_coldReset_unverified s, coldReset_brings_up s, coreRelease_releases s⟩
  · exact (exec_softErrorCorrected_unarmed hc ha).trans (congrArg _ (s.countError_eq die cls inst loc))
  · exact exec_softErrorCorrected_armed hc ha ((s.countError_eq die cls inst loc).trans (if_neg hn))

end Sys2Proof.Machine
end

section
/-! PROOFS. Words and instructions (O57, O58): what a head and a tail carry is read back by the decoder, and each mould of the encoder spells its
instructions (R36 to R43, R50). -/

namespace Sys2Proof

/-! ## What a head and a tail carry -/

/-- `TL` of a form: 3 under a guard, else that of the form (R36, R38, R41). -/
def Form.tl (g : Bool) (fm : Form) : BitVec 2 :=
  if g then 3
  else match fm with
    | .bare => 0
    | .t1 => 1
    | .t2 | .j => 2

/-- The fields that the words of a form carry: all of them under a guard, else those of its short tail (R38, R39). -/
def Form.carried (g : Bool) (fm : Form) (x : Fields) : Fields :=
  if g then x
  else match fm with
    | .bare => ⟨x.a, 0, 0, 0, 0, 0, 0⟩
    | .t1 => ⟨x.a, x.b, x.c, 0, x.f, 0, 0⟩
    | .t2 => ⟨x.a, x.b, x.c, 0, x.f, 0, (x.i.setWidth 16).setWidth 32⟩
    | .j => ⟨x.a, 0, 0, 0, 0, 0, x.i⟩

/-- A tail of `TL` 2 is read by its major: as a jump's where the major is J (R39, R50). -/
def Form.suits (op : Nat) : Form → Bool
  | .bare | .t1 => true
  | .t2 => !isJ op
  | .j => isJ op

/-- Marker, `TL`, major and `A` of a head (R36). -/
theorem head_fields (sw : Bool) (tl : BitVec 2) (op : BitVec 8) (a : R5) :
    let h := BitVec.ofBool sw ++ tl ++ op ++ a
    h.extractLsb' 5 8 = op ∧ h.extractLsb' 13 2 = tl ∧ h.setWidth 5 = a ∧ h.getLsbD 15 = sw := by
  simp [-Nat.reduceAdd, BitVec.extractLsb'_append_eq_of_le, BitVec.extractLsb'_append_eq_of_add_le, BitVec.extractLsb'_eq_self,
    BitVec.setWidth_append, BitVec.getElem_append]

/-- Every field of a T4 tail, its guard among them (R38, R41). -/
theorem long_tail_fields (g : Guard) (x : Fields) (op : Nat) :
    let t := x.i ++ x.e ++ BitVec.ofBool g.n ++ g.g ++ x.d ++ x.f ++ x.c ++ x.b
    fieldsOf op 3 x.a t = x ∧ guardOf 3 t = some g := by
  intro t
  have negated : t.getLsbD 25 = g.n := by simp only [t, BitVec.getLsbD_append]; simp
  constructor
  · simp [-Nat.reduceAdd, fieldsOf, t, BitVec.extractLsb'_append_eq_of_le, BitVec.extractLsb'_append_eq_of_add_le,
      BitVec.extractLsb'_eq_self]
  · simp only [guardOf, negated]
    simp [-Nat.reduceAdd, t, BitVec.extractLsb'_append_eq_of_le, BitVec.extractLsb'_append_eq_of_add_le, BitVec.extractLsb'_eq_self]

/-- The fields of the shorter tails, which have no guard (R38, R39). -/
theorem short_tail_fields (sw : Bool) (opc : BitVec 8) (op : Nat) (fm : Form) (x : Fields) (suits : fm.suits op) :
    fieldsOf op (fm.tl false).toNat x.a (packWords sw none opc fm x).2 = fm.carried false x ∧
      guardOf (fm.tl false).toNat (packWords sw none opc fm x).2 = none := by
  cases fm <;> simp_all [-Nat.reduceAdd, fieldsOf, guardOf, packWords, Form.suits, Form.tl, Form.carried,
    BitVec.extractLsb'_append_eq_of_le, BitVec.extractLsb'_append_eq_of_add_le, BitVec.extractLsb'_eq_self,
    BitVec.extractLsb'_setWidth_of_le, BitVec.setWidth_eq_extractLsb' (show 16 ≤ 32 by decide)]

theorem packWords_head (sw : Bool) (grd : Option Guard) (op : BitVec 8) (fm : Form) (x : Fields) :
    (packWords sw grd op fm x).1 = BitVec.ofBool sw ++ fm.tl grd.isSome ++ op ++ x.a := by
  cases grd <;> cases fm <;> rfl

/-- What `packWords` writes is decoded as the fields that the form carries (R36 to R41). -/
theorem decode_packWords (sw : Bool) (grd : Option Guard) (op : BitVec 8) (fm : Form) (x : Fields) (i : Instr)
    (suits : fm.suits op.toNat) (wf : wfOp grd.isSome i = true)
    (h : decodeOp op.toNat (fm.tl grd.isSome).toNat (fm.carried grd.isSome x) = some i) :
    decode (packWords sw grd op fm x).1 (packWords sw grd op fm x).2 = some ⟨sw, grd, i⟩ := by
  obtain ⟨ho, ht, ha, hs⟩ := head_fields sw (fm.tl grd.isSome) op x.a
  have tail : fieldsOf op.toNat (fm.tl grd.isSome).toNat x.a (packWords sw grd op fm x).2 = fm.carried grd.isSome x ∧
      guardOf (fm.tl grd.isSome).toNat (packWords sw grd op fm x).2 = grd := by
    cases grd with
    | none => exact short_tail_fields _ _ _ _ _ suits
    | some g => exact long_tail_fields g x _
  simp only [decode, packWords_head, ho, ht, ha, hs, tail, h, wf, only, if_true]

/-! ## Instructions by their moulds -/

/-- The fields that an encoding's words carry, with or without a guard, are decoded to the instruction. -/
structure Spells (g : Bool) (i : Instr) (e : Enc) : Prop where
  suits : e.form.suits e.op.toNat = true
  reads : decodeOp e.op.toNat (e.form.tl g).toNat (e.form.carried g e.x) = some i

section
variable {g : Bool} {i : Instr} {op : BitVec 8} {f : F6} {a b c d : R5} {n : BitVec 32}

theorem spells_bare (short : decodeOp op.toNat 0 ⟨0, 0, 0, 0, 0, 0, 0⟩ = some i) (long : decodeOp op.toNat 3 ⟨0, 0, 0, 0, 0, 0, 0⟩ = some i) :
    Spells g i (encBare op) :=
  ⟨rfl, by cases g; exacts [short, long]⟩

theorem spells_t1 (short : decodeOp op.toNat 1 ⟨a, b, c, 0, f, 0, 0⟩ = some i) (long : decodeOp op.toNat 3 ⟨a, b, c, 0, f, 0, 0⟩ = some i) :
    Spells g i (encT1 op f a b c) :=
  ⟨rfl, by cases g; exacts [short, long]⟩

theorem spells_t1_of (row : ∀ tl, tl = 1 ∨ tl = 3 → decodeOp op.toNat tl ⟨a, b, c, 0, f, 0, 0⟩ = some i) : Spells g i (encT1 op f a b c) :=
  spells_t1 (row 1 (.inl rfl)) (row 3 (.inr rfl))

/-- A form that names `D` in the long form only. -/
theorem spells_d {mk : R5 → Instr} (short : decodeOp op.toNat 1 ⟨a, b, c, 0, f, 0, 0⟩ = some (mk 0))
    (long : decodeOp op.toNat 3 ⟨a, b, c, d, f, 0, 0⟩ = some (mk d)) (fits : g = true ∨ d = 0) : Spells g (mk d) (encD op f a b c d 0) :=
  ⟨rfl, by
    cases g with
    | true => exact long
    | false => obtain rfl := fits.resolve_left nofun; exact short⟩

/-- A form that stands under a guard only. -/
theorem spells_long {e : Enc} (suits : e.form.suits e.op.toNat = true) (long : decodeOp e.op.toNat 3 e.x = some i) : Spells true i e :=
  ⟨suits, long⟩

theorem spells_t2 (line : isJ op.toNat = false)
    (short : g = false → decodeOp op.toNat 2 ⟨a, b, c, 0, f, 0, (n.setWidth 16).setWidth 32⟩ = some i)
    (long : decodeOp op.toNat 3 ⟨a, b, c, 0, f, 0, n⟩ = some i) : Spells g i (encT2 op f a b c n) :=
  ⟨by simp [encT2, Form.suits, line], by cases g; exacts [short rfl, long]⟩

/-- The low half of an immediate that fits the short form is the immediate, sign-extended (R40). -/
theorem signExtend_low (fits : fitsS false n = true) : (((n.setWidth 16).setWidth 32).setWidth 16).signExtend 32 = n := by
  simpa [fitsS] using fits

/-- The low half of an immediate that fits the short form is the immediate, zero-extended (R40). -/
theorem zeroExtend_low (fits : fitsU false n = true) : (n.setWidth 16).setWidth 32 = n := by
  have small : n.toNat < 65536 := by simpa [fitsU] using fits
  exact BitVec.eq_of_toNat_eq (by simp; omega)

/-- The low half of an immediate of the ALU mould that fits the short form is the immediate, extended as the form says (R40, R42). -/
theorem extend_low (signed : Bool) (fits : (if signed then fitsOp2 false (.imm n) else fitsOp2U false (.imm n)) = true) :
    (if signed then (((n.setWidth 16).setWidth 32).setWidth 16).signExtend 32 else (n.setWidth 16).setWidth 32) = n := by
  cases signed
  · exact zeroExtend_low fits
  · exact signExtend_low fits

theorem fitsS_of_toInt (low : -2 ^ 15 ≤ n.toInt) (high : n.toInt < 2 ^ 15) : fitsS g n = true := by
  have same : ((n.setWidth 16).signExtend 32).toInt = n.toInt := by
    calc ((n.setWidth 16).signExtend 32).toInt = (n.toNat : Int).bmod (2 ^ 16) := by
          rw [BitVec.toInt_signExtend_of_le (by decide), BitVec.toInt_setWidth]
      _ = n.toInt.bmod (2 ^ 16) := by rw [BitVec.toInt_eq_toNat_bmod, Int.bmod_bmod_of_dvd (by decide)]
      _ = n.toInt := Int.bmod_eq_of_le_mul_two (by omega) (by omega)
  simp [fitsS, BitVec.eq_of_toInt_eq same]

/-- A signed immediate (R40). -/
theorem spells_signed {mk : BitVec 32 → Instr} (line : isJ op.toNat = false)
    (short : ∀ n, decodeOp op.toNat 2 ⟨a, b, c, 0, f, 0, n⟩ = some (mk ((n.setWidth 16).signExtend 32)))
    (long : ∀ n, decodeOp op.toNat 3 ⟨a, b, c, 0, f, 0, n⟩ = some (mk n)) (fits : fitsS g n = true) :
    Spells g (mk n) (encT2 op f a b c n) := by
  refine spells_t2 line ?_ (long n)
  rintro rfl
  rw [short, signExtend_low fits]

/-- An unsigned immediate (R40). -/
theorem spells_unsigned {mk : BitVec 32 → Instr} (line : isJ op.toNat = false)
    (short : ∀ n, decodeOp op.toNat 2 ⟨a, b, c, 0, f, 0, n⟩ = some (mk n))
    (long : ∀ n, decodeOp op.toNat 3 ⟨a, b, c, 0, f, 0, n⟩ = some (mk n)) (fits : fitsU g n = true) :
    Spells g (mk n) (encT2 op f a b c n) := by
  refine spells_t2 line ?_ (long n)
  rintro rfl
  rw [short, zeroExtend_low fits]

/-- A memory operand with its displacement (R103, R118). -/
theorem spells_mem {mk : MemOp → Instr} {m : MemOp} (line : isJ op.toNat = false)
    (short : ∀ n, decodeOp op.toNat 2 ⟨a, m.b, c, 0, f, 0, n⟩ = some (mk ⟨m.b, (n.setWidth 16).signExtend 32⟩))
    (long : ∀ n, decodeOp op.toNat 3 ⟨a, m.b, c, 0, f, 0, n⟩ = some (mk ⟨m.b, n⟩)) (fits : fitsS g m.disp = true) :
    Spells g (mk m) (encT2 op f a m.b c m.disp) :=
  spells_signed (mk := fun n => mk ⟨m.b, n⟩) line short long fits

/-- A jump's target (R39). -/
theorem spells_j {mk : Target → Instr} {t : Target} (jump : isJ op.toNat = true)
    (row : ∀ tl n, decodeOp op.toNat tl ⟨a, 0, 0, 0, 0, 0, n⟩ = (Fields.target ⟨a, 0, 0, 0, 0, 0, n⟩ tl).map mk) :
    Spells g (mk t) (encJ op a t) := by
  have target (tl : Nat) (h : tl = 2 ∨ tl = 3) : Fields.target ⟨a, 0, 0, 0, 0, 0, t.disp ++ t.slot⟩ tl = some t := by
    have disp : (t.disp ++ t.slot).extractLsb' 5 27 = t.disp := BitVec.extractLsb'_append_eq_left
    have slot : (t.disp ++ t.slot).extractLsb' 0 5 = t.slot := BitVec.extractLsb'_append_eq_right
    simp only [Fields.target, disp, slot]
    obtain rfl | rfl := h <;> rfl
  cases g
  · exact ⟨jump, (row 2 (t.disp ++ t.slot)).trans (congrArg (Option.map mk) (target 2 (.inl rfl)))⟩
  · exact ⟨jump, (row 3 (t.disp ++ t.slot)).trans (congrArg (Option.map mk) (target 3 (.inr rfl)))⟩

/-- The second operand of the ALU mould (R42). -/
theorem spells_op2 {mk : Op2 → Instr} {o : Op2} (signed : Bool) (line : isJ op.toNat = false)
    (row : ∀ tl c d e n, decodeOp op.toNat tl ⟨a, b, c, d, f, e, n⟩ = (Fields.op2 ⟨a, b, c, d, f, e, n⟩ tl signed).map mk)
    (fits : (if signed then fitsOp2 g o else fitsOp2U g o) = true) : Spells g (mk o) (encOp2 op f a b o) := by
  cases o with
  | reg c => exact spells_t1 (row 1 c 0 0 0) (row 3 c 0 0 0)
  | imm n =>
    refine ⟨by simp [encOp2, Form.suits, line], ?_⟩
    cases g
    · exact (row 2 0 0 0 _).trans (congrArg (fun n => some (mk (.imm n))) (extend_low signed fits))
    · exact (row 3 0 0 1 n).trans (congrArg (fun n => some (mk (.imm n))) (ite_self n))

/-- The mask that is written into `D` and `E` is read there, and `E`[0] stays; an unmasked form leaves both fields (R203, R204). -/
theorem encMask_reads {e : F6} (h : e = 0 ∨ e = 1) (m : Option MaskOp) : ∃ d e', encMask ⟨a, b, c, 0, f, e, n⟩ m = ⟨a, b, c, d, f, e', n⟩ ∧
    (∀ n, Fields.mask ⟨a, b, c, d, f, e', n⟩ = some m) ∧ e'.getLsbD 0 = e.getLsbD 0 ∧ (m = none → d = 0 ∧ e' = e) := by
  cases m with
  | none => exact ⟨0, e, rfl, by obtain rfl | rfl := h <;> simp [Fields.mask, only], rfl, fun _ => ⟨rfl, rfl⟩⟩
  | some m =>
    obtain ⟨d, zero⟩ := m
    refine ⟨d, _, rfl, ?_, ?_, nofun⟩ <;> obtain rfl | rfl := h <;> cases zero <;> simp [Fields.mask]

/-- The mask of a vector form (R204). -/
theorem spells_v {mk : Option MaskOp → Instr} {m : Option MaskOp}
    (row : ∀ tl d e n, decodeOp op.toNat tl ⟨a, b, c, d, f, e, n⟩ = (Fields.vmask ⟨a, b, c, d, f, e, n⟩ tl).map mk)
    (fits : fitsMask g m = true) : Spells g (mk m) (encV op f a b c m) := by
  obtain ⟨d, e, written, mask, bit, bare⟩ := encMask_reads (a := a) (b := b) (c := c) (f := f) (n := 0) (.inl rfl) m
  have reads (tl : Nat) (h : tl = 1 ∨ tl = 3) : decodeOp op.toNat tl ⟨a, b, c, d, f, e, 0⟩ = some (mk m) := by
    have even : e.getLsbD 0 = false := bit
    simp only [row, Fields.vmask, h, even, mask, true_and, if_true, Option.map_some]
  refine ⟨rfl, ?_⟩
  simp only [encV, written]
  cases g
  · cases m with
    | none => obtain ⟨rfl, rfl⟩ := bare rfl; exact reads 1 (.inl rfl)
    | some m => cases fits
  · exact reads 3 (.inr rfl)

/-- The second operand and the mask of a vector form (R203, R204). -/
theorem spells_vop2 {mk : Op2 → Option MaskOp → Instr} {o : Op2} {m : Option MaskOp} (signed : Bool) (line : isJ op.toNat = false)
    (row : ∀ tl c d e n, decodeOp op.toNat tl ⟨a, b, c, d, f, e, n⟩ = (Fields.vop2 ⟨a, b, c, d, f, e, n⟩ tl signed).bind fun o =>
      (Fields.mask ⟨a, b, c, d, f, e, n⟩).map (mk o))
    (fits : (if signed then fitsOp2 g o else fitsOp2U g o) = true) (masked : fitsMask g m = true) :
    Spells g (mk o m) (encVOp2 op f a b o m) := by
  cases o with
  | reg c =>
    obtain ⟨d, e, written, mask, bit, bare⟩ := encMask_reads (a := a) (b := b) (c := c) (f := f) (n := 0) (.inl rfl) m
    have reads (tl : Nat) (h : tl = 1 ∨ tl = 3) : decodeOp op.toNat tl ⟨a, b, c, d, f, e, 0⟩ = some (mk (.reg c) m) := by
      have even : e.getLsbD 0 = false := bit
      have vop2 : Fields.vop2 ⟨a, b, c, d, f, e, 0⟩ tl signed = some (.reg c) := by
        obtain rfl | rfl := h <;> simp only [Fields.vop2, even] <;> rfl
      simp only [row, vop2, mask, Option.bind_some, Option.map_some]
    refine ⟨rfl, ?_⟩
    simp only [encVOp2, encOp2, written]
    cases g
    · cases m with
      | none => obtain ⟨rfl, rfl⟩ := bare rfl; exact reads 1 (.inl rfl)
      | some m => cases masked
    · exact reads 3 (.inr rfl)
  | imm n =>
    obtain ⟨d, e, written, mask, bit, bare⟩ := encMask_reads (a := a) (b := b) (c := 0) (f := f) (n := n) (.inr rfl) m
    refine ⟨by simp [encVOp2, encOp2, Form.suits, line], ?_⟩
    simp only [encVOp2, encOp2, written]
    cases g
    · cases m with
      | none =>
        have plain (n : BitVec 32) : Fields.mask ⟨a, b, 0, 0, f, 0, n⟩ = some none := by simp [Fields.mask, only]
        refine (row 2 0 0 0 _).trans ?_
        rw [plain]
        exact congrArg (fun n => some (mk (.imm n) none)) (extend_low signed fits)
      | some m => cases masked
    · have odd : e.getLsbD 0 = true := bit
      have vop2 : Fields.vop2 ⟨a, b, 0, d, f, e, n⟩ 3 signed = some (.imm n) := by
        simp only [Fields.vop2, odd]
        cases signed <;> rfl
      exact (row 3 0 d e n).trans (by simp only [vop2, mask, Option.bind_some, Option.map_some])

/-- The immediate and the mask of VLI (R220). -/
theorem spells_vli {m : Option MaskOp} (fits : fitsS g n = true) (masked : fitsMask g m = true) :
    Spells g (.vli f a n m) ⟨0x8B, .t2, encMask ⟨a, 0, 0, 0, f, 0, n⟩ m⟩ := by
  obtain ⟨d, e, written, mask, bit, bare⟩ := encMask_reads (a := a) (b := 0) (c := 0) (f := f) (n := n) (.inl rfl) m
  have reads (tl : Nat) (h : tl = 2 ∨ tl = 3) (n : BitVec 32) :
      decodeOp 0x8B tl ⟨a, 0, 0, d, f, e, n⟩ = some (.vli f a (Fields.immS ⟨a, 0, 0, d, f, e, n⟩ tl) m) := by
    have fits : (tl = 2 ∨ tl = 3) ∧ (0 : R5) = 0 ∧ (0 : R5) = 0 ∧ e.getLsbD 0 = false := ⟨h, rfl, rfl, bit⟩
    have row : decodeOp 0x8B tl ⟨a, 0, 0, d, f, e, n⟩ = if (tl = 2 ∨ tl = 3) ∧ (0 : R5) = 0 ∧ (0 : R5) = 0 ∧ e.getLsbD 0 = false then
        (Fields.mask ⟨a, 0, 0, d, f, e, n⟩).map (.vli f a (Fields.immS ⟨a, 0, 0, d, f, e, n⟩ tl)) else none := rfl
    rw [row, if_pos fits, mask]
    rfl
  refine ⟨rfl, ?_⟩
  simp only [written]
  cases g
  · cases m with
    | none =>
      obtain ⟨rfl, rfl⟩ := bare rfl
      exact (reads 2 (.inl rfl) _).trans (congrArg (fun n => some (Instr.vli f a n none)) (signExtend_low fits))
    | some m => cases masked
  · exact reads 3 (.inr rfl) n

/-- A key (R229). -/
theorem spells_key {mk : KeyOp → Instr} {k : KeyOp}
    (row : ∀ b c d e n, decodeOp op.toNat 3 ⟨a, b, c, d, f, e, n⟩ = (Fields.key ⟨a, b, c, d, f, e, n⟩ 3).map mk)
    (fits : keyFits g k = true) : Spells g (mk k) (encKey op f a k) := by
  obtain rfl : g = true := fits
  obtain ⟨b, c, d, v⟩ := k
  cases v with
  | reg e =>
    refine ⟨rfl, (row _ _ _ _ _).trans ?_⟩
    simp [Fields.key, only]
  | imm v =>
    refine ⟨rfl, (row _ _ _ _ _).trans ?_⟩
    have low : ((v.setWidth 32).setWidth 24) = v := by simp
    have high : (v.setWidth 32).extractLsb' 24 8 = 0#8 := by
      apply BitVec.eq_of_toNat_eq
      simp
      omega
    simp [Fields.key, only, low, high]

/-- A displacement and `D` of a form whose short tail has neither (R118). -/
theorem spells_mem1 {mk : MemOp → R5 → Instr} {m : MemOp} (short : decodeOp op.toNat 1 ⟨a, m.b, c, 0, f, 0, 0⟩ = some (mk ⟨m.b, 0⟩ 0))
    (long : decodeOp op.toNat 3 ⟨a, m.b, c, d, f, 0, m.disp⟩ = some (mk m d)) (fits : g = true ∨ m.disp = 0 ∧ d = 0) :
    Spells g (mk m d) (encMem1 op f a m c d) := by
  obtain ⟨b, disp⟩ := m
  cases g with
  | true => exact ⟨rfl, long⟩
  | false =>
    obtain ⟨rfl, rfl⟩ := fits.resolve_left nofun
    exact ⟨rfl, short⟩

/-- The mould whose register operand stands in `B` (MFMT, LSTAT). -/
theorem spells_opB {mk : Op2 → Instr} {o : Op2} (line : isJ op.toNat = false)
    (reg : ∀ b, decodeOp op.toNat 1 ⟨a, b, 0, 0, f, 0, 0⟩ = some (mk (.reg b)) ∧ decodeOp op.toNat 3 ⟨a, b, 0, 0, f, 0, 0⟩ = some (mk (.reg b)))
    (imm : ∀ n, decodeOp op.toNat 2 ⟨a, 0, 0, 0, f, 0, n⟩ = some (mk (.imm n)) ∧ decodeOp op.toNat 3 ⟨a, 0, 0, 0, f, 1, n⟩ = some (mk (.imm n)))
    (fits : fitsOp2U g o = true) : Spells g (mk o) (encOpB op f a o) := by
  cases o with
  | reg b => exact spells_t1 (reg b).1 (reg b).2
  | imm n =>
    refine ⟨by simp [encOpB, Form.suits, line], ?_⟩
    cases g
    · exact (imm _).1.trans (congrArg (fun n => some (mk (.imm n))) (zeroExtend_low fits))
    · exact (imm n).2

/-- A narrow immediate (R69, R377, R399). -/
theorem spells_narrow {w : Nat} {mk : BitVec w → Instr} {v : BitVec w} (bound : Nat) (hw : w ≤ 16) (hb : 2 ^ w = bound) (line : isJ op.toNat = false)
    (short : ∀ n, n.toNat < bound → decodeOp op.toNat 2 ⟨a, b, c, 0, f, 0, n⟩ = some (mk (n.setWidth w)))
    (long : ∀ n, n.toNat < bound → decodeOp op.toNat 3 ⟨a, b, c, 0, f, 0, n⟩ = some (mk (n.setWidth w))) :
    Spells g (mk v) (encT2 op f a b c (v.setWidth 32)) := by
  have narrow : v.toNat < bound := hb ▸ v.isLt
  have small : 2 ^ w ≤ 2 ^ 16 := Nat.pow_le_pow_right (by decide) hw
  have whole : (v.setWidth 32).toNat = v.toNat := by
    rw [BitVec.toNat_setWidth, Nat.mod_eq_of_lt (by have := v.isLt; omega)]
  have back : (v.setWidth 32).setWidth w = v := BitVec.eq_of_toNat_eq (by rw [BitVec.toNat_setWidth, whole]; exact Nat.mod_eq_of_lt v.isLt)
  have low : ((v.setWidth 32).setWidth 16).setWidth 32 = v.setWidth 32 := zeroExtend_low (by simp [fitsU]; omega)
  refine spells_t2 line (fun _ => ?_) ?_
  · rw [low, short _ (whole ▸ narrow), back]
  · rw [long _ (whole ▸ narrow), back]

/-- The scope in the `F` of a form whose kind is 0 (R143, R147, R402). -/
theorem scope_alone (s : BitVec 3) : (s.setWidth 6).setWidth 3 = s ∧ (s.setWidth 6).extractLsb' 3 2 = 0#2 ∧ (s.setWidth 6)[3] = false ∧
    (s.setWidth 6).extractLsb' 4 2 = 0#2 ∧ (s.setWidth 6)[5] = false := by
  revert s; decide

/-- The scope and the kind in the `F` of FENCE, ICSYNC and TLBI (R143, R147, R402). -/
theorem scope_with_kind (s : BitVec 3) (q : F6) (h : q ∈ [8#6, 16#6, 24#6]) : (q ||| s.setWidth 6).setWidth 3 = s ∧
    (q ||| s.setWidth 6).extractLsb' 3 2 = q.extractLsb' 3 2 ∧ (q ||| s.setWidth 6)[3] = q[3] ∧
    (q ||| s.setWidth 6).extractLsb' 4 2 = q.extractLsb' 4 2 ∧ (q ||| s.setWidth 6)[5] = false := by
  revert s q; decide

/-- The ring in the `F` of MRING.SET (R297). -/
theorem ring_alone (r : BitVec 2) : (r.setWidth 6).setWidth 2 = r ∧ (r.setWidth 6).extractLsb' 2 4 = 0#4 := by
  revert r; decide

/-- The ring and the kind in the `F` of MRING (R297). -/
theorem ring_with_kind (r : BitVec 2) (q : F6) (h : q ∈ [4#6, 8#6]) :
    (q ||| r.setWidth 6).setWidth 2 = r ∧ (q ||| r.setWidth 6).extractLsb' 2 4 = q.extractLsb' 2 4 := by
  revert r q; decide

/-- The two rings in `A` of MMA (R297). -/
theorem rings_of_mma (ra rb : BitVec 2) :
    (0#1 ++ rb ++ ra).setWidth 2 = ra ∧ (0#1 ++ rb ++ ra).extractLsb' 2 2 = rb ∧ (0#1 ++ rb ++ ra)[4] = false := by
  revert ra rb; decide

/-- The destination code in `F`[5:4] of MDRAIN (R302). -/
theorem drain_code (f : F6) : (f.extractLsb' 4 2).toNat = f.toNat / 16 := by
  revert f; decide

/-- The destination of MDRAIN (R302). -/
theorem spells_mdrain {d : DrainDst} (code : f.toNat / 16 = d.code) (fits : d.code = 3 → g = true) :
    ∃ e, encodeOp (.mdrain f a d) = some e ∧ Spells g (.mdrain f a d) e := by
  have kind : (f.extractLsb' 4 2).toNat = d.code := (drain_code f).trans code
  have row (tl : Nat) (b c d : R5) (e : F6) (n : BitVec 32) :
      decodeOp 0xC4 tl ⟨a, b, c, d, f, e, n⟩ = (Fields.drain ⟨a, b, c, d, f, e, n⟩ tl).map (.mdrain f a) := rfl
  cases d with
  | pool b c | ring b | mem b c =>
    refine ⟨_, rfl, spells_t1 ((row _ _ _ _ _ _).trans ?_) ((row _ _ _ _ _ _).trans ?_)⟩ <;> rw [Fields.drain, kind] <;> rfl
  | tile k =>
    refine ⟨_, rfl, spells_key (mk := fun k => .mdrain f a (.tile k)) (fun b c d e n => ?_) (fits rfl)⟩
    refine (row _ _ _ _ _ _).trans ?_
    rw [Fields.drain, kind]
    exact Option.map_map ..

/-- The number of vectors that a thread takes along is at most 8, so that it leaves the upper bits of `F` zero (R345). -/
theorem mig_fields (n : F6) (h : n.toNat ≤ 8) : n.getLsbD 5 = false ∧ n.getLsbD 4 = false ∧
    (16#6 ||| n).getLsbD 5 = false ∧ (16#6 ||| n).getLsbD 4 = true ∧ (16#6 ||| n) &&& 15#6 = n := by
  revert n; decide

theorem spells_mig {m : MemOp} (few : f.toNat ≤ 8) (fits : fitsS g m.disp = true) : Spells g (.mig f m) (encT2 0xCD f 0 m.b 0 m.disp) := by
  obtain ⟨h5, h4, -, -, -⟩ := mig_fields f few
  refine spells_mem (mk := .mig f) rfl ?_ ?_ fits <;>
    simp [-BitVec.getLsbD_eq_getElem, decodeOp, decEngine, only, h5, h4, Fields.mem, Fields.immS]

theorem spells_migC (few : f.toNat ≤ 8) : Spells g (.migC f b) (encT1 0xCD (16#6 ||| f) 0 b 0) := by
  obtain ⟨-, -, h5, h4, low⟩ := mig_fields f few
  exact spells_t1_of fun tl h => by simp [-BitVec.getLsbD_eq_getElem, decodeOp, decEngine, only, h5, h4, low, h]

end

/-- Every well-formed instruction has an encoding that spells it, by the mould of its form. -/
theorem encodeOp_spells (g : Bool) (i : Instr) (wf : wfOp g i = true) : ∃ e, encodeOp i = some e ∧ Spells g i e := by
  cases i with
  | nop | ueret | exit | yield | eret | wfe => exact ⟨_, rfl, spells_bare rfl rfl⟩
  | bcnt f a b | brev f a b | sext f a b | sel f a b c | plog f a b c | pmov a b | pmovP a b | pmovGp a | pmovSp b | jr a b
  | pgmodeCf a c | pgq a b | pgqL a b | pgqD a | vcvt f a b c | vdq f a b c | vsr f a b | vhist f b c
  | vsel f a b c | klog f a b c | kmov f a b | tdecl a b | tdeclU a b | tunp f a b | tmap f a b c | tred f a b
  | tcvt f a b | tforce a b c | tforceM a | tforceQ a b | thclr a | thclrAll | mfmtQ a | mepi a b c | mepiRst a
  | mstat a | mstatR a b | mstatC a | tel f b | teln f a b c | telq a | telqW a | spawn a b | post b | postN a b
  | postR b | postRn a b | rcbopCreate a b c | rcbopHold a b | rcbopRelease a b | rcbopRetire a b | join a b | joinQ a b
  | dreg a b | dregU a b | dregQ a b | dmodeFwd | dmodeRev | dmodeQ a | dadj a b | dadjL a b | dadjX a b | dadjP a b
  | dseed b c | dseedV b c | tapeMark a | tapePop a | tapeRewind a b | tapeQuery a | dclr a b | dclrR a b c
  | ctxsw a b | ctxswFl a b | ctxswQ a b | preempt a b | preemptH a b | gangHalt a b | gangResume a b | gangRead a b
  | keyopGen a b | keyopLoad a b c | keyopClr a b | keyopQ a b | capr a b | caprF a b | errqPop a | errqQ a
  | errqInj a b | abind a b c | abindU a b | abindS a b | abindSu a b | abindX a b c | abindRt a b c | abindLf a b
  | xred a b | xredMax a b | lstatH a | fenceAck => exact ⟨_, rfl, spells_t1 rfl rfl⟩
  | add f a b o | sub f a b o | mul f a b o | mulh f a b o | div f a b o | rem f a b o | and f a b o | or f a b o
  | xor f a b o | andn f a b o | shl f a b o | shr f a b o | sar f a b o | rol f a b o | min f a b o | max f a b o
  | lea f a b o | cmp f a b o | paddr f a b o =>
    exact ⟨_, rfl, spells_op2 true rfl (fun _ _ _ _ _ => rfl) (by simp_all [wfOp])⟩
  | fext f a b o | fins a b o | vext f a b o | vins f a b o | rcbopGet a b o | rcbopSet a b o | sleep f o =>
    exact ⟨_, rfl, spells_op2 false rfl (fun _ _ _ _ _ => rfl) (by simp_all [wfOp])⟩
  | ldv f a m c => exact ⟨_, rfl, spells_mem (mk := fun m => .ldv f a m c) rfl (fun _ => rfl) (fun _ => rfl) (by simp_all [wfOp])⟩
  | stv f a m c => exact ⟨_, rfl, spells_mem (mk := fun m => .stv f a m c) rfl (fun _ => rfl) (fun _ => rfl) (by simp_all [wfOp])⟩
  | ld f a m | st f a m | ldm f a m | pref f m | cmoClean m | cmoFlush m | cmoInval m
  | cmoZero m | acq f a m | rel f a m | bar a m | barN a m | wake m | wakeT m =>
    exact ⟨_, rfl, spells_mem (m := m) rfl (fun _ => rfl) (fun _ => rfl) (by simp_all [wfOp])⟩
  | tfill a b n => exact ⟨_, rfl, spells_signed rfl (fun _ => rfl) (fun _ => rfl) wf⟩
  | br a t | jmp t | call a t | loop a t => exact ⟨_, rfl, spells_j rfl fun _ _ => rfl⟩
  | tdrop k | tdropAll k => exact ⟨_, rfl, spells_key (fun _ _ _ _ _ => Option.map_eq_bind.symm) (by simp_all [wfOp])⟩
  | tld a k | tst a k | tqry a k | twait a k | tstv f a k | dseedT a k | dclrT k =>
    exact ⟨_, rfl, spells_key (fun _ _ _ _ _ => rfl) (by simp_all [wfOp])⟩
  | vadd f a b c mk | vsub f a b c mk | vmul f a b c mk | vdiv f a b c mk | vfma f a b c mk | vmin f a b c mk | vmax f a b c mk
  | vsgn f a b c mk | vrcp f a b mk | vrsq f a b mk | vsqrt f a b mk | vexp2 f a b mk | vlog2 f a b mk | vcmp f a b c mk
  | vlogic f a b c mk | viop f a b c mk | vperm f a b c mk | vshuf f a b c mk | vred f a b mk | vdot f a b c mk =>
    exact ⟨_, rfl, spells_v (fun _ _ _ _ => rfl) (by simp_all [wfOp])⟩
  | li f a n =>
    simp only [wfOp, Bool.and_eq_true] at wf
    by_cases h : f = 1
    · subst h
      exact ⟨_, rfl, spells_unsigned rfl (fun _ => rfl) (fun _ => rfl) wf.2⟩
    · rw [if_neg h] at wf
      exact ⟨_, rfl, spells_signed rfl (fun _ => congrArg (some ∘ Instr.li f a) (if_neg h))
        (fun n => congrArg (some ∘ Instr.li f a) (ite_self n)) wf.2⟩
  | getc a n | putc b n =>
    exact ⟨_, rfl, spells_narrow 4096 (by decide) rfl rfl (fun n h => by simp [decodeOp, decScalar, Fields.t2, only, h])
      (fun n h => by simp [decodeOp, decScalar, Fields.t2, only, h])⟩
  | sget a n | sput b n =>
    exact ⟨_, rfl, spells_narrow 4096 (by decide) rfl rfl (fun n h => by simp [decodeOp, decSystem, Fields.t2, only, h])
      (fun n h => by simp [decodeOp, decSystem, Fields.t2, only, h])⟩
  | trap n | trapRet b n | sysc n | syscFw n =>
    exact ⟨_, rfl, spells_narrow 65536 (by decide) rfl rfl (fun n h => by simp [decodeOp, decSystem, Fields.t2, only, h])
      (fun n h => by simp [decodeOp, decSystem, Fields.t2, only, h])⟩
  | ldg f a b c d | sts f a b c d | tew f a b c d | tmma f a b c d =>
    exact ⟨_, rfl, spells_d rfl rfl (by simp only [wfOp, Bool.and_eq_true] at wf; grind)⟩
  | tget f a b c d | tadam a b c d | tldp a b c n | tstp a b c n =>
    obtain rfl : g = true := by simp_all [wfOp]
    exact ⟨_, rfl, spells_long rfl rfl⟩
  | amo f a m c d =>
    exact ⟨_, rfl, spells_mem1 (mk := fun m d => .amo f a m c d) rfl rfl (by simp [wfOp, fitsZ] at wf; grind)⟩
  | cas f a m c d =>
    exact ⟨_, rfl, spells_mem1 (mk := fun m d => .cas f a m c d) rfl rfl (by simp [wfOp, fitsZ] at wf; grind)⟩
  | red f m c => exact ⟨_, rfl, spells_mem1 (mk := fun m _ => .red f m c) rfl rfl (by simp_all [wfOp, fitsZ])⟩
  | redv f a m c => exact ⟨_, rfl, spells_mem1 (mk := fun m _ => .redv f a m c) rfl rfl (by simp_all [wfOp, fitsZ])⟩
  | pend a m => exact ⟨_, rfl, spells_mem1 (mk := fun m _ => .pend a m) rfl rfl (by simp_all [wfOp, fitsZ])⟩
  | pendC a m => exact ⟨_, rfl, spells_mem1 (mk := fun m _ => .pendC a m) rfl rfl (by simp_all [wfOp, fitsZ])⟩
  | waitw f a m c d pe =>
    obtain rfl : g = true := by simp_all [wfOp]
    have narrow : (pe.setWidth 6).extractLsb' 4 2 = 0#2 ∧ (pe.setWidth 6).setWidth 4 = pe := by clear wf; revert pe; decide
    exact ⟨_, rfl, spells_long rfl (by simp [decodeOp, decMemory, only, narrow, Fields.mem, Fields.immS])⟩
  | pgmode n a b c | pgmig n a b c => cases n <;> exact ⟨_, rfl, spells_t1 rfl rfl⟩
  | vqntX f a b c | vqnt f a b c =>
    have kind : f[5] = decide (32 ≤ f.toNat) := by clear wf; revert f; decide
    simp only [wfOp, Bool.and_eq_true, decide_eq_true_eq] at wf
    exact ⟨_, rfl, spells_t1 (by simp [decodeOp, decFence, Fields.t1, only, kind]; omega)
      (by simp [decodeOp, decFence, Fields.t1, only, kind]; omega)⟩
  | hread a b n | hreadC a b n =>
    exact ⟨_, rfl, spells_unsigned rfl (fun _ => rfl) (fun _ => rfl) (by simp [wfOp, fitsU] at wf ⊢; omega)⟩
  | hreadInit a b n =>
    exact ⟨_, rfl, spells_signed rfl (fun _ => rfl) (fun _ => rfl)
      (by simp only [wfOp, decide_eq_true_eq] at wf; exact fitsS_of_toInt (by omega) (by omega))⟩
  | tidx f a b c n =>
    exact ⟨_, rfl, spells_signed rfl (fun _ => rfl) (fun _ => rfl) (by simp [wfOp, fitsS] at wf ⊢; grind)⟩
  | mfmt a o | lstat a o | lstatD a o => exact ⟨_, rfl, spells_opB rfl (fun _ => ⟨rfl, rfl⟩) (fun _ => ⟨rfl, rfl⟩) (by simp_all [wfOp])⟩
  | fenceFull s | fenceAcq s | fenceRel s | icsync s | icsyncRanged s b c =>
    exact ⟨_, rfl, spells_t1_of fun tl h => by simp [decodeOp, decFence, Fields.t1, only, scope_alone, scope_with_kind, h]⟩
  | tlbiAll s | tlbiAsid s b | tlbiVa s b c =>
    exact ⟨_, rfl, spells_t1_of fun tl h => by simp [decodeOp, decSystem, Fields.t1d, only, scope_alone, scope_with_kind, h]⟩
  | tlbiRange s b c d =>
    obtain rfl : g = true := by simp_all [wfOp]
    exact ⟨_, rfl, spells_long rfl (by simp [encD, decodeOp, decSystem, Fields.t1d, scope_with_kind])⟩
  | mringSet r a b | mringPush r a b | mringRst r a =>
    exact ⟨_, rfl, spells_t1_of fun tl h => by simp [decodeOp, decEngine, Fields.t1, only, ring_alone, ring_with_kind, h]⟩
  | mma f ra rb =>
    exact ⟨_, rfl, spells_t1_of fun tl h => by simp [decodeOp, decEngine, Fields.t1, only, rings_of_mma, h]⟩
  | vshift f a b o mk => exact ⟨_, rfl, spells_vop2 true rfl (fun _ _ _ _ _ => rfl) (by simp_all [wfOp]) (by simp_all [wfOp])⟩
  | vbcast f a b o mk => exact ⟨_, rfl, spells_vop2 false rfl (fun _ _ _ _ _ => rfl) (by simp_all [wfOp]) (by simp_all [wfOp])⟩
  | vli f a n mk =>
    simp only [wfOp, Bool.and_eq_true] at wf
    exact ⟨_, rfl, spells_vli wf.1.1.2 wf.2⟩
  | mdrain f a d =>
    simp only [wfOp, Bool.and_eq_true, beq_iff_eq] at wf
    exact spells_mdrain wf.1.1 (by simpa [or_iff_not_imp_left] using wf.2)
  | mig n m =>
    simp only [wfOp, Bool.and_eq_true, decide_eq_true_eq] at wf
    exact ⟨_, rfl, spells_mig wf.1 wf.2⟩
  | migC n b =>
    simp only [wfOp, decide_eq_true_eq] at wf
    exact ⟨_, rfl, spells_migC wf⟩
  | _ => cases wf

/-- Settles O58: what the encoder writes, the decoder reads. -/
theorem encodeDecode : Obligations.EncodeDecode := by
  intro i wf
  obtain ⟨e, encoded, suits, reads⟩ := encodeOp_spells i.grd.isSome i.op wf
  refine ⟨_, by simp only [encode, encoded]; rfl, ?_⟩
  exact decode_packWords i.sw i.grd e.op e.form e.x i.op suits wf reads

/-- Settles O57: each pair of words is evaluated. -/
theorem decodeWords : Obligations.DecodeWords := by
  unfold Obligations.DecodeWords
  decide

end Sys2Proof
end

section
/-! PROOFS. The decode sequence (O53, O54): the order of the registers that an instruction names, the turn that reaches an instruction, the checks in
their order, and what a context prepares (R47, R49, R63, R64). -/

namespace Sys2Proof.Machine

/-! ## The order of the registers that an instruction names (R49) -/

/-- Whether the field numbers of a list ascend, from `n` on. -/
def ascends : Nat → List RegUse → Bool
  | _, [] => true
  | n, r :: l => decide (n ≤ r.field) && ascends r.field l

theorem pairwise_of_ascends {n : Nat} {l : List RegUse} (h : ascends n l = true) :
    (∀ r ∈ l, n ≤ r.field) ∧ l.Pairwise fun r q => r.field ≤ q.field := by
  induction l generalizing n with
  | nil => simp
  | cons r l ih =>
    simp only [ascends, Bool.and_eq_true, decide_eq_true_eq] at h
    obtain ⟨later, sorted⟩ := ih h.2
    refine ⟨?_, List.pairwise_cons.2 ⟨later, sorted⟩⟩
    simp only [List.mem_cons, forall_eq_or_imp]
    exact ⟨h.1, fun q hq => h.1.trans (later q hq)⟩

/-- Registers that stand in one field come in any number before the rest. -/
theorem ascends_append {n : Nat} {l m : List RegUse} (same : ∀ r ∈ l, r.field = n) (h : ascends n m = true) : ascends n (l ++ m) = true := by
  induction l with
  | nil => exact h
  | cons r l ih =>
    obtain ⟨hr, hl⟩ := List.forall_mem_cons.1 same
    simp [ascends, hr, ih hl]

theorem field_runV {a : R5} {n : Nat} {reads : Bool} : ∀ r ∈ runV a n reads, r.field = 0 := by simp [runV]

theorem ascends_kx (k : KeyOp) : ascends 0 (kx k) = true := by
  obtain ⟨b, c, d, ver⟩ := k
  cases ver <;> rfl

/-- The registers of an instruction stand in the order of their fields (R49). -/
theorem ascends_regs (i : Instr) : ascends 0 (regs i) = true := by
  cases i with
  | add f a b o | sub f a b o | mul f a b o | mulh f a b o | div f a b o | rem f a b o | and f a b o | or f a b o | xor f a b o
  | andn f a b o | shl f a b o | shr f a b o | sar f a b o | rol f a b o | min f a b o | max f a b o | fext f a b o | lea f a b o
  | paddr f a b o | fins a b o | cmp f a b o | vext f a b o | vins f a b o | rcbopGet a b o | rcbopSet a b o | sleep f o
  | mfmt a o | lstat a o | lstatD a o => cases o <;> rfl
  | vadd f a b c mk | vsub f a b c mk | vmul f a b c mk | vmin f a b c mk | vmax f a b c mk | vdiv f a b c mk | vlogic f a b c mk
  | vfma f a b c mk | vperm f a b c mk | vdot f a b c mk | vrcp f a b mk | vrsq f a b mk | vsqrt f a b mk | vexp2 f a b mk
  | vlog2 f a b mk | vcmp f a b c mk | vred f a b mk | vli f a n mk => cases mk <;> rfl
  | vsgn f a b c mk | viop f a b c mk | vshuf f a b c mk => cases mk <;> (simp only [regs]; split <;> rfl)
  | vshift f a b o mk => cases o <;> cases mk <;> rfl
  | vbcast f a b o mk => cases o <;> cases mk <;> (simp only [regs]; split <;> rfl)
  | li f a n | ldv f a m c | stv f a m c | ldg f a b c d | sts f a b c d | redv f a m c | acq f a m | rel f a m | vcvt f a b c
  | tmap f a b c | tidx f a b c n | kmov f a b =>
    simp only [regs]
    split <;> rfl
  | tld a k | tst a k | tdrop k | tdropAll k | dseedT a k | dclrT k | tqry a k | twait a k => exact ascends_kx k
  | tget f a b c d => exact ascends_append field_runV rfl
  | tstv f a k => exact ascends_append field_runV (ascends_kx k)
  | mdrain f a d => cases d with
    | pool b c | mem b c | ring b => rfl
    | tile k => exact ascends_kx k
  | tel f b | teln f a b c =>
    simp only [regs, quad]
    split <;> rfl
  | _ => rfl

/-- The first register that fails a test stands in the lowest field that fails it (R49). -/
theorem firstField_of_lowest {op : Instr} {p : RegUse → Bool} {f : Nat}
    (low : (∃ r ∈ regs op, p r = true ∧ r.field = f) ∧ ∀ r ∈ regs op, p r = true → f ≤ r.field) :
    ∃ r ∈ regs op, (regs op).find? p = some r ∧ r.field = f := by
  obtain ⟨⟨r, hr, pr, rfl⟩, lowest⟩ := low
  obtain ⟨q, hq⟩ := Option.isSome_iff_exists.1 (List.find?_isSome.2 ⟨r, hr, pr⟩)
  have before : q.field ≤ r.field := by
    obtain ⟨-, l, m, split, fails⟩ := List.find?_eq_some_iff_append.1 hq
    have sorted := (pairwise_of_ascends (ascends_regs op)).2
    rw [split] at sorted hr
    obtain hl | rfl | hm := by simpa using hr
    · have := fails r hl
      simp [pr] at this
    · exact le_rfl
    · exact (List.pairwise_cons.1 (List.pairwise_append.1 sorted).2.1).1 r hm
  exact ⟨q, List.mem_of_find?_eq_some hq, hq, le_antisymm before (lowest q (List.mem_of_find?_eq_some hq) (List.find?_some hq))⟩

theorem firstField_eq_none {rs : List RegUse} {p : RegUse → Bool} (h : ∀ r ∈ rs, p r = false) : firstField rs p = none := by
  simpa [firstField] using h

/-! ## The turn that reaches an instruction (R47, R63) -/

section Reaches
variable {s u v : State} {tid : Nat} {i : Insn}

theorem step_of_reaches (h : Claims.Reaches s u v tid) : step s = Claims.Ends s (u.issue tid) := by
  obtain ⟨⟨due, pending⟩, ⟨e, turn, prepared, issuer⟩, -⟩ := h
  have happen : s.happen = u.issue tid := by
    simp only [State.happen, due, pending]
    simp only [State.issueTurn, turn]
    rw [← prepared, issuer]
  rw [step, happen]
  cases u.issue tid <;> rfl

theorem step_undecoded (h : Claims.Reaches s u v tid) (undecoded : decode (u.ctx tid).fetched.1 (u.ctx tid).fetched.2 = none) :
    step s = Claims.Ends s (.next (v.trapMe (decodeTrap trapIllegalOp 0 (u.ctx tid).fetched))) := by
  rw [step_of_reaches h, State.issue, h.runs]
  simp only [undecoded]

theorem step_decoded (h : Claims.Reaches s u v tid) (decoded : decode (u.ctx tid).fetched.1 (u.ctx tid).fetched.2 = some i) :
    step s = Claims.Ends s (v.runInsn (u.ctx tid).fetched i) := by
  rw [step_of_reaches h, State.issue, h.runs]
  simp only [decoded]

end Reaches

/-! ## The checks in their order (R47) -/

section Checks
variable {v : State} {w : BitVec 16 × BitVec 64} {i : Insn} {c : Ctx} {op : Instr}

/-- Whether the mode that an instruction runs in lacks a right that it needs (R50, R377). -/
def Ctx.denied (c : Ctx) (op : Instr) : Bool := (c.mode == .user && privileged op) || (c.mode == .supervisor && firmwareOnly op)

theorem denied_iff : c.denied op = true ↔ (c.mode = .user ∧ privileged op = true) ∨ (c.mode = .supervisor ∧ firmwareOnly op = true) := by
  simp [Ctx.denied]

theorem beforeGuard_clash (clash : operandsClash op = true) : c.beforeGuard w op = some (decodeTrap trapIllegalOp 0 w) := by
  simp only [Ctx.beforeGuard, clash, if_true]

theorem beforeGuard_denied (clash : operandsClash op = false) (denied : c.denied op = true) :
    c.beforeGuard w op = some (decodeTrap trapPriv 0 w) := by
  rw [Ctx.beforeGuard, clash, if_neg Bool.false_ne_true]
  exact if_pos denied

theorem beforeGuard_allowed (clash : operandsClash op = false) (allowed : c.denied op = false) :
    c.beforeGuard w op = (firstField (regs op) c.outOfRange).map fun f => decodeTrap trapBadOperand f w := by
  rw [Ctx.beforeGuard, clash, if_neg Bool.false_ne_true]
  exact if_neg (Bool.eq_false_iff.1 allowed)

theorem beforeGuard_passes (clash : operandsClash op = false) (allowed : c.denied op = false) (fits : ∀ r ∈ regs op, c.outOfRange r = false) :
    c.beforeGuard w op = none := by
  rw [beforeGuard_allowed clash allowed, firstField_eq_none fits, Option.map_none]

theorem runInsn_beforeGuard {t : Trap} (h : v.me.beforeGuard w i.op = some t) : v.runInsn w i = .next (v.trapMe t) := by
  simp only [State.runInsn, h]

theorem guardHolds_of (h : ∀ g, i.grd = some g → c.pPend.getLsbD g.g.toNat = false ∧ c.pr g.g.toNat ≠ g.n) : c.guardHolds w i.grd = .ok true := by
  cases hg : i.grd with
  | none => rfl
  | some g => 
    obtain ⟨settled, holds⟩ := h g hg
    simp [Ctx.guardHolds, settled, holds]

theorem runInsn_afterGuard {t : Trap} (before : v.me.beforeGuard w i.op = none) (guard : v.me.guardHolds w i.grd = .ok true)
    (after : v.me.afterGuard w i.op = some t) : v.runInsn w i = .next (v.trapMe t) := by
  simp only [State.runInsn, before, guard, after]

theorem runInsn_runs (before : v.me.beforeGuard w i.op = none) (guard : v.me.guardHolds w i.grd = .ok true)
    (after : v.me.afterGuard w i.op = none) : v.runInsn w i = exec i.op (v.setMe { v.me with sw := i.sw }) := by
  simp only [State.runInsn, before, guard, after]

theorem runInsn_pendingGuard {g : Guard} (before : v.me.beforeGuard w i.op = none) (guard : i.grd = some g)
    (awaited : v.me.pPend.getLsbD g.g.toNat = true) : v.runInsn w i = .next (v.trapMe (decodeTrap trapPendingRead 4 w)) := by
  simp only [State.runInsn, before, guard, Ctx.guardHolds, awaited, if_true]

theorem runInsn_falseGuard {g : Guard} (before : v.me.beforeGuard w i.op = none) (guard : i.grd = some g)
    (settled : v.me.pPend.getLsbD g.g.toNat = false) (fails : v.me.pr g.g.toNat = g.n) :
    v.runInsn w i = .next (v.setMe { v.me with sw := i.sw }.advance) := by
  have no : v.me.guardHolds w (some g) = .ok false := by simp [Ctx.guardHolds, settled, fails]
  simp only [State.runInsn, before, guard, no]

theorem afterGuard_poisoned {r : RegUse} (settled : ∀ r ∈ regs op, c.awaitsLong r = false)
    (first : (regs op).find? (fun r => (c.poisonOf r).isSome) = some r) :
    ∃ a, c.poisonOf r = some a ∧ c.afterGuard w op = some (poisonTrap r.field a) := by
  obtain ⟨found, l, m, split, fails⟩ := List.find?_eq_some_iff_append.1 first
  obtain ⟨a, poisoned⟩ := Option.isSome_iff_exists.1 found
  refine ⟨a, poisoned, ?_⟩
  have clean : l.findSome? (fun r => (c.poisonOf r).map fun a => poisonTrap r.field a) = none := by
    simpa using fails
  rw [Ctx.afterGuard, firstField_eq_none settled]
  simp only [split, List.findSome?_append, clean, List.findSome?_cons, poisoned,
    Option.map_some, Option.none_or]

theorem afterGuard_passes (h : ∀ r ∈ regs op, c.awaitsLong r = false ∧ c.poisonOf r = none) : c.afterGuard w op = none := by
  simp only [Ctx.afterGuard, firstField_eq_none fun r hr => (h r hr).1, List.findSome?_eq_none_iff]
  exact fun r hr => by simp [(h r hr).2]

/-- An instruction that passes every check runs (R47). -/
theorem runInsn_passes (clash : operandsClash i.op = false) (user : v.me.mode = .user → privileged i.op = false)
    (supervisor : v.me.mode = .supervisor → firmwareOnly i.op = false)
    (free : ∀ r ∈ regs i.op, v.me.outOfRange r = false ∧ v.me.awaitsLong r = false ∧ v.me.poisonOf r = none)
    (guard : ∀ g, i.grd = some g → v.me.pPend.getLsbD g.g.toNat = false ∧ v.me.pr g.g.toNat ≠ g.n) :
    v.runInsn w i = exec i.op (v.setMe { v.me with sw := i.sw }) := by
  have allowed : v.me.denied i.op = false := by
    rw [Bool.eq_false_iff, Ne, denied_iff]
    rintro (⟨mode, needs⟩ | ⟨mode, needs⟩)
    · simp [user mode] at needs
    · simp [supervisor mode] at needs
  exact runInsn_runs (beforeGuard_passes clash allowed fun r hr => (free r hr).1) (guardHolds_of guard)
    (afterGuard_passes fun r hr => (free r hr).2)

end Checks

/-! ## What a context prepares (R34, R64, R318) -/

section Prepare
variable {s : State} {tid : Nat}

theorem equip_of_held (line : (s.ctx tid).line.isSome = true) (missing : (s.ctx tid).missing = []) : s.equip tid = s := by
  have held : (s.ctx tid).line.isNone = false := by simpa using line
  simp [State.equip, held, line, missing]

theorem takeEvent_of_none (h : (s.ctx tid).uen = false ∨ (s.ctx tid).events = []) : s.takeEvent tid = s := by
  obtain h | h := h <;> simp [State.takeEvent, h]

theorem prepare_of_idle (h : s.runnable tid = false ∨ (((s.ctx tid).uen = false ∨ (s.ctx tid).events = []) ∧
    ((s.ctx tid).line.isSome = true ∧ (s.ctx tid).missing = []) ∧ (s.ctx tid).midway = false ∧ (s.ctx tid).stage = 0)) : s.prepare tid = s := by
  obtain h | ⟨event, ⟨line, missing⟩, midway, stage⟩ := h
  · simp [State.prepare, h]
  · have landed : (s.ctx tid).inFlight = false := by simp [Ctx.inFlight, midway, stage]
    cases run : s.runnable tid <;> simp [State.prepare, run, equip_of_held line missing, landed, takeEvent_of_none event]

theorem prepare_of_inFlight (run : s.runnable tid = true) (line : (s.ctx tid).line.isSome = true) (missing : (s.ctx tid).missing = [])
    (flight : (s.ctx tid).midway = true ∨ (s.ctx tid).stage ≠ 0) : s.prepare tid = ((s.goOn tid).equip tid).takeEvent tid := by
  have inFlight : (s.ctx tid).inFlight = true := by simpa [Ctx.inFlight] using flight
  simp [State.prepare, run, equip_of_held line missing, inFlight, Ctx.equipped, line, missing]

/-- An instruction in flight runs as at its issue, but for what an issue notes (R63, R64). -/
theorem goOn_of_next {i : Insn} {t w : State} (decoded : decode (s.ctx tid).fetched.1 (s.ctx tid).fetched.2 = some i)
    (before : w = ({ s.setCtx tid { s.ctx tid with park := none } with cur := tid } : State))
    (runs : (if passesStores (s.ctx tid).nextOp then w else w.landStores tid).runInsn (s.ctx tid).fetched i = .next t) :
    s.goOn tid = { t with cur := s.cur } := by
  subst before
  simp only [State.goOn, decoded, runs]

end Prepare

/-- Settles O53. -/
theorem stepRunsDecoded : Obligations.StepRunsDecoded := by
  refine ⟨fun s u v tid i reaches decoded clash user supervisor free guard => ?_, fun s tid => ⟨prepare_of_idle, fun run held flight => ?_⟩,
    fun s t tid i decoded clash user supervisor free guard runs => ?_⟩
  · rw [step_decoded reaches decoded, runInsn_passes clash user supervisor free guard]
  · exact prepare_of_inFlight run held.1 held.2 flight
  · exact goOn_of_next decoded rfl ((runInsn_passes clash user supervisor free guard).trans runs)

/-- Settles O54, check by check. -/
theorem decodeSequence : Obligations.DecodeSequence := by
  intro s u v tid i reaches
  have stops {t : Trap} (decoded : decode (u.ctx tid).fetched.1 (u.ctx tid).fetched.2 = some i)
      (h : v.runInsn (u.ctx tid).fetched i = .next (v.trapMe t)) : step s = Claims.Ends s (.next (v.trap v.cur t)) := by
    rw [step_decoded reaches decoded, h, State.trapMe]
  refine ⟨fun undecoded => step_undecoded reaches undecoded, fun decoded clash => stops decoded (runInsn_beforeGuard (beforeGuard_clash clash)),
    fun decoded clash => ⟨fun denied => stops decoded (runInsn_beforeGuard (beforeGuard_denied clash (denied_iff.2 denied))), fun allowed => ?_⟩⟩
  have allowed : v.me.denied i.op = false := Bool.eq_false_iff.2 (mt denied_iff.1 allowed)
  refine ⟨fun f low => stops decoded (runInsn_beforeGuard ?_), fun fits g guard => ⟨fun awaited => ?_, fun settled fails => ?_⟩,
    fun fits guard => ⟨fun f low => stops decoded ?_, fun settled f low => ?_⟩⟩
  · obtain ⟨r, -, first, field⟩ := firstField_of_lowest low
    simp [beforeGuard_allowed clash allowed, firstField, first, field, decodeTrap, trapBadOperand]
  · exact stops decoded (runInsn_pendingGuard (beforeGuard_passes clash allowed fits) guard awaited)
  · rw [step_decoded reaches decoded, runInsn_falseGuard (beforeGuard_passes clash allowed fits) guard settled fails]
  · obtain ⟨r, -, first, field⟩ := firstField_of_lowest low
    refine runInsn_afterGuard (beforeGuard_passes clash allowed fits) (guardHolds_of guard) ?_
    simp [Ctx.afterGuard, firstField, first, field, decodeTrap, trapPendingRead]
  · obtain ⟨r, hr, first, field⟩ := firstField_of_lowest low
    obtain ⟨a, poisoned, after⟩ := afterGuard_poisoned (w := (u.ctx tid).fetched) settled first
    refine ⟨r, hr, field, a, poisoned, ?_⟩
    rw [← field]
    exact stops decoded (runInsn_afterGuard (beforeGuard_passes clash allowed fits) (guardHolds_of guard) after)

end Sys2Proof.Machine
end

section
/-! PROOFS. Fences at rest (O16): a TQRY whose request stands at another device is a load on its way (R139, R157), though nothing is in flight in the
package and the thread counts nothing outstanding; so a thread at rest may still find its fence parked. -/

namespace Sys2Proof.Machine

/-- An instruction that parks its thread does not complete: the thread is midway, and one that has moved on is not (R31, R37). -/
theorem not_completesFrom_of_parks {i : Instr} {s u : State} {p : Park} {f : Ctx → Ctx} {es : List Event} (parks : exec i s = .next (s.parkMe p))
    (same : u.cur = s.cur) : ¬ CompletesFrom i s u f es := by
  rintro ⟨t, ends, differs⟩
  obtain rfl : s.parkMe p = t := Host.Outcome.next.inj (parks.symm.trans ends)
  have midway : ((s.parkMe p).ctx s.cur).midway = true := by simp [State.parkMe, State.setMe]
  have thread := differs.thread
  rw [same] at thread
  rw [thread] at midway
  exact Bool.false_ne_true midway

theorem exec_fenceAcq_loading {k : BitVec 3} {s : State} (h : s.loading s.cur = true) : exec (.fenceAcq k) s = .next (s.parkMe .loads) := by
  show Host.Outcome.next (s.acqPart k.toNat) = _
  rw [State.acqPart, if_pos h]

/-- A TQRY of thread 0 that another device has been asked (R157, R416). -/
def tqryAbroad : KeyReq :=
  { src := ⟨0, 0, 0, 0⟩, key := ⟨0, 0, 0, 0, 0⟩, home := 0, desc := ⟨0, 0, 0, 0, 0, 0, 0, false, false, 0, true, 1, 0⟩, use := .tqry 5, rdr := 0,
    since := 0, rcb := 0, rcbAsid := 0, peer := none }

/-- The machine after reset, with no message in flight, in which thread 0 waits for the answer to its TQRY from another device. -/
def waitingAbroad : State := { State.reset with pending := [], remotes := [(0, .key tqryAbroad)] }

theorem atRest_waitingAbroad : AtRest waitingAbroad :=
  ⟨rfl, rfl, rfl, rfl, nofun, rfl⟩

theorem loading_waitingAbroad : waitingAbroad.loading waitingAbroad.cur = true := rfl

/-- Refutes O16: the last clause of `Claims.Fences` has FENCE.ACQ complete in every thread at rest, and `AtRest` does not look at what waits for
another device's answer; in `waitingAbroad` the thread is at rest and FENCE.ACQ parks for the TQRY. -/
theorem not_fencesAndSync : ¬ Obligations.FencesAndSync := by
  rintro ⟨fences, -, -⟩
  obtain ⟨-, -, -, -, -, -, -, -, -, atRest⟩ := fences waitingAbroad 0
  obtain ⟨-, completes, -, -⟩ := atRest atRest_waitingAbroad rfl fun _ h => absurd h List.not_mem_nil
  exact not_completesFrom_of_parks (exec_fenceAcq_loading loading_waitingAbroad) (by split <;> rfl) completes

end Sys2Proof.Machine
end

section
/-! PROOFS. Bytes of a value under a mask, as a merge leaves them (R2, R96). -/

namespace Sys2Proof.Machine

theorem mergeBytes_byte (old new mask : Nat) {n k : Nat} (hk : k < n) :
    mergeBytes n old new mask / 2 ^ (8 * k) % 256 = if mask.testBit k then new / 2 ^ (8 * k) % 256 else old / 2 ^ (8 * k) % 256 := by
  induction n generalizing old new mask k with
  | zero => omega
  | succ n ih =>
    cases k with
    | zero =>
      simp only [mergeBytes, Nat.mul_zero, Nat.pow_zero, Nat.div_one, Nat.testBit_zero, decide_eq_true_eq]
      split <;> omega
    | succ k =>
      have shift : 2 ^ (8 * (k + 1)) = 256 * 2 ^ (8 * k) := by rw [Nat.mul_add, Nat.pow_add, Nat.mul_comm]
      have low : (if mask % 2 = 1 then new % 256 else old % 256) / 256 = 0 := by split <;> omega
      have rest := ih (old / 256) (new / 256) (mask / 2) (Nat.lt_of_succ_lt_succ hk)
      rw [mergeBytes, shift, ← Nat.div_div_eq_div_mul, Nat.add_mul_div_left _ _ (by decide), low, Nat.zero_add, rest, Nat.testBit_succ,
        ← Nat.div_div_eq_div_mul, ← Nat.div_div_eq_div_mul]

theorem ofNat_eq_ofNat_of_mod {a b : Nat} (h : a % 256 = b % 256) : BitVec.ofNat 8 a = BitVec.ofNat 8 b :=
  BitVec.eq_of_toNat_eq (by simpa using h)

/-- A byte of a merge is the new value's where the mask names it, and the old value's elsewhere (R96). -/
theorem ofNat_mergeBytes_byte (old new mask : Nat) {n k : Nat} (hk : k < n) : BitVec.ofNat 8 (mergeBytes n old new mask / 2 ^ (8 * k)) =
    if mask.testBit k then BitVec.ofNat 8 (new / 2 ^ (8 * k)) else BitVec.ofNat 8 (old / 2 ^ (8 * k)) := by
  have byte := mergeBytes_byte old new mask hk
  split at byte
  · rw [if_pos ‹_›]; exact ofNat_eq_ofNat_of_mod byte
  · rw [if_neg ‹_›]; exact ofNat_eq_ofNat_of_mod byte

theorem ofNat_toNat_byte (x : BitVec 1024) (k : Nat) : BitVec.ofNat 8 (x.toNat / 2 ^ (8 * k)) = x.extractLsb' (8 * k) 8 := by
  rw [← Nat.shiftRight_eq_div_pow]; rfl

theorem extractLsb'_mergeBytes (old : BitVec 1024) (new mask : Nat) {k : Nat} (hk : k < 128) :
    (BitVec.ofNat 1024 (mergeBytes 128 old.toNat new mask)).extractLsb' (8 * k) 8 =
      if mask.testBit k then BitVec.ofNat 8 (new / 2 ^ (8 * k)) else old.extractLsb' (8 * k) 8 := by
  rw [← ofNat_toNat_byte old]
  exact (extractLsb'_byte 128 _ k hk).trans (ofNat_mergeBytes_byte _ _ _ hk)

/-- A run of bytes is that of its value. -/
theorem bytesOf_valueOf (bs : List Byte) : bytesOf bs.length (valueOf bs) = bs := by
  induction bs with
  | nil => rfl
  | cons b r ih =>
    have low : BitVec.ofNat 8 (b.toNat + 256 * valueOf r) = b := by
      rw [ofNat_eq_ofNat_of_mod (Nat.add_mul_mod_self_left _ _ _)]; simp
    have high : (b.toNat + 256 * valueOf r) / 256 = valueOf r := by have := b.isLt; omega
    rw [List.length_cons, valueOf, bytesOf, low, high, ih]

theorem byteMask_testBit (off n k : Nat) : (byteMask off n).testBit k = (decide (off ≤ k) && decide (k < off + n)) := by
  rw [byteMask, Nat.testBit_mul_two_pow, Nat.testBit_two_pow_sub_one]
  by_cases h : off ≤ k
  · simp [h, Nat.sub_lt_iff_lt_add h, Nat.add_comm]
  · simp [h]

theorem shifted_byte {v off k : Nat} (h : off ≤ k) : v * 2 ^ (8 * off) / 2 ^ (8 * k) = v / 2 ^ (8 * (k - off)) := by
  have split : 2 ^ (8 * k) = 2 ^ (8 * off) * 2 ^ (8 * (k - off)) := by rw [← Nat.pow_add]; congr 1; omega
  rw [split, ← Nat.div_div_eq_div_mul, Nat.mul_div_cancel _ (Nat.two_pow_pos _)]

end Sys2Proof.Machine
end

section
/-! PROOFS. What stands at a home and in the dies' copies, and the operations of the home and its slices that leave it (R119 to R121, R131, R162
to R164, R169). -/

namespace Sys2Proof.Machine

theorem SMap.find?_erase_of_none {α : Type} (m : SMap α) (j k : Nat) (h : m.find? k = none) : (m.erase j).find? k = none := by
  induction m with
  | nil => rfl
  | cons e r ih =>
    obtain ⟨i, v⟩ := e
    simp only [SMap.find?] at h
    split at h
    · cases h
    · rename_i hi
      by_cases hj : i = j
      · simpa [SMap.erase, hj] using ih h
      · simpa [SMap.erase, hj, SMap.find?, hi] using ih h

/-- Memory, its marks and the dies' copies: what the lines hold wherever they stand. -/
def State.stored (s : State) : List Host.Cell × List Nat × SMap Proxy := (s.mem, s.poisoned, s.proxies)

theorem State.stored_eq_iff {s t : State} : t.stored = s.stored ↔ t.mem = s.mem ∧ t.poisoned = s.poisoned ∧ t.proxies = s.proxies := by
  simp [State.stored]

theorem State.readLine_congr {s t : State} (h : t.mem = s.mem) (line : Nat) : t.readLine line = s.readLine line := by
  have bytes : ∀ n a, t.readBytes a n = s.readBytes a n := by
    intro n
    induction n with
    | zero => intro a; rfl
    | succ n ih => intro a; rw [State.readBytes, State.readBytes, ih, State.byte_congr h]
  rw [State.readLine, State.readLine, State.read, State.read, bytes]

theorem State.linePoison_congr {s t : State} (h : t.poisoned = s.poisoned) (line : Nat) : t.linePoison line = s.linePoison line := by
  rw [State.linePoison, State.linePoison, h]

/-! ## Ways of a slice -/

theorem State.pageErrors_stored (s : State) (line : Nat) : (s.pageErrors line).stored = s.stored := by
  refine foldl_keeps State.stored _ (fun s e => foldl_keeps State.stored _ (fun s x => ?_) _ s) _ s
  dsimp only
  split <;> rfl

theorem State.l2Evict_stored (s : State) (k line : Nat) : (s.l2Evict k line).stored = s.stored := by
  simp only [State.l2Evict]
  split
  · rfl
  · split <;> rfl

/-- A line that takes a way moves no byte (R162). -/
theorem State.l2Take_stored (s : State) (line die : Nat) : (s.l2Take line die).stored = s.stored := by
  simp only [State.l2Take]
  split
  · rfl
  · refine Eq.trans ?_ (s.pageErrors_stored line)
    split
    · rfl
    · exact State.l2Evict_stored _ _ _

theorem State.l2Take_of_mem {s : State} {line die : Nat} (h : line ∈ (s.slice (sliceAt die (sliceIndex line))).l2) : s.l2Take line die = s := by
  simp [State.l2Take, h]

theorem State.setProxy_mem (s : State) (line die : Nat) (p : Proxy) : (s.setProxy line die p).mem = s.mem :=
  (State.stored_eq_iff.1 (s.l2Take_stored line die)).1

theorem State.setProxy_poisoned (s : State) (line die : Nat) (p : Proxy) : (s.setProxy line die p).poisoned = s.poisoned :=
  (State.stored_eq_iff.1 (s.l2Take_stored line die)).2.1

theorem State.proxy_setProxy (s : State) (line die : Nat) (p : Proxy) : (s.setProxy line die p).proxy line die = some p :=
  SMap.find?_set_self _ _ _

theorem State.awake_stored (s : State) (k : Nat) : (s.awake k).stored = s.stored := by
  unfold State.awake
  split <;> rfl

theorem State.proxy_congr {s t : State} (h : t.stored = s.stored) (line die : Nat) : t.proxy line die = s.proxy line die := by
  rw [State.proxy, State.proxy, (State.stored_eq_iff.1 h).2.2]

/-! ## A die without a copy stays without one while the home makes ready to write (R121, R162, R164) -/

theorem State.copyHome_proxies (s : State) (line die : Nat) : (s.copyHome line die).proxies = s.proxies := by
  unfold State.copyHome
  split
  · rfl
  · split
    · exact (State.stored_eq_iff.1 (s.awake_stored _)).2.2
    · exact (State.stored_eq_iff.1 (s.awake_stored _)).2.2
    · rfl

theorem State.bringHome_proxies (s : State) (line die : Nat) : (s.bringHome line die).proxies = s.proxies := by
  unfold State.bringHome
  split
  · rfl
  · split
    · exact s.copyHome_proxies line die
    · exact s.copyHome_proxies line die
    · rfl

/-- No die's copy stands under this key of the table. -/
def State.Uncopied (j : Nat) (s : State) : Prop := s.proxies.find? j = none

theorem State.Uncopied.of_proxies {j : Nat} {s t : State} (h : s.Uncopied j) (same : t.proxies = s.proxies) : t.Uncopied j := by
  rwa [State.Uncopied, same]

theorem State.Uncopied.dropProxy {j : Nat} {s : State} (h : s.Uncopied j) (line die : Nat) : (s.dropProxy line die).Uncopied j :=
  SMap.find?_erase_of_none _ _ _ h

theorem State.Uncopied.dropProxies {j : Nat} {s : State} (h : s.Uncopied j) (line : Nat) (ds : List Nat) :
    (ds.foldl (fun s d => s.dropProxy line d) s).Uncopied j :=
  List.foldlRecOn ds _ h fun _ hs d _ => hs.dropProxy line d

theorem State.Uncopied.recall {j : Nat} {s : State} (h : s.Uncopied j) (line : Nat) : (s.recall line).Uncopied j := by
  unfold State.recall
  split
  · exact h
  · exact (h.dropProxies line _).of_proxies rfl
  · exact ((h.of_proxies (s.bringHome_proxies line _)).dropProxy line _).of_proxies rfl
  · exact ((h.of_proxies (s.bringHome_proxies line _)).dropProxies line _).of_proxies rfl

theorem State.setNff_proxies (s : State) (k : Nat) (b : Bool) : (s.setNff k b).proxies = s.proxies := by
  cases b <;> rfl

theorem State.Uncopied.foldAddr {j : Nat} {s : State} (h : s.Uncopied j) (a : Nat) : (s.foldAddr a).Uncopied j := by
  simp only [State.foldAddr]
  split
  · exact h
  · exact (h.recall (lineOf a)).of_proxies (State.setNff_proxies _ _ _)

theorem State.Uncopied.foldLine {j : Nat} {s : State} (h : s.Uncopied j) (line : Nat) : (s.foldLine line).Uncopied j :=
  List.foldlRecOn _ _ h fun _ hs a _ => hs.foldAddr a

theorem State.Uncopied.homeWrite {j : Nat} {s : State} (h : s.Uncopied j) (line : Nat) : (s.homeWrite line).Uncopied j :=
  ((h.foldLine line).recall line).of_proxies
    ((State.stored_eq_iff.1 (State.l2Take_stored _ _ _)).2.2.trans (State.stored_eq_iff.1 (State.awake_stored _ _)).2.2)

/-- A line that no till, no other die and no retained slice holds, and that has its way, is ready to be written (R121, R164, R169). -/
theorem State.homeWrite_of_ready {s : State} {line : Nat} (dir : s.dirOf line = none) (tills : s.tilledOn line = [])
    (awake : (s.slice (homeSlice line)).retained = false) (way : line ∈ (s.slice (homeSlice line)).l2) : s.homeWrite line = s := by
  have folded : s.foldLine line = s := by rw [State.foldLine, tills]; rfl
  have recalled : s.recall line = s := by rw [State.recall, dir]
  have woken : s.awake (homeSlice line) = s := by simp [State.awake, awake]
  rw [State.homeWrite, folded, recalled, woken]
  exact State.l2Take_of_mem way

/-! ## A tag and the walk over waiters (R119, R131) -/

theorem State.startDrain_mem (s : State) (line : Nat) (cores : List Nat) (d : Drain) : (s.startDrain line cores d).mem = s.mem := by
  simp only [State.startDrain]
  split
  · rfl
  · exact foldl_keeps State.mem (fun (s : State) q => s.post (.drainCommandArrival q _)) (fun _ _ => rfl) _ _

theorem State.startDrain_slices (s : State) (line : Nat) (cores : List Nat) (d : Drain) : (s.startDrain line cores d).slices = s.slices := by
  simp only [State.startDrain]
  split
  · rfl
  · exact foldl_keeps State.slices (fun (s : State) q => s.post (.drainCommandArrival q _)) (fun _ _ => rfl) _ _

theorem State.satisfy_mem (s : State) (w : Waiter) : (s.satisfy w).mem = s.mem := by
  simp only [State.satisfy]
  split
  · exact State.startDrain_mem _ _ _ _
  · rfl

theorem State.satisfy_slices (s : State) (w : Waiter) : (s.satisfy w).slices = s.slices := by
  simp only [State.satisfy]
  split
  · exact State.startDrain_slices _ _ _ _
  · rfl

theorem State.walkWaiters_mem (s : State) (line : Nat) : (s.walkWaiters line).mem = s.mem :=
  foldl_keeps State.mem _ State.satisfy_mem _ _

theorem State.seqOf_congr {s t : State} (h : t.slices = s.slices) (line : Nat) : t.seqOf line = s.seqOf line := by
  rw [State.seqOf, State.seqOf, State.slice, State.slice, h]

theorem State.walkWaiters_seqOf (s : State) (line : Nat) : (s.walkWaiters line).seqOf line = s.seqOf line := by
  refine (State.seqOf_congr (foldl_keeps State.slices _ State.satisfy_slices _ _) line).trans ?_
  simp [State.seqOf]

theorem State.tag_fst (s : State) (line : Nat) : (s.tag line).1 = (s.seqOf line + 1) % 65536 := rfl

theorem State.tag_mem (s : State) (line : Nat) : (s.tag line).2.mem = s.mem := rfl

theorem State.tag_seqOf (s : State) (line : Nat) : (s.tag line).2.seqOf line = (s.seqOf line + 1) % 65536 := by
  simp [State.tag, State.setSeq, State.seqOf]

theorem State.writeMarked_proxies (s : State) (a n v : Nat) (bad : Bool) : (s.writeMarked a n v bad).proxies = s.proxies := by
  cases bad <;> rfl

theorem State.seqOf_writeMarked (s : State) (a n v : Nat) (bad : Bool) (line : Nat) : (s.writeMarked a n v bad).seqOf line = s.seqOf line := by
  cases bad <;> rfl

end Sys2Proof.Machine
end

section
/-! PROOFS. Fills and write-through stores (R32, R96, R97, R104, R164, R166, R169). -/

namespace Sys2Proof.Machine

/-! ## A fill of one line at the home -/

section
variable {s t : State} {q : MemReq} {line mode : Nat} {skip : List Nat}

theorem exec_fillAtHome_held {d slot : Nat} (one : unboundLines q = [(line, mode)]) (held : s.pageHolding (128 * line) = some (d, slot)) :
    exec (.fillAtHome ⟨q, skip⟩) s = .next (s.hold d slot (.fill ⟨q, skip⟩)) := by
  change execFillAtHome _ s = _
  simp [execFillAtHome, one, held, State.enterHome]

/-- A line that can be read answers the fill with its bytes and marks; one held for the skipped list is bound, not installed (R96, R166). -/
theorem exec_fillAtHome_read {d : Nat} {p : BitVec 16} (one : unboundLines q = [(line, mode)]) (free : s.pageHolding (128 * line) = none)
    (read : s.lineFor (dieOf q.src.core) line mode q.na = some (t, d, p)) :
    exec (.fillAtHome ⟨q, skip⟩) s = .next ((t.tagCopies (dieOf q.src.core) q).post (.lineFillArrival
      { q with lanes := q.lanes.map (bindFrom [(line, BitVec.ofNat 1024 d, p)]) }
      (if line ∈ skip then [] else [(line, BitVec.ofNat 1024 d, p)]))) := by
  change execFillAtHome _ s = _
  by_cases skipped : line ∈ skip <;> simp [execFillAtHome, one, free, State.readLines, read, skipped]

/-- One that cannot sends GetS first (R164). -/
theorem exec_fillAtHome_unread (one : unboundLines q = [(line, mode)]) (free : s.pageHolding (128 * line) = none)
    (unread : s.lineFor (dieOf q.src.core) line mode q.na = none) :
    exec (.fillAtHome ⟨q, skip⟩) s =
      .next ((s.postFront (.fillAtHome ⟨q, skip⟩)).postFront (.getsAtHome line (dieOf q.src.core))) := by
  change execFillAtHome _ s = _
  simp [execFillAtHome, one, free, State.readLines, unread]

end

section
variable {s : State} {die line mode : Nat} {na : Bool}

theorem State.lineFor_near (near : (na || homeDie line == die || mode == 2) = true) :
    s.lineFor die line mode na = some (s.homeRead line, (s.homeRead line).readLine line, (s.homeRead line).linePoison line) :=
  if_pos near

theorem State.lineFor_copy {p : Proxy} (far : (na || homeDie line == die || mode == 2) = false) (copy : s.proxy line die = some p)
    (awake : ¬((s.slice (sliceAt die (sliceIndex line))).retained = true ∧ p.clean = true)) :
    s.lineFor die line mode na = some (s, p.data.toNat, p.pois) := by
  rw [← Bool.and_eq_true] at awake
  simp only [State.lineFor, far, copy, if_neg awake, Bool.false_eq_true, if_false]

theorem State.lineFor_asleep {p : Proxy} (far : (na || homeDie line == die || mode == 2) = false) (copy : s.proxy line die = some p)
    (asleep : (s.slice (sliceAt die (sliceIndex line))).retained = true ∧ p.clean = true) :
    s.lineFor die line mode na = some (s.foldLine line, (s.foldLine line).view (128 * line) 128, (s.foldLine line).linePoison line) := by
  rw [← Bool.and_eq_true] at asleep
  simp only [State.lineFor, far, copy, if_pos asleep, Bool.false_eq_true, if_false]

theorem State.lineFor_uncopied (far : (na || homeDie line == die || mode == 2) = false) (uncopied : s.proxy line die = none) (coherent : mode ≠ 1) :
    s.lineFor die line mode na = none := by
  simp [State.lineFor, far, uncopied, coherent]

/-- An NC copy is made from the home, and supplies what the home holds (R121, R166). -/
theorem State.lineFor_nc (far : (na || homeDie line == die || mode == 2) = false) (uncopied : s.proxy line die = none) (nc : mode = 1) :
    s.lineFor die line mode na =
      some ((s.homeRead line).setProxy line die
          ⟨.nc, BitVec.ofNat 1024 ((s.homeRead line).readLine line), 0, (s.homeRead line).linePoison line, 0, 0⟩,
        (s.homeRead line).readLine line, (s.homeRead line).linePoison line) := by
  simp only [State.lineFor, far, uncopied, if_pos nc, Bool.false_eq_true, if_false, State.ncFill,
    State.readLine_congr (State.setProxy_mem _ _ _ _), State.linePoison_congr (State.setProxy_poisoned _ _ _ _)]

end

/-! ## Its arrival -/

theorem exec_lineFillArrival_one {s : State} {q : MemReq} {l : Lane} (na : q.na = false) (one : q.lanes = [l]) (d : BitVec 1024) (p : BitVec 16) :
    exec (.lineFillArrival q [(lineOf l.pa, d, p)]) s = .next ((s.fillCached q.src.core (lineOf l.pa) l.key l.mode d p).routeLoad q) := by
  change execLineFillArrival _ _ s = _
  simp [execLineFillArrival, na, one]

theorem exec_lineFillArrival_na {s : State} {q : MemReq} (na : q.na = true) (ls : List (Nat × BitVec 1024 × BitVec 16)) :
    exec (.lineFillArrival q ls) s = .next (s.routeLoad q) := by
  change execLineFillArrival _ _ s = _
  simp [execLineFillArrival, na]

theorem State.cacheLine_putLine (s : State) (core tag : Nat) (l : CacheLine) :
    (s.putLine core tag l).cacheLine core tag = some { l with used := (s.core core).uses } := by
  simp [State.cacheLine, State.putLine, SMap.find?_set_self]

theorem State.cacheRoom_of_held {s : State} {core tag : Nat} {c : CacheLine} (held : s.cacheLine core tag = some c) :
    s.cacheRoom core tag = s := by
  simp [State.cacheRoom, held]

/-- A fill of a line that the core holds (R96, R101). -/
theorem State.cacheLine_fillCached {s : State} {core line key mode : Nat} {c : CacheLine} (sets : s.cacheSets core ≠ 0)
    (held : s.cacheLine core (tagOf line key) = some c) (d : BitVec 1024) (p : BitVec 16) :
    (s.fillCached core line key mode d p).cacheLine core (tagOf line key) = some { c with
      data := BitVec.ofNat 1024 (mergeBytes 128 d.toNat c.data.toNat c.dirty.toNat), valid := BitVec.allOnes 128,
      pois := mergeMarks p c.pois c.dirty, used := (s.core core).uses } := by
  simp only [State.fillCached, if_neg sets, State.cacheRoom_of_held held, held, Option.getD_some]
  exact State.cacheLine_putLine _ _ _ _

/-! ## A write-through store of one lane -/

section
variable {s : State} {q : MemReq} {l : Lane}

/-- What a write-through store of one lane leaves at the home and in the storing die's copy (R97, R119, R166). -/
def State.writtenThrough (s : State) (q : MemReq) (l : Lane) (v : Nat) : State :=
  ((s.homeWrite (lineOf l.pa)).writeMarked l.pa l.n v l.bad).updateCopy (dieOf q.src.core) [(l, v)]

theorem exec_writeThroughAtHome_one (one : q.lanes = [l]) (free : s.pageHolding l.pa = none) (v : Nat) :
    exec (.writeThroughAtHome q [v]) s = .next ((((s.writtenThrough q l v).tag (lineOf l.pa)).2.walkWaiters (lineOf l.pa)).answerWrite q
      ((s.writtenThrough q l v).tag (lineOf l.pa)).1) := by
  change execWriteThroughAtHome _ _ s = _
  simp [execWriteThroughAtHome, one, free, State.enterHome, State.writtenThrough]

theorem State.writtenThrough_of_uncopied (uncopied : s.proxy (lineOf l.pa) (dieOf q.src.core) = none) (v : Nat) :
    s.writtenThrough q l v = (s.homeWrite (lineOf l.pa)).writeMarked l.pa l.n v l.bad := by
  have ready : (s.homeWrite (lineOf l.pa)).Uncopied (4 * lineOf l.pa + dieOf q.src.core) := State.Uncopied.homeWrite uncopied _
  have written : ((s.homeWrite (lineOf l.pa)).writeMarked l.pa l.n v l.bad).proxy (lineOf l.pa) (dieOf q.src.core) = none :=
    ready.of_proxies (State.writeMarked_proxies _ _ _ _ _)
  simp only [State.writtenThrough, State.updateCopy, written]

/-- Without a copy in the storing die, the store is the home's own (R97, R119). -/
theorem exec_writeThroughAtHome_uncopied (one : q.lanes = [l]) (free : s.pageHolding l.pa = none)
    (uncopied : s.proxy (lineOf l.pa) (dieOf q.src.core) = none) (v : Nat) :
    exec (.writeThroughAtHome q [v]) s = .next ((s.homeStore l.pa l.n v l.bad).2.answerWrite q (s.homeStore l.pa l.n v l.bad).1) := by
  rw [exec_writeThroughAtHome_one one free, State.writtenThrough_of_uncopied uncopied]
  rfl

end

theorem State.answerWrite_ack (s : State) {q : MemReq} (plain : ∀ r w g, q.dst ≠ .x r w g) (tag : Nat) :
    s.answerWrite q tag = s.post (.writeAckArrival q.src.tid tag) := by
  unfold State.answerWrite
  split
  · exact absurd ‹_› (plain _ _ _)
  · rfl

theorem State.answerWrite_status (s : State) {q : MemReq} {r : R5} {n : Nat} {g : Bool} (status : q.dst = .x r n g) (tag : Nat) :
    s.answerWrite q tag = s.post (.longResultArrival (Reply.of q.src.tid [.x r 0 none] false)) := by
  simp only [State.answerWrite, status]

/-- The tag of a store at the home is the next of its line (R119). -/
theorem State.homeStore_tag (s : State) (a n v : Nat) (bad : Bool) :
    (s.homeStore a n v bad).1 = ((s.homeWrite (lineOf a)).seqOf (lineOf a) + 1) % 65536 := by
  change (((s.homeWrite (lineOf a)).writeMarked a n v bad).seqOf (lineOf a) + 1) % 65536 = _
  rw [State.seqOf_writeMarked]

/-- A write-through store updates the bytes of the die's NC copy that it writes, and no others (R166). -/
theorem State.updateCopy_nc {s : State} {die : Nat} {l : Lane} {p : Proxy} (copy : s.proxy (lineOf l.pa) die = some p) (nc : p.st = .nc) (v : Nat) :
    ∃ n, (s.updateCopy die [(l, v)]).proxy (lineOf l.pa) die = some n ∧ n.st = .nc ∧ n.dirty = p.dirty ∧
      ∀ k, k < 128 → n.data.extractLsb' (8 * k) 8 =
        if l.pa % 128 ≤ k ∧ k < l.pa % 128 + l.n then BitVec.ofNat 8 (v / 2 ^ (8 * (k - l.pa % 128))) else p.data.extractLsb' (8 * k) 8 := by
  have update : s.updateCopy die [(l, v)] = (s.setProxy (lineOf l.pa) die { p with
      data := BitVec.ofNat 1024 (mergeBytes 128 p.data.toNat (v * 2 ^ (8 * (l.pa % 128))) (byteMask (l.pa % 128) l.n))
      pois := marksAfter p.pois (l.pa % 128) l.n l.bad }).awakeCopy (lineOf l.pa) die := by
    simp only [State.updateCopy, copy, nc, ne_eq, not_true_eq_false, if_false, List.foldl_cons, List.foldl_nil]
  rw [update]
  refine ⟨_, (State.proxy_congr (State.awake_stored _ _) _ _).trans (State.proxy_setProxy _ _ _ _), nc, rfl, fun k hk => ?_⟩
  rw [extractLsb'_mergeBytes _ _ _ hk, byteMask_testBit, ← Bool.decide_and]
  by_cases inside : l.pa % 128 ≤ k ∧ k < l.pa % 128 + l.n
  · rw [if_pos (by simpa using inside), if_pos inside, shifted_byte inside.1]
  · rw [if_neg (by simpa using inside), if_neg inside]

theorem fillsAndWriteThroughs : Claims.FillsAndWriteThroughs := by
  intro s q line mode l v tid tag serial skip bytes
  refine ⟨fun one free => ⟨fun near => ?_, fun far p copy => ⟨fun awake => ?_, fun asleep => ?_⟩, fun far uncopied coherent => ?_,
    fun far uncopied nc => ?_⟩, fun slot d one held => exec_fillAtHome_held one held, fun ls na => exec_lineFillArrival_na na ls,
    fun na one d p => exec_lineFillArrival_one na one d p, fun core key d p c sets held => ?_, fun one free uncopied => ⟨fun plain => ?_,
    fun r n g status => ?_, s.homeStore_tag _ _ _ _⟩, fun one free => ⟨exec_writeThroughAtHome_one one free v, fun p copy nc => ?_⟩, rfl,
    fun other => if_pos other, fun waits => if_neg (not_not_intro waits)⟩
  · exact exec_fillAtHome_read one free (State.lineFor_near near)
  · simpa using exec_fillAtHome_read one free (State.lineFor_copy far copy awake)
  · exact exec_fillAtHome_read one free (State.lineFor_asleep far copy asleep)
  · exact exec_fillAtHome_unread one free (State.lineFor_uncopied far uncopied coherent)
  · exact exec_fillAtHome_read one free (State.lineFor_nc far uncopied nc)
  · refine ⟨_, State.cacheLine_fillCached sets held d p, rfl, rfl, rfl, fun i hi => ?_⟩
    exact (extractLsb'_mergeBytes _ _ _ hi).trans (by rw [ofNat_toNat_byte]; rfl)
  · rw [exec_writeThroughAtHome_uncopied one free uncopied, State.answerWrite_ack _ plain]
  · rw [exec_writeThroughAtHome_uncopied one free uncopied, State.answerWrite_status _ status]
  · exact State.updateCopy_nc copy nc v

end Sys2Proof.Machine
end

section
/-! PROOFS. Write-backs merge at the home or in the die's own copy (R96, R97, R119, R146, R163, R164, R166). -/

namespace Sys2Proof.Machine

/-! ## Where the data goes -/

theorem State.mergeGone_iff (s : State) (line die : Nat) (nc : Bool) : s.mergeGone line die nc = true ↔
    s.sliceGone (sliceAt die (sliceIndex line)) = true ∨ (s.sliceGone (homeSlice line) = true ∧
      ¬∃ p, s.proxy line die = some p ∧ (nc = true ∨ p.st = .m ∨ p.st = .e)) := by
  unfold State.mergeGone
  cases s.proxy line die with
  | none => simp
  | some p => cases nc <;> cases p.st <;> simp

section
variable {s : State} {tid core line key : Nat} {d : BitVec 1024} {m : BitVec 128} {nc : Bool} {pois : BitVec 16} {p : Proxy}

theorem exec_writeBackMerge_gone (gone : s.mergeGone line (dieOf core) nc = true) :
    exec (.writeBackMerge (some tid) core line key d m nc pois) s = .next (s.post (.writeAckArrival tid 0)) :=
  if_pos gone

/-- What a write-back leaves at its home before its tag: the line's bytes and marks (R96, R101). -/
def State.mergeBack (s : State) (line : Nat) (d : BitVec 1024) (m : BitVec 128) (pois : BitVec 16) : State :=
  (s.writeLine line d.toNat m.toNat).markLine line pois (wholeWords m)

theorem State.mergeBack_seqOf (s : State) (line : Nat) (d : BitVec 1024) (m : BitVec 128) (pois : BitVec 16) :
    (s.mergeBack line d m pois).seqOf line = s.seqOf line :=
  State.seqOf_congr rfl line

theorem exec_writeBackMerge_home (here : s.mergeGone line (dieOf core) nc = false) (home : homeDie line = dieOf core) :
    exec (.writeBackMerge (some tid) core line key d m nc pois) s =
      .next (((((s.homeWrite line).mergeBack line d m pois).tag line).2.walkWaiters line).post
        (.writeAckArrival tid (((s.homeWrite line).seqOf line + 1) % 65536))) := by
  change execWriteBackMerge _ _ _ _ _ _ _ _ s = _
  simp only [execWriteBackMerge, here, home, if_true, Bool.false_eq_true, if_false]
  rw [← State.mergeBack, State.tag_fst, State.mergeBack_seqOf, State.ackTo]

theorem exec_writeBackMerge_nc (here : s.mergeGone line (dieOf core) true = false) (away : homeDie line ≠ dieOf core)
    (copy : s.proxy line (dieOf core) = some p) :
    exec (.writeBackMerge (some tid) core line key d m true pois) s =
      .next (((s.setProxy line (dieOf core) ⟨p.st, BitVec.ofNat 1024 (mergeBytes 128 p.data.toNat d.toNat m.toNat), p.dirty ||| m,
        mergeMarks p.pois pois m, p.seq, key⟩).awakeCopy line (dieOf core)).post (.writeAckArrival tid 0)) := by
  change execWriteBackMerge _ _ _ _ _ _ _ _ s = _
  simp only [execWriteBackMerge, here, away, copy, if_true, Bool.false_eq_true, if_false, Option.isSome_some, Option.getD_some]
  rfl

/-- A copy in M or E takes the data and becomes M (R163, R164). -/
theorem exec_writeBackMerge_owned (here : s.mergeGone line (dieOf core) false = false) (away : homeDie line ≠ dieOf core)
    (copy : s.proxy line (dieOf core) = some p) (owned : p.st = .m ∨ p.st = .e) :
    exec (.writeBackMerge (some tid) core line key d m false pois) s =
      .next (((s.setProxy line (dieOf core) ⟨.m, BitVec.ofNat 1024 (mergeBytes 128 p.data.toNat d.toNat m.toNat), p.dirty,
        mergeMarks p.pois pois m, (p.seq + 1) % 65536, key⟩).awakeCopy line (dieOf core)).post (.writeAckArrival tid ((p.seq + 1) % 65536))) := by
  change execWriteBackMerge _ _ _ _ _ _ _ _ s = _
  simp only [execWriteBackMerge, here, away, copy, if_pos owned, Bool.false_eq_true, if_false]
  rfl

/-- A die with no such copy sends GetM first (R164). -/
theorem exec_writeBackMerge_unowned (here : s.mergeGone line (dieOf core) false = false) (away : homeDie line ≠ dieOf core)
    (unowned : ∀ p, s.proxy line (dieOf core) = some p → p.st ≠ .m ∧ p.st ≠ .e) :
    exec (.writeBackMerge (some tid) core line key d m false pois) s =
      .next ((s.postFront (.writeBackMerge (some tid) core line key d m false pois)).postFront (.getmAtHome line (dieOf core))) := by
  change execWriteBackMerge _ _ _ _ _ _ _ _ s = _
  cases copy : s.proxy line (dieOf core) with
  | none => simp only [execWriteBackMerge, here, away, copy, Bool.false_eq_true, if_false]
  | some p =>
    have other : ¬(p.st = .m ∨ p.st = .e) := not_or.2 (unowned p copy)
    simp only [execWriteBackMerge, here, away, copy, if_neg other, Bool.false_eq_true, if_false]

end

/-! ## The bytes and the tag at the home -/

theorem State.readLine_byte (s : State) (line : Nat) {k : Nat} (hk : k < 128) :
    BitVec.ofNat 8 (s.readLine line / 2 ^ (8 * k)) = s.byte (128 * line + k) := by
  have length : k < (bytesOf 128 (s.readLine line)).length := by simpa using hk
  have same : bytesOf 128 (s.readLine line) = s.readBytes (128 * line) 128 := by
    simpa [State.readLine, State.read] using bytesOf_valueOf (s.readBytes (128 * line) 128)
  rw [← getElem_bytesOf 128 _ k length, List.getElem_of_eq same, State.getElem_readBytes]

theorem State.writeLine_byte (s : State) (line : Nat) (d : BitVec 1024) (m : BitVec 128) (a : Nat) : (s.writeLine line d.toNat m.toNat).byte a =
    if lineOf a = line ∧ m.getLsbD (a % 128) then d.extractLsb' (8 * (a % 128)) 8 else s.byte a := by
  by_cases own : lineOf a = line
  · have place : a = 128 * line + a % 128 := by simp only [lineOf] at own; omega
    have inside : a % 128 < 128 := Nat.mod_lt _ (by decide)
    have written : (s.writeLine line d.toNat m.toNat).byte a = BitVec.ofNat 8 (mergeBytes 128 (s.readLine line) d.toNat m.toNat / 2 ^ (8 * (a % 128))) := by
      conv_lhs => rw [place]
      exact s.byte_write_self _ _ _ _ inside
    rw [written, ofNat_mergeBytes_byte _ _ _ inside, s.readLine_byte line inside, ofNat_toNat_byte, ← place]
    simp [own, BitVec.getLsbD]
  · have outside : a < 128 * line ∨ 128 * line + 128 ≤ a := by simp only [lineOf] at own; omega
    simp [State.writeLine, s.byte_write_other _ _ _ _ outside, own]

theorem State.mergeBack_byte (s : State) (line : Nat) (d : BitVec 1024) (m : BitVec 128) (pois : BitVec 16) (a : Nat) :
    (s.mergeBack line d m pois).byte a = if lineOf a = line ∧ m.getLsbD (a % 128) then d.extractLsb' (8 * (a % 128)) 8 else s.byte a :=
  (State.byte_congr (s := s.writeLine line d.toNat m.toNat) rfl a).trans (s.writeLine_byte line d m a)

/-- The bytes of a merge in a die's copy, under the mask (R96, R166). -/
theorem extractLsb'_merged (old d : BitVec 1024) (m : BitVec 128) {k : Nat} (hk : k < 128) :
    (BitVec.ofNat 1024 (mergeBytes 128 old.toNat d.toNat m.toNat)).extractLsb' (8 * k) 8 =
      if m.getLsbD k then d.extractLsb' (8 * k) 8 else old.extractLsb' (8 * k) 8 := by
  rw [extractLsb'_mergeBytes _ _ _ hk, ofNat_toNat_byte]
  rfl

theorem writeBacksMerge : Claims.WriteBacksMerge := by
  intro s tid core line key d m nc pois
  refine ⟨s.mergeGone_iff line _ nc, fun gone => exec_writeBackMerge_gone (Bool.eq_true_of_not_eq_false gone), fun here home => ?_,
    fun here away coherent => ?_, fun here away uncached p copy => ?_, State.homeWrite_of_ready⟩
  · refine ⟨_, exec_writeBackMerge_home here home, ?_, funext fun a => ?_, ?_⟩
    · rw [State.seqOf_congr (State.post_slices _ _), State.walkWaiters_seqOf, State.tag_seqOf, State.mergeBack_seqOf]
    · rw [State.byte_congr (State.post_mem _ _), State.byte_congr (State.walkWaiters_mem _ _), State.byte_congr (State.tag_mem _ _),
        State.mergeBack_byte]
    · rw [State.post_pending]
      exact List.mem_append_right _ List.mem_cons_self
  · subst coherent
    exact ⟨fun p copy owned => ⟨_, _, fun k hk => extractLsb'_merged _ _ _ hk, exec_writeBackMerge_owned here away copy owned⟩,
      exec_writeBackMerge_unowned here away⟩
  · subst uncached
    exact ⟨_, _, fun k hk => extractLsb'_merged _ _ _ hk, exec_writeBackMerge_nc here away copy⟩

/-- Settles O50: `Claims.FillsAndWriteThroughs` from what `lineFor` finds of a line and from the bytes of a merge, and
`Claims.WriteBacksMerge` from the home's bytes after `writeLine`, which the walk over the waiters leaves. -/
theorem fillsAndWriteBacks : Obligations.FillsAndWriteBacks := ⟨fillsAndWriteThroughs, writeBacksMerge⟩

end Sys2Proof.Machine
end

section
/-! PROOFS. Canonical memory (R91, R92), the invariant of O59: `State.Canonical` and what keeps it. A lemma per operation of the model, in
the model's order and named after it, says that from a canonical state it gives a canonical one. Only `writeBytes`, `zeroRange`, a copy
and a reset write bytes; every other operation writes through them or leaves memory as it is (`update`). Here: the operations on the
state, the home of a line, translation and the pool cache. -/

namespace Sys2Proof.Machine

set_option Elab.async false

/-- Memory in canonical form: addresses rise and no listed byte is 0 (R91, R92). -/
def State.Canonical (s : State) : Prop := Memory.wf s.mem = true

/-- Every state that an outcome goes on with is canonical. -/
def Out.Canonical (o : Out State) : Prop := ∀ t, o = .next t → t.Canonical

variable {s : State}

theorem State.Canonical.update {s t : State} (h : s.Canonical) (e : t.mem = s.mem := by rfl) : t.Canonical :=
  (congrArg (Memory.wf · = true) e).mpr h

theorem State.Canonical.ite {p : Prop} {_ : Decidable p} {t u : State} (ht : t.Canonical) (hu : u.Canonical) :
    (if p then t else u).Canonical := by
  split
  · exact ht
  · exact hu

theorem State.Canonical.ite₂ {p : Prop} {_ : Decidable p} {t u : Nat × State} (ht : t.2.Canonical) (hu : u.2.Canonical) :
    (if p then t else u).2.Canonical := by
  split
  · exact ht
  · exact hu

theorem State.Canonical.foldl {s : State} {α : Type} {f : State → α → State} {l : List α} (h : s.Canonical)
    (step : ∀ t a, t.Canonical → (f t a).Canonical) : (l.foldl f s).Canonical := by
  induction l generalizing s with
  | nil => exact h
  | cons a l ih => exact ih (step s a h)

/-- What an optional state that is canonical gives, with a canonical state where there is none. -/
theorem State.Canonical.getD {s : State} (h : s.Canonical) {o : Option State} (ho : ∀ t, o = some t → t.Canonical) :
    (o.getD s).Canonical := by
  cases o with
  | none => exact h
  | some t => exact ho t rfl

theorem Out.Canonical.next {s : State} (h : s.Canonical) : Out.Canonical (.next s) := fun _ e => by cases e; exact h

theorem Out.Canonical.fault {r} : Out.Canonical (.fault r) := nofun

theorem Out.Canonical.refused {r} : Out.Canonical (.refused r) := nofun

theorem Out.Canonical.ite {p : Prop} {_ : Decidable p} {o r : Out State} (ho : o.Canonical) (hr : r.Canonical) :
    Out.Canonical (if p then o else r) := by
  split
  · exact ho
  · exact hr

/-! ## The state's operations, parking and traps -/

theorem State.Canonical.setCtx (h : s.Canonical) {tid c} : (s.setCtx tid c).Canonical := h.update
theorem State.Canonical.setMe (h : s.Canonical) {c} : (s.setMe c).Canonical := h.setCtx
theorem State.Canonical.modCtx (h : s.Canonical) {tid f} : (s.modCtx tid f).Canonical := h.setCtx
theorem State.Canonical.setCore (h : s.Canonical) {q c} : (s.setCore q c).Canonical := h.update
theorem State.Canonical.setCell (h : s.Canonical) {k c} : (s.setCell k c).Canonical := h.update
theorem State.Canonical.setSlice (h : s.Canonical) {k c} : (s.setSlice k c).Canonical := h.update
theorem State.Canonical.setDie (h : s.Canonical) {k c} : (s.setDie k c).Canonical := h.update
theorem State.Canonical.post (h : s.Canonical) {e} : (s.post e).Canonical := h.update
theorem State.Canonical.postFront (h : s.Canonical) {e} : (s.postFront e).Canonical := h.update
theorem State.Canonical.at (h : s.Canonical) {cycle e} : (s.at cycle e).Canonical := h.update

theorem State.Canonical.draw (h : s.Canonical) : s.draw.2.Canonical := by
  unfold State.draw
  dsimp only
  exact h.update

theorem State.Canonical.parkMe (h : s.Canonical) {p} : (s.parkMe p).Canonical := h.setMe
theorem State.Canonical.countPark (h : s.Canonical) {tid} : (s.countPark tid).Canonical := h.ite h.at.setCtx
theorem State.Canonical.parkCounted (h : s.Canonical) {p} : (s.parkCounted p).Canonical := h.countPark.setMe
theorem State.Canonical.parkStage (h : s.Canonical) {stage} : (s.parkStage stage).Canonical := h.setMe
theorem State.Canonical.done (h : s.Canonical) : s.done.Canonical := h.setMe
theorem State.Canonical.finish (h : s.Canonical) {f} : (s.finish f).Canonical := h.setMe
theorem State.Canonical.wakeEvents (h : s.Canonical) {die} : (s.wakeEvents die).Canonical := h.update
theorem State.Canonical.queueError (h : s.Canonical) {die w} : (s.queueError die w).Canonical := h.setDie.wakeEvents.ite h.setDie
theorem State.Canonical.stopCore (h : s.Canonical) {core} : (s.stopCore core).Canonical := h.draw.setCore.queueError
theorem State.Canonical.firmwareTrap (h : s.Canonical) {tid epc t} : (s.firmwareTrap tid epc t).Canonical := h.stopCore.ite h.modCtx

theorem State.Canonical.superTrap (h : s.Canonical) {tid epc t} : (s.superTrap tid epc t).Canonical := by
  simp only [State.superTrap]
  split
  · exact h.firmwareTrap
  · exact h.setCtx.firmwareTrap.ite h.setCtx

theorem State.Canonical.trap (h : s.Canonical) {tid t} : (s.trap tid t).Canonical := h.setCtx.ite h.superTrap
theorem State.Canonical.trapMe (h : s.Canonical) {t} : (s.trapMe t).Canonical := h.trap

/-! ## Bytes -/

theorem State.Canonical.writeBytes (h : s.Canonical) {a bs} : (s.writeBytes a bs).Canonical := s.wf_writeBytes a bs h
theorem State.Canonical.write (h : s.Canonical) {a n v} : (s.write a n v).Canonical := h.writeBytes
theorem State.Canonical.poison (h : s.Canonical) {a n} : (s.poison a n).Canonical := h.update
theorem State.Canonical.cleanse (h : s.Canonical) {a n} : (s.cleanse a n).Canonical := h.update
theorem State.Canonical.writeMarked (h : s.Canonical) {a n v bad} : (s.writeMarked a n v bad).Canonical := h.write.poison.ite h.write.cleanse

theorem State.Canonical.hostData (h : s.Canonical) : s.hostData.2.Canonical :=
  List.foldlRecOn (motive := fun a : Nat × State => a.2.Canonical) _ _ h fun _ h1 _ _ => h1.draw

theorem State.Canonical.writeLine (h : s.Canonical) {line v mask} : (s.writeLine line v mask).Canonical := h.write

/-! ## Links and messages -/

theorem State.Canonical.sendOn (h : s.Canonical) {link dev m} : (s.sendOn link dev m).Canonical := h.update

theorem State.Canonical.replyTo (h : s.Canonical) {dev ref status val data} : (s.replyTo dev ref status val data).Canonical := by
  unfold State.replyTo
  split
  · exact h
  · exact h.sendOn

theorem State.Canonical.await (h : s.Canonical) {w} : (s.await w).2.Canonical := by
  unfold State.await
  dsimp only
  exact h.update

theorem State.Canonical.deliver (h : s.Canonical) {r} : (s.deliver r).Canonical := h.post

theorem State.Canonical.remoteLoad (h : s.Canonical) {q} : (s.remoteLoad q).Canonical := by
  unfold State.remoteLoad
  split
  · exact h
  · split
    · exact h.trap
    · split
      · exact h.trap
      · exact h.await.sendOn

theorem State.Canonical.remoteStore (h : s.Canonical) {src l v} : (s.remoteStore src l v).Canonical := by
  unfold State.remoteStore
  split
  · exact h.modCtx.deliver
  · split
    · exact h.modCtx.deliver
    · exact h.await.sendOn

theorem State.Canonical.remoteSwap (h : s.Canonical) {q op} : (s.remoteSwap q op).Canonical := by
  unfold State.remoteSwap
  split
  · split
    · exact h.modCtx.deliver
    · split
      · exact h.modCtx.deliver
      · exact h.await.sendOn
  · exact h

theorem State.Canonical.remoteLane (h : s.Canonical) {q op l} : (s.remoteLane q op l).Canonical := by
  unfold State.remoteLane
  split
  · exact h.trap
  · split
    · exact h.trap
    · exact h.await.sendOn

theorem State.Canonical.remoteAtom (h : s.Canonical) {q op} : (s.remoteAtom q op).Canonical := by
  unfold State.remoteAtom
  split
  · exact h
  · exact h.remoteLane

/-! ## The home of a line -/

theorem State.Canonical.l2Leave (h : s.Canonical) {k line} : (s.l2Leave k line).Canonical := h.setSlice

theorem State.Canonical.l2Evict (h : s.Canonical) {k line} : (s.l2Evict k line).Canonical := by
  simp only [State.l2Evict]
  split
  · exact h.l2Leave
  · split <;> exact h.l2Leave.post

theorem State.Canonical.pageErrors (h : s.Canonical) {line} : (s.pageErrors line).Canonical :=
  h.foldl fun _ _ h1 => h1.foldl fun _ _ h2 => h2.ite h2.update

theorem State.Canonical.l2Take (h : s.Canonical) {line die} : (s.l2Take line die).Canonical :=
  h.ite (h.pageErrors.ite h.pageErrors.draw.l2Evict).setSlice

theorem State.Canonical.l2Shrink (h : s.Canonical) {k line fuel} : (s.l2Shrink k line fuel).Canonical := by
  induction fuel generalizing s with
  | zero => exact h
  | succ fuel ih =>
    simp only [State.l2Shrink]
    split
    · exact h
    · exact ih h.draw.l2Evict

theorem State.Canonical.l2Split (h : s.Canonical) {die} : (s.l2Split die).Canonical := h.foldl fun _ _ h1 => h1.foldl fun _ _ h2 => h2.l2Shrink
theorem State.Canonical.setProxy (h : s.Canonical) {line die p} : (s.setProxy line die p).Canonical := h.l2Take.update
theorem State.Canonical.dropProxy (h : s.Canonical) {line die} : (s.dropProxy line die).Canonical := h.update
theorem State.Canonical.setSeq (h : s.Canonical) {line n} : (s.setSeq line n).Canonical := h.setSlice

theorem State.Canonical.tag (h : s.Canonical) {line} : (s.tag line).2.Canonical := by
  unfold State.tag
  dsimp only
  exact h.setSeq

theorem State.Canonical.markLine (h : s.Canonical) {line marks words} : (s.markLine line marks words).Canonical := h.update
theorem State.Canonical.awake (h : s.Canonical) {k} : (s.awake k).Canonical := h.setSlice.ite h
theorem State.Canonical.awakeCopy (h : s.Canonical) {line die} : (s.awakeCopy line die).Canonical := h.awake

theorem State.Canonical.copyHome (h : s.Canonical) {line die} : (s.copyHome line die).Canonical := by
  unfold State.copyHome
  split
  · exact h
  · split
    · exact h.awake.writeLine.markLine
    · exact h.awake.writeLine.markLine
    · exact h

theorem State.Canonical.bringHome (h : s.Canonical) {line die} : (s.bringHome line die).Canonical := by
  unfold State.bringHome
  split
  · exact h
  · split
    · exact h.copyHome.setSeq
    · exact h.copyHome.setSeq
    · exact h

theorem State.Canonical.putDir (h : s.Canonical) {line d} : (s.putDir line d).Canonical := h.setSlice

theorem State.Canonical.recall (h : s.Canonical) {line} : (s.recall line).Canonical := by
  unfold State.recall
  split
  · exact h
  · exact (h.foldl fun _ _ h1 => h1.dropProxy).putDir
  · exact h.bringHome.dropProxy.putDir
  · exact (h.bringHome.foldl fun _ _ h1 => h1.dropProxy).putDir

theorem State.Canonical.downgrade (h : s.Canonical) {line} : (s.downgrade line).Canonical := by
  unfold State.downgrade
  split
  · split
    · exact h.copyHome.setProxy.putDir.ite h.setProxy.putDir
    · exact h.putDir
  · exact h.copyHome
  · exact h

theorem State.Canonical.countRecall (h : s.Canonical) {die} : (s.countRecall die).Canonical := h.setDie

theorem State.Canonical.dirRoom (h : s.Canonical) {line} : (s.dirRoom line).Canonical := by
  unfold State.dirRoom
  split
  · exact h
  · split
    · exact h.ite h.recall.countRecall
    · exact h

theorem State.Canonical.setNff (h : s.Canonical) {k b} : (s.setNff k b).Canonical := h.setSlice.ite h

theorem State.Canonical.foldAddr (h : s.Canonical) {a} : (s.foldAddr a).Canonical := by
  simp only [State.foldAddr]
  split
  · exact h
  · exact h.recall.setSlice.write.tag.setNff

theorem State.Canonical.foldLine (h : s.Canonical) {line} : (s.foldLine line).Canonical := h.foldl fun _ _ h1 => h1.foldAddr
theorem State.Canonical.scramble (h : s.Canonical) {line} : (s.scramble line).Canonical := h.foldl fun _ _ h1 => h1.draw.write

theorem State.Canonical.rekey (h : s.Canonical) {line key} : (s.rekey line key).Canonical := by
  unfold State.rekey
  split
  · exact h.update
  · split
    · exact h
    · exact (h.scramble (line := line)).update (by dsimp only)

theorem State.Canonical.homeRead (h : s.Canonical) {line} : (s.homeRead line).Canonical := h.foldLine.downgrade.l2Take
theorem State.Canonical.homeWrite (h : s.Canonical) {line} : (s.homeWrite line).Canonical := h.foldLine.recall.awake.l2Take
theorem State.Canonical.release (h : s.Canonical) {k rcbs} : (s.release k rcbs).Canonical := h.foldl fun _ _ h1 => h1.post
theorem State.Canonical.retryStalled (h : s.Canonical) {p} : (s.retryStalled p).Canonical := h.update
theorem State.Canonical.wakeRoom (h : s.Canonical) {slice} : (s.wakeRoom slice).Canonical := h.retryStalled

theorem State.Canonical.foldBlocks (h : s.Canonical) {slice k} : (s.foldBlocks slice k).Canonical := by
  simp only [State.foldBlocks]
  split
  · exact h
  · exact h.setSlice.setNff.release.wakeRoom

theorem State.Canonical.earlyFold (h : s.Canonical) {slice} : (s.earlyFold slice).Canonical := by
  unfold State.earlyFold
  refine .setSlice ?_
  split
  · exact h
  · exact h.foldAddr
  · exact h.foldBlocks

theorem State.Canonical.contribute (h : s.Canonical) {a c fmt v} : (s.contribute a c fmt v).Canonical := by
  simp only [State.contribute]
  split
  · exact (h.foldl fun _ _ h1 => h1.foldAddr).setSlice
  · exact ((h.foldl fun _ _ h1 => h1.foldAddr).earlyFold.ite (h.foldl fun _ _ h1 => h1.foldAddr)).setSlice

theorem State.Canonical.clearRecord (h : s.Canonical) {word} : (s.clearRecord word).Canonical := h.setSlice

theorem State.Canonical.startDrain (h : s.Canonical) {line cores d} : (s.startDrain line cores d).Canonical := by
  unfold State.startDrain
  split
  · exact h.update.postFront
  · exact h.update.foldl fun _ _ h1 => h1.post

theorem State.Canonical.satisfy (h : s.Canonical) {w} : (s.satisfy w).Canonical := h.startDrain.ite h.post

theorem State.Canonical.walkLine (h : s.Canonical) {line drained} : (s.walkLine line drained).Canonical :=
  h.setSlice.foldl fun _ _ h1 => h1.satisfy

theorem State.Canonical.walkWaiters (h : s.Canonical) {line} : (s.walkWaiters line).Canonical := h.walkLine

theorem State.Canonical.homeStore (h : s.Canonical) {a n v bad} : (s.homeStore a n v bad).2.Canonical := by
  unfold State.homeStore
  dsimp only
  exact h.homeWrite.writeMarked.tag.walkWaiters

theorem State.Canonical.refuseFull (h : s.Canonical) {die slot wait x} : (s.refuseFull die slot wait x).Canonical := h.setDie.at

theorem State.Canonical.hold (h : s.Canonical) {die slot x} : (s.hold die slot x).Canonical := by
  unfold State.hold
  split
  · exact h
  · exact h.setDie.ite h.setDie.refuseFull

theorem State.Canonical.enterHome (h : s.Canonical) {pa x k} (hk : ∀ u, u.Canonical → (k u).Canonical) : (s.enterHome pa x k).Canonical := by
  unfold State.enterHome
  split
  · exact h.hold
  · exact hk _ h

/-! ## Translation -/

theorem State.Canonical.fillTlbs (h : s.Canonical) {core asid va l} : (s.fillTlbs core asid va l).Canonical := h.draw.setCore.setCell.setDie

theorem State.Canonical.touchLeaf (h : s.Canonical) {l store} : (s.touchLeaf l store).2.Canonical := by
  simp only [State.touchLeaf]
  split
  · split
    · dsimp only
      exact h
    · split
      · dsimp only
        exact h
      · dsimp only
        exact h.homeStore
  · split
    · dsimp only
      exact h
    · split
      · dsimp only
        exact h
      · dsimp only
        exact h.homeStore

theorem State.Canonical.settle (h : s.Canonical) {core asid store p} : (s.settle core asid store p).Canonical := by
  unfold State.settle
  split
  · exact h
  · exact h.touchLeaf.fillTlbs

theorem State.Canonical.settleAll (h : s.Canonical) {core asid store ps} : (s.settleAll core asid store ps).Canonical :=
  h.foldl fun _ _ h1 => h1.settle

theorem State.Canonical.startCopy (h : s.Canonical) {cell entry} : (s.startCopy cell entry).Canonical := h.ite h.postFront

theorem State.Canonical.stopMe (h : s.Canonical) {a} : (s.stopMe a).Canonical := by
  unfold State.stopMe
  split
  · exact h.trapMe
  · exact h.startCopy.parkMe

/-! ## The pool cache -/

theorem State.Canonical.putLine (h : s.Canonical) {core tag l} : (s.putLine core tag l).Canonical := h.setCore
theorem State.Canonical.keepLine (h : s.Canonical) {core tag l} : (s.keepLine core tag l).Canonical := h.setCore

theorem State.Canonical.touchLine (h : s.Canonical) {core tag} : (s.touchLine core tag).Canonical := by
  unfold State.touchLine
  split
  · exact h
  · exact h.putLine

theorem State.Canonical.dropLine (h : s.Canonical) {core tag} : (s.dropLine core tag).Canonical := h.setCore
theorem State.Canonical.noInstall (h : s.Canonical) {core p} : (s.noInstall core p).Canonical := h.update

theorem State.Canonical.postWriteBack (h : s.Canonical) {tid core tag l} : (s.postWriteBack tid core tag l).Canonical := by
  unfold State.postWriteBack
  split
  · exact h
  · split
    · exact h.noInstall.post
    · exact h.noInstall.post.modCtx

theorem State.Canonical.cleanLine (h : s.Canonical) {tid core tag} : (s.cleanLine tid core tag).Canonical := by
  unfold State.cleanLine
  split
  · exact h
  · exact h.postWriteBack.keepLine

theorem State.Canonical.flushLine (h : s.Canonical) {tid core tag} : (s.flushLine tid core tag).Canonical := by
  unfold State.flushLine
  split
  · exact h
  · exact h.postWriteBack.dropLine

theorem State.Canonical.cacheRoom (h : s.Canonical) {core tag} : (s.cacheRoom core tag).Canonical := by
  simp only [State.cacheRoom]
  split
  · exact h
  · split
    · exact h
    · split
      · exact h.flushLine
      · exact h

theorem State.Canonical.storeCached (h : s.Canonical) {core slot l v} : (s.storeCached core slot l v).Canonical := h.cacheRoom.putLine

theorem State.Canonical.updateCached (h : s.Canonical) {core l v} : (s.updateCached core l v).Canonical := by
  unfold State.updateCached
  split
  · exact h
  · exact h.putLine

theorem State.Canonical.fillCached (h : s.Canonical) {core line key mode data pois} : (s.fillCached core line key mode data pois).Canonical :=
  h.ite h.cacheRoom.putLine

theorem State.Canonical.selfInvalidate (h : s.Canonical) {core} : (s.selfInvalidate core).Canonical := h.setCore.noInstall
theorem State.Canonical.cleanAll (h : s.Canonical) {tid core p} : (s.cleanAll tid core p).Canonical := h.foldl fun _ _ h1 => h1.cleanLine

theorem State.Canonical.yieldLines (h : s.Canonical) {core lines} : (s.yieldLines core lines).Canonical :=
  (h.foldl fun _ _ h1 => h1.flushLine).noInstall

theorem State.Canonical.refetch (h : s.Canonical) {core p} : (s.refetch core p).Canonical := h.update

theorem State.Canonical.routeLoad (h : s.Canonical) {q first} : (s.routeLoad q first).Canonical := by
  simp only [State.routeLoad]
  split
  · exact h.post.ite h.postFront
  · split
    · exact h.post.ite h.postFront
    · split
      · exact h.post.ite h.postFront
      · split
        · exact h.remoteLoad
        · split
          · exact h
          · exact h.post
          · exact h.post

theorem State.Canonical.addAck (h : s.Canonical) {tid n} : (s.addAck tid n).Canonical := h.modCtx

theorem State.Canonical.postThrough (h : s.Canonical) {src g} : (s.postThrough src g).Canonical := by
  unfold State.postThrough
  split
  · exact (h.foldl fun _ _ h1 => h1.updateCached).noInstall
  · split
    · exact (h.foldl fun _ _ h1 => h1.updateCached).noInstall.addAck.post
    · exact (h.foldl fun _ _ h1 => h1.updateCached).noInstall.addAck.post
    · exact (h.foldl fun _ _ h1 => h1.updateCached).noInstall.addAck.post
    · exact (h.foldl fun _ _ h1 => h1.updateCached).noInstall.addAck.post
    · exact (h.foldl fun _ _ h1 => h1.updateCached).noInstall.addAck.foldl fun _ _ h1 => h1.remoteStore

theorem State.Canonical.writeThrough (h : s.Canonical) {src ls} : (s.writeThrough src ls).Canonical := h.foldl fun _ _ h1 => h1.postThrough

theorem State.Canonical.storeLane (h : s.Canonical) {src slot wt l v t} (e : s.storeLane src slot wt l v = some t) : t.Canonical :=
  h.update (State.storeLane_mem e)

theorem State.Canonical.storeLanes (h : s.Canonical) {src slot wt ls} : (s.storeLanes src slot wt ls).Canonical :=
  h.update (s.storeLanes_mem src slot wt ls)

/-! ## Thread images -/

theorem State.Canonical.writeHeader (h : s.Canonical) {tid} : (s.writeHeader tid).Canonical := h.writeBytes
theorem State.Canonical.putImageLine (h : s.Canonical) {tid n} : (s.putImageLine tid n).Canonical := h.draw.modCtx.writeBytes.cleanse.writeHeader
theorem State.Canonical.writeBackImage (h : s.Canonical) {tid} : (s.writeBackImage tid).Canonical := h.foldl fun _ _ h1 => h1.putImageLine
theorem State.Canonical.dropImage (h : s.Canonical) {tid} : (s.dropImage tid).Canonical := h.writeBackImage.modCtx

theorem State.Canonical.staleLines (h : s.Canonical) {old} : (s.staleLines old).Canonical := by
  simp only [State.staleLines]
  refine h.foldl fun _ _ h1 => ?_
  split
  · exact h1
  · split
    · exact h1
    · exact h1.modCtx.writeHeader

theorem State.Canonical.syncImage (h : s.Canonical) {tid} : (s.syncImage tid).Canonical := by
  simp only [State.syncImage]
  split
  · exact (h.foldl fun _ _ h1 => h1.putImageLine).writeHeader
  · exact (h.foldl fun _ _ h1 => h1.putImageLine).writeHeader
  · exact h

/-! ## Waking -/

theorem State.Canonical.requeue (h : s.Canonical) {tid} : (s.requeue tid).Canonical := h.syncImage.setCtx.post.ite h.syncImage
theorem State.Canonical.wakeWith (h : s.Canonical) {tid f} : (s.wakeWith tid f).Canonical := h.modCtx.requeue
theorem State.Canonical.wakeTrap (h : s.Canonical) {tid t} : (s.wakeTrap tid t).Canonical := h.trap.requeue
theorem State.Canonical.wakeAgain (h : s.Canonical) {tid} : (s.wakeAgain tid).Canonical := h.modCtx.requeue

theorem State.Canonical.setRcbWord (h : s.Canonical) {rcb asid idx v} : (s.setRcbWord rcb asid idx v).Canonical := by
  unfold State.setRcbWord
  split
  · exact h
  · exact h.touchLeaf.homeStore.ite h

end Sys2Proof.Machine
end

section
/-! PROOFS. Canonical memory (O59): loads and stores, atomics, drains, barriers and fences. An operation that may have no answer
(`Option`, `Except`) has a lemma about the state it carries, under the equation that it gave that state. -/

namespace Sys2Proof.Machine

set_option Elab.async false

variable {s : State}

/-! ## Routes of loads and stores -/

theorem State.Canonical.ncFill (h : s.Canonical) {line die} : (s.ncFill line die).Canonical := h.homeRead.setProxy

theorem State.Canonical.lineFor (h : s.Canonical) {die line mode na t d p} (e : s.lineFor die line mode na = some (t, d, p)) : t.Canonical := by
  have first {u : State × Nat × BitVec 16} (eu : some u = some (t, d, p)) (hu : u.1.Canonical) : t.Canonical :=
    (congrArg (·.1.Canonical) (Option.some.inj eu)).mp hu
  simp only [State.lineFor] at e
  split at e
  · exact first e h.homeRead
  · split at e
    · split at e
      · exact first e h.foldLine
      · exact first e h
    · split at e
      · exact first e h.ncFill
      · cases e

theorem State.Canonical.readLines (h : s.Canonical) {die na ls} : (s.readLines die na ls).1.Canonical := by
  induction ls generalizing s with
  | nil => exact h
  | cons e r ih =>
    simp only [State.readLines]
    split
    · exact ih h
    · exact ih (h.lineFor ‹_›)

theorem State.Canonical.tagCopy (h : s.Canonical) {line die key} : (s.tagCopy line die key).Canonical := by
  unfold State.tagCopy
  split
  · exact h.ite h.update
  · exact h

theorem State.Canonical.tagCopies (h : s.Canonical) {die q} : (s.tagCopies die q).Canonical := h.ite (h.foldl fun _ _ h1 => h1.tagCopy)

theorem execFillAtHome_canonical (h : s.Canonical) {f} : (execFillAtHome f s).Canonical := by
  simp only [execFillAtHome]
  split
  · exact .next (h.enterHome (fun _ h1 => h1))
  · split
    · exact .next h.readLines.tagCopies.post
    · exact .next h.postFront.postFront

theorem execLineFillArrival_canonical (h : s.Canonical) {q lines} : (execLineFillArrival q lines s).Canonical := by
  unfold execLineFillArrival
  refine .next (.routeLoad ?_)
  split
  · exact h
  · refine h.foldl fun _ _ h1 => ?_
    split
    · exact h1.fillCached
    · exact h1

theorem State.Canonical.refusePool (h : s.Canonical) {src l code detail} : (s.refusePool src l code detail).Canonical := h.deliver

theorem State.Canonical.bankLoad (h : s.Canonical) {src l} : (s.bankLoad src l).1.Canonical := by
  unfold State.bankLoad
  split
  · dsimp only
    exact h
  · split
    · dsimp only
      exact h
    · dsimp only
      exact h.refusePool
    · dsimp only
      exact h

theorem State.Canonical.bankStore (h : s.Canonical) {src late l v} : (s.bankStore src late l v).Canonical := by
  unfold State.bankStore
  split
  · exact h.writeMarked
  · exact h.refusePool
  · exact h

theorem State.Canonical.swapAtBank (h : s.Canonical) {q ls} : (s.swapAtBank q ls).Canonical := by
  induction ls generalizing s with
  | nil => exact h
  | cons e r ih =>
    simp only [State.swapAtBank]
    split
    · exact ih h.writeMarked.post
    · exact ih h.refusePool.post
    · exact ih h.post

theorem State.Canonical.landThose (h : s.Canonical) {p} : (s.landThose p).Canonical := by
  unfold State.landThose
  refine h.update.foldl fun _ _ h1 => ?_
  split
  · exact h1.foldl fun _ _ h2 => h2.bankStore
  · exact h1

theorem State.Canonical.landStores (h : s.Canonical) {tid} : (s.landStores tid).Canonical := h.landThose
theorem State.Canonical.landOn (h : s.Canonical) {lo hi} : (s.landOn lo hi).Canonical := h.landThose

theorem State.Canonical.answerWrite (h : s.Canonical) {q tag} : (s.answerWrite q tag).Canonical := by
  unfold State.answerWrite
  split <;> exact h.post

theorem State.Canonical.updateCopy (h : s.Canonical) {die ls} : (s.updateCopy die ls).Canonical := by
  simp only [State.updateCopy]
  split
  · exact h
  · split
    · exact h
    · exact h.ite h.setProxy.awakeCopy

theorem execWriteThroughAtHome_canonical (h : s.Canonical) {q vals} : (execWriteThroughAtHome q vals s).Canonical := by
  unfold execWriteThroughAtHome
  split
  · exact .next h
  · exact .next (h.enterHome (fun _ h1 => (h1.homeWrite.foldl fun _ _ h2 => h2.writeMarked).updateCopy.tag.walkWaiters.answerWrite))

theorem State.Canonical.ackTo (h : s.Canonical) {tid tag} : (s.ackTo tid tag).Canonical := by
  unfold State.ackTo
  split
  · exact h
  · exact h.post

theorem execWriteBackMerge_canonical (h : s.Canonical) {tid core line key data mask nc pois} :
    (execWriteBackMerge tid core line key data mask nc pois s).Canonical := by
  simp only [execWriteBackMerge]
  split
  · exact .next h.ackTo
  · split
    · exact .next h.homeWrite.writeLine.markLine.tag.walkWaiters.ackTo
    · split
      · exact .next (h.ite h.ncFill).setProxy.awakeCopy.ackTo
      · split
        · exact .ite (.next h.setProxy.awakeCopy.ackTo) (.next h.postFront.postFront)
        · exact .next h.postFront.postFront

theorem State.Canonical.grant (h : s.Canonical) {line die st} : (s.grant line die st).Canonical := h.setProxy

theorem execGetsAtHome_canonical (h : s.Canonical) {line die} : (execGetsAtHome line die s).Canonical := by
  simp only [execGetsAtHome]
  split
  · exact .next h.foldLine.l2Take.dirRoom.grant.putDir
  · exact .next h.foldLine.l2Take.grant.putDir
  · exact .ite (.next h.foldLine.l2Take) (.next h.foldLine.l2Take.postFront)
  · exact .ite (.next h.foldLine.l2Take) (.next h.foldLine.l2Take.postFront)

theorem execGetmAtHome_canonical (h : s.Canonical) {line die} : (execGetmAtHome line die s).Canonical := by
  simp only [execGetmAtHome]
  split
  · exact .next h.foldLine.l2Take.dirRoom.grant.putDir
  · split
    · exact .next (h.foldLine.l2Take.foldl fun _ _ h1 => h1.dropProxy).setProxy.putDir
    · exact .next (h.foldLine.l2Take.foldl fun _ _ h1 => h1.dropProxy).grant.putDir
  · exact .ite (.next h.foldLine.l2Take) (.next h.foldLine.l2Take.postFront)
  · split
    · split
      · exact .next (h.foldLine.l2Take.foldl fun _ _ h1 => h1.dropProxy).setProxy.putDir
      · exact .next (h.foldLine.l2Take.foldl fun _ _ h1 => h1.dropProxy).putDir
    · exact .next h.foldLine.l2Take.postFront

theorem execForwardedRequest_canonical (h : s.Canonical) {line owner dest excl} : (execForwardedRequest line owner dest excl s).Canonical := by
  simp only [execForwardedRequest]
  split
  · exact .next h.postFront
  · split
    · exact .next (h.foldl fun _ _ h1 => h1.dropProxy).setProxy.putDir
    · exact .ite (.next h.setProxy.setProxy.putDir) (.next h.setProxy.setProxy.putDir)

theorem execInvalidateAtProxy_canonical (h : s.Canonical) {line die} : (execInvalidateAtProxy line die s).Canonical := by
  simp only [execInvalidateAtProxy]
  split
  · exact .next h
  · split
    · exact .next h
    · exact .next h
    · split
      · exact .next h.dropProxy.putDir
      · exact .next h.dropProxy.putDir
      · exact .next (h.dropProxy.putDir.ite h.dropProxy)
      · exact .next h.dropProxy

theorem execPutmAtHome_canonical (h : s.Canonical) {line die} : (execPutmAtHome line die s).Canonical := by
  simp only [execPutmAtHome]
  split
  · exact .next h.foldLine
  · split
    · exact .ite (.next h.foldLine.dropProxy) (.next h.foldLine.dropProxy.awake.writeLine.markLine.tag.walkWaiters)
    · split <;> exact .next h.foldLine.bringHome.dropProxy.putDir
    · split <;> exact .next h.foldLine.bringHome.dropProxy.putDir
    · exact .next h.foldLine

theorem execPuteAtHome_canonical (h : s.Canonical) {line die} : (execPuteAtHome line die s).Canonical := by
  simp only [execPuteAtHome]
  split
  · exact .next h
  · split
    · exact .next h
    · exact .next h
    · exact .next h
    · split <;> exact .next h.dropProxy.putDir

/-! ## Loads and stores -/

theorem State.Canonical.settleLanes (h : s.Canonical) {c store ls} : (s.settleLanes c store ls).Canonical := by
  unfold State.settleLanes
  refine h.foldl fun _ _ h1 => ?_
  split
  · exact h1.settle.settle
  · exact h1.settle

theorem State.Canonical.contributeLanes (h : s.Canonical) {w vector ds} : (s.contributeLanes w vector ds).Canonical := by
  unfold State.contributeLanes
  split
  · exact h
  · exact h.yieldLines.post.setMe

theorem State.Canonical.loadLanes (h : s.Canonical) {dst na ls pend} : (s.loadLanes dst na ls pend).Canonical := by
  simp only [State.loadLanes]
  split
  · exact (h.foldl fun _ _ h1 => h1.touchLine).parkMe.routeLoad
  · exact (h.foldl fun _ _ h1 => h1.touchLine).finish.routeLoad

theorem State.Canonical.loadInstr (h : s.Canonical) {w vector na dst pend ls} : (s.loadInstr w vector na dst pend ls).Canonical := by
  simp only [State.loadInstr]
  split
  · exact h.stopMe
  · split
    · exact h.trapMe
    · split
      · exact h.settleLanes.contributeLanes.loadLanes.ite h.settleLanes.contributeLanes.done
      · exact h.settleLanes.contributeLanes.loadLanes

theorem State.Canonical.exchangeCached (h : s.Canonical) {core l v} : (s.exchangeCached core l v).Canonical := h.cleanLine.updateCached.noInstall

theorem State.Canonical.pushLanes (h : s.Canonical) {ds es} : (s.pushLanes ds es).Canonical := by
  unfold State.pushLanes
  refine .foldl (.foldl (.foldl ?_ fun _ _ h1 => h1.post) fun _ _ h1 => h1.post) fun _ _ h1 => h1.remoteSwap
  split
  · split
    · exact (h.foldl fun _ _ h1 => h1.exchangeCached).addAck.setMe
    · exact (h.foldl fun _ _ h1 => h1.exchangeCached).addAck.setMe.post
  · refine .swapAtBank (.landStores ?_)
    split
    · exact (h.foldl fun _ _ h1 => h1.exchangeCached).addAck.setMe
    · exact (h.foldl fun _ _ h1 => h1.exchangeCached).addAck.setMe.post

theorem State.Canonical.sendClear (h : s.Canonical) {q op} : (s.sendClear q op).Canonical := by
  unfold State.sendClear
  split
  · exact h.remoteLane
  · exact h.post

theorem State.Canonical.clearRequest (h : s.Canonical) {ls dst op pend} : (s.clearRequest ls dst op pend).Canonical :=
  h.sendClear.finish.ite h.parkMe.sendClear

theorem State.Canonical.storeInstr (h : s.Canonical) {w vector wt dst pend ls} : (s.storeInstr w vector wt dst pend ls).Canonical := by
  simp only [State.storeInstr]
  split
  · exact h.trapMe
  · split
    · exact h.stopMe
    · split
      · exact h.trapMe
      · split
        · exact h.parkMe.ite (h.settleLanes.yieldLines.setMe.ite h.settleLanes.yieldLines).storeLanes.clearRequest
        · split
          · exact h.settleLanes.storeLanes.done
          · split
            · exact h.stopMe
            · exact h.settleLanes.settleAll.pushLanes.storeLanes.done

theorem execPref_canonical (h : s.Canonical) {f m} : (execPref f m s).Canonical := by
  simp only [execPref]
  split
  · exact .next h.done
  · split
    · exact .next h.done
    · split
      · split
        · refine .next (.done ?_)
          split
          · exact h.fillTlbs
          · exact h
        · refine .next ?_
          split
          · exact h.fillTlbs.draw.done.ite h.fillTlbs.draw.done.post
          · exact h.draw.done.ite h.draw.done.post
      · split
        · refine .next (.done ?_)
          split
          · exact h.fillTlbs
          · exact h
        · refine .next ?_
          split
          · exact h.fillTlbs.draw.done.ite h.fillTlbs.draw.done.post
          · exact h.draw.done.ite h.draw.done.post

theorem State.Canonical.cmo (h : s.Canonical) {m act} (hk : ∀ u v, v.Canonical → (act u v).Canonical) : (s.cmo m act).Canonical := by
  simp only [State.cmo]
  split
  · exact .next h.stopMe
  · exact .next h.done
  · exact .next (hk _ _ h.settle).done

theorem execCmoZero_canonical (h : s.Canonical) {m} : (execCmoZero m s).Canonical := by
  simp only [execCmoZero]
  split
  · exact .next h.stopMe
  · exact .next h.done
  · exact .next h.settle.storeLanes.done

/-! ## Atomics, reductions, drains, barriers, waits -/

theorem State.Canonical.atomAtBank (h : s.Canonical) {q op l} : (s.atomAtBank q op l).1.Canonical := by
  simp only [State.atomAtBank]
  split
  · dsimp only
    exact h
  · split
    · exact h.writeMarked
    · exact h

theorem State.Canonical.atomInstr (h : s.Canonical) {n a m op} : (s.atomInstr n a m op).Canonical := by
  simp only [State.atomInstr]
  split
  · exact .next h.stopMe
  · split
    · exact .next h.settle.parkMe.atomAtBank.post
    · exact .next h.settle.parkMe.post
    · exact .next h.settle.parkMe.yieldLines.post
    · exact .next h.settle.parkMe.remoteAtom

theorem State.Canonical.redAtBank (h : s.Canonical) {op l v} : (s.redAtBank op l v).Canonical := h.ite h.writeMarked
theorem State.Canonical.redAtHome (h : s.Canonical) {core op l v} : (s.redAtHome core op l v).Canonical := h.contribute.ite h.homeWrite.homeStore
theorem State.Canonical.routeRed (h : s.Canonical) {q op vals} : (s.routeRed q op vals).Canonical := h.post.ite (h.post.ite h.post)

theorem State.Canonical.redInstr (h : s.Canonical) {op ls} : (s.redInstr op ls).Canonical := by
  simp only [State.redInstr]
  split
  · exact .next h.done
  · split
    · exact .next h.stopMe
    · exact .next (h.settleAll.yieldLines.foldl fun _ _ h1 => h1.redAtBank.ite h1).setMe.routeRed.done

theorem State.Canonical.admitAll (h : s.Canonical) {q x k} (hk : ∀ u, u.Canonical → (k u).Canonical) : (s.admitAll q x k).Canonical := by
  unfold State.admitAll
  split
  · exact h.enterHome (fun _ h2 => hk _ h2)
  · exact hk _ h

theorem execContributionAtHome_canonical (h : s.Canonical) {q op vals} : (execContributionAtHome q op vals s).Canonical :=
  .next (h.admitAll (fun _ h1 => (h1.foldl fun _ _ h2 => h2.redAtHome.ite h2).routeRed))

theorem State.Canonical.atomOnce (h : s.Canonical) {q op l} : (s.atomOnce q op l).Canonical := by
  unfold State.atomOnce
  refine .post ?_
  split
  · exact h.homeWrite.homeStore
  · dsimp only
    exact h.homeWrite.tag.walkWaiters

theorem State.Canonical.readClear (h : s.Canonical) {ls} : (s.readClear ls).1.Canonical := by
  induction ls with
  | nil => exact h
  | cons l r ih =>
    simp only [State.readClear]
    split
    · exact ih
    · dsimp only
      exact ih.homeWrite.homeStore

theorem State.Canonical.tapeSwap (h : s.Canonical) {q ls} : (s.tapeSwap q ls).Canonical := by
  induction ls generalizing s with
  | nil => exact h
  | cons x r ih =>
    obtain ⟨l, v, e, slot, addr⟩ := x
    unfold State.tapeSwap
    dsimp only
    exact ih (.post (.homeStore h.homeWrite.updateCopy))

theorem State.Canonical.pendAtHome (h : s.Canonical) {q clear l} : (s.pendAtHome q clear l).Canonical := by
  simp only [State.pendAtHome]
  split
  · exact (h.setSlice.ite h).post
  · exact h.setSlice.ite h

theorem execAtomicAtHome_canonical (h : s.Canonical) {q op} : (execAtomicAtHome q op s).Canonical := by
  unfold execAtomicAtHome
  refine .next (h.admitAll (fun _ h1 => ?_))
  split
  · exact h1.readClear.post
  · exact h1.tapeSwap
  · exact h1.pendAtHome
  · exact h1.atomOnce
  · exact h1

theorem State.Canonical.atomAtFarBank (h : s.Canonical) {q op l} : (s.atomAtFarBank q op l).Canonical := by
  unfold State.atomAtFarBank
  split
  · exact h.atomAtBank.post
  · exact h.refusePool.post
  · exact h.post

theorem State.Canonical.redAtFarBank (h : s.Canonical) {src op l v} : (s.redAtFarBank src op l v).Canonical := by
  unfold State.redAtFarBank
  split
  · exact h.redAtBank
  · exact h.refusePool
  · exact h

theorem State.Canonical.atBank (h : s.Canonical) {q op} : (s.atBank q op).Canonical := by
  simp only [State.atBank]
  split
  · exact State.Canonical.routeLoad (List.foldlRecOn (motive := fun a : State × List Lane => a.1.Canonical) _ _ h fun _ h1 _ _ => h1.bankLoad)
  · split
    · exact (h.foldl fun _ _ h1 => h1.bankStore).post
    · exact h.foldl fun _ _ h1 => h1.bankStore
  · exact h.swapAtBank
  · split
    · exact h.atomAtFarBank
    · exact h
  · refine .routeRed (h.foldl fun _ _ h1 => ?_)
    split
    · exact h1.redAtFarBank
    · exact h1

theorem execPoolBankAccess_canonical (h : s.Canonical) {q op} : (execPoolBankAccess q op s).Canonical := by
  unfold execPoolBankAccess
  split
  · exact .next h.startCopy.postFront
  · exact .next h.atBank

theorem State.Canonical.record (h : s.Canonical) {word core t} (e : s.record word core = some t) : t.Canonical := by
  simp only [State.record] at e
  split at e
  · split at e
    · cases e; exact h
    · split at e
      · cases e
      · cases e; exact h.setSlice
  · split at e
    · cases e
    · cases e; exact h.setSlice

theorem State.Canonical.finishRelease (h : s.Canonical) {q n val} : (s.finishRelease q n val).Canonical := by
  unfold State.finishRelease
  split
  · exact h
  · refine .post ?_
    split
    · dsimp only
      exact h.homeWrite.tag.walkWaiters
    · exact h.homeStore

theorem execReleaseAtHome_canonical (h : s.Canonical) {q n val} : (execReleaseAtHome q n val s).Canonical := by
  simp only [execReleaseAtHome]
  split
  · exact .next h
  · refine .next (h.enterHome (fun _ h1 => ?_))
    split
    · exact (h1.foldLine.record ‹_›).finishRelease
    · exact h1.foldLine.startDrain

theorem execRel_canonical (h : s.Canonical) {f a m} : (execRel f a m s).Canonical := by
  simp only [execRel]
  split
  · exact .next h.stopMe
  · exact .ite (.next h.parkMe) (.next h.settle.yieldLines.addAck.post.done)

theorem execAcquireAtHome_canonical (h : s.Canonical) {q n} : (execAcquireAtHome q n s).Canonical := by
  unfold execAcquireAtHome
  split
  · exact .next h
  · exact .next (h.enterHome (fun _ h1 => h1.foldLine.startDrain))

theorem execAcq_canonical (h : s.Canonical) {f a m} : (execAcq f a m s).Canonical := by
  simp only [execAcq]
  split
  · exact .next h.stopMe
  · exact .next h.settle.yieldLines.parkMe.post

theorem execDrainCommandArrival_canonical (h : s.Canonical) {core job} : (execDrainCommandArrival core job s).Canonical := by
  simp only [execDrainCommandArrival]
  split
  · exact .next (h.ite h.cleanAll)
  · exact .next ((h.ite h.cleanAll).update.post.ite (h.ite h.cleanAll).update)

theorem State.Canonical.expire (h : s.Canonical) {w} : (s.expire w).Canonical := by
  unfold State.expire
  split
  · exact h.homeRead.post
  · exact (h.homeRead.homeWrite.homeStore.ite h.homeRead).post

theorem State.Canonical.register (h : s.Canonical) {w} : (s.register w).Canonical := by
  simp only [State.register]
  split
  · exact h.homeRead.satisfy
  · split
    · exact h.homeRead.expire
    · split
      · exact h.homeRead.at
      · split
        · exact h.homeRead.setSlice
        · exact h.homeRead.setSlice.at

theorem execWaitRegistration_canonical (h : s.Canonical) {w} : (execWaitRegistration w s).Canonical :=
  .next (h.enterHome (fun _ h1 => h1.register))

theorem State.Canonical.arrive (h : s.Canonical) {w} : (s.arrive w).Canonical := by
  simp only [State.arrive]
  split
  · exact h.homeWrite.post
  · split
    · exact h.homeWrite.writeMarked.tag.startDrain.ite h.homeWrite.writeMarked.tag.walkWaiters.post
    · exact h.homeWrite.homeStore.register

theorem execBarrierArrivalAtHome_canonical (h : s.Canonical) {w} : (execBarrierArrivalAtHome w s).Canonical := by
  simp only [execBarrierArrivalAtHome]
  refine .next (h.enterHome (fun _ h1 => ?_))
  split
  · exact h1.foldLine.arrive
  · split
    · exact (h1.foldLine.record ‹_›).arrive
    · exact h1.foldLine.startDrain

theorem execDrainCompletion_canonical (h : s.Canonical) {job} : (execDrainCompletion job s).Canonical := by
  unfold execDrainCompletion
  split
  · exact .next h
  · split
    · split
      · exact .next h.update
      · exact .next h.update.clearRecord.homeRead.post
    · exact .next h.update.clearRecord.walkLine.post
    · exact .next h.update.clearRecord.post
    · exact .next h.update.finishRelease
    · exact .next h.update.arrive

theorem State.Canonical.barInstr (h : s.Canonical) {kind a m} : (s.barInstr kind a m).Canonical := by
  simp only [State.barInstr]
  split
  · exact .next h.stopMe
  · exact .ite (.next h.setMe) (.next h.settle.yieldLines.parkCounted.post)

theorem execWaitw_canonical (h : s.Canonical) {f a m b d pe} : (execWaitw f a m b d pe s).Canonical := by
  simp only [execWaitw]
  split
  · exact .next h.stopMe
  · exact .next h.settle.yieldLines.parkCounted.post

theorem execWakeAtHome_canonical (h : s.Canonical) {q timeout} : (execWakeAtHome q timeout s).Canonical := by
  unfold execWakeAtHome
  split
  · exact .next h
  · exact .next (h.enterHome (fun _ h1 => (h1.homeRead.walkWaiters.setSlice.foldl fun _ _ h2 => h2.expire).ite h1.homeRead.walkWaiters))

theorem State.Canonical.wakeInstr (h : s.Canonical) {timeout m} : (s.wakeInstr timeout m).Canonical := by
  simp only [State.wakeInstr]
  split
  · exact .next h.stopMe
  · exact .next h.settle.yieldLines.post.done

theorem State.Canonical.pendInstr (h : s.Canonical) {clear a m} : (s.pendInstr clear a m).Canonical := by
  simp only [State.pendInstr]
  split
  · exact .next h.stopMe
  · exact .next h.settle.finish.post

/-! ## Fences -/

theorem State.Canonical.relPart (h : s.Canonical) {scope base t} (e : s.relPart scope base = .ok t) : t.Canonical := by
  simp only [State.relPart] at e
  split at e
  · cases e; exact h
  · split at e
    · cases e
    · split at e
      · cases e; exact h
      · split at e
        · cases e
        · cases e; exact h.cleanAll

theorem State.Canonical.relPart_waits (h : s.Canonical) {scope base t} (e : s.relPart scope base = .error t) : t.Canonical := by
  simp only [State.relPart] at e
  split at e
  · cases e
  · split at e
    · cases e; exact h.parkMe
    · split at e
      · cases e
      · split at e
        · cases e; exact h.cleanAll.setMe
        · cases e

theorem State.Canonical.acqPart (h : s.Canonical) {scope} : (s.acqPart scope).Canonical := h.parkMe.ite (h.selfInvalidate.done.ite h.done)

theorem execFenceFull_canonical (h : s.Canonical) {scope} : (execFenceFull scope s).Canonical := by
  unfold execFenceFull
  split
  · exact .next (h.relPart_waits ‹_›)
  · exact .next (h.relPart ‹_›).acqPart

theorem execFenceRel_canonical (h : s.Canonical) {scope} : (execFenceRel scope s).Canonical := by
  unfold execFenceRel
  split
  · exact .next (h.relPart_waits ‹_›)
  · exact .next (h.relPart ‹_›).done

theorem State.Canonical.askCores (h : s.Canonical) {cores e} : (s.askCores cores e).Canonical := by
  unfold State.askCores
  split
  · exact h.done
  · exact (h.foldl fun _ _ h1 => h1.post).setMe

theorem State.Canonical.ackPlane6 (h : s.Canonical) {tid} : (s.ackPlane6 tid).Canonical := h.modCtx

theorem State.Canonical.icsync (h : s.Canonical) {scope range empty} : (s.icsync scope range empty).Canonical := by
  unfold State.icsync
  split
  · exact h.done
  · split
    · exact h.relPart_waits ‹_›
    · exact (h.relPart ‹_›).done.ite (h.relPart ‹_›).askCores

theorem State.Canonical.invalidateLines (h : s.Canonical) {core p} : (s.invalidateLines core p).Canonical := h.setCore.noInstall

theorem execIcsyncInvalidateAtCore_canonical (h : s.Canonical) {tid core range} : (execIcsyncInvalidateAtCore tid core range s).Canonical := by
  unfold execIcsyncInvalidateAtCore
  refine .next (.ackPlane6 ?_)
  split
  · exact h.setCore.selfInvalidate.refetch
  · exact h.setCore.invalidateLines.refetch

/-! ## Conversions -/

theorem State.Canonical.setStat (h : s.Canonical) {cell k t} : (s.setStat cell k t).Canonical := h.setCell
theorem State.Canonical.applyStat (h : s.Canonical) {cell asid slot vs} : (s.applyStat cell asid slot vs).Canonical := h.setStat.ite h

/-! ## Vector forms -/

theorem State.Canonical.vbin (h : s.Canonical) {f a b c mk op} : (s.vbin f a b c mk op).Canonical := .next h.finish
theorem State.Canonical.vminmax (h : s.Canonical) {max f a b c mk} : (s.vminmax max f a b c mk).Canonical := .next h.finish
theorem State.Canonical.vseed (h : s.Canonical) {f a b mk op} : (s.vseed f a b mk op).Canonical := .next h.finish
theorem State.Canonical.vlong (h : s.Canonical) {f latency a mk op} : (s.vlong f latency a mk op).Canonical := .next h.at.finish

end Sys2Proof.Machine
end

section
/-! PROOFS. Canonical memory (O59): descriptors, entries, versions and forces. -/

namespace Sys2Proof.Machine

set_option Elab.async false

variable {s : State}

/-! ## Descriptors -/

theorem State.Canonical.readInto (h : s.Canonical) {stage need base disp} : (s.readInto stage need base disp).Canonical := by
  simp only [State.readInto]
  split
  · exact h.stopMe
  · exact h.settle.parkStage.routeLoad

theorem State.Canonical.readStruct (h : s.Canonical) {base disp n} : (s.readStruct base disp n).Canonical := h.readInto
theorem State.Canonical.doneLong (h : s.Canonical) {a w} : (s.doneLong a w).Canonical := h.finish.post
theorem State.Canonical.doneX (h : s.Canonical) {a w} : (s.doneX a w).Canonical := h.finish

theorem State.Canonical.lookupDesc (h : s.Canonical) {cell asid aid d t} (e : s.lookupDesc cell asid aid = some (d, t)) : t.Canonical := by
  simp only [State.lookupDesc] at e
  split at e
  · cases e
  · cases e; exact h.setCell

theorem State.Canonical.keyPhase (h : s.Canonical) {c k d t} (e : s.keyPhase c k = .ok (d, t)) : t.Canonical := by
  simp only [State.keyPhase] at e
  split at e
  · cases e; exact h
  · split at e
    · cases e
    · split at e
      · cases e
      · cases e; exact h.lookupDesc ‹_›

theorem State.Canonical.charge (h : s.Canonical) {rcb asid up} : (s.charge rcb asid up).Canonical :=
  (h.foldl fun _ _ h1 => h1.setRcbWord).ite (h.foldl fun _ _ h1 => h1.setRcbWord).post

theorem State.Canonical.limitAt (h : s.Canonical) {cycle e} : (s.limitAt cycle e).Canonical := h.ite h.at
theorem State.Canonical.stallThread (h : s.Canonical) {q code} : (s.stallThread q code).Canonical := h.countPark.limitAt.modCtx
theorem State.Canonical.stallTeller (h : s.Canonical) {q cell op code} : (s.stallTeller q cell op code).Canonical := h.limitAt

theorem State.Canonical.stallReq (h : s.Canonical) {q code e} : (s.stallReq q code e).Canonical := by
  unfold State.stallReq
  split
  · exact h.update.replyTo
  · split
    · exact h.update.stallTeller
    · exact h.update.stallTeller
    · exact h.update.stallThread

theorem State.Canonical.mintReply (h : s.Canonical) {q o} : (s.mintReply q o).Canonical := by
  unfold State.mintReply
  split
  · exact h.post
  · split <;> exact h.replyTo

theorem State.Canonical.modEntry (h : s.Canonical) {k home f} : (s.modEntry k home f).Canonical := h.setSlice
theorem State.Canonical.dropEntry (h : s.Canonical) {k home} : (s.dropEntry k home).Canonical := h.setSlice
theorem State.Canonical.giveShadow (h : s.Canonical) {home e} : (s.giveShadow home e).Canonical := h.dropEntry.ite h.dropEntry.charge

theorem State.Canonical.takeRun (h : s.Canonical) {home bytes fuel t r} (e : s.takeRun home bytes fuel = some (t, r)) : t.Canonical := by
  induction fuel generalizing s with
  | zero =>
    obtain ⟨_, _, e⟩ := Option.map_eq_some_iff.1 e
    cases e; exact h
  | succ fuel ih =>
    simp only [State.takeRun] at e
    split at e
    · cases e; exact h
    · split at e
      · cases e
      · exact ih h.giveShadow e

theorem State.Canonical.withRun (h : s.Canonical) {home bytes k t} (hk : ∀ u r, u.Canonical → (k u r).Canonical)
    (e : s.withRun home bytes k = some t) : t.Canonical := by
  obtain ⟨_, er, rfl⟩ := Option.map_eq_some_iff.1 e
  exact hk _ _ (h.takeRun er)

theorem State.Canonical.mintRoom (h : s.Canonical) {home t} (e : s.mintRoom home = some t) : t.Canonical := by
  simp only [State.mintRoom] at e
  split at e
  · cases e; exact h
  · split at e
    · cases e; exact h.setSlice.dropEntry
    · obtain ⟨_, _, rfl⟩ := Option.map_eq_some_iff.1 e
      exact h.giveShadow

theorem State.Canonical.addEntry (h : s.Canonical) {home e} : (s.addEntry home e).Canonical := h.setSlice

theorem State.Canonical.allocEntry (h : s.Canonical) {k home st rcb asid t} (e : s.allocEntry k home st rcb asid = .ok t) : t.Canonical := by
  simp only [State.allocEntry] at e
  split at e
  · cases e
  · split at e
    · cases e
    · cases e; exact (h.mintRoom ‹_›).charge.addEntry

theorem State.Canonical.kill (h : s.Canonical) {k home} : (s.kill k home).Canonical := by
  unfold State.kill
  split
  · exact h
  · exact h.dropEntry.addEntry.charge.wakeRoom

theorem State.Canonical.reclaim (h : s.Canonical) {k home} : (s.reclaim k home).Canonical := by
  unfold State.reclaim
  split
  · exact h
  · exact h.kill.ite h

theorem State.Canonical.wakeVersion (h : s.Canonical) {w result} : (s.wakeVersion w result).Canonical := by
  unfold State.wakeVersion
  split <;> exact h.post

theorem State.Canonical.walkKey (h : s.Canonical) {k home result} : (s.walkKey k home result).Canonical := by
  unfold State.walkKey
  split
  · exact h
  · exact h.modEntry.foldl fun _ _ h1 => h1.wakeVersion

theorem State.Canonical.notify (h : s.Canonical) {k home} : (s.notify k home).Canonical := by
  unfold State.notify
  split
  · exact h
  · refine h.modEntry.foldl fun _ _ h1 => ?_
    split
    · exact h1
    · exact h1.sendOn

theorem State.Canonical.reserve (h : s.Canonical) {k home bytes rcb asid t} (e : s.reserve k home bytes rcb asid = .ok t) : t.Canonical := by
  simp only [State.reserve] at e
  split at e
  · cases e
  · split at e
    · cases e
    · split at e
      · cases e
      · split at e
        · cases e
        next u hu =>
          have hu : u.Canonical := by
            split at hu
            · exact h.allocEntry hu
            · cases hu; exact h
          split at e
          · cases e
          · cases e; exact hu.withRun (fun _ _ h1 => h1.modEntry) ‹_›

theorem State.Canonical.unreserve (h : s.Canonical) {k home} : (s.unreserve k home).Canonical := by
  unfold State.unreserve
  split
  · exact h
  · split
    · exact h
    · split
      · exact h.modEntry.wakeRoom
      · exact h.dropEntry.charge.wakeRoom.ite h.modEntry.wakeRoom

theorem State.Canonical.dropSnap (h : s.Canonical) {k home} : (s.dropSnap k home).Canonical := h.modEntry.unreserve.ite h
theorem State.Canonical.create (h : s.Canonical) {k home n0 data} : (s.create k home n0 data).Canonical := h.modEntry.walkKey.notify.reclaim
theorem State.Canonical.unpin (h : s.Canonical) {k home} : (s.unpin k home).Canonical := h.modEntry.retryStalled.reclaim

theorem State.Canonical.pin (h : s.Canonical) {k home t} (e : s.pin k home = .ok t) : t.Canonical := by
  simp only [State.pin] at e
  split at e
  · cases e; exact h
  · split at e
    · cases e
    · cases e; exact h.modEntry

theorem State.Canonical.needAdj (h : s.Canonical) {k home d rcb asid t} (e : s.needAdj k home d rcb asid = .ok t) : t.Canonical := by
  simp only [State.needAdj] at e
  split at e
  · cases e; exact h
  · split at e
    · cases e
    · split at e
      · cases e
      next u hu =>
        have hu : u.Canonical := by
          split at hu
          · cases hu; exact h
          · obtain ⟨_, er, rfl⟩ := Option.map_eq_some_iff.1 hu
            exact (h.mintRoom er).addEntry
        split at e
        · cases e
        · cases e; exact hu.withRun (fun _ _ h1 => h1.charge.modEntry) ‹_›

theorem State.Canonical.dropAdj (h : s.Canonical) {k home} : (s.dropAdj k home).Canonical := by
  unfold State.dropAdj
  split
  · exact h
  · exact h.modEntry.charge.wakeRoom

theorem State.Canonical.dropBlocks (h : s.Canonical) {home k} : (s.dropBlocks home k).Canonical := h.setSlice.release.wakeRoom

/-! ## Mint, entries and storage -/

theorem State.Canonical.releaseRef (h : s.Canonical) {r} : (s.releaseRef r).Canonical := by
  unfold State.releaseRef
  split
  · exact h.post
  · split
    · exact h.sendOn
    · exact h

theorem State.Canonical.releasePool (h : s.Canonical) {p} : (s.releasePool p).Canonical := by
  simp only [State.releasePool]
  split
  · exact h.setCell.modEntry.ite h
  · exact h

theorem State.Canonical.rebind (h : s.Canonical) {tid f} : (s.rebind tid f).Canonical :=
  (h.setCtx.foldl fun _ _ h1 => h1.releasePool).foldl fun _ _ h1 => h1.releaseRef

theorem State.Canonical.bindHandle (h : s.Canonical) {tid x3 x} : (s.bindHandle tid x3 x).Canonical := h.rebind
theorem State.Canonical.clearHandles (h : s.Canonical) {tid} : (s.clearHandles tid).Canonical := h.rebind

theorem State.Canonical.newRef (h : s.Canonical) {k home dev sh diff} : (s.newRef k home dev sh diff).2.Canonical := by
  unfold State.newRef
  dsimp only
  exact h.update

theorem State.Canonical.startForce (h : s.Canonical) {stage handle root q} : (s.startForce stage handle root q).Canonical :=
  h.setMe.parkStage.post

theorem State.Canonical.faultForce (h : s.Canonical) {tid f pc cause addr} : (s.faultForce tid f pc cause addr).Canonical := h.modCtx.post
theorem State.Canonical.unwait (h : s.Canonical) {tid k home} : (s.unwait tid k home).Canonical := h.modEntry

theorem State.Canonical.awaitKey (h : s.Canonical) {tid k home} : (s.awaitKey tid k home).Canonical :=
  h.countPark.modCtx.ite (h.countPark.modCtx.at.ite h.countPark.modCtx.modEntry)

theorem State.Canonical.endWait (h : s.Canonical) {tid} : (s.endWait tid).Canonical := h.modCtx
theorem State.Canonical.lookAtKey (h : s.Canonical) {tid} : (s.lookAtKey tid).Canonical := h.modCtx

theorem State.Canonical.takeLeaf (h : s.Canonical) {tid f r e} : (s.takeLeaf tid f r e).Canonical := by
  unfold State.takeLeaf
  split
  · exact h.faultForce
  · exact h.endWait.modCtx.post

theorem State.Canonical.stallForce (h : s.Canonical) {tid code} : (s.stallForce tid code).Canonical := h.setCtx.ite h.at.setCtx

theorem State.Canonical.askOwner (h : s.Canonical) {d k home op t} (e : s.askOwner d k home op = some t) : t.Canonical := by
  simp only [State.askOwner] at e
  split at e
  · cases e; exact h.await.sendOn
  · cases e

theorem State.Canonical.remoteLeaf (h : s.Canonical) {tid f r pc d} : (s.remoteLeaf tid f r pc d).Canonical := by
  unfold State.remoteLeaf
  split
  · exact h.takeLeaf.ite h.awaitKey
  · split
    · exact h.update.countPark.modCtx.stallForce
    · split
      · exact h.update.countPark.modCtx.stallForce
      · split
        · exact (((h.allocEntry ‹_›).withRun (fun _ _ h2 => h2.modEntry) ‹_›).askOwner ‹_›).awaitKey
        · exact h.faultForce

theorem State.Canonical.readLeaf (h : s.Canonical) {tid f r pc} : (s.readLeaf tid f r pc).Canonical := by
  unfold State.readLeaf
  split
  · exact h.remoteLeaf
  · split
    · exact h.faultForce
    · split
      · exact h.faultForce
      · split
        · exact h.takeLeaf
        · refine .awaitKey ?_
          split
          · exact h.post.ite h
          · exact h

theorem State.Canonical.setMatrix (h : s.Canonical) {core m} : (s.setMatrix core m).Canonical := h.setCore

theorem State.Canonical.kickMatrix (h : s.Canonical) {core} : (s.kickMatrix core).Canonical := by
  simp only [State.kickMatrix]
  split
  · exact h
  · exact h.ite (h.ite h.post)
  · exact h.ite (h.ite h.post)
  · exact h.ite h.post
  · exact h.ite h.post

theorem State.Canonical.enqueueMatrix (h : s.Canonical) {core c} : (s.enqueueMatrix core c).Canonical := h.setMatrix.kickMatrix

theorem execForceNodeStep_canonical (h : s.Canonical) {tid} : (execForceNodeStep tid s).Canonical := by
  simp only [execForceNodeStep]
  split
  · exact .next h
  · split
    · exact .next h
    · split
      · exact .next h.readLeaf
      · split
        · exact .next h.post
        · exact .ite (.ite (.next h) (.ite (.next h.enqueueMatrix) (.next h.at))) (.next h.setCtx.post)

theorem execForceCompletion_canonical (h : s.Canonical) {tid} : (execForceCompletion tid s).Canonical := by
  unfold execForceCompletion
  split
  · exact .next h
  · exact .ite (.next h) (.next h.modCtx.wakeAgain)

theorem State.Canonical.takeBack (h : s.Canonical) {tid} : (s.takeBack tid).Canonical := h.update

theorem State.Canonical.wakeTwait (h : s.Canonical) {tid result q a deadline} : (s.wakeTwait tid result q a deadline).Canonical :=
  (h.takeBack.unwait.wakeWith.ite h).ite (h.ite (h.post.ite (h.wakeTrap.ite (h.wakeTrap.ite h.wakeWith))))

theorem execVersionWakeArrival_canonical (h : s.Canonical) {tid result} : (execVersionWakeArrival tid result s).Canonical := by
  simp only [execVersionWakeArrival]
  split
  · exact .next h.wakeTwait
  · split
    · exact .next h
    · split
      · exact .next (h.faultForce.ite (h.faultForce.ite h.faultForce))
      · exact .ite (.next h.wakeAgain) (.next (h.lookAtKey.ite h.endWait).post)
  · exact .next (h.wakeAgain.ite h)

theorem State.Canonical.thunkFault (h : s.Canonical) {f x} : (s.thunkFault f x).Canonical := h.setMe.trapMe

theorem State.Canonical.withForce (h : s.Canonical) {stage handle root q undo k} (h6 : ∀ u, u.Canonical → (undo u).Canonical) (h7 : ∀ u v, u.Canonical → (k u v).Canonical) :
    (s.withForce stage handle root q undo k).Canonical := by
  unfold State.withForce
  split
  · exact h.startForce
  · split
    · exact h.parkStage.post
    · split
      · exact (h6 _ h).thunkFault
      · exact h7 _ _ h

theorem State.Canonical.anonReq (h : s.Canonical) {sh use q t} (e : s.anonReq sh use = some (q, t)) : t.Canonical := by
  simp only [State.anonReq] at e
  split at e
  · cases e
  · cases e; exact h.setMe

theorem State.Canonical.anonSpent (h : s.Canonical) : s.anonSpent.Canonical := h.trapMe

theorem State.Canonical.materialise (h : s.Canonical) {i n k} (hk : ∀ u, u.Canonical → (k u).Canonical) : (s.materialise i n k).Canonical := by
  simp only [State.materialise]
  split
  · split
    · exact hk _ h.newRef.rebind.setMe
    · exact h
  · refine h.withForce (fun _ h2 => h2) fun _ _ h2 => ?_
    split
    · exact h2.anonSpent
    · exact (h2.anonReq ‹_›).parkStage.setMe.post

theorem State.Canonical.withEntry (h : s.Canonical) {a n k} (hk : ∀ u v, v.Canonical → (k u v).Canonical) : (s.withEntry a n k).Canonical := by
  simp only [State.withEntry]
  split
  · exact hk _ _ h
  · split
    · exact h.trapMe
    · split
      · exact h
      · exact h.materialise (fun _ h2 => h2.setMe)

theorem State.Canonical.append (h : s.Canonical) {a n draws} : (s.append a n draws).Canonical :=
  h.withEntry fun _ t ht => State.Canonical.finish (ht.rebind.update (by dsimp only))

/-! ## Versions and forces -/

theorem State.Canonical.sendKey (h : s.Canonical) {q op data} : (s.sendKey q op data).Canonical := by
  unfold State.sendKey
  split
  · exact h.mintReply
  · split
    · exact h.mintReply
    · exact h.await.sendOn

theorem State.Canonical.askMint (h : s.Canonical) {stage q e} : (s.askMint stage q e).Canonical :=
  h.parkStage.setMe.sendKey.ite h.parkStage.setMe.post

theorem execTdecl_canonical (h : s.Canonical) {a b} : (execTdecl a b s).Canonical := by
  simp only [execTdecl]
  split
  · exact .next h.stopMe
  · exact .next h.settle.loadLanes

theorem State.Canonical.declare (h : s.Canonical) {asid bs} : (s.declare asid bs).1.Canonical := by
  simp only [State.declare]
  split
  · dsimp only
    exact h
  · split
    · dsimp only
      exact h
    · split
      · dsimp only
        exact h
      · dsimp only
        exact h.setSlice

theorem State.Canonical.landing (h : s.Canonical) {tid w} : (s.landing tid w).1.Canonical := by
  unfold State.landing
  split
  · exact h.declare
  · dsimp only
    exact h

theorem State.Canonical.landWrites (h : s.Canonical) {tid long ws} : (s.landWrites tid long ws).Canonical :=
  h.foldl fun _ _ h1 => h1.landing.modCtx

theorem execLongResultArrival_canonical (h : s.Canonical) {r} : (execLongResultArrival r s).Canonical := by
  unfold execLongResultArrival
  refine .next ?_
  split
  · exact (h.selfInvalidate.ite h).landWrites.modCtx.wakeAgain
  · split
    · exact (h.selfInvalidate.ite h).landWrites.modCtx.modCtx.requeue
    · exact (h.selfInvalidate.ite h).landWrites.modCtx.syncImage

theorem execTdeclU_canonical (h : s.Canonical) {a b} : (execTdeclU a b s).Canonical := by
  simp only [execTdeclU]
  split
  · exact .next h.doneX
  · exact .ite (.next h.doneLong) (.ite (.next h.doneLong) (.next (h.setSlice.parkStage.setMe.foldl fun _ _ h1 => h1.post)))

theorem State.Canonical.forgetArray (h : s.Canonical) {slice asid arr} : (s.forgetArray slice asid arr).Canonical :=
  (h.foldl fun _ _ h1 => h1.dropAdj.dropBlocks.dropEntry).setSlice.wakeRoom

theorem State.Canonical.contributeTile (h : s.Canonical) {stage q vals} : (s.contributeTile stage q vals).Canonical := h.setMe.askMint

theorem State.Canonical.seedTile (h : s.Canonical) {x k d} : (s.seedTile x k d).Canonical := by
  simp only [State.seedTile]
  split
  · exact h.trapMe
  · exact h.trapMe.ite (h.done.ite (h.setMe.withForce (fun _ h1 => h1) (fun _ _ h1 => h1.contributeTile)))

theorem execTld_canonical (h : s.Canonical) {a ko} : (execTld a ko s).Canonical := by
  simp only [execTld]
  split
  · exact .next h.trapMe
  · split
    · exact .next (h.keyPhase ‹_›).seedTile
    · exact .ite (.next (h.keyPhase ‹_›).newRef.bindHandle.done) (.next (h.keyPhase ‹_›).askMint)

theorem State.Canonical.dropInstr (h : s.Canonical) {all ko} : (s.dropInstr all ko).Canonical := by
  simp only [State.dropInstr]
  split
  · exact h.trapMe
  · exact (h.keyPhase ‹_›).done.ite (h.keyPhase ‹_›).askMint

theorem execTqry_canonical (h : s.Canonical) {a ko} : (execTqry a ko s).Canonical := by
  simp only [execTqry]
  split
  · exact .next h.trapMe
  · split
    · exact .next (h.keyPhase ‹_›).doneX
    · exact .ite (.next (h.keyPhase ‹_›).askMint) (.next (h.keyPhase ‹_›).finish.post)

theorem execTwait_canonical (h : s.Canonical) {a ko} : (execTwait a ko s).Canonical := by
  simp only [execTwait]
  split
  · exact .next h.trapMe
  · refine .next (.post (.setMe ?_))
    split
    · exact (h.keyPhase ‹_›).parkCounted.at
    · exact (h.keyPhase ‹_›).parkCounted

theorem State.Canonical.giveBack (h : s.Canonical) {q} : (s.giveBack q).Canonical := by
  unfold State.giveBack
  split
  · split
    · exact h.sendOn
    · exact h
  · exact h.unreserve

theorem State.Canonical.givePin (h : s.Canonical) {q} : (s.givePin q).Canonical := h.releaseRef

theorem State.Canonical.disown (h : s.Canonical) {q} : (s.disown q).Canonical := by
  unfold State.disown
  split
  · exact h.giveBack
  · exact h.giveBack
  · exact h.dropSnap
  · exact h.givePin
  · exact h.givePin
  · exact h.givePin
  · exact h.modEntry
  · exact h

theorem State.Canonical.createVersion (h : s.Canonical) {stage q data} : (s.createVersion stage q data).Canonical :=
  h.parkStage.setMe.sendKey.ite h.parkStage.setMe.post

theorem State.Canonical.storeVersion (h : s.Canonical) {k rdr d data}
    (hd : ∀ (t : State) q (f : State → List Byte → State), t.Canonical → (∀ u bs, u.Canonical → (f u bs).Canonical) → (data t q f).Canonical) :
    (s.storeVersion k rdr d data).Canonical := by
  simp only [State.storeVersion]
  split
  · exact h.askMint
  · exact hd _ _ _ h fun _ _ h1 => h1.createVersion
  · exact h.done

theorem State.Canonical.reserveSnap (h : s.Canonical) {stage sh d} : (s.reserveSnap stage sh d).Canonical := by
  unfold State.reserveSnap
  split
  · exact h.anonSpent
  · exact (h.anonReq ‹_›).askMint

theorem State.Canonical.createSnap (h : s.Canonical) {stage q data} : (s.createSnap stage q data).Canonical := h.askMint

theorem State.Canonical.bindSnap (h : s.Canonical) {a sh} : (s.bindSnap a sh).Canonical := by
  simp only [State.bindSnap]
  split
  · exact h.done
  · exact h.newRef.bindHandle.done

theorem State.Canonical.snapTile (h : s.Canonical) {a k d} : (s.snapTile a k d).Canonical := by
  simp only [State.snapTile]
  split
  · exact h.reserveSnap
  · exact h.askMint
  · split
    · exact h.createSnap
    · exact h.done
  · exact h.bindSnap

theorem execTst_canonical (h : s.Canonical) {a ko} : (execTst a ko s).Canonical := by
  simp only [execTst]
  split
  · exact .next h.trapMe
  · have ht := h.keyPhase ‹_›
    split
    · exact .next ht.snapTile
    · split
      · exact .next ht.trapMe
      · split
        · exact .next ht.trapMe
        · exact .next (ht.storeVersion fun _ _ _ h1 hf => h1.withForce (fun _ h2 => h2.giveBack) fun _ _ h2 => hf _ _ h2)

theorem execTstv_canonical (h : s.Canonical) {f a ko} : (execTstv f a ko s).Canonical := by
  simp only [execTstv]
  split
  · exact .next h.trapMe
  · have ht := h.keyPhase ‹_›
    split
    · split
      · exact .next ht.askMint
      · exact .next ht.finish
    · split
      · exact .next ht.trapMe
      · split
        · exact .next ht.trapMe
        · split
          · exact .next ht.trapMe
          · exact .next (ht.storeVersion fun _ _ _ h1 hf => hf _ _ h1)

theorem State.Canonical.putTake (h : s.Canonical) {f a sh t vals} : (s.putTake f a sh t vals).Canonical := h.finish.foldl fun _ _ h1 => h1.post

theorem execTget_canonical (h : s.Canonical) {f a b c d} : (execTget f a b c d s).Canonical := by
  simp only [execTget]
  split
  · exact .next h.trapMe
  · split
    · exact .next h.trapMe
    · split
      · split
        · exact .next h.trapMe
        · exact .ite (.next h.done) (.next h.contributeTile)
      · split
        · exact .next h.putTake
        · exact .next (h.withForce (fun _ h1 => h1) (fun _ _ h1 => h1.putTake))

theorem State.Canonical.needEntry (h : s.Canonical) {q t} (e : s.needEntry q = .ok t) : t.Canonical := by
  simp only [State.needEntry] at e
  split at e
  · cases e; exact h
  · exact h.allocEntry e

theorem State.Canonical.reference (h : s.Canonical) {q consume t} (e : s.reference q consume = .ok t) : t.Canonical := by
  simp only [State.reference] at e
  split at e
  · cases e
  · split at e
    · cases e
    · cases e
      have ht := (h.needEntry ‹_›).pin ‹_›
      split
      · exact ht.modEntry
      · exact ht

theorem State.Canonical.addWaiter (h : s.Canonical) {q w t} (e : s.addWaiter q w = some t) : t.Canonical := by
  simp only [State.addWaiter] at e
  split at e
  · cases e; exact h
  · split at e
    · cases e
    · cases e; exact h.modEntry

theorem State.Canonical.waitAtMint (h : s.Canonical) {q deadline} : (s.waitAtMint q deadline).Canonical := by
  unfold State.waitAtMint
  split
  · exact h.mintReply
  · split
    · exact h.mintReply
    · split
      · exact h.mintReply
      · split
        · exact h.stallReq
        · split
          · exact (h.needEntry ‹_›).at
          · exact ((h.needEntry ‹_›).addWaiter ‹_›).modCtx

theorem State.Canonical.waitRemote (h : s.Canonical) {q deadline} : (s.waitRemote q deadline).Canonical := by
  unfold State.waitRemote
  split
  · exact h.mintReply.ite (h.mintReply.ite h.awaitKey)
  · split
    · exact h.mintReply
    · split
      · exact h.stallReq
      · split
        · exact h.stallReq
        · split
          · exact h.trap
          · exact (((h.allocEntry ‹_›).withRun (fun _ _ h2 => h2.modEntry) ‹_›).askOwner ‹_›).post

theorem State.Canonical.readAdjoint (h : s.Canonical) {q take} : (s.readAdjoint q take).Canonical := by
  unfold State.readAdjoint
  split
  · exact h.stallReq
  · split
    · exact (h.needAdj ‹_›).foldBlocks.dropAdj.mintReply
    · exact (h.needAdj ‹_›).foldBlocks.modEntry.mintReply

theorem State.Canonical.remoteRead (h : s.Canonical) {q dev ref} : (s.remoteRead q dev ref).Canonical := by
  unfold State.remoteRead
  split
  · exact h.replyTo
  · split
    · exact h.stallReq
    · split
      · exact h.needEntry ‹_›
      · split
        · exact (h.needEntry ‹_›).replyTo
        · exact (h.needEntry ‹_›).replyTo.ite ((h.needEntry ‹_›).replyTo.ite (h.needEntry ‹_›).modEntry.replyTo)

theorem execMintReference_canonical (h : s.Canonical) {q} : (execMintReference q s).Canonical := by
  simp only [execMintReference]
  refine .next ?_
  split
  · split
    · exact h.remoteRead
    · exact h.waitRemote.ite h.waitAtMint
  · exact h.post
  · exact h.post
  · split
    · exact h.sendKey
    · split
      · exact h.mintReply
      · exact h.readAdjoint
      · exact h.readAdjoint
      · split
        · exact h.mintReply
        · split
          · exact h.stallReq
          · exact (h.reference ‹_›).mintReply
      · split
        · exact h.mintReply
        · split
          · exact h.stallReq
          · exact (h.reference ‹_›).mintReply
      · split
        · exact h.mintReply
        · split
          · exact h.stallReq
          · exact (h.reference ‹_›).mintReply

theorem execMintDrop_canonical (h : s.Canonical) {q} : (execMintDrop q s).Canonical := by
  unfold execMintDrop
  refine .next ?_
  split
  · exact h.sendKey
  · split
    · exact h.dropBlocks.dropAdj.mintReply
    · split
      · exact h.mintReply
      · split
        · exact h.stallReq
        · exact (h.needEntry ‹_›).modEntry.reclaim.mintReply
    · split
      · exact h.mintReply
      · split
        · exact h.stallReq
        · exact (h.needEntry ‹_›).modEntry.reclaim.mintReply

theorem execMintReserve_canonical (h : s.Canonical) {q} : (execMintReserve q s).Canonical := by
  unfold execMintReserve
  refine .next ?_
  split
  · exact h.sendKey
  · split
    · exact h.stallReq
    · exact h.mintReply
    · split
      · exact (h.reserve ‹_›).modEntry.create.mintReply
      · exact (h.reserve ‹_›).modEntry.mintReply
      · exact (h.reserve ‹_›).mintReply

theorem State.Canonical.dropInput (h : s.Canonical) {q} : (s.dropInput q).Canonical := by
  unfold State.dropInput
  split
  · exact h.unpin
  · exact h.dropSnap
  · exact h.modCtx
  · exact h

theorem execMintReplyArrival_canonical (h : s.Canonical) {q o} : (execMintReplyArrival q o s).Canonical := by
  unfold execMintReplyArrival
  refine .next ?_
  split
  · split
    · exact (h.dropInput.ite h).post
    · exact (h.dropInput.ite h).post
    · exact (h.dropInput.ite h).post
    · exact (h.dropInput.ite h).post
    · exact (h.dropInput.ite h).stallTeller
    · exact (h.dropInput.ite h).post
  · split
    · exact (h.dropInput.ite h).post
    · exact (h.dropInput.ite h).post
    · exact (h.dropInput.ite h).post
    · exact (h.dropInput.ite h).post
    · exact (h.dropInput.ite h).stallTeller
    · exact (h.dropInput.ite h).post
  · split
    · split
      · split
        · exact h.dropInput.modCtx.syncImage
        · split
          · exact h.dropInput.post.deliver
          · exact h.dropInput.post
        · exact h.dropInput.disown
        · exact h.dropInput
      · split
        · exact (h.dropInput.post.ite h.dropInput).wakeAgain
        · split
          · exact h.dropInput.wakeWith
          · exact h.dropInput.modCtx.wakeAgain
        · exact h.dropInput.modCtx.wakeAgain
        · exact h.dropInput.wakeTrap
        · exact h.dropInput.wakeTrap
        · exact h.dropInput.wakeTrap
        · exact h.dropInput.stallThread
        · exact h.dropInput.wakeTrap
    · split
      · split
        · exact h.modCtx.syncImage
        · split
          · exact h.post.deliver
          · exact h.post
        · exact h.disown
        · exact h
      · split
        · exact (h.post.ite h).wakeAgain
        · split
          · exact h.wakeWith
          · exact h.modCtx.wakeAgain
        · exact h.modCtx.wakeAgain
        · exact h.wakeTrap
        · exact h.wakeTrap
        · exact h.wakeTrap
        · exact h.stallThread
        · exact h.wakeTrap

theorem State.Canonical.needBlock (h : s.Canonical) {q t} (e : s.needBlock q = .ok t) : t.Canonical := by
  simp only [State.needBlock] at e
  split at e
  · cases e; exact h
  · split at e
    · cases e
    · split at e
      · cases e
      · cases e
        refine State.Canonical.withRun ?_ (fun _ _ h1 => h1.charge.setSlice) ‹_›
        split
        · exact h.earlyFold
        · exact h

theorem execAdjointTileContribution_canonical (h : s.Canonical) {q x vals} : (execAdjointTileContribution q x vals s).Canonical := by
  unfold execAdjointTileContribution
  refine .next ?_
  split
  · exact h.sendKey
  · split
    · exact h.stallReq
    · split
      · exact h.stallReq
      · split
        · exact ((h.needAdj ‹_›).needBlock ‹_›).setSlice.mintReply
        · exact ((h.needAdj ‹_›).needBlock ‹_›).setSlice.mintReply.post

end Sys2Proof.Machine
end

section
/-! PROOFS. Canonical memory (O59): the matrix engine, region control blocks, threads and tasks. -/

namespace Sys2Proof.Machine

set_option Elab.async false

variable {s : State}

/-! ## The matrix engine -/

theorem State.Canonical.kickCell (h : s.Canonical) {cell} : (s.kickCell cell).Canonical := h.foldl fun _ _ h1 => h1.kickMatrix
theorem State.Canonical.retire (h : s.Canonical) {core f} : (s.retire core f).Canonical := h.setMatrix.kickCell

theorem State.Canonical.matrixSpace (h : s.Canonical) {k} (hk : ∀ u, u.Canonical → (k u).Canonical) : (s.matrixSpace k).Canonical :=
  (hk _ h).ite h.draw.trapMe

theorem State.Canonical.matrixResult (h : s.Canonical) {src a w} : (s.matrixResult src a w).Canonical := h.post
theorem State.Canonical.queueMatrix (h : s.Canonical) {c f} : (s.queueMatrix c f).Canonical := h.finish.enqueueMatrix.ite h.parkMe
theorem State.Canonical.answer (h : s.Canonical) {a w} : (s.answer a w).Canonical := h.doneLong

theorem execMringSet_canonical (h : s.Canonical) {r a b} : (execMringSet r a b s).Canonical := by
  simp only [execMringSet]
  refine .next (h.matrixSpace (fun _ h1 => ?_))
  split
  · exact h1.setMatrix.answer
  · exact h1.answer

theorem execMringPush_canonical (h : s.Canonical) {r a b} : (execMringPush r a b s).Canonical := by
  simp only [execMringPush]
  refine .next (h.matrixSpace (fun _ h1 => ?_))
  split
  · exact h1.parkMe
  · split
    · exact h1.answer
    · exact h1.answer.ite h1.setMatrix.answer.kickCell

theorem execMepi_canonical (h : s.Canonical) {a b c} : (execMepi a b c s).Canonical := by
  simp only [execMepi]
  refine .next (h.matrixSpace (fun _ h1 => ?_))
  split
  · exact h1.stopMe.ite (h1.trapMe.ite h1.queueMatrix)
  · exact h1.stopMe

theorem execMma_canonical (h : s.Canonical) {f ra rb} : (execMma f ra rb s).Canonical := by
  simp only [execMma]
  refine .next (h.matrixSpace (fun _ h1 => ?_))
  split
  · exact h1.trapMe.ite h1.queueMatrix
  · exact h1.trapMe

theorem State.Canonical.reload (h : s.Canonical) {core} : (s.reload core).Canonical := by
  unfold State.reload
  split
  · exact h
  · exact h.setMatrix

theorem execKstepGrant_canonical (h : s.Canonical) {cell} : (execKstepGrant cell s).Canonical := by
  simp only [execKstepGrant]
  split
  · exact .next h
  · split
    · exact .next h
    · split
      · exact .next (h.ite (h.foldl fun _ _ h1 => h1.reload))
      · exact .next (h.ite (h.foldl fun _ _ h1 => h1.reload)).setMatrix.setCell.post

theorem State.Canonical.forceProduct (h : s.Canonical) {core src i} : (s.forceProduct core src i).Canonical := by
  simp only [State.forceProduct]
  split
  · exact h.setMatrix.kickCell
  · exact h.setMatrix.kickCell.setCtx.post.ite h.setMatrix.kickCell

theorem execKstepRetire_canonical (h : s.Canonical) {core} : (execKstepRetire core s).Canonical := by
  simp only [execKstepRetire]
  split
  · exact .next h.forceProduct
  · split
    · exact .next h.retire
    · exact .next h
  · exact .next h

theorem execMatrixCommandAtHead_canonical (h : s.Canonical) {core} : (execMatrixCommandAtHead core s).Canonical := by
  unfold execMatrixCommandAtHead
  refine .next ?_
  split
  · exact h.retire.matrixResult
  · exact h.retire.matrixResult
  · exact h.retire.matrixResult
  · exact h.retire.matrixResult
  · exact h

theorem State.Canonical.queueDrain (h : s.Canonical) {a fmt dst} : (s.queueDrain a fmt dst).Canonical := h.queueMatrix

theorem State.Canonical.drainRows (h : s.Canonical) {a fmt pool b c} : (s.drainRows a fmt pool b c).Canonical := by
  unfold State.drainRows
  split
  · exact h.stopMe
  · exact h.queueDrain.ite h.queueDrain.settleAll

theorem State.Canonical.drainRing (h : s.Canonical) {a fmt b} : (s.drainRing a fmt b).Canonical := by
  simp only [State.drainRing]
  split
  · exact h.trapMe
  · split
    · exact h.trapMe
    · split
      · exact h.trapMe
      · exact h.queueDrain

theorem State.Canonical.drainTile (h : s.Canonical) {a fmt ko} : (s.drainTile a fmt ko).Canonical := by
  simp only [State.drainTile]
  split
  · exact h.trapMe
  · exact (h.keyPhase ‹_›).trapMe.ite ((h.keyPhase ‹_›).askMint.ite (h.keyPhase ‹_›).queueDrain)

theorem execMdrain_canonical (h : s.Canonical) {f a dst} : (execMdrain f a dst s).Canonical := by
  unfold execMdrain
  refine .next (h.matrixSpace (fun _ h1 => ?_))
  split
  · exact h1.drainRows
  · exact h1.drainRows
  · exact h1.drainRing
  · exact h1.drainTile

theorem execEpilogueRow_canonical (h : s.Canonical) {core} : (execEpilogueRow core s).Canonical := by
  simp only [execEpilogueRow]
  split
  · exact .ite (.next h) (.ite (.next h) (.next (h.foldl fun _ _ h1 => h1.applyStat).setMatrix.post))
  · exact .next h

theorem State.Canonical.endDrain (h : s.Canonical) {core src a} : (s.endDrain core src a).Canonical := h.retire.post

theorem execMdrainCompletion_canonical (h : s.Canonical) {core} : (execMdrainCompletion core s).Canonical := by
  simp only [execMdrainCompletion]
  split
  · split
    · exact .ite (.next h.sendKey.retire) (.next h.create.endDrain)
    · split
      · exact .next h.writeThrough.setMatrix.post
      · split
        · exact .next h.at
        · split
          · exact .next h.setMatrix.endDrain
          · exact .next h.endDrain
  · exact .next h

/-! ## Region control blocks -/

theorem bumpWord_canonical (h : s.Canonical) {asid idx up r} : (bumpWord asid idx up s r).Canonical := h.setRcbWord
theorem State.Canonical.raiseLive (h : s.Canonical) {rcb asid} : (s.raiseLive rcb asid).Canonical := h.foldl fun _ _ h1 => bumpWord_canonical h1
theorem State.Canonical.lowerLive (h : s.Canonical) {rcb asid} : (s.lowerLive rcb asid).Canonical := h.foldl fun _ _ h1 => bumpWord_canonical h1

theorem State.Canonical.countContext (h : s.Canonical) {rcb asid up} : (s.countContext rcb asid up).Canonical :=
  h.foldl fun _ _ h1 => h1.setRcbWord

theorem State.Canonical.afterYield (h : s.Canonical) {lines k} (hk : ∀ u, u.Canonical → (k u).Canonical) : (s.afterYield lines k).Canonical :=
  (h.yieldLines.parkMe.ite (hk _ h.yieldLines)).ite (h.parkMe.ite (hk _ h))

theorem State.Canonical.updateRcb (h : s.Canonical) {a b f} (hf : ∀ w u pa, u.Canonical → (f w u pa).2.Canonical) :
    (s.updateRcb a b f).Canonical := by
  simp only [State.updateRcb]
  split
  · exact .next h.stopMe
  · refine .next ?_
    split
    · exact h.parkMe
    · exact h.afterYield fun _ h1 => (hf _ _ _ h1.settle).doneLong

theorem State.Canonical.loadRcbWord (h : s.Canonical) {a b idx} : (s.loadRcbWord a b idx).Canonical := by
  simp only [State.loadRcbWord]
  split
  · exact .next h.stopMe
  · exact .next h.settle.finish.routeLoad

theorem State.Canonical.limitParks (h : s.Canonical) {rcb asid limit} : (s.limitParks rcb asid limit).Canonical :=
  h.update.foldl fun _ _ h1 => h1.syncImage

theorem execRcbopSet_canonical (h : s.Canonical) {a b o} : (execRcbopSet a b o s).Canonical := by
  simp only [execRcbopSet]
  split
  · exact .next h.trapMe
  · refine h.updateRcb fun _ _ _ h1 => .ite₂ h1 (.ite₂ h1 (.ite₂ h1 (.ite₂ h1 ?_)))
    dsimp only
    exact .homeStore (.ite h1.limitParks h1)

theorem State.Canonical.setRcbState (h : s.Canonical) {a b f} : (s.setRcbState a b f).Canonical := by
  simp only [State.setRcbState]
  refine h.updateRcb fun _ _ _ h1 => ?_
  split
  · split
    · dsimp only
      exact h1.homeStore
    · dsimp only
      exact h1
  · dsimp only
    exact h1

theorem execRcbopCreate_canonical (h : s.Canonical) {a b p} : (execRcbopCreate a b p s).Canonical := by
  simp only [execRcbopCreate]
  split
  · exact .next h.stopMe
  · refine h.updateRcb fun _ _ _ h1 => .ite₂ h1 (.ite₂ h1 (.ite₂ h1 (.ite₂ h1 ?_)))
    dsimp only
    exact .homeStore (.homeStore h1.update)

theorem execJoin_canonical (h : s.Canonical) {a b} : (execJoin a b s).Canonical := by
  simp only [execJoin]
  split
  · exact .next h.stopMe
  · exact .next h.settle.yieldLines.parkCounted.post

/-! ## Threads -/

theorem State.Canonical.zeroRange (h : s.Canonical) {a n} : (s.zeroRange a n).Canonical := wf_filter _ _ h

theorem State.Canonical.clearPad (h : s.Canonical) {core old reg pad} : (s.clearPad core old reg pad).Canonical := by
  unfold State.clearPad
  split
  · exact h.zeroRange
  · exact h.zeroRange.zeroRange

theorem State.Canonical.setSplit (h : s.Canonical) {core asid split} : (s.setSplit core asid split).Canonical :=
  (h.cleanAll.setCore.noInstall.foldl fun _ _ h1 => h1.dropImage).clearPad.setCore

theorem State.Canonical.checkArrival (h : s.Canonical) {src l} : (s.checkArrival src l).1.Canonical := by
  unfold State.checkArrival
  split
  · dsimp only
    exact h
  · split
    · dsimp only
      exact h
    · dsimp only
      exact h.refusePool
    · dsimp only
      exact h

theorem State.Canonical.arriveLoad (h : s.Canonical) {q} : (s.arriveLoad q).Canonical := by
  simp only [State.arriveLoad]
  split
  · exact h.setCtx.post
  · exact State.Canonical.routeLoad (List.foldlRecOn (motive := fun a : State × List Lane => a.1.Canonical) _ _ h fun _ h1 _ _ => h1.checkArrival)

theorem State.Canonical.seat (h : s.Canonical) {tid core new load} : (s.seat tid core new load).Canonical := by
  unfold State.seat
  split
  · refine .arriveLoad (.writeHeader ?_)
    split
    · split
      · exact h.selfInvalidate.setCore.modCtx.countPark.ite h.selfInvalidate.setCore.modCtx
      · exact h.setSplit.selfInvalidate.setCore.modCtx.countPark.ite h.setSplit.selfInvalidate.setCore.modCtx
    · exact (h.ite h.setSplit).setCore.modCtx.countPark.ite (h.ite h.setSplit).setCore.modCtx
  · refine .writeHeader ?_
    split
    · split
      · exact h.selfInvalidate.setCore.modCtx.countPark.ite h.selfInvalidate.setCore.modCtx
      · exact h.setSplit.selfInvalidate.setCore.modCtx.countPark.ite h.setSplit.selfInvalidate.setCore.modCtx
    · exact (h.ite h.setSplit).setCore.modCtx.countPark.ite (h.ite h.setSplit).setCore.modCtx

theorem State.Canonical.retryArrivals (h : s.Canonical) : s.retryArrivals.Canonical := by
  simp only [State.retryArrivals]
  refine h.foldl fun _ _ h1 => ?_
  split
  · exact h1
  · split
    · exact h1.update
    · exact h1

theorem State.Canonical.freeSlot (h : s.Canonical) {tid} : (s.freeSlot tid).Canonical := h.landStores.setCore
theorem State.Canonical.leaveSlot (h : s.Canonical) {tid st} : (s.leaveSlot tid st).Canonical := h.freeSlot.countContext.modCtx.writeHeader

theorem State.Canonical.regionRoom (h : s.Canonical) {core tid} : (s.regionRoom core tid).Canonical := by
  simp only [State.regionRoom]
  split
  · exact h
  · split
    · exact h
    · exact (h.ite h.putImageLine).modCtx

theorem State.Canonical.holdLine (h : s.Canonical) {tid n} : (s.holdLine tid n).Canonical := h.regionRoom.modCtx
theorem State.Canonical.cancelWaits (h : s.Canonical) {tid} : (s.cancelWaits tid).Canonical := h.update
theorem State.Canonical.forgetRecords (h : s.Canonical) {tid} : (s.forgetRecords tid).Canonical := (h.countContext.ite h).update

theorem State.Canonical.killThread (h : s.Canonical) {tid code detail} : (s.killThread tid code detail).Canonical :=
  (h.cancelWaits.forgetRecords.leaveSlot.ite h.cancelWaits.forgetRecords).modCtx.writeHeader.deliver

theorem State.Canonical.suspend (h : s.Canonical) {tid} : (s.suspend tid).Canonical :=
  h.writeBackImage.leaveSlot.requeue.ite h.writeBackImage.leaveSlot

theorem State.Canonical.dropSourceLocks (h : s.Canonical) {owner} : (s.dropSourceLocks owner).Canonical := h.update

theorem State.Canonical.quotaStall (h : s.Canonical) {tid code} : (s.quotaStall tid code).Canonical := by
  simp only [State.quotaStall]
  split
  · exact h.takeBack.wakeTrap
  · exact (h.takeBack.dropSourceLocks.ite h.takeBack).dropInput.wakeTrap

theorem execStallLimitExpiry_canonical (h : s.Canonical) {tid} : (execStallLimitExpiry tid s).Canonical := by
  simp only [execStallLimitExpiry]
  split
  · exact .ite (.next h) (.ite (.next h) (.next h.quotaStall))
  · exact .next (h.wakeTrap.ite h)
  · refine .next ?_
    split
    · split
      · exact h.unwait.faultForce.ite h
      · exact h
    · exact h
  · exact .next h

theorem State.Canonical.freeImage (h : s.Canonical) {rcb asid tid} : (s.freeImage rcb asid tid).Canonical := h.homeStore

theorem execExit_canonical (h : s.Canonical) : (execExit s).Canonical := by
  simp only [execExit]
  split
  · exact .next (h.relPart_waits ‹_›)
  · split
    · exact .next (h.relPart ‹_›).parkMe
    · exact .next (h.relPart ‹_›).setMe.clearHandles.freeImage.leaveSlot.modCtx.lowerLive

theorem execSleepTimeReached_canonical (h : s.Canonical) {tid} : (execSleepTimeReached tid s).Canonical := by
  unfold execSleepTimeReached
  split
  · exact .next (h.wakeWith.ite h)
  · exact .next h

theorem State.Canonical.beforeMove (h : s.Canonical) {k} (hk : ∀ u, u.Canonical → (k u).Canonical) : (s.beforeMove k).Canonical :=
  h.parkMe.ite ((h.cleanAll.setMe.ite (h.cleanAll.setMe.ite (hk _ h.cleanAll))).ite (hk _ h))

theorem State.Canonical.sendAway (h : s.Canonical) {dest n load f} : (s.sendAway dest n load f).Canonical :=
  h.clearHandles.writeBackImage.modCtx.freeSlot.modCtx.post

theorem State.Canonical.moveTo (h : s.Canonical) {dest n} : (s.moveTo dest n).Canonical :=
  h.beforeMove (fun _ h1 => h1.clearHandles.done.ite h1.sendAway)

theorem execMig_canonical (h : s.Canonical) {n m} : (execMig n m s).Canonical := by
  simp only [execMig]
  split
  · exact .next h.stopMe
  · exact .next (h.parkMe.ite h.settle.moveTo)

theorem execLdm_canonical (h : s.Canonical) {f a m} : (execLdm f a m s).Canonical := by
  simp only [execLdm]
  split
  · exact .next h.stopMe
  · split
    · split
      · exact .next h.trapMe
      · refine .next (h.beforeMove (fun _ h1 => ?_))
        split
        · exact h1.loadInstr
        · split <;> exact h1.settleLanes.sendAway
    · exact .next h.stopMe
  · exact .next h.done

theorem State.Canonical.sinkPacket (h : s.Canonical) {p} : (s.sinkPacket p).Canonical := h.countContext.killThread

theorem execMigrationPacketArrival_canonical (h : s.Canonical) {p} : (execMigrationPacketArrival p s).Canonical := by
  simp only [execMigrationPacketArrival]
  split
  · exact .next h.sinkPacket
  · split
    · exact .next (h.modCtx.seat.foldl fun _ _ h1 => h1.holdLine)
    · exact .ite (.next h.setCore) (.next h.modCtx.countContext.syncImage.post)

/-! ## Tasks and dispatchers -/

theorem State.Canonical.setDispatcher (h : s.Canonical) {k d} : (s.setDispatcher k d).Canonical := h.update
theorem State.Canonical.wakeDispatcher (h : s.Canonical) {k} : (s.wakeDispatcher k).Canonical := h.ite h.at
theorem State.Canonical.startRefill (h : s.Canonical) {rcb o asid} : (s.startRefill rcb o asid).Canonical := h.foldl fun _ _ h1 => h1.ite h1.at

theorem State.Canonical.spill (h : s.Canonical) {k r} : (s.spill k r).Canonical := by
  simp only [State.spill]
  split
  · exact (h.draw.touchLeaf.homeStore.update (by dsimp only)).setRcbWord.startRefill
  · exact h.setDispatcher.deliver

theorem State.Canonical.probeSoon (h : s.Canonical) {k} : (s.probeSoon k).Canonical := h.ite h.post
theorem State.Canonical.store (h : s.Canonical) {k r} : (s.store k r).Canonical := h.setDispatcher.probeSoon.wakeDispatcher
theorem State.Canonical.acceptRecord (h : s.Canonical) {k r} : (s.acceptRecord k r).Canonical := h.ite (h.store.ite h.spill)

theorem execDispatcherRecordArrival_canonical (h : s.Canonical) {k r poster} : (execDispatcherRecordArrival k r poster s).Canonical := by
  unfold execDispatcherRecordArrival
  split
  · exact .next (h.acceptRecord.ite h.store)
  · split
    · refine .next (.wakeAgain (.modCtx (.acceptRecord (.raiseLive ?_))))
      split
      · exact h.modCtx
      · exact h
    · exact .next h.modCtx.wakeAgain

theorem State.Canonical.retryRecord (h : s.Canonical) {k r} : (s.retryRecord k r).Canonical := h.acceptRecord.ite h.setDispatcher

theorem State.Canonical.retryHeld (h : s.Canonical) {p} : (s.retryHeld p).Canonical :=
  h.foldl fun _ _ h1 => h1.setDispatcher.foldl fun _ _ h2 => h2.retryRecord

theorem execSpillRefill_canonical (h : s.Canonical) {k rcb asid} : (execSpillRefill k rcb asid s).Canonical := by
  simp only [execSpillRefill]
  split
  · exact .next h
  · refine .next (State.Canonical.ite ?_ (State.Canonical.at ?_)) <;> split
    · exact .ite h.update.setRcbWord.retryHeld (.ite h.update.setRcbWord.store.retryHeld h)
    · exact h
    · exact .ite h.update.setRcbWord.retryHeld (.ite h.update.setRcbWord.store.retryHeld h)
    · exact h

theorem State.Canonical.retrySpills (h : s.Canonical) {rcb asid} : (s.retrySpills rcb asid).Canonical := h.update.retryHeld
theorem State.Canonical.putImage (h : s.Canonical) {tid} : (s.putImage tid).Canonical := h.foldl fun _ _ h1 => h1.putImageLine

theorem State.Canonical.createThread (h : s.Canonical) {r k n t} (e : s.createThread r k = some (n, t)) : t.Canonical := by
  simp only [State.createThread] at e
  split at e
  · cases e
    refine .putImage (.setCtx ?_)
    split
    · exact h.homeStore.setRcbWord
    · exact h.homeStore
  · cases e

theorem State.Canonical.placeOn (h : s.Canonical) {r q} : (s.placeOn r q).Canonical := by
  simp only [State.placeOn]
  split
  · exact h.countContext.seat
  · split
    next hr =>
      obtain ⟨_, _, hr⟩ := Option.bind_eq_some_iff.1 hr
      exact (h.createThread hr).countContext.seat
    · exact h

theorem State.Canonical.lookAgain (h : s.Canonical) {k} : (s.lookAgain k).Canonical := h.ite h.probeSoon.wakeDispatcher

theorem execPlacement_canonical (h : s.Canonical) {k} : (execPlacement k s).Canonical := by
  simp only [execPlacement]
  split
  · exact .next h.lookAgain
  · split
    · exact .next h.lookAgain
    · exact .next h.setDispatcher.placeOn.lookAgain

theorem State.Canonical.taskChecks (h : s.Canonical) {b k} (hk : ∀ u, u.Canonical → (k u).Canonical) : (s.taskChecks b k).Canonical := by
  simp only [State.taskChecks]
  split
  · exact h.setMe.readInto
  · exact h.trapMe.ite (h.trapMe.ite h.readInto)
  · exact h.trapMe.ite h.readInto
  · exact h.trapMe.ite (hk _ h)

theorem State.Canonical.sendTask (h : s.Canonical) : s.sendTask.Canonical := h.parkStage.post
theorem State.Canonical.parkRing (h : s.Canonical) {b} : (s.parkRing b).Canonical := h.trapMe.ite h.setMe.parkCounted.at

theorem State.Canonical.postInstr (h : s.Canonical) {busy release b} : (s.postInstr busy release b).Canonical := by
  simp only [State.postInstr]
  refine .next (h.taskChecks (fun _ h1 => ?_))
  split
  · split
    · split
      · exact h1.doneX
      · exact h1.done
    · split
      · exact h1.doneX
      · exact h1.parkRing
  · exact h1.sendTask
  · split
    · split
      · exact h1.relPart_waits ‹_›
      · exact (h1.relPart ‹_›).sendTask
    · exact h1.sendTask

theorem State.Canonical.unspawn (h : s.Canonical) {r tid} : (s.unspawn r tid).Canonical :=
  (h.freeImage.setRcbWord.ite h.freeImage).modCtx.writeHeader

theorem execSpawn_canonical (h : s.Canonical) {a b} : (execSpawn a b s).Canonical := by
  unfold execSpawn
  refine .next (h.taskChecks (fun _ h1 => ?_))
  split
  · exact h1.doneLong.ite h1.unspawn.doneLong
  · split
    · exact h1.doneLong
    · exact (h1.createThread ‹_›).modCtx.setMe.parkStage.post

end Sys2Proof.Machine
end

section
/-! PROOFS. Canonical memory (O59): the teller. -/

namespace Sys2Proof.Machine

set_option Elab.async false

variable {s : State}

/-! ## The teller -/

theorem State.Canonical.keyRecord_waits (h : s.Canonical) {a t} (e : s.keyRecord a = .error t) : t.Canonical := by
  simp only [State.keyRecord] at e
  split at e
  · cases e; exact h.stopMe
  · split at e
    · cases e; exact h.stopMe
    · split at e
      · cases e; exact h.trapMe
      · cases e
  · split at e
    · cases e; exact h.readStruct
    · cases e

theorem State.Canonical.enterLocks (h : s.Canonical) {ls t ks} (e : s.enterLocks ls = some (t, ks)) : t.Canonical := by
  induction ls generalizing s ks with
  | nil => cases e; exact h
  | cons l r ih =>
    simp only [State.enterLocks] at e
    split at e
    · cases e
    · obtain ⟨_, er, e⟩ := Option.map_eq_some_iff.1 e
      cases e
      exact ih h.setCell er

theorem State.Canonical.leaveLocks (h : s.Canonical) {owner ls} : (s.leaveLocks owner ls).Canonical := h.foldl fun _ _ h1 => h1.setCell
theorem State.Canonical.acceptTel (h : s.Canonical) {o} : (s.acceptTel o).Canonical := h.setCell.setMe.post

theorem State.Canonical.telKey (h : s.Canonical) {op q1 q2 t k} (e : s.telKey op q1 q2 = .ok (t, k)) : t.Canonical := by
  simp only [State.telKey] at e
  split at e
  · cases e; exact h
  · split at e
    · cases e
    · split at e
      · cases e
      · cases e; exact h.keyPhase ‹_›

theorem State.Canonical.telKey_waits (h : s.Canonical) {op q1 q2 t} (e : s.telKey op q1 q2 = .error t) : t.Canonical := by
  simp only [State.telKey] at e
  split at e
  · cases e
  · split at e
    · cases e; exact h.keyRecord_waits ‹_›
    · split at e
      · cases e; exact h.trapMe
      · cases e

theorem State.Canonical.landForTel (h : s.Canonical) {b} : (s.landForTel b).Canonical := .ite h.landStores h

theorem State.Canonical.telCheck (h : s.Canonical) {b t o ls} (e : s.telCheck b = .ok (t, o, ls)) : t.Canonical := by
  simp only [State.telCheck] at e
  split at e
  · cases e
  · split at e
    · cases e
    · split at e
      · cases e
      · split at e
        · cases e
        · split at e
          · cases e
          · cases e; exact h.landForTel.telKey ‹_›

theorem State.Canonical.telCheck_waits (h : s.Canonical) {b t} (e : s.telCheck b = .error t) : t.Canonical := by
  simp only [State.telCheck] at e
  split at e
  · cases e; exact h.landForTel.trapMe
  · split at e
    · cases e; exact h.landForTel.trapMe
    · split at e
      · cases e; exact h.landForTel.telKey_waits ‹_›
      · split at e
        · cases e; exact (h.landForTel.telKey ‹_›).trapMe
        · split at e
          · cases e; exact (h.landForTel.telKey ‹_›).stopMe
          · cases e

theorem State.Canonical.telSend (h : s.Canonical) {release o ls busy ok} (hb : ∀ n u, u.Canonical → (busy n u).Canonical)
    (hok : ∀ u, u.Canonical → (ok u).Canonical) : (s.telSend release o ls busy ok).Canonical := by
  simp only [State.telSend]
  split
  next ht =>
    split at ht
    · exact h.landStores.relPart_waits ht
    · cases ht
  next t ht =>
    have ht : t.Canonical := by
      split at ht
      · exact h.landStores.relPart ht
      · cases ht; exact h
    split
    · exact hb _ _ ht
    · split
      · exact hb _ _ ht
      · exact hok _ (ht.enterLocks ‹_›).update.acceptTel

theorem State.Canonical.telInstr (h : s.Canonical) {release b busy ok} (hb : ∀ n u, u.Canonical → (busy n u).Canonical)
    (hok : ∀ u, u.Canonical → (ok u).Canonical) : (s.telInstr release b busy ok).Canonical := by
  simp only [State.telInstr]
  split
  · exact h.telSend hb hok
  · split
    · exact h.telCheck_waits ‹_›
    · exact (h.telCheck ‹_›).setMe.telSend hb hok

theorem State.Canonical.telAnswer (h : s.Canonical) {a n} : (s.telAnswer a n).Canonical := h.finish.post

theorem execUserEventEntry_canonical (h : s.Canonical) {tid} : (execUserEventEntry tid s).Canonical := by
  simp only [execUserEventEntry]
  split
  · exact .next h
  · exact .next h.setCtx.selfInvalidate

theorem State.Canonical.modOp (h : s.Canonical) {cell id f} : (s.modOp cell id f).Canonical := h.setCell
theorem State.Canonical.fillDie (h : s.Canonical) {die asid va l} : (s.fillDie die asid va l).Canonical := h.draw.setDie

theorem State.Canonical.telPlace (h : s.Canonical) {o va store device n t} (e : s.telPlace o va store device = .ok (n, t)) : t.Canonical := by
  simp only [State.telPlace] at e
  split at e
  · cases e
  · split at e
    · cases e
    · split at e
      · cases e
      · split at e
        · split at e
          · cases e
          · cases e; exact h.touchLeaf.fillDie.rekey
        · split at e
          · cases e
          · cases e; exact h
        · cases e

theorem State.Canonical.telAddr (h : s.Canonical) {o a disp n t} (e : s.telAddr o a disp = .ok (n, t)) : t.Canonical := by
  simp only [State.telAddr] at e
  split at e
  · cases e
  · split at e
    · cases e
    · cases e; exact h
  · exact h.telPlace e

theorem State.Canonical.telWord (h : s.Canonical) {u bs t} (e : s.telWord u = .ok (bs, t)) : t.Canonical := by
  simp only [State.telWord] at e
  split at e
  · split at e
    · cases e; exact h
    · cases e
  · cases e
    split
    · exact h
    · exact h.homeRead

theorem State.Canonical.telReads (h : s.Canonical) {o a first last cur ns bs ks t} (e : s.telReads o a first last cur ns = .ok (bs, ks, t)) :
    t.Canonical := by
  induction ns generalizing s cur bs ks with
  | nil => cases e; exact h
  | cons n r ih =>
    simp only [State.telReads] at e
    split at e
    · cases e
    · have hu := h.telAddr ‹_›
      split at e
      · split at e
        · cases e
        · cases e; exact ih hu ‹_›
      · split at e
        · cases e
        · split at e
          · cases e
          · cases e; exact ih (hu.telWord ‹_›) ‹_›

theorem State.Canonical.telRun (h : s.Canonical) {cell o n len bs t} (e : s.telRun cell o n len = .ok (bs, t)) : t.Canonical := by
  simp only [State.telRun] at e
  split at e
  · cases e
  · cases e; exact (h.telReads ‹_›).modOp

theorem State.Canonical.markBytes (h : s.Canonical) {a bs} : (s.markBytes a bs).Canonical := h.foldl fun _ _ h1 => h1.poison.ite h1

theorem State.Canonical.telWrite (h : s.Canonical) {o a disp bs t} (e : s.telWrite o a disp bs = .ok t) : t.Canonical := by
  simp only [State.telWrite] at e
  split at e
  · cases e
  · split at e
    · cases e
    · cases e; exact h.writeMarked.markBytes
  · split at e
    · cases e
    · have hu := h.telPlace ‹_›
      split at e
      · cases e; exact hu.post
      · cases e; exact hu.homeStore.markBytes

theorem State.Canonical.telSource (h : s.Canonical) {cell o r lo len bs t} (e : s.telSource cell o r lo len = .ok (bs, t)) : t.Canonical := by
  simp only [State.telSource] at e
  split at e
  · cases e; exact h
  · cases e; exact h
  · exact h.telRun e

theorem State.Canonical.telUnit (h : s.Canonical) {cell o u t} (e : s.telUnit cell o u = .ok t) : t.Canonical := by
  simp only [State.telUnit] at e
  split at e
  · split at e
    · cases e
    · split at e
      · cases e
      · cases e; exact (h.telRun ‹_›).modOp
  · split at e
    · cases e
    · split at e
      · cases e
      · cases e; exact ((h.telSource ‹_›).telWrite ‹_›).modOp

theorem State.Canonical.telStopped (h : s.Canonical) {cell o unit e} : (s.telStopped cell o unit e).Canonical := by
  unfold State.telStopped
  split
  · exact h.post
  · exact h.hold
  · exact (h.ite h.post).at
  · exact h.startCopy.at

theorem State.Canonical.telMove (h : s.Canonical) {cell o u} : (s.telMove cell o u).Canonical := by
  unfold State.telMove
  split
  · exact h.telStopped
  · exact (h.telUnit ‹_›).post

theorem State.Canonical.telStep (h : s.Canonical) {cell o u} : (s.telStep cell o u).Canonical := by
  simp only [State.telStep]
  split
  · exact h.at
  · split
    · split
      · exact h.draw.telStopped
      · split
        · exact h.draw.telMove.ite (h.draw.telRun ‹_›).post
        · exact h.draw.telRun ‹_›
    · exact h.draw.telMove

theorem State.Canonical.telBegin (h : s.Canonical) {cell o} : (s.telBegin cell o).Canonical := by
  unfold State.telBegin
  split
  · exact h.sendKey.ite h.post
  · exact h.post
  · exact h.post
  · exact h.post

theorem execTellerOpStart_canonical (h : s.Canonical) {cell} : (execTellerOpStart cell s).Canonical := by
  simp only [execTellerOpStart]
  split
  · exact .next h
  · split
    · exact .next h
    · split
      · exact .next h
      · exact .next h.setCell.post.telBegin

theorem execTellerFault_canonical (h : s.Canonical) {cell id code addr} : (execTellerFault cell id code addr s).Canonical := by
  unfold execTellerFault
  split
  · exact .next h
  · exact .ite (.next h) (.next h.update.modOp.deliver)

theorem State.Canonical.replayOp (h : s.Canonical) {cell id} : (s.replayOp cell id).Canonical := by
  unfold State.replayOp
  split
  · exact h
  · exact h.modOp.post.ite h.modOp.telBegin

theorem State.Canonical.unpinOp (h : s.Canonical) {q} : (s.unpinOp q).Canonical := by
  unfold State.unpinOp
  split
  · split
    · exact h.sendOn
    · exact h
  · exact h.post

theorem State.Canonical.cancelOp (h : s.Canonical) {cell id} : (s.cancelOp cell id).Canonical := by
  unfold State.cancelOp
  split
  · exact h
  · refine .post (.modOp ?_)
    split
    · exact h.ite (h.giveBack.ite h.unpinOp)
    · exact h

theorem State.Canonical.telRing (h : s.Canonical) {o status} : (s.telRing o status).2.Canonical := by
  simp only [State.telRing]
  split
  · dsimp only
    exact h
  · split
    · dsimp only
      exact h
    · refine .ite₂ h ?_
      dsimp only
      exact h.setMatrix.kickCell

theorem State.Canonical.telStatus (h : s.Canonical) {o v} : (s.telStatus o v).Canonical := by
  simp only [State.telStatus]
  split
  · exact h
  · split
    · exact h.writeMarked
    · exact h.refusePool

theorem State.Canonical.telFinish (h : s.Canonical) {o status} : (s.telFinish o status).Canonical :=
  (h.telRing.ite h.telRing.telStatus).leaveLocks.modCtx

theorem State.Canonical.telLeave (h : s.Canonical) {cell o} : (s.telLeave cell o).Canonical := h.at.ite (h.setCtx.ite h).setCell.post

theorem State.Canonical.teller_waits (h : s.Canonical) {cell q} {o : TelOp} :
    ((s.addWaiter q (.teller cell o.id)).getD (s.at (s.pcyc + 1024) (.tellerOpCompletion cell o.id))).Canonical := by
  cases e : s.addWaiter q (.teller cell o.id) with
  | none => exact h.at
  | some t => exact h.addWaiter e

theorem State.Canonical.telTake (h : s.Canonical) {cell o q} : (s.telTake cell o q).Canonical := by
  simp only [State.telTake]
  split
  · split
    · split
      · exact h.modOp.post
      · exact h.teller_waits
    · split
      · exact h.update.stallTeller
      · have ht := h.allocEntry ‹_›
        split
        · exact h.update.stallTeller
        · have hu := ht.withRun (fun _ _ h1 => h1.modEntry) ‹_›
          split
          · exact h.post
          · exact (hu.askOwner ‹_›).teller_waits
  · split
    · exact h.post
    · split
      · exact h.modOp.post
      · split
        · exact h.post
        · exact h.teller_waits

theorem State.Canonical.telEnd (h : s.Canonical) {cell o} : (s.telEnd cell o).Canonical := by
  unfold State.telEnd
  split
  · exact (h.modOp.sendKey.ite h.modOp.post).ite h.create.modOp.post
  · split
    · exact h.at
    · refine .post (.modOp ?_)
      split
      · exact h.unpinOp
      · exact h

theorem execTellerOpCompletion_unit_canonical (h : s.Canonical) {cell o} : (execTellerOpCompletion.unit cell s o).Canonical := by
  simp only [execTellerOpCompletion.unit]
  split
  · exact .next h.telEnd
  · exact .next h.draw.telStep

theorem execTellerOpCompletion_canonical (h : s.Canonical) {cell id} : (execTellerOpCompletion cell id s).Canonical := by
  simp only [execTellerOpCompletion]
  split
  · exact .next h
  · split
    · exact .next h
    · split
      · split
        · exact .next h.telLeave
        · split
          · exact .next h.at
          · exact .next h.telFinish.modOp.telLeave
      · split
        · split
          · exact .next h.modOp.post
          · split
            · exact .next h.telTake
            · exact execTellerOpCompletion_unit_canonical h
        · split
          · exact .next h.post
          · exact execTellerOpCompletion_unit_canonical h

theorem State.Canonical.telTargets (h : s.Canonical) {o z ns ps t} (e : s.telTargets o z ns = .ok (ps, t)) : t.Canonical := by
  induction ns generalizing s ps with
  | nil => cases e; exact h
  | cons n r ih =>
    simp only [State.telTargets] at e
    split at e
    · cases e
    · split at e
      · cases e
      · cases e; exact ih (h.telPlace ‹_›) ‹_›

theorem State.Canonical.telApply (h : s.Canonical) {core fmt pa v} : (s.telApply core fmt pa v).Canonical :=
  h.contribute.ite h.homeWrite.homeStore

theorem execRedaddSegment_canonical (h : s.Canonical) {cell id} : (execRedaddSegment cell id s).Canonical := by
  simp only [execRedaddSegment]
  split
  · exact .next h
  · split
    · exact .next h
    · split
      · exact .next h.post
      · split
        · exact .next h.telStopped
        · split
          · exact .next (h.telRun ‹_›).post
          · split
            · exact .next (h.telRun ‹_›).telStopped
            · split
              · exact .next ((h.telRun ‹_›).telTargets ‹_›).modOp.post
              · exact .next (((h.telRun ‹_›).telTargets ‹_›).foldl fun _ _ h3 => h3.telApply).modOp.post

theorem State.Canonical.telAgain (h : s.Canonical) {cell id unit} : (s.telAgain cell id unit).Canonical := by
  unfold State.telAgain
  split
  · exact h
  · split
    · exact h
    · split
      · split
        · exact (execRedaddSegment_canonical h _ ‹_›)
        · exact h
      · exact h.telMove.ite h.post

end Sys2Proof.Machine
end

section
/-! PROOFS. Canonical memory (O59): domains, the bridge, page operations, errors and reset. -/

namespace Sys2Proof.Machine

set_option Elab.async false

variable {s : State}

/-! ## Domains -/

theorem State.Canonical.bumpArea (h : s.Canonical) {a} : (s.bumpArea a).Canonical := h.homeStore

theorem execDeliverRetry_canonical (h : s.Canonical) {r} : (execDeliverRetry r s).Canonical := by
  unfold execDeliverRetry
  split
  · exact .next h.at.wakeEvents
  · split
    · exact .next (h.ite h.touchLeaf.bumpArea).at
    · refine .next (.bumpArea (.homeStore ?_))
      split
      · exact h.touchLeaf.update
      · exact h.touchLeaf

theorem State.Canonical.raiseEvent (h : s.Canonical) {die b} : (s.raiseEvent die b).Canonical := h.setDie.wakeEvents
theorem execSevtClear_canonical (h : s.Canonical) {die v} : (execSevtClear die v s).Canonical := .next h.setDie

theorem State.Canonical.countError (h : s.Canonical) {die cls inst loc} : (s.countError die cls inst loc).Canonical :=
  h.setDie.queueError.ite h.setDie

theorem State.Canonical.laneError (h : s.Canonical) {cls inst} : (s.laneError cls inst).Canonical := h.update.ite h

theorem execErrorWindowEnd_canonical (h : s.Canonical) {die} : (execErrorWindowEnd die s).Canonical :=
  .next (State.Canonical.ite h.update h.setDie).at

theorem State.Canonical.markData (h : s.Canonical) {cls inst loc w} : (s.markData cls inst loc w).Canonical := by
  unfold State.markData
  split
  · exact h.poison
  · exact h.setSlice
  · exact h.setCore
  · split
    · exact h
    · exact h.post
  · exact h.poison
  · exact h.poison

theorem execErrqPop_canonical (h : s.Canonical) {a} : (execErrqPop a s).Canonical := by
  unfold execErrqPop
  refine .next ?_
  split
  · exact h.doneLong
  · exact h.setDie.doneLong

theorem State.Canonical.disposeThread (h : s.Canonical) {tid} : (s.disposeThread tid).Canonical := by
  simp only [State.disposeThread]
  split
  · exact h
  · exact ((h.setCtx.clearHandles.foldl fun _ _ h1 => h1.cancelOp).ite h.setCtx.clearHandles).modCtx.writeHeader.freeImage.lowerLive

theorem State.Canonical.actDisposition (h : s.Canonical) {pa bs disp} : (s.actDisposition pa bs disp).Canonical := by
  unfold State.actDisposition
  split
  · split
    · exact h.replayOp.ite h.cancelOp
    · exact h
  · exact h.retrySpills
  · exact h.retrySpills
  · exact h.disposeThread
  · exact h.disposeThread
  · exact h

theorem execTrapRet_canonical (h : s.Canonical) {b disp} : (execTrapRet b disp s).Canonical := by
  simp only [execTrapRet]
  split
  · exact .next h.trapMe
  · split
    · exact .next h.stopMe
    · refine .next (.ite h.parkMe (h.afterYield fun t ht => .ite ht.settle.doneX ?_))
      exact State.Canonical.done (State.Canonical.homeStore (ht.settle.homeStore.actDisposition.update (by dsimp only)))

/-! ## The bridge -/

theorem State.Canonical.tellHost (h : s.Canonical) {m} : (s.tellHost m).Canonical := h.update

theorem execHostHdmAccess_canonical (h : s.Canonical) {pa write} : (execHostHdmAccess pa write s).Canonical := by
  simp only [execHostHdmAccess]
  split
  · refine .next ?_
    split
    · exact h.update
    · exact h.update.hostData.tellHost
  · split
    · exact .next h.at
    · refine .next ?_
      split
      · exact h.homeRead.tellHost
      · exact h.homeStore

theorem State.Canonical.askHost (h : s.Canonical) {hs excl} : (s.askHost hs excl).Canonical := h.foldl fun _ _ h1 => h1.ite h1.hostData.post
theorem State.Canonical.waitAtBridge (h : s.Canonical) {q op} : (s.waitAtBridge q op).Canonical := h.update

theorem State.Canonical.hostWrite (h : s.Canonical) {l v} : (s.hostWrite l v).Canonical := by
  unfold State.hostWrite
  split
  · exact h
  · exact h.update

theorem execBridgeDeviceAccess_canonical (h : s.Canonical) {q op} : (execBridgeDeviceAccess q op s).Canonical := by
  unfold execBridgeDeviceAccess
  split
  · exact .next h.waitAtBridge
  · split
    · split
      · exact .next h.routeLoad
      · exact .next h.askHost.waitAtBridge
    · split
      · exact .next ((h.foldl fun _ _ h1 => h1.hostWrite).post.ite (h.foldl fun _ _ h1 => h1.hostWrite))
      · exact .next h.askHost.waitAtBridge
    · split
      · exact .next (h.foldl fun _ _ h1 => h1.hostWrite.post)
      · exact .next h.askHost.waitAtBridge
    · exact .next h
    · exact .next h

theorem State.Canonical.evictHalf (h : s.Canonical) {half} : (s.evictHalf half).Canonical := by
  unfold State.evictHalf
  split
  · exact h
  · exact h.update.tellHost.ite h.update

theorem State.Canonical.bridgeRoom (h : s.Canonical) {line} : (s.bridgeRoom line).Canonical := h.ite h.draw.evictHalf.evictHalf

theorem execHostFillReply_canonical (h : s.Canonical) {half excl data} : (execHostFillReply half excl data s).Canonical := by
  unfold execHostFillReply
  refine .next (.update ?_)
  split
  · exact h.bridgeRoom.update
  · exact h.bridgeRoom.update.ite h.bridgeRoom

theorem execHostSnoop_canonical (h : s.Canonical) {half inv} : (execHostSnoop half inv s).Canonical := by
  simp only [execHostSnoop]
  refine .next ?_
  split
  · exact h
  · refine .ite ?_ ?_
    · exact State.Canonical.update (State.Canonical.ite h.tellHost h)
    · exact State.Canonical.update (State.Canonical.ite h.tellHost h)

/-! ## Remote memory -/

theorem execRemoteWordAccess_canonical (h : s.Canonical) {m} : (execRemoteWordAccess m s).Canonical := by
  simp only [execRemoteWordAccess]
  split
  · exact .next h.replyTo
  · split
    · exact .next h.hold
    · split
      · exact .next h.touchLeaf.homeRead.replyTo
      · exact .next h.touchLeaf.homeStore.replyTo
      · refine .next (.replyTo ?_)
        split
        · exact h.touchLeaf.homeWrite.homeStore
        · dsimp only
          exact h.touchLeaf.homeWrite.tag.walkWaiters

/-! ## Page operations -/

theorem State.Canonical.pageReply (h : s.Canonical) {op overlaps status} : (s.pageReply op overlaps status).Canonical := h.post
theorem State.Canonical.dropPage (h : s.Canonical) {asid lo hi} : (s.dropPage asid lo hi).Canonical := (h.foldl fun _ _ h1 => h1.refetch).update

theorem State.Canonical.pageStart (h : s.Canonical) {op l die slot} : (s.pageStart op l die slot).Canonical := by
  simp only [State.pageStart]
  split
  · exact h.homeStore.dropPage.setDie.post
  · exact h.homeStore.dropPage.setDie.foldl fun _ _ h1 => h1.post

theorem State.Canonical.pageWaitAt (h : s.Canonical) {die op} : (s.pageWaitAt die op).Canonical := h.setDie

theorem execPageOpSlotGrant_canonical (h : s.Canonical) {x op} : (execPageOpSlotGrant x op s).Canonical := by
  simp only [execPageOpSlotGrant]
  split
  · exact .next h.pageReply
  · split
    · exact .next h.pageWaitAt
    · split
      · exact .next h.pageReply
      · split
        · exact .next h.pageStart
        · exact .next (h.pageReply.ite h.pageWaitAt)

theorem State.Canonical.setRun (h : s.Canonical) {die slot r} : (s.setRun die slot r).Canonical := h.setDie

theorem State.Canonical.sweepLine (h : s.Canonical) {core line l} : (s.sweepLine core line l).Canonical :=
  (h.ite h.ncFill).setProxy.awakeCopy.ite h.homeWrite.writeLine.markLine.tag.walkWaiters

theorem execPageSweepAtCore_canonical (h : s.Canonical) {die slot core} : (execPageSweepAtCore die slot core s).Canonical := by
  unfold execPageSweepAtCore
  split
  · exact .next h
  · refine .next ?_
    split
    · exact ((h.ite h.setCore).noInstall.ite ((h.ite h.setCore).noInstall.foldl fun _ _ h1 => h1.sweepLine)).setRun.post
    · exact ((h.ite h.setCore).noInstall.ite ((h.ite h.setCore).noInstall.foldl fun _ _ h1 => h1.sweepLine)).setRun

theorem State.Canonical.recallPage (h : s.Canonical) {r} : (s.recallPage r).Canonical := h.foldl fun _ _ h1 => h1.recall
theorem State.Canonical.foldPage (h : s.Canonical) {r} : (s.foldPage r).Canonical := h.foldl fun _ _ h1 => h1.foldLine

theorem State.Canonical.returnCopies (h : s.Canonical) {r} : (s.returnCopies r).Canonical := by
  unfold State.returnCopies
  refine h.foldl fun _ _ h1 => ?_
  split
  · exact h1
  · exact h1.dropProxy.ite h1.dropProxy.foldLine.awake.writeLine.markLine.tag.walkWaiters

theorem State.Canonical.mergeLine (h : s.Canonical) {line cs} : (s.mergeLine line cs).Canonical :=
  (h.foldLine.awake.foldl fun _ _ h1 => h1.writeLine.markLine).tag.walkWaiters

theorem State.Canonical.mergePage (h : s.Canonical) {r} : (s.mergePage r).2.Canonical :=
  List.foldlRecOn (motive := fun a : Nat × State => a.2.Canonical) _ _ (h.foldl fun _ _ h1 => h1.dropProxy) fun _ h1 _ _ => h1.mergeLine

theorem State.Canonical.copyBytes (h : s.Canonical) {src dst size} : (s.copyBytes src dst size).Canonical :=
  List.foldlRecOn (motive := fun m => Memory.wf m = true) _ _ (wf_filter _ _ h) fun m hm _ _ => wf_memPut m _ _ hm

theorem State.Canonical.placeTill (h : s.Canonical) {t a} : (s.placeTill t a).Canonical := (h.earlyFold.ite h).setSlice

theorem State.Canonical.moveTills (h : s.Canonical) {r} : (s.moveTills r).Canonical := by
  unfold State.moveTills
  refine h.update.foldl fun _ _ h1 => ?_
  split
  · exact h1.placeTill
  · exact h1

theorem State.Canonical.placeWaiter (h : s.Canonical) {w} : (s.placeWaiter w).Canonical := h.at.ite h.setSlice

theorem State.Canonical.moveTables (h : s.Canonical) {r} : (s.moveTables r).Canonical :=
  ((h.update.foldl fun _ _ h1 => h1.placeWaiter).foldl fun _ _ h1 => h1.setSlice).foldl fun _ _ h1 => h1.setSeq

theorem State.Canonical.actMigrate (h : s.Canonical) {r dest} : (s.actMigrate r dest).Canonical := h.copyBytes.moveTables.moveTills.update

theorem State.Canonical.pageAct (h : s.Canonical) {r} : (s.pageAct r).2.Canonical := by
  simp only [State.pageAct]
  split
  · split
    · exact (h.returnCopies.ite h.recallPage).actMigrate
    · exact h
  · split
    · exact h.mergePage
    · dsimp only
      exact h.recallPage.foldPage.foldl fun _ _ h1 => h1.copyBytes
    · dsimp only
      exact h.recallPage.update
    · dsimp only
      exact h.update
    · dsimp only
      exact h.recallPage

theorem State.Canonical.pageInstr (h : s.Canonical) {op malformed} : (s.pageInstr op malformed).Canonical :=
  .ite (.next h.parkMe) (.ite (.next h.parkMe.pageReply) (.next h.parkMe.post))

theorem State.Canonical.longValue (h : s.Canonical) {a v} : (s.longValue a v).Canonical := .next h.finish.post

/-! ## Order -/

theorem State.Canonical.grantHist (h : s.Canonical) {a} : (s.grantHist a).Canonical := by
  unfold State.grantHist
  split
  · exact h.setCell
  · exact h

theorem State.Canonical.accept (h : s.Canonical) {e} : (s.accept e).Canonical := (h.grantHist.foldl fun _ _ h1 => h1.rekey).update
theorem State.Canonical.tick (h : s.Canonical) : s.tick.Canonical := h.update

/-! ## Errors, keys, reset -/

theorem execSlretEnter_canonical (h : s.Canonical) {tid slice} : (execSlretEnter tid slice s).Canonical := .next (h.setSlice.ite h).modCtx
theorem execSlretWake_canonical (h : s.Canonical) {tid slice} : (execSlretWake tid slice s).Canonical := .next h.setSlice.modCtx
theorem State.Canonical.wakeDie (h : s.Canonical) {die} : (s.wakeDie die).Canonical := h.wakeRoom
theorem execTsplitWrite_canonical (h : s.Canonical) {die v} : (execTsplitWrite die v s).Canonical := .next (h.setDie.ite h.setDie.l2Split.wakeDie)
theorem execTarenaWrite_canonical (h : s.Canonical) {die len v} : (execTarenaWrite die len v s).Canonical := .next (h.setDie.ite h.setDie.wakeDie)
theorem State.Canonical.preempt (h : s.Canonical) {tid hold} : (s.preempt tid hold).Canonical := h.leaveSlot.ite h.leaveSlot.requeue

theorem execPreemptArrival_canonical (h : s.Canonical) {tid core slot hold a} : (execPreemptArrival tid core slot hold a s).Canonical := by
  unfold execPreemptArrival
  refine .next ?_
  split
  · exact h.wakeWith
  · exact h.preempt.wakeWith

theorem State.Canonical.preemptInstr (h : s.Canonical) {hold a b} : (s.preemptInstr hold a b).Canonical := h.parkMe.post
theorem State.Canonical.setFence (h : s.Canonical) {core cell b} : (s.setFence core cell b).Canonical := h.setCell.ite h.setCore

theorem execCfenceFence_canonical (h : s.Canonical) {tid core cell} : (execCfenceFence tid core cell s).Canonical :=
  .next (h.foldl fun _ _ h1 => h1.preempt).setFence.modCtx

theorem execCfenceRestore_canonical (h : s.Canonical) {tid core cell} : (execCfenceRestore tid core cell s).Canonical := .next h.setFence.modCtx

theorem State.Canonical.cutMessages (h : s.Canonical) {cell es} : (s.cutMessages cell es).Canonical := by
  induction es generalizing s with
  | nil => exact h
  | cons e r ih =>
    simp only [State.cutMessages]
    split
    · refine ih ?_
      split
      · exact h.draw.setCell
      · exact h.draw.post
    · exact ih h.post

theorem State.Canonical.cutPackets (h : s.Canonical) {cell} : (s.cutPackets cell).Canonical := by
  unfold State.cutPackets
  refine h.foldl fun _ _ h1 => ?_
  split
  · exact (h1.draw.update.sinkPacket.ite h1.draw).ite h1
  · exact h1

theorem State.Canonical.loseOp (h : s.Canonical) {o} : (s.loseOp o).Canonical := h.ite h.draw.modCtx.deliver

theorem State.Canonical.resetCore (h : s.Canonical) {core} : (s.resetCore core).Canonical := by
  unfold State.resetCore
  refine .setCore (.noInstall (.zeroRange ?_))
  refine ((h.foldl fun _ _ h1 => h1.sinkPacket).foldl fun _ _ h1 => h1.killThread).foldl fun _ _ h1 => ?_
  split
  · exact h1.modCtx
  · exact h1.killThread

theorem execCreset_canonical (h : s.Canonical) {tid cell} : (execCreset tid cell s).Canonical := by
  simp only [execCreset]
  split
  · exact .next h.modCtx
  · exact .next ((h.update.cutMessages.cutPackets.foldl fun _ _ h1 => h1.loseOp).setCell.foldl fun _ _ h1 => h1.resetCore).at.modCtx

theorem execSput_canonical (h : s.Canonical) {b num} : (execSput b num s).Canonical := by
  unfold execSput
  split
  · exact .next h.done.update
  · exact execSevtClear_canonical h.done
  · exact .next h.done.update
  · exact execTsplitWrite_canonical h.done
  · exact .ite (execSlretEnter_canonical h.done) (execSlretWake_canonical h.done)
  · exact execTarenaWrite_canonical h.done
  · exact execTarenaWrite_canonical h.done
  · exact .ite (execCfenceFence_canonical h.done) (execCfenceRestore_canonical h.done)
  · exact execCreset_canonical h.done
  · exact .next h.done.update
  · exact .next h.done.update
  · exact .next h.done.setMe

theorem State.Canonical.shootDown (h : s.Canonical) {asid range core} : (s.shootDown asid range core).Canonical :=
  h.setCore.setCell.refetch.setDie

theorem State.Canonical.tlbi (h : s.Canonical) {scope asid range empty} : (s.tlbi scope asid range empty).Canonical := by
  unfold State.tlbi
  refine .next ?_
  split
  · exact (h.foldl fun _ _ h1 => h1.shootDown).done
  · split
    · exact h.relPart_waits ‹_›
    · exact (h.relPart ‹_›).done.ite (h.relPart ‹_›).askCores

theorem State.Canonical.latched (h : s.Canonical) {core old} : (s.latched core old).2.Canonical := h.draw

theorem execHaltTreeArrival_canonical (h : s.Canonical) {tid core rcb} : (execHaltTreeArrival tid core rcb s).Canonical := by
  simp only [execHaltTreeArrival]
  refine .next ?_
  split
  · exact (h.latched.latched.foldl fun _ _ h1 => h1.modCtx).setCore.modCtx.ackPlane6.deliver
  · exact (h.latched.latched.foldl fun _ _ h1 => h1.modCtx).setCore.modCtx.ackPlane6

theorem State.Canonical.limitAgain (h : s.Canonical) {tid} : (s.limitAgain tid).Canonical := by
  unfold State.limitAgain
  split
  · exact h.at
  · exact h

theorem execKeyopLoad_canonical (h : s.Canonical) {a b x} : (execKeyopLoad a b x s).Canonical := by
  unfold execKeyopLoad
  refine .next ?_
  split
  · exact h.doneLong
  · split
    · exact h.doneLong
    · split
      · split
        · exact h.stopMe
        · exact h.settleAll.parkStage.routeLoad
      · exact h.update.doneLong.ite h.doneLong

theorem State.Canonical.discardCopy (h : s.Canonical) {line die} : (s.discardCopy line die).Canonical := by
  unfold State.discardCopy
  refine .putDir (.dropProxy ?_)
  split
  · exact h.setSeq.ite h
  · exact h

theorem State.Canonical.discardKey (h : s.Canonical) {k} : (s.discardKey k).Canonical :=
  (h.foldl fun _ _ h1 => h1.scramble).update.update.foldl fun _ _ h1 => h1.discardCopy

theorem State.firmwareStarts_canonical : s.firmwareStarts.Canonical := reset_wf

theorem State.Canonical.nextOfRun {o : Out State} (ho : o.Canonical) (h : s.Canonical) :
    State.Canonical (match o with | .next t => t | _ => s) := by
  cases o with
  | next t => exact ho t rfl
  | _ => exact h

theorem State.Canonical.firmwareDie (h : s.Canonical) {die} : (s.firmwareDie die).Canonical := by
  have h1 := h.nextOfRun (execTsplitWrite_canonical (die := die) (v := Config.firmwareWrites (0x111 + 4096 * die)) h)
  have h2 := h1.nextOfRun (execTarenaWrite_canonical (die := die) (len := false) (v := Config.firmwareWrites (0x115 + 4096 * die)) h1)
  exact (h2.nextOfRun (execTarenaWrite_canonical (die := die) (len := true) (v := Config.firmwareWrites (0x116 + 4096 * die)) h2)).at

theorem execColdReset_canonical : (execColdReset s).Canonical := by
  simp only [execColdReset]
  split
  · exact .next reset_wf
  · have booted {t : State} (e : t.mem = Config.bootMemory.foldl (fun m e => memPut m (e.1 % 2 ^ 40) e.2) s.firmwareStarts.mem) :
        t.Canonical :=
      (congrArg (Memory.wf · = true) e).mpr (List.foldlRecOn (motive := fun m => Memory.wf m = true) _ _ s.firmwareStarts_canonical
        fun m hm _ _ => wf_memPut m _ _ hm)
    exact .next (.at (.foldl (booted rfl) fun _ _ h1 => h1.firmwareDie))

end Sys2Proof.Machine
end

section
/-! PROOFS. Canonical memory (O59): links, collections and differentiation. -/

namespace Sys2Proof.Machine

set_option Elab.async false

variable {s : State}

/-! ## Links -/

theorem State.Canonical.parkResult (h : s.Canonical) {a w} : (s.parkResult a w).Canonical := h.parkMe.post

theorem State.Canonical.bindReply (h : s.Canonical) {tid a form dev arr xport status val} :
    (s.bindReply tid a form dev arr xport status val).Canonical := by
  simp only [State.bindReply]
  split
  · exact h.wakeTrap
  · split
    · exact h.wakeWith
    · split
      · exact h.wakeWith
      · split
        · split
          · exact h.wakeWith
          · exact h.wakeWith
          · exact h.update.wakeWith
        · exact h.update.wakeWith
        · exact h.update.wakeWith

theorem State.Canonical.replyArrives (h : s.Canonical) {ref status val data} : (s.replyArrives ref status val data).Canonical := by
  simp only [State.replyArrives]
  split
  · exact h
  · split
    · split
      · exact h.ite (h.routeLoad.ite (h.wakeTrap.ite h.wakeTrap))
      · exact h.update.ite (h.update.routeLoad.ite (h.update.wakeTrap.ite h.update.wakeTrap))
    · exact (h.ite h.update).modCtx.ite ((h.ite h.update).modCtx.deliver.ite (h.ite h.update).modCtx.deliver)
    · split
      · exact (h.ite h.update).post.ite (h.ite h.update).modCtx.deliver
      · exact h.ite h.update
    · split
      · exact h.ite h.update
      · exact (h.ite h.update).sendClear.ite ((h.ite h.update).wakeTrap.ite (h.ite h.update).wakeTrap)
    · split
      · exact h.ite h.update
      · exact (h.ite h.update).post.ite ((h.ite h.update).wakeTrap.ite (h.ite h.update).wakeTrap)
    · exact (h.ite h.update).post
    · exact (h.ite h.update).post.ite ((h.ite h.update).ite (h.ite h.update).post)
    · exact (h.ite h.update).bindReply
    · exact h.ite h.update

theorem State.Canonical.dropShadow (h : s.Canonical) {slice k} : (s.dropShadow slice k).Canonical := by
  unfold State.dropShadow
  split
  · exact h
  · exact (h.dropEntry.ite h.dropEntry.charge).wakeRoom

theorem State.Canonical.failShadow (h : s.Canonical) {slice k result} : (s.failShadow slice k result).Canonical := h.walkKey.dropShadow
theorem State.Canonical.fillShadow (h : s.Canonical) {slice k data} : (s.fillShadow slice k data).Canonical := h.modEntry.walkKey

theorem State.Canonical.fetchShadow (h : s.Canonical) {slice k} : (s.fetchShadow slice k).Canonical := by
  unfold State.fetchShadow
  split
  · exact h.failShadow
  · split
    · exact h.askOwner ‹_›
    · exact h.failShadow

theorem execShadowFetchReply_canonical (h : s.Canonical) {slice k status data} : (execShadowFetchReply slice k status data s).Canonical := by
  unfold execShadowFetchReply
  split
  · exact .next h
  · split
    · exact .next h
    · split
      · exact .next h.fillShadow
      · split
        · exact .next h.fetchShadow
        · split
          · exact .next h.failShadow
          · split
            · exact .next h.failShadow
            · split
              · exact .next h.at
              · split
                · refine .next (h.foldl fun _ _ h1 => ?_)
                  split
                  · exact h1.stallForce
                  · exact h1
                · exact .next h.failShadow

theorem State.Canonical.noticeAt (h : s.Canonical) {asid d dev i j ver data} : (s.noticeAt asid d dev i j ver data).Canonical := by
  simp only [State.noticeAt]
  split
  · split
    · split
      · exact h.fillShadow
      · exact h.fetchShadow
    · exact h
  · split
    · exact h
    · refine h.getD fun _ => h.withRun fun _ _ h1 => ?_
      split
      · exact h1.addEntry
      · exact h1.addEntry.fetchShadow

theorem State.Canonical.subscribe (h : s.Canonical) {asid arr dev answer} (hk : ∀ u v w, u.Canonical → (answer u v w).Canonical) :
    (s.subscribe asid arr dev answer).Canonical :=
  (hk _ _ _ h).ite ((hk _ _ _ h).ite (hk _ _ _ h.update))

theorem State.Canonical.takeBackFor (h : s.Canonical) {m} : (s.takeBackFor m).Canonical := by
  unfold State.takeBackFor
  split
  · exact h
  · exact h.unpin.ite h.unreserve

theorem execRemoteKeyRequest_canonical (h : s.Canonical) {m} : (execRemoteKeyRequest m s).Canonical := by
  unfold execRemoteKeyRequest
  split
  · exact .next h.takeBackFor
  · split
    · exact .next h.replyTo
    · split
      · exact .next h.replyTo
      · split
        · exact .next h.replyTo
        · split
          · exact .next h.replyTo
          · refine .next ?_
            split
            · exact h.subscribe (fun _ _ _ h1 => h1.replyTo)
            · exact h.update.replyTo
            · split
              · exact h.replyTo
              · split
                · exact h.replyTo
                · split <;> exact h.post

theorem State.Canonical.failXred (h : s.Canonical) {tid status} : (s.failXred tid status).Canonical := by
  unfold State.failXred
  split
  · exact h
  · exact h.unreserve.unpin.modCtx.wakeAgain

theorem State.Canonical.linkLost (h : s.Canonical) {link} : (s.linkLost link).Canonical := by
  unfold State.linkLost
  refine .foldl (.foldl ?_ fun _ _ h1 => h1.failShadow) fun _ _ h1 => h1.failXred
  refine h.foldl fun _ _ h1 => ?_
  split
  · exact h1.update
  · exact h1.replyArrives

theorem State.Canonical.setLink (h : s.Canonical) {link state} : (s.setLink link state).Canonical :=
  h.draw.update.raiseEvent.ite h.draw.update.raiseEvent.linkLost

theorem State.Canonical.answerDropped (h : s.Canonical) {m} : (s.answerDropped m).Canonical := by
  unfold State.answerDropped
  split
  · exact h.replyTo
  · exact h.ite h.replyTo
  · split
    · exact h.sendOn
    · exact h
  · exact h

theorem execLinkMessageArrival_canonical (h : s.Canonical) {link m} : (execLinkMessageArrival link m s).Canonical := by
  unfold execLinkMessageArrival
  refine .next ?_
  split
  · exact h
  · split
    · exact h.post
    · exact h.post
    · exact h.post
    · exact h.replyArrives
    · exact h.post
    · exact h.post
    · split
      · exact h.answerDropped.ite h.sendOn
      · exact h.answerDropped

theorem State.Canonical.bindTrip (h : s.Canonical) {a form dev arr xport op} : (s.bindTrip a form dev arr xport op).Canonical := by
  unfold State.bindTrip
  split
  · exact h.parkResult
  · exact h.await.sendOn.parkMe

theorem execAbind_canonical (h : s.Canonical) {a b x} : (execAbind a b x s).Canonical := by
  unfold execAbind
  refine .next ?_
  split
  · exact h.parkResult
  · split
    · exact h.parkResult
    · exact h.parkResult.ite h.bindTrip

theorem State.Canonical.subscription (h : s.Canonical) {a b form op} : (s.subscription a b form op).Canonical := by
  simp only [State.subscription]
  split
  · exact h.parkResult
  · split
    · exact h.parkResult
    · exact h.bindTrip

theorem execAbindX_canonical (h : s.Canonical) {a b x} : (execAbindX a b x s).Canonical := by
  simp only [execAbindX]
  refine .next ?_
  split
  · exact h.update.parkResult
  · split
    · exact h.readStruct
    · split
      · exact h.parkResult
      · exact h.update.parkResult

theorem State.Canonical.lstatOf (h : s.Canonical) {o n k} (hk : ∀ u, (k u).Canonical) : (s.lstatOf o n k).Canonical := by
  unfold State.lstatOf
  split
  · exact .next (h.trapMe.ite (hk _))
  · exact .next (hk _)

/-! ## Collections -/

theorem State.Canonical.sendContribution (h : s.Canonical) {op d bs data nf t} (e : s.sendContribution op d bs data nf = some t) :
    t.Canonical := by
  simp only [State.sendContribution] at e
  split at e
  · cases e; exact h.post
  · obtain ⟨_, _, rfl⟩ := Option.map_eq_some_iff.1 e
    exact h.sendOn

theorem State.Canonical.contributeXred (h : s.Canonical) {op a d} : (s.contributeXred op a d).Canonical := by
  simp only [State.contributeXred]
  split
  · exact (h.sendContribution ‹_›).parkCounted.setMe
  · exact h.unreserve.unpin.doneLong

theorem State.Canonical.xred (h : s.Canonical) {op a b} : (s.xred op a b).Canonical := by
  simp only [State.xred]
  split
  · exact h.readInto
  · exact h.readInto
  · exact h.finish
  · split
    · exact h.doneLong
    · split
      · exact h.trapMe
      · split
        · exact (h.keyPhase ‹_›).doneLong
        · split
          · exact (h.keyPhase ‹_›).askMint
          · split
            · exact (h.keyPhase ‹_›).setMe.askMint.ite (h.keyPhase ‹_›).parkStage.awaitKey
            · exact (h.keyPhase ‹_›).contributeXred

theorem execXredResultArrival_canonical (h : s.Canonical) {tag i j ver status data nf} :
    (execXredResultArrival tag i j ver status data nf s).Canonical := by
  simp only [execXredResultArrival]
  split
  · exact .next h
  · split
    · exact .next h
    · exact .ite (.next h.failXred) (.next h.create.unpin.modCtx.wakeAgain)

theorem State.Canonical.answerMember (h : s.Canonical) {c dev status data nf} : (s.answerMember c dev status data nf).Canonical := by
  unfold State.answerMember
  split
  · exact h.post
  · split
    · exact h
    · exact h.sendOn

theorem State.Canonical.answerAll (h : s.Canonical) {c status data nf} : (s.answerAll c status data nf).Canonical :=
  h.foldl fun _ _ h1 => h1.answerMember

theorem execXredContributionAtRoot_canonical (h : s.Canonical) {dev tag i j ver op fmt shape n data nf} :
    (execXredContributionAtRoot dev tag i j ver op fmt shape n data nf s).Canonical := by
  have ht {p : Prop} [Decidable p] {c e} {l : List Machine.Collect} : State.Canonical { (if p then s.at c e else s) with collects := l } :=
    .update (.ite h.at h)
  simp only [execXredContributionAtRoot]
  exact .next (.ite (.answerMember ht) (.ite (.answerAll ht) (.ite (.answerAll ht) ht)))

theorem execXredRootTimeout_canonical (h : s.Canonical) {tag i j ver} : (execXredRootTimeout tag i j ver s).Canonical := by
  unfold execXredRootTimeout
  split
  · exact .next h
  · exact .ite (.next h) (.next (h.update.ite h.update.answerAll))

/-! ## Differentiation -/

theorem State.Canonical.changeRegions (h : s.Canonical) {a w t} : (s.changeRegions a w t).Canonical :=
  (h.update.foldl fun _ _ h1 => h1.post).doneLong

theorem execDreg_canonical (h : s.Canonical) {a b} : (execDreg a b s).Canonical := by
  simp only [execDreg]
  split
  · exact .next h.readStruct
  · refine .next ?_
    split
    · exact h.doneLong
    · split
      · exact h.doneLong
      · split
        · exact h.doneLong
        · exact h.changeRegions

theorem execDregU_canonical (h : s.Canonical) {a b} : (execDregU a b s).Canonical := by
  unfold execDregU
  refine .next ?_
  split
  · exact h.doneLong
  · exact h.changeRegions

theorem State.Canonical.setRev (h : s.Canonical) {b} : (s.setRev b).Canonical := h.parkMe.ite h.finish

theorem execDadj_canonical (h : s.Canonical) {a b} : (execDadj a b s).Canonical := by
  unfold execDadj
  refine .next ?_
  split
  · exact h.stopMe
  · exact h.finish

theorem execDadjL_canonical (h : s.Canonical) {a b} : (execDadjL a b s).Canonical := by
  unfold execDadjL
  refine .next ?_
  split
  · exact h.stopMe
  · split
    · exact h.stopMe
    · exact h.parkMe.ite h.settle.yieldLines.loadLanes

theorem execDadjX_canonical (h : s.Canonical) {a b} : (execDadjX a b s).Canonical := by
  unfold execDadjX
  refine .next ?_
  split
  · exact h.stopMe
  · split
    · exact h.stopMe
    · exact h.parkMe.ite h.settle.yieldLines.clearRequest

theorem execDadjP_canonical (h : s.Canonical) {a b} : (execDadjP a b s).Canonical := by
  unfold execDadjP
  refine .next ?_
  split
  · exact h.stopMe
  · split
    · exact h.stopMe
    · exact h.settle.loadLanes

theorem State.Canonical.seedCells (h : s.Canonical) {ps vals} : (s.seedCells ps vals).Canonical := by
  unfold State.seedCells
  exact h.settleAll.yieldLines.post.finish

theorem execDseed_canonical (h : s.Canonical) {b x} : (execDseed b x s).Canonical := by
  unfold execDseed
  refine .next ?_
  split
  · exact h.stopMe
  · split
    · exact h.stopMe
    · exact h.seedCells

theorem execDseedV_canonical (h : s.Canonical) {b v} : (execDseedV b v s).Canonical := by
  unfold execDseedV
  refine .next ?_
  split
  · exact h.stopMe
  · split
    · exact h.trapMe
    · split
      · exact h.stopMe
      · exact h.seedCells

theorem execDseedT_canonical (h : s.Canonical) {a ko} : (execDseedT a ko s).Canonical := by
  unfold execDseedT
  refine .next ?_
  split
  · exact h.trapMe
  · split
    · exact (h.keyPhase ‹_›).trapMe
    · split
      · exact (h.keyPhase ‹_›).seedTile
      · split
        · exact (h.keyPhase ‹_›).trapMe
        · exact (h.keyPhase ‹_›).trapMe.ite ((h.keyPhase ‹_›).withForce (fun _ h2 => h2) (fun _ _ h2 => h2.done))

theorem State.Canonical.readEntry (h : s.Canonical) : s.readEntry.Canonical := h.setMe.readInto

theorem State.Canonical.restore (h : s.Canonical) : s.restore.Canonical := by
  simp only [State.restore]
  split
  · exact h.stopMe
  · exact h.settle.storeLanes.setMe

theorem State.Canonical.popEntry (h : s.Canonical) {bad k} (h2 : ∀ u, u.Canonical → (bad u).Canonical) (h3 : ∀ u, u.Canonical → (k u).Canonical) :
    (s.popEntry bad k).Canonical := by
  simp only [State.popEntry]
  split
  · exact h.parkMe.ite h.readEntry
  · exact (h2 _ h).ite h.restore
  · exact h.parkMe.ite (h3 _ h.setMe)

theorem execTapeRewind_canonical (h : s.Canonical) {a b} : (execTapeRewind a b s).Canonical := by
  unfold execTapeRewind
  refine .next ?_
  split
  · exact h.doneLong
  · exact h.doneLong.ite ((h.setMe.ite h).popEntry (fun _ h1 => h1.doneLong) (fun _ h1 => h1.doneLong.ite h1.readEntry))

theorem State.Canonical.clearNone (h : s.Canonical) {a w} : (s.clearNone a w).Canonical := h.parkMe.ite h.doneLong

theorem State.Canonical.clearCells (h : s.Canonical) {a first n} : (s.clearCells a first n).Canonical := by
  simp only [State.clearCells]
  split
  · exact h.doneLong
  · split
    · exact h.stopMe
    · exact h.parkMe.ite h.settleAll.storeLanes.setMe

theorem execDclr_canonical (h : s.Canonical) {a b} : (execDclr a b s).Canonical := by
  unfold execDclr
  refine .next ?_
  split
  · exact h.clearNone
  · exact h.clearCells

theorem execDclrR_canonical (h : s.Canonical) {a b l} : (execDclrR a b l s).Canonical := by
  simp only [execDclrR]
  refine .next ?_
  split
  · exact h.clearNone
  · split
    · exact h.stopMe
    · split
      · exact h.trapMe
      · exact h.trapMe.ite h.clearCells

theorem execDclrT_canonical (h : s.Canonical) {ko} : (execDclrT ko s).Canonical := by
  unfold execDclrT
  refine .next ?_
  split
  · exact h.trapMe
  · exact (h.keyPhase ‹_›).done.ite ((h.keyPhase ‹_›).parkMe.ite (h.keyPhase ‹_›).askMint)

end Sys2Proof.Machine
end

section
/-! PROOFS. Canonical memory (O59): fetch, lazy operators, replay, and with them every event that is delivered. -/

namespace Sys2Proof.Machine

set_option Elab.async false

variable {s : State}

/-! ## Fetch -/

theorem State.Canonical.enterLine (h : s.Canonical) {tid bytes} : (s.enterLine tid bytes).Canonical := by
  simp only [State.enterLine]
  split
  · exact h.setCtx
  · exact h.trap

theorem State.Canonical.icachePut (h : s.Canonical) {core asid a bytes} : (s.icachePut core asid a bytes).Canonical := h.draw.setCore

theorem State.Canonical.fetchLine (h : s.Canonical) {tid} : (s.fetchLine tid).Canonical := by
  simp only [State.fetchLine]
  split
  · exact h.trap
  next pa l _ =>
    split
    · exact h.touchLeaf.fillTlbs.enterLine
    · exact .routeLoad (h.touchLeaf (l := l) (store := false)).update

/-! ## Lazy operators, pool tiles, the optimiser -/

theorem State.Canonical.makeNode (h : s.Canonical) {a op f hs opnd result draws} : (s.makeNode a op f hs opnd result draws).Canonical := by
  simp only [State.makeNode]
  split
  · exact h.trapMe
  · split
    · exact h.trapMe
    · exact h.append

theorem execTmma_canonical (h : s.Canonical) {f a b c d} : (execTmma f a b c d s).Canonical := by
  simp only [execTmma]
  split
  · exact .next h.makeNode
  · exact .next h.trapMe

theorem execTidx_canonical (h : s.Canonical) {f a b c i} : (execTidx f a b c i s).Canonical := by
  simp only [execTidx]
  split
  · exact .next h.trapMe
  · split
    · exact .next h.trapMe
    · split
      · exact .next h.trapMe
      · exact .ite (.next h.append) (.next h.trapMe)

theorem execTforce_canonical (h : s.Canonical) {a b c} : (execTforce a b c s).Canonical := by
  simp only [execTforce]
  split
  · exact .next h.trapMe
  · split
    · exact .next h.done
    · exact .next (h.withForce (fun _ h1 => h1) (fun _ _ h1 => h1.done))

theorem execTforceM_canonical (h : s.Canonical) {a} : (execTforceM a s).Canonical := by
  simp only [execTforceM]
  split
  · exact .next h.trapMe
  · exact .next h.done
  · split
    · exact .next h.done
    · exact .next (h.materialise (fun _ h1 => h1.done))

theorem execTfill_canonical (h : s.Canonical) {a b i} : (execTfill a b i s).Canonical := by
  simp only [execTfill]
  split
  · exact .next h.trapMe
  · exact .ite (.next h.trapMe) (.next h.append)

theorem State.Canonical.stallLocks (h : s.Canonical) {cell} : (s.stallLocks cell).Canonical := (h.parkCounted.at.ite h.parkCounted).setMe
theorem State.Canonical.bindPool (h : s.Canonical) {a q sh pitch} : (s.bindPool a q sh pitch).Canonical := h.append

theorem State.Canonical.loadPool (h : s.Canonical) {a at_ sh pitch} : (s.loadPool a at_ sh pitch).Canonical := by
  unfold State.loadPool
  refine h.withEntry fun _ _ h1 => ?_
  split
  · exact h1.stallLocks
  · split
    · exact h1.anonSpent
    · exact (h1.anonReq ‹_›).update.landOn.setCell.askMint.setMe

theorem State.Canonical.loadPoolReverse (h : s.Canonical) {a sh ps} : (s.loadPoolReverse a sh ps).Canonical := by
  simp only [State.loadPoolReverse]
  split
  · exact h.trapMe
  · exact h.trapMe.ite (h.withForce (fun _ h1 => h1) (fun _ _ h1 => h1.settleLanes.yieldLines.post.finish))

theorem execTldp_canonical (h : s.Canonical) {a b c disp} : (execTldp a b c disp s).Canonical := by
  simp only [execTldp]
  split
  · exact .next h.trapMe
  · split
    · exact .next h.trapMe
    · split
      · exact .next h.bindPool
      · split
        · exact .next h.stopMe
        · exact .ite (.next h.loadPoolReverse) (.next h.loadPool)

theorem State.Canonical.storeRange (h : s.Canonical) {ps} : (s.storeRange ps).Canonical := by
  simp only [State.storeRange]
  split
  · exact h.settleLanes.storeLanes.parkStage.setMe
  · split
    · exact h.stopMe
    · exact h.settleLanes.settleAll.pushLanes.storeLanes.parkStage.setMe

theorem State.Canonical.storePoolReverse (h : s.Canonical) {a sh ps} : (s.storePoolReverse a sh ps).Canonical := by
  simp only [State.storePoolReverse]
  split
  · exact h.parkMe.ite h.reserveSnap
  · exact h.settleLanes.yieldLines.parkStage.sendClear
  · exact h.update.createSnap
  · exact h.bindSnap

theorem State.Canonical.stopSnap (h : s.Canonical) {e} : (s.stopSnap e).Canonical := by
  unfold State.stopSnap
  split
  · exact (h.dropSnap.ite h).stopMe
  · exact h.stopMe

theorem execTstp_canonical (h : s.Canonical) {a b c disp} : (execTstp a b c disp s).Canonical := by
  simp only [execTstp]
  split
  · exact .next h.trapMe
  · split
    · exact .next h.trapMe
    · split
      · exact .ite (.next h.parkMe) (.next h.done)
      · split
        · exact .next h.trapMe
        · split
          · exact .next h.stopSnap
          · exact .ite (.next h.storePoolReverse) (.next (h.withForce (fun _ h1 => h1) (fun _ _ h1 => h1.storeRange)))

theorem State.Canonical.stallWaiters (h : s.Canonical) {k home code} : (s.stallWaiters k home code).Canonical := by
  unfold State.stallWaiters
  refine h.foldl fun _ _ h1 => ?_
  split
  · exact h1.stallForce
  · exact h1

theorem execPoolSourceCopy_canonical (h : s.Canonical) {cell entry} : (execPoolSourceCopy cell entry s).Canonical := by
  unfold execPoolSourceCopy
  split
  · exact .next h
  · split
    · exact .next h
    · split
      · exact .next h.at
      · split
        · exact .next h.stallWaiters.at
        · exact .next h.setCell
        · exact .next (h.reserve ‹_›).modEntry.create.setCell

theorem execLockedStoreRelease_canonical (h : s.Canonical) {q op} : (execLockedStoreRelease q op s).Canonical := by
  unfold execLockedStoreRelease
  split
  · exact .next h.startCopy.at
  · exact .next h.atBank

theorem State.Canonical.blockWrite (h : s.Canonical) {ls off n v} : (s.blockWrite ls off n v).Canonical := by
  unfold State.blockWrite
  split
  · exact h.homeStore
  · exact h

theorem State.Canonical.blockPhase (h : s.Canonical) {b c bytes t} (e : s.blockPhase b c bytes = .ok t) : t.Canonical := by
  simp only [State.blockPhase] at e
  split at e
  · cases e
  · cases e
  · split at e
    · cases e
    · cases e; exact h.settleAll.settle.setMe

theorem State.Canonical.adamPhase (h : s.Canonical) {b c sh t} (e : s.adamPhase b c sh = .ok t) : t.Canonical := by
  simp only [State.adamPhase] at e
  split at e
  · cases e; exact h
  · split at e
    · cases e
    · exact h.blockPhase e

theorem State.Canonical.adamEnd (h : s.Canonical) {d n nf sat} : (s.adamEnd d n nf sat).Canonical := h.finish
theorem State.Canonical.adamStatus (h : s.Canonical) {d n nf v} : (s.adamStatus d n nf v).Canonical := h.adamEnd.post

theorem State.Canonical.adamRead (h : s.Canonical) {d sh g} : (s.adamRead d sh g).Canonical := by
  simp only [State.adamRead]
  split
  · exact h.parkMe
  · split
    · exact h.setMe
    · split
      · exact (h.foldl fun _ _ h1 => h1.homeRead).adamStatus
      · split
        · exact (h.foldl fun _ _ h1 => h1.homeRead).blockWrite.adamStatus
        · exact (h.foldl fun _ _ h1 => h1.homeRead).adamStatus.ite (h.foldl fun _ _ h1 => h1.homeRead).setMe
  · exact h

theorem State.Canonical.adamWrite (h : s.Canonical) {d sh} : (s.adamWrite d sh).Canonical := by
  simp only [State.adamWrite]
  split
  · exact h.parkMe
  · exact h
  · exact (h.foldl fun _ _ h1 => h1.blockWrite.blockWrite.blockWrite).adamEnd.post

theorem State.Canonical.adamHeader (h : s.Canonical) {a b c d base sh} : (s.adamHeader a b c d base sh).Canonical := by
  simp only [State.adamHeader]
  split
  · exact h.parkMe
  · split
    · exact h.parkMe
    · split
      · exact h.yieldLines.parkMe
      · split
        · exact h.parkMe
        · exact h
        · split
          · exact h.homeRead.trapMe
          · split
            · split
              · exact h.homeRead.stopMe
              · exact (h.homeRead.blockPhase ‹_›).setMe
            · exact h.homeRead.adamStatus.ite (h.homeRead.setMe.withForce (fun _ h1 => h1) (fun _ _ h1 => h1))

theorem execTadam_canonical (h : s.Canonical) {a b c d} : (execTadam a b c d s).Canonical := by
  simp only [execTadam]
  split
  · exact .next h.trapMe
  · split
    · exact .next (h.withForce (fun _ h1 => h1) (fun _ _ h1 => h1.adamRead))
    · split
      · exact .next h.adamWrite
      · split
        · exact .next h.stopMe
        · exact .next (h.adamPhase ‹_›).adamHeader

/-! ## Replay after a page operation, and every event -/

theorem State.Canonical.refuseLanes (h : s.Canonical) {p x} : (s.refuseLanes p x).1.Canonical := by
  unfold State.refuseLanes
  split
  · dsimp only
    exact h
  · dsimp only
    exact h
  · dsimp only
    exact h.post
  · dsimp only
    exact h.post
  · dsimp only
    exact h
  · dsimp only
    exact h.foldl fun _ _ h1 => h1.post
  · split
    · exact h.post
    · exact h
  · dsimp only
    exact h.post
  · dsimp only
    exact h.wakeWith
  · dsimp only
    exact h.wakeWith
  · dsimp only
    exact h
  · dsimp only
    exact h
  · dsimp only
    exact h

theorem State.Canonical.nextOr (h : s.Canonical) {o} (ho : o.Canonical) : (nextOr o s).Canonical := by
  unfold Machine.nextOr
  split
  · exact ho _ rfl
  · exact h

theorem State.Canonical.getsNow (h : s.Canonical) {line die} : (s.getsNow line die).Canonical := by
  unfold State.getsNow
  split
  · exact h.ite (h.nextOr (execForwardedRequest_canonical h.foldLine.l2Take))
  · exact h.ite (h.nextOr (execForwardedRequest_canonical h.foldLine.l2Take))
  · exact h.nextOr (execGetsAtHome_canonical h)

theorem State.Canonical.fillNow (h : s.Canonical) {r fuel} : (s.fillNow r fuel).Canonical := by
  induction fuel generalizing s with
  | zero => exact h.nextOr (execFillAtHome_canonical h)
  | succ fuel ih =>
    simp only [State.fillNow]
    split
    · exact h.nextOr (execFillAtHome_canonical h)
    · exact ih h.getsNow

theorem State.Canonical.performHeld (h : s.Canonical) {x} : (s.performHeld x).Canonical := by
  unfold State.performHeld
  split
  · exact h.fillNow
  · exact h.nextOr (execWriteThroughAtHome_canonical h)
  · exact h.nextOr (execAtomicAtHome_canonical h)
  · exact h.nextOr (execContributionAtHome_canonical h)
  · exact h.nextOr (execReleaseAtHome_canonical h)
  · exact h.nextOr (execAcquireAtHome_canonical h)
  · exact h.nextOr (execBarrierArrivalAtHome_canonical h)
  · exact h.nextOr (execWaitRegistration_canonical h)
  · exact h.nextOr (execWakeAtHome_canonical h)
  · exact h.telAgain
  · exact h.nextOr (execRemoteWordAccess_canonical h)

theorem State.Canonical.replayHeld (h : s.Canonical) {x} : (s.replayHeld x).Canonical := h.post.ite h.performHeld

theorem State.Canonical.replay (h : s.Canonical) {r x} : (s.replay r x).Canonical := by
  simp only [State.replay]
  split
  · exact h.replayHeld
  · split
    · exact h.replayHeld
    · split
      · exact h.refuseLanes.deliver.replayHeld
      · exact h.refuseLanes.deliver

theorem State.Canonical.resend (h : s.Canonical) {r x} : (s.resend r x).Canonical := h.postFront

theorem State.Canonical.resendAll (h : s.Canonical) {r} {l : List Held} : (l.foldr (fun x u => u.resend r x) s).Canonical := by
  induction l with
  | nil => exact h
  | cons _ _ ih => exact ih.resend

theorem State.Canonical.pageFinish (h : s.Canonical) {die slot r overlaps} : (s.pageFinish die slot r overlaps).Canonical := by
  simp only [State.pageFinish]
  exact ((State.Canonical.update h).resendAll.foldl fun _ _ h1 => h1.replay).pageReply.foldl fun _ _ h1 => h1.post

theorem State.Canonical.askBack (h : s.Canonical) {die slot half} : (s.askBack die slot half).Canonical := h.draw.update.hostData.post

theorem execPageOpCompletion_canonical (h : s.Canonical) {die slot} : (execPageOpCompletion die slot s).Canonical := by
  unfold execPageOpCompletion
  split
  · exact .next h
  · exact .ite (.next (h.setRun.foldl fun _ _ h1 => h1.askBack)) (.next h.pageAct.pageFinish)

theorem execBisnpResponse_canonical (h : s.Canonical) {die slot line dirty} : (execBisnpResponse die slot line dirty s).Canonical := by
  simp only [execBisnpResponse]
  have collected {t : State} (ht : t.Canonical) {n} : State.Canonical { t with snoops := n } := ht
  split
  · exact .next h
  · split
    · exact .next h
    · cases dirty with
      | none =>
        split
        · exact .next (collected h).setRun.askBack
        · split
          · exact .next (collected h).setRun.pageAct.pageFinish
          · exact .next (collected h).setRun
      | some d =>
        split
        · exact .next (.askBack (.setRun (collected (.cleanse h.foldLine.awake.write))))
        · split
          · exact .next (.pageFinish (.pageAct (.setRun (collected (.cleanse h.foldLine.awake.write)))))
          · exact .next (.setRun (collected (.cleanse h.foldLine.awake.write)))

theorem execPageQueueRetry_canonical (h : s.Canonical) {die slot wait x} : (execPageQueueRetry die slot wait x s).Canonical := by
  unfold execPageQueueRetry
  refine .next ?_
  split
  · exact h
  · exact h.refuseFull.ite h

theorem deliverEvent_canonical (h : s.Canonical) {e} : (deliverEvent e s).Canonical := by
  cases e
  all_goals dsimp only [deliverEvent]
  exacts [
    execIcsyncInvalidateAtCore_canonical h, execPageOpSlotGrant_canonical h, execPageSweepAtCore_canonical h, execPageOpCompletion_canonical h,
    execPageQueueRetry_canonical h, .next h.applyStat.modCtx, .next h.modCtx.syncImage,
    .next (h.setCell.forgetArray.forgetArray.modCtx.wakeAgain.ite h.setCell.forgetArray.forgetArray.modCtx), execMintReference_canonical h,
    execMintDrop_canonical h, execMintReserve_canonical h, .next h.create.mintReply, .next h.unpin, execMintReplyArrival_canonical h,
    execVersionWakeArrival_canonical h, .next (h.charge.ite h).retryStalled, execForceNodeStep_canonical h, execForceCompletion_canonical h,
    execPoolSourceCopy_canonical h, execLockedStoreRelease_canonical h, execMatrixCommandAtHead_canonical h, execKstepGrant_canonical h,
    execKstepRetire_canonical h, execEpilogueRow_canonical h, execMdrainCompletion_canonical h, execTellerOpStart_canonical h,
    execRedaddSegment_canonical h, execTellerFault_canonical h, execTellerOpCompletion_canonical h, execUserEventEntry_canonical h,
    execSleepTimeReached_canonical h, execDispatcherRecordArrival_canonical h, execSpillRefill_canonical h, .next h.setDispatcher,
    execPlacement_canonical h, execMigrationPacketArrival_canonical h,
    .ite (.next h) (.ite (.next h) (.ite (.next h.setCtx.at) (.next h.suspend))), execStallLimitExpiry_canonical h, .next (h.setCore.ite h),
    .next h.modCtx.writeThrough, execAdjointTileContribution_canonical h, execCfenceFence_canonical h, execCfenceRestore_canonical h,
    execCreset_canonical h, .next (h.setCell.foldl fun _ _ h1 => h1.setCore), execSlretEnter_canonical h, execSlretWake_canonical h, .next h,
    execTsplitWrite_canonical h, execTarenaWrite_canonical h, execSevtClear_canonical h, .next (h.shootDown.at.ite h.shootDown.ackPlane6),
    execPreemptArrival_canonical h, .next (h.dropImage.ite h),
    .ite (.next h) (.ite (.next h.postFront.postFront) (.ite (.next h.post) (.next h.holdLine))), .next h.modCtx.killThread,
    execHaltTreeArrival_canonical h, execXredContributionAtRoot_canonical h, execXredRootTimeout_canonical h, execXredResultArrival_canonical h,
    .ite (.next h) (.next h.icachePut.enterLine), execLongResultArrival_canonical h, execLineFillArrival_canonical h, execFillAtHome_canonical h,
    execPoolBankAccess_canonical h, execWriteThroughAtHome_canonical h, execWriteBackMerge_canonical h, .next h.modCtx,
    execAtomicAtHome_canonical h, execContributionAtHome_canonical h, .next h.modCtx, execReleaseAtHome_canonical h,
    execAcquireAtHome_canonical h, execDrainCommandArrival_canonical h, execDrainCompletion_canonical h, execBarrierArrivalAtHome_canonical h,
    execWaitRegistration_canonical h, execWakeAtHome_canonical h, .ite (.next h) (.next (h.selfInvalidate.ite h).wakeWith),
    .ite (.next h.post) (.next h.post), .ite (.next h.setSlice.expire) (.next h), .next h.requeue.post, execGetsAtHome_canonical h,
    execGetmAtHome_canonical h, execPutmAtHome_canonical h, execPuteAtHome_canonical h, execForwardedRequest_canonical h,
    execInvalidateAtProxy_canonical h, execDeliverRetry_canonical h, .next (h.countError.laneError.setDie.queueError.ite h.countError.laneError),
    .next h.draw.markData.queueError, execErrorWindowEnd_canonical h, .next ((h.setDie.ite h.setDie.raiseEvent).ite h.setDie),
    execColdReset_canonical, .next h.update, .next h.raiseEvent, .next h.raiseEvent, .next (h.ite h.setLink), .next h.update,
    execLinkMessageArrival_canonical h, execRemoteWordAccess_canonical h, execRemoteKeyRequest_canonical h,
    .next (h.foldl fun _ _ h1 => h1.noticeAt), execShadowFetchReply_canonical h, execHostHdmAccess_canonical h, execBisnpResponse_canonical h,
    execHostSnoop_canonical h, execHostFillReply_canonical h, execBridgeDeviceAccess_canonical h, .next h.update]

end Sys2Proof.Machine
end

section
/-! PROOFS. Canonical memory (O59): every instruction, issue and the step. -/

namespace Sys2Proof.Machine

set_option Elab.async false

variable {s : State}

/-! ## Control registers -/

theorem State.Canonical.lcore (h : s.Canonical) : s.lcore.2.Canonical := by
  unfold State.lcore
  split
  · dsimp only
    exact h
  · exact h.draw

/-! ## Scalar forms -/

theorem State.Canonical.alu (h : s.Canonical) {f a b o op} : (s.alu f a b o op).Canonical := .next h.finish
theorem State.Canonical.logic (h : s.Canonical) {f a b o op} : (s.logic f a b o op).Canonical := .next h.finish
theorem State.Canonical.shift (h : s.Canonical) {f a b o op} : (s.shift f a b o op).Canonical := .next h.finish
theorem State.Canonical.go (h : s.Canonical) {f t} : (s.go f t).Canonical := h.setMe

theorem execPaddr_canonical (h : s.Canonical) {f a b o} : (execPaddr f a b o s).Canonical := by
  simp only [execPaddr]
  split
  · exact .next h.finish
  · split
    · exact .next h.trapMe
    · exact .next h.finish

/-! ## Every instruction -/

theorem exec_canonical (h : s.Canonical) {i} : Out.Canonical (exec i s) := by
  cases i
  all_goals dsimp only [exec]
  exacts [
    .next h.done, h.alu, h.alu, h.alu, h.alu, h.alu, h.alu, h.logic, h.logic, h.logic, h.logic, h.shift, h.shift, h.shift, h.shift, h.alu, h.alu,
    .next h.finish, .next h.finish, .next h.finish, .next h.finish, .next h.finish, .next h.finish, .next h.finish, .next h.finish,
    .next h.finish, .next h.finish, .next h.finish, .next h.finish, .next h.finish, .next h.finish, .next (h.go.ite h.done), .next h.go,
    .next h.go, .next h.go, .next (h.go.ite h.finish), .ite (.next h.lcore.finish) (.next h.finish), .next h.finish, execPaddr_canonical h,
    .next h.loadInstr, .next h.storeInstr, .next h.loadInstr, .next h.storeInstr, .next h.loadInstr, .next h.storeInstr, execLdm_canonical h,
    execPref_canonical h, h.cmo (fun _ _ h1 => h1.cleanLine), h.cmo (fun _ _ h1 => h1.flushLine), h.cmo (fun _ _ h1 => h1.flushLine),
    execCmoZero_canonical h, h.atomInstr, h.atomInstr, h.redInstr, h.redInstr, execAcq_canonical h, execRel_canonical h, h.barInstr, h.barInstr,
    execWaitw_canonical h, h.wakeInstr, h.wakeInstr, h.pendInstr, h.pendInstr, execFenceFull_canonical h, .next h.acqPart,
    execFenceRel_canonical h, .next (h.parkMe.ite h.done), .next h.icsync, .ite (.next h.trapMe) (.ite (.next h.trapMe) (.next h.icsync)),
    h.pageInstr, .next h.setDie.finish.post, h.pageInstr, h.longValue, h.longValue, h.longValue, .next h.finish, .next h.finish, .next h.finish,
    .next h.finish, .next h.finish, .next h.parkMe.post, .next h.finish, .ite (.next h.setStat.finish) (.next h.finish), .next h.setStat.finish,
    h.vbin, h.vbin, h.vbin, .next h.finish, h.vminmax, h.vminmax, .next h.finish, h.vseed, h.vseed, h.vlong, h.vlong, h.vlong, h.vlong,
    .next h.finish, .next h.finish, .next h.finish, .next h.finish, .next h.finish, .next h.finish, .next h.finish, .next h.finish,
    .next h.finish, .next h.finish, .next h.finish, .next h.finish, .next h.finish, .next h.finish, .next h.finish, execTdecl_canonical h,
    execTdeclU_canonical h, execTld_canonical h, execTst_canonical h, .next h.dropInstr, .next h.dropInstr, execTqry_canonical h,
    execTwait_canonical h, execTget_canonical h, execTstv_canonical h, .next h.finish, .next h.makeNode, .next h.makeNode, execTmma_canonical h,
    .next h.makeNode, execTidx_canonical h, .next h.makeNode, execTforce_canonical h, execTforceM_canonical h, .next h.finish,
    .next h.bindHandle.done, .next h.clearHandles.done, execTadam_canonical h, execTfill_canonical h, execTldp_canonical h, execTstp_canonical h,
    execMringSet_canonical h, execMringPush_canonical h, .next (h.matrixSpace (fun _ h1 => h1.answer.ite h1.setMatrix.answer)),
    execMma_canonical h, .next (h.matrixSpace (fun _ h1 => h1.trapMe.ite (h1.parkMe.ite h1.setMatrix.queueMatrix))),
    .next (h.matrixSpace (fun _ h1 => h1.queueMatrix)), execMepi_canonical h, .next (h.matrixSpace (fun _ h1 => h1.queueMatrix)),
    execMdrain_canonical h, .next (h.matrixSpace (fun _ h1 => h1.answer)), .next (h.matrixSpace (fun _ h1 => h1.answer)),
    .next (h.matrixSpace (fun _ h1 => h1.setMatrix.answer)), .next (h.telInstr (fun _ _ h1 => h1.parkMe) (fun _ h1 => h1.done)),
    .next (h.telInstr (fun _ _ h1 => h1.finish) (fun _ h1 => h1.finish)), .next h.telAnswer,
    .ite (.next h.parkCounted) (.next h.selfInvalidate.doneX), .next h.setMe, execSpawn_canonical h, execMig_canonical h, .next h.moveTo,
    execExit_canonical h, .ite (.next h.parkMe) (.next h.done.suspend), h.postInstr, h.postInstr, h.postInstr, h.postInstr,
    .ite (.next h.trapMe) (.ite (.next h.trapMe) h.loadRcbWord), execRcbopSet_canonical h, execRcbopCreate_canonical h, h.setRcbState,
    h.setRcbState, h.setRcbState, .ite (.next h.done) (.next h.parkCounted.at), execJoin_canonical h, h.loadRcbWord, execDreg_canonical h,
    execDregU_canonical h, .next h.doneLong, .next h.setRev, .next h.setRev, .next h.finish, execDadj_canonical h, execDadjL_canonical h,
    execDadjX_canonical h, execDadjP_canonical h, execDseed_canonical h, execDseedV_canonical h, execDseedT_canonical h, .next h.finish,
    .next (h.doneLong.ite (h.doneLong.ite (h.popEntry (fun _ h1 => h1.doneLong) (fun _ h1 => h1.doneLong)))), execTapeRewind_canonical h,
    .next h.finish, execDclr_canonical h, execDclrR_canonical h, execDclrT_canonical h, .next h.trapMe, execTrapRet_canonical h,
    .next h.superTrap, .next h.firmwareTrap, .next h.setMe, .next h.finish, execSput_canonical h, h.tlbi, h.tlbi, h.tlbi, h.tlbi,
    .next (h.doneLong.ite (h.doneLong.ite h.countContext.seat.doneLong)), .next (h.foldl fun _ _ h1 => h1.writeBackImage).doneLong,
    .next h.doneLong, .next h.preemptInstr, .next h.preemptInstr, .next (h.doneLong.ite (h.update.foldl fun _ _ h1 => h1.draw.at).setMe),
    .next (h.update.foldl fun _ _ h1 => h1.modCtx.limitAgain).doneLong, .next h.doneLong,
    .next (h.doneLong.ite (h.doneLong.ite h.update.doneLong)), execKeyopLoad_canonical h,
    .next (h.doneLong.ite (h.doneLong.ite h.update.discardKey.doneLong)), .next h.doneLong, .next h.finish, .next h.finish,
    execErrqPop_canonical h, .next h.setDie.doneLong, .next ((h.setDie.ite h.setDie.post).doneLong.ite h.doneLong),
    .next (h.done.ite h.parkMe.setMe), execAbind_canonical h, .next (h.parkResult.ite (h.parkResult.ite (h.parkResult.ite h.update.parkResult))),
    .next h.subscription, .next h.subscription, execAbindX_canonical h, .next h.update.parkResult,
    .next ((h.ite h.setLink).parkResult.ite (h.draw.setLink.parkResult.ite h.parkResult)), .next h.xred, .next h.xred,
    h.lstatOf (fun _ => h.doneLong), h.lstatOf (fun _ => h.doneLong), .next h.doneLong, execIcsyncInvalidateAtCore_canonical h,
    execPageOpSlotGrant_canonical h, execPageSweepAtCore_canonical h, execPageOpCompletion_canonical h, execPageQueueRetry_canonical h,
    .next h.applyStat.modCtx, .next h.modCtx.syncImage,
    .next (h.setCell.forgetArray.forgetArray.modCtx.wakeAgain.ite h.setCell.forgetArray.forgetArray.modCtx), execMintReference_canonical h,
    execMintDrop_canonical h, execMintReserve_canonical h, .next h.create.mintReply, .next h.unpin, execMintReplyArrival_canonical h,
    execVersionWakeArrival_canonical h, .next (h.charge.ite h).retryStalled, execForceNodeStep_canonical h, execForceCompletion_canonical h,
    execPoolSourceCopy_canonical h, execLockedStoreRelease_canonical h, execMatrixCommandAtHead_canonical h, execKstepGrant_canonical h,
    execKstepRetire_canonical h, execEpilogueRow_canonical h, execMdrainCompletion_canonical h, execTellerOpStart_canonical h,
    execRedaddSegment_canonical h, execTellerFault_canonical h, execTellerOpCompletion_canonical h, execUserEventEntry_canonical h,
    execSleepTimeReached_canonical h, execDispatcherRecordArrival_canonical h, execSpillRefill_canonical h, .next h.setDispatcher,
    execPlacement_canonical h, execMigrationPacketArrival_canonical h,
    .ite (.next h) (.ite (.next h) (.ite (.next h.setCtx.at) (.next h.suspend))), execStallLimitExpiry_canonical h, .next (h.setCore.ite h),
    .next h.modCtx.writeThrough, execAdjointTileContribution_canonical h, execCfenceFence_canonical h, execCfenceRestore_canonical h,
    execCreset_canonical h, .next (h.setCell.foldl fun _ _ h1 => h1.setCore), execSlretEnter_canonical h, execSlretWake_canonical h, .next h,
    execTsplitWrite_canonical h, execTarenaWrite_canonical h, execSevtClear_canonical h, .next (h.shootDown.at.ite h.shootDown.ackPlane6),
    execPreemptArrival_canonical h, .next (h.dropImage.ite h),
    .ite (.next h) (.ite (.next h.postFront.postFront) (.ite (.next h.post) (.next h.holdLine))), .next h.modCtx.killThread,
    execHaltTreeArrival_canonical h, execXredContributionAtRoot_canonical h, execXredRootTimeout_canonical h, execXredResultArrival_canonical h,
    .ite (.next h) (.next h.icachePut.enterLine), execLongResultArrival_canonical h, execLineFillArrival_canonical h, execFillAtHome_canonical h,
    execPoolBankAccess_canonical h, execWriteThroughAtHome_canonical h, execWriteBackMerge_canonical h, .next h.modCtx,
    execAtomicAtHome_canonical h, execContributionAtHome_canonical h, .next h.modCtx, execReleaseAtHome_canonical h,
    execAcquireAtHome_canonical h, execDrainCommandArrival_canonical h, execDrainCompletion_canonical h, execBarrierArrivalAtHome_canonical h,
    execWaitRegistration_canonical h, execWakeAtHome_canonical h, .ite (.next h) (.next (h.selfInvalidate.ite h).wakeWith),
    .ite (.next h.post) (.next h.post), .ite (.next h.setSlice.expire) (.next h), .next h.requeue.post, execGetsAtHome_canonical h,
    execGetmAtHome_canonical h, execPutmAtHome_canonical h, execPuteAtHome_canonical h, execForwardedRequest_canonical h,
    execInvalidateAtProxy_canonical h, execDeliverRetry_canonical h, .next (h.countError.laneError.setDie.queueError.ite h.countError.laneError),
    .next h.draw.markData.queueError, execErrorWindowEnd_canonical h, .next ((h.setDie.ite h.setDie.raiseEvent).ite h.setDie),
    execColdReset_canonical, .next h.update, .next h.raiseEvent, .next h.raiseEvent, .next (h.ite h.setLink), .next h.update,
    execLinkMessageArrival_canonical h, execRemoteWordAccess_canonical h, execRemoteKeyRequest_canonical h,
    .next (h.foldl fun _ _ h1 => h1.noticeAt), execShadowFetchReply_canonical h, execHostHdmAccess_canonical h, execBisnpResponse_canonical h,
    execHostSnoop_canonical h, execHostFillReply_canonical h, execBridgeDeviceAccess_canonical h, .next h.update]

/-! ## Issue -/

theorem State.Canonical.runInsn (h : s.Canonical) {w i} : (s.runInsn w i).Canonical := by
  unfold State.runInsn
  split
  · exact .next h.trapMe
  · split
    · exact .next h.trapMe
    · exact .next h.setMe
    · split
      · exact .next h.trapMe
      · exact exec_canonical h.setMe

theorem State.Canonical.fetchImage (h : s.Canonical) {tid need missing} : (s.fetchImage tid need missing).Canonical :=
  h.modCtx.foldl fun _ _ h1 => h1.post

theorem State.Canonical.issue (h : s.Canonical) {tid} : (s.issue tid).Canonical := by
  simp only [State.issue]
  split
  · exact .next (State.Canonical.trapMe (.ite h.update h.update.landStores))
  · exact State.Canonical.runInsn (.ite h.update h.update.landStores)

theorem State.Canonical.goOn (h : s.Canonical) {tid} : (s.goOn tid).Canonical := by
  simp only [State.goOn]
  split
  · exact h
  · split
    next u hu => exact (State.Canonical.runInsn (.ite h.update h.update.landStores) u hu).update
    · exact h

theorem State.Canonical.equip (h : s.Canonical) {tid} : (s.equip tid).Canonical := by
  simp only [State.equip]
  split
  · split
    · split
      · exact h.modCtx.fetchLine
      · exact h.modCtx.fetchLine.fetchImage
    · exact h.modCtx.fetchLine
  · split
    · split
      · exact h
      · exact h.fetchImage
    · exact h

theorem State.Canonical.takeEvent (h : s.Canonical) {tid} : (s.takeEvent tid).Canonical := by
  simp only [State.takeEvent]
  split
  · split
    · exact (execUserEventEntry_canonical h _ ‹_›).equip
    · exact h
  · exact h

theorem State.Canonical.prepare (h : s.Canonical) {tid} : (s.prepare tid).Canonical := h.ite (h.equip.goOn.equip.ite h.equip).takeEvent
theorem State.Canonical.prepareCore (h : s.Canonical) {core} : (s.prepareCore core).Canonical := h.ite (h.foldl fun _ _ h1 => h1.prepare)
theorem State.Canonical.finishAway (h : s.Canonical) {tid} : (s.finishAway tid).Canonical := h.goOn.syncImage
theorem State.Canonical.finishThose (h : s.Canonical) : s.finishThose.Canonical := h.foldl fun _ _ h1 => h1.finishAway
theorem State.Canonical.requeueReady (h : s.Canonical) : s.requeueReady.Canonical := h.foldl fun _ _ h1 => h1.requeue

theorem State.Canonical.issueTurn (h : s.Canonical) : s.issueTurn.Canonical := by
  simp only [State.issueTurn]
  split
  · exact .next h.tick.retryArrivals.finishThose.requeueReady
  · split
    · exact .next h.update.prepareCore
    · exact h.update.prepareCore.issue

/-! ## One step -/

theorem State.Canonical.happen (h : s.Canonical) : Out.Canonical s.happen := by
  simp only [State.happen]
  split
  · exact deliverEvent_canonical h.update
  · split
    · exact h.issueTurn
    · split
      · exact h.update.issueTurn
      · split
        · exact h.update.issueTurn
        · split
          · exact h.update.issueTurn
          · exact deliverEvent_canonical h.update.accept

theorem step_canonical (h : s.Canonical) : Out.Canonical (step s) := by
  unfold step
  split
  · exact .next (h.happen _ ‹_›).staleLines
  · exact h.happen

/-- Settles O59: the invariant `State.Canonical` holds of what every operation of a step gives, so of the step's outcome. -/
theorem memoryStaysCanonical : Obligations.MemoryStaysCanonical := fun _ t h e => step_canonical h t e

end Sys2Proof.Machine
end

section
/-! PROOFS. Where an access traps (O7): what `resolve` answers for every form of an address (R89, R90), the checks of a pool access of the
sector (R93), the order of a translation's checks (R98, R386), and that a refused address is the trap of LD and of ST (R100). -/

namespace Sys2Proof.Machine

/-! ## An address and its space -/

/-- A field of an address, cut out by its bits and by the pattern of its number. -/
theorem bitsOf_eq_extract (b : Word) (h l w : Nat) (hw : h + 1 - l = w := by rfl) : bitsOf b.toNat h l = (b.extractLsb' l w).toNat := by
  subst hw
  rw [BitVec.extractLsb'_toNat]
  rfl

theorem field_ne_zero (b : Word) (h l w : Nat) (hw : h + 1 - l = w := by rfl) : bitsOf b.toNat h l ≠ 0 ↔ b.extractLsb' l w ≠ 0 := by
  rw [bitsOf_eq_extract b h l w hw, BitVec.toNat_ne]
  rfl

theorem getLsbD_eq_bitOf (b : Word) (i : Nat) : b.getLsbD i = bitOf b.toNat i := rfl

section Resolve

variable {core : Nat} {b : Word} {disp : Int} {lane : Nat}

theorem resolve_reserved (h : b.extractLsb' 62 2 = 1) : resolve core b disp lane = .error (spaceTrap 1 (formed b disp) lane) := by
  have top : bitsOf b.toNat 63 62 = 1 := by rw [bitsOf_eq_extract b 63 62 2, h]; rfl
  simp only [resolve, top]

/-- A word-memory address, as its top bits give it (R89). -/
theorem resolve_word (h : b.extractLsb' 62 2 = 0) : resolve core b disp lane =
    if b.extractLsb' 53 9 ≠ 0 then .error (spaceTrap 2 (formed b disp) lane)
    else if (b.toNat % 2 ^ 53 : Nat) + disp < 0 ∨ (b.toNat % 2 ^ 53 : Nat) + disp ≥ 2 ^ 53 then .error (spaceTrap 3 (formed b disp) lane)
    else .ok (.word ((b.toNat % 2 ^ 53 : Nat) + disp).toNat) := by
  have top : bitsOf b.toNat 63 62 = 0 := by rw [bitsOf_eq_extract b 63 62 2, h]; rfl
  simp only [resolve, top, field_ne_zero b 61 53 9]

/-- Bit 63 set, the two top bits are 2 or 3 (R89). -/
theorem top_of_pool (h : b.getLsbD 63 = true) : bitsOf b.toNat 63 62 = 2 ∨ bitsOf b.toNat 63 62 = 3 := by
  have odd : b.toNat / 2 ^ 63 % 2 = 1 := by simpa [BitVec.getLsbD, Nat.testBit_eq_decide_div_mod_eq] using h
  simp only [bitsOf, Nat.shiftRight_eq_div_pow]
  omega

theorem resolve_no_pool (h : b.getLsbD 63 = true) (hp : poolAddr b core = none) :
    resolve core b disp lane = .error (spaceTrap 2 (formed b disp) lane) := by
  rcases top_of_pool h with top | top <;> simp only [resolve, top, hp]

theorem resolve_outside_pool {p : PoolAddr} (h : b.getLsbD 63 = true) (hp : poolAddr b core = some p)
    (out : p.off + disp < 0 ∨ 2 ^ 17 ≤ p.off + disp) : resolve core b disp lane = .error (spaceTrap 3 (formed b disp) lane) := by
  rcases top_of_pool h with top | top <;> simp only [resolve, top, hp, ge_iff_le, if_pos out]

theorem poolAddr_eq_none_iff : poolAddr b core = none ↔ b.getLsbD 63 = false ∨ b.extractLsb' 30 32 ≠ 0 := by
  have zero : (bitsOf b.toNat 61 30 ≠ 0) ↔ (b.extractLsb' 30 32 ≠ 0) := field_ne_zero b 61 30 32
  rw [← zero, getLsbD_eq_bitOf]
  simp only [poolAddr]
  split
  · simpa
  · next h => exact ⟨nofun, fun e => absurd e h⟩

theorem poolAddr_top {p : PoolAddr} (h : poolAddr b core = some p) : b.getLsbD 63 = true := by
  have form := mt poolAddr_eq_none_iff.2 (h ▸ Option.some_ne_none p)
  cases e : b.getLsbD 63
  · exact absurd (.inl e) form
  · rfl

/-- Both forms keep the offset in the pool (R90). -/
theorem poolAddr_off {p : PoolAddr} (h : poolAddr b core = some p) : p.off = b.toNat % 2 ^ 17 := by
  simp only [poolAddr] at h
  split at h
  · cases h
  · split at h <;> cases h <;> simp [bitsOf]

end Resolve

/-! ## A refused address, for LD and for ST -/

section Refused

variable {s : State} {f : F6} {a : R5} {m : MemOp} {t : Trap}

theorem ld_traps_of_place (h : s.place s.me { n := sizeOf104 f, r := true, rdup := true } 0 (s.me.xr m.b) m.disp.toInt = .error (.trap t)) :
    Traps (.ld f a m) s t := by
  rw [← accessSize_eq] at h
  change execLd f a m s = _
  simp [execLd, State.loadInstr, State.placeLanes, State.placeLane, h, allPass, stopsOf, firstStop, State.stopMe, State.trapMe]

/-- What the phase of every access of these bytes reports, LD traps with, and so does ST where its data register is not poisoned. -/
theorem traps_of_refused (h : ∀ need : Need, need.n = sizeOf104 f → need.align = true → need.noPool = none →
      s.place s.me need 0 (s.me.xr m.b) m.disp.toInt = .error (.trap t)) :
    Traps (.ld f a m) s t ∧ (s.me.rev = true ∨ s.me.xPois.find? a.toNat = none → Traps (.st f a m) s t) := by
  refine ⟨ld_traps_of_place (h _ rfl rfl rfl), fun clean => ?_⟩
  · have lane := h { n := accessSize f.toNat, w := true, store := true } (accessSize_eq f) rfl rfl
    have goes : (if s.me.rev then none else s.me.dataPoison (.x a 4 false)) = none := by
      rcases clean with e | e <;> simp [e, Ctx.dataPoison]
    change execSt f a m s = _
    simp [execSt, State.storeInstr, State.placeLanes, State.placeLane, lane, goes, allPass, stopsOf, firstStop, State.stopMe, State.trapMe]

/-- An address that does not resolve. -/
theorem traps_of_resolve (h : resolve s.me.core (s.me.xr m.b) m.disp.toInt 0 = .error (.trap t)) :
    Traps (.ld f a m) s t ∧ (s.me.rev = true ∨ s.me.xPois.find? a.toNat = none → Traps (.st f a m) s t) :=
  traps_of_refused fun need _ _ _ => by simp only [State.place, h]

/-- A word-memory address that is not aligned. -/
theorem traps_of_unaligned_word {va : Nat} (h : resolve s.me.core (s.me.xr m.b) m.disp.toInt 0 = .ok (.word va))
    (hm : va % sizeOf104 f ≠ 0) (ht : t = ⟨trapAddrAlign, sizeOf104 f, 0, formed (s.me.xr m.b) m.disp.toInt⟩) :
    Traps (.ld f a m) s t ∧ (s.me.rev = true ∨ s.me.xPois.find? a.toNat = none → Traps (.st f a m) s t) :=
  traps_of_refused fun need hn ha _ => by simp [State.place, h, State.placeWord, hn, ha, hm, ht]

/-- A pool address that is not aligned. -/
theorem traps_of_unaligned_pool {p : PoolAddr} (h : resolve s.me.core (s.me.xr m.b) m.disp.toInt 0 = .ok (.pool p))
    (hm : p.off % sizeOf104 f ≠ 0) (ht : t = ⟨trapAddrAlign, sizeOf104 f, 0, formed (s.me.xr m.b) m.disp.toInt⟩) :
    Traps (.ld f a m) s t ∧ (s.me.rev = true ∨ s.me.xPois.find? a.toNat = none → Traps (.st f a m) s t) :=
  traps_of_refused fun need hn ha hp => by simp [State.place, h, State.placePool, hn, ha, hp, hm, ht]

/-- A pool address of the sector that the bank's check refuses (R93). -/
theorem traps_of_bankRefuses {p : PoolAddr} {code : Nat} (h : resolve s.me.core (s.me.xr m.b) m.disp.toInt 0 = .ok (.pool p))
    (hm : p.off % sizeOf104 f = 0) (hs : sectorOf (cellOf p.pkgCore) = sectorOf (cellOf s.me.core))
    (hb : s.bankRefuses p.pkgCore p.off (sizeOf104 f) s.me.asid = some code)
    (ht : t = ⟨trapAddrSpace, code, 0, formed (s.me.xr m.b) m.disp.toInt⟩) :
    Traps (.ld f a m) s t ∧ (s.me.rev = true ∨ s.me.xPois.find? a.toNat = none → Traps (.st f a m) s t) :=
  traps_of_refused fun need hn ha hp => by simp [State.place, h, State.placePool, hn, ha, hp, hm, hs, hb, ht, spaceTrap]

end Refused

theorem toNat_mod_eq_zero {x : Int} (n : Nat) (h : 0 ≤ x) : x.toNat % n = 0 ↔ x % n = 0 := by
  obtain ⟨k, rfl⟩ := Int.eq_ofNat_of_zero_le h
  rw [Int.toNat_natCast]
  exact_mod_cast Iff.rfl

theorem addressSpaceTraps : Claims.AddressSpaceTraps := by
  intro s f a m b n disp ea both va off
  have word (h : b.extractLsb' 62 2 = 0) (h9 : b.extractLsb' 53 9 = 0) (h0 : 0 ≤ va) (h1 : va < 2 ^ 53) :
      resolve s.me.core b disp 0 = .ok (.word va.toNat) := by
    rw [resolve_word h, if_neg (not_not.2 h9), if_neg (by omega)]
  have pool {p : PoolAddr} (hp : poolAddr b s.me.core = some p) (h0 : 0 ≤ off) (h1 : off < 2 ^ 17) :
      resolve s.me.core b disp 0 = .ok (.pool { p with off := off.toNat }) := by
    have sum : off = p.off + disp := by rw [poolAddr_off hp]
    rw [sum] at h0 h1 ⊢
    exact resolve_pool 0 (poolAddr_top hp) hp h0 h1
  have form (h63 : b.getLsbD 63 = true) (h0 : b.extractLsb' 30 32 = 0) : ∃ p, poolAddr b s.me.core = some p :=
    Option.ne_none_iff_exists'.1 fun e => (poolAddr_eq_none_iff.1 e).elim (by simp [h63]) fun h => h h0
  refine ⟨fun h => traps_of_resolve (resolve_reserved h), fun h h9 => traps_of_resolve ?_, fun h h9 out => traps_of_resolve ?_,
    fun h h9 h0 h1 hm => traps_of_unaligned_word (word h h9 h0 h1) (mt (toNat_mod_eq_zero n h0).1 hm) rfl,
    fun h63 h => traps_of_resolve (resolve_no_pool h63 (poolAddr_eq_none_iff.2 (.inr h))),
    fun h63 h out => ?_, fun h63 h h0 h1 hm => ?_, fun p hp h0 h1 hm hs => ?_⟩
  · rw [resolve_word h, if_pos h9]
    rfl
  · rw [resolve_word h, if_neg (not_not.2 h9), if_pos out]
    rfl
  · obtain ⟨p, hp⟩ := form h63 h
    exact traps_of_resolve (resolve_outside_pool h63 hp (by rwa [poolAddr_off hp]))
  · obtain ⟨p, hp⟩ := form h63 h
    exact traps_of_unaligned_pool (pool hp h0 h1) (mt (toNat_mod_eq_zero n h0).1 hm) rfl
  · have refused {code : Nat} (hb : s.bankRefuses p.pkgCore off.toNat n s.me.asid = some code) : both ⟨0x07, code, 0, ea⟩ :=
      traps_of_bankRefuses (pool hp h0 h1) ((toNat_mod_eq_zero n h0).2 hm) hs hb rfl
    refine ⟨fun none => refused (by simp only [State.bankRefuses, none]), fun reg pad split =>
      ⟨fun out => refused ?_, fun lo hi other => refused ?_⟩⟩
    · have outside : (decide (off.toNat < reg) || decide (pad < off.toNat + n)) = true := by simp; omega
      simp only [State.bankRefuses, split, outside, if_true]
    · have inside : (decide (off.toNat < reg) || decide (pad < off.toNat + n)) = false := by simp; omega
      simp only [State.bankRefuses, split, inside, if_pos other, Bool.false_eq_true, if_false]

/-- The detail bits of a load that a leaf refuses (R386). -/
theorem permBits_read (s : State) (mode : Mode) (asid : Nat) (l : Leaf) : s.permBits mode asid l true false false =
    (if l.word.getLsbD 8 then 0 else 1) + (if mode = .user ∧ l.word.getLsbD 11 = false then 4 else 0) +
      (if s.keyOk mode asid l.key then 0 else 8) := by
  simp only [State.permBits, ← getLsbD_eq_bitOf]
  cases l.word.getLsbD 8 <;> cases l.word.getLsbD 11 <;> cases s.keyOk mode asid l.key <;> cases mode <;> rfl

theorem modeRefuses_of_mode {l : Leaf} (rdup : Bool) (h : l.mode = 3 ∨ 4 < l.mode) : modeRefuses l rdup = true := by
  unfold modeRefuses
  split
  · split
    · omega
    · omega
    · omega
    · omega
    · rfl
  · simp
    omega

section Translated

variable {s : State} {c : Ctx} {need : Need} {idx va : Nat} {a : Word} {l : Leaf}

/-- A walk that misses (R98 step 3, R386). -/
theorem placeWord_miss {level : Nat} (aligned : va % need.n = 0)
    (miss : s.leafFor c.core c.asid va need.w (fun l => s.permBits c.mode c.asid l need.r need.w false == 0) = .error level) :
    s.placeWord c need idx a va = .error (.trap ⟨trapXlateMiss, level, idx, BitVec.ofNat 64 va⟩) := by
  simp [State.placeWord, aligned, miss]

/-- A leaf that denies the access. -/
theorem placeWord_denied (aligned : va % need.n = 0)
    (found : s.leafFor c.core c.asid va need.w (fun l => s.permBits c.mode c.asid l need.r need.w false == 0) = .ok l)
    (denied : s.permBits c.mode c.asid l need.r need.w false ≠ 0) : s.placeWord c need idx a va =
      .error (.trap ⟨trapXlatePerm, s.permBits c.mode c.asid l need.r need.w false, idx, BitVec.ofNat 64 va⟩) := by
  simp [State.placeWord, aligned, found, denied]

/-- A leaf whose page mode refuses the access (R98 step 4, R102). -/
theorem placeWord_modeRefuses (aligned : va % need.n = 0)
    (found : s.leafFor c.core c.asid va need.w (fun l => s.permBits c.mode c.asid l need.r need.w false == 0) = .ok l)
    (granted : s.permBits c.mode c.asid l need.r need.w false = 0) (refused : modeRefuses l need.rdup = true) :
    s.placeWord c need idx a va = .error (.trap ⟨trapPageMode, l.mode, idx, BitVec.ofNat 64 va⟩) := by
  simp [State.placeWord, aligned, found, granted, refused]

end Translated

theorem translationTraps : Claims.TranslationTraps := by
  intro s f a m va hr aligned c w leaf
  have ld {t : Trap} (h : s.placeWord c { n := sizeOf104 f, r := true, rdup := true } 0 (formed (c.xr m.b) m.disp.toInt) va = .error (.trap t)) :
      Traps (.ld f a m) s t := ld_traps_of_place (by simpa only [State.place, hr] using h)
  refine ⟨fun n miss => ld (placeWord_miss aligned miss), ?_, fun t => s.trapMe_mem t⟩
  intro l found key d
  have bits : s.permBits c.mode c.asid l true false false = d := permBits_read s c.mode c.asid l
  refine ⟨fun denied => ld ?_, fun granted refused => ld ?_⟩
  · rw [← bits] at denied ⊢
    exact placeWord_denied aligned found denied
  · exact placeWord_modeRefuses aligned found (bits.trans granted) (modeRefuses_of_mode _ refused)

/-- Settles O7: what `resolve` and the bank's check answer for each form of an address, and the order of the checks of a translated access;
whatever the phase reports, LD and ST trap with. -/
theorem addressTraps : Obligations.AddressTraps := ⟨addressSpaceTraps, translationTraps⟩

end Sys2Proof.Machine
end

section
/-! PROOFS. What the home of a line leaves of the machine's front: its threads, cores and cells (R119 to R121, R131, R162 to R165). A line read or
written at its home has a way of its slice. -/

namespace Sys2Proof.Machine

/-- The thread in issue, the threads, the cores and the cells: what no operation of a line's home changes. -/
def State.front (s : State) : Nat × SMap Ctx × SMap Core × SMap Cell := (s.cur, s.threads, s.cores, s.cells)

section Parts

variable {s t : State} (h : t.front = s.front)
include h

theorem State.cur_of_front : t.cur = s.cur := congrArg Prod.fst h

theorem State.threads_of_front : t.threads = s.threads := congrArg (·.2.1) h

theorem State.cores_of_front : t.cores = s.cores := congrArg (·.2.2.1) h

theorem State.cells_of_front : t.cells = s.cells := congrArg (·.2.2.2) h

theorem State.ctx_of_front (k : Nat) : t.ctx k = s.ctx k := by rw [State.ctx, State.ctx, State.threads_of_front h]

theorem State.me_of_front : t.me = s.me := by rw [State.me, State.me, State.cur_of_front h, State.ctx_of_front h]

theorem State.core_of_front (k : Nat) : t.core k = s.core k := by rw [State.core, State.core, State.cores_of_front h]

theorem State.cell_of_front (k : Nat) : t.cell k = s.cell k := by rw [State.cell, State.cell, State.cells_of_front h]

end Parts

/-! ## Writes, tags and directory entries -/

@[simp] theorem State.post_front (s : State) (e : Event) : (s.post e).front = s.front := rfl
@[simp] theorem State.postFront_front (s : State) (e : Event) : (s.postFront e).front = s.front := rfl
@[simp] theorem State.draw_front (s : State) : s.draw.2.front = s.front := rfl
@[simp] theorem State.setSlice_front (s : State) (k : Nat) (c : Slice) : (s.setSlice k c).front = s.front := rfl
@[simp] theorem State.setDie_front (s : State) (k : Nat) (c : Die) : (s.setDie k c).front = s.front := rfl
@[simp] theorem State.write_front (s : State) (a n v : Nat) : (s.write a n v).front = s.front := rfl
@[simp] theorem State.tag_front (s : State) (line : Nat) : (s.tag line).2.front = s.front := rfl
@[simp] theorem State.setSeq_front (s : State) (line n : Nat) : (s.setSeq line n).front = s.front := rfl
@[simp] theorem State.putDir_front (s : State) (line : Nat) (d : Option Dir) : (s.putDir line d).front = s.front := rfl
@[simp] theorem State.dropProxy_front (s : State) (line die : Nat) : (s.dropProxy line die).front = s.front := rfl
@[simp] theorem State.writeLine_front (s : State) (line v mask : Nat) : (s.writeLine line v mask).front = s.front := rfl
@[simp] theorem State.markLine_front (s : State) (line : Nat) (m w : BitVec 16) : (s.markLine line m w).front = s.front := rfl

@[simp] theorem State.writeMarked_front (s : State) (a n v : Nat) (bad : Bool) : (s.writeMarked a n v bad).front = s.front := by
  cases bad <;> rfl

@[simp] theorem State.setNff_front (s : State) (k : Nat) (b : Bool) : (s.setNff k b).front = s.front := by
  cases b <;> rfl

@[simp] theorem State.awake_front (s : State) (k : Nat) : (s.awake k).front = s.front := by
  unfold State.awake
  split <;> rfl

/-! ## Copies and recalls -/

@[simp] theorem State.dropProxies_front (s : State) (line : Nat) (ds : List Nat) :
    (ds.foldl (fun s d => s.dropProxy line d) s).front = s.front :=
  foldl_keeps State.front (fun (s : State) d => s.dropProxy line d) (fun s d => s.dropProxy_front line d) ds s

@[simp] theorem State.copyHome_front (s : State) (line die : Nat) : (s.copyHome line die).front = s.front := by
  unfold State.copyHome
  split
  · rfl
  · split <;> simp

@[simp] theorem State.bringHome_front (s : State) (line die : Nat) : (s.bringHome line die).front = s.front := by
  unfold State.bringHome
  split
  · rfl
  · split <;> simp

@[simp] theorem State.recall_front (s : State) (line : Nat) : (s.recall line).front = s.front := by
  unfold State.recall
  split <;> simp

/-! ## Tills -/

@[simp] theorem State.foldAddr_front (s : State) (a : Nat) : (s.foldAddr a).front = s.front := by
  simp only [State.foldAddr]
  split <;> simp

@[simp] theorem State.foldLine_front (s : State) (line : Nat) : (s.foldLine line).front = s.front :=
  foldl_keeps State.front State.foldAddr State.foldAddr_front _ s

/-! ## Ways of a slice -/

@[simp] theorem State.pageErrors_front (s : State) (line : Nat) : (s.pageErrors line).front = s.front := by
  refine foldl_keeps State.front _ (fun s e => foldl_keeps State.front _ (fun s x => ?_) _ s) _ s
  dsimp only
  split <;> rfl

@[simp] theorem State.l2Evict_front (s : State) (k line : Nat) : (s.l2Evict k line).front = s.front := by
  simp only [State.l2Evict]
  split
  · rfl
  · split <;> rfl

@[simp] theorem State.l2Take_front (s : State) (line die : Nat) : (s.l2Take line die).front = s.front := by
  simp only [State.l2Take]
  split
  · rfl
  · split <;> simp

theorem State.mem_l2Take (s : State) (line die : Nat) : line ∈ ((s.l2Take line die).slice (sliceAt die (sliceIndex line))).l2 := by
  simp only [State.l2Take]
  split
  next h => exact List.contains_iff_mem.1 h
  next => simp

@[simp] theorem State.setProxy_front (s : State) (line die : Nat) (p : Proxy) : (s.setProxy line die p).front = s.front :=
  s.l2Take_front line die

@[simp] theorem State.downgrade_front (s : State) (line : Nat) : (s.downgrade line).front = s.front := by
  unfold State.downgrade
  split
  · split
    · split <;> simp
    · simp
  · simp
  · rfl

@[simp] theorem State.homeRead_front (s : State) (line : Nat) : (s.homeRead line).front = s.front := by
  simp [State.homeRead]

@[simp] theorem State.homeWrite_front (s : State) (line : Nat) : (s.homeWrite line).front = s.front := by
  simp [State.homeWrite]

theorem State.mem_homeRead (s : State) (line : Nat) : line ∈ ((s.homeRead line).slice (homeSlice line)).l2 :=
  State.mem_l2Take _ _ _

/-! ## Waiters and drains -/

@[simp] theorem State.startDrain_front (s : State) (line : Nat) (cores : List Nat) (d : Drain) : (s.startDrain line cores d).front = s.front := by
  simp only [State.startDrain]
  split
  · rfl
  · exact foldl_keeps State.front (fun (s : State) q => s.post (.drainCommandArrival q _)) (fun _ _ => rfl) _ _

@[simp] theorem State.satisfy_front (s : State) (w : Waiter) : (s.satisfy w).front = s.front := by
  simp only [State.satisfy]
  split <;> simp

@[simp] theorem State.walkWaiters_front (s : State) (line : Nat) : (s.walkWaiters line).front = s.front :=
  foldl_keeps State.front State.satisfy State.satisfy_front _ _

@[simp] theorem State.homeStore_front (s : State) (a n v : Nat) (bad : Bool) : (s.homeStore a n v bad).2.front = s.front := by
  simp [State.homeStore]

/-! ## The end of an address phase -/

@[simp] theorem State.touchLeaf_front (s : State) (l : Leaf) (store : Bool) : (s.touchLeaf l store).2.front = s.front := by
  simp only [State.touchLeaf]
  generalize 2 ^ 13 + (if store = true then 2 ^ 12 else 0) = bits
  split
  · rfl
  · split <;> simp

/-- The end of a phase changes bytes and translation caches, no thread (R98). -/
theorem State.settle_cur (s : State) (core asid : Nat) (store : Bool) (p : Place) : (s.settle core asid store p).cur = s.cur := by
  unfold State.settle
  split
  · rfl
  next l _ => exact (State.cur_of_front (s.touchLeaf_front l store) :)

theorem State.settle_threads (s : State) (core asid : Nat) (store : Bool) (p : Place) : (s.settle core asid store p).threads = s.threads := by
  unfold State.settle
  split
  · rfl
  next l _ => exact (State.threads_of_front (s.touchLeaf_front l store) :)

theorem State.settle_ctx (s : State) (core asid : Nat) (store : Bool) (p : Place) (k : Nat) :
    (s.settle core asid store p).ctx k = s.ctx k := by
  rw [State.ctx, State.ctx, s.settle_threads]

end Sys2Proof.Machine
end

section
/-! PROOFS. PREF and CMO (O9): what each does for each answer of its phase (R113, R114), and how the prefetch into a home slice ends
(R96, R162). -/

namespace Sys2Proof.Machine

/-! ## Prefetch -/

theorem State.ctx_done (s : State) : s.done.ctx s.cur = s.me.advance := State.setMe_ctx s _

section Prefetch

variable {s : State} {f : F6} {m : MemOp}

theorem exec_pref_refused {e : Stop}
    (h : s.place s.me { n := 1, r := true, rdup := true, noPool := some 1 } 0 (s.me.xr m.b) m.disp.toInt = .error e) :
    exec (.pref f m) s = .next s.done := by
  change execPref f m s = _
  simp [execPref, h]

/-- The outcome goes on from a state with the same threads and bytes, and sends one message at most. -/
def GoesOnFrom (s : State) (o : Out State) : Prop :=
  ∃ u : State, u.cur = s.cur ∧ u.threads = s.threads ∧ u.mem = s.mem ∧ (o = .next u.done ∨ ∃ e, o = .next (u.done.post e))

theorem GoesOnFrom.done {s t : State} (cur : t.cur = s.cur) (threads : t.threads = s.threads) (mem : t.mem = s.mem) :
    GoesOnFrom s (.next t.done) :=
  ⟨t, cur, threads, mem, .inl rfl⟩

/-- A fill that a free value may drop. -/
theorem GoesOnFrom.fill {s t : State} (cur : t.cur = s.cur) (threads : t.threads = s.threads) (mem : t.mem = s.mem) (l : Lane) (home : Bool) :
    GoesOnFrom s (if laneBound l then .next t.done else .next (if t.draw.1.getLsbD 0 then t.draw.2.done
      else t.draw.2.done.post (.fillAtHome ⟨⟨t.draw.2.src, [l], .none, home, false⟩, []⟩))) := by
  split
  · exact .done cur threads mem
  · refine ⟨t.draw.2, cur, threads, mem, ?_⟩
    split
    · exact .inl rfl
    · exact .inr ⟨_, rfl⟩

/-- PREF goes on, past the translation caches and a draw at most, and sends at most the fill (R113). -/
theorem exec_pref_goesOn (s : State) (f : F6) (m : MemOp) : GoesOnFrom s (exec (.pref f m) s) := by
  change GoesOnFrom s (execPref f m s)
  simp only [execPref]
  split
  · exact .done rfl rfl rfl
  next p _ =>
    split
    · exact .done rfl rfl rfl
    · cases p.leaf with
      | none => exact .fill rfl rfl rfl _ _
      | some leaf => exact .fill (t := s.fillTlbs s.me.core s.me.asid p.lane.va leaf) rfl rfl rfl _ _

theorem prefetch_l2 {p : Place} {e : Leaf}
    (h : s.place s.me { n := 1, r := true, rdup := true, noPool := some 1 } 0 (s.me.xr m.b) m.disp.toInt = .ok p) (device : p.target = .hbm)
    (leaf : p.leaf = some e) (free : s.pageHolding p.lane.pa = none) (unbound : p.lane.kmask = 0) :
    let line : Lane := { p.lane with pa := p.lane.pa / 128 * 128, n := 128 }
    let t := (s.fillTlbs s.me.core s.me.asid p.lane.va e).draw
    exec (.pref 1 m) s = .next (if t.1.getLsbD 0 then t.2.done
      else t.2.done.post (.fillAtHome ⟨⟨t.2.src, [line], .none, true, false⟩, []⟩)) := by
  intro line t
  change execPref 1 m s = _
  have goes : ¬(p.target ≠ .hbm ∨ (!((1 : F6).toNat == 1) && s.cacheSets s.me.core == 0) = true ∨
      (s.pageHolding p.lane.pa).isSome = true) := by
    simp [device, free]
  have home : ((1 : F6).toNat == 1) = true := rfl
  have away : ¬laneBound line = true := by simp [line, laneBound, unbound]
  simp only [execPref, h]
  rw [if_neg goes]
  simp only [leaf, home, if_true]
  exact if_neg away

end Prefetch

theorem State.tagCopies_na (s : State) (die : Nat) {q : MemReq} (na : q.na = true) : s.tagCopies die q = s := if_pos na

theorem State.slice_post (s : State) (e : Event) (k : Nat) : (s.post e).slice k = s.slice k := rfl

/-- The prefetch of a line at its home: the line takes a way, and no core is changed (R113, R162). -/
theorem fill_takes_way {s : State} {src : Src} {l : Lane} (route : laneRoute src.core l = 3)
    (free : s.pageHolding (128 * (l.pa / 128)) = none) : ∃ u, exec (.fillAtHome ⟨⟨src, [l], .none, true, false⟩, []⟩) s = .next u ∧
      l.pa / 128 ∈ (u.slice (homeSlice (l.pa / 128))).l2 ∧ u.cores = s.cores := by
  have one : unboundLines ⟨src, [l], .none, true, false⟩ = [(l.pa / 128, l.mode)] := by simp [unboundLines, route, lineOf]
  have near := State.lineFor_near (s := s) (line := l.pa / 128) (die := dieOf src.core) (mode := l.mode) (na := true) (Bool.true_or _)
  have reads := exec_fillAtHome_read (skip := []) one free near
  have untagged := State.tagCopies_na (s.homeRead (l.pa / 128)) (dieOf src.core) (q := ⟨src, [l], .none, true, false⟩) rfl
  rw [untagged] at reads
  refine ⟨_, reads, ?_, ?_⟩
  · rw [State.slice_post]
    exact s.mem_homeRead _
  · rw [State.post_cores, State.cores_of_front (s.homeRead_front _)]

/-- Its answer installs nothing: every lane is bound and no register waits (R96, R113). -/
theorem prefetch_arrival {s : State} {src : Src} {l : Lane} (bound : laneRoute src.core l = 0) (ls : List (Nat × BitVec 1024 × BitVec 16)) :
    exec (.lineFillArrival ⟨src, [l], .none, true, false⟩ ls) s = .next s := by
  rw [exec_lineFillArrival_na rfl]
  simp [State.routeLoad, State.bindNear, bound]

theorem prefetchCompletes : Claims.PrefetchCompletes := by
  intro s f m
  refine ⟨?_, fun e h => completesFrom_done (exec_pref_refused h), fun p e h device leaf free unbound => prefetch_l2 h device leaf free unbound,
    fun src l ls => ⟨fill_takes_way, fun bound => prefetch_arrival bound ls⟩⟩
  obtain ⟨u, cur, threads, mem, ends⟩ := exec_pref_goesOn s f m
  have me : u.me = s.me := by rw [State.me, State.me, State.ctx, State.ctx, cur, threads]
  have thread : u.done.ctx s.cur = s.me.advance := by rw [← cur, State.ctx_done, me]
  rcases ends with ends | ⟨e, ends⟩
  · exact ⟨_, ends, thread, mem⟩
  · exact ⟨_, ends, thread, mem⟩

/-! ## Cache maintenance -/

section Cmo

variable {s : State} {m : MemOp}

theorem exec_cmoClean (s : State) (m : MemOp) : exec (.cmoClean m) s = s.cmo m fun l s => s.cleanLine (some s.cur) s.me.core l := rfl

theorem exec_cmoFlush (s : State) (m : MemOp) : exec (.cmoFlush m) s = s.cmo m fun l s => s.flushLine (some s.cur) s.me.core l := rfl

theorem exec_cmoInval (s : State) (m : MemOp) : exec (.cmoInval m) s = s.cmo m fun l s => s.flushLine (some s.cur) s.me.core l := rfl

theorem exec_cmo_pool (h : s.placeCmo s.me false m = .ok none) : exec (.cmoClean m) s = .next s.done ∧ exec (.cmoFlush m) s = .next s.done ∧
    exec (.cmoInval m) s = .next s.done := by
  have pool (act : Nat → State → State) : s.cmo m act = .next s.done := by simp only [State.cmo, h]
  exact ⟨(exec_cmoClean s m).trans (pool _), (exec_cmoFlush s m).trans (pool _), (exec_cmoInval s m).trans (pool _)⟩

theorem exec_cmoZero_pool (h : s.placeCmo s.me true m = .ok none) : exec (.cmoZero m) s = .next s.done := by
  change execCmoZero m s = _
  simp only [execCmoZero, h]

/-- A line's place: the action on the line, after the end of the phase. -/
theorem State.cmo_line {act : Nat → State → State} {p : Place} (h : s.placeCmo s.me false m = .ok (some p)) :
    s.cmo m act = .next (act (laneTag p.lane) (s.settle s.me.core s.me.asid false p)).done := by
  simp only [State.cmo, h]

end Cmo

theorem cacheMaintenance : Claims.CacheMaintenance := by
  intro s m c
  refine ⟨fun z h => ?_, fun p h => ?_, fun p h => ?_⟩
  · cases z with
    | true => exact ⟨completesFrom_done (exec_cmoZero_pool h), nofun⟩
    | false =>
      obtain ⟨clean, flush, inval⟩ := exec_cmo_pool h
      exact ⟨completesFrom_done clean, fun _ => ⟨completesFrom_done flush, completesFrom_done inval⟩⟩
  · rw [← s.settle_cur c.core c.asid false p]
    exact ⟨(exec_cmoClean s m).trans (State.cmo_line h), (exec_cmoFlush s m).trans (State.cmo_line h),
      (exec_cmoInval s m).trans (State.cmo_line h)⟩
  · change execCmoZero m s = _
    simp only [execCmoZero, c, h]
    rfl

/-- Settles O9: PREF from the one state it goes on from (`exec_pref_goesOn`) and the fill of its line at the home; CMO from what `placeCmo`
answers. -/
theorem prefetchAndCache : Obligations.PrefetchAndCache := ⟨prefetchCompletes, cacheMaintenance⟩

end Sys2Proof.Machine
end

section
/-! PROOFS. AMO and CAS at a bank of the sector (O10): what the bank's arithmetic on numbers says of words (R123), the address phase of an
atomic there, and the answer; and the refusal of a pool address by what needs a home slice (R100, R117). -/

namespace Sys2Proof.Machine

/-! ## The operations, on words -/

/-- What AMO makes of an old word and an operand (R123). -/
def amoWord {w : Nat} (op : Nat) (old y : BitVec w) : BitVec w :=
  match op with
  | 0 => old + y
  | 1 => old &&& y
  | 2 => old ||| y
  | 3 => old ^^^ y
  | 4 => if old.sle y then old else y
  | 5 => if y.sle old then old else y
  | 6 => if old ≤ y then old else y
  | 7 => if y ≤ old then old else y
  | _ => y

theorem signedOf_mod (w n : Nat) : signedOf w (n % 2 ^ w) = signedOf w n := by
  simp only [signedOf, Nat.mod_mod]

theorem signedOf_ofNat {w : Nat} (n : Nat) (hw : 0 < w) : signedOf w n = (BitVec.ofNat w n).toInt := by
  rw [← signedOf_toNat _ hw, BitVec.toNat_ofNat, signedOf_mod]

theorem amoValue_eq {n old : Nat} (op b : Nat) (hn : 0 < n) (hold : old < 2 ^ (8 * n)) :
    amoValue op n old b = (amoWord op (BitVec.ofNat (8 * n) old) (BitVec.ofNat (8 * n) b)).toNat := by
  have hw : 0 < 8 * n := Nat.mul_pos (by decide) hn
  have same : (BitVec.ofNat (8 * n) old).toNat = old := by rw [BitVec.toNat_ofNat, Nat.mod_eq_of_lt hold]
  have low : (BitVec.ofNat (8 * n) b).toNat = b % 2 ^ (8 * n) := BitVec.toNat_ofNat _ _
  unfold amoWord
  split
  case h_5 | h_6 =>
    simp only [amoValue, signedOf_ofNat _ hw, BitVec.sle, decide_eq_true_eq, ge_iff_le]
    split <;> simp only [same, low]
  case h_7 | h_8 =>
    simp only [amoValue, BitVec.le_def, same, low, ge_iff_le]
    split <;> simp only [same, low]
  case h_9 => 
    simp only [amoValue, low]
  all_goals simp [amoValue, same, low]

theorem valueOf_lt (bs : List Byte) : valueOf bs < 2 ^ (8 * bs.length) := by
  have whole := valueOf_bytesOf bs.length (valueOf bs)
  rw [bytesOf_valueOf] at whole
  rw [whole]
  exact Nat.mod_lt _ (Nat.two_pow_pos _)

theorem State.read_lt (s : State) (a n : Nat) : s.read a n < 2 ^ (8 * n) := by
  have := valueOf_lt (s.readBytes a n)
  rwa [State.length_readBytes] at this

theorem State.read_congr {s t : State} (h : t.mem = s.mem) (a n : Nat) : t.read a n = s.read a n := by
  have bytes : t.readBytes a n = s.readBytes a n :=
    List.ext_getElem (by simp) fun k _ _ => by rw [State.getElem_readBytes, State.getElem_readBytes, State.byte_congr h]
  rw [State.read, State.read, bytes]

theorem sextWord_eq {w : Nat} (n : Nat) (hw : 0 < w) : sextWord w n = (BitVec.ofNat w n).signExtend 64 := by
  rw [sextWord, signedOf_ofNat n hw]
  rfl

/-! ## The address phase -/

/-- An access of the sector passes the phase, whatever it does with its bytes (R93, R98). -/
theorem place_near {s : State} {base : Word} {disp : Int} {n u : Nat} {need : Need} (hn : need.n = n) (hd : n ∣ 8) (pools : need.noPool = none)
    (h : NearPool s base disp n u) : ∃ p : PoolAddr, u = poolBase p.pkgCore + bankOff p ⟨0, base, disp, 0⟩ ∧
      s.place s.me need 0 base disp = .ok (bankOk p n ⟨0, base, disp, 0⟩).place := by
  obtain ⟨p, hp, hu, h0, h1⟩ := h.core
  have at_ : u = poolBase p.pkgCore + bankOff p ⟨0, base, disp, 0⟩ := by
    simp only [bankOff]
    omega
  refine ⟨p, at_, ?_⟩
  rw [at_] at h
  obtain ⟨-, -, inPool⟩ := bankOff_of_near (l := ⟨0, base, disp, 0⟩) hp h
  have core := poolCore_poolBase p.pkgCore _ inPool
  have aligned := mod_eq_zero_of_pool hd h.aligned
  have sector := h.sector
  have space := h.space
  have free := h.free
  obtain ⟨r, e, split, lo, hi⟩ := h.pad
  rw [poolBase_add_mod _ _ inPool] at lo hi
  rw [core] at sector space free split
  have pkg : ({ p with off := bankOff p ⟨0, base, disp, 0⟩ } : PoolAddr).pkgCore = p.pkgCore := rfl
  have accepts : s.bankRefuses p.pkgCore (bankOff p ⟨0, base, disp, 0⟩) n s.me.asid = none := by
    simp [State.bankRefuses, split, space, Nat.not_lt.2 lo, Nat.not_lt.2 hi]
  have off : (p.off + disp).toNat = bankOff p ⟨0, base, disp, 0⟩ := rfl
  simp [State.place, resolve_pool 0 h.form.1 hp h0 h1, off, State.placePool, hn, pools, pkg, aligned, sector, accepts, free, lockHit, h.plain,
    regionOf, bankOk, bankLane]

/-! ## At the bank -/

section Bank

variable {s : State} {q : MemReq} {op : AtomOp} {l : Lane}

theorem State.parkMe_atomAtBank (s : State) (p : Park) (q : MemReq) (op : AtomOp) (l : Lane) :
    (s.parkMe p).atomAtBank q op l = ((s.atomAtBank q op l).1.parkMe p, (s.atomAtBank q op l).2) := by
  have gone : (s.parkMe p).coreGone (poolCore l.pa) = s.coreGone (poolCore l.pa) := rfl
  have read : (s.parkMe p).read l.pa l.n = s.read l.pa l.n :=
    State.read_congr (s := s) (t := s.parkMe p) rfl _ _
  have bad : (s.parkMe p).poisonAt l.pa l.n = s.poisonAt l.pa l.n := rfl
  simp only [State.atomAtBank, gone, read, bad]
  split
  · rfl
  · cases atomNew op l.n (s.read l.pa l.n) with
    | none => rfl
    | some v => cases (s.poisonAt l.pa l.n && atomDerives op) <;> rfl

theorem State.atomAtBank_front (s : State) (q : MemReq) (op : AtomOp) (l : Lane) : (s.atomAtBank q op l).1.front = s.front := by
  simp only [State.atomAtBank]
  split
  · rfl
  · cases atomNew op l.n (s.read l.pa l.n) with
    | none => rfl
    | some v => exact s.writeMarked_front _ _ _ _

theorem State.atomAtBank_snd (s : State) (q : MemReq) (op : AtomOp) (l : Lane) : (s.atomAtBank q op l).2 =
    atomWrites q op l (if s.coreGone (poolCore l.pa) then 0 else s.read l.pa l.n) 0 (!s.coreGone (poolCore l.pa) && s.poisonAt l.pa l.n) := by
  simp only [State.atomAtBank]
  split
  next h => simp [h]
  next h => simp [h]

theorem State.atomAtBank_writes {v : Nat} (fresh : atomNew op l.n (s.read l.pa l.n) = some v) : (s.atomAtBank q op l).1 =
    if s.coreGone (poolCore l.pa) then s else s.writeMarked l.pa l.n v (s.poisonAt l.pa l.n && atomDerives op) := by
  simp only [State.atomAtBank, fresh]
  split <;> rfl

theorem State.atomAtBank_keeps (fresh : atomNew op l.n (s.read l.pa l.n) = none) : (s.atomAtBank q op l).1 = s := by
  simp only [State.atomAtBank, fresh]
  split <;> rfl

end Bank

theorem State.parkMe_src (s : State) (p : Park) : (s.parkMe p).src = s.src := by
  simp [State.src, State.parkMe]

/-- An AMO or CAS of a lane at a bank of the sector is performed there and answered (R116, R123, R124). -/
theorem atomInstr_near {s : State} {n : Nat} {a : R5} {m : MemOp} {op : AtomOp} {p : Place}
    (placed : s.placeAtomic s.me { n := n, r := true, w := true, onlyDevice := some 6, remote := true, store := true } 0 (s.me.xr m.b)
      m.disp.toInt = .ok p) (unmapped : p.leaf = none) (route : laneRoute s.me.core p.lane = 1) :
    s.atomInstr n a m op = .next (((s.atomAtBank ⟨s.src, [p.lane], .x a n true, true, true⟩ op p.lane).1.parkMe .reply).post
      (.longResultArrival (Reply.of s.cur (s.atomAtBank ⟨s.src, [p.lane], .x a n true, true, true⟩ op p.lane).2 true))) := by
  have settled : s.settle s.me.core s.me.asid true p = s := by simp only [State.settle, unmapped]
  simp only [State.atomInstr, placed, settled, route, State.parkMe_src, State.parkMe_atomAtBank]
  rfl

/-- The answer of a bank of the sector to an AMO or CAS (R116, R119, R123, R124): the thread waits for the old value. -/
theorem waits_atomInstr_near {i : Instr} {s : State} {n u : Nat} {a : R5} {m : MemOp} {op : AtomOp} (hd : n ∣ 8)
    (he : exec i s = s.atomInstr n a m op) (h : NearPool s (s.me.xr m.b) m.disp.toInt n u) :
    ∃ (q : MemReq) (l : Lane), l.pa = u ∧ l.n = n ∧ WaitsFrom i s (s.atomAtBank q op l).1 .reply s.me.stage
      [.longResultArrival (Reply.of s.cur
      (.x a (sextWord (8 * n) (if s.coreGone (poolCore u) then 0 else s.read u n))
        (if !s.coreGone (poolCore u) && s.poisonAt u n then some (BitVec.ofNat 64 l.va) else none) ::
        (if atomTag op = 0 then [] else [.x (atomTag op) 0 none])) true)] := by
  obtain ⟨p, rfl, placed⟩ := place_near (need := { n := n, r := true, w := true, onlyDevice := some 6, remote := true, store := true })
    rfl hd rfl h
  generalize hl : bankLane p n ⟨0, s.me.xr m.b, m.disp.toInt, 0⟩ = l
  have near := nearLane_bankLane (l := ⟨0, s.me.xr m.b, m.disp.toInt, 0⟩) hd h
  have pa : poolBase p.pkgCore + bankOff p ⟨0, s.me.xr m.b, m.disp.toInt, 0⟩ = l.pa := hl ▸ rfl
  have size : l.n = n := hl ▸ rfl
  have route : laneRoute s.me.core l = 1 := by subst hl; simpa [nearLane, bankLane, State.src] using near
  have placed : s.placeAtomic s.me { n := n, r := true, w := true, onlyDevice := some 6, remote := true, store := true } 0 (s.me.xr m.b)
      m.disp.toInt = .ok { lane := l, target := .hbm, far := false, leaf := none, region := none } := by
    simp only [State.placeAtomic, placed, bankOk, hl]
  rw [pa]
  generalize hq : (⟨s.src, [l], .x a n true, true, true⟩ : MemReq) = q
  refine ⟨q, l, rfl, size, ?_⟩
  have ends := he.trans (atomInstr_near placed rfl route)
  rw [hq, State.atomAtBank_snd] at ends
  have waits := waitsFrom_parkMe_post ends
  rw [State.me_of_front (s.atomAtBank_front q op l)] at waits
  subst hq size
  exact waits

/-- Eight bytes or four, by the form (R123, R124). -/
theorem atomBytes_dvd (f : F6) : (if f.getLsbD 0 then 4 else 8) ∣ 8 := by
  split
  · exact ⟨2, rfl⟩
  · exact ⟨1, rfl⟩

/-- What a bank whose core is there makes of the word under AMO (R117, R123). -/
theorem atomAtBank_amo {s : State} {q : MemReq} {l : Lane} {op : Nat} {b : Word} {d : R5} (here : s.coreGone (poolCore l.pa) = false)
    (pos : 0 < l.n) : (s.atomAtBank q (.amo op b d) l).1 = s.writeMarked l.pa l.n
      (amoWord op (BitVec.ofNat (8 * l.n) (s.read l.pa l.n)) (b.setWidth (8 * l.n))).toNat (s.poisonAt l.pa l.n && decide (op < 8)) := by
  have derives : atomDerives (.amo op b d) = decide (op < 8) := decide_eq_decide.2 (by omega)
  have value := amoValue_eq op b.toNat pos (s.read_lt l.pa l.n)
  rw [BitVec.ofNat_toNat] at value
  rw [State.atomAtBank_writes (v := amoValue op l.n (s.read l.pa l.n) b.toNat) rfl, here, value, derives]
  rfl

/-- The same under CAS (R124). -/
theorem atomAtBank_cas {s : State} {q : MemReq} {l : Lane} {cmp new : Word} {d : R5} (here : s.coreGone (poolCore l.pa) = false) :
    (s.atomAtBank q (.cas cmp new d) l).1 = if BitVec.ofNat (8 * l.n) (s.read l.pa l.n) = cmp.setWidth (8 * l.n)
      then s.writeMarked l.pa l.n ((new.setWidth (8 * l.n)).toNat) false else s := by
  have equal : s.read l.pa l.n = cmp.toNat % 2 ^ (8 * l.n) ↔ BitVec.ofNat (8 * l.n) (s.read l.pa l.n) = cmp.setWidth (8 * l.n) := by
    rw [← BitVec.toNat_inj, BitVec.toNat_ofNat, BitVec.toNat_setWidth, Nat.mod_eq_of_lt (s.read_lt l.pa l.n)]
  split
  next same =>
    have fresh : atomNew (.cas cmp new d) l.n (s.read l.pa l.n) = some (new.toNat % 2 ^ (8 * l.n)) := if_pos (equal.2 same)
    rw [State.atomAtBank_writes fresh, here]
    simp [atomDerives]
  next other =>
    have keeps : atomNew (.cas cmp new d) l.n (s.read l.pa l.n) = none := if_neg (mt equal.1 other)
    rw [State.atomAtBank_keeps keeps]

theorem State.atomAtBank_gone {s : State} {q : MemReq} {op : AtomOp} {l : Lane} (gone : s.coreGone (poolCore l.pa) = true) :
    (s.atomAtBank q op l).1 = s := by
  simp only [State.atomAtBank, gone, if_true]

theorem poolAtomicsReadModifyWrite : Claims.PoolAtomicsReadModifyWrite := by
  intro s f a b d m u c n w gone old y fresh bad waits near
  have hd : n ∣ 8 := atomBytes_dvd f
  have pos : 0 < n := Nat.pos_of_dvd_of_pos hd (by decide)
  have value : sextWord w (if gone then 0 else s.read u n) = old.signExtend 64 := sextWord_eq _ (Nat.mul_pos (by decide) pos)
  have answer {i : Instr} {op : AtomOp} {v : State} (he : exec i s = s.atomInstr n a m op) (tag : atomTag op = d)
      (bank : ∀ q l, l.pa = u → l.n = n → (s.atomAtBank q op l).1 = v) : waits i v := by
    obtain ⟨q, l, pa, size, ends⟩ := waits_atomInstr_near hd he near
    rw [bank q l pa size, tag] at ends
    exact ⟨_, value ▸ ends⟩
  refine ⟨fun hf => answer rfl rfl fun q l pa size => ?_, fun hf => answer rfl rfl fun q l pa size => ?_, fun v bad k hk => ?_⟩
  · cases here : s.coreGone (poolCore u) with
    | true =>
      rw [State.atomAtBank_gone (by rwa [pa])]
      simp only [gone, here, if_true]
    | false =>
      have bank := atomAtBank_amo (q := q) (op := f.toNat / 2) (b := c.xr b) (d := d) (pa ▸ here) (size ▸ pos)
      rw [pa, size] at bank
      rw [bank]
      simp only [gone, bad, fresh, old, here]
      rfl
  · cases here : s.coreGone (poolCore u) with
    | true =>
      rw [State.atomAtBank_gone (by rwa [pa])]
      simp [gone, here]
    | false =>
      have bank := atomAtBank_cas (q := q) (cmp := c.xr a) (new := c.xr b) (d := d) (pa ▸ here)
      rw [pa, size] at bank
      rw [bank]
      simp only [gone, old, here, Bool.not_false, true_and, Bool.false_eq_true, if_false]
      rfl
  · rw [State.byte_writeMarked, State.byte_write_other s _ _ _ _ hk]

/-- An operation that needs a home slice refuses a pool address in its phase (R100, R117). -/
theorem placeAtomic_pool {s : State} {c : Ctx} {need : Need} {idx : Nat} {base : Word} {disp : Int} {p : PoolAddr}
    (h : resolve c.core base disp idx = .ok (.pool p)) (home : need.noPool = some 6) :
    s.placeAtomic c need idx base disp = .error (.trap ⟨trapAddrSpace, 6, idx, formed base disp⟩) := by
  simp only [State.placeAtomic, State.place, h, State.placePool, home, spaceTrap]

theorem homeSliceNeeded : Claims.HomeSliceNeeded := by
  intro s f a b d m pe p c ea h t
  have refused {need : Need} (home : need.noPool = some 6) : s.placeAtomic c need 0 (c.xr m.b) m.disp.toInt = .error (.trap t) :=
    placeAtomic_pool h home
  refine ⟨fun fp => ?_, ?_, ?_, ?_, ?_, ?_, ?_, ?_, ?_, ?_⟩
  · change execRed f m b s = _
    have one : s.placeReds c f.toNat [⟨0, c.xr m.b, m.disp.toInt, (c.xr b).toNat % 2 ^ (8 * redBytes f.toNat)⟩] = .error (.trap t) := by
      have home : (if f.toNat ≥ 16 then some 6 else none) = some 6 := if_pos fp
      simp [State.placeReds, placeAll, List.range_succ, home, refused, allPass, stopsOf, firstStop]
    simp only [execRed, State.redInstr, c, one] 
    rfl
  · change execAcq f a m s = _
    simp only [execAcq, refused, c, homeNeed]
    rfl
  · change execRel f a m s = _
    simp only [execRel, refused, c, homeNeed]
    rfl
  · change s.barInstr 1 a m = _
    simp only [State.barInstr, refused, c, homeNeed]
    rfl
  · change s.barInstr 2 a m = _
    simp only [State.barInstr, refused, c, homeNeed]
    rfl
  · change execWaitw f a m b d pe s = _
    simp only [execWaitw, refused, c, homeNeed]
    rfl
  · change s.wakeInstr false m = _
    simp only [State.wakeInstr, refused, c, homeNeed]
    rfl
  · change s.wakeInstr true m = _
    simp only [State.wakeInstr, refused, c, homeNeed]
    rfl
  · change s.pendInstr false a m = _
    simp only [State.pendInstr, refused, c, homeNeed]
    rfl
  · change s.pendInstr true a m = _
    simp only [State.pendInstr, refused, c, homeNeed]
    rfl

/-- Settles O10: the bank's answer by `atomAtBank`, whose numbers `amoValue_eq` reads as words; the refusals by `placeAtomic_pool`. -/
theorem poolAtomics : Obligations.PoolAtomics := ⟨poolAtomicsReadModifyWrite, homeSliceNeeded⟩

end Sys2Proof.Machine
end

section
/-! PROOFS. Release, acquire and their drains (O13): what the instructions send, what each message does at its home, and how a drain ends (R127
to R130). -/

namespace Sys2Proof.Machine

/-! ## At issue -/

theorem form_eq_one (f : F6) : f.toNat = 1 ↔ f = 1 := BitVec.toNat_inj (y := (1 : F6))

theorem form_eq_two (f : F6) : f.toNat = 2 ↔ f = 2 := BitVec.toNat_inj (y := (2 : F6))

theorem form_ne_two (f : F6) : f.toNat ≠ 2 ↔ f ≠ 2 := not_congr (form_eq_two f)

section Issue

variable {s : State} {f : F6} {a : R5} {m : MemOp} {p : Place}

theorem exec_rel_waits (h : s.placeAtomic s.me (homeNeed (if f = 1 then 4 else 8) (f = 2) (f ≠ 2)) 0 (s.me.xr m.b) m.disp.toInt = .ok p)
    (out : s.me.longs ≠ 0 ∨ s.me.ackc ≠ 0 ∨ s.me.pendc ≠ 0) : exec (.rel f a m) s = .next (s.parkMe .quiet) := by
  have busy : (decide (s.me.longs ≠ 0) || decide (s.me.ackc ≠ 0) || decide (s.me.pendc ≠ 0)) = true := by simpa [or_assoc] using out
  change execRel f a m s = _
  simp only [execRel, form_eq_one, form_eq_two, form_ne_two, h, busy, if_true]

theorem exec_rel_sends (h : s.placeAtomic s.me (homeNeed (if f = 1 then 4 else 8) (f = 2) (f ≠ 2)) 0 (s.me.xr m.b) m.disp.toInt = .ok p)
    (longs : s.me.longs = 0) (acks : s.me.ackc = 0) (pends : s.me.pendc = 0) :
    let t := (s.settle s.me.core s.me.asid (f ≠ 2) p).yieldLines s.me.core [p.lane.pa / 128]
    exec (.rel f a m) s = .next ((t.setMe { t.me with ackc := t.me.ackc + 1 }).post (.releaseAtHome ⟨t.src, [p.lane], .none, true, false⟩
      (if f = 2 then 0 else if f = 1 then 4 else 8) (s.me.xr a))).done := by
  have quiet : (decide (s.me.longs ≠ 0) || decide (s.me.ackc ≠ 0) || decide (s.me.pendc ≠ 0)) = false := by simp [longs, acks, pends]
  change execRel f a m s = _
  simp only [execRel, form_eq_one, form_eq_two, form_ne_two, h, quiet, Bool.false_eq_true, if_false]
  rfl

theorem exec_acq_sends (h : s.placeAtomic s.me (homeNeed (if f = 1 then 4 else 8) true false) 0 (s.me.xr m.b) m.disp.toInt = .ok p) :
    let t := (s.settle s.me.core s.me.asid false p).yieldLines s.me.core [p.lane.pa / 128]
    exec (.acq f a m) s = .next ((t.parkMe .reply).post (.acquireAtHome
      ⟨t.src, [p.lane], if f = 2 then .none else .x a (if f = 1 then 4 else 8) false, true, true⟩
      (if f = 2 then 0 else if f = 1 then 4 else 8))) := by
  change execAcq f a m s = _
  simp only [execAcq, form_eq_one, form_eq_two, h]
  rfl

end Issue

/-! ## At the home -/

section Home

variable {s : State} {q : MemReq} {l : Lane} {n : Nat} {v : Word}

theorem State.enterHome_free {pa : Nat} (free : s.pageHolding pa = none) (h : Held) (k : State → State) : s.enterHome pa h k = k s := by
  simp only [State.enterHome, free]

/-- A release that its word can record is performed (R127, R128). -/
theorem exec_releaseAtHome_recorded {u : State} (one : q.lanes = [l]) (free : s.pageHolding l.pa = none)
    (recorded : (s.foldLine (l.pa / 128)).record (l.pa / 8 * 8) q.src.core = some u) :
    exec (.releaseAtHome q n v) s = .next (u.finishRelease q n v) := by
  change execReleaseAtHome q n v s = _
  simp only [execReleaseAtHome, one, State.enterHome_free free, lineOf, recorded]

/-- One that it cannot record drains its core first: the eager release (R127). -/
theorem exec_releaseAtHome_eager (one : q.lanes = [l]) (free : s.pageHolding l.pa = none)
    (full : (s.foldLine (l.pa / 128)).record (l.pa / 8 * 8) q.src.core = none) : exec (.releaseAtHome q n v) s =
      .next ((s.foldLine (l.pa / 128)).startDrain (l.pa / 128) [q.src.core] (.rel q n v)) := by
  change execReleaseAtHome q n v s = _
  simp only [execReleaseAtHome, one, State.enterHome_free free, lineOf, full]

/-- An acquire drains the recorded cores (R129). -/
theorem exec_acquireAtHome_one (one : q.lanes = [l]) (free : s.pageHolding l.pa = none) : exec (.acquireAtHome q n) s =
    .next ((s.foldLine (l.pa / 128)).startDrain (l.pa / 128) ((s.foldLine (l.pa / 128)).recorded (l.pa / 8 * 8)) (.acq q n)) := by
  change execAcquireAtHome q n s = _
  simp only [execAcquireAtHome, one, State.enterHome_free free, lineOf]

end Home

theorem releaseAndAcquire : Claims.ReleaseAndAcquire := by
  intro s f a m p q l n v c k word
  exact ⟨fun h => ⟨exec_rel_waits h, exec_rel_sends h⟩, exec_acq_sends, fun one free => ⟨fun u => exec_releaseAtHome_recorded one free,
    exec_releaseAtHome_eager one free, exec_acquireAtHome_one one free⟩⟩

/-! ## Drains -/

theorem State.cleanLine_jobs (s : State) (tid : Option Nat) (core tag : Nat) : (s.cleanLine tid core tag).jobs = s.jobs := by
  unfold State.cleanLine
  split
  · rfl
  · change (State.postWriteBack _ _ _ _ _).jobs = _
    unfold State.postWriteBack
    split
    · rfl
    · cases tid <;> rfl

theorem State.cleanAll_jobs (s : State) (tid : Option Nat) (core : Nat) (p : CacheLine → Bool) : (s.cleanAll tid core p).jobs = s.jobs :=
  foldl_keeps State.jobs (fun (s : State) (e : Nat × CacheLine) => s.cleanLine tid core e.1) (fun s e => s.cleanLine_jobs tid core e.1) _ s

section Drain

variable {s : State} {core job n : Nat} {j : Job} {q : MemReq} {l : Lane} {w : Waiter} {v : Word}

/-- A drained core sends its dirty lines home, and the last answer ends the drain (R129, R130). -/
theorem exec_drainCommandArrival (found : s.jobs.find? job = some j) :
    let t := if s.coreGone core then s else s.cleanAll none core fun _ => true
    let left := j.left.filter (· ≠ core)
    let u : State := { t with jobs := t.jobs.set job { j with left := left } }
    exec (.drainCommandArrival core job) s = .next (if left = [] then u.post (.drainCompletion job) else u) := by
  intro t left u
  have there : t.jobs.find? job = some j := by
    simp only [t]
    split
    · exact found
    · rw [State.cleanAll_jobs, found]
  change execDrainCommandArrival core job s = _
  have last : ∀ ls : List Nat, ls.isEmpty = true ↔ ls = [] := fun _ => List.isEmpty_iff
  simp only [execDrainCommandArrival]
  change (match t.jobs.find? job with | none => _ | some j => _) = _
  rw [there]
  simp only [last]
  rfl

/-- The end of a drain goes by what waited for it. -/
theorem exec_drainCompletion_rel (found : s.jobs.find? job = some j) (next : j.next = .rel q n v) :
    exec (.drainCompletion job) s = .next (State.finishRelease { s with jobs := s.jobs.erase job } q n v) := by
  change execDrainCompletion job s = _
  simp only [execDrainCompletion, found, next]

theorem exec_drainCompletion_arrive (found : s.jobs.find? job = some j) (next : j.next = .arrive w) :
    exec (.drainCompletion job) s = .next (State.arrive { s with jobs := s.jobs.erase job } w) := by
  change execDrainCompletion job s = _
  simp only [execDrainCompletion, found, next]

theorem exec_drainCompletion_wait (found : s.jobs.find? job = some j) (next : j.next = .wait w v) : exec (.drainCompletion job) s =
    .next ((State.clearRecord { s with jobs := s.jobs.erase job } (w.lane.pa / 8 * 8)).post (.waiterWakeArrival w v 1)) := by
  change execDrainCompletion job s = _
  simp only [execDrainCompletion, found, next]

theorem exec_drainCompletion_bar (found : s.jobs.find? job = some j) (next : j.next = .bar w v) : exec (.drainCompletion job) s =
    .next (((State.clearRecord { s with jobs := s.jobs.erase job } (w.lane.pa / 8 * 8)).walkLine j.line true).post
      (.waiterWakeArrival w v 1)) := by
  change execDrainCompletion job s = _
  simp only [execDrainCompletion, found, next]

theorem mergeBytes_none (n old new : Nat) : mergeBytes n old new 0 = old % 2 ^ (8 * n) := by
  induction n generalizing old new with
  | zero => simp [mergeBytes, Nat.mod_one]
  | succ n ih =>
    have split : 2 ^ (8 * (n + 1)) = 256 * 2 ^ (8 * n) := by rw [Nat.mul_add, Nat.pow_add, Nat.mul_comm]
    simp [mergeBytes, ih, split, Nat.mod_mul]

/-- The acquire's read, with the record gone (R129). -/
theorem exec_drainCompletion_acq (found : s.jobs.find? job = some j) (next : j.next = .acq q n) (one : q.lanes = [l]) (reads : n ≠ 0) :
    let h := (State.clearRecord { s with jobs := s.jobs.erase job } (l.pa / 8 * 8)).homeRead (l.pa / 128)
    ∃ e : Lane, exec (.drainCompletion job) s =
        .next (h.post (.longResultArrival { Reply.of q.src.tid (loadWrites q.dst [e]) true with acquire := true })) ∧
      e.kval = h.read l.pa l.n ∧ e.bad = (l.bad || h.poisonAt l.pa l.n) := by
  intro h
  refine ⟨laneBind { l with kmask := 0 } (h.read l.pa l.n) (2 ^ l.n - 1) (n != 0 && h.poisonAt l.pa l.n), ?_, ?_, ?_⟩
  · change execDrainCompletion job s = _
    simp only [execDrainCompletion, found, next, one]
    rfl
  · simp only [laneBind, mergeBytes_none, Nat.mod_eq_of_lt (State.read_lt _ _ _)]
  · simp only [laneBind, bne_iff_ne.2 reads, Bool.true_and]

end Drain

theorem drainsComplete : Claims.DrainsComplete := by
  intro s core job j q l n w v found
  refine ⟨exec_drainCommandArrival found, exec_drainCompletion_rel found, exec_drainCompletion_arrive found, exec_drainCompletion_wait found,
    exec_drainCompletion_bar found, fun next one reads _ => ?_⟩
  exact exec_drainCompletion_acq found next one reads

/-- Settles O13: an equation for each message of a release, an acquire and a drain, by the cases of its definition. -/
theorem acquireReleaseDrains : Obligations.AcquireReleaseDrains := ⟨releaseAndAcquire, drainsComplete⟩

end Sys2Proof.Machine
end

section
/-! PROOFS. Page operations: their start, the table of their transitions, and their steps (R97, R102, R161, R170 to R176, R421). -/

namespace Sys2Proof.Machine

/-! ## Start -/

section Starts

variable {s : State} {die : Nat} {op : PageOp} {l : Leaf}

theorem exec_slotGrant_no_leaf (hl : s.pageLeaf op = none) : exec (.pageOpSlotGrant die op) s = .next (s.pageReply op 0 1) := by
  change execPageOpSlotGrant die op s = _
  simp only [execPageOpSlotGrant, hl]

theorem exec_slotGrant_busy (hl : s.pageLeaf op = some l) {d : Nat} (hb : s.pageBusy l = some d) :
    exec (.pageOpSlotGrant die op) s = .next (s.pageWaitAt d op) := by
  change execPageOpSlotGrant die op s = _
  simp only [execPageOpSlotGrant, hl, hb]

variable (hl : s.pageLeaf op = some l) (hb : s.pageBusy l = none)
include hl hb

theorem exec_slotGrant_settled {st : Nat} (hs : pageStatus op l = some st) :
    exec (.pageOpSlotGrant die op) s = .next (s.pageReply op 0 st) := by
  change execPageOpSlotGrant die op s = _
  simp only [execPageOpSlotGrant, hl, hb, hs]

variable (hs : pageStatus op l = none)
include hs

theorem exec_slotGrant_starts {k : Nat}
    (hk : (List.range 4).find? (fun k => ((s.die (bitsOf l.base 39 38)).pages.find? k).isNone) = some k) :
    exec (.pageOpSlotGrant die op) s = .next (s.pageStart op l (bitsOf l.base 39 38) k) := by
  change execPageOpSlotGrant die op s = _
  simp only [execPageOpSlotGrant, hl, hb, hs, hk]

theorem exec_slotGrant_full
    (hk : (List.range 4).find? (fun k => ((s.die (bitsOf l.base 39 38)).pages.find? k).isNone) = none) :
    exec (.pageOpSlotGrant die op) s =
      .next (if op.noWait then s.pageReply op 0 4 else s.pageWaitAt (bitsOf l.base 39 38) op) := by
  change execPageOpSlotGrant die op s = _
  simp only [execPageOpSlotGrant, hl, hb, hs, hk]

end Starts

/-- The first number below four that passes is the one a search from 0 finds. -/
theorem find?_range_first {n k : Nat} {p : Nat → Bool} (hk : k < n) (hp : p k) (hj : ∀ j, j < k → ¬p j) :
    (List.range n).find? p = some k := by
  rw [List.find?_range_eq_some]
  exact ⟨hp, List.mem_range.2 hk, fun j h => by simpa using hj j h⟩

theorem State.pageReply_none (s : State) (op : PageOp) (st : Nat) : s.pageReply op 0 st =
    s.post (.longResultArrival (Reply.of op.src.tid [.x op.a (BitVec.ofNat 64 st) none] true)) := by
  rw [State.pageReply, Nat.zero_mul, Nat.zero_add]

theorem pageOperationStarts : Claims.PageOperationStarts := by
  intro s die op l
  refine ⟨fun hl => ?_, fun hl d hb => exec_slotGrant_busy hl hb, fun hl hb st hs => ?_, fun hl hb hs => ⟨fun k hk hf hj => ?_, fun hf => ?_⟩⟩
  · rw [exec_slotGrant_no_leaf hl, State.pageReply_none]
    rfl
  · rw [exec_slotGrant_settled hl hb hs, State.pageReply_none]
  · exact exec_slotGrant_starts hl hb hs (find?_range_first hk hf hj)
  · have none : (List.range 4).find? (fun k => ((s.die (bitsOf l.base 39 38)).pages.find? k).isNone) = none :=
      List.find?_eq_none.2 fun k hk => hf k (List.mem_range.1 hk)
    rw [exec_slotGrant_full hl hb hs none, State.pageReply_none]
    rfl

/-! ## Table -/

theorem bitOf_eq_testBit (n i : Nat) : bitOf n i = n.testBit i := rfl

theorem transitionKnown_iff {a b : Nat} :
    transitionKnown a b = true ↔ (a, b) ∈ [(0, 1), (1, 0), (0, 2), (2, 0), (0, 4), (4, 0), (4, 3), (3, 4)] :=
  List.contains_iff_mem

theorem transitionKnown_ne {a b : Nat} (h : transitionKnown a b = true) : a ≠ b := by
  rw [transitionKnown_iff] at h
  rintro rfl
  simp at h
  omega

section Table

variable {op : PageOp} {l : Leaf}

/-- A mode word whose mask fits its mode (R174). -/
def maskFits (op : PageOp) (l : Leaf) : Prop :=
  (op.mode = 2 ∧ op.mask.testBit (bitsOf l.base 39 38)) ∨ (op.mode ≠ 2 ∧ op.mask = 0)

theorem pageStatus_mode (hm : op.migrate = false) (hf : maskFits op l) :
    pageStatus op l = if ¬targetOf l.base = .hbm then some 2
      else if l.mode = op.mode ∧ (op.mode ≠ 2 ∨ l.mask = op.mask) then some 0
      else if transitionKnown l.mode op.mode then none else some 2 := by
  have fits2 : ¬(op.mode = 2 ∧ (op.mask = 0 ∨ !bitOf op.mask (bitsOf l.base 39 38))) := by
    rintro ⟨h2, h⟩
    obtain ⟨-, hb⟩ | ⟨hn, -⟩ := hf
    · obtain h0 | h1 := h
      · simp [h0] at hb
      · simp [bitOf_eq_testBit, hb] at h1
    · exact hn h2
  have fits0 : ¬(op.mode ≠ 2 ∧ op.mask ≠ 0) := by
    rintro ⟨hn, h⟩
    obtain ⟨h2, -⟩ | ⟨-, h0⟩ := hf
    · exact hn h2
    · exact h h0
  rw [pageStatus, if_neg (by simp [hm]), if_neg fits2, if_neg fits0]

theorem pageStatus_bad_copies (hm : op.migrate = false) (h2 : op.mode = 2)
    (hb : op.mask = 0 ∨ op.mask.testBit (bitsOf l.base 39 38) = false) : pageStatus op l = some 3 := by
  rw [pageStatus, if_neg (by simp [hm]), if_pos ⟨h2, by simpa [bitOf_eq_testBit] using hb⟩]

theorem pageStatus_stray_mask (hm : op.migrate = false) (h2 : op.mode ≠ 2) (hb : op.mask ≠ 0) : pageStatus op l = some 3 := by
  rw [pageStatus, if_neg (by simp [hm]), if_neg fun h => h2 h.1, if_pos ⟨h2, hb⟩]

theorem pageStatus_migrate (hm : op.migrate = true) :
    pageStatus op l = if hbmExists op.frame = false ∨ (l.big ∧ op.frame % 2 ^ 21 ≠ 0) then some 3
      else if (l.mode ≠ 0 ∧ l.mode ≠ 1 ∧ l.mode ≠ 4) ∨ ¬targetOf l.base = .hbm then some 2
      else if op.frame < l.base + l.size ∧ l.base < op.frame + l.size then some 5 else none := by
  rw [pageStatus, if_pos hm]
  simp only [Bool.not_eq_true']

end Table

theorem pageTransitionTable : Claims.PageTransitionTable := by
  intro op l
  refine ⟨fun hm _ _ => ⟨pageStatus_bad_copies hm, pageStatus_stray_mask hm, fun hf => ?_⟩, fun hm => ?_⟩
  · rw [pageStatus_mode hm hf]
    refine ⟨fun hh => if_pos hh, fun hh he h2 => ?_, fun hh hk => ?_, fun hh hk hd => ?_⟩
    · rw [if_neg (not_not_intro hh), if_pos ⟨he, (em (op.mode = 2)).symm.imp_right h2⟩]
    · have known := transitionKnown_iff.2 hk
      rw [if_neg (not_not_intro hh), if_neg fun h => transitionKnown_ne known h.1, if_pos known]
    · have unknown : ¬transitionKnown l.mode op.mode = true := fun h => hk (transitionKnown_iff.1 h)
      have other : ¬(l.mode = op.mode ∧ (op.mode ≠ 2 ∨ l.mask = op.mask)) := by
        rintro ⟨he, h⟩
        obtain hn | ⟨h2, hn⟩ := hd
        · exact hn he
        · exact h.elim (· h2) hn
      rw [if_neg (not_not_intro hh), if_neg other, if_neg unknown]
  · rw [pageStatus_migrate hm]
    refine ⟨fun hb => if_pos hb, fun hb ho => ?_, fun hb ho hh => ?_⟩
    · rw [if_neg hb, if_pos ho]
    · rw [if_neg hb, if_neg]
      rintro (⟨h0, h1, h4⟩ | hn)
      · exact ho.elim h0 fun h => h.elim h1 h4
      · exact hn hh

/-! ## What the steps leave of the machine -/

@[simp] theorem State.noInstall_front (s : State) (core : Nat) (p : Nat → Bool) : (s.noInstall core p).front = s.front := rfl

@[simp] theorem State.noInstall_mem (s : State) (core : Nat) (p : Nat → Bool) : (s.noInstall core p).mem = s.mem := rfl

theorem State.setRun_run (s : State) (die slot : Nat) (r : PageRun) : ((s.setRun die slot r).die die).pages.find? slot = some r := by
  simp [State.setRun, SMap.find?_set_self]

@[simp] theorem State.ncFill_front (s : State) (line die : Nat) : (s.ncFill line die).front = s.front := by
  simp [State.ncFill]

@[simp] theorem State.sweepLine_front (s : State) (core line : Nat) (l : CacheLine) : (s.sweepLine core line l).front = s.front := by
  simp only [State.sweepLine]
  split
  · simp only [State.awakeCopy, State.awake_front, State.setProxy_front]
    split <;> simp
  · simp

section Snoops

@[simp] theorem State.write_snoops (s : State) (a n v : Nat) : (s.write a n v).snoops = s.snoops := rfl
@[simp] theorem State.cleanse_snoops (s : State) (a n : Nat) : (s.cleanse a n).snoops = s.snoops := rfl
@[simp] theorem State.tag_snoops (s : State) (line : Nat) : (s.tag line).2.snoops = s.snoops := rfl
@[simp] theorem State.setSeq_snoops (s : State) (line n : Nat) : (s.setSeq line n).snoops = s.snoops := rfl
@[simp] theorem State.putDir_snoops (s : State) (line : Nat) (d : Option Dir) : (s.putDir line d).snoops = s.snoops := rfl
@[simp] theorem State.dropProxy_snoops (s : State) (line die : Nat) : (s.dropProxy line die).snoops = s.snoops := rfl
@[simp] theorem State.writeLine_snoops (s : State) (line v m : Nat) : (s.writeLine line v m).snoops = s.snoops := rfl
@[simp] theorem State.markLine_snoops (s : State) (line : Nat) (m w : BitVec 16) : (s.markLine line m w).snoops = s.snoops := rfl

@[simp] theorem State.setNff_snoops (s : State) (k : Nat) (b : Bool) : (s.setNff k b).snoops = s.snoops := by
  cases b <;> rfl

@[simp] theorem State.awake_snoops (s : State) (k : Nat) : (s.awake k).snoops = s.snoops := by
  unfold State.awake
  split <;> rfl

@[simp] theorem State.dropProxies_snoops (s : State) (line : Nat) (ds : List Nat) :
    (ds.foldl (fun s d => s.dropProxy line d) s).snoops = s.snoops :=
  foldl_keeps State.snoops (fun (s : State) d => s.dropProxy line d) (fun _ _ => rfl) ds s

@[simp] theorem State.copyHome_snoops (s : State) (line die : Nat) : (s.copyHome line die).snoops = s.snoops := by
  unfold State.copyHome
  split
  · rfl
  · split <;> simp

@[simp] theorem State.bringHome_snoops (s : State) (line die : Nat) : (s.bringHome line die).snoops = s.snoops := by
  unfold State.bringHome
  split
  · rfl
  · split <;> simp

@[simp] theorem State.recall_snoops (s : State) (line : Nat) : (s.recall line).snoops = s.snoops := by
  unfold State.recall
  split <;> simp

@[simp] theorem State.foldAddr_snoops (s : State) (a : Nat) : (s.foldAddr a).snoops = s.snoops := by
  simp only [State.foldAddr]
  split <;> simp

@[simp] theorem State.foldLine_snoops (s : State) (line : Nat) : (s.foldLine line).snoops = s.snoops :=
  foldl_keeps State.snoops State.foldAddr State.foldAddr_snoops _ s

end Snoops

/-! ## Retry -/

section Steps

variable {s : State} {die slot : Nat}

theorem exec_queueRetry_gone {wait : Nat} {h : Held} (hr : (s.die die).pages.find? slot = none) :
    exec (.pageQueueRetry die slot wait h) s = .next s := by
  change execPageQueueRetry die slot wait h s = _
  simp only [execPageQueueRetry, hr]

theorem exec_sweep_gone {core : Nat} (hr : (s.die die).pages.find? slot = none) : exec (.pageSweepAtCore die slot core) s = .next s := by
  change execPageSweepAtCore die slot core s = _
  simp only [execPageSweepAtCore, hr]

theorem exec_completion_gone (hr : (s.die die).pages.find? slot = none) : exec (.pageOpCompletion die slot) s = .next s := by
  change execPageOpCompletion die slot s = _
  simp only [execPageOpCompletion, hr]

theorem exec_bisnp_gone {half : Nat} {d : Option (BitVec 512)} (hr : (s.die die).pages.find? slot = none) :
    exec (.bisnpResponse die slot half d) s = .next s := by
  change execBisnpResponse die slot half d s = _
  simp only [execBisnpResponse, hr]

variable {r : PageRun} (hr : (s.die die).pages.find? slot = some r)
include hr

theorem exec_queueRetry_running (wait : Nat) (h : Held) : exec (.pageQueueRetry die slot wait h) s =
    .next (if h ∈ r.queue.drop 256 then s.refuseFull die slot (min (2 * wait) 4096) h else s) := by
  change execPageQueueRetry die slot wait h s = _
  simp only [execPageQueueRetry, hr, List.contains_iff_mem]
  rfl

/-! ## Sweep -/

/-- Whether the operation merges what its sweeps find, byte by byte (R175). -/
def PageRun.merges (r : PageRun) : Bool := !r.op.migrate && r.op.mode == 0 && bitsOf r.leaf.toNat 61 59 == 1

/-- The lines of a page that a core gives to a sweep: none where it sinks messages (R170, R389). -/
def State.sweptLines (s : State) (core : Nat) (r : PageRun) : List (Nat × CacheLine) :=
  if s.coreGone core then [] else (s.core core).cache.filter fun e => r.inPage (128 * tagLine e.1)

/-- The state in which a core holds no line of a page any more, and installs none that is on its way (R170). -/
def State.sweepCore (s : State) (core : Nat) (r : PageRun) : State :=
  (if s.coreGone core then s else s.setCore core { s.core core with
    cache := (s.core core).cache.filter fun e => !r.inPage (128 * tagLine e.1) }).noInstall core fun l => r.inPage (128 * l)

/-- The dirty lines that a sweep finds go home, unless the operation merges them (R170, R175). -/
def State.sweepHome (s : State) (core : Nat) (r : PageRun) (ls : List (Nat × CacheLine)) : State :=
  if r.merges then s else (ls.filter fun e => e.2.dirty ≠ 0).foldl (fun s e => s.sweepLine core (tagLine e.1) e.2) s

theorem exec_sweep_running (core : Nat) : ∃ kept : List Contribution,
    let t := ((s.sweepCore core r).sweepHome core r (s.sweptLines core r)).setRun die slot
      { r with waiting := r.waiting.filter (· ≠ core), swept := r.swept ++ kept }
    exec (.pageSweepAtCore die slot core) s =
      .next (if (r.waiting.filter (· ≠ core)).isEmpty then t.post (.pageOpCompletion die slot) else t) := by
  refine ⟨if r.merges then ((s.sweptLines core r).filter fun e => e.2.dirty ≠ 0).map fun e =>
    ⟨dieOf core, core + 1, tagLine e.1, e.2.dirty, e.2.data, e.2.pois⟩ else [], ?_⟩
  change execPageSweepAtCore die slot core s = _
  simp only [execPageSweepAtCore, hr]
  rfl

omit hr in
theorem State.sweepHome_front (s : State) (core : Nat) (r : PageRun) (ls : List (Nat × CacheLine)) :
    (s.sweepHome core r ls).front = s.front := by
  rw [State.sweepHome]
  split
  · rfl
  · exact foldl_keeps State.front (fun (s : State) (e : Nat × CacheLine) => s.sweepLine core (tagLine e.1) e.2)
      (fun s e => s.sweepLine_front core _ e.2) _ s

omit hr in
theorem State.sweepHome_nil (s : State) (core : Nat) (r : PageRun) : s.sweepHome core r [] = s := by
  rw [State.sweepHome]
  split <;> rfl

omit hr in
theorem State.sweepHome_merges {s : State} {core : Nat} {r : PageRun} {ls : List (Nat × CacheLine)}
    (hm : r.op.migrate = false ∧ r.op.mode = 0 ∧ bitsOf r.leaf.toNat 61 59 = 1) : s.sweepHome core r ls = s := by
  obtain ⟨migrate, mode, leaf⟩ := hm
  rw [State.sweepHome, if_pos (by simp [PageRun.merges, migrate, mode, leaf])]

omit hr in
theorem State.sweepCore_mem (s : State) (core : Nat) (r : PageRun) : (s.sweepCore core r).mem = s.mem := by
  rw [State.sweepCore, State.noInstall_mem]
  split <;> rfl

omit hr in
theorem State.sweepCore_cache_gone {core : Nat} (hg : s.coreGone core = true) (r : PageRun) :
    ((s.sweepCore core r).core core).cache = (s.core core).cache := by
  rw [State.sweepCore, if_pos hg]
  rfl

omit hr in
theorem State.sweepCore_cache {core : Nat} (hg : s.coreGone core = false) (r : PageRun) :
    ((s.sweepCore core r).core core).cache = (s.core core).cache.filter fun e => !r.inPage (128 * tagLine e.1) := by
  rw [State.sweepCore, if_neg (by simp [hg]), State.core_of_front (State.noInstall_front _ _ _), State.core_setCore]

/-- R170: a sweep empties the core's cache of the page; the operation is completed after the last core. -/
theorem exec_sweep_effect (core : Nat) : ∃ t, exec (.pageSweepAtCore die slot core) s = .next t ∧
    (t.core core).cache = ((s.sweepCore core r).core core).cache ∧
    t.mem = ((s.sweepCore core r).sweepHome core r (s.sweptLines core r)).mem ∧
    (r.waiting.filter (· ≠ core) = [] → t.pending.getLast? = some (.pageOpCompletion die slot)) := by
  obtain ⟨kept, he⟩ := exec_sweep_running hr core
  have cores := State.core_of_front (State.sweepHome_front (s.sweepCore core r) core r (s.sweptLines core r)) core
  refine ⟨_, he, ?_, ?_, fun h0 => ?_⟩
  · rw [← cores]
    split <;> rfl
  · split <;> rfl
  · rw [if_pos (List.isEmpty_iff.2 h0)]
    exact List.getLast?_concat

/-! ## Completion -/

omit hr in
/-- The host's bytes are free values: only their count changes (R421). -/
theorem State.hostData_state (s : State) : ∃ n, s.hostData.2 = { s with draws := n } := by
  have run (l : List Nat) (a : Nat × State) : ∃ n, (l.foldl (fun (a : Nat × State) i =>
      let (v, s) := a.2.draw
      (a.1 + v.toNat * 2 ^ (64 * i), s)) a).2 = { a.2 with draws := n } := by
    induction l generalizing a with
    | nil => exact ⟨a.2.draws, rfl⟩
    | cons i l ih => exact ih _
  exact run _ _

omit hr in
theorem State.askBack_eq (s : State) (die slot half : Nat) : ∃ (n : Nat) (d : Option (BitVec 512)), s.askBack die slot half =
    { s with draws := n, snoops := s.snoops + 1, toHost := s.toHost ++ [HostMsg.invalidate half],
             pending := s.pending ++ [.bisnpResponse die slot half d] } := by
  obtain ⟨n, h⟩ := State.hostData_state { s.draw.2 with snoops := s.snoops + 1, toHost := s.toHost ++ [HostMsg.invalidate half] }
  refine ⟨n, if s.draw.1.getLsbD 0 then some (BitVec.ofNat 512 (State.hostData { s.draw.2 with
    snoops := s.snoops + 1, toHost := s.toHost ++ [HostMsg.invalidate half] }).1) else none, ?_⟩
  change State.post (State.hostData _).2 _ = _
  exact congrArg (State.post · _) h

omit hr in
@[simp] theorem State.askBack_snoops (s : State) (die slot half : Nat) : (s.askBack die slot half).snoops = s.snoops + 1 := by
  obtain ⟨n, d, h⟩ := s.askBack_eq die slot half
  rw [h]

omit hr in
@[simp] theorem State.askBack_mem (s : State) (die slot half : Nat) : (s.askBack die slot half).mem = s.mem := by
  obtain ⟨n, d, h⟩ := s.askBack_eq die slot half
  rw [h]

omit hr in
@[simp] theorem State.askBack_dies (s : State) (die slot half : Nat) : (s.askBack die slot half).dies = s.dies := by
  obtain ⟨n, d, h⟩ := s.askBack_eq die slot half
  rw [h]

omit hr in
@[simp] theorem State.askBack_pending (s : State) (die slot half : Nat) :
    (s.askBack die slot half).pending.length = s.pending.length + 1 := by
  obtain ⟨n, d, h⟩ := s.askBack_eq die slot half
  rw [h]
  exact List.length_append

omit hr in
/-- A run of questions to the host: each counts one snoop in flight, with one answer to come (R421). -/
theorem State.askBacks_effect (die slot : Nat) (hs : List Nat) (s : State) :
    (hs.foldl (fun s h => s.askBack die slot h) s).snoops = s.snoops + hs.length ∧
      (hs.foldl (fun s h => s.askBack die slot h) s).pending.length = s.pending.length + hs.length ∧
      (hs.foldl (fun s h => s.askBack die slot h) s).mem = s.mem := by
  induction hs generalizing s with
  | nil => simp only [List.foldl_nil, List.length_nil, Nat.add_zero, and_self]
  | cons h hs ih =>
    have one := ih (s.askBack die slot h)
    rw [State.askBack_snoops, State.askBack_pending, State.askBack_mem] at one
    rw [List.foldl_cons, List.length_cons, Nat.add_comm hs.length, ← Nat.add_assoc, ← Nat.add_assoc]
    exact one

theorem exec_completion_acts (hm : r.op.migrate ∨ bitsOf r.leaf.toNat 61 59 ≠ 3) :
    let a := s.pageAct { r with bad := s.actMarked r }
    exec (.pageOpCompletion die slot) s = .next (a.2.pageFinish die slot { r with bad := s.actMarked r } a.1) := by
  have acts : (!r.op.migrate && bitsOf r.leaf.toNat 61 59 == 3) = false := by
    obtain hm | hm := hm <;> simp [hm]
  change execPageOpCompletion die slot s = _
  simp only [execPageOpCompletion, hr, acts, Bool.false_eq_true, if_false]

/-- R421: a change out of HOSTOWN asks the host for the page's halves, at most 64 at a time. -/
theorem exec_completion_asks (hm : r.op.migrate = false) (ho : bitsOf r.leaf.toNat 61 59 = 3) : ∃ t,
    exec (.pageOpCompletion die slot) s = .next t ∧ t.snoops = s.snoops + min 64 (r.size / 64) ∧
      t.pending.length = s.pending.length + min 64 (r.size / 64) ∧ t.mem = s.mem := by
  let halves := (List.range (r.size / 64)).map (r.base / 64 + ·)
  have asks : (!r.op.migrate && bitsOf r.leaf.toNat 61 59 == 3) = true := by simp [hm, ho]
  have he : exec (.pageOpCompletion die slot) s = .next ((halves.take 64).foldl (fun s h => s.askBack die slot h)
      (s.setRun die slot { r with bad := s.actMarked r, waiting := halves })) := by
    change execPageOpCompletion die slot s = _
    simp only [execPageOpCompletion, hr, asks, if_true]
    rfl
  have count : (halves.take 64).length = min 64 (r.size / 64) := by simp [halves]
  obtain ⟨snoops, pending, mem⟩ := State.askBacks_effect die slot (halves.take 64)
    (s.setRun die slot { r with bad := s.actMarked r, waiting := halves })
  rw [count] at snoops pending
  exact ⟨_, he, snoops, pending, mem⟩

/-! ## Answers of the host -/

omit hr in
/-- The dirty half that the host answers with merges at the home (R421). -/
def State.hostHalf (s : State) (half : Nat) : Option (BitVec 512) → State
  | some d => (((s.foldLine (half / 2)).awake (homeSlice (half / 2))).write (64 * half) 64 d.toNat).cleanse (64 * half) 64
  | none => s

omit hr in
theorem State.hostHalf_snoops (s : State) (half : Nat) (d : Option (BitVec 512)) : (s.hostHalf half d).snoops = s.snoops := by
  cases d <;> simp [State.hostHalf]

omit hr in
theorem State.hostHalf_read (s : State) (half : Nat) (v : BitVec 512) : (s.hostHalf half (some v)).read (64 * half) 64 = v.toNat := by
  rw [State.hostHalf, State.read_congr (State.cleanse_mem _ _ _), State.read_write_self, ← BitVec.toNat_ofNat, BitVec.ofNat_toNat,
    BitVec.setWidth_eq]

theorem exec_bisnp_stray {half : Nat} (hh : half ∉ r.waiting) (d : Option (BitVec 512)) :
    exec (.bisnpResponse die slot half d) s = .next s := by
  have stray : (!r.waiting.contains half) = true := by simpa using hh
  change execBisnpResponse die slot half d s = _
  simp only [execBisnpResponse, hr, stray, if_true]

variable {half : Nat} (hh : half ∈ r.waiting)
include hh

theorem exec_bisnp_asked (d : Option (BitVec 512)) (hw : r.waiting.filter (· ≠ half) ≠ []) :
    let t := ({ s.hostHalf half d with snoops := s.snoops - 1 } : State).setRun die slot { r with waiting := r.waiting.filter (· ≠ half) }
    exec (.bisnpResponse die slot half d) s = .next (((r.waiting.filter (· ≠ half))[63]?).elim t fun h => t.askBack die slot h) := by
  have asked : (!r.waiting.contains half) = false := by simpa using hh
  have more : (r.waiting.filter (· ≠ half)).isEmpty = false := List.isEmpty_eq_false_iff.2 hw
  have snoops := State.hostHalf_snoops s half d
  change execBisnpResponse die slot half d s = _
  simp only [execBisnpResponse, hr, asked, more, Bool.false_eq_true, if_false]
  rw [← snoops]
  cases d <;> cases (r.waiting.filter (· ≠ half))[63]? <;> rfl

/-- With the last half the operation ends (R421). -/
theorem exec_bisnp_last (d : Option (BitVec 512)) (hw : r.waiting.filter (· ≠ half) = []) :
    ∃ t, exec (.bisnpResponse die slot half d) s = .next t := by
  have asked : (!r.waiting.contains half) = false := by simpa using hh
  change ∃ t, execBisnpResponse die slot half d s = .next t
  simp only [execBisnpResponse, hr, asked, Bool.false_eq_true, if_false, hw]
  exact ⟨_, rfl⟩

end Steps

/-- R421: a half that the host has answered is merged, and while more than 63 are left another one is asked for. -/
theorem exec_bisnp_more {s : State} {die slot half : Nat} {r : PageRun} (hr : (s.die die).pages.find? slot = some r) (hh : half ∈ r.waiting)
    (d : Option (BitVec 512)) (hw : r.waiting.filter (· ≠ half) ≠ []) : ∃ t, exec (.bisnpResponse die slot half d) s = .next t ∧
      t.snoops = s.snoops - 1 + (if 64 ≤ (r.waiting.filter (· ≠ half)).length then 1 else 0) ∧ t.mem = (s.hostHalf half d).mem ∧
      (t.die die).pages.find? slot = some { r with waiting := r.waiting.filter (· ≠ half) } := by
  refine ⟨_, exec_bisnp_asked hr hh d hw, ?_⟩
  have run := State.setRun_run { s.hostHalf half d with snoops := s.snoops - 1 } die slot { r with waiting := r.waiting.filter (· ≠ half) }
  cases hn : (r.waiting.filter (· ≠ half))[63]? with
  | none =>
    have few := List.getElem?_eq_none_iff.1 hn
    rw [if_neg (by omega)]
    exact ⟨rfl, rfl, run⟩
  | some h =>
    have many := (List.getElem?_eq_some_iff.1 hn).1
    rw [if_pos (by omega)]
    refine ⟨State.askBack_snoops _ _ _ _, State.askBack_mem _ _ _ _, ?_⟩
    exact (congrArg (fun m => ((SMap.get m die (Die.initial)).pages.find? slot)) (State.askBack_dies _ _ _ _)).trans run

theorem pageOperationSteps : Claims.PageOperationSteps := by
  intro s die slot core wait r h half d
  refine ⟨exec_queueRetry_gone, fun hr => ⟨fun hq => ?_, fun hq => ?_⟩,
    fun hr => ⟨exec_sweep_gone hr, exec_completion_gone hr, exec_bisnp_gone hr⟩, fun hr => ?_⟩
  · rw [exec_queueRetry_running hr, if_neg hq]
  · refine ⟨_, (exec_queueRetry_running hr wait h).trans (congrArg _ (if_pos hq)), ?_, rfl, rfl⟩
    exact congrArg Die.pqref (State.die_setDie _ _ _)
  · intro merge bad fin
    obtain ⟨t, swept, cache, mem, last⟩ := exec_sweep_effect hr core
    refine ⟨⟨t, swept, fun hg e => ?_, fun hg => ⟨?_, ?_⟩, fun hm => ?_, last⟩, exec_completion_acts hr, exec_completion_asks hr,
      fun hh => exec_bisnp_stray hr hh d, fun hh => ?_⟩
    · rw [cache, State.sweepCore_cache hg, List.mem_filter, Bool.not_eq_true']
    · rw [cache, State.sweepCore_cache_gone hg]
    · rw [mem, State.sweptLines, if_pos hg, State.sweepHome_nil, State.sweepCore_mem]
    · rw [mem, State.sweepHome_merges hm, State.sweepCore_mem]
    · by_cases hw : r.waiting.filter (· ≠ half) = []
      · obtain ⟨t, ends⟩ := exec_bisnp_last hr hh d hw
        exact ⟨t, ends, fun hn => absurd hw hn⟩
      · obtain ⟨t, goes, snoops, mem, run⟩ := exec_bisnp_more hr hh d hw
        refine ⟨t, goes, fun _ => ⟨snoops, ?_, run⟩⟩
        rintro v rfl
        rw [State.read_congr mem, State.hostHalf_read]

/-- Settles O17: the start, the table of transitions, and the steps of a page operation. -/
theorem pageOperations : Obligations.PageOperations := ⟨pageOperationStarts, pageTransitionTable, pageOperationSteps⟩

end Sys2Proof.Machine
end

section
/-! PROOFS. Pool tiles: a reverse TSTP that comes back to create its snapshot under a reservation whose descriptor is of another device's array
(R285, R416). -/

namespace Sys2Proof.Machine

/-! ## The last request of a snapshot -/

/-- A request for an array of another device, which the space is not bound to, is answered at once: no message leaves (R416). -/
theorem State.sendKey_unbound {s : State} {q : KeyReq} (own : q.peer = none) (unbound : s.bindings = []) (op : Nat) (data : List Byte) :
    s.sendKey q op data = s.post (.mintReplyArrival q (.linkDown q.desc.dev (s.routes.get q.desc.dev 0))) := by
  have nobody : s.bindingTo q.key.asid q.desc.dev = none := by rw [State.bindingTo, unbound, List.find?_nil]
  simp only [State.sendKey, nobody, State.mintReply, own]

/-- TSTP at the stage in which it creates its snapshot (R285). -/
theorem exec_tstp_creates {s : State} {a b x : R5} {disp : BitVec 32} {base : Base} {sh : Shape} {pitch at_ : Nat} {ps : List LaneOk}
    {q : KeyReq} {d : Desc} (target : s.me.target? a = some (base, sh)) (word : shapeWord (s.me.xr x).toNat = some ({ sh with blk := 0 }, pitch))
    (placed : s.placeRange true (s.me.xr b) disp.toInt sh pitch (fun _ => 0) = .ok (at_, ps)) (req : s.me.keyReq = some q) (use : q.use = .snap d)
    (stage : s.me.stage = 2) : exec (.tstp a b x disp) s =
      .next (State.askMint { s with draws := s.draws + ps.length } 3 q (.mintCreate q (snapshotBytes s ps s.me.buf))) := by
  have snapping : s.me.snapping = true := by simp [Ctx.snapping, req, use]
  change execTstp a b x disp s = _
  simp only [execTstp, target, word, snapping]
  simp [placed, State.storePoolReverse, stage, req, State.createSnap]

/-! ## The counterexample -/

/-- A thread in a TSTP of an 8 by 8 tile of FP32, from handle 0 to the start of its own scratchpad, that is to create its snapshot. -/
def strayThread (q : KeyReq) : Ctx :=
  { Ctx.blank with
    x := (Vector.replicate 24 0).set 1 (BitVec.ofNat 64 (2 ^ 63))
    handles := (Vector.replicate 32 .empty).set 0 (.version ⟨0, q.key, 0, none, 8, 8, 0, 0, false⟩)
    stage := 2
    keyReq := some q }

/-- The machine with that thread alone, the first element of whose range is declared differentiable. -/
def strayMachine (q : KeyReq) : State :=
  { State.reset with
    threads := [(0, strayThread q)]
    cores := [(0, { Core.initial with split := some (0, 4096), padAsid := some 0, regions := [(0, ⟨2 ^ 63, 0, 1, 0⟩)] })] }

/-- The descriptor of an array of another device. -/
def strayDesc : Desc := ⟨0, 0, 8, 8, 0, 0, 0, false, false, 0, true, 1, 0⟩

/-- The request of the snapshot, under that descriptor. -/
def strayReq : KeyReq := ⟨⟨0, 0, 0, 0⟩, ⟨0, 0, 0, 0, 0⟩, 0, strayDesc, .snap strayDesc, 0, 0, 0, 0, none⟩

theorem strayMachine_placed : ∃ at_ ps, (strayMachine strayReq).placeRange true ((strayMachine strayReq).me.xr 1) (0 : BitVec 32).toInt ⟨8, 8, 0, 0⟩ 0
    (fun _ => 0) = .ok (at_, ps) ∧ diffLanes ps ≠ [] := by
  have places : (match (strayMachine strayReq).placeRange true ((strayMachine strayReq).me.xr 1) (0 : BitVec 32).toInt ⟨8, 8, 0, 0⟩ 0 (fun _ => 0) with
    | .ok (_, ps) => !(diffLanes ps).isEmpty
    | .error _ => false) = true := by decide +kernel
  split at places
  next at_ ps placed => exact ⟨at_, ps, placed, by simpa using places⟩
  next => exact absurd places Bool.false_ne_true

/-- Refutes O30: a reverse TSTP creates its snapshot under whatever descriptor its request holds; where that is one of another device's array, and the
space is not bound to the device, no `mintCreate` is sent, but the request is answered with a dead link. -/
theorem not_poolTilesAndOptimiser : ¬ Obligations.PoolTilesAndOptimiser := by
  rintro ⟨-, reverse, -, -⟩
  obtain ⟨at_, ps, placed, declared⟩ := strayMachine_placed
  have target : (strayMachine strayReq).me.target? 0 = some (.ref ⟨0, strayReq.key, 0, none, 8, 8, 0, 0, false⟩, ⟨8, 8, 0, 0⟩) := by decide +kernel
  have word : shapeWord ((strayMachine strayReq).me.xr 0).toNat = some (⟨8, 8, 0, 0⟩, 0) := by decide +kernel
  obtain ⟨-, tstp⟩ := reverse (strayMachine strayReq) 0 1 0 0 ⟨8, 8, 0, 0⟩ 0 at_ ps _ [] strayReq strayDesc
  obtain ⟨-, -, creates, -⟩ := tstp target word declared placed
  have claimed := creates ⟨rfl, rfl⟩ rfl
  have lost := exec_tstp_creates target word placed rfl rfl rfl
  rw [State.askMint, if_pos (by rfl), State.sendKey_unbound rfl rfl] at lost
  rw [AsksMint, lost] at claimed
  have sent := congrArg (fun u : State => u.pending.getLast?) (Host.Outcome.next.inj claimed)
  simp [State.post] at sent

end Sys2Proof.Machine
end

section
/-! PROOFS. Leaving a slot: EXIT, YIELD, SLEEP, MIG, MIG.C and LDM, and the packet in which a thread travels (R111, R112, R337 to R346). -/

namespace Sys2Proof.Machine

/-! ## Bytes of a packet -/

theorem field_append_length (a b : List Byte) (k n : Nat) : field (a ++ b) (a.length + k) n = field b k n := by
  rw [field, field, ← List.drop_drop, List.drop_left]

theorem field_append_take (a b : List Byte) (n : Nat) (h : a.length = n) : field (a ++ b) 0 n = valueOf a := by
  rw [field, List.drop_zero, ← h, List.take_left]

theorem field_bytesOf (n v : Nat) (b : List Byte) : field (bytesOf n v ++ b) 0 n = v % 2 ^ (8 * n) := by
  rw [field_append_take _ _ _ (length_bytesOf n v), valueOf_bytesOf]

/-- A 64-bit word of a list of words, read from their bytes. -/
theorem field_wordBytes (ws : List Nat) (b : List Byte) (i : Nat) (h : i < ws.length) :
    field (wordBytes ws ++ b) (8 * i) 8 = ws[i] % 2 ^ 64 := by
  induction ws generalizing i with
  | nil => exact absurd h (Nat.not_lt_zero i)
  | cons w ws ih =>
    rw [wordBytes, List.flatMap_cons, List.append_assoc]
    cases i with
    | zero => exact field_bytesOf 8 w _
    | succ i =>
      have next : 8 * (i + 1) = (bytesOf 8 w).length + 8 * i := by
        rw [length_bytesOf]
        omega
      rw [next, field_append_length]
      exact ih i (Nat.lt_of_succ_lt_succ h)

theorem ofNat_toNat_same {w : Nat} (x : BitVec w) : BitVec.ofNat w x.toNat = x := by rw [BitVec.ofNat_toNat, BitVec.setWidth_eq]

section Packet

variable (c : Ctx) (tid n : Nat) (load : Option (Word × Nat × R5))

theorem packetFlits_length : (packetFlits c tid n load).length = 3 + n := by
  simp [packetFlits]
  omega

theorem packet_pc : field ((packetFlits c tid n load).getD 0 []) 0 8 = c.pc.toNat := by
  change field (packetHeader c tid n load) 0 8 = _
  simp only [packetHeader, List.append_assoc]
  rw [field_wordBytes [c.pc.toNat] _ 0 Nat.one_pos]
  exact Nat.mod_eq_of_lt c.pc.isLt

theorem packet_pred : field ((packetFlits c tid n load).getD 0 []) 8 4 = c.pred.toNat := by
  change field (packetHeader c tid n load) ((wordBytes [c.pc.toNat]).length + 0) 4 = _
  simp only [packetHeader, List.append_assoc]
  rw [field_append_length, field_bytesOf]
  exact Nat.mod_eq_of_lt c.pred.isLt

theorem packet_low_scalar (i : Nat) (h : i < 16) :
    field ((packetFlits c tid n load).getD 1 []) (8 * i) 8 = (c.x[i + 1]?.getD 0).toNat := by
  change field (wordBytes ((List.range 16).map fun i => (c.x[i + 1]?.getD 0).toNat)) (8 * i) 8 = _
  rw [← List.append_nil (wordBytes _), field_wordBytes _ _ _ (by simpa using h)]
  simpa using Nat.mod_eq_of_lt (c.x[i + 1]?.getD 0).isLt

theorem packet_high_scalar (i : Nat) (h : i < 7) :
    field ((packetFlits c tid n load).getD 2 []) (8 * i) 8 = (c.x[i + 17]?.getD 0).toNat := by
  change field (padLine (wordBytes ((List.range 7).map fun i => (c.x[i + 17]?.getD 0).toNat) ++ bytesOf 4 c.poisonBits)) (8 * i) 8 = _
  rw [padLine, List.append_assoc, field_wordBytes _ _ _ (by simpa using h)]
  simpa using Nat.mod_eq_of_lt (c.x[i + 17]?.getD 0).isLt

theorem packet_vector (i : Nat) (h : i < n) :
    field ((packetFlits c tid n load).getD (3 + i) []) 0 64 = (c.v[i]?.getD 0).toNat := by
  have flit : (packetFlits c tid n load).getD (3 + i) [] = padLine (bytesOf 64 (c.v[i]?.getD 0).toNat) := by
    simp [packetFlits, Nat.add_comm 3, h]
  rw [flit, padLine, field_bytesOf, ← BitVec.toNat_ofNat, BitVec.ofNat_toNat, BitVec.setWidth_eq]

end Packet

/-- The scalars of an arriving thread are those of its packet (R339, R340). -/
theorem unpack_xr (d c : Ctx) (tid n : Nat) (load : Option (Word × Nat × R5)) (r : R5) :
    (d.unpack n (packetFlits c tid n load)).xr r = c.xr r := by
  rw [Ctx.xr, Ctx.xr]
  by_cases h0 : r = 0
  · rw [if_pos h0, if_pos h0]
  rw [if_neg h0, if_neg h0]
  have pos : r.toNat ≠ 0 := fun h => h0 (BitVec.eq_of_toNat_eq h)
  by_cases h24 : r.toNat < 24
  · have word : (d.unpack n (packetFlits c tid n load)).x[r.toNat]? = some (c.x[r.toNat]?.getD 0) := by
      simp only [Ctx.unpack, Vector.getElem?_ofFn, dif_pos h24, if_neg pos, Option.some.injEq]
      split
      next low =>
        rw [packet_low_scalar _ _ _ _ _ (by omega), Nat.sub_add_cancel (by omega)]
        exact ofNat_toNat_same _
      next high =>
        rw [packet_high_scalar _ _ _ _ _ (by omega), Nat.sub_add_cancel (by omega)]
        exact ofNat_toNat_same _
    rw [word, Option.getD_some]
  · rw [Vector.getElem?_eq_none (by omega), Vector.getElem?_eq_none (by omega)]

/-- The vector registers that a packet carries; the others are zero (R340). -/
theorem unpack_vr (d c : Ctx) (tid n : Nat) (load : Option (Word × Nat × R5)) (r : R5) :
    (d.unpack n (packetFlits c tid n load)).vr r = if r.toNat < n then c.vr r else 0 := by
  rw [Ctx.vr, Ctx.vr]
  by_cases h8 : r.toNat < 8
  · have vector : (d.unpack n (packetFlits c tid n load)).v[r.toNat]? = some (if r.toNat < n then c.v[r.toNat]?.getD 0 else 0) := by
      simp only [Ctx.unpack, Vector.getElem?_ofFn, dif_pos h8, Option.some.injEq]
      split
      next carried =>
        rw [packet_vector _ _ _ _ _ carried]
        exact ofNat_toNat_same _
      next => rfl
    rw [vector, Option.getD_some]
  · rw [Vector.getElem?_eq_none (by omega), Vector.getElem?_eq_none (by omega)]
    exact (ite_self (0 : Vec)).symm

theorem unpack_pc (d c : Ctx) (tid n : Nat) (load : Option (Word × Nat × R5)) : (d.unpack n (packetFlits c tid n load)).pc = c.pc := by
  change BitVec.ofNat 64 (field _ 0 8) = _
  rw [packet_pc, ofNat_toNat_same]

theorem unpack_pred (d c : Ctx) (tid n : Nat) (load : Option (Word × Nat × R5)) :
    (d.unpack n (packetFlits c tid n load)).pred = c.pred := by
  change BitVec.ofNat 32 (field _ 8 4) = _
  rw [packet_pred, ofNat_toNat_same]

/-! ## What a thread keeps on its way out of its slot -/

/-- What a packet carries of a thread as it stands: scalars, vectors, place and predicates (R339). -/
def Ctx.carried (c : Ctx) : Vector Word 24 × Vector Vec 8 × Word × BitVec 32 × Option (Word × List Byte) := (c.x, c.v, c.pc, c.pred, c.line)

theorem State.ctx_congr {s t : State} (h : t.threads = s.threads) (k : Nat) : t.ctx k = s.ctx k := by rw [State.ctx, State.ctx, h]

theorem Ctx.prune_carried (fuel : Nat) (c : Ctx) : (Ctx.prune fuel c).carried = c.carried := by
  induction fuel generalizing c with
  | zero => rfl
  | succ fuel ih => exact ih _

theorem State.releasePool_threads (s : State) (p : PoolSrc) : (s.releasePool p).threads = s.threads := by
  simp only [State.releasePool]
  split
  · split <;> rfl
  · rfl

theorem State.releaseRef_threads (s : State) (r : Ref) : (s.releaseRef r).threads = s.threads := by
  simp only [State.releaseRef]
  split
  · rfl
  · split <;> rfl

/-- A thread whose handles change is pruned of the nodes that they named; nothing else of it, and no other thread, changes (R252). -/
theorem State.rebind_threads (s : State) (tid : Nat) (f : Ctx → Ctx) :
    (s.rebind tid f).threads = (s.setCtx tid (Ctx.prune 33 (f (s.ctx tid)))).threads := by
  simp only [State.rebind]
  rw [foldl_keeps State.threads State.releaseRef State.releaseRef_threads, foldl_keeps State.threads State.releasePool State.releasePool_threads]

theorem State.clearHandles_carried (s : State) (tid : Nat) : ((s.clearHandles tid).ctx tid).carried = (s.ctx tid).carried := by
  rw [State.clearHandles, State.ctx_congr (s.rebind_threads tid _), State.ctx_setCtx, Ctx.prune_carried]
  rfl

theorem Ctx.keepNodes_carried (c : Ctx) (n : Nat) : (c.keepNodes n).carried = c.carried := by
  rw [Ctx.keepNodes]
  split <;> rfl

theorem State.putImageLine_carried (s : State) (tid n : Nat) : ((s.putImageLine tid n).ctx tid).carried = (s.ctx tid).carried := by
  have threads : (s.putImageLine tid n).threads = (s.draw.2.modCtx tid fun c =>
    { c.keepNodes n with imvalid := c.imvalid ||| BitVec.twoPow 32 n }).threads := rfl
  rw [State.ctx_congr threads, State.modCtx, State.ctx_setCtx]
  exact (s.ctx tid).keepNodes_carried n

theorem State.writeBackImage_carried (s : State) (tid : Nat) : ((s.writeBackImage tid).ctx tid).carried = (s.ctx tid).carried :=
  foldl_keeps (fun s : State => (s.ctx tid).carried) (fun (s : State) n => s.putImageLine tid n) (fun s n => s.putImageLine_carried tid n) _ s

theorem State.bankStore_threads (s : State) (src : Src) (late : Bool) (l : Lane) (v : Nat) : (s.bankStore src late l v).threads = s.threads := by
  rw [State.bankStore]
  split
  · exact State.threads_of_front (s.writeMarked_front _ _ _ _)
  · rfl
  · rfl

theorem State.landThose_threads (s : State) (p : MemReq → Bool) : (s.landThose p).threads = s.threads := by
  refine foldl_keeps State.threads _ (fun s e => ?_) _ _
  split
  · exact foldl_keeps State.threads _ (fun s (x : Lane × Nat) => s.bankStore_threads _ _ _ _) _ s
  · rfl

theorem State.freeSlot_threads (s : State) (tid : Nat) : (s.freeSlot tid).threads = s.threads := s.landThose_threads _

theorem Ctx.advance_pc (c : Ctx) : c.advance.pc = c.nextPc := by
  rw [Ctx.advance, Ctx.moveOn]
  split <;> rfl

theorem Ctx.advance_regs (c : Ctx) : c.advance.x = c.x ∧ c.advance.v = c.v ∧ c.advance.pred = c.pred := by
  rw [Ctx.advance, Ctx.moveOn]
  split <;> exact ⟨rfl, rfl, rfl⟩

theorem Ctx.nextPc_congr {c d : Ctx} (pc : d.pc = c.pc) (line : d.line = c.line) : d.nextPc = c.nextPc := by
  have count : d.lineCount = c.lineCount := by rw [Ctx.lineCount, Ctx.lineCount, line]
  rw [Ctx.nextPc, Ctx.nextPc, pc, count]

/-- The machine when the thread in issue has left its slot for a packet (R345). -/
def State.unseated (s : State) : State :=
  (((s.clearHandles s.cur).writeBackImage s.cur).modCtx s.cur fun c => { c.advance with held := 0 }).freeSlot s.cur

theorem State.unseated_ctx (s : State) : ∃ c : Ctx, c.carried = s.me.carried ∧ s.unseated.ctx s.cur = { c.advance with held := 0 } := by
  refine ⟨_, (State.writeBackImage_carried _ _).trans (s.clearHandles_carried s.cur), ?_⟩
  rw [State.unseated, State.ctx_congr (State.freeSlot_threads _ s.cur)]
  exact State.ctx_setCtx _ _ _

/-- The thread on its way, as its packet is filled (R339). -/
def Ctx.travelling (c : Ctx) : Ctx := { c with imstate := .suspended, queued := true, lastCore := c.core }

theorem State.sendAway_eq (s : State) (dest n : Nat) (load : Option (Word × Nat × R5 × MemReq)) : s.sendAway dest n load id =
    (s.unseated.setCtx s.cur (s.unseated.ctx s.cur).travelling).post (.migrationPacketArrival ⟨s.cur, dest, n,
      packetFlits (s.unseated.ctx s.cur).travelling s.cur n (load.map fun l => (l.1, l.2.1, l.2.2.1)), load.map fun l => l.2.2.2⟩) := by
  change State.post (s.unseated.setCtx s.cur (s.unseated.ctx s.cur).travelling) (.migrationPacketArrival ⟨s.cur, dest, n,
    packetFlits ((s.unseated.setCtx s.cur (s.unseated.ctx s.cur).travelling).ctx s.cur) s.cur n _, _⟩) = _
  rw [State.ctx_setCtx]

/-- The thread that a packet has taken: suspended, on its way, with its registers and the next instruction's place (R339, R345). -/
theorem State.sendAway_thread (s : State) (dest n : Nat) (load : Option (Word × Nat × R5 × MemReq)) : ∃ d : Ctx,
    (s.sendAway dest n load id).ctx s.cur = d ∧ d.imstate = .suspended ∧ d.queued = true ∧ d.x = s.me.x ∧ d.v = s.me.v ∧
      d.pred = s.me.pred ∧ d.pc = s.me.nextPc ∧ (s.sendAway dest n load id).pending.getLast? =
        some (.migrationPacketArrival ⟨s.cur, dest, n, packetFlits d s.cur n (load.map fun l => (l.1, l.2.1, l.2.2.1)),
          load.map fun l => l.2.2.2⟩) := by
  obtain ⟨c, kept, gone⟩ := s.unseated_ctx
  obtain ⟨x, v, pc, pred, line⟩ : c.x = s.me.x ∧ c.v = s.me.v ∧ c.pc = s.me.pc ∧ c.pred = s.me.pred ∧ c.line = s.me.line := by
    simpa only [Ctx.carried, Prod.mk.injEq] using kept
  obtain ⟨ax, av, apred⟩ := c.advance_regs
  rw [State.sendAway_eq, gone]
  exact ⟨_, State.ctx_setCtx _ _ _, rfl, rfl, ax.trans x, av.trans v, apred.trans pred, c.advance_pc.trans (Ctx.nextPc_congr pc line),
    List.getLast?_concat⟩

/-! ## EXIT, YIELD, SLEEP -/

section Waits

variable {s u : State}

theorem exec_exit_outstanding (released : s.relPart 1 0 = .ok u) (h : u.me.telout ≠ 0 ∨ u.me.longs ≠ 0) :
    exec .exit s = .next (u.parkMe .exit) := by
  change execExit s = _
  simp only [execExit, released, if_pos h]

theorem exec_exit_leaves (released : s.relPart 1 0 = .ok u) (telout : u.me.telout = 0) (longs : u.me.longs = 0) :
    exec .exit s = .next (((((((u.setMe { u.me with events := [] }).clearHandles u.cur).freeImage u.me.rcb.toNat u.me.asid u.cur).leaveSlot
      u.cur .free)).modCtx u.cur fun c => { c.abandon with held := 0 }).lowerLive u.me.rcb.toNat u.me.asid) := by
  have settled : ¬(u.me.telout ≠ 0 ∨ u.me.longs ≠ 0) := by simp [telout, longs]
  change execExit s = _
  simp only [execExit, released, if_neg settled]

theorem exec_yield_outstanding (h : s.me.longs ≠ 0) : exec .yield s = .next (s.parkMe .allLong) := by
  change execYield s = _
  simp only [execYield, if_pos h]

theorem exec_yield_leaves (h : s.me.longs = 0) : exec .yield s = .next (s.done.suspend s.cur) := by
  change execYield s = _
  simp only [execYield, h, ne_eq, not_true_eq_false, if_false]

/-- The tick that SLEEP or SLEEP.T waits for (R346). -/
def State.wakeTick (s : State) (f : F6) (o : Op2) : Nat := if f = 0 then s.ticks + (s.me.op2U o).toNat else (s.me.op2U o).toNat

theorem exec_sleep_reached {f : F6} {o : Op2} (h : s.wakeTick f o ≤ s.ticks) : exec (.sleep f o) s = .next s.done := if_pos h

theorem exec_sleep_waits {f : F6} {o : Op2} (h : ¬s.wakeTick f o ≤ s.ticks) : exec (.sleep f o) s =
    .next ((s.parkCounted (.sleep (s.wakeTick f o))).at (cycleOfTick (s.wakeTick f o)) (.sleepTimeReached s.cur)) := if_neg h

end Waits

/-! ## MIG, MIG.C, LDM -/

/-- A thread that leaves no work behind: nothing outstanding, and no line and no write-back in its core's pool cache (R112). -/
def State.readyToMove (s : State) : Prop :=
  s.me.longs = 0 ∧ s.me.ackc = 0 ∧ s.me.pendc = 0 ∧ (s.core s.me.core).cache = [] ∧ s.writingBack s.me.core = false

theorem State.cleanAll_empty {s : State} {core : Nat} (h : (s.core core).cache = []) (tid : Option Nat) (p : CacheLine → Bool) :
    s.cleanAll tid core p = s := by rw [State.cleanAll, h, List.filter_nil, List.foldl_nil]

theorem State.beforeMove_idle {s : State} (h : s.readyToMove) (k : State → State) : s.beforeMove k = k s := by
  obtain ⟨longs, ackc, pendc, cache, written⟩ := h
  have settled : s.me.settled = true := by simp [Ctx.settled, longs, ackc, pendc]
  simp only [State.beforeMove, settled, State.cleanAll_empty cache, written, ackc]
  simp

theorem State.moveTo_idle {s : State} (h : s.readyToMove) (dest n : Nat) : s.moveTo dest n =
    if dest = s.me.core then (s.clearHandles s.cur).done else s.sendAway dest n none id := State.beforeMove_idle h _

theorem exec_mig_held {s : State} {n : F6} {m : MemOp} {q : Place} (h : s.place s.me migNeed 0 (s.me.xr m.b) m.disp.toInt = .ok q)
    (held : (s.pageHolding q.lane.pa).isSome) : exec (.mig n m) s = .next (s.parkMe (.page q.lane.pa)) := by
  change execMig n m s = _
  simp only [execMig, h, if_pos held]

theorem exec_mig_moves {s : State} {n : F6} {m : MemOp} {q : Place} (h : s.place s.me migNeed 0 (s.me.xr m.b) m.disp.toInt = .ok q)
    (free : s.pageHolding q.lane.pa = none) :
    exec (.mig n m) s = .next ((s.settle s.me.core s.me.asid false q).moveTo (ownerCore s.me q) n.toNat) := by
  change execMig n m s = _
  simp only [execMig, h, free, Option.isSome_none, Bool.false_eq_true, if_false]

section Ldm

variable {s : State} {f g : F6} {a : R5} {m : MemOp} {l : LaneOk}

/-- The lane of an LDM's address, in words of its size code (R111). -/
theorem accessSize_high (f : F6) : accessSize (f.toNat / 16) = sizeOf104 (BitVec.ofNat 6 (f.toNat / 16)) := by
  rw [← accessSize_eq, BitVec.toNat_ofNat, Nat.mod_eq_of_lt (by omega)]

theorem exec_ld_of_high (h : g.toNat = f.toNat / 16) : exec (.ld g a m) s =
    .next (s.loadInstr (accessSize (f.toNat / 16)) false false (.x a (accessSize (f.toNat / 16)) false) (·.pendX a)
      [⟨0, s.me.xr m.b, m.disp.toInt, (s.me.xr a).toNat⟩]) := by
  have low : g.toNat < 4 := by omega
  have b3 : g.getLsbD 3 = false := Nat.testBit_lt_two_pow (lt_of_lt_of_le low (by decide))
  have b2 : g.getLsbD 2 = false := Nat.testBit_lt_two_pow low
  change execLd g a m s = _
  simp only [execLd, b2, b3, h]

variable (h : s.placeLanes s.me false (accessSize (f.toNat / 16)) [⟨0, s.me.xr m.b, m.disp.toInt, (s.me.xr a).toNat⟩] = .ok [l])
include h

theorem exec_ldm_elsewhere (device : l.place.target ≠ .hbm) :
    Traps (.ldm f a m) s ⟨0x07, 6, 0, formed (s.me.xr m.b) m.disp.toInt⟩ := by
  change execLdm f a m s = _
  simp only [execLdm, h]
  rfl

theorem exec_ldm_here (device : l.place.target = .hbm) (plain : l.adj = none) (idle : s.readyToMove) (home : ownerCore s.me l.place = s.me.core)
    (hg : g.toNat = f.toNat / 16) : exec (.ldm f a m) s = exec (.ld g a m) s := by
  rw [exec_ld_of_high hg]
  change execLdm f a m s = _
  simp only [execLdm, h, device, plain, State.beforeMove_idle idle, if_pos home, Option.isSome_none, Bool.false_eq_true, if_false]

theorem exec_ldm_away (device : l.place.target = .hbm) (plain : l.adj = none) (idle : s.readyToMove) (away : ownerCore s.me l.place ≠ s.me.core) :
    let u := s.settleLanes s.me false [l]
    exec (.ldm f a m) s = .next (u.sendAway (ownerCore s.me l.place) (f.toNat % 16)
      (some (formed (s.me.xr m.b) m.disp.toInt, f.toNat / 16, a,
        ⟨{ u.src with core := ownerCore s.me l.place }, [l.place.lane], .x a (accessSize (f.toNat / 16)) false, false, false⟩)) (·.pendX a)) := by
  change execLdm f a m s = _
  simp only [execLdm, h, device, plain, State.beforeMove_idle idle, if_neg away, Option.isSome_none, Bool.false_eq_true, if_false]

end Ldm

/-- Settles O36: each instruction's issue by its cases, and the packet's flits read back into the thread that they carry. -/
theorem leavingASlot : Obligations.LeavingASlot := by
  intro s u n f g a b m o q l dest r c idle
  refine ⟨fun released => ⟨fun h => waitsFrom_parkMe (exec_exit_outstanding released h), exec_exit_leaves released⟩, ?_, ?_, fun hi => ?_,
    exec_mig_held, fun hq free hi => ?_, fun hl device plain hi => ?_, fun hl device => ?_, ?_⟩
  · split
    next h => exact waitsFrom_parkMe (exec_yield_outstanding h)
    next h => exact exec_yield_leaves (not_not.1 h)
  · intro v t
    split
    next h => exact completesFrom_done (exec_sleep_reached h)
    next h => exact exec_sleep_waits h
  · intro dest
    have moved : exec (.migC n b) s = .next (s.moveTo dest (n.toNat % 16)) := rfl
    rw [moved, State.moveTo_idle hi]
    split
    next => rfl
    next => rfl
  · intro u me cache written
    obtain ⟨longs, ackc, pendc, -, -⟩ := hi
    have stays : u.readyToMove := by
      rw [State.readyToMove, me]
      exact ⟨longs, ackc, pendc, cache, written⟩
    rw [exec_mig_moves hq free, State.moveTo_idle stays, me]
  · rw [← accessSize_high] at hl ⊢
    exact ⟨fun home hg => exec_ldm_here hl device plain hi home hg, fun away => exec_ldm_away hl device plain hi away⟩
  · rw [← accessSize_high] at hl
    exact exec_ldm_elsewhere hl device
  · obtain ⟨d, taken, suspended, queued, x, v, pred, pc, sent⟩ := s.sendAway_thread dest n.toNat none
    intro t e flits w
    have now : e = d := taken
    subst now
    refine ⟨suspended, queued, packetFlits_length _ _ _ _, ?_, ?_, rfl, (unpack_pc _ _ _ _ _).trans pc, (unpack_pred _ _ _ _ _).trans pred, sent⟩
    · rw [unpack_xr, Ctx.xr, x]
      rfl
    · rw [unpack_vr, Ctx.vr, v]
      rfl

end Sys2Proof.Machine
end

section
/-! PROOFS. What the home of a line leaves of the whole machine (R119 to R121, R131, R162 to R165): it writes the tables that `besideHome` leaves out,
and nothing else. The time of the package is among what it leaves, through the address phase and the yield of a core's lines too (R98, R116). -/

namespace Sys2Proof.Machine

/-- The machine beside memory and its marks, the slices, the dies' copies, the drains, the messages on their way and the free values. -/
def State.besideHome (s : State) : State :=
  { s with mem := [], poisoned := [], slices := [], proxies := [], jobs := [], serial := 0, pending := [], due := [], draws := 0 }

/-! ## Copies and recalls -/

@[simp] theorem State.post_besideHome (s : State) (e : Event) : (s.post e).besideHome = s.besideHome := rfl
@[simp] theorem State.setSlice_besideHome (s : State) (k : Nat) (c : Slice) : (s.setSlice k c).besideHome = s.besideHome := rfl
@[simp] theorem State.write_besideHome (s : State) (a n v : Nat) : (s.write a n v).besideHome = s.besideHome := rfl
@[simp] theorem State.tag_besideHome (s : State) (line : Nat) : (s.tag line).2.besideHome = s.besideHome := rfl
@[simp] theorem State.setSeq_besideHome (s : State) (line n : Nat) : (s.setSeq line n).besideHome = s.besideHome := rfl
@[simp] theorem State.putDir_besideHome (s : State) (line : Nat) (d : Option Dir) : (s.putDir line d).besideHome = s.besideHome := rfl
@[simp] theorem State.dropProxy_besideHome (s : State) (line die : Nat) : (s.dropProxy line die).besideHome = s.besideHome := rfl
@[simp] theorem State.writeLine_besideHome (s : State) (line v m : Nat) : (s.writeLine line v m).besideHome = s.besideHome := rfl
@[simp] theorem State.markLine_besideHome (s : State) (line : Nat) (m w : BitVec 16) : (s.markLine line m w).besideHome = s.besideHome := rfl

@[simp] theorem State.writeMarked_besideHome (s : State) (a n v : Nat) (bad : Bool) :
    (s.writeMarked a n v bad).besideHome = s.besideHome := by
  cases bad <;> rfl

@[simp] theorem State.setNff_besideHome (s : State) (k : Nat) (b : Bool) : (s.setNff k b).besideHome = s.besideHome := by
  cases b <;> rfl

@[simp] theorem State.awake_besideHome (s : State) (k : Nat) : (s.awake k).besideHome = s.besideHome := by
  unfold State.awake
  split <;> rfl

@[simp] theorem State.dropProxies_besideHome (s : State) (line : Nat) (ds : List Nat) :
    (ds.foldl (fun s d => s.dropProxy line d) s).besideHome = s.besideHome :=
  foldl_keeps State.besideHome (fun (s : State) d => s.dropProxy line d) (fun _ _ => rfl) ds s

@[simp] theorem State.copyHome_besideHome (s : State) (line die : Nat) : (s.copyHome line die).besideHome = s.besideHome := by
  unfold State.copyHome
  split
  · rfl
  · split <;> simp

@[simp] theorem State.bringHome_besideHome (s : State) (line die : Nat) : (s.bringHome line die).besideHome = s.besideHome := by
  unfold State.bringHome
  split
  · rfl
  · split <;> simp

@[simp] theorem State.recall_besideHome (s : State) (line : Nat) : (s.recall line).besideHome = s.besideHome := by
  unfold State.recall
  split <;> simp

/-! ## Tills and ways -/

@[simp] theorem State.foldAddr_besideHome (s : State) (a : Nat) : (s.foldAddr a).besideHome = s.besideHome := by
  simp only [State.foldAddr]
  split <;> simp

@[simp] theorem State.foldLine_besideHome (s : State) (line : Nat) : (s.foldLine line).besideHome = s.besideHome :=
  foldl_keeps State.besideHome State.foldAddr State.foldAddr_besideHome _ s

@[simp] theorem State.pageErrors_besideHome (s : State) (line : Nat) : (s.pageErrors line).besideHome = s.besideHome := by
  refine foldl_keeps State.besideHome _ (fun s e => foldl_keeps State.besideHome _ (fun s x => ?_) _ s) _ s
  dsimp only
  split <;> rfl

@[simp] theorem State.l2Evict_besideHome (s : State) (k line : Nat) : (s.l2Evict k line).besideHome = s.besideHome := by
  simp only [State.l2Evict]
  split
  · rfl
  · split <;> rfl

@[simp] theorem State.l2Take_besideHome (s : State) (line die : Nat) : (s.l2Take line die).besideHome = s.besideHome := by
  have drawn (t : State) : t.draw.2.besideHome = t.besideHome := rfl
  simp only [State.l2Take]
  split
  · rfl
  · split <;> simp [drawn]

@[simp] theorem State.homeWrite_besideHome (s : State) (line : Nat) : (s.homeWrite line).besideHome = s.besideHome := by
  simp [State.homeWrite]

/-! ## Waiters and drains -/

@[simp] theorem State.startDrain_besideHome (s : State) (line : Nat) (cores : List Nat) (d : Drain) :
    (s.startDrain line cores d).besideHome = s.besideHome := by
  simp only [State.startDrain]
  split
  · rfl
  · exact foldl_keeps State.besideHome (fun (s : State) q => s.post (.drainCommandArrival q _)) (fun _ _ => rfl) _ _

@[simp] theorem State.satisfy_besideHome (s : State) (w : Waiter) : (s.satisfy w).besideHome = s.besideHome := by
  simp only [State.satisfy]
  split <;> simp

@[simp] theorem State.walkWaiters_besideHome (s : State) (line : Nat) : (s.walkWaiters line).besideHome = s.besideHome :=
  foldl_keeps State.besideHome State.satisfy State.satisfy_besideHome _ _

@[simp] theorem State.homeStore_besideHome (s : State) (a n v : Nat) (bad : Bool) : (s.homeStore a n v bad).2.besideHome = s.besideHome := by
  simp [State.homeStore]

@[simp] theorem State.touchLeaf_besideHome (s : State) (l : Leaf) (store : Bool) : (s.touchLeaf l store).2.besideHome = s.besideHome := by
  simp only [State.touchLeaf]
  generalize 2 ^ 13 + (if store = true then 2 ^ 12 else 0) = bits
  split
  · rfl
  · split <;> simp

/-! ## The package's time -/

theorem State.pcyc_of_besideHome {s t : State} (h : t.besideHome = s.besideHome) : t.pcyc = s.pcyc :=
  (congrArg State.pcyc h :)

theorem State.settle_pcyc (s : State) (core asid : Nat) (store : Bool) (p : Place) : (s.settle core asid store p).pcyc = s.pcyc := by
  unfold State.settle
  split
  · rfl
  next l _ => exact (State.pcyc_of_besideHome (s.touchLeaf_besideHome l store) :)

theorem State.flushLine_pcyc (s : State) (core tag : Nat) : (s.flushLine none core tag).pcyc = s.pcyc := by
  unfold State.flushLine State.postWriteBack
  split
  · rfl
  · split <;> rfl

theorem State.yieldLines_pcyc (s : State) (core : Nat) (lines : List Nat) : (s.yieldLines core lines).pcyc = s.pcyc :=
  foldl_keeps State.pcyc (fun (s : State) t => s.flushLine none core t) (fun s t => s.flushLine_pcyc core t) _ s

end Sys2Proof.Machine
end

section
/-! PROOFS. The arrival at a barrier word (O14), and what its fields make of it (R134). -/

namespace Sys2Proof.Machine

/-- A word of at most eight bytes is the number read (R2). -/
theorem State.toNat_ofNat_read (s : State) (a : Nat) {n : Nat} (h : n ≤ 8) : (BitVec.ofNat 64 (s.read a n)).toNat = s.read a n := by
  rw [BitVec.toNat_ofNat, Nat.mod_eq_of_lt]
  exact (s.read_lt a n).trans_le (Nat.pow_le_pow_right Nat.two_pos (Nat.mul_le_mul_left 8 h))

theorem toNat_append_eq_add {m n : Nat} (x : BitVec m) (y : BitVec n) : (x ++ y).toNat = x.toNat * 2 ^ n + y.toNat := by
  rw [BitVec.toNat_append, ← Nat.shiftLeft_add_eq_or_of_lt y.isLt, Nat.shiftLeft_eq]

/-- The phase of a barrier word is its high half (R134). -/
theorem phaseOf_toNat (b : Word) : phaseOf b.toNat = (b.extractLsb' 32 32).toNat := bitsOf_eq_extract b 63 32 32

/-- The arrivals so far are its low quarter (R134). -/
theorem toNat_mod_quarter (b : Word) : b.toNat % 65536 = (b.extractLsb' 0 16).toNat := by
  rw [BitVec.extractLsb'_toNat, Nat.shiftRight_zero]

/-- The word of the next phase: the number of participants stands, and no one has arrived (R134). -/
theorem toNat_nextPhase (b : Word) : ((b.extractLsb' 32 32 + 1) ++ b.extractLsb' 16 16 ++ 0#16 : Word).toNat =
    ((b.extractLsb' 32 32).toNat + 1) % 2 ^ 32 * 2 ^ 32 + (b.extractLsb' 16 16).toNat * 2 ^ 16 := by
  have one : (1 : BitVec 32).toNat = 1 := rfl
  rw [toNat_append_eq_add, toNat_append_eq_add, BitVec.toNat_add, one, BitVec.toNat_zero]
  omega

/-- An arrival that does not complete the phase leaves the other fields of the word as they are (R134). -/
theorem toNat_succ_of_waiting {b : Word} (h : (b.extractLsb' 0 16).toNat + 1 < (b.extractLsb' 16 16).toNat) : (b + 1).toNat = b.toNat + 1 := by
  have quarter := toNat_mod_quarter b
  have participants := (b.extractLsb' 16 16).isLt
  bv_omega

/-! ## What an arrival does -/

/-- A waiter whose value is the word as it stands at the home, with the word's mark (R101). -/
def State.markOf (u : State) (w : Waiter) : Waiter := { w with lane := { w.lane with bad := u.poisonAt w.lane.pa 8 } }

section Arrive

variable {s u : State} {w : Waiter} {b : Word} (home : s.homeWrite (w.lane.pa / 128) = u) (word : BitVec.ofNat 64 (u.read w.lane.pa 8) = b)

include home word

/-- The fields of the word decide (R134). -/
theorem State.arrive_eq : s.arrive w =
    if b.extractLsb' 16 16 = 0 ∨ b.extractLsb' 16 16 ≤ b.extractLsb' 0 16 then u.post (.waiterWakeArrival (u.markOf w) b 2)
    else if (b.extractLsb' 0 16).toNat + 1 = (b.extractLsb' 16 16).toNat then
      let fresh : Word := (b.extractLsb' 32 32 + 1) ++ b.extractLsb' 16 16 ++ 0#16
      let t := ((u.writeMarked w.lane.pa 8 fresh.toNat (u.poisonAt w.lane.pa 8)).tag (w.lane.pa / 128)).2
      if w.kind = 1 then t.startDrain (w.lane.pa / 128) (t.recorded (w.lane.pa / 8 * 8)) (.bar (u.markOf w) fresh)
      else (t.walkWaiters (w.lane.pa / 128)).post (.waiterWakeArrival (u.markOf w) fresh 1)
    else ((u.homeStore w.lane.pa 8 (b.toNat + 1) (u.poisonAt w.lane.pa 8)).2).register
      { u.markOf w with cond := .phase (b.extractLsb' 32 32).toNat } := by
  have read : u.read w.lane.pa 8 = b.toNat := by rw [← word, u.toNat_ofNat_read _ (Nat.le_refl 8)]
  have none : (b.extractLsb' 16 16).toNat = 0 ↔ b.extractLsb' 16 16 = 0 := BitVec.toNat_inj (y := 0#16)
  have same (v : Word) : BitVec.ofNat 64 v.toNat = v := ofNat_toNat_same v
  simp only [State.arrive, lineOf, home, read, phaseOf_toNat, toNat_mod_quarter, bitsOf_eq_extract b 31 16 16, none, ge_iff_le, ← BitVec.le_def,
    ← toNat_nextPhase, same]
  rfl

end Arrive

/-- BAR.N's arrival at a home that no page operation holds (R134). -/
theorem exec_barrierArrivalAtHome_second {s : State} {w : Waiter} (second : w.kind = 2) (free : s.pageHolding w.lane.pa = none) :
    exec (.barrierArrivalAtHome w) s = .next ((s.foldLine (w.lane.pa / 128)).arrive w) := by
  have other : w.kind ≠ 1 := by omega
  change execBarrierArrivalAtHome w s = _
  simp only [execBarrierArrivalAtHome, State.enterHome_free free, lineOf, if_pos other]

/-- Settles O14, by the branches of `State.arrive_eq`. -/
theorem barrierArrival : Obligations.BarrierArrival := by
  intro s w₀ a line second free u b phase bn barr w
  rw [exec_barrierArrivalAtHome_second second free, State.arrive_eq rfl rfl]
  refine ⟨fun refused => ?_, fun some last => ?_, fun more => ?_⟩
  · rw [if_pos refused]
    rfl
  · have within : ¬(bn = 0 ∨ bn ≤ barr) := by bv_omega
    have other : w₀.kind ≠ 1 := by omega
    rw [if_neg within, if_pos last]
    exact congrArg Host.Outcome.next (if_neg other)
  · have within : ¬(bn = 0 ∨ bn ≤ barr) := by bv_omega
    rw [if_neg within, if_neg (Nat.ne_of_lt more), ← toNat_succ_of_waiting more]
    rfl

end Sys2Proof.Machine
end

section
/-! PROOFS. Waits, wakes and the till status (O15): what the instructions send, what a wait and a wake do at their home, and what a waiting thread
is given (R131 to R137). -/

namespace Sys2Proof.Machine

/-! ## At issue -/

section Issue

variable {s : State} {f : F6} {a b d : R5} {m : MemOp} {pe : BitVec 4} {p : Place} {kind : Nat}

/-- The tick from which the limit of BAR and BAR.N counts: that of the first issue (R134). -/
def State.barTick (s : State) : Nat := if s.me.stage = 0 then s.ticks else s.me.hold.toNat

/-- BAR waits for everything outstanding, its first tick kept (R134). -/
theorem barInstr_waits (h : s.placeAtomic s.me (homeNeed 8 true true) 0 (s.me.xr m.b) m.disp.toInt = .ok p)
    (out : s.me.longs ≠ 0 ∨ s.me.ackc ≠ 0 ∨ s.me.pendc ≠ 0) : s.barInstr 1 a m =
    .next (s.setMe { s.me with stage := 1, hold := BitVec.ofNat 64 s.barTick, park := some .quiet }) := by
  have busy : (decide (s.me.longs ≠ 0) || decide (s.me.ackc ≠ 0) || decide (s.me.pendc ≠ 0)) = true := by simpa [or_assoc] using out
  simp only [State.barInstr, h, busy, decide_true, Bool.true_and, if_true]
  rfl

/-- An arrival leaves for its home: BAR.N's at once, BAR's once nothing is outstanding (R134). -/
theorem barInstr_sends (h : s.placeAtomic s.me (homeNeed 8 true true) 0 (s.me.xr m.b) m.disp.toInt = .ok p)
    (quiet : kind = 1 → s.me.longs = 0 ∧ s.me.ackc = 0 ∧ s.me.pendc = 0) :
    let t := (s.settle s.me.core s.me.asid true p).yieldLines s.me.core [p.lane.pa / 128]
    s.barInstr kind a m = .next ((t.parkCounted .word).post (.barrierArrivalAtHome
      ⟨t.src, p.lane, .phase 0, deadlineFrom s.barTick (s.me.xr a), false, a, 0, kind⟩)) := by
  have goes : (decide (kind = 1) && (decide (s.me.longs ≠ 0) || decide (s.me.ackc ≠ 0) || decide (s.me.pendc ≠ 0))) = false := by
    simpa [and_assoc] using quiet
  simp only [State.barInstr, h, goes, Bool.false_eq_true, if_false]
  rfl

/-- The limit of WAITW counts from the tick of its issue (R132, R135). -/
theorem exec_waitw_sends (h : s.placeAtomic s.me (homeNeed (if f.getLsbD 3 then 4 else 8) true false) 0 (s.me.xr m.b) m.disp.toInt = .ok p) :
    let t := (s.settle s.me.core s.me.asid false p).yieldLines s.me.core [p.lane.pa / 128]
    exec (.waitw f a m b d pe) s = .next ((t.parkCounted .word).post (.waitRegistration ⟨t.src, p.lane,
      .word (f.toNat % 8) (!f.getLsbD 3) (s.me.xr b), deadlineFrom s.ticks (s.me.xr d), f.getLsbD 4, a, pe, 0⟩)) := by
  intro t
  have tick : t.ticks = s.ticks := by rw [State.ticks, State.ticks, State.yieldLines_pcyc, State.settle_pcyc]
  rw [← tick]
  change execWaitw f a m b d pe s = _
  simp only [execWaitw, h]
  rfl

theorem wakeInstr_sends (timeout : Bool)
    (h : s.placeAtomic s.me { homeNeed 1 true false with align := false, locks := false } 0 (s.me.xr m.b) m.disp.toInt = .ok p) :
    let t := (s.settle s.me.core s.me.asid false p).yieldLines s.me.core [p.lane.pa / 128]
    s.wakeInstr timeout m = .next ((t.post (.wakeAtHome ⟨t.src, [p.lane], .none, true, false⟩ timeout)).done) := by
  simp only [State.wakeInstr, h]
  rfl

end Issue

theorem waitsLeaveForHome : Claims.WaitsLeaveForHome := by
  intro s f a b d m pe p c now dead n
  refine ⟨fun h => ⟨fun out => ?_, fun longs acks pends => ?_, ?_⟩, exec_waitw_sends⟩
  · exact ⟨_, barInstr_waits h out, differs_setCtx _ _ _⟩
  · exact barInstr_sends h fun _ => ⟨longs, acks, pends⟩
  · exact barInstr_sends h fun bar => absurd bar (by decide)

/-! ## At the home -/

/-- A deadline has passed when the cycle in which its tick begins is over (R16, R132). -/
theorem State.passed_some (s : State) (d : Nat) : s.passed (some d) = decide ((d * 33 + 9) / 10 < s.pcyc) := rfl

section Register

variable {s u : State} {w : Waiter} (home : s.homeRead (w.lane.pa / 128) = u) (small : w.lane.n ≤ 8)

include home small

/-- A wait whose condition holds succeeds (R131). -/
theorem State.register_holds (holds : waitHolds w.cond (u.read w.lane.pa w.lane.n) = true) : s.register w = u.satisfy w := by
  simp only [State.register, lineOf, home, State.waiterValue, u.toNat_ofNat_read _ small, holds, if_true]

variable (fails : waitHolds w.cond (u.read w.lane.pa w.lane.n) = false)

include fails

/-- One whose condition does not hold expires where its deadline has passed (R132). -/
theorem State.register_late (late : u.passed w.deadline = true) : s.register w = u.expire w := by
  simp only [State.register, lineOf, home, State.waiterValue, u.toNat_ofNat_read _ small, fails, late, Bool.false_eq_true, if_false, if_true]

/-- A full table has it polled (R131). -/
theorem State.register_full (early : u.passed w.deadline = false) (full : Config.waiterEntries ≤ (u.slice (homeSlice (w.lane.pa / 128))).waiting) :
    s.register w = u.at (u.pcyc + 1024) (.waiterPollRetry w) := by
  simp only [State.register, lineOf, home, State.waiterValue, u.toNat_ofNat_read _ small, fails, early, Bool.false_eq_true, if_false, ge_iff_le, full,
    if_true]

/-- One without a deadline is registered while there is room (R131). -/
theorem State.register_room (unlimited : w.deadline = none) (room : (u.slice (homeSlice (w.lane.pa / 128))).waiting < Config.waiterEntries) :
    let k := homeSlice (w.lane.pa / 128)
    s.register w = u.setSlice k { u.slice k with waiters := (u.slice k).waiters ++ [w], retained := false } := by
  have early : u.passed none = false := rfl
  simp only [State.register, lineOf, home, State.waiterValue, u.toNat_ofNat_read _ small, fails, unlimited, early, Bool.false_eq_true, if_false,
    ge_iff_le, Nat.not_le.2 room]

end Register

section Home

variable {s : State} {w : Waiter} {q : MemReq} {l : Lane}

theorem exec_waitRegistration_free (free : s.pageHolding w.lane.pa = none) : exec (.waitRegistration w) s = .next (s.register w) := by
  change execWaitRegistration w s = _
  rw [execWaitRegistration, State.enterHome_free free]

/-- The deadline ends a wait that is registered, but for one whose phase is draining (R132, R134). -/
theorem exec_waitDeadlineExpiry_eq :
    let k := homeSlice (w.lane.pa / 128)
    exec (.waitDeadlineExpiry w) s = .next (if w ∈ (s.slice k).waiters ∧ (forPhase w && s.phaseDrains w.lane.pa) = false
      then (s.setSlice k { s.slice k with waiters := (s.slice k).waiters.erase w }).expire w else s) := by
  intro k
  change execWaitDeadlineExpiry w s = _
  simp only [execWaitDeadlineExpiry, Bool.and_eq_true, List.contains_iff_mem, Bool.not_eq_true']
  split
  next ends => exact congrArg Host.Outcome.next (if_pos ends).symm
  next stays => exact congrArg Host.Outcome.next (if_neg stays).symm

theorem exec_waiterPollRetry_eq : exec (.waiterPollRetry w) s =
    .next (s.post (if (s.ctx w.src.tid).imstate = .suspended then .suspendedPollerRequeue w else .waitRegistration w)) := by
  change execWaiterPollRetry w s = _
  simp only [execWaiterPollRetry, beq_iff_eq]
  split <;> rfl

/-- A wake walks the waiters of its line; the second form ends those that the walk leaves (R136). -/
theorem exec_wakeAtHome_walks (one : q.lanes = [l]) (free : s.pageHolding l.pa = none) :
    exec (.wakeAtHome q false) s = .next ((s.homeRead (l.pa / 128)).walkWaiters (l.pa / 128)) := by
  change execWakeAtHome q false s = _
  simp only [execWakeAtHome, one, State.enterHome_free free, lineOf, Bool.false_eq_true, if_false]

theorem exec_wakeAtHome_ends (one : q.lanes = [l]) (free : s.pageHolding l.pa = none) :
    let g := (s.homeRead (l.pa / 128)).walkWaiters (l.pa / 128)
    let h := homeSlice (l.pa / 128)
    exec (.wakeAtHome q true) s = .next (((g.slice h).waiters.filter fun x => x.lane.pa / 128 = l.pa / 128).foldl State.expire
      (g.setSlice h { g.slice h with waiters := (g.slice h).waiters.filter fun x => x.lane.pa / 128 ≠ l.pa / 128 })) := by
  change execWakeAtHome q true s = _
  simp only [execWakeAtHome, one, State.enterHome_free free, lineOf, if_true]
  rfl

end Home

theorem waitsAtHome : Claims.WaitsAtHome := by
  intro s w m p q l line u k holds late small
  have passed (now : u.pcyc = s.pcyc) : u.passed w.deadline = late := by
    simp only [late]
    cases w.deadline with
    | none => rfl
    | some d => rw [State.passed_some, now]
  refine ⟨fun free => ?_, exec_waitDeadlineExpiry_eq, exec_waiterPollRetry_eq, rfl,
    fun h => ⟨wakeInstr_sends false h, wakeInstr_sends true h⟩, fun one free => ⟨exec_wakeAtHome_walks one free, exec_wakeAtHome_ends one free⟩⟩
  rw [exec_waitRegistration_free free]
  refine ⟨fun yes => ?_, fun no now ended => ?_, fun no now early full => ?_, fun no unlimited room => ?_⟩
  · rw [State.register_holds rfl small yes]
  · rw [State.register_late rfl small no ((passed now).trans ended)]
  · rw [State.register_full rfl small no ((passed now).trans early) full]
  · rw [State.register_room rfl small no unlimited room]

/-! ## What a waiting thread is given -/

section Wakes

variable {s : State} {w : Waiter} {val : Word} {r : Nat}

theorem exec_waiterWakeArrival_elsewhere (other : (s.ctx w.src.tid).park ≠ some .word) : exec (.waiterWakeArrival w val r) s = .next s := by
  change execWaiterWakeArrival w val r s = _
  simp only [execWaiterWakeArrival, if_pos other]

/-- The result code of a barrier, and of a JOIN: 0 for success, 1 for the deadline, 2 for a malformed word (R134). -/
def wakeCode (r : Nat) : BitVec 32 := if r = 1 then 0 else if r = 0 then 1 else 2

/-- WAITW's result is its word, four bytes sign-extended (R135). -/
theorem waitResult_word (kind : w.kind = 0) : waitResult w val r = if w.lane.n = 4 then (val.setWidth 32).signExtend 64 else val := by
  have four : sextWord 32 val.toNat = (val.setWidth 32).signExtend 64 := by
    rw [sextWord_eq _ (by decide), BitVec.ofNat_toNat]
  simp only [waitResult, kind, four]

/-- A barrier's is its phase over the code (R134). -/
theorem waitResult_barrier (kind : w.kind = 1 ∨ w.kind = 2) : waitResult w val r = val.extractLsb' 32 32 ++ wakeCode r := by
  have code : (if r = 1 then 0 else if r = 0 then 1 else 2) = (wakeCode r).toNat := by
    rw [wakeCode]
    split
    · rfl
    · split <;> rfl
  have word : waitResult w val r = BitVec.ofNat 64 (phaseOf val.toNat * 2 ^ 32 + (wakeCode r).toNat) := by
    rw [← code]
    rcases kind with kind | kind <;> simp only [waitResult, kind]
  rw [word, phaseOf_toNat, ← toNat_append_eq_add]
  exact ofNat_toNat_same _

/-- A wake of a thread that waits gives it its result, after the acquire of a wait that succeeded (R131). -/
theorem exec_waiterWakeArrival_wakes (waits : (s.ctx w.src.tid).park = some .word) (good : w.lane.bad = false) :
    let u := if decide (r = 1) && (w.acq || w.kind == 1) then s.selfInvalidate (s.ctx w.src.tid).core else s
    exec (.waiterWakeArrival w val r) s = .next (u.wakeWith w.src.tid fun c =>
      if w.kind = 0 then (c.setX w.a (waitResult w val r)).setP w.pe.toNat (r = 1) else c.setX w.a (waitResult w val r)) := by
  change execWaiterWakeArrival w val r s = _
  simp only [execWaiterWakeArrival, waits, good, ne_eq, not_true_eq_false, if_false, Bool.and_false, Bool.false_and, Bool.false_eq_true]
  rfl

end Wakes

theorem wakeResults : Claims.WakeResults := by
  intro s w val r c code acquires u
  refine ⟨exec_waiterWakeArrival_elsewhere, fun waits good => ?_⟩
  rw [exec_waiterWakeArrival_wakes waits good]
  refine ⟨fun kind => ?_, fun kind => ?_⟩
  · simp only [if_pos kind, waitResult_word kind]
    rfl
  · have other : w.kind ≠ 0 := by omega
    simp only [if_neg other, waitResult_barrier kind]
    rfl

/-! ## The till status -/

theorem pendInstr_sends {s : State} {a : R5} {m : MemOp} {p : Place} (clear : Bool)
    (h : s.placeAtomic s.me { homeNeed 1 true false with align := false, locks := false, rdup := true } 0 (s.me.xr m.b) m.disp.toInt = .ok p) :
    let t := s.settle s.me.core s.me.asid false p
    s.pendInstr clear a m = .next ((t.finish (·.pendX a)).post (.atomicAtHome ⟨t.src, [p.lane], .x a 8 false, true, false⟩ (.pend clear))) := by
  simp only [State.pendInstr, h]

theorem pendCompletes : Claims.PendCompletes := by
  intro s a m p clear h t
  have form : exec (if clear then .pendC a m else .pend a m) s = s.pendInstr clear a m := by cases clear <;> rfl
  rw [form]
  exact ⟨_, pendInstr_sends clear h, differs_post (differs_setCtx _ _ _) _⟩

/-- Settles O15, claim by claim. -/
theorem waitsAndWakes : Obligations.WaitsAndWakes := ⟨waitsLeaveForHome, waitsAtHome, wakeResults, pendCompletes⟩

end Sys2Proof.Machine
end

section
/-! PROOFS. What a step does next (O55): an event that is due, a message in flight that a free choice names, or the turn of a core (log 3, log 6). -/

namespace Sys2Proof.Machine

/-! ## The meaning of an event -/

/-- Each event row of `deliverEvent` is the row of `exec` with its name. -/
theorem delivers_deliverEvent (s : State) (e : Event) : Claims.Delivers s (deliverEvent e s) e := by
  cases e <;> rfl

theorem step_eq_ends (s : State) : step s = Claims.Ends s s.happen := by
  unfold step
  cases s.happen <;> rfl

/-! ## What happens next -/

section Happen

variable {s : State} {e : Event} {r : List Event}

/-- The free choice of a step while messages are in flight: 0 for a core's turn, else one more than the place of a message (log 3). -/
def State.choiceOfStep (s : State) : Nat := Config.next s.draws % (s.pending.length + 1)

/-- The state once that choice has been drawn. -/
def State.drawn (s : State) : State := { s with draws := s.draws + 1 }

/-- The place of the message that the choice settles on. -/
def State.chosen (s : State) : Nat := s.drawn.choose (s.choiceOfStep - 1)

theorem State.happen_due (due : s.due = e :: r) : s.happen = deliverEvent e { s with due := r } := by
  simp only [State.happen, due]

theorem State.happen_turn (due : s.due = []) (flying : s.pending ≠ []) (turn : s.choiceOfStep = 0) : s.happen = s.drawn.issueTurn := by
  unfold State.happen
  split
  next due' => exact absurd (due'.symm.trans due) (List.cons_ne_nil _ _)
  next =>
    split
    next none => exact absurd none flying
    next => exact if_pos turn

/-- The choice of a message: it arrives, unless its slice has accepted one of a higher plane in this cycle (R430). -/
theorem State.happen_message (due : s.due = []) (message : s.choiceOfStep ≠ 0) (found : s.pending[s.chosen]? = some e) :
    s.happen = if s.drawn.tooLate e then s.drawn.issueTurn
      else deliverEvent e (({ s.drawn with pending := s.pending.eraseIdx s.chosen } : State).accept e) := by
  unfold State.happen
  split
  next due' => exact absurd (due'.symm.trans due) (List.cons_ne_nil _ _)
  next =>
    split
    next none =>
      rw [none] at found
      exact absurd found (Option.some_ne_none e).symm
    next =>
      refine (if_neg message).trans ?_
      change (match s.pending[s.chosen]? with
        | none => s.drawn.issueTurn
        | some e => if s.drawn.tooLate e then s.drawn.issueTurn
            else deliverEvent e (({ s.drawn with pending := s.pending.eraseIdx s.chosen } : State).accept e)) = _
      rw [found]

end Happen

/-- Settles O55: what happens next, by the branches of `State.happen`. -/
theorem eventsAreDelivered : Obligations.EventsAreDelivered := by
  intro s e r n u k delivers
  have delivers_of {v : State} (h : s.happen = deliverEvent e v) : delivers v :=
    ⟨_, delivers_deliverEvent v e, by rw [step_eq_ends, h]⟩
  have turn_of (h : s.happen = u.issueTurn) : step s = Claims.Ends s u.issueTurn := by rw [step_eq_ends, h]
  refine ⟨delivers_deliverEvent s e, fun due => delivers_of (State.happen_due due),
    fun due flying turn => turn_of (State.happen_turn due flying turn),
    fun due message found => ⟨fun late => ?_, fun early => ?_⟩⟩
  · exact turn_of ((State.happen_message due message found).trans (if_pos late))
  · refine delivers_of ((State.happen_message due message found).trans (if_neg ?_))
    exact Bool.eq_false_iff.1 early

end Sys2Proof.Machine
end

section
/-! PROOFS. The release of TEL.F (O33): it cleans the core where the instruction was issued (R144, R146), not the core where the thread stands now, so
a request that has waited, of a thread that has been placed elsewhere meanwhile, may find dirty lines and wait for their write-backs. -/

namespace Sys2Proof.Machine

section Release

variable {s t : State} {scope base : Nat} {o : TelOp} {ls : List (Nat × Lock)}

/-- The state once a release has written back what its core holds dirty (R144). -/
def State.cleaned (s : State) : State := s.cleanAll none s.me.issuedOn fun _ => true

/-- The state in which the thread then waits for those write-backs. -/
def State.awaitsBacks (s : State) (base : Nat) : State :=
  s.cleaned.setMe { s.cleaned.me with stage := base + 1, midway := true, park := some (.writeBacks s.me.issuedOn) }

theorem State.awaitsBacks_park (base : Nat) : (s.awaitsBacks base).me.park = some (.writeBacks s.me.issuedOn) := by
  rw [State.awaitsBacks, State.me_setMe]

theorem State.relPart_writesBack (first : s.me.stage ≤ base) (quiet : s.quiet s.cur (scope == 0) = true) (near : scope ≤ 4)
    (back : s.cleaned.writingBack s.me.issuedOn = true) : s.relPart scope base = .error (s.awaitsBacks base) := by
  rw [State.cleaned] at back
  simp only [State.relPart, quiet, back, if_neg (Nat.not_lt.2 first), if_neg (Nat.not_lt.2 near)]
  rfl

theorem State.landStores_nothing_pending (tid : Nat) (none : s.pending = []) : s.landStores tid = s := by
  rw [State.landStores, State.landThose, none]
  exact congrArg (fun p => { s with pending := p }) none.symm

/-- TEL.F of a request that has waited waits where its release does (R312). -/
theorem exec_tel_releasing {f : F6} {b : R5} (waited : s.me.telReq = some (o, ls)) (form : f.getLsbD 0 = true)
    (waits : (s.landStores s.cur).relPart 4 10 = .error t) : exec (.tel f b) s = .next t := by
  change Host.Outcome.next (s.telInstr _ b _ _) = _
  rw [State.telInstr, waited, form]
  simp only [State.telSend, if_true, waits]

/-- An instruction that completes leaves its thread waiting for no write-back (R37). -/
theorem State.done_park_ne_writeBacks (core : Nat) : s.done.me.park ≠ some (.writeBacks core) := by
  rw [State.done, State.me_setMe]
  change (if _ then some Park.allLong else none) ≠ _
  split <;> simp

end Release

/-! ## The counterexample -/

/-- A FILL of 256 bytes at 0x10200 that has passed its checks, with the lock of its range (R308, R313). -/
def waitedFill : TelOp × List (Nat × Lock) :=
  (⟨0, ⟨0, 0, 0, 0⟩, .user, 0, 0, [4, 0, 0x10200, 256#64 <<< 40], 1, 256, 0, 0, 0, none, [], false, false, [], 0, [], [], [], 0, 0, none, 0, false⟩,
    [(0, ⟨1, true, 0, 0x10200, 0x102FF, 0⟩)])

/-- Thread 0 stands on core 0, and its TEL.F was issued on core 1, which holds a dirty line. -/
def displacedTeller : State :=
  { State.reset with
    pending := []
    threads := [(0, { Ctx.blank with telReq := some waitedFill, issuedOn := 1 })]
    cores := [(1, { Core.initial with cache := [(tagOf 0x204 0, { CacheLine.empty 0 false with valid := 1, dirty := 1 })] })] }

theorem atRest_displacedTeller : AtRest displacedTeller :=
  ⟨rfl, rfl, rfl, rfl, nofun, rfl⟩

/-- Its TEL.F waits for core 1's write-back. -/
theorem exec_tel_displacedTeller : exec (.tel 1 8) displacedTeller = .next (displacedTeller.awaitsBacks 10) := by
  have back : displacedTeller.cleaned.writingBack displacedTeller.me.issuedOn = true := by decide +kernel
  refine exec_tel_releasing rfl rfl ?_
  rw [State.landStores_nothing_pending _ rfl]
  exact State.relPart_writesBack (Nat.zero_le _) rfl (Nat.le_refl _) back

/-- Refutes O33: the second clause of `Claims.TellerRequests` looks at the cache of the core where the thread stands, and the release of TEL.F cleans the
core where the instruction was issued; in `displacedTeller` these differ, there is room, and TEL.F waits for a write-back. -/
theorem not_tellerRequestsAndEvents : ¬ Obligations.TellerRequestsAndEvents := by
  rintro ⟨requests, -, -⟩
  obtain ⟨-, waited, -⟩ := requests displacedTeller _ 1 0 8 0 _ _ _
  obtain ⟨-, -, accepted⟩ := waited (.inl rfl) (.inr ⟨atRest_displacedTeller, fun _ h => absurd h List.not_mem_nil⟩)
  obtain ⟨completes, -⟩ := accepted rfl rfl
  have park := displacedTeller.awaitsBacks_park 10
  rw [Host.Outcome.next.inj (exec_tel_displacedTeller.symm.trans completes)] at park
  exact State.done_park_ne_writeBacks _ park

end Sys2Proof.Machine
end

section
/-! PROOFS. Page instructions at rest (O18): PGMODE and PGMIG wait for the earlier accesses of their thread (R172), a TQRY at another device among
them (R139, R157), which a thread at rest may still have. -/

namespace Sys2Proof.Machine

/-- A thread whose load is not bound yet has an access that is not performed (R139). -/
theorem State.quiet_of_loading {s : State} {tid : Nat} {system : Bool} (h : s.loading tid = true) : s.quiet tid system = false := by
  simp [State.quiet, h]

/-- Refutes O18: the clause of `Claims.PageInstructions` that a thread at rest has every earlier access performed fails in `waitingAbroad`, where the
thread is at rest and its TQRY waits for another device, which `AtRest` does not look at; its PGMODE parks. -/
theorem not_pageInstructionsAndQueries : ¬ Obligations.PageInstructionsAndQueries := by
  rintro ⟨instructions, -⟩
  obtain ⟨-, -, -, -, -, atRest, -⟩ := instructions waitingAbroad false 0 0 0
  exact atRest atRest_waitingAbroad (State.quiet_of_loading loading_waitingAbroad)

end Sys2Proof.Machine
end

section
/-! PROOFS. The directory's transitions (R162 to R165, R446): what each operation of a home and of a die's copy does to a line's directory state and
to its copies, and from these what the directory's messages do. -/

namespace Sys2Proof.Machine

/-! ## A line takes a way (R162, R446) -/

theorem State.pageErrors_slices (s : State) (line : Nat) : (s.pageErrors line).slices = s.slices := by
  refine foldl_keeps State.slices _ (fun s e => foldl_keeps State.slices _ (fun s x => ?_) _ s) _ s
  dsimp only
  split <;> rfl

theorem State.slice_congr {s t : State} (h : t.slices = s.slices) (k : Nat) : t.slice k = s.slice k := by
  rw [State.slice, State.slice, h]

theorem State.slice_setSlice_other (s : State) {j k : Nat} (c : Slice) (h : j ≠ k) : (s.setSlice k c).slice j = s.slice j := by
  rw [State.slice, State.setSlice, SMap.get_set_other _ _ _ _ _ h, State.slice]

/-- What a slice keeps of itself when it is put back, every slice keeps. -/
theorem State.setSlice_keeps {α : Type} (f : Slice → α) {s : State} {k : Nat} {c : Slice} (h : f c = f (s.slice k)) (j : Nat) :
    f ((s.setSlice k c).slice j) = f (s.slice j) := by
  by_cases hj : j = k
  · subst hj
    rw [State.slice_setSlice, h]
  · rw [State.slice_setSlice_other _ _ hj]

theorem State.slice_l2Evict (s : State) (k line j : Nat) : (s.l2Evict k line).slice j = (s.l2Leave k line).slice j := by
  simp only [State.l2Evict]
  split
  · rfl
  · split <;> rfl

theorem State.l2Leave_keeps {α : Type} (f : Slice → α) (h : ∀ c ls, f { c with l2 := ls } = f c) (s : State) (k line j : Nat) :
    f ((s.l2Leave k line).slice j) = f (s.slice j) :=
  State.setSlice_keeps f (h _ _) j

/-- What of a slice does not look at its lines, stays when a line takes a way. -/
theorem State.l2Take_keeps {α : Type} (f : Slice → α) (h : ∀ c ls, f { c with l2 := ls } = f c) (s : State) (line die j : Nat) :
    f ((s.l2Take line die).slice j) = f (s.slice j) := by
  have errors : f ((s.pageErrors line).slice j) = f (s.slice j) := by rw [State.slice_congr (s.pageErrors_slices line)]
  simp only [State.l2Take]
  split
  · rfl
  · rw [State.setSlice_keeps f (h _ _)]
    split
    · exact errors
    · rw [State.slice_l2Evict, State.l2Leave_keeps f h]
      exact errors

/-- A full set that gives up one of its lines has room. -/
theorem length_filter_ne_lt {ls : List Nat} {n : Nat} (h : 0 < ls.length) :
    (ls.filter (· ≠ ls.getD (n % ls.length) 0)).length < ls.length := by
  have inside : n % ls.length < ls.length := Nat.mod_lt _ h
  refine List.length_filter_lt_length_iff_exists.2 ⟨_, List.getElem_mem inside, ?_⟩
  rw [List.getD_eq_getElem _ _ inside]
  simp

theorem State.l2Peers_l2Evict (s : State) (k line victim : Nat) :
    (s.l2Evict k victim).l2Peers k line = (s.l2Peers k line).filter (· ≠ victim) := by
  rw [State.l2Peers, State.slice_l2Evict, State.l2Leave, State.slice_setSlice, State.l2Peers, List.filter_comm]

theorem State.l2Peers_congr {s t : State} (h : t.slices = s.slices) (k line : Nat) : t.l2Peers k line = s.l2Peers k line := by
  rw [State.l2Peers, State.slice_congr h, State.l2Peers]

theorem State.length_l2Peers_push (s : State) (k line : Nat) :
    ((s.setSlice k { s.slice k with l2 := (s.slice k).l2 ++ [line] }).l2Peers k line).length = (s.l2Peers k line).length + 1 := by
  simp [State.l2Peers]

/-- A set never holds more lines than the slice has ways (R446). -/
theorem State.l2Take_fits {s : State} {line die : Nat} (ways : 0 < s.l2Ways die)
    (fits : (s.l2Peers (sliceAt die (sliceIndex line)) line).length ≤ s.l2Ways die) :
    ((s.l2Take line die).l2Peers (sliceAt die (sliceIndex line)) line).length ≤ s.l2Ways die := by
  by_cases taken : line ∈ (s.slice (sliceAt die (sliceIndex line))).l2
  · rwa [State.l2Take_of_mem taken]
  have dies : (s.pageErrors line).dies = s.dies := (congrArg State.dies (s.pageErrors_besideHome line) :)
  have ways_eq : (s.pageErrors line).l2Ways die = s.l2Ways die := by rw [State.l2Ways, State.die, dies, State.l2Ways, State.die]
  have peers := State.l2Peers_congr (s.pageErrors_slices line) (sliceAt die (sliceIndex line)) line
  have drawn := State.l2Peers_congr (t := (s.pageErrors line).draw.2) (s.pageErrors_slices line) (sliceAt die (sliceIndex line)) line
  simp only [State.l2Take, List.contains_iff_mem, taken, if_false, ways_eq, peers]
  split
  next room =>
    rw [State.length_l2Peers_push, peers]
    exact room
  next full =>
    have fewer := length_filter_ne_lt (n := (s.pageErrors line).draw.1.toNat) (Nat.lt_of_lt_of_le ways (Nat.not_lt.1 full))
    rw [State.length_l2Peers_push, State.l2Peers_l2Evict, drawn]
    exact Nat.le_trans fewer fits

/-! ## The directory's table -/

theorem dirFind_append (a b : List (Nat × Dir)) (line : Nat) : dirFind (a ++ b) line = (dirFind a line).or (dirFind b line) := by
  induction a with
  | nil => rfl
  | cons e r ih =>
    simp only [List.cons_append, dirFind]
    split
    · rfl
    · exact ih

theorem dirFind_filter_self (es : List (Nat × Dir)) (line : Nat) : dirFind (es.filter fun e => e.1 ≠ line) line = none := by
  induction es with
  | nil => rfl
  | cons e r ih =>
    by_cases h : e.1 = line
    · simpa [h] using ih
    · simpa [h, dirFind] using ih

theorem dirFind_filter_other (es : List (Nat × Dir)) {l line : Nat} (h : l ≠ line) :
    dirFind (es.filter fun e => e.1 ≠ line) l = dirFind es l := by
  induction es with
  | nil => rfl
  | cons e r ih =>
    by_cases own : e.1 = line
    · have other : e.1 ≠ l := fun same => h (same.symm.trans own)
      simpa [own, dirFind, Ne.symm h] using ih
    · by_cases here : e.1 = l
      · simp [dirFind, here, h]
      · simpa [own, dirFind, here] using ih

theorem State.dirOf_congr {s t : State} {line : Nat} (h : (t.slice (homeSlice line)).dir = (s.slice (homeSlice line)).dir) :
    t.dirOf line = s.dirOf line := by
  rw [State.dirOf, State.dirOf, h]

theorem State.dirOf_putDir_self (s : State) (line : Nat) (d : Option Dir) : (s.putDir line d).dirOf line = d := by
  cases d with
  | none => simp only [State.dirOf, State.putDir, State.slice_setSlice, dirFind_filter_self]
  | some d => simp only [State.dirOf, State.putDir, State.slice_setSlice, dirFind_append, dirFind_filter_self, dirFind, if_true, Option.none_or]

theorem State.dirOf_putDir_other (s : State) {l line : Nat} (d : Option Dir) (h : l ≠ line) : (s.putDir line d).dirOf l = s.dirOf l := by
  by_cases same : homeSlice l = homeSlice line
  · cases d with
    | none => simp only [State.dirOf, State.putDir, same, State.slice_setSlice, dirFind_filter_other _ h]
    | some d =>
      simp only [State.dirOf, State.putDir, same, State.slice_setSlice, dirFind_append, dirFind_filter_other _ h, dirFind, Ne.symm h, if_false,
        Option.or_none]
  · exact State.dirOf_congr (congrArg Slice.dir (State.slice_setSlice_other _ _ same))

/-! ## One operation after another -/

theorem SMap.find?_erase_self {α : Type} (m : SMap α) (k : Nat) : (m.erase k).find? k = none := by
  induction m with
  | nil => rfl
  | cons e r ih =>
    by_cases h : e.1 = k
    · simpa [SMap.erase, h] using ih
    · simpa [SMap.erase, h, SMap.find?] using ih

theorem SMap.find?_erase_other {α : Type} (m : SMap α) {j k : Nat} (h : j ≠ k) : (m.erase k).find? j = m.find? j := by
  induction m with
  | nil => rfl
  | cons e r ih =>
    by_cases own : e.1 = k
    · simpa [SMap.erase, own, SMap.find?, Ne.symm h] using ih
    · by_cases here : e.1 = j
      · simp [SMap.erase, SMap.find?, here, h]
      · simpa [SMap.erase, own, SMap.find?, here] using ih

theorem SMap.find?_concat {α : Type} (m : SMap α) (k : Nat) (v : α) (j : Nat) :
    SMap.find? (m ++ [(k, v)]) j = (m.find? j).or (if k = j then some v else none) := by
  induction m with
  | nil => rfl
  | cons e r ih =>
    simp only [List.cons_append, SMap.find?]
    split
    · rfl
    · exact ih

/-- The copies of a line that the dies hold when those of `gone` have lost theirs and those of `given` have been given theirs. -/
def State.copies (s : State) (line : Nat) (given : SMap Proxy) (gone : List Nat) (k : Nat) : Option Proxy :=
  (given.find? k).or (if k ∈ gone then none else s.proxy line k)

/-- From `s` to `t` a line has come to a directory state, its copies have been given and taken away, and every other line's directory state and copies
are as they were. -/
structure Moved (s t : State) (line : Nat) (dir : Option Dir) (given : SMap Proxy) (gone : List Nat) : Prop where
  dir : t.dirOf line = dir
  copies : ∀ k, k < 4 → t.proxy line k = s.copies line given gone k
  others : ∀ l k, l ≠ line → k < 4 → t.dirOf l = s.dirOf l ∧ t.proxy l k = s.proxy l k

section Moved

variable {s t u : State} {line die : Nat} {dir : Option Dir} {given : SMap Proxy} {gone : List Nat} {p : Proxy}

theorem Moved.refl (s : State) (line : Nat) : Moved s s line (s.dirOf line) [] [] where
  dir := rfl
  copies k _ := by simp [State.copies, SMap.find?]
  others _ _ _ _ := ⟨rfl, rfl⟩

/-- What changes no directory and no copy, moves no line. -/
theorem Moved.keep (h : Moved s t line dir given gone) (dirs : ∀ l, u.dirOf l = t.dirOf l) (copies : u.proxies = t.proxies) :
    Moved s u line dir given gone := by
  have proxies (l k : Nat) : u.proxy l k = t.proxy l k := by rw [State.proxy, State.proxy, copies]
  exact ⟨(dirs line).trans h.dir, fun k hk => (proxies line k).trans (h.copies k hk),
    fun l k hl hk => ⟨(dirs l).trans (h.others l k hl hk).1, (proxies l k).trans (h.others l k hl hk).2⟩⟩

theorem State.l2Take_dirOf (s : State) (line die l : Nat) : (s.l2Take line die).dirOf l = s.dirOf l :=
  State.dirOf_congr (State.l2Take_keeps Slice.dir (fun _ _ => rfl) s line die _)

theorem Moved.l2Take (h : Moved s t line dir given gone) (l die : Nat) : Moved s (t.l2Take l die) line dir given gone :=
  h.keep (t.l2Take_dirOf l die) (State.stored_eq_iff.1 (t.l2Take_stored l die)).2.2

theorem Moved.putDir (h : Moved s t line dir given gone) (d : Option Dir) : Moved s (t.putDir line d) line d given gone where
  dir := t.dirOf_putDir_self line d
  copies := h.copies
  others l k hl hk := ⟨(t.dirOf_putDir_other d hl).trans (h.others l k hl hk).1, (h.others l k hl hk).2⟩

/-- A die is given a copy. -/
theorem Moved.setProxy (h : Moved s t line dir given gone) (hd : die < 4) (new : given.find? die = none) (p : Proxy) :
    Moved s (t.setProxy line die p) line dir (given ++ [(die, p)]) gone := by
  have taken := h.l2Take line die
  have other {l k : Nat} (hl : l ≠ line ∨ k ≠ die) (hk : k < 4) : (t.setProxy line die p).proxy l k = (t.l2Take line die).proxy l k :=
    SMap.find?_set_other _ _ _ _ (by omega)
  refine ⟨taken.dir, fun k hk => ?_, fun l k hl hk => ⟨(taken.others l k hl hk).1, (other (.inl hl) hk).trans (taken.others l k hl hk).2⟩⟩
  rw [State.copies, SMap.find?_concat]
  by_cases own : k = die
  · subst own
    simp [State.proxy_setProxy, new]
  · rw [other (.inr own) hk, taken.copies k hk, State.copies, if_neg (Ne.symm own), Option.or_none]

theorem State.dropProxy_dirOf (s : State) (line die l : Nat) : (s.dropProxy line die).dirOf l = s.dirOf l :=
  State.dirOf_congr (s.l2Leave_keeps Slice.dir (fun _ _ => rfl) _ line _)

/-- A die loses its copy. -/
theorem Moved.dropProxy (h : Moved s t line dir [] gone) (hd : die < 4) : Moved s (t.dropProxy line die) line dir [] (gone ++ [die]) := by
  have other {l k : Nat} (hl : l ≠ line ∨ k ≠ die) (hk : k < 4) : (t.dropProxy line die).proxy l k = t.proxy l k :=
    SMap.find?_erase_other _ (by omega)
  refine ⟨(t.dropProxy_dirOf line die line).trans h.dir, fun k hk => ?_,
    fun l k hl hk => ⟨(t.dropProxy_dirOf line die l).trans (h.others l k hl hk).1, (other (.inl hl) hk).trans (h.others l k hl hk).2⟩⟩
  by_cases own : k = die
  · subst own
    exact (SMap.find?_erase_self t.proxies (4 * line + k)).trans (by simp [State.copies, SMap.find?])
  · rw [other (.inr own) hk, h.copies k hk, State.copies, State.copies]
    simp [own]

theorem Moved.dropProxies {ds : List Nat} (h : Moved s t line dir [] gone) (hd : ∀ d ∈ ds, d < 4) :
    Moved s (ds.foldl (fun s d => s.dropProxy line d) t) line dir [] (gone ++ ds) := by
  induction ds generalizing t gone with
  | nil => simpa using h
  | cons d r ih => simpa using ih (h.dropProxy (hd d List.mem_cons_self)) fun x hx => hd x (List.mem_cons_of_mem _ hx)

end Moved

/-! ## The home's own copy -/

/-- Memory and its marks. -/
def State.contents (s : State) : List Host.Cell × List Nat := (s.mem, s.poisoned)

theorem State.contents_of_stored {s t : State} (h : t.stored = s.stored) : t.contents = s.contents := by
  obtain ⟨mem, marks, -⟩ := State.stored_eq_iff.1 h
  rw [State.contents, State.contents, mem, marks]

@[simp] theorem State.l2Take_contents (s : State) (line die : Nat) : (s.l2Take line die).contents = s.contents :=
  State.contents_of_stored (s.l2Take_stored line die)

@[simp] theorem State.setProxy_contents (s : State) (line die : Nat) (p : Proxy) : (s.setProxy line die p).contents = s.contents :=
  s.l2Take_contents line die

@[simp] theorem State.putDir_contents (s : State) (line : Nat) (d : Option Dir) : (s.putDir line d).contents = s.contents := rfl

@[simp] theorem State.dropProxies_contents (s : State) (line : Nat) (ds : List Nat) :
    (ds.foldl (fun s d => s.dropProxy line d) s).contents = s.contents :=
  foldl_keeps State.contents (fun (s : State) d => s.dropProxy line d) (fun _ _ => rfl) ds s

theorem State.l2Take_seqOf (s : State) (line die : Nat) : (s.l2Take line die).seqOf line = s.seqOf line :=
  congrArg (fun m => SMap.get m line 0) (State.l2Take_keeps Slice.seqs (fun _ _ => rfl) s line die _)

theorem State.dropProxies_seqOf (s : State) (line : Nat) (ds : List Nat) :
    (ds.foldl (fun s d => s.dropProxy line d) s).seqOf line = s.seqOf line :=
  foldl_keeps (fun s : State => s.seqOf line) (fun (s : State) d => s.dropProxy line d)
    (fun s _ => congrArg (fun m => SMap.get m line 0) (s.l2Leave_keeps Slice.seqs (fun _ _ => rfl) _ line _)) ds s

/-- The copy of a line that its home gives a die (R163, R164). -/
def State.homeCopy (s : State) (line : Nat) (st : CopyState) : Proxy :=
  ⟨st, BitVec.ofNat 1024 (s.readLine line), 0, s.linePoison line, s.seqOf line, 0⟩

theorem State.homeCopy_congr {s t : State} {line : Nat} (same : t.contents = s.contents) (seq : t.seqOf line = s.seqOf line) (st : CopyState) :
    t.homeCopy line st = s.homeCopy line st := by
  obtain ⟨mem, marks⟩ := Prod.mk.inj same
  rw [State.homeCopy, State.homeCopy, State.readLine_congr mem, State.linePoison_congr marks, seq]

theorem State.foldLine_of_untilled {s : State} {line : Nat} (h : s.tilledOn line = []) : s.foldLine line = s := by
  rw [State.foldLine, h]
  rfl

theorem State.dirRoom_of_room {s : State} {line : Nat} (room : (s.dirPeers line).length < 16) : s.dirRoom line = s := by
  rw [State.dirRoom]
  split
  · rfl
  · split
    next l r peers =>
      rw [peers, List.length_cons] at room
      exact if_pos (Nat.lt_of_succ_lt_succ room)
    next => rfl

theorem State.l2Take_dirPeers (s : State) (line die : Nat) : (s.l2Take line die).dirPeers line = s.dirPeers line := by
  rw [State.dirPeers, State.l2Take_keeps Slice.dir (fun _ _ => rfl), State.dirPeers]

/-! ## How a message ends -/

/-- A message brings a line to a directory state, gives copies of it and takes copies away; memory is then as `home` says. -/
def Moves (s : State) (line : Nat) (i : Instr) (dir : Option Dir) (given : SMap Proxy) (gone : List Nat) (home : State → Prop) : Prop :=
  ∃ t, exec i s = .next t ∧ Moved s t line dir given gone ∧ home t

/-- Memory and its marks stay. -/
def State.same (s t : State) : Prop := t.mem = s.mem ∧ t.poisoned = s.poisoned

section Moves

variable {s t : State} {line r d : Nat} {i : Instr} {dir : Option Dir} {gone : List Nat} {p q : Proxy}

/-- It ends with a copy for a die. -/
theorem Moved.moves_given {old : Option Dir} (h : Moved s t line old [] gone) (same : t.contents = s.contents) (hr : r < 4)
    (ends : exec i s = .next ((t.setProxy line r p).putDir line dir)) : Moves s line i dir [(r, p)] gone s.same :=
  ⟨_, ends, (h.setProxy hr rfl p).putDir dir, Prod.mk.inj (((t.setProxy_contents line r p).trans same :))⟩

/-- It ends with copies for two dies. -/
theorem Moved.moves_shared {old : Option Dir} (h : Moved s t line old [] gone) (same : t.contents = s.contents) (hr : r < 4) (hd : d < 4)
    (ne : r ≠ d) (ends : exec i s = .next (((t.setProxy line d p).setProxy line r q).putDir line dir)) :
    Moves s line i dir [(d, p), (r, q)] gone s.same := by
  have fresh : SMap.find? ([] ++ [(d, p)]) r = none := by simp [SMap.find?, Ne.symm ne]
  refine ⟨_, ends, ((h.setProxy hd rfl p).setProxy hr fresh q).putDir dir, Prod.mk.inj (?_ : State.contents _ = s.contents)⟩
  simp [same]

/-- It ends with the loss of a die's copy. -/
theorem Moved.moves_dropped {old : Option Dir} (h : Moved s t line old [] []) (same : t.contents = s.contents) (hd : d < 4)
    (ends : exec i s = .next ((t.dropProxy line d).putDir line dir)) : Moves s line i dir [] [d] s.same :=
  ⟨_, ends, (h.dropProxy hd).putDir dir, Prod.mk.inj same⟩

end Moves

/-! ## GetS and GetM (R164) -/

theorem filter_ne_of_notMem {ls : List Nat} {n : Nat} (out : n ∉ ls) : ls.filter (· ≠ n) = ls :=
  List.filter_eq_self.2 fun _ hy => decide_eq_true fun same => out (same ▸ hy)

section Requests

variable {s : State} {line r d : Nat} {ds : List Nat} {p x : Proxy} (tills : s.tilledOn line = [])
include tills

theorem moves_gets_unlisted (dir : s.dirOf line = none) (room : (s.dirPeers line).length < 16) (hr : r < 4) :
    Moves s line (.getsAtHome line r) (some (.ex r)) [(r, s.homeCopy line .e)] [] s.same := by
  refine ((Moved.refl s line).l2Take line _).moves_given (s.l2Take_contents line (homeDie line)) hr ?_
  rw [← s.l2Take_dirPeers line (homeDie line)] at room
  change execGetsAtHome line r s = _
  simp only [execGetsAtHome, State.foldLine_of_untilled tills, State.l2Take_dirOf, dir, State.dirRoom_of_room room]
  rw [← State.homeCopy_congr (s.l2Take_contents line _) (s.l2Take_seqOf line _)]
  rfl

theorem moves_getm_unlisted (dir : s.dirOf line = none) (room : (s.dirPeers line).length < 16) (hr : r < 4) :
    Moves s line (.getmAtHome line r) (some (.ex r)) [(r, s.homeCopy line .e)] [] s.same := by
  obtain ⟨t, ends, moved⟩ := moves_gets_unlisted tills dir room hr
  refine ⟨t, Eq.trans ?_ ends, moved⟩
  change execGetmAtHome line r s = execGetsAtHome line r s
  simp only [execGetmAtHome, execGetsAtHome, State.foldLine_of_untilled tills, State.l2Take_dirOf, dir]

theorem moves_gets_shared (dir : s.dirOf line = some (.sh ds)) (new : r ∉ ds) (hr : r < 4) :
    Moves s line (.getsAtHome line r) (some (.sh (ds ++ [r]))) [(r, s.homeCopy line .s)] [] s.same := by
  refine ((Moved.refl s line).l2Take line _).moves_given (s.l2Take_contents line (homeDie line)) hr ?_
  change execGetsAtHome line r s = _
  simp only [execGetsAtHome, State.foldLine_of_untilled tills, State.l2Take_dirOf, dir, List.contains_iff_mem, new, if_false]
  rw [← State.homeCopy_congr (s.l2Take_contents line _) (s.l2Take_seqOf line _)]
  rfl

/-- The home with its way of a line, and the copies of some dies gone. -/
def State.withdrawn (s : State) (line : Nat) (ds : List Nat) : State :=
  ds.foldl (fun s d => s.dropProxy line d) (s.l2Take line (homeDie line))

omit tills in
theorem State.withdrawn_moved (s : State) (line : Nat) (hds : ∀ y ∈ ds, y < 4) :
    Moved s (s.withdrawn line ds) line (s.dirOf line) [] ds :=
  ((Moved.refl s line).l2Take line _).dropProxies hds

omit tills in
theorem State.withdrawn_contents (s : State) (line : Nat) (ds : List Nat) : (s.withdrawn line ds).contents = s.contents := by
  rw [State.withdrawn, State.dropProxies_contents, State.l2Take_contents]

omit tills in
theorem State.withdrawn_seqOf (s : State) (line : Nat) (ds : List Nat) : (s.withdrawn line ds).seqOf line = s.seqOf line := by
  rw [State.withdrawn, State.dropProxies_seqOf, State.l2Take_seqOf]

omit tills in
theorem State.withdrawn_proxy (s : State) {line : Nat} (hds : ∀ y ∈ ds, y < 4) (hr : r < 4) (out : r ∉ ds) :
    (s.withdrawn line ds).proxy line r = s.proxy line r := by
  rw [(s.withdrawn_moved line hds).copies r hr, State.copies, if_neg out]
  rfl

theorem moves_getm_shared (dir : s.dirOf line = some (.sh ds)) (hds : ∀ y ∈ ds, y < 4) (out : r ∉ ds) (hr : r < 4)
    (uncopied : s.proxy line r = none) : Moves s line (.getmAtHome line r) (some (.ex r)) [(r, s.homeCopy line .e)] ds s.same := by
  refine (s.withdrawn_moved line hds).moves_given (s.withdrawn_contents line ds) hr ?_
  rw [← s.withdrawn_proxy hds hr out] at uncopied
  change execGetmAtHome line r s = _
  simp only [execGetmAtHome, State.foldLine_of_untilled tills, State.l2Take_dirOf, dir, filter_ne_of_notMem out]
  rw [← State.withdrawn, uncopied, ← State.homeCopy_congr (s.withdrawn_contents line ds) (s.withdrawn_seqOf line ds)]
  rfl

theorem moves_getm_sharer (dir : s.dirOf line = some (.sh (r :: ds))) (hds : ∀ y ∈ ds, y < 4) (out : r ∉ ds) (hr : r < 4)
    (copy : s.proxy line r = some x) :
    Moves s line (.getmAtHome line r) (some (.ex r)) [(r, { x with st := .e, seq := s.seqOf line })] ds s.same := by
  refine (s.withdrawn_moved line hds).moves_given (s.withdrawn_contents line ds) hr ?_
  have others : (r :: ds).filter (· ≠ r) = ds := by
    rw [List.filter_cons_of_neg (by simp), filter_ne_of_notMem out]
  rw [← s.withdrawn_proxy hds hr out] at copy
  change execGetmAtHome line r s = _
  simp only [execGetmAtHome, State.foldLine_of_untilled tills, State.l2Take_dirOf, dir, others]
  rw [← State.withdrawn, copy, ← s.withdrawn_seqOf line ds]

/-- The owner that asks for the line alone becomes its one holder. -/
theorem moves_getm_owner (dir : s.dirOf line = some (.ow d ds)) (hds : ∀ y ∈ ds, y < 4) (out : d ∉ ds) (hd : d < 4)
    (copy : s.proxy line d = some p) : Moves s line (.getmAtHome line d) (some (.ex d)) [(d, { p with st := .m })] ds s.same := by
  refine (s.withdrawn_moved line hds).moves_given (s.withdrawn_contents line ds) hd ?_
  rw [← s.withdrawn_proxy hds hd out] at copy
  change execGetmAtHome line d s = _
  simp only [execGetmAtHome, State.foldLine_of_untilled tills, State.l2Take_dirOf, dir, if_true]
  rw [← State.withdrawn, copy]

/-- The home forwards a request to another die that owns the line. -/
theorem exec_gets_forwards (dir : s.dirOf line = some (.ex d) ∨ s.dirOf line = some (.ow d ds)) (ne : r ≠ d) :
    exec (.getsAtHome line r) s = .next ((s.l2Take line (homeDie line)).postFront (.forwardedRequest line d r false)) := by
  change execGetsAtHome line r s = _
  rcases dir with dir | dir <;>
    simp only [execGetsAtHome, State.foldLine_of_untilled tills, State.l2Take_dirOf, dir, Ne.symm ne, if_false]

theorem exec_getm_forwards (dir : s.dirOf line = some (.ex d) ∨ s.dirOf line = some (.ow d ds)) (ne : r ≠ d) :
    exec (.getmAtHome line r) s = .next ((s.l2Take line (homeDie line)).postFront (.forwardedRequest line d r true)) := by
  change execGetmAtHome line r s = _
  rcases dir with dir | dir <;>
    simp only [execGetmAtHome, State.foldLine_of_untilled tills, State.l2Take_dirOf, dir, Ne.symm ne, if_false]

end Requests

/-! ## A forwarded request (R164) -/

/-- The dies that share a line with its owner. -/
def sharersOf : Option Dir → List Nat
  | some (.ow _ ds) => ds
  | _ => []

section Forwarded

variable {s : State} {line r d : Nat} {ds : List Nat} {p : Proxy} (copy : s.proxy line d = some p)
include copy

theorem moves_forwarded_alone (hd : d < 4) (hds : ∀ y ∈ ds, y < 4) (hr : r < 4) (sharers : sharersOf (s.dirOf line) = ds) {st : CopyState}
    (state : st = if p.st = .m ∨ p.st = .o then .m else .e) :
    Moves s line (.forwardedRequest line d r true) (some (.ex r)) [(r, { p with st := st })] (d :: ds) s.same := by
  refine ((Moved.refl s line).dropProxies (List.forall_mem_cons.2 ⟨hd, hds⟩)).moves_given (s.dropProxies_contents line _) hr ?_
  subst sharers state
  change execForwardedRequest line d r true s = _
  simp only [execForwardedRequest, copy, if_true]
  rfl

theorem moves_forwarded_dirty (hd : d < 4) (hr : r < 4) (ne : r ≠ d) (sharers : sharersOf (s.dirOf line) = ds) (out : r ∉ ds)
    (dirty : p.st = .m ∨ p.st = .o) : Moves s line (.forwardedRequest line d r false) (some (.ow d (ds ++ [r])))
      [(d, { p with st := .o }), (r, { p with st := .s })] [] s.same := by
  refine (Moved.refl s line).moves_shared rfl hr hd ne ?_
  subst sharers
  have listed : (if (sharersOf (s.dirOf line)).contains r then sharersOf (s.dirOf line) else sharersOf (s.dirOf line) ++ [r]) =
      sharersOf (s.dirOf line) ++ [r] := if_neg (mt List.contains_iff_mem.1 out)
  rw [← listed]
  change execForwardedRequest line d r false s = _
  simp only [execForwardedRequest, copy, dirty, if_true, Bool.false_eq_true, if_false]
  rfl

theorem moves_forwarded_clean (hd : d < 4) (hr : r < 4) (ne : r ≠ d) (clean : p.st = .e) :
    Moves s line (.forwardedRequest line d r false) (some (.sh [d, r])) [(d, { p with st := .s }), (r, { p with st := .s })] [] s.same := by
  refine (Moved.refl s line).moves_shared rfl hr hd ne ?_
  change execForwardedRequest line d r false s = _
  simp [execForwardedRequest, copy, clean]

end Forwarded

/-! ## Copies that are put back or taken away (R121, R164) -/

theorem State.dirOf_setSlice {s : State} {k : Nat} {c : Slice} (h : c.dir = (s.slice k).dir) (l : Nat) : (s.setSlice k c).dirOf l = s.dirOf l :=
  State.dirOf_congr (State.setSlice_keeps Slice.dir h _)

theorem State.awake_dirOf (s : State) (k l : Nat) : (s.awake k).dirOf l = s.dirOf l := by
  rw [State.awake]
  split
  · exact State.dirOf_setSlice (c := { s.slice k with retained := false }) rfl l
  · rfl

theorem State.setSeq_dirOf (s : State) (line n l : Nat) : (s.setSeq line n).dirOf l = s.dirOf l :=
  State.dirOf_setSlice (c := { s.slice (homeSlice line) with seqs := (s.slice (homeSlice line)).seqs.set line (n % 65536) }) rfl l

/-- The directory state of a line when a die that shares it, or holds it alone, has dropped its copy. -/
def leftBy (die : Nat) : Option Dir → Option Dir
  | some (.sh ds) => if (ds.filter (· ≠ die)).isEmpty then none else some (.sh (ds.filter (· ≠ die)))
  | some (.ow d ds) => some (.ow d (ds.filter (· ≠ die)))
  | _ => none

section Put

variable {s : State} {line d : Nat} {ds : List Nat} {p : Proxy}

/-- What a home with a line's newest data has taken from the owner's copy (R163). -/
theorem State.bringHome_dirty (copy : s.proxy line d = some p) (dirty : p.st = .m ∨ p.st = .o) : s.bringHome line d =
    (((s.awake (homeSlice line)).writeLine line p.data.toNat (BitVec.allOnes 128).toNat).markLine line p.pois 0xFFFF#16).setSeq line p.seq := by
  simp only [State.bringHome, State.copyHome, copy]
  rcases dirty with st | st <;> rw [st] <;> rfl

theorem State.bringHome_dirOf (copy : s.proxy line d = some p) (dirty : p.st = .m ∨ p.st = .o) (l : Nat) :
    (s.bringHome line d).dirOf l = s.dirOf l := by
  rw [State.bringHome_dirty copy dirty, State.setSeq_dirOf, ← s.awake_dirOf (homeSlice line) l]
  rfl

theorem State.bringHome_byte (copy : s.proxy line d = some p) (dirty : p.st = .m ∨ p.st = .o) (a : Nat) :
    (s.bringHome line d).byte a = if lineOf a = line then p.data.extractLsb' (8 * (a % 128)) 8 else s.byte a := by
  have inside : a % 128 < 128 := Nat.mod_lt _ (by decide)
  have written := (s.awake (homeSlice line)).writeLine_byte line p.data (BitVec.allOnes 128) a
  simp only [BitVec.getLsbD_allOnes, inside, decide_true, and_true, State.byte_congr (State.stored_eq_iff.1 (s.awake_stored _)).1] at written
  rw [State.bringHome_dirty copy dirty, ← written]
  rfl

/-- A dirty copy that is put back leaves its data at the home. -/
theorem moves_putm (tills : s.tilledOn line = []) (copy : s.proxy line d = some p) (dirty : p.st = .m ∨ p.st = .o) (hd : d < 4)
    (sharers : sharersOf (s.dirOf line) = ds) : Moves s line (.putmAtHome line d) (if ds = [] then none else some (.sh ds)) [] [d]
      fun t => t.byte = fun a => if lineOf a = line then p.data.extractLsb' (8 * (a % 128)) 8 else s.byte a := by
  have kept := (Moved.refl s line).keep (State.bringHome_dirOf copy dirty) (s.bringHome_proxies line d)
  refine ⟨_, ?_, (kept.dropProxy hd).putDir _, funext fun a => State.bringHome_byte copy dirty a⟩
  have left := ((s.bringHome line d).dropProxy_dirOf line d line).trans (State.bringHome_dirOf copy dirty line)
  change execPutmAtHome line d s = _
  subst sharers
  rcases dirty with st | st
  all_goals
    simp only [execPutmAtHome, State.foldLine_of_untilled tills, copy, st, left]
    rcases s.dirOf line with _ | (_ | _ | ⟨_, _ | _⟩) <;> rfl

theorem moves_pute (copy : s.proxy line d = some p) (clean : p.st = .e ∨ p.st = .s) (hd : d < 4) :
    Moves s line (.puteAtHome line d) (leftBy d (s.dirOf line)) [] [d] s.same := by
  refine (Moved.refl s line).moves_dropped rfl hd ?_
  change execPuteAtHome line d s = _
  rcases clean with st | st
  all_goals
    simp only [execPuteAtHome, copy, st, State.dropProxy_dirOf]
    rcases s.dirOf line with _ | (_ | _ | _) <;> rfl

/-- An invalidation takes a shared copy as its eviction does. -/
theorem moves_invalidate {x : Nat} (copy : s.proxy line d = some p) (shared : p.st = .s) (hd : d < 4)
    (listed : s.dirOf line = some (.sh ds) ∨ s.dirOf line = some (.ow x ds)) :
    Moves s line (.invalidateAtProxy line d) (leftBy d (s.dirOf line)) [] [d] s.same := by
  obtain ⟨t, step, moved⟩ := moves_pute copy (.inr shared) hd
  refine ⟨t, Eq.trans ?_ step, moved⟩
  change execInvalidateAtProxy line d s = execPuteAtHome line d s
  rcases listed with dir | dir <;> simp only [execInvalidateAtProxy, execPuteAtHome, copy, shared, State.dropProxy_dirOf, dir]

end Put

/-- Settles O51: a message is a chain of operations, `Moved` says of each what it does to the line, and `Moves` of the message. -/
theorem directoryTransitions : Obligations.DirectoryTransitions := by
  intro s line r d ds p x hr hd ne hds tills moves same has granted dirty came
  have small : ∀ y ∈ ds, y < 4 := fun y hy => (hds y hy).1
  have alone : d ∉ ds := fun h => (hds d h).2 rfl
  have copies (given : SMap Proxy) (gone : List Nat) : has given gone = s.copies line given gone := by
    funext k
    simp only [has, State.copies]
    cases given.find? k <;> rfl
  have ends {i dir given gone home} (h : Moves s line i dir given gone home) : moves i dir (has given gone) home := by
    obtain ⟨t, step, moved, home⟩ := h
    rw [copies]
    exact ⟨t, step, moved.dir, moved.copies, home, moved.others⟩
  refine ⟨⟨s.mem_l2Take line r, State.l2Take_fits⟩, fun dir room => ⟨?_, ?_⟩, fun dir out => ⟨?_, fun uncopied => ?_⟩,
    fun dir copy out => ?_, fun dir => ⟨exec_gets_forwards tills dir ne, exec_getm_forwards tills dir ne⟩, fun dir copy => ?_,
    fun dir copy => ?_, fun dir copy st => ?_, fun o copy st shape dir => ?_⟩
  · exact ends (moves_gets_unlisted tills dir room hr)
  · exact ends (moves_getm_unlisted tills dir room hr)
  · exact ends (moves_gets_shared tills dir out hr)
  · exact ends (moves_getm_shared tills dir small out hr uncopied)
  · exact ends (moves_getm_sharer tills dir small out hr copy)
  · exact ends (moves_getm_owner tills dir small alone hd copy)
  · have sharers : sharersOf (s.dirOf line) = [] := by rw [dir]; rfl
    refine ⟨?_, fun st => ?_, fun st => ?_, fun st => ?_, fun st => ?_⟩
    · exact ends (moves_forwarded_alone copy hd (List.forall_mem_nil _) hr sharers rfl)
    · exact ends (moves_forwarded_dirty copy hd hr ne sharers List.not_mem_nil (.inl st))
    · exact ends (moves_forwarded_clean copy hd hr ne st)
    · exact ends (moves_putm tills copy (.inl st) hd sharers)
    · have evicted := moves_pute copy (.inl st) hd
      rw [dir] at evicted
      exact ends evicted
  · have sharers : sharersOf (s.dirOf line) = ds := by rw [dir]; rfl
    refine ⟨fun out => ?_, ?_, ?_⟩
    · have owned : { p with st := .o } = p := by rw [← st]
      have shared := moves_forwarded_dirty copy hd hr ne sharers out (.inr st)
      rw [owned] at shared
      exact ends shared
    · exact ends (moves_forwarded_alone copy hd small hr sharers (if_pos (.inr st)).symm)
    · exact ends (moves_putm tills copy (.inr st) hd sharers)
  · have evicted := moves_pute copy (.inr st) hr
    have invalid := moves_invalidate copy st hr (dir ▸ shape)
    rw [dir] at evicted invalid
    rcases shape with rfl | rfl <;> exact ⟨ends evicted, ends invalid⟩

end Sys2Proof.Machine
end

section
/-! PROOFS. System registers (O43): what SGET reads and SPUT writes (R377, R401), and what the acting writes do (R169, R378, R379, R389, R390). -/

namespace Sys2Proof.Machine

/-! ## Reading and writing a register -/

section Registers

variable {s : State} {a b : R5} {n : BitVec 12}

theorem sget_reads {w : Word} (value : s.systemValue n.toNat = w) : Completes (.sget a n) s (·.setX a w) := by
  subst value
  exact completes_finish rfl

/-- A register of the context is written as the thread moves on. -/
theorem sput_puts {f : Ctx → Ctx} (ends : exec (.sput b n) s = .next (s.done.setMe (s.done.me.putSystem n.toNat (s.me.xr b))))
    (write : ∀ k : Ctx, k.putSystem n.toNat (s.me.xr b) = f k) : ∃ t, exec (.sput b n) s = .next t ∧ t = s.setMe (f s.me.advance) :=
  ⟨_, ends, by rw [write, State.done, State.me_setMe, State.setMe_setMe]⟩

/-- What bit 63 of the written word chooses between, acts. -/
theorem sput_acts {p : Prop} [Decidable p] {i j : Instr} (ends : exec (.sput b n) s = if p then exec i s.done else exec j s.done) :
    exec (.sput b n) s = exec (if p then i else j) s.done :=
  ends.trans (apply_ite (exec · s.done) p i j).symm

end Registers

/-- The registers in the order of R377: the reads, then the writes of the context's own, then those of the device and those
that act. -/
theorem systemRegisters : Claims.SystemRegisters := by
  intro s a b c v d reads puts acts core
  refine ⟨sget_reads rfl, sget_reads rfl, sget_reads rfl, sget_reads rfl, sget_reads rfl, sget_reads rfl, sget_reads rfl,
    sget_reads rfl, sget_reads rfl, sget_reads rfl, sget_reads rfl, sget_reads rfl, sget_reads rfl, sget_reads rfl,
    sget_reads rfl, sget_reads rfl, sget_reads rfl, sget_reads rfl, sget_reads rfl, sget_reads rfl, sget_reads rfl, ?_⟩
  refine ⟨sput_puts rfl fun _ => rfl, sput_puts rfl fun _ => rfl, sput_puts rfl fun _ => rfl, sput_puts rfl fun _ => rfl,
    sput_puts rfl fun _ => rfl, sput_puts rfl fun _ => rfl, sput_puts rfl fun _ => rfl, sput_puts rfl fun _ => rfl,
    sput_puts rfl fun _ => rfl, ?_⟩
  exact ⟨rfl, rfl, rfl, rfl, rfl, rfl, sput_acts rfl, rfl, rfl, sput_acts rfl, rfl⟩

/-! ## What a killed thread leaves (R382) -/

@[simp] theorem State.setRcbWord_besideHome (s : State) (rcb asid idx v : Nat) : (s.setRcbWord rcb asid idx v).besideHome = s.besideHome := by
  rw [State.setRcbWord]
  split
  · rfl
  · split <;> simp

@[simp] theorem State.countContext_besideHome (s : State) (rcb asid : Nat) (up : Bool) : (s.countContext rcb asid up).besideHome = s.besideHome :=
  foldl_keeps State.besideHome _ (fun s r => s.setRcbWord_besideHome r asid rcbUse _) _ s

@[simp] theorem State.bankStore_besideHome (s : State) (src : Src) (late : Bool) (l : Lane) (v : Nat) :
    (s.bankStore src late l v).besideHome = s.besideHome := by
  rw [State.bankStore]
  split
  · exact s.writeMarked_besideHome _ _ _ _
  · rfl
  · rfl

@[simp] theorem State.landThose_besideHome (s : State) (p : MemReq → Bool) : (s.landThose p).besideHome = s.besideHome := by
  refine foldl_keeps State.besideHome _ (fun s e => ?_) _ _
  split
  · exact foldl_keeps State.besideHome _ (fun s (x : Lane × Nat) => s.bankStore_besideHome _ _ _ _) _ s
  · rfl

/-- The package's time and the cells. -/
def State.clock (s : State) : Nat × SMap Cell := (s.pcyc, s.cells)

theorem State.clock_of_besideHome {s t : State} (h : t.besideHome = s.besideHome) : t.clock = s.clock :=
  (congrArg State.clock h :)

theorem State.cores_of_besideHome {s t : State} (h : t.besideHome = s.besideHome) : t.cores = s.cores :=
  (congrArg State.cores h :)

theorem State.cell_of_clock {s t : State} (h : t.clock = s.clock) (k : Nat) : t.cell k = s.cell k := by
  obtain ⟨-, cells⟩ := Prod.mk.inj h
  rw [State.cell, State.cell, cells]

@[simp] theorem State.modCtx_clock (s : State) (tid : Nat) (f : Ctx → Ctx) : (s.modCtx tid f).clock = s.clock := rfl
@[simp] theorem State.setCore_clock (s : State) (q : Nat) (c : Core) : (s.setCore q c).clock = s.clock := rfl
theorem State.writeBytes_clock (s : State) (a : Nat) (bs : List Byte) : (s.writeBytes a bs).clock = s.clock := rfl
@[simp] theorem State.writeHeader_clock (s : State) (tid : Nat) : (s.writeHeader tid).clock = s.clock := s.writeBytes_clock _ _
@[simp] theorem State.deliver_clock (s : State) (r : FaultRec) : (s.deliver r).clock = s.clock := rfl
@[simp] theorem State.cancelWaits_clock (s : State) (tid : Nat) : (s.cancelWaits tid).clock = s.clock := rfl

@[simp] theorem State.countContext_clock (s : State) (rcb asid : Nat) (up : Bool) : (s.countContext rcb asid up).clock = s.clock :=
  State.clock_of_besideHome (s.countContext_besideHome rcb asid up)

@[simp] theorem State.landStores_clock (s : State) (tid : Nat) : (s.landStores tid).clock = s.clock :=
  State.clock_of_besideHome (s.landThose_besideHome _)

@[simp] theorem State.leaveSlot_clock (s : State) (tid : Nat) (st : ImState) : (s.leaveSlot tid st).clock = s.clock := by
  simp [State.leaveSlot, State.freeSlot]

@[simp] theorem State.forgetRecords_clock (s : State) (tid : Nat) : (s.forgetRecords tid).clock = s.clock := by
  simp only [State.forgetRecords, State.clock]
  split
  · exact s.countContext_clock _ _ false
  · rfl

@[simp] theorem State.killThread_clock (s : State) (tid code detail : Nat) : (s.killThread tid code detail).clock = s.clock := by
  simp only [State.killThread]
  split <;> simp

@[simp] theorem State.sinkPacket_clock (s : State) (p : Packet) : (s.sinkPacket p).clock = s.clock := by
  simp [State.sinkPacket]

@[simp] theorem State.modCtx_cores (s : State) (tid : Nat) (f : Ctx → Ctx) : (s.modCtx tid f).cores = s.cores := rfl
theorem State.writeBytes_cores (s : State) (a : Nat) (bs : List Byte) : (s.writeBytes a bs).cores = s.cores := rfl
@[simp] theorem State.writeHeader_cores (s : State) (tid : Nat) : (s.writeHeader tid).cores = s.cores := s.writeBytes_cores _ _
@[simp] theorem State.deliver_cores (s : State) (r : FaultRec) : (s.deliver r).cores = s.cores := rfl
@[simp] theorem State.cancelWaits_cores (s : State) (tid : Nat) : (s.cancelWaits tid).cores = s.cores := rfl

@[simp] theorem State.countContext_cores (s : State) (rcb asid : Nat) (up : Bool) : (s.countContext rcb asid up).cores = s.cores :=
  State.cores_of_besideHome (s.countContext_besideHome rcb asid up)

@[simp] theorem State.landStores_cores (s : State) (tid : Nat) : (s.landStores tid).cores = s.cores :=
  State.cores_of_besideHome (s.landThose_besideHome _)

theorem State.core_setCore_other (s : State) {j k : Nat} (c : Core) (h : j ≠ k) : (s.setCore k c).core j = s.core j := by
  rw [State.core, State.setCore, SMap.get_set_other _ _ _ _ _ h, State.core]

theorem SMap.find?_map {α β : Type} (m : SMap α) (f : α → β) (k : Nat) :
    SMap.find? (m.map fun e => (e.1, f e.2)) k = (m.find? k).map f := by
  induction m with
  | nil => rfl
  | cons e r ih =>
    simp only [List.map_cons, SMap.find?]
    split
    · rfl
    · exact ih

/-- Nothing stands on a core: no context, no line, no translation, no split. -/
def State.Bare (q : Nat) (s : State) : Prop :=
  (s.core q).slots = [] ∧ (s.core q).cache = [] ∧ (s.core q).tlb = [] ∧ (s.core q).split = none

section Bare

variable {s t : State} {q : Nat}

theorem State.Bare.of_cores (h : s.Bare q) (same : t.cores = s.cores) : t.Bare q := by
  rwa [State.Bare, State.core, same]

/-- A core that keeps no less empty than it was. -/
theorem State.Bare.setCore (h : s.Bare q) {k : Nat} {c : Core} (own : k = q → c.slots = [] ∧ c.cache = [] ∧ c.tlb = [] ∧ c.split = none) :
    (s.setCore k c).Bare q := by
  by_cases here : k = q
  · subst here
    rw [State.Bare, State.core_setCore]
    exact own rfl
  · rwa [State.Bare, State.core_setCore_other _ _ (Ne.symm here)]

theorem State.Bare.freeSlot (h : s.Bare q) (tid : Nat) : (s.freeSlot tid).Bare q := by
  have landed : (s.landStores tid).Bare q := h.of_cores (s.landStores_cores tid)
  refine landed.setCore fun here => ?_
  obtain ⟨slots, cache, tlb, split⟩ := landed
  subst here
  exact ⟨by rw [slots]; rfl, cache, tlb, split⟩

theorem State.Bare.leaveSlot (h : s.Bare q) (tid : Nat) (st : ImState) : (s.leaveSlot tid st).Bare q :=
  (h.freeSlot tid).of_cores (by simp [State.leaveSlot])

/-- A core whose arrival buffer holds no packet of a thread. -/
def Core.without (tid : Nat) (c : Core) : Core := { c with arrivals := c.arrivals.filter fun p => p.tid != tid }

omit s t q in
theorem State.forgetRecords_cores (s : State) (tid : Nat) :
    (s.forgetRecords tid).cores = s.cores.map fun e => (e.1, e.2.without tid) := by
  simp only [State.forgetRecords]
  split
  · rw [State.countContext_cores]
    rfl
  · rfl

theorem State.Bare.forgetRecords (h : s.Bare q) (tid : Nat) : (s.forgetRecords tid).Bare q := by
  rw [State.Bare, State.core, SMap.get] at h ⊢
  rw [State.forgetRecords_cores, SMap.find?_map s.cores (Core.without tid)]
  revert h
  cases SMap.find? s.cores q <;> exact id

theorem State.Bare.killThread (h : s.Bare q) (tid code detail : Nat) : (s.killThread tid code detail).Bare q := by
  have forgotten : ((s.cancelWaits tid).forgetRecords tid).Bare q := (h.of_cores (s.cancelWaits_cores tid)).forgetRecords tid
  simp only [State.killThread]
  split
  · exact (forgotten.leaveSlot tid .killed).of_cores (by simp)
  · exact forgotten.of_cores (by simp)

theorem State.Bare.sinkPacket (h : s.Bare q) (p : Packet) : (s.sinkPacket p).Bare q :=
  (h.of_cores (s.countContext_cores _ _ false)).killThread _ _ _

end Bare

/-! ## A core under reset (R389) -/

/-- What every step of a fold keeps, and the step of one element brings about, holds after a fold over it. -/
theorem foldl_reaches {α β : Type} {f : β → α → β} (P : β → Prop) {a : α} (brings : ∀ b, P (f b a)) (keeps : ∀ b x, P b → P (f b x))
    {l : List α} (here : a ∈ l) (b : β) : P (l.foldl f b) := by
  induction l generalizing b with
  | nil => exact absurd here List.not_mem_nil
  | cons x r ih =>
    rcases List.mem_cons.1 here with rfl | later
    · exact List.foldlRecOn r f (brings b) fun b h x _ => keeps b x h
    · exact ih later _

/-- A thread whose lines a core under reset held loses them, and is killed for a dirty one (R389). -/
def State.loseLines (s : State) (tid : Nat) : State :=
  match s.dirtyLines tid with
  | [] => s.modCtx tid fun c => { c with held := 0 }
  | n :: _ => s.killThread tid trapImageLost n

/-- The packets in a core's arrival buffer are lost. -/
def State.sinkArrivals (s : State) (core : Nat) : State := (s.core core).arrivals.foldl State.sinkPacket s

/-- The threads in a core's slots are killed. -/
def State.killResidents (s : State) (core : Nat) : State := (s.residents core).foldl (fun s t => s.killThread t trapImageLost 255) s

/-- The threads whose lines a core holds lose them. -/
def State.loseHeld (s : State) (core : Nat) : State :=
  (s.threads.filter fun e => e.2.heldCore == core && e.2.held != 0).foldl (fun s e => s.loseLines e.1) s

/-- The threads of a core under reset are gone. -/
def State.emptyCore (s : State) (core : Nat) : State := ((s.sinkArrivals core).killResidents core).loseHeld core

theorem State.resetCore_eq (s : State) (core : Nat) : s.resetCore core =
    (((s.emptyCore core).zeroRange (poolBase core) (2 ^ 17)).noInstall core fun _ => true).setCore core
      { Core.initial with released := true, fenced := ((s.emptyCore core).core core).fenced } := rfl

theorem State.loseLines_clock (s : State) (tid : Nat) : (s.loseLines tid).clock = s.clock := by
  rw [State.loseLines]
  split <;> simp

theorem State.resetCore_clock (s : State) (core : Nat) : (s.resetCore core).clock = s.clock := by
  have sunk : (s.sinkArrivals core).clock = s.clock := foldl_keeps State.clock _ State.sinkPacket_clock _ s
  have killed (t : State) : (t.killResidents core).clock = t.clock := foldl_keeps State.clock _ (fun t n => t.killThread_clock n _ _) _ t
  have lost (t : State) : (t.loseHeld core).clock = t.clock := foldl_keeps State.clock _ (fun t (e : Nat × Ctx) => t.loseLines_clock e.1) _ t
  have silenced (t : State) : ((t.zeroRange (poolBase core) (2 ^ 17)).noInstall core fun _ => true).clock = t.clock := rfl
  rw [State.resetCore_eq, State.setCore_clock, silenced, State.emptyCore, lost, killed, sunk]

theorem State.bare_resetCore (s : State) (core : Nat) : (s.resetCore core).Bare core := by
  rw [State.resetCore_eq, State.Bare, State.core_setCore]
  exact ⟨rfl, rfl, rfl, rfl⟩

theorem State.Bare.loseLines {s : State} {q : Nat} (h : s.Bare q) (tid : Nat) : (s.loseLines tid).Bare q := by
  rw [State.loseLines]
  split
  · exact h.of_cores rfl
  · exact h.killThread _ _ _

theorem State.Bare.emptyCore {s : State} {q : Nat} (h : s.Bare q) (core : Nat) : (s.emptyCore core).Bare q := by
  have sunk : (s.sinkArrivals core).Bare q := List.foldlRecOn _ _ h fun _ ht p _ => ht.sinkPacket p
  have killed : ((s.sinkArrivals core).killResidents core).Bare q := List.foldlRecOn _ _ sunk fun _ ht n _ => ht.killThread n _ _
  exact List.foldlRecOn (motive := State.Bare q) _ _ killed fun _ ht e _ => ht.loseLines e.1

theorem State.Bare.resetCore {s : State} {q : Nat} (h : s.Bare q) (core : Nat) : (s.resetCore core).Bare q := by
  have silenced (t : State) : ((t.zeroRange (poolBase core) (2 ^ 17)).noInstall core fun _ => true).cores = t.cores := rfl
  rw [State.resetCore_eq]
  exact ((h.emptyCore core).of_cores (silenced _)).setCore fun _ => ⟨rfl, rfl, rfl, rfl⟩

/-! ## A cell under reset (R389) -/

/-- The cores of a cell. -/
def coresOf (cell : Nat) : List Nat := (List.range 8).map (8 * cell + ·)

theorem mem_coresOf {q cell : Nat} : q ∈ coresOf cell ↔ q / 8 = cell := by
  simp only [coresOf, List.mem_map, List.mem_range]
  constructor
  · rintro ⟨k, hk, rfl⟩
    omega
  · rintro rfl
    exact ⟨q % 8, by omega, by omega⟩

theorem State.cutMessages_pcyc (s : State) (cell : Nat) (es : List Event) : (s.cutMessages cell es).pcyc = s.pcyc := by
  induction es generalizing s with
  | nil => rfl
  | cons e r ih =>
    rw [State.cutMessages]
    split
    · dsimp only
      rw [ih]
      split <;> rfl
    · exact ih _

theorem State.sinkPacket_pcyc (s : State) (p : Packet) : (s.sinkPacket p).pcyc = s.pcyc :=
  (Prod.mk.inj (s.sinkPacket_clock p)).1

theorem State.cutPackets_pcyc (s : State) (cell : Nat) : (s.cutPackets cell).pcyc = s.pcyc := by
  refine foldl_keeps State.pcyc _ (fun t e => ?_) _ s
  split
  · split
    · dsimp only
      split
      · rw [State.sinkPacket_pcyc]
        rfl
      · rfl
    · rfl
  · rfl

theorem State.loseOp_pcyc (s : State) (o : TelOp) : (s.loseOp o).pcyc = s.pcyc := by
  rw [State.loseOp]
  split <;> rfl

/-- What a cell under reset has in flight and in its Teller is cut off (R389). -/
def State.cutOff (s : State) (cell : Nat) : State :=
  (s.cell cell).held.foldl State.loseOp (({ s with pending := [] }.cutMessages cell s.pending).cutPackets cell)

theorem State.cutOff_pcyc (s : State) (cell : Nat) : (s.cutOff cell).pcyc = s.pcyc := by
  rw [State.cutOff, foldl_keeps State.pcyc _ State.loseOp_pcyc, State.cutPackets_pcyc, State.cutMessages_pcyc]

/-- A cell under reset, as it stands until the reset ends (R389). -/
def Cell.underReset (k : Cell) (deadline : Nat) : Cell :=
  { Cell.initial with tlb := k.tlb, fenced := k.fenced, descs := k.descs, resetUntil := some deadline }

/-- The cell is under reset, and what it had in flight is cut off. -/
def State.takeDown (s : State) (cell : Nat) : State :=
  (s.cutOff cell).setCell cell ((s.cell cell).underReset ((s.cutOff cell).pcyc + 4096))

/-- The cell is under reset, and so are its cores. -/
def State.resetUnits (s : State) (cell : Nat) : State := (coresOf cell).foldl State.resetCore (s.takeDown cell)

theorem exec_creset_free {s : State} {cell : Nat} (tid : Nat) (free : (s.cell cell).resetUntil = none) : exec (.creset tid cell) s =
    .next (((s.resetUnits cell).at ((s.resetUnits cell).pcyc + 4096) (.cellResetEnd cell)).modCtx tid fun c => { c with cstat := 0 }) := by
  change execCreset tid cell s = _
  simp only [execCreset, free, Option.isSome_none, Bool.false_eq_true, if_false, State.resetUnits, State.takeDown, State.cutOff, coresOf,
    Cell.underReset]

theorem State.resetUnits_cell (s : State) (cell : Nat) : (s.resetUnits cell).cell cell = (s.cell cell).underReset (s.pcyc + 4096) := by
  have clock : (s.resetUnits cell).clock = (s.takeDown cell).clock := foldl_keeps State.clock State.resetCore State.resetCore_clock _ _
  rw [State.cell_of_clock clock, State.takeDown, State.cell_setCell, State.cutOff_pcyc]

theorem State.resetUnits_bare {s : State} {q cell : Nat} (own : q / 8 = cell) : (s.resetUnits cell).Bare q :=
  foldl_reaches (f := State.resetCore) (State.Bare q) (fun t => t.bare_resetCore q) (fun _ k h => h.resetCore k) (mem_coresOf.2 own) _

/-- R389: the reset leaves the cell's cores with nothing, and the cell under reset for 4,096 cycles. -/
theorem exec_creset_effect {s : State} {q cell : Nat} (tid : Nat) (free : (s.cell cell).resetUntil = none) (own : q / 8 = cell) :
    ∃ t, exec (.creset tid cell) s = .next t ∧ (t.core q).slots = [] ∧ (t.core q).cache = [] ∧ (t.core q).tlb = [] ∧
      (t.core q).split = none ∧
      (t.cell cell).resetUntil = some (s.pcyc + 4096) ∧ (t.cell cell).fenced = (s.cell cell).fenced := by
  have core (t : State) (n : Nat) (e : Event) (f : Ctx → Ctx) : ((t.at n e).modCtx tid f).core q = t.core q := rfl
  have place (t : State) (n : Nat) (e : Event) (f : Ctx → Ctx) : ((t.at n e).modCtx tid f).cell cell = t.cell cell := rfl
  obtain ⟨slots, cache, tlb, split⟩ := State.resetUnits_bare (s := s) own
  refine ⟨_, exec_creset_free tid free, ?_⟩
  rw [core, place, State.resetUnits_cell]
  exact ⟨slots, cache, tlb, split, rfl, rfl⟩

/-! ## The end of a cell's reset (R69, R389) -/

/-- A core's cycle count starts again. -/
def State.startCycles (s : State) (q : Nat) : State := s.setCore q { s.core q with cycle0 := s.pcyc }

theorem State.startCycles_core (s : State) (cores : List Nat) (q : Nat) :
    (cores.foldl State.startCycles s).core q = if q ∈ cores then { s.core q with cycle0 := s.pcyc } else s.core q := by
  induction cores generalizing s with
  | nil => rfl
  | cons k r ih =>
    have time : (s.startCycles k).pcyc = s.pcyc := rfl
    rw [List.foldl_cons, ih, time]
    by_cases own : q = k
    · subst own
      simp [State.startCycles]
    · rw [State.startCycles, State.core_setCore_other _ _ own]
      simp [own]

theorem exec_cellResetEnd_effect {s : State} {q cell : Nat} (own : q / 8 = cell) : ∃ t, exec (.cellResetEnd cell) s = .next t ∧
    (t.cell cell).resetUntil = none ∧ t.core q = { s.core q with cycle0 := s.pcyc } ∧ t.mem = s.mem := by
  have kept {α : Type} (f : State → α) (h : ∀ t q, f (State.startCycles t q) = f t) (t : State) :
      f ((coresOf cell).foldl State.startCycles t) = f t := foldl_keeps f State.startCycles h _ t
  refine ⟨(coresOf cell).foldl State.startCycles (s.setCell cell { s.cell cell with resetUntil := none }), rfl, ?_, ?_, ?_⟩
  · rw [kept (fun t => t.cell cell) fun _ _ => rfl, State.cell_setCell]
  · rw [State.startCycles_core, if_pos (mem_coresOf.2 own)]
    rfl
  · rw [kept State.mem fun _ _ => rfl, State.setCell_mem]

/-! ## Retention and splits (R169, R378) -/

theorem exec_slretEnter_free {s : State} {tid slice : Nat} (tills : (s.slice slice).tills = []) (waiters : (s.slice slice).waiters = [])
    (records : (s.slice slice).records = []) (mint : (s.slice slice).mint = []) : exec (.slretEnter tid slice) s =
      .next ((s.setSlice slice { s.slice slice with retained := true }).modCtx tid fun c => { c with slrstat := 0 }) := by
  change execSlretEnter tid slice s = _
  simp [execSlretEnter, tills, waiters, records, mint]

theorem exec_slretEnter_used {s : State} {tid slice : Nat} (used : (s.slice slice).tills ≠ [] ∨ (s.slice slice).waiters ≠ [] ∨
    (s.slice slice).records ≠ [] ∨ (s.slice slice).mint ≠ []) :
    exec (.slretEnter tid slice) s = .next (s.modCtx tid fun c => { c with slrstat := 1 }) := by
  have full : ((s.slice slice).tills.isEmpty && (s.slice slice).waiters.isEmpty && (s.slice slice).records.isEmpty &&
      (s.slice slice).mint.isEmpty) = false := by
    rw [← Bool.not_eq_true]
    simp only [Bool.and_eq_true, List.isEmpty_iff]
    tauto
  change execSlretEnter tid slice s = _
  simp [execSlretEnter, full]

/-- Tile storage above a split of `n` is in use on a die (R378). -/
def State.usesAbove (s : State) (die n : Nat) : Prop := ∃ sl ∈ s.slicesOf die, ∃ r ∈ sl.runs, r.arena = false ∧ n * 256 < r.start + r.len

theorem State.usesAbove_iff (s : State) (die n : Nat) :
    ((s.slicesOf die).any fun sl => sl.runs.any fun r => !r.arena && decide (n * 256 < r.start + r.len)) = true ↔ s.usesAbove die n := by
  simp [State.usesAbove]

theorem exec_tsplitWrite_refused {s : State} {die : Nat} {v : Word}
    (refused : v.toNat % 8 = 7 ∨ (v.toNat % 8 < (s.die die).tsplit ∧ s.usesAbove die (v.toNat % 8))) :
    exec (.tsplitWrite die v) s = .next (s.setDie die { s.die die with tsplitSticky := true }) := by
  rw [← State.usesAbove_iff] at refused
  exact congrArg Host.Outcome.next (if_pos refused)

theorem exec_tsplitWrite_taken {s : State} {die : Nat} {v : Word} (named : v.toNat % 8 ≠ 7)
    (room : (s.die die).tsplit ≤ v.toNat % 8 ∨ ¬s.usesAbove die (v.toNat % 8)) : exec (.tsplitWrite die v) s =
      .next (((s.setDie die { s.die die with tsplit := v.toNat % 8 }).l2Split die).wakeDie die) := by
  rw [← State.usesAbove_iff] at room
  refine congrArg Host.Outcome.next (if_neg (not_or.2 ⟨named, fun ⟨less, used⟩ => ?_⟩))
  exact room.elim (fun more => Nat.not_lt.2 more less) fun unused => unused used

theorem exec_creset_busy {s : State} {tid cell : Nat} (busy : (s.cell cell).resetUntil.isSome) :
    exec (.creset tid cell) s = .next (s.modCtx tid fun c => { c with cstat := 1 }) :=
  if_pos busy

theorem actingWrites : Claims.ActingWrites := by
  intro s tid slice die core cell q v b sl d stat
  exact ⟨exec_slretEnter_free, exec_slretEnter_used, rfl, rfl, ⟨exec_tsplitWrite_refused, exec_tsplitWrite_taken⟩, rfl, rfl, rfl, rfl,
    State.core_setCore _ _ _, exec_creset_busy, exec_creset_effect tid, exec_cellResetEnd_effect⟩

/-- Settles O43: every register is read and written as the model's table of them says, and each acting write by its own meaning. -/
theorem systemRegistersAndWrites : Obligations.SystemRegistersAndWrites := ⟨systemRegisters, actingWrites⟩

end Sys2Proof.Machine
end

section
/-! PROOFS. Lanes of a vector (R188, R200, R204): a lane is a part of its register's number, a register is put together from its lanes, and what
a lane-wise instruction writes is what `CompletesLanes` says. -/

namespace Sys2Proof.Machine

/-! ## Lanes and registers -/

theorem laneOf_eq_div_mod {w : Nat} (n k : Nat) (hw : 0 < w) : laneOf w n k = n / 2 ^ (w * k) % 2 ^ w := by
  have width : w * k + w - 1 + 1 - w * k = w := by omega
  rw [laneOf, bitsOf, width, Nat.shiftRight_eq_div_pow]

/-- A lane, as the spec cuts it out of the register (R200). -/
theorem laneOf_toNat {n w : Nat} (v : BitVec n) (k : Nat) (hw : 0 < w) : laneOf w v.toNat k = (v.extractLsb' (w * k) w).toNat := by
  rw [laneOf_eq_div_mod _ _ hw, BitVec.extractLsb'_toNat, Nat.shiftRight_eq_div_pow]

theorem Ctx.lane_eq_toNat (c : Ctx) {w : Nat} (r : R5) (k : Nat) (hw : 0 < w) : c.lane w r k = ((c.vr r).extractLsb' (w * k) w).toNat :=
  laneOf_toNat _ _ hw

theorem laneOf_ofLanes {w : Nat} (ls : List Nat) (k : Nat) (hw : 0 < w) (h : k < ls.length) : laneOf w (ofLanes w ls) k = ls[k] % 2 ^ w := by
  rw [laneOf_eq_div_mod _ _ hw]
  induction ls generalizing k with
  | nil => simp at h
  | cons l r ih =>
    cases k with
    | zero => simp [ofLanes]
    | succ k =>
      have above : (l % 2 ^ w + 2 ^ w * ofLanes w r) / 2 ^ w = ofLanes w r := by
        rw [Nat.add_mul_div_left _ _ (Nat.two_pow_pos w), Nat.div_eq_of_lt (Nat.mod_lt _ (Nat.two_pow_pos w)), Nat.zero_add]
      rw [ofLanes, Nat.mul_succ, Nat.add_comm (w * k), Nat.pow_add, ← Nat.div_div_eq_div_mul, above]
      exact ih k (by simpa using h)

/-- The lanes below bit 512 of a number are those of the register that it fills. -/
theorem extractLsb'_ofNat_toNat {w : Nat} (n k : Nat) (hw : 0 < w) (h : w * k + w ≤ 512) :
    ((BitVec.ofNat 512 n).extractLsb' (w * k) w).toNat = laneOf w n k := by
  rw [laneOf_eq_div_mod _ _ hw, BitVec.extractLsb'_toNat, BitVec.toNat_ofNat, Nat.shiftRight_eq_div_pow]
  refine Nat.eq_of_testBit_eq fun i => ?_
  simp only [Nat.testBit_mod_two_pow, Nat.testBit_div_two_pow]
  by_cases inside : i < w
  · simp [show i + w * k < 512 by omega]
  · simp [inside]

theorem lane_vecOfLanes {w k : Nat} (f : Nat → Nat) (hw : 0 < w) (hk : k < 512 / w) :
    ((vecOfLanes w ((List.range (512 / w)).map f)).extractLsb' (w * k) w).toNat = f k % 2 ^ w := by
  have room : w * k + w ≤ 512 := (Nat.mul_le_mul_left w hk).trans (Nat.mul_div_le 512 w)
  rw [vecOfLanes, extractLsb'_ofNat_toNat _ _ hw room, laneOf_ofLanes _ _ hw (by simpa using hk)]
  simp

/-! ## Lane-wise instructions -/

/-- An instruction completes by any function that does to the issuing thread what its ending does. -/
theorem completes_of_finish {i : Instr} {s : State} {f g : Ctx → Ctx} (ends : exec i s = .next (s.finish f)) (same : f s.me = g s.me) :
    Completes i s g :=
  ⟨_, ends.trans (by rw [State.finish, same]; rfl), differs_setCtx _ _ _⟩

theorem Ctx.activeElems_any (c : Ctx) (w : Nat) (mk : Option MaskOp) (f : Nat → Elem) (p : Elem → Bool) :
    (c.activeElems w mk f).any p = (List.range (512 / w)).any fun k => c.active mk k && p (f k) := by
  rw [Ctx.activeElems, List.any_map, List.any_filter]
  rfl

/-- What a masked form writes to a lane (R204). -/
theorem Ctx.lane_maskedVec (c : Ctx) {w k : Nat} (a : R5) (mk : Option MaskOp) (f : Nat → Elem) (hw : 0 < w) (hk : k < 512 / w) :
    ((c.maskedVec w a mk f).extractLsb' (w * k) w).toNat =
      if c.active mk k then (f k).bits % 2 ^ w else if zeroing mk then 0 else ((c.vr a).extractLsb' (w * k) w).toNat := by
  rw [Ctx.maskedVec, lane_vecOfLanes _ hw hk]
  split
  · rfl
  · split
    · exact Nat.zero_mod _
    · rw [Ctx.lane_eq_toNat _ _ _ hw, Nat.mod_eq_of_lt (BitVec.isLt _)]

/-- A short lane-wise instruction does what `CompletesLanes` says of the elements that it writes. -/
theorem completesLanes_of_writeLanes {i : Instr} {s : State} {w : Nat} {a : R5} {mk : Option MaskOp} {m e : Nat} {f : Nat → Elem}
    {g : Ctx → Ctx} (hw : 0 < w) (ends : exec i s = .next (s.finish g)) (writes : g s.me = s.me.writeLanes w a mk m e f) :
    CompletesLanes i s w a mk m e f := by
  refine ⟨s.me.maskedVec w a mk f, completes_of_finish ends ?_, fun k hk => ?_⟩
  · simp only [writes, Ctx.writeLanes, Ctx.raiseAll, Ctx.activeElems_any]
    rfl
  · have zeros : zeroing mk = mk.any MaskOp.zero := by cases mk <;> rfl
    exact zeros ▸ s.me.lane_maskedVec a mk f hw hk

end Sys2Proof.Machine
end

section
/-! PROOFS. Vector reductions, dot products and the statistics unit (O23): what the tree of a reduction computes (R221), the products of VDOT on
words (R222), and the forms of the statistics unit (R196 to R199). -/

namespace Sys2Proof.Machine

/-! ## The tree of a reduction (R221) -/

section Tree

variable {α β : Type}

theorem length_treeLevel (comb : Nat → α → α → α) (k : Nat) (l : List α) : (treeLevel comb k l).length = (l.length + 1) / 2 := by
  fun_induction treeLevel comb k l with
  | case1 k x y r ih =>
    simp only [List.length_cons, ih]
    omega
  | case2 k l short =>
    match l with
    | [] => simp
    | [_] => simp
    | x :: y :: r => exact (short x y r rfl).elim

/-- A tree of enough levels leaves one node. -/
theorem exists_treeReduce_eq (comb : Nat → α → α → α) (fuel k : Nat) (l : List α) (pos : 0 < l.length) (enough : l.length ≤ 2 ^ fuel) :
    ∃ r, treeReduce comb fuel k l = [r] := by
  induction fuel generalizing k l with
  | zero => exact List.length_eq_one_iff.1 (Nat.le_antisymm enough pos)
  | succ fuel ih =>
    have level := length_treeLevel comb k l
    rw [Nat.pow_succ] at enough
    exact ih _ _ (by omega) (by omega)

/-- A fold that takes a combined node as its two parts, one after the other, sees no difference between a level and the next. -/
theorem foldl_treeLevel {comb : α → α → α} {f : β → α → β} (parts : ∀ m x y, f m (comb x y) = f (f m x) y) (k : Nat) (l : List α) (m : β) :
    (treeLevel (fun _ => comb) k l).foldl f m = l.foldl f m := by
  fun_induction treeLevel (fun _ => comb) k l generalizing m with
  | case1 k x y r ih => simp only [List.foldl_cons, parts, ih]
  | case2 => rfl

theorem foldl_treeReduce {comb : α → α → α} {f : β → α → β} (parts : ∀ m x y, f m (comb x y) = f (f m x) y) (fuel k : Nat) (l : List α)
    (m : β) : (treeReduce (fun _ => comb) fuel k l).foldl f m = l.foldl f m := by
  induction fuel generalizing k l with
  | zero => rfl
  | succ fuel ih => rw [treeReduce, ih, foldl_treeLevel parts]

theorem treeLevel_map {c : α → α → α} {d : β → β → β} {t : α → β} (hom : ∀ x y, d (t x) (t y) = t (c x y)) (k : Nat) (l : List α) :
    treeLevel (fun _ => d) k (l.map t) = (treeLevel (fun _ => c) k l).map t := by
  fun_induction treeLevel (fun _ => c) k l with
  | case1 k x y r ih => simp only [List.map_cons, treeLevel, hom, ih]
  | case2 k l short =>
    match l with
    | [] => rfl
    | [_] => rfl
    | x :: y :: r => exact (short x y r rfl).elim

/-- A tree over the images of nodes is the image of the tree. -/
theorem treeReduce_map {c : α → α → α} {d : β → β → β} {t : α → β} (hom : ∀ x y, d (t x) (t y) = t (c x y)) (fuel k : Nat) (l : List α) :
    treeReduce (fun _ => d) fuel k (l.map t) = (treeReduce (fun _ => c) fuel k l).map t := by
  induction fuel generalizing k l with
  | zero => rfl
  | succ fuel ih => rw [treeReduce, treeLevel_map hom, ih, List.length_map, treeReduce]

/-- Lanes that stand for an identity do not show in a fold whose steps may change places. -/
theorem foldl_inactive {f : β → α → β} {e : α} (comm : ∀ m x y, f (f m x) y = f (f m y) x) (on : Nat → Bool) (x : Nat → α) (l : List Nat)
    (m : β) (unit : f m e = m) : (l.map fun i => if on i then x i else e).foldl f m = ((l.filter on).map x).foldl f m := by
  induction l generalizing m with
  | nil => rfl
  | cons i r ih =>
    cases active : on i with
    | true => simpa [active] using ih (f m (x i)) (by rw [comm, unit])
    | false => simpa [active, unit] using ih m unit

end Tree

/-! ## Integer reductions, on words (R221) -/

/-- The combination of an integer reduction, of words: 3 ADD, 4 MIN, 5 MAX, 6 MINU, 7 MAXU (R221). -/
def redWord (op : Nat) {w : Nat} (x y : BitVec w) : BitVec w :=
  match op with
  | 3 => x + y
  | 4 => if x.toInt ≤ y.toInt then x else y
  | 5 => if x.toInt ≤ y.toInt then y else x
  | 6 => if x.toNat ≤ y.toNat then x else y
  | _ => if x.toNat ≤ y.toNat then y else x

theorem redCombineInt_toNat (op : Nat) {w : Nat} (hw : 0 < w) (x y : BitVec w) :
    redCombineInt op w x.toNat y.toNat = (redWord op x y).toNat := by
  fun_cases redWord op x y with
  | case1 => exact (BitVec.toNat_add x y).symm
  | case2 le => simp [redCombineInt, signedOf_toNat, hw, le]
  | case3 gt => simp [redCombineInt, signedOf_toNat, hw, gt]
  | case4 le => simp [redCombineInt, signedOf_toNat, hw, le]
  | case5 gt => simp [redCombineInt, signedOf_toNat, hw, gt]
  | case6 le => exact Nat.min_eq_left le
  | case7 gt => exact Nat.min_eq_right (Nat.le_of_not_le gt)
  | case8 op le => simp [redCombineInt, le]
  | case9 op gt => simp [redCombineInt, Nat.le_of_not_le gt]

/-- The widths of a lane (R200). -/
theorem laneBits_cases (n : Nat) : laneBits n = 8 ∨ laneBits n = 16 ∨ laneBits n = 32 ∨ laneBits n = 64 := by
  unfold laneBits
  split <;> decide

theorem laneBits_eq_getD (n : Nat) : laneBits n = [32, 16, 8, 64].getD (n % 4) 0 := by
  have below : n % 4 < 4 := Nat.mod_lt _ (by decide)
  unfold laneBits
  generalize n % 4 = k at *
  interval_cases k <;> rfl

theorem redIdentity_lt (op : Nat) {w : Nat} (hw : 0 < w) : redIdentity op w < 2 ^ w := by
  have half : 2 ^ (w - 1) < 2 ^ w := Nat.pow_lt_pow_right (by decide) (Nat.sub_lt hw (by decide))
  have top := Nat.two_pow_pos w
  unfold redIdentity
  split <;> omega

/-- The identity of an integer reduction, as a word. -/
def redUnit (op w : Nat) : BitVec w := BitVec.ofNat w (redIdentity op w)

theorem redUnit_toNat (op : Nat) {w : Nat} (hw : 0 < w) : (redUnit op w).toNat = redIdentity op w := by
  rw [redUnit, BitVec.toNat_ofNat, Nat.mod_eq_of_lt (redIdentity_lt op hw)]

/-- The identity of MIN is the most positive value (R221). -/
theorem redUnit_min_toInt {w : Nat} (hw : 0 < w) : (redUnit 4 w).toInt = 2 ^ (w - 1) - 1 := by
  have top := Nat.two_pow_pos (w - 1)
  have low : 2 ^ (w - 1) - 1 < 2 ^ w := redIdentity_lt 4 hw
  rw [← signedOf_toNat _ hw, redUnit_toNat 4 hw, signedOf, redIdentity, Nat.mod_eq_of_lt low, if_pos (by omega)]
  push_cast [Nat.one_le_two_pow]
  rfl

/-- The identity of MAX is the most negative value (R221). -/
theorem redUnit_max_toInt {w : Nat} (hw : 0 < w) : (redUnit 5 w).toInt = -2 ^ (w - 1) := by
  have low : 2 ^ (w - 1) < 2 ^ w := redIdentity_lt 5 hw
  have double : (2 : Int) ^ w = 2 * 2 ^ (w - 1) := by rw [← pow_succ', Nat.sub_add_cancel hw]
  rw [← signedOf_toNat _ hw, redUnit_toNat 5 hw, signedOf, redIdentity, Nat.mod_eq_of_lt low, if_neg (lt_irrefl _), double]
  push_cast
  ring

/-- The active lanes of a register, of `w` bits, lane 0 first (R204). -/
def Ctx.activeWords (c : Ctx) (w : Nat) (b : R5) (mk : Option MaskOp) : List (BitVec w) :=
  ((List.range (512 / w)).filter (c.active mk)).map fun k => (c.vr b).extractLsb' (w * k) w

/-- A fold over words, its start, and the reading of what it comes to as a scalar, when they compute an integer reduction (R221): a combined word
counts as its two parts, words may change places, the identity adds nothing to the start, and one word is read as the result of R221. -/
structure ReducesTo (op w : Nat) {β : Type} (fold : β → BitVec w → β) (start : β) (read : β → Word) : Prop where
  parts : ∀ m x y, fold m (redWord op x y) = fold (fold m x) y
  comm : ∀ m x y, fold (fold m x) y = fold (fold m y) x
  unit : fold start (redUnit op w) = start
  reads : ∀ r, read (fold start r) = if op < 6 then r.signExtend 64 else BitVec.ofNat 64 r.toNat

theorem reducesTo_add (w : Nat) : ReducesTo 3 w (· + ·) 0 (·.signExtend 64) where
  parts m x y := (BitVec.add_assoc m x y).symm
  comm m x y := add_right_comm m x y
  unit := BitVec.add_zero _
  reads r := by rw [zero_add]; rfl

theorem reducesTo_min {w : Nat} (hw : 0 < w) :
    ReducesTo 4 w (fun (m : Int) v => min m v.toInt) (2 ^ (w - 1) - 1) (BitVec.ofInt 64) where
  parts m x y := by simp only [redWord]; split <;> omega
  comm m x y := min_right_comm m _ _
  unit := by rw [redUnit_min_toInt hw, min_self]
  reads r := by rw [min_eq_right (Int.le_sub_one_of_lt BitVec.toInt_lt)]; rfl

theorem reducesTo_max {w : Nat} (hw : 0 < w) : ReducesTo 5 w (fun (m : Int) v => max m v.toInt) (-2 ^ (w - 1)) (BitVec.ofInt 64) where
  parts m x y := by simp only [redWord]; split <;> omega
  comm m x y := max_right_comm m _ _
  unit := by rw [redUnit_max_toInt hw, max_self]
  reads r := by rw [max_eq_right (BitVec.le_toInt r)]; rfl

theorem reducesTo_minu {w : Nat} (hw : 0 < w) : ReducesTo 6 w (fun m v => min m v.toNat) (2 ^ w - 1) (BitVec.ofNat 64) where
  parts m x y := by simp only [redWord]; split <;> omega
  comm m x y := min_right_comm m _ _
  unit := by rw [redUnit_toNat 6 hw, redIdentity, min_self]
  reads r := by rw [min_eq_right (Nat.le_sub_one_of_lt r.isLt)]; rfl

theorem reducesTo_maxu (w : Nat) : ReducesTo 7 w (fun m v => max m v.toNat) 0 (BitVec.ofNat 64) where
  parts m x y := by simp only [redWord]; split <;> omega
  comm m x y := max_right_comm m _ _
  unit := Nat.zero_max _
  reads r := by rw [Nat.zero_max]; rfl

/-- An integer form of VRED completes with its fold over the active lanes: its tree leaves one word, which the fold takes as it takes them. -/
theorem vred_reduces {s : State} {f : F6} {a b : R5} {mk : Option MaskOp} {w op : Nat} {β : Type} {fold : β → BitVec w → β} {start : β}
    {read : β → Word} (reduces : ReducesTo op w fold start read) (width : laneBits f.toNat = w) (code : f.toNat / 4 = op) (integer : 3 ≤ op) :
    Completes (.vred f a b mk) s (·.setX a (read ((s.me.activeWords w b mk).foldl fold start))) := by
  have sizes := laneBits_cases f.toNat
  rw [width] at sizes
  have pos : 0 < w := by omega
  have lanes : 0 < 512 / w ∧ 512 / w ≤ 2 ^ 6 := by rcases sizes with rfl | rfl | rfl | rfl <;> decide
  let leaves := (List.range (512 / w)).map fun i => if s.me.active mk i then (s.me.vr b).extractLsb' (w * i) w else redUnit op w
  have count : leaves.length = 512 / w := by simp [leaves]
  obtain ⟨r, tree⟩ := exists_treeReduce_eq (fun _ => redWord op) 6 0 leaves (count ▸ lanes.1) (count ▸ lanes.2)
  have numbers : (List.range (512 / w)).map (fun i => if s.me.active mk i then s.me.lane w b i else redIdentity op w) =
      leaves.map BitVec.toNat := by
    simp only [leaves, List.map_map, Function.comp_def, apply_ite BitVec.toNat, redUnit_toNat op pos, s.me.lane_eq_toNat b _ pos]
  have folded : (s.me.activeWords w b mk).foldl fold start = fold start r := by
    rw [Ctx.activeWords, ← foldl_inactive reduces.comm _ _ _ _ reduces.unit, ← foldl_treeReduce reduces.parts 6 0, tree]
    rfl
  refine completes_of_finish rfl ?_
  simp only [code, width, numbers, if_neg (Nat.not_lt.2 integer), treeReduce_map (redCombineInt_toNat op pos), tree, List.map_cons,
    List.map_nil, List.headD_cons, sextWord, signedOf_toNat r pos, folded, reduces.reads]
  rfl

/-! ## Floating-point reductions (R221) -/

/-- What the tree of a floating-point form of VRED begins with (R221). -/
def Ctx.redLeaves (c : Ctx) (fm : Fmt) (op : Nat) (b : R5) (mk : Option MaskOp) : List RedNode :=
  (List.range (512 / fm.w)).map fun k => ⟨if c.active mk k then fp32.round 0 0 (fm.decode (c.lane fm.w b k)) else redIdentityF op, false⟩

theorem vfmt_eq_getD {n : Nat} (fmt : n % 4 < 3) : vfmt n = [fp32, bf16, fp16].getD (n % 4) fp32 := by
  unfold vfmt
  generalize n % 4 = k at *
  interval_cases k <;> rfl

theorem redIdentityF_eq_getD {op : Nat} (h : op < 3) : redIdentityF op = [0x80000000, 0xFF800000, 0x7F800000].getD op 0 := by
  interval_cases op <;> rfl

theorem vred_float {s : State} {f : F6} {a b : R5} {mk : Option MaskOp} (float : f.toNat < 12) (fmt : f.toNat % 4 < 3) :
    let fm := vfmt f.toNat
    ∃ r, treeReduce (s.me.redCombine (f.toNat / 4)) 6 0 (s.me.redLeaves fm (f.toNat / 4) b mk) = [r] ∧ Completes (.vred f a b mk) s (fun c =>
      ((c.setX a (BitVec.ofNat 64 r.bits)).setNfs (r.nf || fp32.nonfinite r.bits)).stepSr (if f.toNat < 4 then c.rm else 0) (512 / fm.w - 1)) := by
  intro fm
  have lanes : 0 < 512 / fm.w ∧ 512 / fm.w ≤ 2 ^ 6 := by
    simp only [fm, vfmt]
    generalize f.toNat % 4 = k at *
    interval_cases k <;> decide
  have count : (s.me.redLeaves fm (f.toNat / 4) b mk).length = 512 / fm.w := by simp [Ctx.redLeaves]
  obtain ⟨r, tree⟩ := exists_treeReduce_eq (s.me.redCombine (f.toNat / 4)) 6 0 _ (count ▸ lanes.1) (count ▸ lanes.2)
  have sums : (f.toNat / 4 = 0) = (f.toNat < 4) := by rw [Nat.div_eq_zero_iff_lt (by decide)]
  refine ⟨r, tree, completes_of_finish rfl ?_⟩
  rw [Ctx.redLeaves] at tree
  simp only [if_pos (show f.toNat / 4 < 3 by omega), fm] at tree ⊢
  simp only [tree, List.headD_cons, sums]

/-! ## Dot products (R222) -/

theorem wrapped_eq_ofInt (w : Nat) (v : Int) : Elem.wrapped w v = { bits := (BitVec.ofInt w v).toNat } := by
  rw [Elem.wrapped, intBits, BitVec.toNat_ofInt]
  push_cast
  rfl

/-- The integer form of VDOT: the exact sum of a lane's products, modulo 2^32, is the sum of their words. -/
theorem vdot_words (s : State) (a b d : R5) (mk : Option MaskOp) :
    CompletesBits (.vdot 4 a b d mk) s 32 a mk (fun k => (List.range 4).foldl (fun (t : BitVec 32) j =>
      t + ((s.me.vr b).extractLsb' (32 * k + 8 * j) 8).signExtend 32 * ((s.me.vr d).extractLsb' (32 * k + 8 * j) 8).signExtend 32)
      ((s.me.vr a).extractLsb' (32 * k) 32)) := by
  refine completesLanes_of_writeLanes (by decide) rfl ?_
  rw [if_pos (by rfl)]
  congr 1
  funext k
  have old : (s.me.vr a).extractLsb' (32 * k) 32 = BitVec.ofInt 32 (s.me.lane 32 a k) := by
    rw [s.me.lane_eq_toNat a k (by decide), BitVec.ofInt_natCast, BitVec.ofNat_toNat, BitVec.setWidth_eq]
  have signed (r : R5) (j : Nat) : signedOf 8 (s.me.lane 8 r (4 * k + j)) = ((s.me.vr r).extractLsb' (32 * k + 8 * j) 8).toInt := by
    rw [s.me.lane_eq_toNat r _ (by decide), signedOf_toNat _ (by decide), Nat.mul_add, ← Nat.mul_assoc]
  simp only [wrapped_eq_ofInt, old]
  congr 2
  refine (List.foldl_hom (BitVec.ofInt 32) fun t j => ?_).symm
  rw [BitVec.ofInt_add, BitVec.ofInt_mul, signed, signed]
  rfl

/-- The floating-point forms of VDOT: the exact sum of a lane's products and its old value is rounded once. -/
theorem vdot_float (s : State) (f : F6) (a b d : R5) (mk : Option MaskOp) (float : f.toNat < 4) :
    let fm := Fmt.ofCode (f.toNat + 1)
    let g := 32 / fm.w
    CompletesLanes (.vdot f a b d mk) s 32 a mk s.me.rm 16 fun k => s.me.rounded fp32 s.me.rm k (dotValue s.me.rm
      ((List.range g).map fun j => (fm.decode (s.me.lane fm.w b (g * k + j)), fm.decode (s.me.lane fm.w d (g * k + j))))
      (fp32.decode (s.me.lane 32 a k))) := by
  intro fm g
  refine completesLanes_of_writeLanes (by decide) rfl ?_
  rw [if_neg (show f.toNat ≠ 4 by omega)]

theorem ofCode_eq_getD {n : Nat} (h : n < 4) : Fmt.ofCode (n + 1) = [bf16, fp16, e4m3, e5m2].getD n bf16 := by
  interval_cases n <;> rfl

/-- VRED and VDOT: the forms over words by their folds, the others by their values. -/
theorem vectorReductions : Claims.VectorReductions := by
  intro s f a b d mk c w on x act fm
  have width : laneBits f.toNat = w := laneBits_eq_getD _
  have pos : 0 < w := by
    have sizes := laneBits_cases f.toNat
    omega
  refine ⟨fun _ _ => vred_reduces (reducesTo_add w) width (by omega) (by decide),
    fun _ _ => vred_reduces (reducesTo_min pos) width (by omega) (by decide),
    fun _ _ => vred_reduces (reducesTo_max pos) width (by omega) (by decide),
    fun _ _ => vred_reduces (reducesTo_minu pos) width (by omega) (by decide),
    fun _ _ => vred_reduces (reducesTo_maxu w) width (by omega) (by decide), fun float fmt => ?_, vdot_words s a b d mk, fun float => ?_⟩
  · have reduced := vred_float (s := s) (a := a) (b := b) (mk := mk) float fmt
    simp only [Ctx.redLeaves, vfmt_eq_getD fmt, redIdentityF_eq_getD (show f.toNat / 4 < 3 by omega)] at reduced
    exact reduced
  · have summed := vdot_float s f a b d mk float
    rw [ofCode_eq_getD float] at summed
    exact summed

/-! ## The statistics unit (R196 to R199) -/

/-- The lanes that VHIST counts, as the spec cuts them out of the register (R197). -/
theorem statLanes_eq (fmt : Nat) (v : Vec) : statLanes fmt v =
    if fmt = 0 then (List.range 16).map fun k => fp32.decode ((v.extractLsb' (32 * k) 32).toNat)
    else (List.range 32).map fun k => (Fmt.ofCode fmt).decode ((v.extractLsb' (16 * k) 16).toNat) := by
  rw [statLanes, lanesOf, List.map_map]
  split
  case isTrue fp => simp only [fp, Function.comp_def, laneOf_toNat v _ (show 0 < 32 by decide)]; rfl
  case isFalse => simp only [Function.comp_def, laneOf_toNat v _ (show 0 < 16 by decide)]

@[simp] theorem State.applyStat_ctx (s : State) (cell asid slot k : Nat) (vs : List FV) : (s.applyStat cell asid slot vs).ctx k = s.ctx k := by
  rw [State.applyStat]
  split <;> rfl

/-- The grant applies the update, and the thread that waited moves on (R197, R199). -/
theorem vhistGrant_differs (s : State) (tid cell asid slot fmt : Nat) (v : Vec) : ∃ t, exec (.vhistGrant tid cell asid slot fmt v) s = .next t ∧
    Differs (s.applyStat cell asid slot (statLanes fmt v)) t tid (s.ctx tid).advance [] := by
  refine ⟨_, rfl, ?_⟩
  rw [← s.applyStat_ctx cell asid slot tid (statLanes fmt v)]
  exact differs_setCtx _ _ _

/-- The forms of the statistics unit, each by its ending; a slot is put back without a change to any thread. -/
theorem statistics : Claims.Statistics := by
  intro s f a b d i tid cell asid slot fmt v c own k t u values
  have counted : statLanes fmt v = values := statLanes_eq fmt v
  simp only [BitVec.toNat_setWidth, k, t, own, ← counted]
  exact ⟨waitsFrom_parkMe_post rfl, vhistGrant_differs s tid cell asid slot fmt v, completes_finish rfl,
    fun owned => completesFrom_finish (if_pos owned), fun foreign => completes_finish (if_neg foreign), completesFrom_finish rfl⟩

/-- Settles O23: the forms over words by the fold that their tree comes to, and the forms of the statistics unit by their endings. -/
theorem reductionsAndStatistics : Obligations.ReductionsAndStatistics := ⟨vectorReductions, statistics⟩

end Sys2Proof.Machine
end

section
/-! PROOFS. Vector floating-point arithmetic (O19): a short lane-wise form completes with the elements that its meaning writes, its lanes being those
that the spec cuts out of its registers (R200, R206 to R210). -/

namespace Sys2Proof.Machine

/-! ## Short lane-wise forms -/

/-- Lane `k` of a register, as a bit pattern (R200). -/
abbrev Ctx.word (c : Ctx) (w : Nat) (r : R5) (k : Nat) : BitVec w := (c.vr r).extractLsb' (w * k) w

theorem Ctx.lane_eq_word (c : Ctx) {w : Nat} (r : R5) (k : Nat) (hw : 0 < w) : c.lane w r k = (c.word w r k).toNat :=
  c.lane_eq_toNat r k hw

theorem Ctx.writeLanes_congr (c : Ctx) {w : Nat} (a : R5) (mk : Option MaskOp) (m n : Nat) {e f : Nat → Elem}
    (same : ∀ k, k < 512 / w → e k = f k) : c.writeLanes w a mk m n e = c.writeLanes w a mk m n f := by
  have vectors : c.maskedVec w a mk e = c.maskedVec w a mk f := by
    refine congrArg (vecOfLanes w) (List.map_congr_left fun k hk => ?_)
    rw [same k (List.mem_range.1 hk)]
  have elems : c.activeElems w mk e = c.activeElems w mk f :=
    List.map_congr_left fun k hk => same k (List.mem_range.1 (List.mem_filter.1 hk).1)
  rw [Ctx.writeLanes, vectors, elems, Ctx.writeLanes]

/-- A form that writes lanes does what `CompletesLanes` says of any elements that agree with its own on the lanes that exist. -/
theorem completesLanes_of_lanes {i : Instr} {s : State} {w : Nat} {a : R5} {mk : Option MaskOp} {m : Ctx → Nat} {n : Nat}
    {e : Ctx → Nat → Elem} {f : Nat → Elem} (hw : 0 < w) (ends : exec i s = .next (s.finish fun x => x.writeLanes w a mk (m x) n (e x)))
    (lanes : ∀ k, k < 512 / w → e s.me k = f k) : CompletesLanes i s w a mk (m s.me) n f :=
  completesLanes_of_writeLanes hw ends (s.me.writeLanes_congr a mk _ n lanes)

/-- The same of a form that writes bit patterns and sets no flag. -/
theorem completesBits_of_lanes {i : Instr} {s : State} {w : Nat} {a : R5} {mk : Option MaskOp} {e : Ctx → Nat → Nat} {f : Nat → BitVec w}
    (hw : 0 < w) (ends : exec i s = .next (s.finish fun x => x.writeLanes w a mk 0 0 fun k => { bits := e x k }))
    (lanes : ∀ k, k < 512 / w → e s.me k = (f k).toNat) : CompletesBits i s w a mk f :=
  completesLanes_of_lanes (m := fun _ => 0) hw ends fun k hk => congrArg (fun v => ({ bits := v } : Elem)) (lanes k hk)

/-! ## Forms over a floating-point format (R206 to R210) -/

theorem vfmt_w_pos (n : Nat) : 0 < (vfmt n).w := by
  unfold vfmt Fmt.ofCode
  split <;> decide

section Formats

variable {s : State} {f : F6} {a b d : R5} {mk : Option MaskOp} {fm : Fmt}

/-- Lane `k` of a register, as a value of a format. -/
abbrev Ctx.laneValue (c : Ctx) (fm : Fmt) (r : R5) (k : Nat) : FV := fm.decode (c.word fm.w r k).toNat

theorem Ctx.decode_lane (c : Ctx) (r : R5) (k : Nat) (hw : 0 < fm.w) : fm.decode (c.lane fm.w r k) = c.laneValue fm r k := by
  rw [c.lane_eq_word r k hw]

/-- VADD, VSUB and VMUL round the value of their operation once (R206). -/
theorem vbin_completes {i : Instr} {op : Nat → FV → FV → FV} (format : vfmt f.toNat = fm) (ends : exec i s = s.vbin f a b d mk op) :
    CompletesLanes i s fm.w a mk s.me.rm (512 / fm.w) fun k =>
      s.me.rounded fm s.me.rm k (op s.me.rm (s.me.laneValue fm b k) (s.me.laneValue fm d k)) := by
  subst format
  refine completesLanes_of_lanes (vfmt_w_pos _) ends fun k _ => ?_
  simp only [s.me.decode_lane _ k (vfmt_w_pos _)]

theorem vfma_completes (format : vfmt f.toNat = fm) :
    CompletesLanes (.vfma f a b d mk) s fm.w a mk s.me.rm (512 / fm.w) fun k => s.me.rounded fm s.me.rm k
      (fusedValue s.me.rm (f.toNat / 4) (s.me.laneValue fm b k) (s.me.laneValue fm d k) (s.me.laneValue fm a k)) := by
  subst format
  refine completesLanes_of_lanes (vfmt_w_pos _) rfl fun k _ => ?_
  simp only [s.me.decode_lane _ k (vfmt_w_pos _)]

/-- VMIN and VMAX take the chosen value as it is (R208). -/
theorem vminmax_completes {i : Instr} {max : Bool} (format : vfmt f.toNat = fm) (ends : exec i s = s.vminmax max f a b d mk) :
    CompletesLanes i s fm.w a mk 0 0 fun k => Elem.pattern fm
      (fm.round 0 0 (FV.minMax max (f.getLsbD 2) (s.me.laneValue fm b k) (s.me.laneValue fm d k))) := by
  subst format
  refine completesLanes_of_lanes (m := fun _ => 0) (vfmt_w_pos _) ends fun k _ => ?_
  simp only [s.me.decode_lane _ k (vfmt_w_pos _)]

/-- VRCP and VRSQ take the seed of their function's rounded value (R210). -/
theorem vseed_completes {i : Instr} {op : FV → FV} (format : vfmt f.toNat = fm) (ends : exec i s = s.vseed f a b mk op) :
    CompletesLanes i s fm.w a mk 0 0 fun k => Elem.pattern fm (fm.seed (fm.round 0 0 (op (s.me.laneValue fm b k)))) := by
  subst format
  refine completesLanes_of_lanes (m := fun _ => 0) (vfmt_w_pos _) ends fun k _ => ?_
  simp only [s.me.decode_lane _ k (vfmt_w_pos _)]

/-- VSGN: a NaN becomes the canonical one of the sign chosen; of another pattern the sign alone is replaced (R209). -/
theorem vsgn_completes (format : vfmt f.toNat = fm) :
    let p (r : R5) (k : Nat) : Nat := (s.me.word fm.w r k).toNat
    let flip (k : Nat) : Bool :=
      [fm.sign (p d k), !fm.sign (p d k), fm.sign (p b k) != fm.sign (p d k)].getD (f.toNat / 4) false
    CompletesLanes (.vsgn f a b d mk) s fm.w a mk 0 0 fun k => Elem.pattern fm (if (fm.decode (p b k)).isNan then fm.canonicalNan (flip k)
      else p b k % 2 ^ (fm.w - 1) + (if flip k then 2 ^ (fm.w - 1) else 0)) := by
  subst format
  dsimp only
  refine completesLanes_of_lanes (m := fun _ => 0) (vfmt_w_pos _) rfl fun k _ => ?_
  simp only [s.me.lane_eq_word _ k (vfmt_w_pos _)]
  congr 1
  -- each rule of the sign, on a NaN and on a number
  generalize f.toNat / 4 = rule
  generalize (vfmt f.toNat).decode _ = value
  rcases rule with _ | _ | _ | rule <;> cases value <;> rfl

end Formats

theorem getLsbD_two_of_lt (f : F6) (h : f.toNat < 8) : f.getLsbD 2 = decide (4 ≤ f.toNat) := by
  revert h
  revert f
  decide

/-- VADD, VSUB and VMUL, each by its operation. -/
theorem vectorArithmetic : Claims.VectorArithmetic := by
  intro s f a b d mk float c fm x y lanes
  have format : vfmt f.toNat = fm := by rw [vfmt_eq_getD (by omega), Nat.mod_eq_of_lt (by omega)]
  exact ⟨vbin_completes (op := FV.add) format rfl, vbin_completes (op := fun m x y => FV.add m x y.negate) format rfl,
    vbin_completes (op := fun _ x y => FV.mul x y) format rfl⟩

/-- The fused form, the choices, the sign form and the seeds, each by its ending. -/
theorem vectorFusedMinMaxSignSeeds : Claims.VectorFusedMinMaxSignSeeds := by
  intro s f a b d mk float c fm w p x flip
  have format : vfmt f.toNat = fm := vfmt_eq_getD float
  refine ⟨fun _ => vfma_completes format, fun num => ?_, fun _ => vsgn_completes format, fun _ =>
    ⟨vseed_completes (op := FV.div (.fin false 1 1)) format rfl, vseed_completes (op := FV.rsqrt) format rfl⟩⟩
  rw [← getLsbD_two_of_lt f num]
  exact ⟨vminmax_completes format rfl, vminmax_completes format rfl⟩

/-- Settles O19: every form writes its lanes by `completesLanes_of_lanes`, each lane rounded, chosen or seeded as its rule says. -/
theorem vectorArithmeticAndFused : Obligations.VectorArithmeticAndFused := ⟨vectorArithmetic, vectorFusedMinMaxSignSeeds⟩

end Sys2Proof.Machine
end

section
/-! PROOFS. Lane moves and vector integer operations (O20): each lane operation of the model, on numbers, is the one on bit patterns that the spec
states (R212 to R220). -/

namespace Sys2Proof.Machine

/-! ## Lane widths -/

theorem laneBits_pos (n : Nat) : 0 < laneBits n := by
  have sizes := laneBits_cases n
  omega

/-! ## Bits of a register put together from its bits -/

theorem testBit_ofLanes_one (l : List Bool) (i : Nat) : (ofLanes 1 (l.map Bool.toNat)).testBit i = l.getD i false := by
  induction l generalizing i with
  | nil => exact Nat.zero_testBit i
  | cons x r ih =>
    have number : ofLanes 1 ((x :: r).map Bool.toNat) = Nat.bit x (ofLanes 1 (r.map Bool.toNat)) := by
      cases x <;> simp [ofLanes, Nat.bit, Nat.add_comm]
    rw [number]
    cases i with
    | zero => exact Nat.testBit_bit_zero _ _
    | succ i => exact (Nat.testBit_bit_succ _ _ _).trans (ih i)

theorem testBit_ofLanes_range (n : Nat) (f : Nat → Bool) (i : Nat) :
    (ofLanes 1 ((List.range n).map fun e => (f e).toNat)).testBit i = (decide (i < n) && f i) := by
  have bits := testBit_ofLanes_one ((List.range n).map f) i
  rw [List.map_map] at bits
  refine bits.trans ?_
  by_cases inside : i < n <;> simp [inside]

/-- A truth table over bit vectors, bit by bit (R213, R223). -/
theorem getLsbD_tableBits {w : Nat} (t : Nat) (x y : BitVec w) (i : Nat) (h : i < w) :
    (tableBits t x y).getLsbD i = t.testBit (2 * (x.getLsbD i).toNat + (y.getLsbD i).toNat) := by
  have chosen (p : Bool) (v : BitVec w) : (if p then v else 0).getLsbD i = (p && v.getLsbD i) := by cases p <;> simp
  simp only [tableBits, BitVec.getLsbD_or, chosen, BitVec.getLsbD_and, BitVec.getLsbD_not, h]
  cases x.getLsbD i <;> cases y.getLsbD i <;> simp

/-! ## Shifts (R214) -/

/-- A lane shifted: 0 SHL, 1 SHR, 2 SAR, 3 ROL (R214). -/
def shiftWord {w : Nat} (op : Nat) (x : BitVec w) (m : Nat) : BitVec w :=
  match op with
  | 0 => x <<< m
  | 1 => x >>> m
  | 2 => x.sshiftRight m
  | _ => x.rotateLeft m

theorem shl_toNat {w : Nat} (x : BitVec w) (m : Nat) : (x <<< m).toNat = if m < w then x.toNat * 2 ^ m % 2 ^ w else 0 := by
  rw [BitVec.toNat_shiftLeft, Nat.shiftLeft_eq]
  split
  · rfl
  · exact Nat.mod_eq_zero_of_dvd (Dvd.dvd.mul_left (Nat.pow_dvd_pow 2 (by omega)) _)

theorem shr_toNat {w : Nat} (x : BitVec w) (m : Nat) : (x >>> m).toNat = if m < w then x.toNat / 2 ^ m else 0 := by
  rw [BitVec.toNat_ushiftRight, Nat.shiftRight_eq_div_pow]
  split
  · rfl
  · exact Nat.div_eq_of_lt (x.isLt.trans_le (Nat.pow_le_pow_right (by decide) (by omega)))

/-- Past the width of a word, a shift to the right leaves its sign alone. -/
theorem toInt_div_two_pow_min {w : Nat} (x : BitVec w) (m : Nat) : x.toInt / 2 ^ min m w = x.toInt / 2 ^ m := by
  rcases Nat.le_total m w with le | ge
  · rw [Nat.min_eq_left le]
  · have signAlone (n : Nat) (hn : w ≤ n) : x.toInt / 2 ^ n = if x.toInt < 0 then -1 else 0 := by
      have room : (2 : Int) ^ w ≤ 2 ^ n := pow_le_pow_right₀ (by decide) hn
      have low := BitVec.le_two_mul_toInt (x := x)
      have high := BitVec.two_mul_toInt_lt (x := x)
      split
      case isTrue neg => exact Int.ediv_eq_neg_one_of_neg_of_le neg (by omega)
      case isFalse => exact Int.ediv_eq_zero_of_lt (by omega) (by omega)
    rw [Nat.min_eq_right ge, signAlone w le_rfl, signAlone m ge]

theorem sar_toNat {w : Nat} (x : BitVec w) (m : Nat) : (x.sshiftRight m).toNat = intBits w (x.toInt.fdiv (2 ^ min m w)) := by
  have shifted : x.sshiftRight m = BitVec.ofInt w (x.toInt / 2 ^ min m w) := by
    rw [toInt_div_two_pow_min, BitVec.sshiftRight, Int.shiftRight_eq_div_pow]
    push_cast
    rfl
  rw [shifted, Int.fdiv_eq_ediv_of_nonneg _ (by positivity), intBits, BitVec.toNat_ofInt]
  push_cast
  rfl

/-- The two parts of a rotated lane have no bit in common. -/
theorem rol_toNat {w : Nat} (x : BitVec w) (m : Nat) (hw : 0 < w) :
    (x.rotateLeft m).toNat = x.toNat * 2 ^ (m % w) % 2 ^ w + x.toNat / 2 ^ (w - m % w) := by
  have parts : 2 ^ w = 2 ^ (m % w) * 2 ^ (w - m % w) := by rw [← Nat.pow_add, Nat.add_sub_cancel' (Nat.mod_lt m hw).le]
  have above : x.toNat * 2 ^ (m % w) % 2 ^ w = 2 ^ (m % w) * (x.toNat % 2 ^ (w - m % w)) := by
    rw [Nat.mul_comm, parts, Nat.mul_mod_mul_left]
  have below : x.toNat / 2 ^ (w - m % w) < 2 ^ (m % w) := Nat.div_lt_of_lt_mul (by rw [Nat.mul_comm, ← parts]; exact x.isLt)
  rw [BitVec.toNat_rotateLeft, Nat.shiftLeft_eq, Nat.shiftRight_eq_div_pow, above, Nat.two_pow_add_eq_or_of_lt below]

theorem shiftLane_toNat {w : Nat} (op : Nat) (x : BitVec w) (m : Nat) (hw : 0 < w) : shiftLane op w x.toNat m = (shiftWord op x m).toNat := by
  fun_cases shiftWord op x m with
  | case1 => exact (shl_toNat x m).symm
  | case2 => exact (shr_toNat x m).symm
  | case3 => rw [shiftLane, signedOf_toNat x hw, sar_toNat]
  | case4 => rw [rol_toNat x m hw, shiftLane]; all_goals assumption

/-! ## Rows of VIOP (R215) -/

theorem clamped_eq (w : Nat) (signed : Bool) (v : Int) :
    let lo : Int := if signed then -2 ^ (w - 1) else 0
    let hi : Int := if signed then 2 ^ (w - 1) - 1 else 2 ^ w - 1
    Elem.clamped w signed v = { bits := (BitVec.ofInt w (max lo (min hi v))).toNat, sat := decide (v < lo ∨ hi < v) } := by
  intro lo hi
  have ordered : lo ≤ hi := by
    have half : (0 : Int) < 2 ^ (w - 1) := by positivity
    have full : (0 : Int) < 2 ^ w := by positivity
    cases signed <;> simp only [lo, hi] <;> omega
  have clamp : satInt w signed v = (max lo (min hi v), decide (v < lo ∨ hi < v)) := by
    change (if v < lo then (lo, true) else if hi < v then (hi, true) else (v, false)) = _
    rcases lt_or_ge v lo with under | above
    · rw [if_pos under, min_eq_right (by omega), max_eq_left under.le, decide_eq_true (.inl under)]
    · rw [if_neg above.not_gt]
      rcases lt_or_ge hi v with beyond | inside
      · rw [if_pos beyond, min_eq_left beyond.le, max_eq_right ordered, decide_eq_true (.inr beyond)]
      · rw [if_neg inside.not_gt, min_eq_right inside, max_eq_right above, decide_eq_false (by omega)]
  simp only [Elem.clamped, clamp, intBits, BitVec.toNat_ofInt]
  push_cast
  rfl

theorem wrapped_toInt {w : Nat} (x : BitVec w) : Elem.wrapped w x.toInt = { bits := x.toNat } := by
  rw [wrapped_eq_ofInt, BitVec.ofInt_toInt]

theorem bits_ofNat {w n : Nat} (h : n < 2 ^ w) : ({ bits := n } : Elem) = { bits := (BitVec.ofNat w n).toNat } := by
  rw [BitVec.toNat_ofNat, Nat.mod_eq_of_lt h]

theorem min_toInt {w : Nat} (x y : BitVec w) : min x.toInt y.toInt = (if x.sle y then x else y).toInt := by
  simp only [BitVec.sle_iff_toInt_le, apply_ite BitVec.toInt, min_def]

theorem max_toInt {w : Nat} (x y : BitVec w) : max x.toInt y.toInt = (if x.sle y then y else x).toInt := by
  simp only [BitVec.sle_iff_toInt_le, apply_ite BitVec.toInt, max_def]

theorem min_toNat {w : Nat} (x y : BitVec w) : min x.toNat y.toNat = (if x ≤ y then x else y).toNat := by
  simp only [BitVec.le_def, apply_ite BitVec.toNat, min_def]

theorem max_toNat {w : Nat} (x y : BitVec w) : max x.toNat y.toNat = (if x ≤ y then y else x).toNat := by
  simp only [BitVec.le_def, apply_ite BitVec.toNat, max_def]

/-- The absolute value of a lane; that of the most negative one is its own pattern (R215). -/
theorem ofInt_natAbs_toInt {w : Nat} (x : BitVec w) : BitVec.ofInt w x.toInt.natAbs = if x.msb then -x else x := by
  have sign := BitVec.msb_eq_toInt (x := x)
  split
  case isTrue neg =>
    rw [neg, eq_comm, decide_eq_true_eq] at sign
    rw [Int.ofNat_natAbs_of_nonpos sign.le, BitVec.ofInt_neg, BitVec.ofInt_toInt]
  case isFalse nonneg =>
    rw [Int.natAbs_of_nonneg (by simp_all), BitVec.ofInt_toInt]

/-- A lane of VIOP, on bit patterns (R215). -/
def viopWord {w : Nat} (op : Nat) (p q : BitVec w) : Elem :=
  let clamp (lo hi v : Int) : Elem := { bits := (BitVec.ofInt w (max lo (min hi v))).toNat, sat := decide (v < lo ∨ hi < v) }
  let plain (v : BitVec w) : Elem := { bits := v.toNat }
  let top : Int := 2 ^ (w - 1)
  match op with
  | 0 => plain (p + q)
  | 1 => plain (p - q)
  | 2 => plain (p * q)
  | 3 => plain (BitVec.ofInt w (p.toInt * q.toInt / 2 ^ w))
  | 4 => plain (BitVec.ofNat w (p.toNat * q.toNat / 2 ^ w))
  | 5 => plain (if p.sle q then p else q)
  | 6 => plain (if p.sle q then q else p)
  | 7 => plain (if p ≤ q then p else q)
  | 8 => plain (if p ≤ q then q else p)
  | 9 => clamp (-top) (top - 1) (p.toInt + q.toInt)
  | 10 => clamp (-top) (top - 1) (p.toInt - q.toInt)
  | 11 => clamp 0 (2 * top - 1) (p.toNat + q.toNat)
  | 12 => clamp 0 (2 * top - 1) ((p.toNat : Int) - q.toNat)
  | 13 => plain (if p.msb then -p else p)
  | _ => plain (BitVec.ofNat w ((p.toNat + q.toNat + 1) / 2))

theorem viopLane_toNat {w : Nat} (op : Nat) (p q : BitVec w) (hw : 0 < w) : viopLane op w p.toNat q.toNat = viopWord op p q := by
  have double : (2 : Int) * 2 ^ (w - 1) = 2 ^ w := by rw [← pow_succ', Nat.sub_add_cancel hw]
  have signed (x : BitVec w) : signedOf w x.toNat = x.toInt := signedOf_toNat x hw
  fun_cases viopWord op p q with
  | case1 => rw [viopLane, signed, signed, wrapped_eq_ofInt, BitVec.ofInt_add, BitVec.ofInt_toInt, BitVec.ofInt_toInt]
  | case2 =>
    rw [viopLane, signed, signed, wrapped_eq_ofInt, Int.sub_eq_add_neg, BitVec.ofInt_add, BitVec.ofInt_neg, BitVec.ofInt_toInt,
      BitVec.ofInt_toInt, ← BitVec.sub_eq_add_neg]
  | case3 => rw [viopLane, signed, signed, wrapped_eq_ofInt, BitVec.ofInt_mul, BitVec.ofInt_toInt, BitVec.ofInt_toInt]
  | case4 => rw [viopLane, signed, signed, wrapped_eq_ofInt, Int.fdiv_eq_ediv_of_nonneg _ (by positivity)]
  | case5 =>
    have high : p.toNat * q.toNat / 2 ^ w < 2 ^ w :=
      Nat.div_lt_of_lt_mul (Nat.mul_lt_mul_of_lt_of_lt p.isLt q.isLt)
    exact bits_ofNat high
  | case6 => rw [viopLane, signed, signed, min_toInt, wrapped_toInt]
  | case7 => rw [viopLane, signed, signed, max_toInt, wrapped_toInt]
  | case8 => rw [viopLane, min_toNat]
  | case9 => rw [viopLane, max_toNat]
  | case10 => rw [viopLane, signed, signed, clamped_eq]; rfl
  | case11 => rw [viopLane, signed, signed, clamped_eq]; rfl
  | case12 => rw [viopLane, clamped_eq, ← double]; rfl
  | case13 => rw [viopLane, clamped_eq, ← double]; rfl
  | case14 => rw [viopLane, signed, wrapped_eq_ofInt, ofInt_natAbs_toInt]
  | case15 =>
    have mean : (p.toNat + q.toNat + 1) / 2 < 2 ^ w := by omega
    rw [viopLane, bits_ofNat mean]
    all_goals assumption

/-! ## Shuffles (R219) -/

/-- The lane that a fixed pattern puts into lane `k` of `n`, from two registers given by their lanes (R219). -/
def shufWord {w : Nat} (rule n : Nat) (x y : Nat → BitVec w) (k : Nat) : BitVec w :=
  match rule with
  | 0 => if k % 2 = 1 then y (k / 2) else x (k / 2)
  | 1 => if k % 2 = 1 then y (k / 2 + n / 2) else x (k / 2 + n / 2)
  | 2 => if k < n / 2 then x (2 * k) else y (2 * (k - n / 2))
  | 3 => if k < n / 2 then x (2 * k + 1) else y (2 * (k - n / 2) + 1)
  | 4 => x (n - 1 - k)
  | _ => x (k ^^^ 1)

/-- Of an even number of lanes, the upper half count from the middle. -/
theorem mod_half {n k : Nat} (even : n % 2 = 0) (h : k < n) : k % (n / 2) = if k < n / 2 then k else k - n / 2 := by
  split
  case isTrue low => exact Nat.mod_eq_of_lt low
  case isFalse high => rw [Nat.mod_eq_sub_mod (by omega), Nat.mod_eq_of_lt (by omega)]

theorem shufLane_word {w n k : Nat} (rule : Nat) (x y : Nat → BitVec w) (even : n % 2 = 0) (h : k < n) :
    (if (shufLane rule n k).1 then y (shufLane rule n k).2 else x (shufLane rule n k).2) = shufWord rule n x y k := by
  fun_cases shufWord rule n x y k with
  | case1 odd => simp [shufLane, odd]
  | case2 notOdd => simp [shufLane, notOdd]
  | case3 odd => simp [shufLane, odd]
  | case4 notOdd => simp [shufLane, notOdd]
  | case5 low => simp [shufLane, mod_half even h, low]
  | case6 high => simp [shufLane, mod_half even h, high, Nat.le_of_not_lt high]
  | case7 low => simp [shufLane, mod_half even h, low]
  | case8 high => simp [shufLane, mod_half even h, high, Nat.le_of_not_lt high]
  | case9 => rfl
  | case10 => simp [shufLane]

/-! ## The forms, by the width that their code gives -/

section Forms

variable {s : State} {f : F6} {a b d : R5} {o : Op2} {mk : Option MaskOp} {w : Nat}

theorem vsel_completes (width : laneBits (f.toNat / 4) = w) : CompletesBits (.vsel f a b d) s w a none fun k =>
    if (s.me.kr (BitVec.ofNat 5 (f.toNat % 4))).getLsbD k then s.me.word w b k else s.me.word w d k := by
  subst width
  refine completesBits_of_lanes (laneBits_pos _) rfl fun k _ => ?_
  simp only [s.me.lane_eq_word _ k (laneBits_pos _), apply_ite BitVec.toNat]

theorem vlogic_completes : CompletesBits (.vlogic f a b d mk) s 32 a mk fun k => BitVec.ofNat 32 (ofLanes 1 ((List.range 32).map fun e =>
    (f.toNat.testBit (2 * ((s.me.word 32 b k).getLsbD e).toNat + ((s.me.word 32 d k).getLsbD e).toNat)).toNat)) := by
  refine completesBits_of_lanes (by decide) rfl fun k hk => ?_
  rw [laneOf_toNat _ _ (by decide)]
  refine congrArg BitVec.toNat (BitVec.eq_of_getLsbD_eq fun i hi => ?_)
  rw [BitVec.getLsbD_extractLsb', getLsbD_tableBits _ _ _ _ (by omega), BitVec.getLsbD_ofNat, testBit_ofLanes_range]
  simp [hi]

/-- The amount by which lane `k` is shifted (R214). -/
def Ctx.shiftAmount (c : Ctx) (w : Nat) (o : Op2) (k : Nat) : Nat :=
  match o with
  | .reg r => (c.word w r k).toNat
  | .imm n => n.toNat

theorem vshift_completes (width : laneBits f.toNat = w) : CompletesBits (.vshift f a b o mk) s w a mk fun k =>
    shiftWord (f.toNat / 4) (s.me.word w b k) (s.me.shiftAmount w o k) := by
  subst width
  refine completesBits_of_lanes (laneBits_pos _) rfl fun k _ => ?_
  cases o <;> simp only [Ctx.shiftAmount, s.me.lane_eq_word _ k (laneBits_pos _), shiftLane_toNat _ _ _ (laneBits_pos _)]

theorem vbcast_completes (width : laneBits f.toNat = w) : CompletesBits (.vbcast f a b o mk) s w a mk fun _ =>
    if f.getLsbD 2 then (s.me.xr b).setWidth w else s.me.word w b (s.me.laneIndex w o) := by
  subst width
  refine completesBits_of_lanes (laneBits_pos _) rfl fun k _ => ?_
  rw [s.me.lane_eq_word b _ (laneBits_pos _), apply_ite BitVec.toNat, BitVec.toNat_setWidth]

theorem vext_completes (width : laneBits f.toNat = w) : Completes (.vext f a b o) s (·.setX a
    (let lane := s.me.word w b (s.me.laneIndex w o)
    if f.getLsbD 2 then lane.signExtend 64 else lane.setWidth 64)) := by
  subst width
  refine completes_of_finish rfl ?_
  simp only [s.me.lane_eq_word b _ (laneBits_pos _), sextWord_eq _ (laneBits_pos _), BitVec.ofNat_toNat, BitVec.setWidth_eq]

theorem vins_completes (width : laneBits f.toNat = w) : CompletesBits (.vins f a b o) s w a none fun k =>
    if k = s.me.laneIndex w o then (s.me.xr b).setWidth w else s.me.word w a k := by
  subst width
  refine completesBits_of_lanes (laneBits_pos _) rfl fun k _ => ?_
  rw [s.me.lane_eq_word a _ (laneBits_pos _), apply_ite BitVec.toNat, BitVec.toNat_setWidth]

theorem vperm_completes (width : laneBits f.toNat = w) : CompletesBits (.vperm f a b d mk) s w a mk fun k =>
    let t := (s.me.word w d k).toNat % (2 * (512 / w))
    if t < 512 / w then s.me.word w b t else s.me.word w a (t - 512 / w) := by
  subst width
  refine completesBits_of_lanes (laneBits_pos _) rfl fun k _ => ?_
  simp only [s.me.lane_eq_word _ _ (laneBits_pos _), apply_ite BitVec.toNat]

theorem vshuf_completes (width : laneBits f.toNat = w) : CompletesBits (.vshuf f a b d mk) s w a mk
    (shufWord (f.toNat / 4) (512 / w) (s.me.word w b) (s.me.word w d)) := by
  subst width
  have even : 512 / laneBits f.toNat % 2 = 0 := by
    rcases laneBits_cases f.toNat with h | h | h | h <;> rw [h]
  refine completesBits_of_lanes (laneBits_pos _) rfl fun k hk => ?_
  rw [← shufLane_word _ _ _ even hk, apply_ite BitVec.toNat, s.me.lane_eq_word _ _ (laneBits_pos _)]
  split <;> rfl

theorem vli_completes {i : BitVec 32} (width : laneBits f.toNat = w) (short : f.toNat ≠ 4) :
    CompletesBits (.vli f a i mk) s w a mk fun _ => (i.signExtend 64).setWidth w := by
  subst width
  refine completesLanes_of_writeLanes (laneBits_pos _) rfl ?_
  simp only [if_neg short, BitVec.toNat_setWidth, sext32]

/-- The fifth form puts its immediate above 16 zeros, as the upper half of an FP32 pattern (R220). -/
theorem vli_upper {i : BitVec 32} : CompletesBits (.vli 4 a i mk) s 32 a mk fun _ => (i.setWidth 16) ++ 0#16 := by
  refine completesLanes_of_writeLanes (by decide) rfl ?_
  have upper : i.toNat % 65536 * 65536 = (i.setWidth 16 ++ 0#16).toNat := by
    rw [BitVec.toNat_append, BitVec.toNat_setWidth, BitVec.toNat_ofNat, Nat.zero_mod, Nat.or_zero, Nat.shiftLeft_eq]
  rw [if_pos (by rfl), upper]

theorem viop_completes (width : laneBits f.toNat = w) : CompletesLanes (.viop f a b d mk) s w a mk 0 0 fun k =>
    viopWord (f.toNat / 4) (s.me.word w b k) (s.me.word w d k) := by
  subst width
  refine completesLanes_of_lanes (m := fun _ => 0) (laneBits_pos _) rfl fun k _ => ?_
  simp only [s.me.lane_eq_word _ k (laneBits_pos _), viopLane_toNat _ _ _ (laneBits_pos _)]

end Forms

/-- The lane moves and bit operations, each by its form. -/
theorem vectorLaneMoves : Claims.VectorLaneMoves := by
  intro s f a b d i o mk c wide w n l j
  have width (code : Nat) : laneBits code = wide code := laneBits_eq_getD code
  exact ⟨fun _ => vsel_completes (width _), fun _ => vlogic_completes, fun _ => vshift_completes (width _), fun _ => vbcast_completes (width _),
    fun _ => vext_completes (width _), fun _ => vins_completes (width _), fun _ => vperm_completes (width _),
    fun _ => vshuf_completes (width _), fun code => vli_completes (width _) (by omega), vli_upper⟩

/-- VIOP, row by row. -/
theorem vectorIntegerOps : Claims.VectorIntegerOps := by
  intro s f a b d mk row c w x y clamp plain top
  exact viop_completes (laneBits_eq_getD _)

/-- Settles O20: every form writes its lanes by `completesBits_of_lanes`, and the operation on a lane's number is the one on its bit pattern. -/
theorem laneMovesAndInteger : Obligations.LaneMovesAndInteger := ⟨vectorLaneMoves, vectorIntegerOps⟩

end Sys2Proof.Machine
end

section
/-! PROOFS. Vector comparison and mask instructions (O21): the mask that VCMP writes, bit by bit (R211), truth tables over masks (R223), and the
count and the lowest index of KMOV (R224). -/

namespace Sys2Proof.Machine

/-! ## Masks from their bits -/

theorem getLsbD_maskOf (n : Nat) (f : Nat → Bool) (k : Nat) (h : k < 128) : (maskOf n f).getLsbD k = (decide (k < n) && f k) := by
  rw [maskOf, BitVec.getLsbD_ofNat, testBit_ofLanes_range, decide_eq_true h, Bool.true_and]

/-! ## Conditions (R211) -/

theorem fcond_eq_getD (cond : Nat) (x y : FV) (h : cond < 8) :
    let un := x.isNan || y.isNan
    fcond cond x y = [!un && x.eq y, un || !x.eq y, !un && x.lt y, !un && !y.lt x, !un && y.lt x, !un && !x.lt y, un, !un].getD cond false := by
  interval_cases cond <;> rfl

theorem icond_toNat {w : Nat} (cond : Nat) (x y : BitVec w) (hw : 0 < w) (h : cond < 8) : icond cond w x.toNat y.toNat =
    [x == y, x != y, x.slt y, x.sle y, y.slt x, y.sle x, x.ult y, y.ule x].getD cond false := by
  have signed (v : BitVec w) : signedOf w v.toNat = v.toInt := signedOf_toNat v hw
  have same : (x.toInt == y.toInt) = (x == y) := by rw [Bool.eq_iff_iff, beq_iff_eq, beq_iff_eq, BitVec.toInt_inj]
  interval_cases cond <;> simp only [icond, icond.cmpLane, signed, bne, same] <;> rfl

theorem vcmpWidth_eq_getD {type : Nat} (h : type < 7) : vcmpWidth type = [32, 16, 16, 32, 16, 8, 64].getD type 0 := by
  interval_cases type <;> rfl

theorem vcmpWidth_pos (type : Nat) : 0 < vcmpWidth type := by
  unfold vcmpWidth
  split
  · exact vfmt_w_pos type
  · exact laneBits_pos _

/-- VCMP by the bits of the mask that it writes. -/
theorem vectorCompare : Claims.VectorCompare := by
  intro s f a b d mk types c t w fm p q x y un fp int
  have width : vcmpWidth t = w := vcmpWidth_eq_getD types
  have pos : 0 < w := width ▸ vcmpWidth_pos t
  have cond : f.toNat / 8 < 8 := by omega
  refine ⟨_, completes_of_finish rfl rfl, fun k hk => ?_⟩
  have float (code : t < 3) : fcond (f.toNat / 8) ((vfmt t).decode (c.lane w b k)) ((vfmt t).decode (c.lane w d k)) = fp k := by
    have format : vfmt t = fm := by rw [vfmt_eq_getD (by omega), Nat.mod_eq_of_lt (by omega)]
    rw [format, c.lane_eq_word b k pos, c.lane_eq_word d k pos]
    exact fcond_eq_getD _ _ _ cond
  have integer : icond (f.toNat / 8) w (c.lane w b k) (c.lane w d k) = int k := by
    rw [c.lane_eq_word b k pos, c.lane_eq_word d k pos]
    exact icond_toNat _ _ _ pos cond
  have zeros : zeroing mk = mk.any MaskOp.zero := by cases mk <;> rfl
  have compared : (if t < 3 then fcond (f.toNat / 8) ((vfmt t).decode (c.lane w b k)) ((vfmt t).decode (c.lane w d k))
      else icond (f.toNat / 8) w (c.lane w b k) (c.lane w d k)) = if t < 3 then fp k else int k := by
    split
    case isTrue code => exact float code
    case isFalse => exact integer
  rw [getLsbD_maskOf _ _ _ hk, ← zeros, ← compared, ← width]

/-! ## The bits of a number in order (R224) -/

theorem filter_testBit_range_succ (n v : Nat) : (List.range (n + 1)).filter v.testBit =
    (if v % 2 = 1 then [0] else []) ++ ((List.range n).filter (v / 2).testBit).map Nat.succ := by
  have above : v.testBit ∘ Nat.succ = (v / 2).testBit := funext fun i => Nat.testBit_succ v i
  rw [List.range_succ_eq_map, List.filter_cons, List.filter_map, above]
  simp only [Nat.testBit_zero, decide_eq_true_eq]
  split <;> rfl

theorem popCount_eq_length (n v : Nat) : popCount n v = ((List.range n).filter v.testBit).length := by
  induction n generalizing v with
  | zero => rfl
  | succ n ih =>
    rw [filter_testBit_range_succ, popCount, ih, List.length_append, List.length_map]
    split <;> simp <;> omega

theorem lowestOne_eq_headD (n v : Nat) : lowestOne n v = ((List.range n).filter v.testBit).headD n := by
  induction n generalizing v with
  | zero => rfl
  | succ n ih =>
    rw [filter_testBit_range_succ, lowestOne, ih]
    split
    · rfl
    · cases (List.range n).filter (v / 2).testBit <;> simp [Nat.add_comm]

/-- KLOG bit by bit, and each form of KMOV by its ending. -/
theorem maskInstructions : Claims.MaskInstructions := by
  intro s f a b d c m ones
  have low (v : Mask) : v.extractLsb' 0 64 = v.setWidth 64 := (BitVec.setWidth_eq_extractLsb' (by decide)).symm
  have high (v : Mask) : v.extractLsb' 64 64 = (v >>> 64).setWidth 64 := by
    refine BitVec.eq_of_getLsbD_eq fun i hi => ?_
    simp [hi]
  exact ⟨fun _ => ⟨tableBits f.toNat m (c.kr d), completes_finish rfl, fun i hi => getLsbD_tableBits _ _ _ i hi⟩,
    completes_finish rfl,
    completes_of_finish rfl (congrArg (c.setX a) (low m)),
    completes_of_finish rfl (congrArg (c.setX a) (high m)),
    completes_of_finish rfl (congrArg (fun v => c.setK a (v ++ c.xr b)) (high (c.kr a))),
    completes_of_finish rfl (congrArg (fun v => c.setK a (c.xr b ++ v)) (low (c.kr a))),
    completes_of_finish rfl (congrArg (fun n => c.setX a (BitVec.ofNat 64 n)) (popCount_eq_length 128 m.toNat)),
    completes_of_finish rfl (congrArg (fun n => c.setX a (BitVec.ofNat 64 n)) (lowestOne_eq_headD 128 m.toNat))⟩

/-- Settles O21: VCMP by `getLsbD_maskOf` and its conditions, KLOG by `getLsbD_tableBits`, KMOV by the ones of a mask in order. -/
theorem compareAndMasks : Obligations.CompareAndMasks := ⟨vectorCompare, maskInstructions⟩

end Sys2Proof.Machine
end

section
/-! PROOFS. Teller operations (O34): what a start, a step, a segment and a fault of an operation do (R235, R306, R307, R313 to R317), each said of the
operation's place in the in-flight set, its key and the units it has left. -/

namespace Sys2Proof.Machine

set_option Elab.async false

/-! ## Start (R306, R314) -/

/-- The operation served next takes a place, and its first step is made. -/
theorem exec_tellerOpStart_serves {s : State} {cell q : Nat} {o : TelOp} {r : List TelOp}
    (room : (s.cell cell).flight.length < Config.tellerInFlight) (served : (s.cell cell).nextFifo cell = some q)
    (oldest : (s.cell cell).fifos.get q [] = o :: r) :
    exec (.tellerOpStart cell) s =
      let p : TelOp := { o with
        started := true, left := o.units, tile := if trOp (o.q.getD 0 0).toNat = 1 then List.replicate (o.rows * o.rlen) 0 else [] }
      let k := s.cell cell
      .next (((s.setCell cell { k with fifos := k.fifos.set q r, flight := k.flight ++ [p], turn := (q + 1) % 8 }).post (.tellerOpStart cell)).telBegin
        cell p) := by
  simp [exec, execTellerOpStart, Nat.not_le.2 room, served, oldest]

theorem State.telBegin_plain (s : State) (cell : Nat) {o : TelOp} (plain : o.key = none) :
    s.telBegin cell o = s.post (if trOp (o.q.getD 0 0).toNat = 3 then .redaddSegment cell o.id else .tellerOpCompletion cell o.id) := by
  rw [State.telBegin, plain]
  split <;> simp_all

theorem State.telBegin_tover (s : State) (cell : Nat) {o : TelOp} {y : KeyReq} (tover : trOp (o.q.getD 0 0).toNat = 1) (keyed : o.key = some y)
    (here : y.desc.remote = false) : s.telBegin cell o = s.post (.mintReserve y) := by
  rw [State.telBegin, tover, keyed]
  exact if_neg (Bool.eq_false_iff.1 here)

theorem State.telBegin_fromv (s : State) (cell : Nat) {o : TelOp} {y : KeyReq} (fromv : trOp (o.q.getD 0 0).toNat = 2) (keyed : o.key = some y) :
    s.telBegin cell o = s.post (.mintReference y) := by
  simp only [State.telBegin, fromv, keyed]

/-! ## An operation in flight goes on (R314, R317) -/

section Running

variable {s : State} {cell id : Nat} {o : TelOp} {y : KeyReq}

theorem exec_tellerOpCompletion_asked (found : (s.cell cell).op id = some o) (runs : o.stopped = 0) (unfinished : o.finish = none)
    (keyed : o.key = some y) (asked : o.ready = false) :
    exec (.tellerOpCompletion cell id) s =
      .next ((s.modOp cell id fun o => { o with ready := true }).post (.tellerOpCompletion cell id)) := by
  simp [exec, execTellerOpCompletion, found, runs, unfinished, keyed, asked]

theorem exec_tellerOpCompletion_takes (found : (s.cell cell).op id = some o) (runs : o.stopped = 0) (unfinished : o.finish = none)
    (keyed : o.key = some y) (ready : o.ready) (fromv : trOp (o.q.getD 0 0).toNat = 2) (empty : o.tile = []) :
    exec (.tellerOpCompletion cell id) s = .next (s.telTake cell o y) := by
  simp only [exec, execTellerOpCompletion, found, runs, unfinished, keyed, ready, fromv, empty]
  rfl

/-- Whether an operation in flight has all that moving a unit asks for: the key's answer and, for a FROMV, the version's bytes. A REDADD moves whole
segments. -/
def TelOp.moves (o : TelOp) : Prop :=
  (o.key = none ∧ (trOp (o.q.getD 0 0).toNat = 3 → o.left = [])) ∨
    (∃ y, o.key = some y ∧ o.ready ∧ (trOp (o.q.getD 0 0).toNat = 2 → o.tile ≠ []))

theorem exec_tellerOpCompletion_unit (found : (s.cell cell).op id = some o) (runs : o.stopped = 0) (unfinished : o.finish = none)
    (moves : o.moves) : exec (.tellerOpCompletion cell id) s = execTellerOpCompletion.unit cell s o := by
  obtain ⟨plain, whole⟩ | ⟨y, keyed, ready, taken⟩ := moves
  · have stays : ¬(trOp (o.q.getD 0 0).toNat = 3 ∧ o.left ≠ []) := fun h => h.2 (whole h.1)
    simpa only [exec, execTellerOpCompletion, found, runs, unfinished, plain, ne_eq, not_true, if_false, Bool.not_eq_true', List.isEmpty_eq_false_iff]
      using if_neg stays
  · have stays : ¬(trOp (o.q.getD 0 0).toNat = 2 ∧ o.tile = []) := fun h => taken h.1 h.2
    simpa only [exec, execTellerOpCompletion, found, runs, unfinished, keyed, ready, ne_eq, not_true, if_false, Bool.not_true, Bool.false_eq_true,
      List.isEmpty_iff] using if_neg stays

/-- With a unit left the operation goes on with one that a free value names. -/
theorem exec_tellerOpCompletion_steps (found : (s.cell cell).op id = some o) (runs : o.stopped = 0) (unfinished : o.finish = none)
    (moves : o.moves) (left : o.left ≠ []) :
    exec (.tellerOpCompletion cell id) s =
      .next (s.draw.2.telStep cell o (o.left.getD ((Config.freeWord s.draws).toNat % o.left.length) 0)) := by
  rw [exec_tellerOpCompletion_unit found runs unfinished moves, execTellerOpCompletion.unit]
  split
  next nothing => exact absurd nothing left
  next => rfl

theorem exec_tellerOpCompletion_ends (found : (s.cell cell).op id = some o) (runs : o.stopped = 0) (unfinished : o.finish = none)
    (moves : o.moves) (moved : o.left = []) : exec (.tellerOpCompletion cell id) s = .next (s.telEnd cell o) := by
  rw [exec_tellerOpCompletion_unit found runs unfinished moves, execTellerOpCompletion.unit, moved]

end Running

/-! ## A version's bytes (R236, R314) -/

section Taking

variable {s : State} {y : KeyReq} {e : MintEntry}

theorem State.telTake_present (cell : Nat) (o : TelOp) (here : y.desc.remote = false) (held : s.entry y.key y.home = some e) (st : e.st = .present) :
    s.telTake cell o y = (s.modOp cell o.id fun o => { o with tile := e.data }).post (.tellerOpCompletion cell o.id) := by
  simp [State.telTake, here, held, st]

theorem State.telTake_dead (cell : Nat) (o : TelOp) (here : y.desc.remote = false) (held : s.entry y.key y.home = some e) (st : e.st = .dead) :
    s.telTake cell o y = s.post (.tellerFault cell o.id (trapVersionDead + 256 * 4) (keyPacked y.key)) := by
  simp [State.telTake, here, held, st]

theorem State.telTake_waits {t : State} {cell : Nat} {o : TelOp} (here : y.desc.remote = false) (held : s.entry y.key y.home = some e)
    (st : e.st = .pending ∨ e.st = .creating) (waits : s.addWaiter y (.teller cell o.id) = some t) : s.telTake cell o y = t := by
  rcases st with st | st <;> simp [State.telTake, here, held, st, waits]

end Taking

/-! ## A unit (R14, R314, R430) -/

section Unit

variable {s t : State} {cell n : Nat} {o x : TelOp} {e : TelStop} {bs : List (Byte × Bool)}

theorem State.telStep_late (late : s.telLate o n) : s.telStep cell o n = s.at (s.pcyc + 1) (.tellerOpCompletion cell o.id) := by
  simp [State.telStep, late]

/-- The rest of a unit is read and it is written, where its source is no memory or the free value says so. -/
theorem State.telStep_moves (early : s.telLate o n = false) (whole : o.reads = false ∨ s.draw.1.getLsbD 0 = false) :
    s.telStep cell o n = s.draw.2.telMove cell o n := by
  have moves : ¬(o.reads ∧ s.draw.1.getLsbD 0) := by
    rintro ⟨reads, ahead⟩
    rcases whole with h | h
    · exact Bool.false_ne_true (h.symm.trans reads)
    · exact Bool.false_ne_true (h.symm.trans ahead)
  simp only [State.telStep, early, Bool.false_eq_true, if_false, Bool.and_eq_true]
  exact if_neg moves

theorem State.telMove_stops (stops : s.telUnit cell o n = .error e) : s.telMove cell o n = s.telStopped cell o n e := by
  rw [State.telMove, stops]

theorem State.telMove_moves (moves : s.telUnit cell o n = .ok t) : s.telMove cell o n = t.post (.tellerOpCompletion cell o.id) := by
  rw [State.telMove, moves]

theorem State.telStep_readStops (early : s.telLate o n = false) (reads : o.reads) (ahead : s.draw.1.getLsbD 0)
    (stops : s.draw.2.telRun cell o ((o.sourceOf n).1 + s.draw.1.toNat / 2 % (o.sourceOf n).2) 1 = .error e) :
    s.telStep cell o n = s.draw.2.telStopped cell o n e := by
  simp [State.telStep, early, reads, ahead, stops]

/-- A source word that the operation did not hold yet is read ahead of the others. -/
theorem State.telStep_readsAhead (early : s.telLate o n = false) (reads : o.reads) (ahead : s.draw.1.getLsbD 0)
    (read : s.draw.2.telRun cell o ((o.sourceOf n).1 + s.draw.1.toNat / 2 % (o.sourceOf n).2) 1 = .ok (bs, t))
    (kept : (t.cell cell).op o.id = some x) (new : x.part.length ≠ o.part.length) :
    s.telStep cell o n = t.post (.tellerOpCompletion cell o.id) := by
  simp [State.telStep, early, reads, ahead, read, kept, new]

end Unit

/-! ## The end (R314, R317) -/

section End

variable {s : State} {cell : Nat} {o : TelOp} {y : KeyReq}

/-- An operation with every unit moved is to finish. -/
def State.telEnds (s : State) (cell : Nat) (o : TelOp) : State :=
  (s.modOp cell o.id fun o => { o with finish := some 0 }).post (.tellerOpCompletion cell o.id)

theorem State.telEnd_plain (plain : o.key = none) (written : s.writesInFlight o.src = false) : s.telEnd cell o = s.telEnds cell o := by
  rw [State.telEnd, plain]
  generalize trOp (o.q.getD 0 0).toNat = op
  split
  next keyed => cases keyed
  next =>
    rw [written, if_neg Bool.false_ne_true]
    split
    next keyed _ => cases keyed
    next => rfl

theorem State.telEnd_tover (tover : trOp (o.q.getD 0 0).toNat = 1) (keyed : o.key = some y) (here : y.desc.remote = false) :
    s.telEnd cell o = (s.create y.key y.home (creators y) o.tile).telEnds cell o := by
  rw [State.telEnd, tover, keyed]
  exact if_neg (Bool.eq_false_iff.1 here)

theorem State.telEnd_fromv (fromv : trOp (o.q.getD 0 0).toNat = 2) (keyed : o.key = some y) (here : y.desc.remote = false)
    (written : s.writesInFlight o.src = false) : s.telEnd cell o = (s.post (.pinRelease y.key y.home)).telEnds cell o := by
  rw [State.telEnd, fromv, keyed]
  simp only [written, State.unpinOp, here, Bool.false_eq_true, if_false]
  rfl

/-- The steps of R317: once the writes are performed the outcome is told, and the operation leaves. -/
theorem exec_tellerOpCompletion_leaves {id st : Nat} (found : (s.cell cell).op id = some o) (runs : o.stopped = 0) (finished : o.finish = some st)
    (written : o.posted ∨ s.writesInFlight o.src = false) :
    exec (.tellerOpCompletion cell id) s =
      .next ((if o.posted then s else (s.telFinish o st).modOp cell id fun o => { o with posted := true }).telLeave cell o) := by
  by_cases posted : o.posted
  · simp [exec, execTellerOpCompletion, found, runs, finished, posted]
  · simp [exec, execTellerOpCompletion, found, runs, finished, posted, written.resolve_left posted]

theorem exec_tellerOpCompletion_awaitsWrites {id st : Nat} (found : (s.cell cell).op id = some o) (runs : o.stopped = 0)
    (finished : o.finish = some st) (untold : o.posted = false) (writes : s.writesInFlight o.src) :
    exec (.tellerOpCompletion cell id) s = .next (s.at (s.pcyc + 1) (.tellerOpCompletion cell id)) := by
  simp [exec, execTellerOpCompletion, found, runs, finished, untold, writes]

end End

/-! ## A segment and a fault (R315, R316) -/

/-- A segment of good bytes whose targets are all placed is applied once. -/
theorem exec_redaddSegment_applies {s u v : State} {cell id n : Nat} {o : TelOp} {ns ps : List Nat} {bs : List (Byte × Bool)}
    (found : (s.cell cell).op id = some o) (runs : o.stopped = 0) (unfinished : o.finish = none) (left : o.left = n :: ns) (new : n ∉ o.applied)
    (read : s.telRun cell o (65536 * n) (min 65536 (o.rows * o.rlen - 65536 * n)) = .ok (bs, u)) (good : ∀ x ∈ bs, x.2 = false)
    (placed : u.telTargets o (trSize (o.q.getD 0 0).toNat) ((List.range (min 65536 (o.rows * o.rlen - 65536 * n) /
      trSize (o.q.getD 0 0).toNat)).map fun i => 65536 * n + trSize (o.q.getD 0 0).toNat * i) = .ok (ps, v)) :
    exec (.redaddSegment cell id) s =
      let z := trSize (o.q.getD 0 0).toNat
      let len := min 65536 (o.rows * o.rlen - 65536 * n)
      let vs := (List.range (len / z)).map fun i => valueOf (((bs.drop (z * i)).take z).map Prod.fst)
      let w := (ps.zip vs).foldl (fun s e => s.telApply o.src.core (trFmt (o.q.getD 0 0).toNat) e.1 e.2) v
      .next ((w.modOp cell id fun o => { o with
        left := ns, bytes := o.bytes + len, applied := if o.applied.contains n then o.applied else o.applied ++ [n] }).post (.redaddSegment cell id)) := by
  have unmarked : bs.findIdx? Prod.snd = none := List.findIdx?_eq_none_iff.2 good
  have first : o.applied.contains n = false := by simpa using new
  simp only [exec, execRedaddSegment, found, runs, unfinished, left, read, unmarked, placed, first]
  rfl

theorem exec_redaddSegment_done {s : State} {cell id : Nat} {o : TelOp} (found : (s.cell cell).op id = some o) (runs : o.stopped = 0)
    (unfinished : o.finish = none) (moved : o.left = []) : exec (.redaddSegment cell id) s = .next (s.post (.tellerOpCompletion cell id)) := by
  simp [exec, execRedaddSegment, found, runs, unfinished, moved]

theorem exec_tellerFault_idle {s : State} {cell id code : Nat} (addr : Word) {o : TelOp} (found : (s.cell cell).op id = some o)
    (stall : code % 256 = trapQuotaStall) (idle : s.telStalls cell o = false) : exec (.tellerFault cell id code addr) s = .next s := by
  simp [exec, execTellerFault, found, stall, idle]

/-- A fault stops the operation, takes its stalled request back and tells the domain. -/
theorem exec_tellerFault_stops {s : State} {cell id code : Nat} (addr : Word) {o : TelOp} (found : (s.cell cell).op id = some o)
    (runs : o.stopped = 0) (unfinished : o.finish = none) (holds : code % 256 ≠ trapQuotaStall ∨ s.telStalls cell o) :
    exec (.tellerFault cell id code addr) s =
      let u := State.modOp { s with stalled := s.stalled.filter fun e => !stalledFor cell id e } cell id fun o =>
        { o with stopped := if replayable code then 1 else 2 }
      .next (u.deliver ⟨o.rcb, o.rcbAsid, trapTellerFault + 256 * (code % 2 ^ 24), o.src.pc, (u.ctx o.src.tid).thid, addr, o.q, o.bytes, o.rcb, false,
        false, false, some (cell, id)⟩) := by
  have goes : ¬(code % 256 = trapQuotaStall ∧ s.telStalls cell o = false) := by
    rcases holds with h | h <;> simp [h]
  simp [exec, execTellerFault, found, runs, unfinished, goes]

theorem trFmt_eq (n : Nat) : trFmt n = n / 4096 % 16 := by
  rw [trFmt, bitsOf, Nat.shiftRight_eq_div_pow]
  rfl

/-- Settles O34: start, step, end, segment and fault of an operation, clause by clause. -/
theorem tellerOperations : Obligations.TellerOperations := by
  intro s u v cell id q o r code addr bs ps y
  dsimp only
  refine ⟨fun full => ?_, fun room served oldest => ?_, fun none => ?_, fun found own runs unfinished => ?_, fun found own runs st finished => ?_⟩
  · simp [exec, execTellerOpStart, full]
  · have starts := exec_tellerOpStart_serves room served oldest
    exact ⟨fun plain => starts.trans (congrArg _ (State.telBegin_plain _ _ plain)),
      fun tover keyed here => starts.trans (congrArg _ (State.telBegin_tover _ _ tover keyed here)),
      fun fromv keyed => starts.trans (congrArg _ (State.telBegin_fromv _ _ fromv keyed))⟩
  · simp [exec, execTellerOpCompletion, execRedaddSegment, execTellerFault, none]
  · subst own
    refine ⟨exec_tellerOpCompletion_asked found runs unfinished, fun e keyed ready fromv empty here held => ?_, fun left asked => ?_,
      fun plain moved written => ?_, fun keyed ready here moved => ?_, fun n ns red left new => ?_, exec_tellerFault_idle addr found,
      exec_tellerFault_stops addr found runs unfinished⟩
    · have takes := exec_tellerOpCompletion_takes found runs unfinished keyed ready fromv empty
      exact ⟨fun st => takes.trans (congrArg _ (State.telTake_present _ _ here held st)),
        fun st => takes.trans (congrArg _ (State.telTake_dead _ _ here held st)),
        fun st t waits => takes.trans (congrArg _ (State.telTake_waits here held st waits))⟩
    · have moves : o.moves := asked.imp (fun h => ⟨h.1, fun red => absurd red h.2⟩) fun h => ⟨y, h⟩
      have steps := exec_tellerOpCompletion_steps found runs unfinished moves left
      refine ⟨fun late => steps.trans (congrArg _ (State.telStep_late late)), fun early whole => ?_, fun early reads ahead => ?_⟩
      · have unit := steps.trans (congrArg _ (State.telStep_moves early whole))
        exact ⟨fun x stops => unit.trans (congrArg _ (State.telMove_stops stops)), fun goes => unit.trans (congrArg _ (State.telMove_moves goes))⟩
      · exact ⟨fun x stops => steps.trans (congrArg _ (State.telStep_readStops early reads ahead stops)),
          fun x read kept more => steps.trans (congrArg _ (State.telStep_readsAhead early reads ahead read kept more))⟩
    · exact ⟨(exec_tellerOpCompletion_ends found runs unfinished (.inl ⟨plain, fun _ => moved⟩) moved).trans
        (congrArg _ (State.telEnd_plain plain written)), exec_redaddSegment_done found runs unfinished moved⟩
    · refine ⟨fun tover => ?_, fun fromv full written => ?_⟩
      · have moves : o.moves := .inr ⟨y, keyed, ready, fun h => absurd (tover.symm.trans h) (by decide)⟩
        exact (exec_tellerOpCompletion_ends found runs unfinished moves moved).trans (congrArg _ (State.telEnd_tover tover keyed here))
      · exact (exec_tellerOpCompletion_ends found runs unfinished (.inr ⟨y, keyed, ready, fun _ => full⟩) moved).trans
          (congrArg _ (State.telEnd_fromv fromv keyed here written))
    · rw [← trFmt_eq]
      exact exec_redaddSegment_applies found runs unfinished left new
  · exact ⟨exec_tellerOpCompletion_awaitsWrites found runs finished, exec_tellerOpCompletion_leaves found runs finished⟩

end Sys2Proof.Machine
end

section
/-! PROOFS. Forcing (O29): how the forms of TFORCE and THCLR end, one step of a force and its completion, and the elements of a rectangle
(R242, R252, R255 to R263, R270, R277, R278, R304). -/

namespace Sys2Proof.Machine

set_option Elab.async false

/-! ## The words of Safety, from what an instruction's meaning does -/

section Words

variable {s : State} {f : Force} {g : List Nat}

/-- An instruction that demands a rectangle, with no force of its own yet, begins one. -/
theorem State.withForce_begins (idle : s.me.force = none) (stage handle : Nat) (root : Base) (q : Rect) (undo : State → State)
    (k : State → List Nat → State) : s.withForce stage handle root q undo k =
      ((s.setMe { s.me with force := some (s.me.newForce handle root q) }).parkStage stage).post (.forceNodeStep s.cur) := by
  rw [State.withForce, idle]
  rfl

/-- Once its force has ended without a fault, it goes on with the elements. -/
theorem State.withForce_forced (forced : Forced s g) (stage handle : Nat) (root : Base) (q : Rect) (undo : State → State)
    (k : State → List Nat → State) : s.withForce stage handle root q undo k = k s g := by
  obtain ⟨f, own, ended, good, rfl⟩ := forced
  simp only [State.withForce, own, ended, good]
  rfl

/-- A force that ended in a fault is reported. -/
theorem State.withForce_faulted {x : Word × Nat × Word} (own : s.me.force = some f) (ended : f.done) (bad : f.fault = some x)
    (stage handle : Nat) (root : Base) (q : Rect) (undo : State → State) (k : State → List Nat → State) :
    s.withForce stage handle root q undo k = (undo s).thunkFault f x := by
  simp only [State.withForce, own, ended, bad]
  rfl

end Words

/-! ## TFORCE (R257, R262, R263, R277) -/

/-- The rectangle of a shape that TFORCE's operands name: rows in the one, columns in the other (R277). -/
def Ctx.forceRect (c : Ctx) (b x : R5) (sh : Shape) : Option Rect :=
  clipRect ((c.xr b).extractLsb' 0 16).toNat ((c.xr b).extractLsb' 16 16).toNat ((c.xr x).extractLsb' 0 16).toNat
    ((c.xr x).extractLsb' 16 16).toNat sh.rows sh.cols

section Tforce

variable {s : State} {a b x : R5} {base : Base} {sh : Shape} (names : s.me.target? a = some (base, sh))
include names

theorem exec_tforce_outside (outside : s.me.forceRect b x sh = none) : exec (.tforce a b x) s = .next s.done := by
  simp only [exec, execTforce, names, bitsOf_eq_extract _ 15 0 16, bitsOf_eq_extract _ 31 16 16]
  rw [← Ctx.forceRect, outside]

theorem exec_tforce_inside {q : Rect} (inside : s.me.forceRect b x sh = some q) :
    exec (.tforce a b x) s = .next (s.withForce 1 a.toNat base q id fun s _ => s.done) := by
  simp only [exec, execTforce, names, bitsOf_eq_extract _ 15 0 16, bitsOf_eq_extract _ 31 16 16]
  rw [← Ctx.forceRect, inside]

end Tforce

theorem Ctx.target?_empty {c : Ctx} {h : R5} (empty : c.handle h = .empty) : c.target? h = none := by
  rw [Ctx.target?, empty]

theorem Ctx.prune_handles (fuel : Nat) (c : Ctx) : (Ctx.prune fuel c).handles = c.handles := by
  induction fuel generalizing c with
  | zero => rfl
  | succ fuel ih => exact ih _

/-- A handle that is bound names what it is bound to. -/
theorem State.bindHandle_handle (s : State) (tid : Nat) (h : R5) (x : Handle) : ((s.bindHandle tid h x).ctx tid).handle h = x := by
  rw [State.bindHandle, State.ctx_congr (s.rebind_threads tid _), State.ctx_setCtx, Ctx.handle, Ctx.prune_handles]
  have inside : h.toNat < 32 := h.isLt
  simp [Ctx.setHandle, inside]

/-- TFORCE, TFORCE.M, TFORCE.Q and the forms of THCLR. -/
theorem forcing : Claims.Forcing := by
  intro s a b x base sh
  dsimp only
  refine ⟨fun empty => ⟨?_, ?_⟩, fun names => ?_, fun v version => ?_, fun k n node held => ?_, completes_finish rfl, fun empty => ?_, rfl, rfl,
    s.bindHandle_handle s.cur a .empty⟩
  · simp only [Traps, exec, execTforce, Ctx.target?_empty empty]
    rfl
  · simp only [Traps, exec, execTforceM, empty]
    rfl
  · refine ⟨fun outside => completesFrom_done (exec_tforce_outside names outside), fun q inside idle => ?_, fun q g inside forced => ?_,
      fun q f pc cause ad inside own ended bad => ?_⟩
    all_goals have forces := exec_tforce_inside names inside
    · exact forces.trans (congrArg _ (State.withForce_begins idle ..))
    · exact completesFrom_done (forces.trans (congrArg _ (State.withForce_forced forced ..)))
    · exact forces.trans (congrArg _ (State.withForce_faulted own ended bad ..))
  · refine completesFrom_done ?_
    simp only [exec, execTforceM, version]
  · simp only [exec, execTforceM, node, held]
  · simp only [Ctx.forceQuery, empty]

/-! ## A force goes on (R242, R259 to R261, R304) -/

theorem State.matrixHasRoom_iff (s : State) {core : Nat} : s.matrixHasRoom core = true ↔ (s.core core).matrix.queue.length < 8 :=
  decide_eq_true_iff

/-- A product goes through the matrix queue of the core where its thread stands. -/
theorem exec_forceNodeStep_product {s : State} {tid e : Nat} {f : Force} {rest : List Nat} (own : (s.ctx tid).force = some f)
    (going : f.done = false) (good : f.fault = none) (read : List.find? (fun l => (f.read.find? l.1.id).isNone) f.leafs = none)
    (first : f.todo = e :: rest) (product : ((s.ctx tid).thunks.find? e).map Node.op = some 4) :
    exec (.forceNodeStep tid) s =
      if (s.core (s.ctx tid).core).matrix.queue.contains (.force (s.srcOf tid) e) then .next s
      else if s.matrixHasRoom (s.ctx tid).core then .next (s.enqueueMatrix (s.ctx tid).core (.force (s.srcOf tid) e))
      else .next (s.at (s.pcyc + 1) (.forceNodeStep tid)) := by
  simp only [exec, execForceNodeStep, own, going, good, read, first, product, Bool.or_false, Option.isSome_none, Bool.false_eq_true, if_false, if_true]

/-- One step of a force, by its next source and its next node, and its completion, by its outcome. -/
theorem forceSteps : Claims.ForceSteps := by
  intro s tid e f r q pc rest
  dsimp only
  refine ⟨fun idle => ?_, fun own going good => ⟨fun unread => ?_, fun read => ⟨fun nothing => ?_, fun first plain => ?_, fun first product => ?_⟩⟩,
    fun own ended => ?_, fun own ended => ?_, fun own going good => ?_, fun own going bad => ?_⟩
  · simp only [exec, execForceNodeStep, execForceCompletion, idle, and_self]
  · simp [exec, execForceNodeStep, own, going, good, unread]
  · simp [exec, execForceNodeStep, own, going, good, read, nothing]
  · simp [exec, execForceNodeStep, own, going, good, read, first, plain]
  · have step := exec_forceNodeStep_product own going good read first product
    refine ⟨fun queued => ?_, fun new room => ?_, fun new full => ?_⟩
    · rw [step, if_pos queued]
    · rw [step, if_neg (Bool.eq_false_iff.1 new), if_pos (s.matrixHasRoom_iff.2 room)]
    · rw [step, if_neg (Bool.eq_false_iff.1 new), if_neg fun room => Nat.not_lt.2 full (s.matrixHasRoom_iff.1 room)]
  · rcases ended with ended | ended <;> simp [exec, execForceNodeStep, own, ended]
  · simp [exec, execForceCompletion, own, ended]
  · simp [exec, execForceCompletion, own, going, good]
  · simp [exec, execForceCompletion, own, going, bad]

/-! ## Elements do not depend on the rectangle (R255, R259, R270) -/

/-- A coordinate of a rectangle holds the node's element of that coordinate. -/
theorem Node.compute_has (n : Node) (f : Force) {q : Rect} {r c : Nat} (hr : r < n.rows) (hc : c < n.cols) (inside : q.has r c) :
    (n.compute f q)[r * n.cols + c]? = some (n.elem f r c) := by
  have positive : 0 < n.cols := by omega
  have bound : r * n.cols + c < n.rows * n.cols := by
    calc r * n.cols + c < r * n.cols + n.cols := by omega
      _ = (r + 1) * n.cols := (Nat.succ_mul _ _).symm
      _ ≤ n.rows * n.cols := Nat.mul_le_mul_right _ hr
  have row : (r * n.cols + c) / n.cols = r := by
    rw [Nat.add_comm, Nat.add_mul_div_right _ _ positive, Nat.div_eq_of_lt hc, Nat.zero_add]
  have col : (r * n.cols + c) % n.cols = c := by rw [Nat.add_comm, Nat.add_mul_mod_self_right, Nat.mod_eq_of_lt hc]
  simp [Node.compute, bound, row, col, inside]

theorem regionIndependence : Claims.RegionIndependence := by
  intro n f p q r c hr hc inP inQ
  rw [n.compute_has f hr hc inP, n.compute_has f hr hc inQ]
  exact ⟨rfl, rfl⟩

/-- Settles O29: the forms by their meanings' branches, the steps of a force by what is left of it, and the elements by their coordinates. -/
theorem forcingOfThunks : Obligations.ForcingOfThunks := ⟨forcing, forceSteps, regionIndependence⟩

end Sys2Proof.Machine
end

section
/-! PROOFS. What the Mints of every slice hold, through the writes of an RCB's words (R163, R232, R323, R428): a write at a line's home changes no entry. -/

namespace Sys2Proof.Machine

set_option Elab.async false

/-- The entries of a slice. -/
def State.mintOf (s : State) (k : Nat) : List MintEntry := (s.slice k).mint

section Mint

variable (s : State) (k : Nat)

theorem State.mintOf_congr {s t : State} (h : t.slices = s.slices) (k : Nat) : t.mintOf k = s.mintOf k := congrArg Slice.mint (State.slice_congr h k)

theorem State.entry_congr {s t : State} {home : Nat} (h : t.mintOf home = s.mintOf home) (key : Key) : t.entry key home = s.entry key home :=
  congrArg (List.find? _) h

/-- A slice put back with the entries that it had. -/
theorem State.setSlice_mintOf {j : Nat} {c : Slice} (h : c.mint = s.mintOf j) : (s.setSlice j c).mintOf k = s.mintOf k :=
  State.setSlice_keeps Slice.mint h k

theorem State.l2Leave_mintOf (j line : Nat) : (s.l2Leave j line).mintOf k = s.mintOf k :=
  State.l2Leave_keeps Slice.mint (fun _ _ => rfl) s j line k

theorem State.l2Take_mintOf (line die : Nat) : (s.l2Take line die).mintOf k = s.mintOf k :=
  State.l2Take_keeps Slice.mint (fun _ _ => rfl) s line die k

theorem State.dropProxy_mintOf (line die : Nat) : (s.dropProxy line die).mintOf k = s.mintOf k := s.l2Leave_mintOf k _ line

theorem State.dropProxies_mintOf (line : Nat) (ds : List Nat) : (ds.foldl (fun s d => s.dropProxy line d) s).mintOf k = s.mintOf k :=
  foldl_keeps (State.mintOf · k) (fun (s : State) d => s.dropProxy line d) (fun s d => s.dropProxy_mintOf k line d) ds s

theorem State.putDir_mintOf (line : Nat) (d : Option Dir) : (s.putDir line d).mintOf k = s.mintOf k := s.setSlice_mintOf k rfl

theorem State.setSeq_mintOf (line n : Nat) : (s.setSeq line n).mintOf k = s.mintOf k := s.setSlice_mintOf k rfl

theorem State.tag_mintOf (line : Nat) : (s.tag line).2.mintOf k = s.mintOf k := s.setSeq_mintOf k line _

theorem State.write_mintOf (a n v : Nat) : (s.write a n v).mintOf k = s.mintOf k := rfl

theorem State.awake_mintOf (j : Nat) : (s.awake j).mintOf k = s.mintOf k := by
  unfold State.awake
  split
  · exact s.setSlice_mintOf k rfl
  · rfl

theorem State.copyHome_mintOf (line die : Nat) : (s.copyHome line die).mintOf k = s.mintOf k := by
  unfold State.copyHome
  split
  · rfl
  · split
    · exact s.awake_mintOf k _
    · exact s.awake_mintOf k _
    · rfl

theorem State.bringHome_mintOf (line die : Nat) : (s.bringHome line die).mintOf k = s.mintOf k := by
  unfold State.bringHome
  split
  · rfl
  · split
    · exact ((s.copyHome line die).setSeq_mintOf k line _).trans (s.copyHome_mintOf k line die)
    · exact ((s.copyHome line die).setSeq_mintOf k line _).trans (s.copyHome_mintOf k line die)
    · rfl

theorem State.recall_mintOf (line : Nat) : (s.recall line).mintOf k = s.mintOf k := by
  unfold State.recall
  split
  · rfl
  · rw [State.putDir_mintOf, State.dropProxies_mintOf]
  · rw [State.putDir_mintOf, State.dropProxy_mintOf, State.bringHome_mintOf]
  · rw [State.putDir_mintOf, State.dropProxies_mintOf, State.bringHome_mintOf]

theorem State.setNff_mintOf (j : Nat) (b : Bool) : (s.setNff j b).mintOf k = s.mintOf k := by
  cases b
  · rfl
  · exact s.setSlice_mintOf k rfl

theorem State.foldAddr_mintOf (a : Nat) : (s.foldAddr a).mintOf k = s.mintOf k := by
  simp only [State.foldAddr]
  split
  · rfl
  · rw [State.setNff_mintOf, State.tag_mintOf, State.write_mintOf, State.setSlice_mintOf, State.recall_mintOf]
    rfl

theorem State.foldLine_mintOf (line : Nat) : (s.foldLine line).mintOf k = s.mintOf k :=
  foldl_keeps (State.mintOf · k) State.foldAddr (fun s a => s.foldAddr_mintOf k a) _ s

theorem State.homeWrite_mintOf (line : Nat) : (s.homeWrite line).mintOf k = s.mintOf k := by
  rw [State.homeWrite, State.l2Take_mintOf, State.awake_mintOf, State.recall_mintOf, State.foldLine_mintOf]

theorem State.writeMarked_mintOf (a n v : Nat) (bad : Bool) : (s.writeMarked a n v bad).mintOf k = s.mintOf k := by
  cases bad <;> rfl

theorem State.walkWaiters_mintOf (line : Nat) : (s.walkWaiters line).mintOf k = s.mintOf k :=
  (State.mintOf_congr (foldl_keeps State.slices State.satisfy State.satisfy_slices _ _) k).trans (s.setSlice_mintOf k rfl)

theorem State.homeStore_mintOf (a n v : Nat) (bad : Bool) : (s.homeStore a n v bad).2.mintOf k = s.mintOf k := by
  refine (State.walkWaiters_mintOf _ k _).trans ((State.tag_mintOf _ k _).trans ?_)
  rw [State.writeMarked_mintOf, State.homeWrite_mintOf]

theorem State.touchLeaf_mintOf (l : Leaf) (store : Bool) : (s.touchLeaf l store).2.mintOf k = s.mintOf k := by
  unfold State.touchLeaf
  generalize 2 ^ 13 + (if store then 2 ^ 12 else 0) = bits
  dsimp only
  split
  · rfl
  · split
    · rfl
    · simp only [State.homeStore_mintOf]

theorem State.setRcbWord_mintOf (rcb asid idx v : Nat) : (s.setRcbWord rcb asid idx v).mintOf k = s.mintOf k := by
  simp only [State.setRcbWord]
  split
  · rfl
  · split
    · exact (State.homeStore_mintOf _ k _ _ _ _).trans (s.touchLeaf_mintOf k _ _)
    · rfl

/-- A charge is a count in the RCBs, and no entry (R428). -/
theorem State.charge_mintOf (rcb asid : Nat) (up : Bool) : (s.charge rcb asid up).mintOf k = s.mintOf k := by
  have counted := foldl_keeps (State.mintOf · k) (fun (s : State) r => s.setRcbWord r asid 19 (s.rcbWord r asid 19 % 2 ^ 32 +
    2 ^ 32 * (if up then bitsOf (s.rcbWord r asid 19) 63 32 + 1 else bitsOf (s.rcbWord r asid 19) 63 32 - 1)))
    (fun s r => s.setRcbWord_mintOf k r asid 19 _) (s.chain rcb asid) s
  exact (apply_ite (State.mintOf · k) _ _ _).trans ((ite_self _).trans counted)

theorem State.wakeRoom_mintOf (j : Nat) : (s.wakeRoom j).mintOf k = s.mintOf k := rfl

end Mint

end Sys2Proof.Machine
end

section
/-! PROOFS. The Mint (O27): an entry after each operation on it, single assignment, and what the Mint's messages do (R232, R235, R236, R239 to R241,
R244, R245, R249). -/

namespace Sys2Proof.Machine

set_option Elab.async false

/-! ## Entries (R232, R236, R237) -/

section Entry

variable (s : State) (k : Key) (home : Nat)

theorem MintEntry.key_of_find {es : List MintEntry} {k : Key} {e : MintEntry} (h : es.find? (fun e => e.key == k) = some e) : e.key = k := by
  simpa using List.find?_some h

theorem State.entry_modEntry {f : MintEntry → MintEntry} (keeps : ∀ e, (f e).key = e.key) :
    (s.modEntry k home f).entry k home = (s.entry k home).map f := by
  have same : ((fun e : MintEntry => e.key == k) ∘ fun e => if e.key = k then f e else e) = fun e => e.key == k := by
    funext e
    by_cases own : e.key = k <;> simp [own, keeps]
  rw [State.entry, State.modEntry, State.slice_setSlice, List.find?_map, same, State.entry]
  refine Option.map_congr fun e held => if_pos (MintEntry.key_of_find held)

theorem State.entry_addEntry {e : MintEntry} (own : e.key = k) (none : s.entry k home = none) : (s.addEntry home e).entry k home = some e := by
  rw [State.entry, State.addEntry, State.slice_setSlice, List.find?_append, ← State.entry, none]
  simp [own]

theorem State.entry_dropEntry : (s.dropEntry k home).entry k home = none := by
  simp [State.entry, State.dropEntry]

theorem State.entry_walkKey (result : Nat) :
    (s.walkKey k home result).entry k home = (s.entry k home).map fun e => { e with waiters := [] } := by
  have woken (w : KeyWaiter) (t : State) : (t.wakeVersion w result).slices = t.slices := by cases w <;> rfl
  unfold State.walkKey
  split
  next none => rw [none]; rfl
  next e held =>
    rw [State.entry_congr (State.mintOf_congr (foldl_keeps State.slices (fun s w => s.wakeVersion w result) (fun t w => woken w t) _ _) home)]
    exact State.entry_modEntry s k home fun _ => rfl

theorem State.entry_notify : (s.notify k home).entry k home = (s.entry k home).map fun e => { e with devs := [] } := by
  unfold State.notify
  split
  next none => rw [none]; rfl
  next e held =>
    refine (State.entry_congr (State.mintOf_congr (foldl_keeps State.slices _ (fun t d => ?_) _ _) home) k).trans ?_
    · split <;> rfl
    · exact State.entry_modEntry s k home fun _ => rfl

/-- A version that dies leaves a tombstone without data and storage (R232, R237). -/
theorem State.entry_kill {e : MintEntry} (held : s.entry k home = some e) : (s.kill k home).entry k home =
    some { e with st := .dead, prior := none, data := [], run := none, marks := [], dropAll := false, early := 0 } := by
  have own : e.key = k := MintEntry.key_of_find held
  simp only [State.kill, held]
  rw [State.entry_congr (State.wakeRoom_mintOf _ home home), State.entry_congr (State.charge_mintOf _ home _ _ _)]
  exact State.entry_addEntry _ _ _ own (State.entry_dropEntry _ _ _)

theorem State.reclaim_kept {e : MintEntry} (held : s.entry k home = some e) (kept : e.pins ≠ 0 ∨ e.readers ≠ 0) : s.reclaim k home = s := by
  simp only [State.reclaim, held]
  refine if_neg ?_
  rcases kept with h | h <;> simp [h]

theorem State.reclaim_over {e : MintEntry} (held : s.entry k home = some e) (st : e.st = .present) (pins : e.pins = 0) (readers : e.readers = 0) :
    s.reclaim k home = s.kill k home := by
  simp [State.reclaim, held, st, pins, readers]

/-- Readers that a version is created with, beside the early reads that it owes (R239, R241). -/
def MintEntry.left (e : MintEntry) (n0 : Nat) : Nat := if e.dropAll then 0 else if n0 = 65535 then 65535 else n0 - e.early

/-- The version that a reserved entry becomes (R241). -/
def MintEntry.made (e : MintEntry) (n0 : Nat) (data : List Byte) : MintEntry :=
  { e with data := data, st := .present, prior := none, early := 0, dropAll := false, readers := e.left n0, waiters := [], devs := [] }

/-- A creation up to the question whether the version stays (R241). -/
def State.made (s : State) (k : Key) (home n0 : Nat) (data : List Byte) : State :=
  ((s.modEntry k home fun e => { e with
    data := data, st := .present, prior := none, early := 0, dropAll := false, readers := e.left n0 }).walkKey k home 0).notify k home

theorem State.create_eq (n0 : Nat) (data : List Byte) : s.create k home n0 data = (s.made k home n0 data).reclaim k home := rfl

variable {s k home} {e : MintEntry} (held : s.entry k home = some e) (n0 : Nat) (data : List Byte)
include held

theorem State.entry_made : (s.made k home n0 data).entry k home = some (e.made n0 data) := by
  rw [State.made, State.entry_notify, State.entry_walkKey, State.entry_modEntry, held]
  · rfl
  · exact fun _ => rfl

/-- A version that is created is PRESENT while it has a reader or a pin. -/
theorem State.entry_create_kept (kept : e.pins ≠ 0 ∨ e.left n0 ≠ 0) : (s.create k home n0 data).entry k home = some (e.made n0 data) := by
  have made := State.entry_made held n0 data
  rw [State.create_eq, State.reclaim_kept _ _ _ made kept, made]

/-- With neither it is DEAD at once. -/
theorem State.entry_create_over (pins : e.pins = 0) (readers : e.left n0 = 0) :
    (s.create k home n0 data).entry k home = some { e.made n0 data with st := .dead, data := [], run := none, marks := [] } := by
  have made := State.entry_made held n0 data
  rw [State.create_eq, State.reclaim_over _ _ _ made rfl pins readers, State.entry_kill _ _ _ made]
  rfl

end Entry

end Sys2Proof.Machine
end

section
/-! PROOFS. What the Mint's messages do (O27): references, drops, queries and waits, single assignment, and the Mint's answers (R232, R235, R236,
R239 to R241, R244, R245, R249). -/

namespace Sys2Proof.Machine

set_option Elab.async false

/-! ## A request of this device at its own Mint (R239, R416) -/

section Here

variable {s : State} {q : KeyReq}

theorem mintAway_here (here : q.desc.remote = false) : mintAway q = false := by rw [mintAway, here, Bool.false_and]

theorem State.mintReply_own (own : q.peer = none) (s : State) (o : MintOutcome) : s.mintReply q o = s.post (.mintReplyArrival q o) := by
  rw [State.mintReply, own]

end Here

/-! ## References, drops, queries and waits -/

section Reads

variable {s u : State} {q : KeyReq} {h : R5} {dl : Option Nat} (own : q.peer = none) (here : q.desc.remote = false)
include own here

theorem exec_mintReference_dead (use : q.use = .tld h) (dead : s.keyDead q.key q.home) :
    exec (.mintReference q) s = .next (s.post (.mintReplyArrival q .dead)) := by
  simp only [exec, execMintReference, use, mintAway_here here, dead, State.mintReply_own own, Bool.false_eq_true, if_false, if_true]

theorem exec_mintReference_taken (use : q.use = .tld h) (live : s.keyDead q.key q.home = false) (taken : s.reference q true = .ok u) :
    exec (.mintReference q) s = .next (u.post (.mintReplyArrival q .ok)) := by
  simp only [exec, execMintReference, use, mintAway_here here, live, taken, State.mintReply_own own, Bool.false_eq_true, if_false]

omit own in
theorem exec_mintReference_stalls {n : Nat} (use : q.use = .tld h) (live : s.keyDead q.key q.home = false) (stalls : s.reference q true = .error n) :
    exec (.mintReference q) s = .next (s.stallReq q n (.mintReference q)) := by
  simp only [exec, execMintReference, use, mintAway_here here, live, stalls, Bool.false_eq_true, if_false]

theorem exec_mintReference_tqry (use : q.use = .tqry h) :
    exec (.mintReference q) s = .next (s.post (.mintReplyArrival q (.word (s.queryWord q)))) := by
  simp only [exec, execMintReference, use, mintAway_here here, State.mintReply_own own, Bool.false_eq_true, if_false]

theorem exec_mintReference_twait (use : q.use = .twait h dl) : exec (.mintReference q) s = .next (s.waitAtMint q dl) := by
  simp only [exec, execMintReference, use, own, mintAway_here here, Bool.false_eq_true, if_false]

omit own in
theorem exec_mintReference_adjRead {k : Key} {home : Nat} (use : q.use = .adjRead k home) :
    exec (.mintReference q) s = .next (s.readAdjoint q none) := by
  simp only [exec, execMintReference, use, mintAway_here here, Bool.false_eq_true, if_false]

theorem exec_mintDrop_dead {all : Bool} (use : q.use = .tdrop all) (dead : s.keyDead q.key q.home) :
    exec (.mintDrop q) s = .next (s.post (.mintReplyArrival q .dead)) := by
  cases all <;> simp only [exec, execMintDrop, use, mintAway_here here, dead, State.mintReply_own own, Bool.false_eq_true, if_false, if_true]

variable (live : s.keyDead q.key q.home = false) (entered : s.needEntry q = .ok u)
include live entered

theorem exec_mintDrop_one (use : q.use = .tdrop false) : exec (.mintDrop q) s =
    .next (((u.modEntry q.key q.home MintEntry.consume).reclaim q.key q.home).post (.mintReplyArrival q .ok)) := by
  simp only [exec, execMintDrop, use, mintAway_here here, live, entered, State.mintReply_own own, Bool.false_eq_true, if_false]

theorem exec_mintDrop_all (use : q.use = .tdrop true) : exec (.mintDrop q) s =
    .next (((u.modEntry q.key q.home fun e => if e.st = MintSt.present then { e with readers := 0 }
      else { e with dropAll := true }).reclaim q.key q.home).post (.mintReplyArrival q .ok)) := by
  simp only [exec, execMintDrop, use, mintAway_here here, live, entered, State.mintReply_own own, Bool.false_eq_true, if_false]

end Reads

section Waits

variable {s u : State} {q : KeyReq} {dl : Option Nat} (own : q.peer = none)

include own in
theorem State.waitAtMint_dead (dead : s.keyDead q.key q.home) : s.waitAtMint q dl = s.post (.mintReplyArrival q (.word 2)) := by
  rw [State.waitAtMint, if_pos dead, State.mintReply_own own]

variable (live : s.keyDead q.key q.home = false)
include live

include own in
theorem State.waitAtMint_present (present : (s.entry q.key q.home).map MintEntry.st = some .present) :
    s.waitAtMint q dl = s.post (.mintReplyArrival q (.word 0)) := by
  rw [State.waitAtMint, if_neg (Bool.eq_false_iff.1 live), if_pos present, State.mintReply_own own]

variable (absent : (s.entry q.key q.home).map MintEntry.st ≠ some .present)
include absent

include own in
theorem State.waitAtMint_overdue (past : s.overdue dl) : s.waitAtMint q dl = s.post (.mintReplyArrival q (.word 1)) := by
  rw [State.waitAtMint, if_neg (Bool.eq_false_iff.1 live), if_neg absent, if_pos past, State.mintReply_own own]

variable (time : s.overdue dl = false)
include time

theorem State.waitAtMint_stalls {n : Nat} (stalls : s.needEntry q = .error n) : s.waitAtMint q dl = s.stallReq q n (.mintReference q) := by
  rw [State.waitAtMint, if_neg (Bool.eq_false_iff.1 live), if_neg absent, if_neg (Bool.eq_false_iff.1 time), stalls]

theorem State.waitAtMint_full (entered : s.needEntry q = .ok u) (new : u.waits q.src.tid q.key q.home = false)
    (full : Config.waiterEntries ≤ (u.slice q.home).waiting) :
    s.waitAtMint q dl = u.at (u.pcyc + 1024) (.versionWakeArrival q.src.tid 4) := by
  have refused : u.addWaiter q (.thread q.src.tid) = none := (if_neg (Bool.eq_false_iff.1 new)).trans (if_pos full)
  simp only [State.waitAtMint, live, absent, time, entered, refused, Bool.false_eq_true, if_false]

theorem State.waitAtMint_registered (entered : s.needEntry q = .ok u) (new : u.waits q.src.tid q.key q.home = false)
    (room : (u.slice q.home).waiting < Config.waiterEntries) :
    s.waitAtMint q dl = (u.modEntry q.key q.home fun e => { e with waiters := e.waiters ++ [.thread q.src.tid] }).modCtx q.src.tid fun c =>
      if c.keyReq = some q then { c with park := some .version } else c := by
  have added : u.addWaiter q (.thread q.src.tid) =
      some (u.modEntry q.key q.home fun e => { e with waiters := e.waiters ++ [.thread q.src.tid] }) :=
    (if_neg (Bool.eq_false_iff.1 new)).trans (if_neg (Nat.not_le.2 room))
  simp only [State.waitAtMint, live, absent, time, entered, added, Bool.false_eq_true, if_false]

end Waits

/-- What each request finds at the Mint, by its use and the state of the key. -/
theorem mintReads : Claims.MintReads := by
  intro s q h dl own here
  dsimp only
  refine ⟨exec_mintReference_dead own here, fun use live u => exec_mintReference_taken own here use live,
    fun use live n => exec_mintReference_stalls here use live, exec_mintReference_tqry own here, fun use dead => ?_,
    fun use live present => ?_, fun use live absent => ?_, fun k home => exec_mintReference_adjRead here, fun all => exec_mintDrop_dead own here,
    fun u use live entered => exec_mintDrop_one own here live entered use, fun u use live entered => exec_mintDrop_all own here live entered use, rfl⟩
  · rw [exec_mintReference_twait own here use, State.waitAtMint_dead own dead]
  · rw [exec_mintReference_twait own here use, State.waitAtMint_present own live present]
  · rw [exec_mintReference_twait own here use]
    refine ⟨fun past => congrArg _ (State.waitAtMint_overdue own live absent past), fun time =>
      ⟨fun n stalls => congrArg _ (State.waitAtMint_stalls live absent time stalls), fun u entered new =>
        ⟨fun full => congrArg _ (State.waitAtMint_full live absent time entered new full),
          fun room => congrArg _ (State.waitAtMint_registered live absent time entered new room)⟩⟩⟩

/-! ## Single assignment (R232, R241) -/

theorem State.takeRun_found {s : State} {home bytes : Nat} {r : Run} (found : s.findRun home bytes = some r) (fuel : Nat) :
    s.takeRun home bytes fuel = some (s, r) := by
  cases fuel <;> simp [State.takeRun, found]

theorem State.withRun_found {s : State} {home bytes : Nat} {r : Run} (found : s.findRun home bytes = some r) (k : State → Run → State) :
    s.withRun home bytes k = some (k s r) := by
  rw [State.withRun, State.takeRun_found found]
  rfl

section Reserve

variable {s u : State} {k : Key} {home bytes rcb asid : Nat} {e : MintEntry} {r : Run}

theorem State.reserve_dead (dead : s.keyDead k home) : s.reserve k home bytes rcb asid = .error (.writeOnce 4) := by
  rw [State.reserve, if_pos dead]

variable (live : s.keyDead k home = false)
include live

theorem State.reserve_creating (held : s.entry k home = some e) (st : e.st = .creating) : s.reserve k home bytes rcb asid = .error (.writeOnce 2) := by
  simp [State.reserve, live, held, st]

theorem State.reserve_present (held : s.entry k home = some e) (st : e.st = .present) : s.reserve k home bytes rcb asid = .error (.writeOnce 3) := by
  simp [State.reserve, live, held, st]

theorem State.reserve_pending (held : s.entry k home = some e) (st : e.st = .pending) (found : s.findRun home bytes = some r) :
    s.reserve k home bytes rcb asid = .ok (s.modEntry k home fun e => { e with st := .creating, prior := some .pending, run := some r }) := by
  simp [State.reserve, live, held, st, State.withRun_found found]

theorem State.reserve_stalls {n : Nat} (free : s.entry k home = none) (stalls : s.allocEntry k home .pending rcb asid = .error n) :
    s.reserve k home bytes rcb asid = .error (.stall n) := by
  simp [State.reserve, live, free, stalls]

theorem State.reserve_free (free : s.entry k home = none) (entered : s.allocEntry k home .pending rcb asid = .ok u)
    (found : u.findRun home bytes = some r) :
    s.reserve k home bytes rcb asid = .ok (u.modEntry k home fun e => { e with st := .creating, prior := none, run := some r }) := by
  simp [State.reserve, live, free, entered, State.withRun_found found]

end Reserve

section Assignment

variable {s t : State} {q : KeyReq} (own : q.peer = none) (use : q.use = .tst) (here : q.desc.remote = false)
include own use here

omit use in
theorem exec_mintReserve_refused {n : Nat} (refused : s.reserve q.key q.home (descBytes q.desc) q.rcb q.rcbAsid = .error (.writeOnce n)) :
    exec (.mintReserve q) s = .next (s.post (.mintReplyArrival q (.writeOnce n))) := by
  simp only [exec, execMintReserve, mintAway_here here, refused, State.mintReply_own own, Bool.false_eq_true, if_false]

omit own use in
theorem exec_mintReserve_stalls {n : Nat} (stalls : s.reserve q.key q.home (descBytes q.desc) q.rcb q.rcbAsid = .error (.stall n)) :
    exec (.mintReserve q) s = .next (s.stallReq q n (.mintReserve q)) := by
  simp only [exec, execMintReserve, mintAway_here here, stalls, Bool.false_eq_true, if_false]

theorem exec_mintReserve_reserved (reserved : s.reserve q.key q.home (descBytes q.desc) q.rcb q.rcbAsid = .ok t) :
    exec (.mintReserve q) s = .next (t.post (.mintReplyArrival q .ok)) := by
  simp only [exec, execMintReserve, mintAway_here here, reserved, use, State.mintReply_own own, Bool.false_eq_true, if_false]

end Assignment

/-- A reservation by what it finds of the key, and the entry of a version that is created. -/
theorem singleAssignment : Claims.SingleAssignment := by
  intro s q data e own use
  dsimp only
  intro here
  refine ⟨fun dead => exec_mintReserve_refused own here (State.reserve_dead dead),
    fun live held st => exec_mintReserve_refused own here (State.reserve_creating live held st),
    fun live held st => exec_mintReserve_refused own here (State.reserve_present live held st),
    fun live held st r found => ⟨_, exec_mintReserve_reserved own use here (State.reserve_pending live held st found), rfl⟩,
    fun live free => ⟨fun k stalls => exec_mintReserve_stalls here (State.reserve_stalls live free stalls),
      fun u r entered found => exec_mintReserve_reserved own use here (State.reserve_free live free entered found)⟩,
    _, rfl, fun held => ?_⟩
  rw [State.mintReply_own own]
  exact ⟨fun kept => ⟨_, State.entry_create_kept held (creators q) data kept, rfl, rfl, rfl, rfl, rfl⟩,
    fun pins readers => ⟨_, State.entry_create_over held (creators q) data pins readers, rfl, rfl, rfl⟩⟩

/-! ## The Mint's answers (R236, R245, R249) -/

section Answers

variable {s : State} {q : KeyReq} {h : R5} {dl : Option Nat} {f : Force} {result : Nat}

/-- What an answer does to a thread whose instruction holds nothing beside the request. -/
theorem exec_mintReplyArrival_bare (asked : (s.ctx q.src.tid).keyReq = some q)
    (bare : q.use = .tld h ∨ q.use = .tst ∨ q.use = .tdrop false ∨ q.use = .tdrop true) :
    exec (.mintReplyArrival q .ok) s = .next (s.wakeAgain q.src.tid) ∧
    exec (.mintReplyArrival q .dead) s = .next (s.wakeTrap q.src.tid (keyTrap trapVersionDead 4 q.key)) ∧
    (∀ n, exec (.mintReplyArrival q (.writeOnce n)) s = .next (s.wakeTrap q.src.tid (keyTrap trapWriteOnce n q.key))) ∧
    (∀ n, exec (.mintReplyArrival q (.space n)) s = .next (s.wakeTrap q.src.tid (keyTrap trapAddrSpace n q.key))) ∧
    (∀ n, exec (.mintReplyArrival q (.stall n)) s = .next (s.stallThread q n)) := by
  rcases bare with use | use | use | use <;> simp [exec, execMintReplyArrival, mintTraps, State.dropInput, use, asked]

theorem exec_mintReplyArrival_twait (w : Word) (use : q.use = .twait h dl) (asked : (s.ctx q.src.tid).keyReq = some q) :
    exec (.mintReplyArrival q (.word w)) s = .next (s.wakeWith q.src.tid (·.setX h w)) := by
  simp [exec, execMintReplyArrival, mintTraps, use, asked]

theorem exec_mintReplyArrival_tqry (w : Word) (use : q.use = .tqry h) (going : (s.ctx q.src.tid).keyReq ≠ some q) :
    exec (.mintReplyArrival q (.word w)) s = .next ((s.setCtx q.src.tid ((s.ctx q.src.tid).landX h w)).syncImage q.src.tid) := by
  simp [exec, execMintReplyArrival, mintTraps, use, going, State.modCtx]

theorem exec_versionWakeArrival_other {tid : Nat} (parked : (s.ctx tid).park ≠ some .version)
    (other : (s.ctx tid).force.isSome ∨ (s.ctx tid).keyReq = none) : exec (.versionWakeArrival tid result) s = .next s := by
  cases own : (s.ctx tid).force with
  | some f => simp [exec, execVersionWakeArrival, own, parked]
  | none =>
    have idle : (s.ctx tid).keyReq = none := other.resolve_left (by simp [own])
    simp [exec, execVersionWakeArrival, own, Ctx.twait?, idle, parked]

theorem exec_versionWakeArrival_twait {tid : Nat} (forceless : (s.ctx tid).force = none) (asked : (s.ctx tid).keyReq = some q)
    (use : q.use = .twait h dl) : exec (.versionWakeArrival tid result) s = .next (s.wakeTwait tid result q h dl) := by
  simp [exec, execVersionWakeArrival, forceless, Ctx.twait?, asked, use]

/-- A force that waits for a version looks again, or goes on. -/
theorem exec_versionWakeArrival_force {tid : Nat} (parked : (s.ctx tid).park = some .version) (own : (s.ctx tid).force = some f)
    (resident : (s.ctx tid).imstate = .resident) (plain : result < 2 ∨ result = 4) :
    exec (.versionWakeArrival tid result) s =
      .next ((if result = 4 then s.lookAtKey tid else s.endWait tid).post (.forceNodeStep tid)) := by
  have answers : ¬(result = 2 ∨ result = 3 ∨ 32 ≤ result) := by omega
  simp [exec, execVersionWakeArrival, own, parked, answers, resident]

theorem State.wakeTwait_result {tid : Nat} (gone : s.waits tid q.key q.home = false) (heard : s.asking q = false)
    (word : result = 0 ∨ result = 2) : s.wakeTwait tid result q h dl = s.wakeWith tid (·.setX h (BitVec.ofNat 64 result)) := by
  rcases word with rfl | rfl <;> simp [State.wakeTwait, gone, heard]

theorem State.wakeTwait_over {tid d : Nat} (unanswered : s.answered tid q = false) (arrived : s.sending q = false) (deadline : dl = some d)
    (past : (d * 33 + 9) / 10 < s.pcyc) : s.wakeTwait tid 1 q h dl = ((s.takeBack tid).unwait tid q.key q.home).wakeWith tid (·.setX h 1) := by
  have ended : cycleOfTick d < s.pcyc := past
  simp [State.wakeTwait, unanswered, arrived, deadline, ended]

theorem State.wakeTwait_early {tid : Nat}
    (early : (∀ d, dl = some d → s.pcyc ≤ (d * 33 + 9) / 10) ∨ s.answered tid q ∨ s.sending q) : s.wakeTwait tid 1 q h dl = s := by
  have stays : ((dl.any fun d => decide (cycleOfTick d < s.pcyc)) && !s.answered tid q && !s.sending q) = false := by
    rcases early with time | answered | sending
    · cases dl with
      | none => rfl
      | some d =>
        have future : ¬cycleOfTick d < s.pcyc := Nat.not_lt.2 (time d rfl)
        simp [future]
    · simp [answered]
    · simp [sending]
  rw [State.wakeTwait, if_pos rfl, stays]
  rfl

end Answers

/-- An answer by its outcome and its request's use, and a wake by what its thread waits for. -/
theorem mintAnswers : Claims.MintAnswers := by
  intro s q w h result f
  dsimp only
  refine ⟨exec_mintReplyArrival_bare, fun dl => exec_mintReplyArrival_twait w,
    fun use going => ⟨_, exec_mintReplyArrival_tqry w use going, differs_setCtx _ _ _⟩, exec_versionWakeArrival_other,
    fun dl forceless asked use => ?_, fun parked own resident plain => ?_, fun parked own resident => ?_⟩
  · have wakes (n : Nat) := exec_versionWakeArrival_twait (result := n) forceless asked use
    refine ⟨fun gone heard word => (wakes _).trans (congrArg _ (State.wakeTwait_result gone heard word)), fun unanswered arrived late => ?_,
      fun early => (wakes _).trans (congrArg _ (State.wakeTwait_early early))⟩
    obtain ⟨d, deadline, past⟩ := late
    exact (wakes _).trans (congrArg _ (State.wakeTwait_over unanswered arrived deadline past))
  · rw [exec_versionWakeArrival_force parked own resident (.inl plain), if_neg (by omega)]
  · exact exec_versionWakeArrival_force parked own resident (.inr rfl)

/-- Settles O27: the Mint's messages by use and state, the entry of a created version, and the answers by outcome. -/
theorem mintBehaviour : Obligations.MintBehaviour := ⟨mintReads, singleAssignment, mintAnswers⟩

end Sys2Proof.Machine
end

section
/-! PROOFS. What the instructions of versions ask (R230, R236, R239 to R241, R243 to R245, R248, R416): a request to a Mint here or at the array's owner, and the branches
of TLD, TDROP, TQRY, TWAIT, TST and TSTV once the key phase has passed. -/

namespace Sys2Proof.Machine

set_option Elab.async false

/-! ## A request to a Mint (R239, R413, R416) -/

/-- The issuing thread waits, at a stage, for the answer to a request. -/
def State.asks (s : State) (stage : Nat) (q : KeyReq) : State := (s.parkStage stage).setMe { (s.parkStage stage).me with keyReq := some q }

section Request

variable {s u : State} {q : KeyReq} {i : Instr} {stage op : Nat} {e : Event} {data : List Byte}

theorem State.askMint_here (here : q.desc.remote = false) (u : State) (stage : Nat) (e : Event) : u.askMint stage q e = (u.asks stage q).post e := by
  simp only [State.askMint, here, Bool.false_eq_true, if_false]
  rfl

theorem State.createVersion_here (here : q.desc.remote = false) (u : State) (stage : Nat) (data : List Byte) :
    u.createVersion stage q data = (u.asks stage q).post (.mintCreate q data) := by
  simp only [State.createVersion, here, Bool.false_eq_true, if_false]
  rfl

theorem State.askMint_away (away : q.desc.remote) (u : State) (stage : Nat) (e : Event) :
    u.askMint stage q e = (u.asks stage q).sendKey q (remoteOp q.use) (eventData e) := by
  simp only [State.askMint, away, if_true]
  rfl

theorem State.createVersion_away (away : q.desc.remote) (u : State) (stage : Nat) (data : List Byte) :
    u.createVersion stage q data = (u.asks stage q).sendKey q 6 data := by
  simp only [State.createVersion, away, if_true]
  rfl

theorem asksMint_of (here : q.desc.remote = false) (asks : exec i s = .next (u.askMint stage q e)) : AsksMint i s u stage q e :=
  asks.trans (congrArg _ (State.askMint_here here u stage e))

/-- A request that no binding or route takes to the owner is answered with `LINK_DOWN`. -/
theorem State.sendKey_lost (own : q.peer = none) (lost : s.bindingTo q.key.asid q.desc.dev = none ∨ s.route q.desc.dev = none) :
    s.sendKey q op data = s.post (.mintReplyArrival q (.linkDown q.desc.dev (s.routes.get q.desc.dev 0))) := by
  simp only [State.sendKey]
  split
  next => exact State.mintReply_own own _ _
  next bound =>
    rw [lost.resolve_left (by simp [bound])]
    exact State.mintReply_own own _ _

theorem State.sendKey_sent {b : Binding} {l : Nat} (bound : s.bindingTo q.key.asid q.desc.dev = some b) (route : s.route q.desc.dev = some l) :
    s.sendKey q op data = (s.await (.key q)).2.sendOn l q.desc.dev (.remoteKey ⟨s.devid.toNat, l, b.xport, q.key.arr, q.key.i, q.key.j, q.key.ver,
      op, data, remoteCount q, q.desc.fmt, remoteShape q.desc, s.serial⟩) := by
  simp only [State.sendKey, bound, route]
  rfl

/-- What becomes of a request for the owner of an array. -/
theorem sendsKey (own : q.peer = none) (sends : exec i s = .next ((u.asks stage q).sendKey q op data)) :
    (u.bindingTo q.key.asid q.desc.dev = none ∨ u.route q.desc.dev = none →
      exec i s = .next ((u.asks stage q).post (.mintReplyArrival q (.linkDown q.desc.dev (u.routes.get q.desc.dev 0))))) ∧
    ∀ b l, u.bindingTo q.key.asid q.desc.dev = some b → u.route q.desc.dev = some l →
      exec i s = .next (((u.asks stage q).await (.key q)).2.sendOn l q.desc.dev (.remoteKey ⟨u.devid.toNat, l, b.xport, q.key.arr, q.key.i, q.key.j,
        q.key.ver, op, data, remoteCount q, q.desc.fmt, remoteShape q.desc, u.serial⟩)) :=
  ⟨fun lost => sends.trans (congrArg _ (State.sendKey_lost own lost)),
    fun _ _ bound route => sends.trans (congrArg _ (State.sendKey_sent bound route))⟩

theorem sends_of_askMint (away : q.desc.remote) (asks : exec i s = .next (u.askMint stage q e)) :
    exec i s = .next ((u.asks stage q).sendKey q (remoteOp q.use) (eventData e)) :=
  asks.trans (congrArg _ (State.askMint_away away u stage e))

theorem sends_of_createVersion (away : q.desc.remote) (asks : exec i s = .next (u.createVersion stage q data)) :
    exec i s = .next ((u.asks stage q).sendKey q 6 data) :=
  asks.trans (congrArg _ (State.createVersion_away away u stage data))

end Request

theorem State.keyReqOf_eq {u : State} {c : Ctx} (same : u.me = c) (k : Key) (d : Desc) (use : KeyUse) (rdr : Nat) : u.keyReqOf k d use rdr =
    ⟨u.src, k, descHome d k.i k.j, d, use, rdr, (c.keyReq.map KeyReq.since).getD u.ticks, c.rcb.toNat, c.asid, none⟩ := by
  subst same
  rfl

theorem forced_congr {s u : State} {g : List Nat} (same : u.me.force = s.me.force) (forced : Forced s g) : Forced u g := by
  rwa [Forced, same]

/-- Registers without a mark are no poison. -/
theorem Ctx.runPoison_clean {c : Ctx} (clean : c.vPois = []) (a n : Nat) : c.runPoison a n = none := by
  have unmarked : (List.range n).findSome? (fun i => c.vPois.find? (a + i)) = none := List.findSome?_eq_none_iff.2 fun i _ => by rw [clean]; rfl
  rw [Ctx.runPoison, unmarked]
  rfl

/-! ## TLD, TDROP, TQRY, TWAIT (R239, R240, R244, R245) -/

section Requests

variable {s u : State} {a : R5} {ko : KeyOp} {d : Desc} {q : KeyReq} (passed : s.keyPhase s.me (s.me.keyOf ko).1 = .ok (d, u))
include passed

theorem exec_tld_seeds (reverse : s.me.reverseOn d) : exec (.tld a ko) s = .next (u.seedTile a (s.me.keyOf ko).1 d) := by
  simp only [exec, execTld, passed, reverse, if_true]

theorem exec_tld_asks (forward : s.me.reverseOn d = false) (fresh : s.me.stage = 0) (req : u.keyReqOf (s.me.keyOf ko).1 d (.tld a) 0 = q) :
    exec (.tld a ko) s = .next (u.askMint 1 q (.mintReference q)) := by
  simp only [exec, execTld, passed, forward, fresh, req, Bool.false_eq_true, Nat.zero_ne_one, if_false]

theorem exec_tld_binds (forward : s.me.reverseOn d = false) (answered : s.me.stage = 1) : exec (.tld a ko) s =
    let k := (s.me.keyOf ko).1
    .next (State.done (State.bindHandle { u with serial := u.serial + 1 } u.cur a
      (.version ⟨u.serial, k, descHome d k.i k.j, if d.remote then some d.dev else none, d.rows, d.cols, d.fmt, d.blk, d.diff⟩))) := by
  simp only [exec, execTld, passed, forward, answered, Bool.false_eq_true, if_false, if_true]
  rfl

theorem State.dropInstr_asks {all : Bool} (fresh : s.me.stage = 0) (req : u.keyReqOf (s.me.keyOf ko).1 d (.tdrop all) 0 = q) :
    s.dropInstr all ko = u.askMint 1 q (.mintDrop q) := by
  simp only [State.dropInstr, passed, fresh, req, Nat.zero_ne_one, if_false]

theorem exec_tdrop_asks (fresh : s.me.stage = 0) (req : u.keyReqOf (s.me.keyOf ko).1 d (.tdrop false) 0 = q) :
    exec (.tdrop ko) s = .next (u.askMint 1 q (.mintDrop q)) :=
  congrArg _ (State.dropInstr_asks passed fresh req)

theorem exec_tdropAll_asks (fresh : s.me.stage = 0) (req : u.keyReqOf (s.me.keyOf ko).1 d (.tdrop true) 0 = q) :
    exec (.tdropAll ko) s = .next (u.askMint 1 q (.mintDrop q)) :=
  congrArg _ (State.dropInstr_asks passed fresh req)

theorem State.dropInstr_done (all : Bool) (answered : s.me.stage = 1) : s.dropInstr all ko = u.done := by
  simp only [State.dropInstr, passed, answered, if_true]

theorem exec_tqry_sends (here : d.remote = false) (fresh : s.me.stage = 0) (req : u.keyReqOf (s.me.keyOf ko).1 d (.tqry a) 0 = q) :
    exec (.tqry a ko) s = .next ((u.finish (·.pendX a)).post (.mintReference q)) := by
  simp only [exec, execTqry, passed, here, fresh, req, Bool.false_eq_true, Nat.zero_ne_one, if_false]

theorem exec_tqry_asks (away : d.remote) (fresh : s.me.stage = 0) (req : u.keyReqOf (s.me.keyOf ko).1 d (.tqry a) 0 = q) :
    exec (.tqry a ko) s = .next (u.askMint 1 q (.mintReference q)) := by
  simp only [exec, execTqry, passed, away, fresh, req, Nat.zero_ne_one, if_false, if_true]

theorem exec_tqry_lands (answered : s.me.stage = 1) : exec (.tqry a ko) s = .next (u.finish (·.setX a s.me.hold)) := by
  simp only [exec, execTqry, passed, answered, if_true]
  rfl

/-- TWAIT parks under the park limit, with a timer where it has a deadline. -/
theorem exec_twait_parks (req : u.keyReqOf (s.me.keyOf ko).1 d (.twait a (deadlineFrom u.ticks (s.me.xr a))) 0 = q) : exec (.twait a ko) s =
    let p := u.parkCounted .version
    let p := if s.me.xr a = 0 then p else p.at (((u.ticks + (s.me.xr a).toNat) * 33 + 9) / 10 + 1) (.versionWakeArrival u.cur 1)
    .next ((p.setMe { p.me with keyReq := some q, stage := 1 }).post (.mintReference q)) := by
  have ticks : (u.parkCounted .version).ticks = u.ticks := by
    simp only [State.parkCounted, State.countPark]
    split <;> rfl
  have cur : (u.parkCounted .version).cur = u.cur := by
    simp only [State.parkCounted, State.countPark]
    split <;> rfl
  simp only [exec, execTwait, passed, req, ticks, cur]
  by_cases endless : s.me.xr a = 0
  · simp only [deadlineFrom, endless, if_true]
  · simp only [deadlineFrom, endless, if_false]
    rfl

end Requests

/-! ## TST and TSTV (R241, R243, R248) -/

section Stores

variable {s u : State} {f : F6} {a : R5} {ko : KeyOp} {d : Desc} {k : Key} {rdr : Nat} (named : s.me.keyOf ko = (k, rdr))
  (passed : s.keyPhase s.me k = .ok (d, u))
include named passed

theorem exec_tst_snaps (reverse : s.me.reverseOn d) : exec (.tst a ko) s = .next (u.snapTile a k d) := by
  simp only [exec, execTst, named, passed, reverse, if_true]

theorem exec_tst_empty (forward : s.me.reverseOn d = false) (empty : s.me.target? a = none) :
    exec (.tst a ko) s = .next (u.trap u.cur (s.me.opTrap 0x02 3)) := by
  simp only [exec, execTst, named, passed, forward, empty, Bool.false_eq_true, if_false]
  rfl

theorem exec_tst_misshapen {b : Base} {sh : Shape} (forward : s.me.reverseOn d = false) (names : s.me.target? a = some (b, sh))
    (other : sh ≠ ⟨d.rows, d.cols, d.fmt, d.blk⟩) : exec (.tst a ko) s = .next (u.trap u.cur ⟨0x07, 9, 0, keyPacked k⟩) := by
  have other : sh ≠ descShape d := other
  simp only [exec, execTst, named, passed, forward, names, other, Bool.false_eq_true, if_false, ne_eq, not_false_eq_true, if_true]
  rfl

theorem exec_tst_stores {b : Base} (forward : s.me.reverseOn d = false) (names : s.me.target? a = some (b, ⟨d.rows, d.cols, d.fmt, d.blk⟩)) :
    exec (.tst a ko) s = .next (u.storeVersion k rdr d fun s q k => s.withForce 1 a.toNat b ⟨0, d.rows - 1, 0, d.cols - 1⟩ (·.giveBack q)
      fun s vals => k s (bytesOfElems d.fmt d.rows d.cols d.blk vals)) := by
  simp only [exec, execTst, named, passed, forward, names, Bool.false_eq_true, if_false]
  exact if_neg (not_not.2 rfl)

theorem exec_tstv_takes (reverse : s.me.reverseOn d) (fresh : s.me.stage = 0) {q : KeyReq}
    (req : u.keyReqOf k d (.adjTake (16 * (f.toNat + 1))) 0 = q) : exec (.tstv f a ko) s = .next (u.askMint 1 q (.mintReference q)) := by
  simp only [exec, execTstv, named, passed, reverse, fresh, req, if_true]

theorem exec_tstv_lands (reverse : s.me.reverseOn d) (answered : s.me.stage ≠ 0) : exec (.tstv f a ko) s = .next (u.finish fun c =>
    (List.range (f.toNat + 1)).foldl (fun x i => x.setV (BitVec.ofNat 5 (a.toNat + i)) (BitVec.ofNat 512 (field c.buf (64 * i) 64))) c) := by
  simp only [exec, execTstv, named, passed, reverse, answered, if_true, if_false]

theorem exec_tstv_stores (forward : s.me.reverseOn d = false)
    (fits : d.fmt = 5 → a.toNat + (f.toNat + 1) ≤ 7 ∧ s.me.vPend.getLsbD (a.toNat + (f.toNat + 1)) = false) (clean : s.me.vPois = []) :
    exec (.tstv f a ko) s = .next (u.storeVersion k rdr d fun v _ k => k v (tstvBytes d s.me a.toNat (f.toNat + 1))) := by
  have room : ¬(d.fmt = 5 && decide (a.toNat + (f.toNat + 1) > 7)) = true := by
    simp only [Bool.and_eq_true, decide_eq_true_eq]
    exact fun h => Nat.not_lt.2 (fits h.1).1 h.2
  have known : ¬(d.fmt = 5 && s.me.vPend.getLsbD (a.toNat + (f.toNat + 1))) = true := by
    simp only [Bool.and_eq_true, decide_eq_true_eq]
    exact fun h => Bool.false_ne_true ((fits h.1).2.symm.trans h.2)
  simp only [exec, execTstv, named, passed, forward, Ctx.runPoison_clean clean, Bool.false_eq_true, if_false]
  rw [if_neg room, if_neg known]

end Stores

section StoreVersion

variable {u : State} {k : Key} {rdr : Nat} {d : Desc} {q : KeyReq} {data : State → KeyReq → (State → List Byte → State) → State}
  (req : u.keyReqOf k d .tst rdr = q)
include req

theorem State.storeVersion_reserves (fresh : u.me.stage = 0) : u.storeVersion k rdr d data = u.askMint 1 q (.mintReserve q) := by
  simp only [State.storeVersion, fresh, req]

theorem State.storeVersion_makes (reserved : u.me.stage = 1) :
    u.storeVersion k rdr d data = data u q fun s bs => s.createVersion 2 q bs := by
  simp only [State.storeVersion, reserved, req]

omit req in
theorem State.storeVersion_done (created : u.me.stage = 2) : u.storeVersion k rdr d data = u.done := by
  simp only [State.storeVersion, created]

end StoreVersion

end Sys2Proof.Machine
end

section
/-! PROOFS. Requests on versions, stores of versions, quota, and the reverse and remote forms (O26). -/

namespace Sys2Proof.Machine

set_option Elab.async false

/-! ## Forward forms of this device (R236, R239 to R241, R243 to R245) -/

/-- Each form by its stage, its request read off the thread. -/
theorem versionRequests : Claims.VersionRequests := by
  intro s u a ko d
  dsimp only
  intro passed me _ here forward
  have req (use : KeyUse) := State.keyReqOf_eq me (s.me.keyOf ko).1 d use 0
  refine ⟨fun fresh => asksMint_of here (exec_tld_asks passed forward fresh (req _)), fun answered => ?_,
    fun fresh => asksMint_of here (exec_tdrop_asks passed fresh (req _)),
    fun fresh => asksMint_of here (exec_tdropAll_asks passed fresh (req _)),
    fun answered => ⟨completesFrom_done (congrArg _ (State.dropInstr_done passed false answered)),
      completesFrom_done (congrArg _ (State.dropInstr_done passed true answered))⟩,
    fun fresh => completesFrom_finish_post (exec_tqry_sends passed here fresh (req _)), exec_twait_parks passed (req _)⟩
  rw [exec_tld_binds passed forward answered, here]
  rfl

/-- The stages of TST and TSTV. -/
theorem versionStores : Claims.VersionStores := by
  intro s u f a ko d
  dsimp only
  intro passed me _ ticks here forward
  have req := State.keyReqOf_eq me (s.me.keyOf ko).1 d .tst (s.me.keyOf ko).2
  rw [ticks] at req
  have stage {n : Nat} (h : s.me.stage = n) : u.me.stage = n := me.symm ▸ h
  refine ⟨fun b sh names => ⟨exec_tst_misshapen rfl passed forward names, fun shape => ?_⟩, exec_tst_empty rfl passed forward, fun fits clean => ?_⟩
  · subst shape
    have stores := exec_tst_stores rfl passed forward names
    refine ⟨fun fresh => asksMint_of here (stores.trans (congrArg _ (State.storeVersion_reserves req (stage fresh)))), fun reserved idle => ?_,
      fun g reserved forced => ?_, fun created => completesFrom_done (stores.trans (congrArg _ (State.storeVersion_done (stage created))))⟩
    all_goals have makes := stores.trans (congrArg _ (State.storeVersion_makes req (stage reserved)))
    · exact makes.trans (congrArg _ (State.withForce_begins (me.symm ▸ idle) ..))
    · exact (makes.trans (congrArg _ (State.withForce_forced (forced_congr (congrArg Ctx.force me) forced) ..))).trans
        (congrArg _ (State.createVersion_here here u 2 _))
  · have stores := exec_tstv_stores rfl passed forward fits clean
    exact ⟨fun fresh => asksMint_of here (stores.trans (congrArg _ (State.storeVersion_reserves req (stage fresh)))),
      fun reserved => (stores.trans (congrArg _ (State.storeVersion_makes req (stage reserved)))).trans
        (congrArg _ (State.createVersion_here here u 2 _)),
      fun created => completesFrom_done (stores.trans (congrArg _ (State.storeVersion_done (stage created))))⟩

/-! ## Quota and till blocks (R235, R428) -/

section Contribution

variable {s v w : State} {q : KeyReq} {n : Nat} (first : Nat) (vals : List (Nat × Nat)) (here : q.desc.remote = false)
include here

theorem exec_adjointTileContribution_added (own : q.peer = none) (tile : s.needAdj q.key q.home q.desc q.rcb q.rcbAsid = .ok v)
    (block : v.needBlock q = .ok w) : exec (.adjointTileContribution q first vals) s =
      .next (((w.setSlice q.home { w.slice q.home with
        tills := (w.slice q.home).tills.map (addToBlock q.key q.src.core vals) }).post (.mintReplyArrival q .ok)).post
          (.contributionAckArrival q.src.tid)) := by
  simp only [exec, execAdjointTileContribution, mintAway_here here, tile, block, State.mintReply_own own, own, Bool.false_eq_true, if_false,
    Option.isSome_none]

theorem exec_adjointTileContribution_noTile (stalls : s.needAdj q.key q.home q.desc q.rcb q.rcbAsid = .error n) :
    exec (.adjointTileContribution q first vals) s = .next (s.stallReq q n (.adjointTileContribution q 0 vals)) := by
  simp only [exec, execAdjointTileContribution, mintAway_here here, stalls, Bool.false_eq_true, if_false]

/-- Where the block finds no room the tile is not made either. -/
theorem exec_adjointTileContribution_noBlock (tile : s.needAdj q.key q.home q.desc q.rcb q.rcbAsid = .ok v) (stalls : v.needBlock q = .error n) :
    exec (.adjointTileContribution q first vals) s = .next (s.stallReq q n (.adjointTileContribution q 0 vals)) := by
  simp only [exec, execAdjointTileContribution, mintAway_here here, tile, stalls, Bool.false_eq_true, if_false]

end Contribution

theorem quotaAndAdjointBlocks : Claims.QuotaAndAdjointBlocks := by
  intro s rcb asid first lower q vals
  exact ⟨rfl, fun here => ⟨fun v w => exec_adjointTileContribution_added first vals here, fun n => exec_adjointTileContribution_noTile first vals here,
    fun v n => exec_adjointTileContribution_noBlock first vals here⟩⟩

/-! ## Contributions to a tile (R248) -/

section Contributes

variable {s u : State} {c : Ctx} {i : Instr} {y : KeyReq} {vals : List (Nat × Nat)} {stage : Nat}

/-- The thread that contributes to a tile: counted once, waiting at a stage for the tile. -/
def Ctx.contributing (c : Ctx) (stage : Nat) (y : KeyReq) (vals : List (Nat × Nat)) : Ctx :=
  { c with pendc := c.pendc + 1, buf := contributionBytes vals, keyReq := some y, park := some .reply, parkSince := none, midway := true,
           stage := stage }

theorem State.contributeTile_here (here : y.desc.remote = false) (u : State) :
    u.contributeTile stage y vals = (u.setMe (u.me.contributing stage y vals)).post (.adjointTileContribution y 0 vals) := by
  rw [State.contributeTile, State.askMint_here here]
  simp only [State.asks, State.parkStage, State.me_setMe, State.setMe_setMe]
  rfl

/-- A contribution overwrites the request that its force has kept. -/
theorem State.contributeTile_after (here : y.desc.remote = false) (u : State) (x : Option KeyReq) :
    (u.setMe { u.me with keyReq := x }).contributeTile stage y vals =
      (u.setMe (u.me.contributing stage y vals)).post (.adjointTileContribution y 0 vals) := by
  rw [State.contributeTile_here here, State.me_setMe, State.setMe_setMe]
  rfl

theorem differs_contributing (same : u.me = c)
    (contributes : exec i s = .next ((u.setMe (u.me.contributing stage y vals)).post (.adjointTileContribution y 0 vals))) :
    ∃ t, exec i s = .next t ∧ Differs u t u.cur (c.contributing stage y vals) [.adjointTileContribution y 0 vals] := by
  subst same
  exact ⟨_, contributes, differs_post (differs_setCtx u u.cur _) _⟩

end Contributes

section Seed

variable {u : State} {c : Ctx} (same : u.me = c) {h : R5} {k : Key} {d : Desc} {e : Base} {sh : Shape} {q : KeyReq}
include same

theorem State.seedTile_empty (empty : c.target? h = none) : u.seedTile h k d = u.trap u.cur (c.opTrap 0x02 3) := by
  simp only [State.seedTile, same, empty]
  rfl

theorem State.seedTile_misshapen (names : c.target? h = some (e, sh)) (other : sh ≠ ⟨d.rows, d.cols, d.fmt, d.blk⟩) :
    u.seedTile h k d = u.trap u.cur ⟨0x07, 9, 0, keyPacked k⟩ := by
  have other : sh ≠ descShape d := other
  simp only [State.seedTile, same, names, other, ne_eq, not_false_eq_true, if_true]
  rfl

variable (names : c.target? h = some (e, ⟨d.rows, d.cols, d.fmt, d.blk⟩))
include names

theorem State.seedTile_done (contributed : c.stage = 2) : u.seedTile h k d = u.done := by
  simp only [State.seedTile, same, names, contributed, if_true]
  exact if_neg (not_not.2 rfl)

/-- The handle is forced whole, and then contributed. -/
theorem State.seedTile_forces (going : c.stage ≠ 2) (req : u.keyReqOf k d .contribute 0 = q) : u.seedTile h k d =
    (u.setMe { u.me with keyReq := some q }).withForce 1 h.toNat e ⟨0, d.rows - 1, 0, d.cols - 1⟩ id fun s vals =>
      s.contributeTile 2 q (tileContributions d.fmt vals) := by
  simp only [State.seedTile, same, names, going, req, if_false]
  exact if_neg (not_not.2 rfl)

end Seed

/-! ## A snapshot of an adjoint tile (R248, R264) -/

section Snap

variable {u : State} {c : Ctx} (same : u.me = c) {a : R5} {k : Key} {d : Desc} {q y : KeyReq}
include same

/-- The request for the next anonymous version of the issuing thread. -/
theorem State.anonReq_room (room : c.anon < 2 ^ 24) (sh : Shape) (use : KeyUse) : u.anonReq sh use =
    some (u.keyReqOf ⟨c.asid, 0xFFFF, (c.thid.extractLsb' 12 12).toNat, (c.thid.extractLsb' 0 12).toNat, c.anon⟩
      ⟨0xFFFF, sh.fmt, sh.rows, sh.cols, 4095, 4095, sh.blk, false, false, dieOf c.core, false, 0, 0⟩ use 0,
      u.setMe { u.me with anon := c.anon + 1 }) := by
  subst same
  simp only [State.anonReq, ge_iff_le, Nat.not_le.2 room, if_false, bitsOf_eq_extract _ 23 12 12, bitsOf_eq_extract _ 11 0 12]

theorem State.snapTile_reserves (fresh : c.stage = 0) (room : c.anon < 2 ^ 24)
    (req : u.keyReqOf ⟨c.asid, 0xFFFF, (c.thid.extractLsb' 12 12).toNat, (c.thid.extractLsb' 0 12).toNat, c.anon⟩
      ⟨0xFFFF, 0, d.rows, d.cols, 4095, 4095, 0, false, false, dieOf c.core, false, 0, 0⟩ (.snap d) 0 = q) :
    u.snapTile a k d = (u.setMe { u.me with anon := c.anon + 1 }).askMint 1 q (.mintReserve q) := by
  simp only [State.snapTile, same, fresh, State.reserveSnap, State.anonReq_room same room, req]

theorem State.snapTile_reads (reserved : c.stage = 1) (asked : c.keyReq = some y) (req : u.keyReqOf k d (.adjRead y.key y.home) 0 = q) :
    u.snapTile a k d = u.askMint 2 q (.mintReference q) := by
  simp only [State.snapTile, same, reserved, asked, req]

theorem State.snapTile_creates {m : Key} {h : Nat} (read : c.stage = 2) (asked : c.keyReq = some y) (use : y.use = .adjRead m h) :
    u.snapTile a k d =
      let z : KeyReq := { y with key := m, home := h, use := .snap d, desc := { y.desc with fmt := 0, blk := 0, remote := false, rdr := 0 } }
      u.askMint 3 z (.mintCreate z c.buf) := by
  simp only [State.snapTile, same, read, asked, use]
  rfl

theorem State.snapTile_binds (created : c.stage = 3) (asked : c.keyReq = some y) : u.snapTile a k d =
    State.done (State.bindHandle { u with serial := u.serial + 1 } u.cur a (.version ⟨u.serial, y.key, y.home, none, d.rows, d.cols, 0, 0, false⟩)) := by
  simp only [State.snapTile, State.bindSnap, same, created, asked]
  rfl

end Snap

/-! ## TGET in reverse (R248) -/

/-- A handle that names a version has its shape. -/
theorem Ctx.target?_ref {c : Ctx} {h : R5} {y : Ref} {g : Shape} (names : c.target? h = some (.ref y, g)) : g = y.shape := by
  rw [Ctx.target?] at names
  split at names
  · cases names
  · cases names
    rfl
  · simp at names

section Tget

variable {s : State} {f : F6} {a b p r : R5} {y : Ref} {g : Shape} (names : s.me.target? b = some (.ref y, g))
  (leaf : s.me.adjointLeaf (.ref y) = some y) (shape : g.fmt ≠ 5) (rows : f.getLsbD 4 = false) (clean : s.me.vPois = [])
include names leaf shape rows clean

theorem exec_tget_contributed (contributed : s.me.stage = 2) : exec (.tget f a b p r) s = .next s.done := by
  have accepted : (g.fmt == 5) = false := beq_eq_false_iff_ne.2 shape
  simp only [exec, execTget, names, accepted, leaf, rows, Ctx.runPoison_clean clean, contributed, Bool.and_false, Bool.false_and, Bool.or_false,
    Bool.false_eq_true, if_false, if_true]

theorem exec_tget_contributes (going : s.me.stage ≠ 2) {q : KeyReq} (req : { s.keyReqOf y.key (leafDesc y) .contribute 0 with home := y.home } = q) :
    exec (.tget f a b p r) s = .next (s.contributeTile 2 q (s.me.takeContributions a g
      (if f.getLsbD 3 then takeCols g (f.toNat % 8 + 1) (s.me.xr p).toNat (s.me.xr r).toNat
        else takeRows g (f.toNat % 8 + 1) (s.me.xr p).toNat (s.me.xr r).toNat))) := by
  have accepted : (g.fmt == 5) = false := beq_eq_false_iff_ne.2 shape
  simp only [exec, execTget, names, accepted, leaf, rows, Ctx.runPoison_clean clean, going, req, Bool.and_false, Bool.false_and, Bool.or_false,
    Bool.false_eq_true, if_false]

end Tget

/-! ## Reading an adjoint tile at its home (R248, R355) -/

section Adjoint

variable {s v : State} {x : KeyReq} {m : Nat} (own : x.peer = none) (here : x.desc.remote = false)
include here

theorem exec_mintReference_adjTake (use : x.use = .adjTake m) : exec (.mintReference x) s = .next (s.readAdjoint x (some m)) := by
  simp only [exec, execMintReference, use, mintAway_here here, Bool.false_eq_true, if_false]

omit here
variable (tile : s.needAdj x.key x.home x.desc x.rcb x.rcbAsid = .ok v)
include own tile

/-- A reading folds the tile's blocks first; one that releases the tile answers with the whole of it. -/
theorem State.readAdjoint_released : s.readAdjoint x none =
    let w := v.foldBlocks x.home x.key
    (w.dropAdj x.key x.home).post (.mintReplyArrival x (.tile ((w.adjVals x.key x.home (x.desc.rows * x.desc.cols)).flatMap (bytesOf 4)))) := by
  simp only [State.readAdjoint, tile, State.mintReply_own own]

/-- One that clears elements answers with those, and with zeros beyond the tile's last element. -/
theorem State.readAdjoint_cleared : s.readAdjoint x (some m) =
    let w := v.foldBlocks x.home x.key
    let vs := w.adjVals x.key x.home (x.desc.rows * x.desc.cols)
    (w.modEntry x.key x.home fun e => { e with
      adj := e.adj.map fun z => { z with vals := z.vals.zipIdx.map fun o => if o.2 < m then 0 else o.1 } }).post
        (.mintReplyArrival x (.tile ((vs.take m ++ List.replicate (m - vs.length) 0).flatMap (bytesOf 4)))) := by
  simp only [State.readAdjoint, tile, State.mintReply_own own]

end Adjoint

theorem exec_mintReplyArrival_tile {s : State} {x : KeyReq} {bs : List Byte} (asked : (s.ctx x.src.tid).keyReq = some x)
    (reads : (∃ m, x.use = .adjTake m) ∨ (∃ m h, x.use = .adjRead m h)) :
    exec (.mintReplyArrival x (.tile bs)) s = .next ((s.modCtx x.src.tid fun c => { c with buf := bs }).wakeAgain x.src.tid) := by
  rcases reads with ⟨m, use⟩ | ⟨m, h, use⟩ <;> simp [exec, execMintReplyArrival, mintTraps, use, asked]

/-- An instruction completes by any function that does to the issuing thread what its ending does. -/
theorem completesFrom_of_finish {i : Instr} {s u : State} {f g : Ctx → Ctx} (ends : exec i s = .next (u.finish f)) (same : f u.me = g u.me) :
    CompletesFrom i s u g [] :=
  ⟨_, ends.trans (by rw [State.finish, same]; rfl), differs_setCtx _ _ _⟩

/-! ## The claims -/

/-- The reverse forms and the remote forms by their stages, the readings of a tile at its home, and their answer. -/
theorem reverseAndRemoteTiles : Claims.ReverseAndRemoteTiles := by
  intro s u f a b p r ko d x
  dsimp only
  refine ⟨fun passed me cur ticks => ?_, fun y g names rev diff fmt home rows clean => ?_,
    fun own here v tile => ⟨fun m h use => (exec_mintReference_adjRead here use).trans (congrArg _ (State.readAdjoint_released own tile)),
      fun m use => (exec_mintReference_adjTake here use).trans (congrArg _ (State.readAdjoint_cleared own tile))⟩,
    fun bs asked => exec_mintReplyArrival_tile asked⟩
  · have req (k : Key) (w : Desc) (use : KeyUse) (rdr : Nat) := State.keyReqOf_eq me k w use rdr
    rw [ticks] at req
    have stage {n : Nat} (h : s.me.stage = n) : u.me.stage = n := me.symm ▸ h
    refine ⟨fun rev diff fmt here => ?_, fun away => ?_⟩
    · have reverse : s.me.reverseOn d := by simp [Ctx.reverseOn, rev, diff, fmt]
      have seeds := exec_tld_seeds (a := a) passed reverse
      have snaps := exec_tst_snaps (a := a) rfl passed reverse
      refine ⟨fun empty => seeds.trans (congrArg _ (State.seedTile_empty me empty)),
        fun e g names other => seeds.trans (congrArg _ (State.seedTile_misshapen me names other)), fun e names => ?_,
        fun fresh => asksMint_of here (exec_tstv_takes rfl passed reverse fresh (req ..)),
        fun answered => completesFrom_of_finish (exec_tstv_lands rfl passed reverse answered) (by simp only [me]),
        fun fresh room => asksMint_of rfl (snaps.trans (congrArg _ (State.snapTile_reserves me fresh room (req ..)))),
        fun y reserved asked => asksMint_of here (snaps.trans (congrArg _ (State.snapTile_reads me reserved asked (req ..)))),
        fun y m h read asked use => asksMint_of rfl (snaps.trans (congrArg _ (State.snapTile_creates me read asked use))),
        fun y created asked => snaps.trans (congrArg _ (State.snapTile_binds me created asked))⟩
      refine ⟨fun contributed => completesFrom_done (seeds.trans (congrArg _ (State.seedTile_done me names contributed))),
        fun going idle => ?_, fun g going forced => ?_⟩
      all_goals have forces := seeds.trans (congrArg _ (State.seedTile_forces me names going (req ..)))
      · exact forces.trans (congrArg _ (State.withForce_begins (by rw [State.me_setMe, me, idle]) ..))
      · have kept (z : Option KeyReq) : Forced (u.setMe { u.me with keyReq := z }) g :=
          forced_congr (by rw [State.me_setMe, ← me]) forced
        exact differs_contributing me ((forces.trans (congrArg _ (State.withForce_forced (kept _) ..))).trans
          (congrArg _ (State.contributeTile_after here u _)))
    · refine ⟨fun forward fresh => sendsKey rfl (sends_of_askMint away (exec_tld_asks passed forward fresh (req ..))), fun forward answered => ?_,
        fun fresh => ⟨sendsKey rfl (sends_of_askMint away (exec_tdrop_asks passed fresh (req ..))),
          sendsKey rfl (sends_of_askMint away (exec_tdropAll_asks passed fresh (req ..)))⟩,
        fun fresh => sendsKey rfl (sends_of_askMint away (exec_tqry_asks passed away fresh (req ..))),
        fun answered => completesFrom_finish (exec_tqry_lands passed answered), fun e forward names => ?_, fun forward plain clean => ?_⟩
      · rw [exec_tld_binds passed forward answered, away]
        rfl
      · have stores := exec_tst_stores rfl passed forward names
        exact ⟨fun fresh => sendsKey rfl (sends_of_askMint away (stores.trans (congrArg _ (State.storeVersion_reserves (req ..) (stage fresh))))),
          fun g reserved forced => sendsKey rfl (sends_of_createVersion away ((stores.trans (congrArg _
            (State.storeVersion_makes (req ..) (stage reserved)))).trans
              (congrArg _ (State.withForce_forced (forced_congr (congrArg Ctx.force me) forced) ..))))⟩
      · have stores := exec_tstv_stores (f := f) (a := a) rfl passed forward (fun fmt => absurd fmt plain) clean
        exact ⟨fun fresh => sendsKey rfl (sends_of_askMint away (stores.trans (congrArg _ (State.storeVersion_reserves (req ..) (stage fresh))))),
          fun reserved => sendsKey rfl (sends_of_createVersion away (stores.trans (congrArg _
            (State.storeVersion_makes (req ..) (stage reserved)))))⟩
  · have shape := Ctx.target?_ref names
    have leaf : s.me.adjointLeaf (.ref y) = some y := by simp [Ctx.adjointLeaf, rev, diff, fmt]
    have blocks : g.fmt ≠ 5 := by
      rw [shape]
      exact Nat.ne_of_lt fmt
    have here : (leafDesc y).remote = false := by rw [leafDesc, home]; rfl
    exact ⟨fun contributed => completesFrom_done (exec_tget_contributed names leaf blocks rows clean contributed),
      fun going => differs_contributing rfl ((exec_tget_contributes names leaf blocks rows clean going rfl).trans
        (congrArg _ (State.contributeTile_here here s)))⟩

/-- Settles O26, claim by claim. -/
theorem versionStoresAndQuota : Obligations.VersionStoresAndQuota :=
  ⟨versionRequests, versionStores, quotaAndAdjointBlocks, reverseAndRemoteTiles⟩

end Sys2Proof.Machine
end

section
/-! PROOFS. The machine right after reset (O52): its tables hold nothing, so each unit reads as it leaves reset (R379, R397, R445). -/

namespace Sys2Proof.Machine

set_option Elab.async false

/-- Settles O52: what is looked up in an empty table is the unit's initial value. -/
theorem resetState : Obligations.ResetState := by
  refine ⟨reset_wf, fun a => ?_, rfl, rfl, rfl, rfl, rfl, rfl, rfl, rfl, rfl, rfl, rfl, rfl, fun d => ?_, fun l => ?_, fun q => ?_⟩
  · rfl
  · exact ⟨rfl, rfl, rfl, rfl⟩
  · exact ⟨rfl, rfl⟩
  · exact ⟨rfl, rfl, rfl⟩

end Sys2Proof.Machine
end

section
/-! PROOFS. Regions (O39): a changed table is posted to every core of its space (R352, R357), and each form of DREG by what its slot holds. -/

namespace Sys2Proof.Machine

set_option Elab.async false

/-- Messages of the issuing thread that go out one after another. -/
theorem State.foldl_post_cur {α : Type} (f : Nat → α → Event) (l : List α) (s : State) :
    l.foldl (fun s q => s.post (f s.cur q)) s = (l.map (f s.cur)).foldl State.post s := by
  induction l generalizing s with
  | nil => rfl
  | cons q l ih => exact ih (s.post (f s.cur q))

/-- The machine with a space's region slots replaced (R352). -/
def State.withRegions (s : State) (n : SMap Region) : State := { s with regionTables := s.regionTables.set s.me.asid n }

/-- The cores that hold a copy of the issuing thread's region slots (R352). -/
def State.regionCores (s : State) : List Nat := (s.cores.filter fun e => e.2.padAsid == some s.me.asid).map Prod.fst

/-- A changed table: the thread moves on, and the cores' updates and the result are on their way (R357). -/
theorem State.changeRegions_differs (s : State) (a : R5) (w : Word) (n : SMap Region) :
    Differs (s.withRegions n) (s.changeRegions a w n) s.cur (s.me.pendX a).advance
      (s.regionCores.map (fun q => .regionTableUpdateAtCore s.cur q s.me.asid) ++ [.longResultArrival (Reply.of s.cur [.x a w none] false)]) := by
  have sent : s.changeRegions a w n = State.doneLong ((s.regionCores.map fun q => Event.regionTableUpdateAtCore s.cur q s.me.asid).foldl State.post
      (s.withRegions n)) a w :=
    congrArg (State.doneLong · a w) (State.foldl_post_cur (fun cur q => .regionTableUpdateAtCore cur q s.me.asid) s.regionCores (s.withRegions n))
  rw [sent, State.post_foldl]
  refine differs_post ⟨State.setMe_ctx _ _, fun k other => ?_, rfl, rfl⟩ _
  exact State.setMe_ctx_other _ k _ other

/-- DREG past the read of its descriptor (R357). -/
theorem exec_dreg_read {s : State} {a b : R5} (read : s.me.stage ≠ 0) : exec (.dreg a b) s = .next (match regionOfBytes s.me.buf with
    | none => s.doneLong a 1
    | some r => if rangesMeet r.base (r.cnt * r.width) r.adj (4 * r.cnt) || (s.regionTable s.me.asid).any (fun e => e.2.overlaps r) then s.doneLong a 2
      else match (List.range 16).find? fun k => ((s.regionTable s.me.asid).find? k).isNone with
        | none => s.doneLong a 3
        | some k => s.changeRegions a (BitVec.ofNat 64 (256 * k)) ((s.regionTable s.me.asid).set k r)) := by
  change execDreg a b s = _
  simp only [execDreg, if_neg read] <;> rfl

/-- Settles O39: a descriptor by what `regionOfBytes` makes of it, a slot by what the table holds there, a core by the space of its pool. -/
theorem regions : Obligations.Regions := by
  intro s a b r core asid tid
  dsimp only
  refine ⟨fun first => if_pos first, fun read malformed => ?_, fun read formed => ⟨fun bad => ?_, fun good full => ?_, fun good n inside free used => ?_⟩,
    fun empty => ⟨?_, ?_⟩, fun found => ⟨⟨_, ?_, s.changeRegions_differs a 0 _⟩, ?_⟩, rfl⟩
  · refine completesLong_doneLong ?_
    rw [exec_dreg_read read, malformed]
  · refine completesLong_doneLong ?_
    rw [exec_dreg_read read, formed]
    exact congrArg _ (if_pos bad)
  · refine completesLong_doneLong ?_
    have none : (List.range 16).find? (fun k => ((s.regionTable s.me.asid).find? k).isNone) = none :=
      List.find?_eq_none.2 fun k hk => by simpa [State.regionTable, Option.isSome_iff_ne_none] using full k (List.mem_range.1 hk)
    rw [exec_dreg_read read, formed]
    refine congrArg _ ((if_neg (Bool.eq_false_iff.1 good)).trans ?_)
    rw [none]
  · refine ⟨_, ?_, s.changeRegions_differs a _ _⟩
    have first : (List.range 16).find? (fun k => ((s.regionTable s.me.asid).find? k).isNone) = some n :=
      find?_range_first inside (Option.isNone_iff_eq_none.2 free) fun j hj => by simpa [State.regionTable, Option.isSome_iff_ne_none] using used j hj
    rw [exec_dreg_read read, formed]
    refine congrArg _ ((if_neg (Bool.eq_false_iff.1 good)).trans ?_)
    rw [first]
    rfl
  · refine completesLong_doneLong ?_
    change execDregU a b s = _
    simp only [execDregU, State.regionTable, Ctx.regionSlot, empty]
  · refine completesLong_doneLong ?_
    change execDregQ a b s = _
    simp only [execDregQ, State.regionTable, Ctx.regionSlot, empty]
  · change execDregU a b s = _
    simp only [execDregU, State.regionTable, Ctx.regionSlot, found]
  · refine completesLong_doneLong ?_
    change execDregQ a b s = _
    simp only [execDregQ, State.regionTable, Ctx.regionSlot, found]

end Sys2Proof.Machine
end

section
/-! PROOFS. The tape (O41): what TAPE.POP and TAPE.REWIND do at each stage, by the pop that both share (R362 to R364). -/

namespace Sys2Proof.Machine

set_option Elab.async false

/-- What makes a tape entry malformed: its width, its high slot bits, or an old value that its width does not hold (R364). -/
theorem entryBad_iff (e : List Byte) : entryBad e = true ↔
    (field e 12 1 ≠ 2 ∧ field e 12 1 ≠ 4) ∨ 16 ≤ field e 13 1 ∨ 2 ^ (8 * field e 12 1) ≤ field e 8 4 := by
  simp [entryBad, or_assoc]

/-- Entries of the tape below its pointer, 16 bytes each (R364). -/
theorem tapeEntries_eq (p b : Word) (h : b.toNat ≤ p.toNat) : (p - b) >>> 4 = BitVec.ofNat 64 ((p.toNat - b.toNat) / 16) := by
  apply BitVec.eq_of_toNat_eq
  rw [BitVec.toNat_ushiftRight, BitVec.toNat_sub_of_le h, Nat.shiftRight_eq_div_pow, BitVec.toNat_ofNat, Nat.mod_eq_of_lt]
  have := p.isLt
  omega

section Pop

variable {s : State} {bad k : State → State} {p : Place}

theorem State.popEntry_reads (stage : s.me.stage = 0) (acks : s.me.ackc = 0) : s.popEntry bad k = s.readEntry := by
  simp [State.popEntry, stage, acks]

theorem State.popEntry_bad (stage : s.me.stage = 1) (malformed : entryBad s.me.buf = true) : s.popEntry bad k = bad s := by
  simp [State.popEntry, stage, malformed]

theorem State.popEntry_restores (stage : s.me.stage = 1) (formed : entryBad s.me.buf = false) : s.popEntry bad k = s.restore := by
  simp [State.popEntry, stage, formed]

theorem State.popEntry_waits (stage : s.me.stage = 2) (acks : s.me.ackc ≠ 0) : s.popEntry bad k = s.parkMe .acks := by
  simp [State.popEntry, stage, acks]

theorem State.popEntry_done (stage : s.me.stage = 2) (acks : s.me.ackc = 0) :
    s.popEntry bad k = k (s.setMe { s.me with tapep := s.me.tapep - 16, hold := s.me.hold + 1 }) := by
  simp [State.popEntry, stage, acks]

end Pop

/-- After its first stage an instruction of the tape goes on with the pop. -/
theorem exec_tapePop_later {s : State} {a : R5} (stage : s.me.stage ≠ 0) :
    exec (.tapePop a) s = .next (s.popEntry (·.doneLong a 3) (·.doneLong a 0)) := by
  change execTapePop a s = _
  simp [execTapePop, stage]

theorem exec_tapeRewind_later {s : State} {a b : R5} (stage : s.me.stage ≠ 0) :
    exec (.tapeRewind a b) s = .next (s.popEntry (·.doneLong a (BitVec.ofNat 64 (2 ^ 63 + 3))) fun t =>
      if t.me.tapep = s.me.xr b then t.doneLong a t.me.hold else t.readEntry) := by
  change execTapeRewind a b s = _
  simp only [execTapeRewind, stage, false_and, if_false]

/-- The pop of a formed entry restores its old value at the place of its address (R364). -/
theorem State.restore_eq {s : State} {p : Place} (placed : s.place s.me { n := field s.me.buf 12 1, w := true, store := true } 0
    (BitVec.ofNat 64 (field s.me.buf 0 8)) 0 = .ok p) :
    let v := (s.settle s.me.core s.me.asid true p).storeLanes s.src s.me.slot true
      [({ p.lane with bad := s.me.bufBad.getD 1 false }, field s.me.buf 8 4)]
    s.restore = v.setMe { v.me with stage := 2, midway := true, park := some .acks } := by
  rw [State.restore, placed]

/-- Settles O41: the forms that only read the pointer, the bounds that each form checks first, and the pop by its stages. -/
theorem tape : Obligations.Tape := by
  intro s a b p src entry addr old width slot tag poison
  dsimp only
  refine ⟨completes_finish rfl, ?_, fun stage => ⟨fun empty => ?_, fun some outside => ?_, fun some above inside acks => ?_, fun outside => ?_,
      fun here aligned above => ?_, fun aligned above below acks => ?_⟩,
    fun stage => ⟨fun malformed => ?_, fun formed => ?_⟩, fun stage acks => ?_, fun stage acks => ⟨?_, fun last => ?_, fun more => ?_⟩, rfl⟩
  · refine completes_finish ?_
    change execTapeQuery a s = _
    simp only [execTapeQuery, State.finish]
    split
    next below => rfl
    next above => rw [tapeEntries_eq _ _ (Nat.le_of_not_lt above)]
  · refine completesLong_doneLong ?_
    change execTapePop a s = _
    simp only [execTapePop, stage, empty, and_self, if_true]
  · refine completesLong_doneLong ?_
    change execTapePop a s = _
    simp only [execTapePop, stage, some, outside, gt_iff_lt, and_false, and_self, if_false, if_true]
  · change execTapePop a s = _
    simp only [execTapePop, stage, some, above, Nat.not_lt.2 inside, or_self, and_false, if_false, State.popEntry_reads stage acks]
  · refine completesLong_doneLong ?_
    change execTapeRewind a b s = _
    simp only [execTapeRewind, stage, outside, gt_iff_lt, and_self, if_true]
  · refine completesLong_doneLong ?_
    change execTapeRewind a b s = _
    rw [here] at aligned
    simp only [execTapeRewind, stage, here, aligned, above, gt_iff_lt, ne_eq, not_true, lt_irrefl, or_self, and_false, and_self, if_false, if_true]
  · change execTapeRewind a b s = _
    have other : s.me.xr b ≠ s.me.tapep := fun same => absurd below (same ▸ lt_irrefl _)
    simp only [execTapeRewind, stage, aligned, Nat.not_lt.2 above, Nat.not_lt.2 below.le, other, ne_eq, not_true, or_self, and_false, if_false,
      if_true]
    refine congrArg _ (State.popEntry_reads ?_ ?_)
    · rw [State.me_setMe, ← stage]
    · rw [State.me_setMe, ← acks]
  · have bad := (entryBad_iff _).2 malformed
    have later : s.me.stage ≠ 0 := by omega
    exact ⟨completesLong_doneLong ((exec_tapePop_later later).trans (congrArg _ (State.popEntry_bad stage bad))),
      completesLong_doneLong ((exec_tapeRewind_later later).trans (congrArg _ (State.popEntry_bad stage bad)))⟩
  · have good : entryBad s.me.buf = false := Bool.eq_false_iff.2 fun bad => formed ((entryBad_iff _).1 bad)
    have later : s.me.stage ≠ 0 := by omega
    exact ⟨fun placed => (exec_tapePop_later later).trans (congrArg _ ((State.popEntry_restores stage good).trans (State.restore_eq placed))),
      fun placed => (exec_tapeRewind_later later).trans (congrArg _ ((State.popEntry_restores stage good).trans (State.restore_eq placed)))⟩
  · have later : s.me.stage ≠ 0 := by omega
    rw [← stage]
    exact ⟨waitsFrom_parkMe ((exec_tapePop_later later).trans (congrArg _ (State.popEntry_waits stage acks))),
      waitsFrom_parkMe ((exec_tapeRewind_later later).trans (congrArg _ (State.popEntry_waits stage acks)))⟩
  all_goals have later : s.me.stage ≠ 0 := by omega
  · exact completesLong_doneLong ((exec_tapePop_later later).trans (congrArg _ (State.popEntry_done stage acks)))
  · refine completesLong_doneLong ((exec_tapeRewind_later later).trans (congrArg _ ((State.popEntry_done stage acks).trans ?_)))
    rw [State.me_setMe, if_pos last]
  · refine (exec_tapeRewind_later later).trans (congrArg _ ((State.popEntry_done stage acks).trans ?_))
    rw [State.me_setMe, if_neg more]

end Sys2Proof.Machine
end

section
/-! PROOFS. System control (O44): TLBI by its stage, a shootdown of everything, CTXSW and PREEMPT by their endings, and what a halt and a release
of a subtree do to cores and contexts (R388, R402 to R405). -/

namespace Sys2Proof.Machine

set_option Elab.async false

/-- A field of a word, as a remainder of a quotient. -/
theorem bitsOf_eq_div (n h l : Nat) : bitsOf n h l = n / 2 ^ l % 2 ^ (h + 1 - l) := by rw [bitsOf, Nat.shiftRight_eq_div_pow]

/-! ## TLBI (R402) -/

section Tlbi

variable {s u : State} {sc : BitVec 3} {asid : Option Nat} {range : Option (Nat × Nat)}

theorem State.tlbi_asks (first : s.me.stage ≠ 9) (released : s.relPart (if sc = 0 then 1 else sc.toNat) 0 = .ok u) :
    s.tlbi sc asid range false = .next (u.askCores (s.scopeCores s.me.core (if sc = 0 then 1 else sc.toNat))
      fun q => .tlbiShootdownAtCore u.cur q asid range) := by
  simp only [State.tlbi, if_neg first, released]
  rfl

theorem State.tlbi_nothing (first : s.me.stage ≠ 9) (released : s.relPart (if sc = 0 then 1 else sc.toNat) 0 = .ok u) :
    s.tlbi sc asid range true = .next u.done := by
  simp only [State.tlbi, if_neg first, released]
  rfl

theorem State.tlbi_last {empty : Bool} (last : s.me.stage = 9) : s.tlbi sc asid range empty = .next
    ((s.scopeCores s.me.core (if sc = 0 then 1 else sc.toNat)).foldl (fun s q => s.shootDown asid range q) s).done := by
  simp only [State.tlbi, if_pos last]

end Tlbi

/-- A shootdown of everything leaves no translation in the core, its cell and its die. -/
theorem State.shootDown_all (s : State) (core : Nat) : ((s.shootDown none none core).core core).tlb = [] ∧
    ((s.shootDown none none core).cell (core / 8)).tlb = [] ∧ ((s.shootDown none none core).die (dieOf core)).tlb = [] := by
  refine ⟨?_, ?_, ?_⟩
  · simp [State.shootDown, State.core, State.setDie, State.refetch, State.setCell, State.setCore, dropEntries]
  · simp [State.shootDown, State.cell, State.setDie, State.refetch, State.setCell, State.setCore, dropEntries, cellOf]
  · simp [State.shootDown, dropEntries]

/-! ## CTXSW (R403) -/

/-- A held thread goes to a core that may take it, under a valid space and within every level's budget (R403). -/
theorem State.ctxsw_fits {s : State} {core asid rcb : Nat} {split : Nat × Nat} :
    (s.mayTake core asid split && s.asidValid asid && s.contextFits rcb asid) = true ↔
      s.mayTake core asid split = true ∧ s.asidValid asid = true ∧ s.contextFits rcb asid = true := by
  simp [and_assoc]

/-! ## GANG.HALT (R388, R405) -/

/-- What GANG.HALT does for one core: the halt reaches it after a free number of cycles, at most 64. -/
def State.haltCore (rcb : Nat) (s : State) (q : Nat × Core) : State :=
  s.draw.2.at (s.draw.2.pcyc + 1 + s.draw.1.toNat % 64) (.haltTreeArrival s.draw.2.cur q.1 rcb)

/-- The halts of a list of cores: only timers and the count of free values change. -/
theorem State.foldl_haltCore (rcb : Nat) (l : List (Nat × Core)) (s : State) : ∃ n ts, l.foldl (State.haltCore rcb) s =
      { s with draws := n, timers := s.timers ++ ts } ∧ ts.map Prod.snd = l.map (fun q => .haltTreeArrival s.cur q.1 rcb) ∧
      ∀ e ∈ ts, s.pcyc < e.1 ∧ e.1 ≤ s.pcyc + 64 := by
  induction l generalizing s with
  | nil => exact ⟨s.draws, [], by simp, rfl, by simp⟩
  | cons q l ih =>
    obtain ⟨n, ts, fold, events, bounds⟩ := ih (s.haltCore rcb q)
    refine ⟨n, (s.pcyc + 1 + s.draw.1.toNat % 64, .haltTreeArrival s.cur q.1 rcb) :: ts, ?_, congrArg (_ :: ·) events, ?_⟩
    · rw [List.foldl_cons, fold]
      simp [State.haltCore, State.at, State.draw]
    · intro e he
      rcases List.mem_cons.1 he with rfl | he
      · exact ⟨by simp only; omega, by simp only; omega⟩
      · exact bounds e he

theorem exec_gangHalt_first {s : State} {a b : R5} (first : s.me.stage ≠ 9) : exec (.gangHalt a b) s =
    .next (let t := s.cores.foldl (State.haltCore (s.me.xr b).toNat) { s with halts := s.haltsAfter s.me.asid (s.me.xr b).toNat true }
      t.setMe { t.me with hold := 0, stage := 9, awaits := t.cores.length, park := some .plane6 }) := by
  change execGangHalt a b s = _
  simp only [execGangHalt, if_neg first]
  rfl

/-! ## GANG.RESUME (R405) -/

/-- A context that a release frees goes on, under its park limit again (R388, R405). -/
def State.freeContext (s : State) (tid : Nat) : State := (s.modCtx tid fun c => { c with halted := false }).limitAgain tid

theorem State.ctx_modCtx (s : State) (tid k : Nat) (f : Ctx → Ctx) : (s.modCtx tid f).ctx k = if k = tid then f (s.ctx k) else s.ctx k := by
  split
  next same => rw [State.modCtx, same, State.ctx_setCtx]
  next other => rw [State.modCtx, State.ctx_setCtx_other _ _ _ _ other]

theorem State.limitAgain_ctx (s : State) (tid k : Nat) : (s.limitAgain tid).ctx k = s.ctx k := by
  rw [State.limitAgain]
  split <;> rfl

theorem State.freeContext_ctx (s : State) (tid k : Nat) :
    (s.freeContext tid).ctx k = if k = tid then { s.ctx k with halted := false } else s.ctx k := by
  rw [State.freeContext, State.limitAgain_ctx, State.ctx_modCtx]

/-- What a release of contexts leaves of the machine beside them. -/
def State.besideContexts (s : State) : List (Nat × Nat × Bool) × List Host.Cell × SMap Core := (s.halts, s.mem, s.cores)

theorem State.freeContext_besideContexts (s : State) (tid : Nat) : (s.freeContext tid).besideContexts = s.besideContexts := by
  rw [State.freeContext, State.limitAgain]
  split <;> rfl

/-- A freed context stands where it stood. -/
theorem State.freeContext_stands (s : State) (tid k : Nat) :
    (((s.freeContext tid).ctx k).line, ((s.freeContext tid).ctx k).pc) = ((s.ctx k).line, (s.ctx k).pc) := by
  rw [State.freeContext_ctx]
  split <;> rfl

theorem SMap.mem_of_find? {α : Type} {m : SMap α} {k : Nat} {v : α} (h : m.find? k = some v) : (k, v) ∈ m := by
  induction m with
  | nil => exact absurd h (by simp [SMap.find?])
  | cons e r ih =>
    obtain ⟨j, w⟩ := e
    rw [SMap.find?] at h
    split at h
    next same => rw [same, Option.some.inj h]; exact List.mem_cons_self
    next => exact List.mem_cons_of_mem _ (ih h)

/-- A halted thread stands in the table of threads. -/
theorem State.mem_threads_of_halted {s : State} {k : Nat} (halted : (s.ctx k).halted = true) : (k, s.ctx k) ∈ s.threads := by
  cases found : s.threads.find? k with
  | none =>
    rw [State.ctx, SMap.get, found] at halted
    exact absurd halted (by decide)
  | some c =>
    rw [State.ctx, SMap.get, found]
    exact SMap.mem_of_find? found

/-- No context of a list is halted once all its members are freed, and none that was not halted before. -/
theorem State.foldl_freeContext_halted (l : List Nat) (s : State) {k : Nat} (h : k ∈ l ∨ (s.ctx k).halted = false) :
    ((l.foldl State.freeContext s).ctx k).halted = false := by
  have keeps (t : State) (x : Nat) (free : (t.ctx k).halted = false) : ((t.freeContext x).ctx k).halted = false := by
    rw [State.freeContext_ctx]
    split
    · rfl
    · exact free
  rcases h with here | free
  · exact foldl_reaches (fun t : State => (t.ctx k).halted = false) (fun t => by rw [State.freeContext_ctx, if_pos rfl]) keeps here s
  · exact List.foldlRecOn l State.freeContext free fun t h x _ => keeps t x h

/-- The halted contexts of the subtree that a register names (R388, R405). -/
def State.heldBelow (s : State) (b : R5) : List Nat :=
  (s.threads.filter fun e => e.2.halted && s.inSubtree s.me.asid (s.me.xr b).toNat e.2.rcb.toNat e.2.asid).map Prod.fst

theorem State.mem_heldBelow {s : State} {b : R5} {k : Nat} (halted : (s.ctx k).halted = true)
    (below : s.inSubtree s.me.asid (s.me.xr b).toNat (s.ctx k).rcb.toNat (s.ctx k).asid = true) : k ∈ s.heldBelow b :=
  List.mem_map.2 ⟨_, List.mem_filter.2 ⟨State.mem_threads_of_halted halted, by simp [halted, below]⟩, rfl⟩

theorem exec_gangResume (s : State) (a b : R5) : exec (.gangResume a b) s =
    .next (((s.heldBelow b).foldl State.freeContext { s with halts := s.haltsAfter s.me.asid (s.me.xr b).toNat false }).doneLong a
      (BitVec.ofNat 64 (s.threads.filter fun e => e.2.halted && s.inSubtree s.me.asid (s.me.xr b).toNat e.2.rcb.toNat e.2.asid).length)) := by
  rw [← List.length_map (f := Prod.fst)]
  rfl

/-! ## HALT_TREE_ARRIVAL (R388) -/

/-- A count latched at a halt has grown by at most eight messages a cycle since the last one. -/
theorem State.latched_grows (s : State) (core old : Nat) : ∃ d, d ≤ 8 * (s.pcyc - (s.core core).cycle0 - (s.core core).latch.1) ∧
    (s.latched core old).1 = (old + d) % 2 ^ 48 :=
  ⟨_, Nat.le_of_lt_succ (Nat.mod_lt _ (Nat.succ_pos _)), rfl⟩

/-- A halted context. -/
def State.haltContext (s : State) (tid : Nat) : State := s.modCtx tid fun c => { c with halted := true }

/-- The core's latches and the subtree's contexts when a halt has arrived, before it is acknowledged. -/
def State.haltedAt (s : State) (tid core rcb : Nat) : State :=
  let i := s.latched core (s.core core).latch.2.1
  let e := i.2.latched core (i.2.core core).latch.2.2.1
  let u := (s.gangOf core (s.ctx tid).asid rcb).foldl State.haltContext e.2
  u.setCore core { u.core core with latch := (u.pcyc - (u.core core).cycle0, i.1, e.1, true) }

theorem State.haltedAt_core (s : State) (tid core rcb : Nat) : ((s.haltedAt tid core rcb).core core).latch =
    (s.pcyc - (s.core core).cycle0, (s.latched core (s.core core).latch.2.1).1,
      ((s.latched core (s.core core).latch.2.1).2.latched core (s.core core).latch.2.2.1).1, true) := by
  have pcyc (l : List Nat) (t : State) : (l.foldl State.haltContext t).pcyc = t.pcyc := foldl_keeps State.pcyc State.haltContext (fun _ _ => rfl) l t
  have cores (l : List Nat) (t : State) : (l.foldl State.haltContext t).core core = t.core core :=
    foldl_keeps (fun s : State => s.core core) State.haltContext (fun _ _ => rfl) l t
  simp only [State.haltedAt, State.core_setCore]
  rw [pcyc, cores]
  rfl

theorem State.haltedAt_halted (s : State) (tid core rcb : Nat) {k : Nat} (mine : k ∈ s.gangOf core (s.ctx tid).asid rcb) :
    ((s.haltedAt tid core rcb).ctx k).halted = true := by
  refine foldl_reaches (f := State.haltContext) (fun t : State => (t.ctx k).halted = true) (fun t => ?_) (fun t x halted => ?_) mine _
  · rw [State.haltContext, State.ctx_modCtx, if_pos rfl]
  · rw [State.haltContext, State.ctx_modCtx]
    split
    · rfl
    · exact halted

/-- A halt's answer changes the thread that asked for it, and may have the halt delivered; no core and no halted context. -/
theorem exec_haltTreeArrival (s : State) (tid core rcb : Nat) : ∃ t, exec (.haltTreeArrival tid core rcb) s = .next t ∧
    t.cores = (s.haltedAt tid core rcb).cores ∧ ∀ k, (t.ctx k).halted = ((s.haltedAt tid core rcb).ctx k).halted := by
  let n := (s.gangOf core (s.ctx tid).asid rcb).length
  let u := ((s.haltedAt tid core rcb).modCtx tid fun c => { c with hold := c.hold + BitVec.ofNat 64 n }).ackPlane6 tid
  have kept (k : Nat) : (u.ctx k).halted = ((s.haltedAt tid core rcb).ctx k).halted := by
    simp only [u, State.ackPlane6, State.ctx_modCtx]
    split <;> rfl
  have answers : exec (.haltTreeArrival tid core rcb) s = .next (if (u.ctx tid).awaits = 0 then
      u.deliver { rcb := rcb, asid := (s.ctx tid).asid, code := trapGangHalt, pc := 0, thid := 0, addr := BitVec.ofNat 64 rcb, q := [], done := 0,
                  home := rcb, redir := false, waited := false } else u) := rfl
  refine ⟨_, answers, ?_, fun k => ?_⟩
  · split <;> rfl
  · split <;> exact kept k

/-- Settles O44, instruction by instruction. -/
theorem systemControl : Obligations.SystemControl := by
  intro s u a b x l sc tid core slot rcb asid range hold
  dsimp only
  have asks (i : Instr) (asid : Option Nat) (range : Option (Nat × Nat)) (h : exec i s = s.tlbi sc asid range false) :=
    And.intro (fun first released => h.trans (State.tlbi_asks (u := u) first released)) fun last => h.trans (State.tlbi_last last)
  obtain ⟨coreEmpty, cellEmpty, dieEmpty⟩ := s.shootDown_all core
  refine ⟨⟨asks _ _ _ rfl, asks _ _ _ rfl, asks _ _ _ rfl, fun some short => asks _ _ _ ?_, fun long => asks _ _ _ ?_⟩, fun none first released => ?_,
    ⟨fun left => ?_, fun busy => ?_⟩, coreEmpty, cellEmpty, dieEmpty, ?_, ?_, waitsFrom_parkMe_post ?_, waitsFrom_parkMe_post ?_, fun empty => ?_,
    fun t found => ?_, fun last => ?_, ⟨fun first => ?_, ?_⟩, ?_, ?_⟩
  · change execTlbiRange sc b x l s = _
    simp only [execTlbiRange, beq_eq_false_iff_ne.2 some, gt_iff_lt, Nat.not_lt.2 short, if_false]
    rfl
  · change execTlbiRange sc b x l s = _
    have some : (s.me.xr l).toNat ≠ 0 := by omega
    simp only [execTlbiRange, beq_eq_false_iff_ne.2 some, gt_iff_lt, long, if_true]
    rfl
  · refine completesFrom_done ?_
    change execTlbiRange sc b x l s = _
    simp only [execTlbiRange, beq_iff_eq.2 none]
    exact State.tlbi_nothing first released
  · change execTlbiShootdownAtCore tid core asid range s = _
    simp only [execTlbiShootdownAtCore, left, Bool.false_eq_true, if_false]
  · change execTlbiShootdownAtCore tid core asid range s = _
    simp only [execTlbiShootdownAtCore, busy, if_true]
  · refine ⟨fun free => completesLong_doneLong ?_, fun held refused => completesLong_doneLong ?_, fun held takes valid fits => ?_⟩
    all_goals change execCtxsw a b s = _
    · simp only [execCtxsw, ne_eq, free, not_false_eq_true, if_true]
    · have unfit : ¬(s.mayTake s.me.core (s.ctx (s.me.xr b).toNat).asid (s.ctx (s.me.xr b).toNat).split &&
          s.asidValid (s.ctx (s.me.xr b).toNat).asid && s.contextFits (s.ctx (s.me.xr b).toNat).rcb.toNat (s.ctx (s.me.xr b).toNat).asid) = true := by
        rw [State.ctxsw_fits]
        rintro ⟨takes, valid, fits⟩
        simp [takes, valid, fits] at refused
      simp only [execCtxsw, ne_eq, held, not_true, unfit, if_false, Bool.not_false, if_true]
    · simp only [execCtxsw, ne_eq, held, not_true, takes, valid, fits, Bool.and_self, Bool.not_true, Bool.false_eq_true, if_false]
  · refine ⟨rfl, fun nobody => completesLong_doneLong ?_, fun t r first => completesLong_doneLong ?_⟩
    all_goals change execCtxswQ a b s = _
    · simp only [execCtxswQ, nobody]
    · simp only [execCtxswQ, first, State.linesHere, beq_iff_eq]
  · change execPreempt a b s = _
    simp only [execPreempt, State.preemptInstr, bitsOf_eq_div]
    rfl
  · change execPreemptH a b s = _
    simp only [execPreemptH, State.preemptInstr, bitsOf_eq_div]
    rfl
  · change execPreemptArrival tid core slot hold a s = _
    simp only [execPreemptArrival, empty]
  · change execPreemptArrival tid core slot hold a s = _
    simp only [execPreemptArrival, found]
    rfl
  · refine completesLong_doneLong ?_
    change execGangHalt a b s = _
    simp only [execGangHalt, if_pos last]
  · obtain ⟨n, ts, fold, events, bounds⟩ := State.foldl_haltCore (s.me.xr b).toNat s.cores
      { s with halts := s.haltsAfter s.me.asid (s.me.xr b).toNat true }
    refine ⟨_, ts, exec_gangHalt_first first, ?_⟩
    rw [fold]
    exact ⟨rfl, State.me_setMe _ _, rfl, rfl, events, bounds⟩
  · have beside := foldl_keeps State.besideContexts State.freeContext State.freeContext_besideContexts (s.heldBelow b)
      { s with halts := s.haltsAfter s.me.asid (s.me.xr b).toNat false }
    simp only [State.besideContexts, Prod.mk.injEq] at beside
    obtain ⟨halts, mem, cores⟩ := beside
    refine ⟨_, completesLong_doneLong (exec_gangResume s a b), halts, mem, cores, fun k below => ?_, fun k => ?_⟩
    · refine State.foldl_freeContext_halted _ _ ?_
      change k ∈ s.heldBelow b ∨ (s.ctx k).halted = false
      cases halted : (s.ctx k).halted with
      | false => exact .inr rfl
      | true => exact .inl (State.mem_heldBelow halted below)
    · exact Prod.mk.inj (foldl_keeps (fun t : State => ((t.ctx k).line, (t.ctx k).pc)) State.freeContext
        (fun t x => t.freeContext_stands x k) (s.heldBelow b) { s with halts := s.haltsAfter s.me.asid (s.me.xr b).toNat false })
  · obtain ⟨t, answers, cores, halted⟩ := exec_haltTreeArrival s tid core rcb
    have latch : (t.core core).latch = ((s.haltedAt tid core rcb).core core).latch := by rw [State.core, State.core, cores]
    rw [State.haltedAt_core] at latch
    refine ⟨t, answers, ?_, ?_, ?_, ?_, fun k mine => (halted k).trans (s.haltedAt_halted tid core rcb mine)⟩
    all_goals rw [latch]
    · exact s.latched_grows core _
    · exact State.latched_grows (s.latched core (s.core core).latch.2.1).2 core _
  · refine completesLong_doneLong ?_
    change execGangRead a b s = _
    simp only [execGangRead, bitsOf_eq_div] <;> rfl

end Sys2Proof.Machine
end

section
/-! PROOFS. Bindings (O46): every form of ABIND parks for its answer, and the forms of LSTAT by their operand (R412, R414, R424, R425). -/

namespace Sys2Proof.Machine

set_option Elab.async false

/-! ## ABIND (R424) -/

/-- An instruction that parks for a result with which an event then completes it. -/
theorem waitsFrom_parkResult {i : Instr} {s u : State} {a : R5} {w : Word} (h : exec i s = .next (u.parkResult a w)) :
    WaitsFrom i s u .reply u.me.stage [.longResultArrival (Reply.of u.cur [.x a w none] true)] := waitsFrom_parkMe_post h

/-- The device of a subscription, in [25:16] of its register (R424). -/
theorem highDevice_eq (w : Word) : highDevice w = w.toNat / 2 ^ 16 % 1024 := bitsOf_eq_div _ _ _

section Trip

variable {s : State} {a : R5} {form dev arr xport op : Nat}

theorem State.bindTrip_lost (lost : s.route dev = none) : s.bindTrip a form dev arr xport op = s.parkResult a 1 := by
  simp only [State.bindTrip, lost]

theorem State.bindTrip_asks {l : Nat} (route : s.route dev = some l) : s.bindTrip a form dev arr xport op =
    (let u := s.await (.bind s.cur a form dev arr xport)
     (u.2.sendOn l dev (.remoteKey ⟨s.devid.toNat, l, xport, arr, 0, 0, 0, op, [], 0, 0, 0, u.1⟩)).parkMe .reply) := by
  simp only [State.bindTrip, route]
  rfl

end Trip

section Abind

variable {s : State} {a b x : R5}

theorem exec_abind_self (self : (s.me.xr b).toNat % 1024 = s.devid.toNat) : exec (.abind a b x) s = .next (s.parkResult a 5) ∧
    exec (.abindU a b) s = .next (s.parkResult a 5) :=
  ⟨congrArg _ (if_pos self), congrArg _ (if_pos self)⟩

variable (other : (s.me.xr b).toNat % 1024 ≠ s.devid.toNat)
include other

theorem exec_abind_bound {e : Binding} (bound : s.bindingTo s.me.asid ((s.me.xr b).toNat % 1024) = some e) :
    exec (.abind a b x) s = .next (s.parkResult a (BitVec.ofNat 64 (4 + 256 * e.slot))) := by
  refine congrArg _ ((if_neg other).trans ?_)
  simp only [lowDevice, bound]

theorem exec_abind_unbound (unbound : s.bindingTo s.me.asid ((s.me.xr b).toNat % 1024) = none) :
    exec (.abind a b x) s = .next (if (s.freeBinding s.me.asid).isNone then s.parkResult a 3
      else s.bindTrip a 0 ((s.me.xr b).toNat % 1024) 0 ((s.me.xr x).toNat % 256) 11) := by
  refine congrArg _ ((if_neg other).trans ?_)
  simp only [lowDevice, unbound]

theorem exec_abindU_unbound (unbound : s.bindingTo s.me.asid ((s.me.xr b).toNat % 1024) = none) :
    exec (.abindU a b) s = .next (s.parkResult a 7) := by
  refine congrArg _ ((if_neg other).trans ?_)
  simp only [lowDevice, unbound, Option.isNone_none, if_true]

theorem exec_abindU_bound (bound : (s.bindingTo s.me.asid ((s.me.xr b).toNat % 1024)).isSome) : exec (.abindU a b) s =
    .next (if s.slices.any fun e => e.2.arrays.any fun d => d.1 == s.me.asid && d.2.remote && d.2.dev == (s.me.xr b).toNat % 1024
      then s.parkResult a 6
      else State.parkResult { s with bindings := s.bindings.filter fun e => !(e.asid == s.me.asid && e.dev == (s.me.xr b).toNat % 1024) } a 0) :=
  congrArg _ ((if_neg other).trans (if_neg (Bool.eq_false_iff.1 (Option.isNone_eq_false_iff.2 bound))))

end Abind

section Subscription

variable {s : State} {a b : R5} {form op : Nat}

theorem State.subscription_self (self : (s.me.xr b).toNat / 2 ^ 16 % 1024 = s.devid.toNat) : s.subscription a b form op = s.parkResult a 5 := by
  simp only [State.subscription, highDevice_eq, if_pos self]

variable (other : (s.me.xr b).toNat / 2 ^ 16 % 1024 ≠ s.devid.toNat)
include other

theorem State.subscription_unbound (unbound : s.bindingTo s.me.asid ((s.me.xr b).toNat / 2 ^ 16 % 1024) = none) :
    s.subscription a b form op = s.parkResult a 7 := by
  simp only [State.subscription, highDevice_eq, if_neg other, unbound]

theorem State.subscription_bound {e : Binding} (bound : s.bindingTo s.me.asid ((s.me.xr b).toNat / 2 ^ 16 % 1024) = some e) :
    s.subscription a b form op = s.bindTrip a form ((s.me.xr b).toNat / 2 ^ 16 % 1024) ((s.me.xr b).toNat % 65536) e.xport op := by
  simp only [State.subscription, highDevice_eq, if_neg other, bound]

end Subscription

/-- ABIND.X past the read of its record: the exported space is the one of the RCB that a well-formed record names (R424). -/
theorem exec_abindX_read {s : State} {a b x : R5} (named : s.me.xr b ≠ 0) (read : s.me.stage ≠ 0) : exec (.abindX a b x) s =
    .next (match (if exportOk s.me.buf then s.rcbWord? (field s.me.buf 0 8) s.me.asid rcbPri else none) with
      | none => s.parkResult a 2
      | some w => State.parkResult { s with exports := s.exports.set ((s.me.xr x).toNat % 256) ⟨field s.me.buf 0 8, w / 2 ^ 32 % 512,
          field s.me.buf 8 8, field s.me.buf 16 8, field s.me.buf 24 2, field s.me.buf 26 1⟩ } a 0) := by
  change execAbindX a b x s = _
  simp only [execAbindX, if_neg named, if_neg read, bitsOf_eq_div] <;> rfl

/-! ## LSTAT (R425) -/

section Lstat

variable {s : State} {o : Op2} {n : Nat} {k : Nat → State}

theorem State.lstatOf_outside {i : BitVec 32} (imm : o = .imm i) (outside : n ≤ i.toNat) :
    s.lstatOf o n k = .next (s.trap s.cur (s.me.opTrap 0x02 0)) := by
  subst imm
  exact congrArg _ (if_pos outside)

/-- LSTAT reports of the number that its operand names. -/
theorem State.lstatOf_names {j : Nat} (imm : ∀ i, o = .imm i → j = i.toNat ∧ j < n) (reg : ∀ r, o = .reg r → j = (s.me.xr r).toNat % n) :
    s.lstatOf o n k = .next (k j) := by
  cases o with
  | imm i =>
    obtain ⟨rfl, inside⟩ := imm i rfl
    exact congrArg _ (if_neg (Nat.not_le.2 inside))
  | reg r =>
    obtain rfl := reg r rfl
    rfl

end Lstat

/-- Settles O46: the forms of ABIND by the device, the binding, the slot and the route, and those of LSTAT by their operand. -/
theorem bindings : Obligations.Bindings := by
  intro s a b x o
  dsimp only
  refine ⟨fun self => ⟨?_, ?_⟩, fun other => ⟨fun e bound => ?_, fun unbound => ⟨?_, fun full => ?_, fun room => ⟨fun lost => ?_, fun l route => ?_⟩⟩,
      fun bound => ?_⟩, fun self => ⟨?_, ?_⟩, fun other unbound => ⟨?_, ?_⟩,
    fun e other bound => ⟨⟨fun lost => ?_, fun l route => ?_⟩, ⟨fun lost => ?_, fun l route => ?_⟩⟩, fun nothing => ?_,
    fun named => ⟨fun first => ?_, fun read => ⟨fun bad => ?_, fun p formed rcb => ?_⟩⟩, waitsFrom_parkResult rfl, fun down fenced => ?_,
    fun down up => ?_, fun up open_ => ?_, fun up fenced => ?_, fun i imm => ⟨fun outside => ?_, fun outside => ?_⟩, fun k imm reg => ?_,
    fun k imm reg => ⟨fun none => ?_, fun l some => ?_⟩, completesLong_doneLong rfl⟩
  · exact waitsFrom_parkResult (exec_abind_self self).1
  · exact waitsFrom_parkResult (exec_abind_self (x := x) self).2
  · exact waitsFrom_parkResult (exec_abind_bound other bound)
  · exact waitsFrom_parkResult (exec_abindU_unbound other unbound)
  · exact waitsFrom_parkResult ((exec_abind_unbound other unbound).trans (congrArg _ (if_pos (Option.isNone_iff_eq_none.2 full))))
  · have trips := (exec_abind_unbound (a := a) (x := x) other unbound).trans (congrArg _ (if_neg (Bool.eq_false_iff.1 (Option.isNone_eq_false_iff.2 room))))
    exact waitsFrom_parkResult (trips.trans (congrArg _ (State.bindTrip_lost lost)))
  · have trips := (exec_abind_unbound (a := a) (x := x) other unbound).trans (congrArg _ (if_neg (Bool.eq_false_iff.1 (Option.isNone_eq_false_iff.2 room))))
    exact trips.trans (congrArg _ (State.bindTrip_asks route))
  · have unbinds := exec_abindU_bound (a := a) other bound
    split
    next used => exact waitsFrom_parkResult (unbinds.trans (congrArg _ (if_pos used)))
    next unused => exact waitsFrom_parkResult (u := { s with bindings := _ }) (unbinds.trans (congrArg _ (if_neg unused)))
  · exact waitsFrom_parkResult (congrArg _ (State.subscription_self self))
  · exact waitsFrom_parkResult (congrArg _ (State.subscription_self self))
  · exact waitsFrom_parkResult (congrArg _ (State.subscription_unbound other unbound))
  · exact waitsFrom_parkResult (congrArg _ (State.subscription_unbound other unbound))
  · exact waitsFrom_parkResult (congrArg _ ((State.subscription_bound other bound).trans (State.bindTrip_lost lost)))
  · exact congrArg _ ((State.subscription_bound other bound).trans (State.bindTrip_asks route))
  · exact waitsFrom_parkResult (congrArg _ ((State.subscription_bound other bound).trans (State.bindTrip_lost lost)))
  · exact congrArg _ ((State.subscription_bound other bound).trans (State.bindTrip_asks route))
  · exact waitsFrom_parkResult (u := { s with exports := _ }) (congrArg _ (if_pos nothing))
  · exact congrArg _ ((if_neg named).trans (if_pos first))
  · refine waitsFrom_parkResult ((exec_abindX_read named read).trans (congrArg _ ?_))
    have none : (if exportOk s.me.buf then s.rcbWord? (field s.me.buf 0 8) s.me.asid rcbPri else none) = none := by
      rcases bad with bad | bad
      · simp [bad]
      · simp [rcbPri, bad]
    rw [none]
  · refine waitsFrom_parkResult (u := { s with exports := _ }) ((exec_abindX_read named read).trans (congrArg _ ?_))
    have some : (if exportOk s.me.buf then s.rcbWord? (field s.me.buf 0 8) s.me.asid rcbPri else none) = some p := (if_pos formed).trans rcb
    rw [some]
  · exact waitsFrom_parkResult (congrArg _ ((if_pos down).trans (congrArg (State.parkResult · a 0) (if_pos fenced))))
  · exact congrArg _ ((if_pos down).trans (congrArg (State.parkResult · a 0) (if_neg up)))
  · exact waitsFrom_parkResult (congrArg _ ((if_neg (Bool.eq_false_iff.1 up)).trans (if_neg open_)))
  · exact congrArg _ ((if_neg (Bool.eq_false_iff.1 up)).trans (if_pos fenced))
  · change execLstat a o s = _
    exact State.lstatOf_outside imm outside
  · change execLstatD a o s = _
    exact State.lstatOf_outside imm outside
  · refine completesLong_doneLong ?_
    change execLstat a o s = _
    exact State.lstatOf_names imm reg
  all_goals
    refine completesLong_doneLong ?_
    change execLstatD a o s = _
    refine (State.lstatOf_names imm reg).trans ?_
  · rw [none]
  · have up : ((s.link l).state == 2).toNat * 8 = if (s.link l).state = 2 then 8 else 0 := by
      split
      next up => rw [up]; rfl
      next down => rw [beq_eq_false_iff_ne.2 down]; rfl
    simp only [some, up]

end Sys2Proof.Machine
end

section
/-! PROOFS. Collectives (O47): XRED by its stages, what a contribution, the time limit and an answer do (R419, R420). -/

namespace Sys2Proof.Machine

set_option Elab.async false

/-! ## The member (R419, R420) -/

section Member

variable {s u : State} {op : Nat} {a b : R5} {d : Desc}

theorem State.xred_first (stage : s.me.stage = 0) : s.xred op a b = s.readInto 1 { n := 32, r := true, rdup := true } (s.me.xr b) 0 := by
  simp only [State.xred, stage]

theorem State.xred_second (stage : s.me.stage = 1) : s.xred op a b =
    s.readInto 2 { n := 64, r := true, rdup := true } (BitVec.ofNat 64 (field s.me.buf 0 8)) 0 := by
  simp only [State.xred, stage]

theorem State.xred_answered (stage : s.me.stage = 5) : s.xred op a b =
    s.finish fun c => (c.setX a c.hold).raise (c.hold.getLsbD 8) false := by
  simp only [State.xred, stage]

/-- A group record that breaks R419 has status 1. -/
theorem State.xred_malformed (stage : s.me.stage = 2) (bad : s.groupOk s.me.asid s.me.buf = false) : s.xred op a b = s.doneLong a 1 := by
  rw [State.xred, stage]
  simp only [bad, Bool.not_false, if_true]

section Formed

variable (formed : s.groupOk s.me.asid s.me.buf = true)
  (found : s.keyPhase s.me (xredKey s.me.asid s.me.buf (field s.me.buf 16 4)) = .ok (d, u))
include formed found

/-- An array of another device, or of a format that has no sum, has status 1 (R419). -/
theorem State.xred_array (stage : s.me.stage = 2) (bad : d.remote = true ∨ 2 < d.fmt) : s.xred op a b = u.doneLong a 1 := by
  rw [State.xred, stage]
  simp only [formed, found, Bool.not_true, Bool.false_eq_true, if_false, gt_iff_lt, Bool.or_eq_true, decide_eq_true_eq, bad, if_true]

variable (here : d.remote = false) (fmt : d.fmt ≤ 2)
include here fmt

theorem State.xred_refers (stage : s.me.stage = 2) : s.xred op a b =
    (let q := u.keyReqOf (xredKey s.me.asid s.me.buf (field s.me.buf 16 4)) d .xredIn 0
     u.askMint 3 q (.mintReference q)) := by
  rw [State.xred, stage]
  simp [formed, found, here, Nat.not_lt.2 fmt]

theorem State.xred_reserves (stage : s.me.stage = 3)
    (present : (u.entry (xredKey s.me.asid s.me.buf (field s.me.buf 16 4)) (descHome d (field s.me.buf 10 2) (field s.me.buf 12 2))).map MintEntry.st =
      some MintSt.present) : s.xred op a b =
    (let v := u.setMe { u.me with parkSince := none }
     let q := v.keyReqOf (xredKey s.me.asid s.me.buf (field s.me.buf 20 4)) d .xredOut (field s.me.buf 14 2)
     v.askMint 4 q (.mintReserve q)) := by
  rw [State.xred, stage]
  simp only [formed, found, here, Nat.not_lt.2 fmt, Bool.not_true, Bool.false_eq_true, if_false, decide_false, Bool.or_self,
    Nat.reduceEqDiff, if_true]
  exact if_pos present

theorem State.xred_contributes (stage : s.me.stage = 4) : s.xred op a b = u.contributeXred op a d := by
  rw [State.xred, stage]
  simp [formed, found, here, Nat.not_lt.2 fmt]

end Formed

end Member

/-- An answer reaches the member that it names: the one thread of the machine (R420). -/
theorem exec_xredResultArrival_one {s : State} {tid tag ti tj ver status : Nat} {data : List Byte} {nf : Bool} {q : KeyReq}
    (alone : s.threads = [(tid, s.ctx tid)]) (park : (s.ctx tid).park = some .collect) (named : field (s.ctx tid).buf 34 2 = tag)
    (request : (s.ctx tid).keyReq = some q) (i : q.key.i = ti) (j : q.key.j = tj) (version : q.key.ver = ver) :
    exec (.xredResultArrival tag ti tj ver status data nf) s = .next (if status ≠ 0 then s.failXred tid status
      else (((s.create q.key q.home (creators q) data).unpin ((s.ctx tid).xredInput q.key) q.home).modCtx tid fun c =>
        { c with hold := BitVec.ofNat 64 (256 * nf.toNat) }).wakeAgain tid) := by
  change execXredResultArrival tag ti tj ver status data nf s = _
  rw [execXredResultArrival, alone, List.find?_cons_of_pos (by simp [park, named, request, i, j, version])]
  simp only [request]
  split <;> rfl

/-! ## The root (R420) -/

section Root

variable {s : State} {dev tag ti tj ver op fmt shape n : Nat} {data : List Byte} {nf : Bool} {g : Machine.Collect}

/-- A collective once a member's part is among its parts, under the largest number of members named (R420). -/
def Collect.withPart (g : Machine.Collect) (dev n : Nat) (data : List Byte) (nf failed : Bool) : Machine.Collect :=
  { g with parts := insertPart (dev, data, nf) (g.parts.filter fun p => p.1 ≠ dev), n := max g.n n, failed := failed }

/-- The machine that keeps a collective as long as members are missing (R420). -/
def State.keepCollect (s : State) (tag ti tj ver : Nat) (g : Machine.Collect) : State :=
  let rest := s.collects.filter fun e => !e.named tag ti tj ver
  { s with collects := if g.n ≤ g.parts.length then rest else rest ++ [g] }

/-- A later contribution, by whether the collective has failed before it and whether it fails by it. -/
theorem exec_xredContributionAtRoot_later (found : List.find? (fun e => e.named tag ti tj ver) s.collects = some g) (parts : g.parts ≠ []) :
    exec (.xredContributionAtRoot dev tag ti tj ver op fmt shape n data nf) s =
      (let m := g.withPart dev n data nf (g.failed || decide (g.op ≠ op ∨ g.fmt ≠ fmt ∨ g.shape ≠ shape ∨ g.n ≠ n))
       let u := s.keepCollect tag ti tj ver m
       .next (if g.failed then u.answerMember m dev 2 [] false
         else if m.failed then u.answerAll m 2 [] false
         else if m.n ≤ m.parts.length then u.answerAll m 0 m.result.1 m.result.2
         else u)) := by
  change execXredContributionAtRoot dev tag ti tj ver op fmt shape n data nf s = _
  have some : g.parts.isEmpty = false := by simp [parts]
  simp only [execXredContributionAtRoot, found, Option.getD_some, some, Bool.false_eq_true, if_false, ge_iff_le, decide_eq_true_eq]
  rfl

/-- The first contribution begins a collective and its time limit. -/
theorem exec_xredContributionAtRoot_first (new : ∀ e ∈ s.collects, e.named tag ti tj ver = false) (more : 1 < n) :
    exec (.xredContributionAtRoot dev tag ti tj ver op fmt shape n data nf) s =
      .next { s.at (cycleOfTick (s.ticks + 2 ^ 30)) (.xredRootTimeout tag ti tj ver) with
        collects := s.collects.filter (fun e => !e.named tag ti tj ver) ++
          [⟨tag, ti, tj, ver, op, fmt, shape, n, [(dev, data, nf)], s.ticks, false⟩] } := by
  change execXredContributionAtRoot dev tag ti tj ver op fmt shape n data nf s = _
  have none : List.find? (fun e => Collect.named e tag ti tj ver) s.collects = none := List.find?_eq_none.2 fun e he => by simp [new e he]
  have missing : ¬n ≤ 1 := Nat.not_le.2 more
  simp [execXredContributionAtRoot, none, insertPart, missing]

theorem exec_xredRootTimeout_unknown (none : List.find? (fun e => e.named tag ti tj ver) s.collects = none) :
    exec (.xredRootTimeout tag ti tj ver) s = .next s := by
  change execXredRootTimeout tag ti tj ver s = _
  simp only [execXredRootTimeout, none]

theorem exec_xredRootTimeout_known (found : List.find? (fun e => e.named tag ti tj ver) s.collects = some g) :
    exec (.xredRootTimeout tag ti tj ver) s = if s.ticks < g.since + 2 ^ 30 then .next s
      else (let t : State := { s with collects := s.collects.filter fun e => !e.named tag ti tj ver }
        .next (if g.failed then t else t.answerAll g 3 [] false)) := by
  change execXredRootTimeout tag ti tj ver s = _
  simp only [execXredRootTimeout, found]

end Root

/-- Settles O47: the member by its stages, the root by what it knows of the collective. -/
theorem collectives : Obligations.Collectives := by
  intro s u a b i d op dev tag ti tj ver fmt shape n status data nf q g tid
  dsimp only
  refine ⟨fun form => ?_, exec_xredContributionAtRoot_first, fun found parts => ?_, exec_xredRootTimeout_unknown, fun found => ⟨fun early => ?_, fun late => ?_⟩,
    exec_xredResultArrival_one⟩
  · have runs : exec i s = .next (s.xred op a b) := by
      rcases form with ⟨rfl, rfl⟩ | ⟨rfl, rfl⟩ <;> rfl
    refine ⟨fun stage => runs.trans (congrArg _ (State.xred_first stage)), fun stage => runs.trans (congrArg _ (State.xred_second stage)),
      fun stage bad => completesLong_doneLong (runs.trans (congrArg _ (State.xred_malformed stage bad))),
      fun formed found me cur => ⟨fun stage bad => ?_, fun here fmt => ⟨fun stage => ?_, fun stage present => ?_, fun stage => ?_⟩⟩,
      fun stage => completes_finish (runs.trans (congrArg _ (State.xred_answered stage)))⟩
    · exact completesLong_doneLong (runs.trans (congrArg _ (State.xred_array formed found stage bad)))
    · exact asksMint_of here (runs.trans (congrArg _ (State.xred_refers formed found here fmt stage)))
    · exact ⟨_, rfl, runs.trans (congrArg _ ((State.xred_reserves formed found here fmt stage present).trans (by rw [me])))⟩
    · exact runs.trans (congrArg _ (State.xred_contributes formed found here fmt stage))
  · have later := exec_xredContributionAtRoot_later (dev := dev) (op := op) (fmt := fmt) (shape := shape) (n := n) (data := data) (nf := nf) found parts
    refine ⟨fun going sameOp sameFmt sameShape sameN => later.trans ?_, fun going other => later.trans ?_, fun failed => later.trans ?_⟩
    · have same : decide (g.op ≠ op ∨ g.fmt ≠ fmt ∨ g.shape ≠ shape ∨ g.n ≠ n) = false := by simp [sameOp, sameFmt, sameShape, sameN]
      rw [same]
      simp only [going, Bool.or_self]
      rfl
    · have differs : decide (g.op ≠ op ∨ g.fmt ≠ fmt ∨ g.shape ≠ shape ∨ g.n ≠ n) = true := decide_eq_true other
      rw [differs]
      simp only [going, Bool.or_true]
      rfl
    · simp only [failed, Bool.true_or]
      rfl
  · exact (exec_xredRootTimeout_known found).trans (if_pos early)
  · exact (exec_xredRootTimeout_known found).trans (if_neg (Nat.not_lt.2 late))

end Sys2Proof.Machine
end

section
/-! PROOFS. Links and host (O48): what a link brings, what a device beyond it asks, and what the host and the bridge cache do (R409, R411 to R413, R415
to R418, R421, R422, R425). -/

namespace Sys2Proof.Machine

set_option Elab.async false

/-! ## Messages of a link (R411, R412) -/

section Arrival

variable {s : State} {link : Nat}

theorem exec_linkMessageArrival_down (down : (s.link link).state ≠ 2) (m : LinkMsg) : exec (.linkMessageArrival link m) s = .next s :=
  congrArg _ (if_pos down)

variable (up : (s.link link).state = 2)
include up

theorem exec_linkMessageArrival_passes {dev hops x : Nat} {f : LinkMsg} (route : s.route dev = some x) (few : hops < 8) :
    exec (.linkMessageArrival link (.forward dev hops f)) s = .next (s.sendOn x dev (.forward dev (hops + 1) f)) := by
  change execLinkMessageArrival link (.forward dev hops f) s = _
  simp only [execLinkMessageArrival, ne_eq, up, not_true, if_false, route, ge_iff_le, Nat.not_le.2 few]

theorem exec_linkMessageArrival_drops {dev hops : Nat} {f : LinkMsg} (lost : s.route dev = none ∨ 8 ≤ hops) :
    exec (.linkMessageArrival link (.forward dev hops f)) s = .next (s.answerDropped f) := by
  change execLinkMessageArrival link (.forward dev hops f) s = _
  simp only [execLinkMessageArrival, ne_eq, up, not_true, if_false]
  cases route : s.route dev with
  | none => rfl
  | some l => exact congrArg _ (if_pos (lost.resolve_left (by simp [route])))

end Arrival

/-! ## Word accesses of other devices (R170, R415) -/

section Word

variable {s : State} {w : RemoteWord} {pa : Nat} {l : Leaf}

theorem exec_remoteWordAccess_refused (refused : s.remotePlace w = none) :
    exec (.remoteWordAccess w) s = .next (s.replyTo w.dev w.ref 42 0 []) := by
  change execRemoteWordAccess w s = _
  simp only [execRemoteWordAccess, refused]

theorem exec_remoteWordAccess_held {die slot : Nat} (placed : s.remotePlace w = some (pa, l)) (held : s.pageHolding pa = some (die, slot)) :
    exec (.remoteWordAccess w) s = .next (s.hold die slot (.remote w pa)) := by
  change execRemoteWordAccess w s = _
  simp only [execRemoteWordAccess, placed, held]

variable (placed : s.remotePlace w = some (pa, l)) (free : s.pageHolding pa = none)
include placed free

theorem exec_remoteWordAccess_loads (op : w.op = none) (store : w.store = none) : exec (.remoteWordAccess w) s =
    (let v := (s.touchLeaf l false).2.homeRead (pa / 128)
     .next (v.replyTo w.dev w.ref 0 (BitVec.ofNat 64 (v.read pa w.n)) (if v.poisonAt pa w.n then [1] else []))) := by
  change execRemoteWordAccess w s = _
  simp only [execRemoteWordAccess, placed, free, op, store]
  rfl

theorem exec_remoteWordAccess_stores {x : Nat} (op : w.op = none) (store : w.store = some x) : exec (.remoteWordAccess w) s =
    .next (((s.touchLeaf l true).2.homeStore pa w.n x false).2.replyTo w.dev w.ref 0 0 []) := by
  change execRemoteWordAccess w s = _
  simp only [execRemoteWordAccess, placed, free, op, store]
  rfl

theorem exec_remoteWordAccess_operates {op : AtomOp} {x : Nat} (named : w.op = some op)
    (writes : atomNew op w.n (((s.touchLeaf l (w.store.isSome || true)).2.homeWrite (pa / 128)).read pa w.n) = some x) :
    exec (.remoteWordAccess w) s =
    (let v := (s.touchLeaf l (w.store.isSome || true)).2.homeWrite (pa / 128)
     let bad := v.poisonAt pa w.n
     let t := v.homeStore pa w.n x (bad && atomDerives op)
     .next (t.2.replyTo w.dev w.ref 0 (BitVec.ofNat 64 (v.read pa w.n)) (bytesOf 8 t.1 ++ if bad then [1] else []))) := by
  change execRemoteWordAccess w s = _
  have written : atomNew op w.n (((s.touchLeaf l (w.store.isSome || (some op).isSome)).2.homeWrite (lineOf pa)).read pa w.n) = some x := writes
  simp only [execRemoteWordAccess, placed, free, named, written]
  rfl

end Word

/-! ## Key requests of other devices (R416 to R418) -/

section KeyRequest

variable {s : State} {r : RemoteKey}

theorem exec_remoteKeyRequest_back (back : r.op = 8 ∨ r.op = 12) : exec (.remoteKeyRequest r) s = .next (s.takeBackFor r) := if_pos back

theorem exec_remoteKeyRequest_unexported (unexported : s.exportFor r.xport r.dev = none) (pin : r.op ≠ 8) (reservation : r.op ≠ 12) :
    exec (.remoteKeyRequest r) s = .next (s.replyTo r.dev r.ref 42 0 []) := by
  change execRemoteKeyRequest r s = _
  simp only [execRemoteKeyRequest, pin, reservation, or_self, if_false, unexported]

variable {e : Export} (exported : s.exportFor r.xport r.dev = some e)
include exported

theorem exec_remoteKeyRequest_binds (op : r.op = 11) : exec (.remoteKeyRequest r) s = .next (s.replyTo r.dev r.ref 0 (BitVec.ofNat 64 e.asid) []) := by
  change execRemoteKeyRequest r s = _
  simp [execRemoteKeyRequest, op, exported]

variable (op : r.op = 0)
include op

theorem exec_remoteKeyRequest_unreadable (closed : e.rights.testBit 0 = false) :
    exec (.remoteKeyRequest r) s = .next (s.replyTo r.dev r.ref 42 0 []) := by
  change execRemoteKeyRequest r s = _
  simp [execRemoteKeyRequest, op, exported, remoteNeeds, bitOf, closed]

variable (readable : e.rights.testBit 0 = true)
include readable

theorem exec_remoteKeyRequest_undeclared (undeclared : s.declared e.asid r.arr = none) :
    exec (.remoteKeyRequest r) s = .next (s.replyTo r.dev r.ref 40 0 []) := by
  change execRemoteKeyRequest r s = _
  simp [execRemoteKeyRequest, op, exported, remoteNeeds, bitOf, readable, undeclared]

theorem exec_remoteKeyRequest_reads {d : Desc} (whole : r.shape = 0) (declared : s.declared e.asid r.arr = some d) : exec (.remoteKeyRequest r) s =
    .next (if d.gi < r.i ∨ d.gj < r.j then s.replyTo r.dev r.ref 39 0 [] else s.post (.mintReference
      { src := ⟨0, 0, e.asid, 0⟩, key := ⟨e.asid, r.arr, r.i, r.j, r.ver⟩, home := descHome d r.i r.j, desc := { d with remote := false },
        use := .tld 0, rdr := r.rdr, since := s.ticks, rcb := e.rcb, rcbAsid := e.asid, peer := some (r.link, r.dev, r.ref) })) := by
  change execRemoteKeyRequest r s = _
  simp [execRemoteKeyRequest, op, exported, remoteNeeds, bitOf, readable, declared, whole, remoteUse]

end KeyRequest

/-- What the links bring. -/
theorem linkEvents : Claims.LinkEvents := by
  intro s link state m w r e pa l slice status k data n dev space arr i j ver hops bs f p reply
  have answers (dev ref status : Nat) (val : Word) (data : List Byte) (u : State) : reply dev ref status val data u = u.replyTo dev ref status val data := rfl
  clear_value reply
  simp only [answers]
  refine ⟨fun stays => congrArg _ (if_pos stays), fun open_ report => congrArg _ (if_neg (not_or.2 ⟨open_, report⟩)), rfl,
    fun down => exec_linkMessageArrival_down down m,
    fun up => ⟨congrArg _ (if_neg (not_not.2 up)), congrArg _ (if_neg (not_not.2 up)), congrArg _ (if_neg (not_not.2 up)),
      fun _ _ => congrArg _ (if_neg (not_not.2 up)), fun _ _ _ _ _ _ => congrArg _ (if_neg (not_not.2 up)), fun _ _ => congrArg _ (if_neg (not_not.2 up)),
      fun x route few => exec_linkMessageArrival_passes up route few, fun lost => exec_linkMessageArrival_drops up lost⟩,
    rfl, rfl, fun _ _ => rfl, rfl, exec_remoteWordAccess_refused, fun placed die slot held => exec_remoteWordAccess_held placed held,
    fun placed free => ⟨fun op store => ?_, fun x op store => ?_, fun op x named writes => ?_⟩, fun back => ⟨fun undeclared => ?_, fun d declared => ?_⟩,
    exec_remoteKeyRequest_unexported, fun exported => ⟨exec_remoteKeyRequest_binds exported, fun op => exec_remoteKeyRequest_unreadable exported op,
      fun op readable => exec_remoteKeyRequest_undeclared exported op readable, fun op readable whole d declared => ?_⟩,
    fun nobody => ?_, fun d one => ?_, fun none => ?_, fun found waiting => ?_⟩
  · have leaf : (w.store.isSome || w.op.isSome) = false := by simp [op, store]
    rw [leaf]
    exact exec_remoteWordAccess_loads placed free op store
  · have leaf : (w.store.isSome || w.op.isSome) = true := by simp [store]
    rw [leaf]
    exact exec_remoteWordAccess_stores placed free op store
  · have leaf : w.op.isSome = true := by simp [named]
    rw [leaf] at writes ⊢
    exact exec_remoteWordAccess_operates placed free named writes
  · rw [exec_remoteKeyRequest_back back, State.takeBackFor, undeclared]
  · rw [exec_remoteKeyRequest_back back, State.takeBackFor, declared]
  · have reads := exec_remoteKeyRequest_reads exported op readable whole declared
    split
    next outside => exact reads.trans (congrArg _ (if_pos outside))
    next inside => exact reads.trans (congrArg _ (if_neg inside))
  · change execArrivalNotice dev space arr i j ver bs s = _
    rw [execArrivalNotice, nobody]
    rfl
  · change execArrivalNotice dev space arr i j ver bs s = _
    rw [execArrivalNotice, one]
    rfl
  · change execShadowFetchReply slice k status data s = _
    simp only [execShadowFetchReply, none]
  · change execShadowFetchReply slice k 0 data s = _
    simp only [execShadowFetchReply, found, waiting, ne_eq, not_true, if_false, if_true, State.fillShadow]

/-! ## The host's accesses and the bridge cache (R421, R422) -/

section Hdm

variable {s : State} {pa : Nat} {write : Option (BitVec 512)}

/-- The host's accesses go to frames of HBM that it owns (R421). -/
theorem hostOwns_iff (s : State) (a : Nat) : (hbmExists a && s.hostFrames.contains (a / 65536)) = true ↔
    hbmExists a = true ∧ a / 65536 ∈ s.hostFrames := by simp

theorem exec_hostHdmAccess_refused (other : ¬(hbmExists (pa % 2 ^ 40 / 64 * 64) = true ∧ pa % 2 ^ 40 / 64 * 64 / 65536 ∈ s.hostFrames)) :
    exec (.hostHdmAccess pa write) s = (let refused : State := { s with hostRefused := min (s.hostRefused + 1) 65535 }
      .next (if write.isSome then refused
        else refused.hostData.2.tellHost (.read (pa % 2 ^ 40 / 64 * 64) (BitVec.ofNat 512 refused.hostData.1) true))) := by
  change execHostHdmAccess pa write s = _
  rw [← hostOwns_iff, Bool.not_eq_true] at other
  cases write <;> simp only [execHostHdmAccess, other, Bool.not_false, if_true] <;> rfl

variable (mine : hbmExists (pa % 2 ^ 40 / 64 * 64) = true ∧ pa % 2 ^ 40 / 64 * 64 / 65536 ∈ s.hostFrames)
include mine

theorem exec_hostHdmAccess_held (held : (s.pageHolding (pa % 2 ^ 40 / 64 * 64)).isSome) :
    exec (.hostHdmAccess pa write) s = .next (s.at (s.pcyc + 64) (.hostHdmAccess (pa % 2 ^ 40 / 64 * 64) write)) := by
  change execHostHdmAccess pa write s = _
  simp only [execHostHdmAccess, (hostOwns_iff s _).2 mine, Bool.not_true, Bool.false_eq_true, if_false, held, if_true]

variable (free : s.pageHolding (pa % 2 ^ 40 / 64 * 64) = none)
include free

theorem exec_hostHdmAccess_reads : exec (.hostHdmAccess pa none) s = (let u := s.homeRead (pa % 2 ^ 40 / 64 * 64 / 128)
    .next (u.tellHost (.read (pa % 2 ^ 40 / 64 * 64) (BitVec.ofNat 512 (u.read (pa % 2 ^ 40 / 64 * 64) 64)) (u.poisonAt (pa % 2 ^ 40 / 64 * 64) 64)))) := by
  change execHostHdmAccess pa none s = _
  simp only [execHostHdmAccess, (hostOwns_iff s _).2 mine, Bool.not_true, Bool.false_eq_true, if_false, free, Option.isSome_none]
  rfl

theorem exec_hostHdmAccess_writes (v : BitVec 512) : exec (.hostHdmAccess pa (some v)) s =
    .next (s.homeStore (pa % 2 ^ 40 / 64 * 64) 64 v.toNat false).2 := by
  change execHostHdmAccess pa (some v) s = _
  simp only [execHostHdmAccess, (hostOwns_iff s _).2 mine, Bool.not_true, Bool.false_eq_true, if_false, free, Option.isSome_none]

end Hdm

section Bridge

variable {s : State} {half : Nat} {q : MemReq} {vals : List Nat} {counted inv up : Bool} {h : Half}

theorem exec_hostSnoop_held (held : s.bridge.find? half = some h) : exec (.hostSnoop half inv) s =
    .next { (if h.st = 3 then s.tellHost (.snooped half h.data h.pois) else s) with
      bridge := if inv then s.bridge.erase half else s.bridge.set half { h with st := 1 } } := by
  change execHostSnoop half inv s = _
  by_cases dirty : h.st = 3
  · cases inv <;> simp [execHostSnoop, held, dirty, State.tellHost]
  · cases inv <;> simp [execHostSnoop, held, dirty]

theorem State.evictHalf_held (held : s.bridge.find? half = some h) : s.evictHalf half =
    (if h.st = 3 then State.tellHost { s with bridge := s.bridge.erase half } (.written half h.data h.pois) else { s with bridge := s.bridge.erase half }) := by
  simp only [State.evictHalf, held]

theorem exec_hostFillReply_new {data : BitVec 512} (room : s.bridgePeers (half / 2) = []) (new : s.bridge.find? half = none) :
    exec (.hostFillReply half up data) s = .next
      { s with bridge := s.bridge.set half ⟨if up then 2 else 1, data, 0⟩, bridgeWait := [],
               pending := s.bridgeWait.map (fun w => Event.bridgeDeviceAccess w.1 w.2) ++ s.pending } := by
  change execHostFillReply half up data s = _
  simp [execHostFillReply, State.bridgeRoom, room, new]

variable (first : s.behind q = false)
include first

theorem exec_bridgeDeviceAccess_loads (held : s.missingHalves q = []) : exec (.bridgeDeviceAccess q .load) s =
    (let serve (l : Lane) : Lane := if l ∈ hostLanes q.lanes then laneBind l (s.hostBytes l) (2 ^ l.n - 1) (s.hostMarked l) else l
     .next (s.routeLoad { q with lanes := q.lanes.map serve })) := by
  change execBridgeDeviceAccess q .load s = _
  simp only [execBridgeDeviceAccess, first, held, List.contains_iff_mem, Bool.false_eq_true, if_false]

theorem exec_bridgeDeviceAccess_fetches (missing : s.missingHalves q ≠ []) : exec (.bridgeDeviceAccess q .load) s =
    .next ((s.askHost (s.missingHalves q) false).waitAtBridge q .load) := by
  change execBridgeDeviceAccess q .load s = _
  cases halves : s.missingHalves q with
  | nil => exact absurd halves missing
  | cons => simp only [execBridgeDeviceAccess, first, halves, Bool.false_eq_true, if_false]

theorem exec_bridgeDeviceAccess_stores (owned : s.unowned q = []) : exec (.bridgeDeviceAccess q (.store vals counted)) s =
    (let u := (q.lanes.zip vals).foldl (fun s e => s.hostWrite e.1 e.2) s
     .next (if counted then u.post (.writeAckArrival q.src.tid 0) else u)) := by
  change execBridgeDeviceAccess q (.store vals counted) s = _
  simp only [execBridgeDeviceAccess, first, owned, Bool.false_eq_true, if_false]

theorem exec_bridgeDeviceAccess_claims (unowned : s.unowned q ≠ []) : exec (.bridgeDeviceAccess q (.store vals counted)) s =
    .next ((s.askHost (s.unowned q) true).waitAtBridge q (.store vals counted)) := by
  change execBridgeDeviceAccess q (.store vals counted) s = _
  cases halves : s.unowned q with
  | nil => exact absurd halves unowned
  | cons => simp only [execBridgeDeviceAccess, first, halves, Bool.false_eq_true, if_false]

end Bridge

/-- A context after an event of a die: a WFE park of the die is over (R409). -/
def Ctx.wokenAt (c : Ctx) (die : Nat) : Ctx := if c.park == some .event && dieOf c.core == die then { c with park := none } else c

/-- An event of a die ends the WFE parks of its contexts, and changes no other (R409). -/
theorem State.wakeEvents_ctx (s : State) (die tid : Nat) : (s.wakeEvents die).ctx tid = (s.ctx tid).wokenAt die := by
  change SMap.get (s.threads.map fun e => (e.1, e.2.wokenAt die)) tid Ctx.blank = (s.threads.get tid Ctx.blank).wokenAt die
  rw [SMap.get, SMap.get, SMap.find?_map s.threads fun c => c.wokenAt die]
  cases s.threads.find? tid <;> rfl

theorem Ctx.wokenAt_eq (c : Ctx) (die : Nat) : c.wokenAt die =
    if c.park = some .event ∧ dieOf c.core = die then { c with park := none } else c := by
  simp [Ctx.wokenAt]

/-- What the host asks and sends. -/
theorem hostEvents : Claims.HostEvents := by
  intro s pa half write q vals counted inv up h data
  dsimp only
  refine ⟨fun other => ?_, fun mine free => ?_, exec_hostHdmAccess_held, fun none => ?_, exec_hostSnoop_held, State.evictHalf_held,
    exec_bridgeDeviceAccess_loads, exec_bridgeDeviceAccess_fetches, exec_bridgeDeviceAccess_stores, exec_bridgeDeviceAccess_claims,
    exec_hostFillReply_new, rfl, rfl, rfl, fun die tid => (s.wakeEvents_ctx die tid).trans (Ctx.wokenAt_eq _ _)⟩
  · rw [exec_hostHdmAccess_refused other]
    cases write <;> rfl
  · cases write with
    | none => exact exec_hostHdmAccess_reads mine free
    | some v => exact exec_hostHdmAccess_writes mine free v
  · change execHostSnoop half inv s = _
    simp only [execHostSnoop, none]

/-- Settles O48: the events of the links, then those of the host. -/
theorem linkAndHostEvents : Obligations.LinkAndHostEvents := ⟨linkEvents, hostEvents⟩

end Sys2Proof.Machine
end

section
/-! PROOFS. Keys, capabilities, errors, events and fault records (O45): a slot word by its fields, what clearing a slot leaves, the list of the
capability records, and TRAP.RET at its record (R375, R376, R393, R396, R399, R406 to R409, R447). -/

namespace Sys2Proof.Machine

set_option Elab.async false

/-! ## KEYOP (R393, R406) -/

/-- A slot word is malformed where a field that must be zero is not (R406). -/
theorem slotWordBad_iff (w : Word) : slotWordBad w.toNat = true ↔ w.extractLsb' 7 9 ≠ 0 ∨ w.extractLsb' 26 38 ≠ 0 := by
  simp only [slotWordBad, Bool.or_eq_true, bne_iff_ne, field_ne_zero w 15 7 9, field_ne_zero w 63 26 38]

/-- The key slot of a slot word, by its fields (R406). -/
theorem slotOf_word (w : Word) : slotOf w.toNat = ⟨(w.extractLsb' 16 9).toNat, w.getLsbD 25⟩ := by
  rw [slotOf, bitsOf_eq_extract w 24 16 9, getLsbD_eq_bitOf]

/-- A word of a line is scrambled: a free value is written. -/
def State.scrambleWord (line : Nat) (s : State) (i : Nat) : State := s.draw.2.write (128 * line + 8 * i) 8 s.draw.1.toNat

theorem State.scrambleWord_vault (line : Nat) (s : State) (i : Nat) : (s.scrambleWord line i).vault = s.vault := rfl

theorem State.scramble_vault (s : State) (line : Nat) : (s.scramble line).vault = s.vault :=
  foldl_keeps State.vault (State.scrambleWord line) (State.scrambleWord_vault line) _ _

theorem State.scrambleLines_vault (l : SMap Nat) (s : State) :
    (l.foldl (fun (s : State) e => s.scramble e.1) s).vault = s.vault :=
  foldl_keeps State.vault (fun (s : State) (e : Nat × Nat) => s.scramble e.1) (fun s e => s.scramble_vault e.1) l s

/-- What discarding a copy leaves: the die's copy is gone, and neither the vault, the tags of lines nor a core changes. -/
theorem State.discardCopy_leaves (s : State) (line die : Nat) : (s.discardCopy line die).proxies = s.proxies.erase (4 * line + die) ∧
    (s.discardCopy line die).vault = s.vault ∧ (s.discardCopy line die).lineKeys = s.lineKeys ∧ (s.discardCopy line die).cores = s.cores := by
  unfold State.discardCopy
  split
  · split <;> exact ⟨rfl, rfl, rfl, rfl⟩
  · exact ⟨rfl, rfl, rfl, rfl⟩

/-- A core without the lines that a key slot tags. -/
def Core.dropKey (k : Nat) (q : Core) : Core := { q with cache := q.cache.filter fun l => l.2.key != k }

/-- Discard the copies of a list, each named by its line and die. -/
def State.discardCopies (s : State) (l : SMap Proxy) : State := l.foldl (fun s e => s.discardCopy (e.1 / 4) (e.1 % 4)) s

/-- Discarding a list of copies leaves those that the list does not name. -/
theorem State.discardCopies_leaves (l : SMap Proxy) (s : State) : (s.discardCopies l).vault = s.vault ∧
    (s.discardCopies l).lineKeys = s.lineKeys ∧ (s.discardCopies l).cores = s.cores ∧
    ∀ e ∈ (s.discardCopies l).proxies, e ∈ s.proxies ∧ ∀ y ∈ l, e.1 ≠ y.1 := by
  induction l generalizing s with
  | nil => exact ⟨rfl, rfl, rfl, fun e here => ⟨here, by simp⟩⟩
  | cons x r ih =>
    obtain ⟨proxies, vault, keys, cores⟩ := s.discardCopy_leaves (x.1 / 4) (x.1 % 4)
    obtain ⟨vaults, keyss, coress, left⟩ := ih (s.discardCopy (x.1 / 4) (x.1 % 4))
    refine ⟨vaults.trans vault, keyss.trans keys, coress.trans cores, fun e here => ?_⟩
    obtain ⟨before, other⟩ := left e here
    rw [proxies, Nat.div_add_mod, SMap.erase, List.mem_filter] at before
    exact ⟨before.1, List.forall_mem_cons.2 ⟨by simpa using before.2, other⟩⟩

/-- KEYOP.CLR leaves no line under the keys that it clears (log 37). -/
theorem State.discardKey_leaves (s : State) {k : Nat} (slot : k < 128) : (s.discardKey k).vault = s.vault ∧
    (∀ e ∈ (s.discardKey k).proxies, e.2.key ≠ k) ∧ (∀ e ∈ (s.discardKey k).lineKeys, e.2 ≠ k) ∧
    ∀ q, ∀ l ∈ ((s.discardKey k).core q).cache, l.2.key ≠ k := by
  let u : State := (s.lineKeys.filter fun e => e.2 == k).foldl (fun s e => s.scramble e.1) s
  let v : State := { u with lineKeys := u.lineKeys.map fun e => if e.2 = k then (e.1, 128) else e }
  let w : State := { v with cores := v.cores.map fun e => (e.1, e.2.dropKey k) }
  have scrambled : u.vault = s.vault := State.scrambleLines_vault _ s
  obtain ⟨vault, keys, cores, left⟩ := w.discardCopies_leaves (w.proxies.filter fun e => e.2.key == k)
  change (w.discardCopies _).vault = _ ∧ (∀ e ∈ (w.discardCopies _).proxies, _) ∧ (∀ e ∈ (w.discardCopies _).lineKeys, _) ∧
    ∀ q, ∀ l ∈ ((w.discardCopies _).core q).cache, _
  refine ⟨vault.trans scrambled, fun e here keyed => ?_, fun e here => ?_, fun q l here => ?_⟩
  · obtain ⟨before, other⟩ := left e here
    exact other e (List.mem_filter.2 ⟨before, beq_iff_eq.2 keyed⟩) rfl
  · rw [keys] at here
    obtain ⟨x, -, rfl⟩ := List.mem_map.1 here
    split
    next => exact Nat.ne_of_gt slot
    next other => exact other
  · rw [State.core, cores, SMap.get, SMap.find?_map v.cores (Core.dropKey k)] at here
    cases found : v.cores.find? q with
    | none =>
      rw [found] at here
      exact absurd here List.not_mem_nil
    | some x =>
      rw [found] at here
      simpa using (List.mem_filter.1 here).2

section Keyop

variable {s : State} {a b x : R5}

theorem exec_keyop_bad (bad : slotWordBad (s.me.xr b).toNat = true) : exec (.keyopGen a b) s = .next (s.doneLong a 2) ∧
    exec (.keyopLoad a b x) s = .next (s.doneLong a 2) ∧ exec (.keyopClr a b) s = .next (s.doneLong a 2) :=
  ⟨congrArg _ (if_pos bad), congrArg _ (if_pos bad), congrArg _ (if_pos bad)⟩

variable (formed : ¬slotWordBad (s.me.xr b).toNat = true)
include formed

theorem exec_keyop_used (used : (s.vault.find? ((s.me.xr b).toNat % 128)).isSome) : exec (.keyopGen a b) s = .next (s.doneLong a 1) ∧
    exec (.keyopLoad a b x) s = .next (s.doneLong a 1) ∧ exec (.keyopClr a b) s =
      .next ((State.discardKey { s with vault := s.vault.erase ((s.me.xr b).toNat % 128) } ((s.me.xr b).toNat % 128)).doneLong a 0) :=
  ⟨congrArg _ ((if_neg formed).trans (if_pos used)), congrArg _ ((if_neg formed).trans (if_pos used)),
    congrArg _ ((if_neg formed).trans (if_neg (Bool.eq_false_iff.1 (Option.isNone_eq_false_iff.2 used))))⟩

variable (empty : s.vault.find? ((s.me.xr b).toNat % 128) = none)
include empty

theorem exec_keyop_empty : exec (.keyopGen a b) s =
      .next (State.doneLong { s with vault := s.vault.set ((s.me.xr b).toNat % 128) (slotOf (s.me.xr b).toNat) } a 0) ∧
    exec (.keyopClr a b) s = .next (s.doneLong a 4) :=
  ⟨congrArg _ ((if_neg formed).trans (if_neg (by simp [empty]))), congrArg _ ((if_neg formed).trans (if_pos (by simp [empty])))⟩

/-- KEYOP.LOAD once it has read its blob (R406). -/
theorem exec_keyopLoad_read (read : s.me.stage ≠ 0) : exec (.keyopLoad a b x) s = .next (if Config.unwraps s.me.buf
    then State.doneLong { s with vault := s.vault.set ((s.me.xr b).toNat % 128) (slotOf (s.me.xr b).toNat) } a 0 else s.doneLong a 3) :=
  congrArg _ ((if_neg formed).trans ((if_neg (by simp [empty])).trans (if_neg read)))

end Keyop

/-! ## The capability list (R396, R407) -/

theorem find?_unique {α : Type} {l : List α} {p : α → Bool} {a : α} (here : a ∈ l) (holds : p a) (only : ∀ b ∈ l, p b → b = a) :
    l.find? p = some a := by
  obtain ⟨b, found⟩ := Option.isSome_iff_exists.1 (List.find?_isSome.2 ⟨a, here, holds⟩)
  rw [found, only b (List.mem_of_find?_eq_some found) (List.find?_some found)]

theorem mem_capIds {id : Nat} : id ∈ capIds ↔ 1 ≤ id ∧ id ≤ 9 := by
  simp only [capIds, List.mem_cons, List.not_mem_nil, or_false]
  omega

theorem capBytes_bounds (id : Nat) : 8 ≤ capBytes id ∧ capBytes id ≤ 8192 ∧ 8 ∣ capBytes id := by
  rw [capBytes]
  omega

/-- One record follows another (log 7). -/
theorem capStart_succ {id : Nat} (low : 1 ≤ id) (high : id ≤ 9) : capStart (id + 1) = capStart id + capBytes id := by
  have next : ∀ j ≤ 9, 1 ≤ j → capIds.filter (· < j + 1) = capIds.filter (· < j) ++ [j] := by decide
  rw [capStart, next id high low, List.map_append, List.sum_append]
  rfl

theorem capStart_after {i j : Nat} (low : 1 ≤ i) (later : i < j) (high : j ≤ 9) : capStart i + capBytes i ≤ capStart j := by
  induction j, later using Nat.le_induction with
  | base => exact (capStart_succ low (by omega)).ge
  | succ j later ih =>
    rw [capStart_succ (by omega) (by omega)]
    exact (ih (by omega)).trans (Nat.le_add_right _ _)

theorem capStart_aligned (id : Nat) : 8 ∣ capStart id := by
  refine List.dvd_sum fun n here => ?_
  obtain ⟨j, -, rfl⟩ := List.mem_map.1 here
  exact (capBytes_bounds j).2.2

theorem capStart_le {id : Nat} (low : 1 ≤ id) (high : id ≤ 9) : capStart id ≤ 8192 * id := by
  induction id, low using Nat.le_induction with
  | base => exact Nat.zero_le _
  | succ j low ih =>
    rw [capStart_succ low (by omega), Nat.mul_add, Nat.mul_one]
    exact Nat.add_le_add (ih (by omega)) (capBytes_bounds j).2.1

/-- The record that begins at an offset is the one that CAPR finds there. -/
theorem State.capRead_start (s : State) {id : Nat} (low : 1 ≤ id) (high : id ≤ 9) :
    s.capRead (capStart id) = BitVec.ofNat 64 (capHeader id) := by
  have found : capIds.find? (fun j => decide (capStart j ≤ capStart id ∧ capStart id < capStart j + capBytes j)) = some id := by
    refine find?_unique (mem_capIds.2 ⟨low, high⟩) (decide_eq_true ⟨le_rfl, by have := (capBytes_bounds id).1; omega⟩) fun j here holds => ?_
    obtain ⟨jlow, jhigh⟩ := mem_capIds.1 here
    obtain ⟨before, within⟩ := of_decide_eq_true holds
    rcases Nat.lt_trichotomy j id with less | same | more
    · exact absurd within (Nat.not_lt.2 (capStart_after jlow less high))
    · exact same
    · have := capStart_after low more jhigh
      have := (capBytes_bounds id).1
      omega
  rw [State.capRead, if_neg (by have := capStart_aligned id; omega), found]
  exact if_pos rfl

/-- The header of a record holds its id on top, and below the offset of the next record, or 0 at the end (R396). -/
theorem capHeader_fields {id : Nat} (low : 1 ≤ id) (high : id ≤ 9) : (BitVec.ofNat 64 (capHeader id)).toNat / 2 ^ 48 = id ∧
    (BitVec.ofNat 64 (capHeader id)).toNat % 2 ^ 24 = if id = 9 then 0 else capFind (id + 1) := by
  have next : (if capIds.contains (id + 1) then capStart (id + 1) else 0) = if id = 9 then 0 else capFind (id + 1) := by
    by_cases last : id = 9
    · subst last
      rfl
    · rw [if_neg last]
      rfl
  have small : (if id = 9 then 0 else capFind (id + 1)) < 2 ^ 24 := by
    split
    next => decide
    next more =>
      have inside : capIds.contains (id + 1) = true := List.contains_iff_mem.2 (mem_capIds.2 (by omega))
      have := capStart_le (id := id + 1) (by omega) (by omega)
      rw [capFind, if_pos inside]
      omega
  have bytes := (capBytes_bounds id).2.1
  have header : capHeader id = id * 2 ^ 48 + Config.capVersion id % 256 * 2 ^ 40 + capBytes id * 2 ^ 24 +
      (if id = 9 then 0 else capFind (id + 1)) := congrArg _ next
  rw [BitVec.toNat_ofNat, header]
  omega

/-! ## Errors and events (R408, R409) -/

theorem locationExists_outside {die cls inst loc : Nat} (outside : 9 < cls ∨ (cls ∈ [0, 4, 5] ∧ 8192 ≤ inst) ∨
    (cls ∈ [1, 2, 3] ∧ 2048 ≤ inst) ∨ (cls = 9 ∧ (8 ≤ inst ∨ die ≠ 0))) : locationExists die cls inst loc = false := by
  have slices (none : decide (inst < Config.slices) = false) (of : cls ∈ [1, 2, 3]) : locationExists die cls inst loc = false := by
    simp only [List.mem_cons, List.not_mem_nil, or_false] at of
    rcases of with rfl | rfl | rfl <;> rw [locationExists, none, Bool.false_and, Bool.false_and]
  have cores (none : decide (inst < Config.cores) = false) (of : cls ∈ [0, 4, 5]) : locationExists die cls inst loc = false := by
    simp only [List.mem_cons, List.not_mem_nil, or_false] at of
    rcases of with rfl | rfl | rfl <;> rw [locationExists, none, Bool.false_and, Bool.false_and]
  rcases outside with past | ⟨core, past⟩ | ⟨slice, past⟩ | ⟨rfl, past⟩
  · unfold locationExists
    split
    iterate 10 exact absurd past (by decide)
    rfl
  · exact cores (decide_eq_false (Nat.not_lt.2 past)) core
  · exact slices (decide_eq_false (Nat.not_lt.2 past)) slice
  · rcases past with past | past <;> simp [locationExists, past]

theorem locationExists_hbm {die inst loc : Nat} : locationExists die 8 inst loc = true ↔
    hbmExists (loc * 65536) = true ∧ loc * 65536 / 2 ^ 38 % 4 = die := by
  simp only [locationExists, bitsOf_eq_div, beq_self_eq_true, Bool.true_or, Bool.and_true, Bool.and_eq_true, beq_iff_eq]
  rfl

section Errq

variable {s : State} {a b : R5}

theorem exec_errqInj (a b : R5) (s : State) : exec (.errqInj a b) s =
    (let w := s.me.xr b
     let die := dieOf s.me.core
     let cls := (w.extractLsb' 56 4).toNat
     let inst := (w.extractLsb' 40 16).toNat
     let loc := (w.extractLsb' 16 24).toNat
     let u := s.setDie die { s.die die with armed := (s.die die).armed ++ [(cls, inst, loc)] }
     .next (if locationExists die cls inst loc then (if cls = 8 then u else u.post (.softErrorCorrected die cls inst loc)).doneLong a 0
       else s.doneLong a 1)) := by
  simp only [← bitsOf_eq_extract _ 59 56 4, ← bitsOf_eq_extract _ 55 40 16, ← bitsOf_eq_extract _ 39 16 24]
  rfl

theorem exec_errqPop_empty (empty : (s.die (dieOf s.me.core)).errq = []) : exec (.errqPop a) s = .next (s.doneLong a 0) := by
  change execErrqPop a s = _
  simp only [execErrqPop, empty]

theorem exec_errqPop_oldest {e : Word} {r : List Word} (queued : (s.die (dieOf s.me.core)).errq = e :: r) : exec (.errqPop a) s =
    .next ((s.setDie (dieOf s.me.core) { s.die (dieOf s.me.core) with errq := r }).doneLong a e) := by
  change execErrqPop a s = _
  simp only [execErrqPop, queued]

end Errq

/-- `Claims.KeysErrorsEvents`. -/
theorem keysErrorsEvents : Claims.KeysErrorsEvents := by
  intro s a b x e r
  dsimp only
  have badWord := slotWordBad_iff (s.me.xr b)
  have slot := slotOf_word (s.me.xr b)
  refine ⟨fun bad => ?_, fun formed used => ?_, fun formed empty => ?_, fun empty => ?_, fun y holds => ?_, completes_finish rfl, fun odd => if_pos odd,
    completes_finish rfl, fun id past => if_neg ?_, rfl, fun id low high => ?_, fun empty => ?_, fun queued => ?_, completesLong_doneLong rfl,
    ⟨fun none => ?_, fun there => ?_, locationExists_outside, fun hbm => ?_⟩, ?_⟩
  · obtain ⟨gen, load, clr⟩ := exec_keyop_bad (a := a) (x := x) (badWord.2 bad)
    exact ⟨completesLong_doneLong gen, completesLong_doneLong load, completesLong_doneLong clr⟩
  · obtain ⟨gen, load, clr⟩ := exec_keyop_used (a := a) (x := x) (mt badWord.1 formed) used
    obtain ⟨vault, proxies, keys, caches⟩ :=
      State.discardKey_leaves { s with vault := s.vault.erase ((s.me.xr b).toNat % 128) } (Nat.mod_lt (s.me.xr b).toNat (by decide : 0 < 128))
    exact ⟨completesLong_doneLong gen, completesLong_doneLong load, _, completesLong_doneLong clr, vault, proxies, keys, caches⟩
  · obtain ⟨gen, clr⟩ := exec_keyop_empty (a := a) (mt badWord.1 formed) empty
    rw [slot] at gen
    refine ⟨completesLong_doneLong gen, completesLong_doneLong clr, fun read => ?_⟩
    have load := exec_keyopLoad_read (a := a) (x := x) (mt badWord.1 formed) empty read
    rw [slot] at load
    split
    next unwraps => exact completesLong_doneLong (load.trans (congrArg _ (if_pos unwraps)))
    next fails => exact completesLong_doneLong (load.trans (congrArg _ (if_neg fails)))
  · refine completesLong_doneLong ?_
    change execKeyopQ a b s = _
    simp only [execKeyopQ, empty]
  · refine completesLong_doneLong ?_
    change execKeyopQ a b s = _
    rw [execKeyopQ, holds]
  · exact fun known => by have := mem_capIds.1 (List.contains_iff_mem.1 known); omega
  · rw [show capFind id = capStart id from if_pos (List.contains_iff_mem.2 (mem_capIds.2 ⟨low, high⟩)), s.capRead_start low high]
    exact capHeader_fields low high
  · exact completesLong_doneLong (exec_errqPop_empty empty)
  · exact completesLong_doneLong (exec_errqPop_oldest queued)
  · exact completesLong_doneLong ((exec_errqInj a b s).trans (congrArg _ (if_neg (Bool.eq_false_iff.1 none))))
  · have armed := (exec_errqInj a b s).trans (congrArg _ (if_pos there))
    split
    next hbm => exact completesLong_doneLong (armed.trans (congrArg (fun t => Host.Outcome.next (State.doneLong t a 0)) (if_pos hbm)))
    next other => exact armed.trans (congrArg (fun t => Host.Outcome.next (State.doneLong t a 0)) (if_neg other))
  · rw [hbm]
    exact locationExists_hbm
  · split
    next waits =>
      have parks : exec .wfe s = .next ((s.parkMe .event).setMe { (s.parkMe .event).me with stage := 1 }) :=
        congrArg _ (if_neg (not_or.2 ⟨waits.2, not_not.2 waits.1⟩))
      refine ⟨_, parks, ?_⟩
      rw [State.parkMe, State.me_setMe, State.setMe_setMe]
      exact differs_setCtx _ _ _
    next goes =>
      have ready : s.me.stage = 1 ∨ s.sevt (dieOf s.me.core) ≠ 0 := by tauto
      exact completesFrom_done (congrArg Host.Outcome.next (if_pos ready))

/-! ## Fault records (R375, R376, R399, R447) -/

/-- The Teller operation that the record at a place reports, noted. -/
def State.noteStop (s : State) (pa cell op : Nat) : State :=
  { s with stops := (s.stops.filter fun (x : Nat × Nat × Nat) => x.1 != pa) ++ [(pa, cell, op)] }

section Deliver

variable {s : State} {r : FaultRec} {dom pa k : Nat} {lf : Leaf}

theorem exec_deliverRetry_nowhere (nowhere : s.domainArea r.home r.asid = none) : exec (.deliverRetry r) s =
    .next ((s.at (s.pcyc + 1024) (.deliverRetry { r with stuck := true })).wakeEvents 0) := by
  change execDeliverRetry r s = _
  simp only [execDeliverRetry, nowhere]

variable (area : s.domainArea r.home r.asid = some (dom, pa, lf))
include area

/-- A delivery that finds no free slot (R375): the first such time is counted. -/
theorem exec_deliverRetry_full (full : s.freeRecord pa = none) : exec (.deliverRetry r) s =
    .next ((if r.waited then s else (s.touchLeaf lf true).2.bumpArea (pa + 8)).at
      ((if r.waited then s else (s.touchLeaf lf true).2.bumpArea (pa + 8)).pcyc + 1024) (.deliverRetry { r with waited := true, stuck := false })) := by
  change execDeliverRetry r s = _
  simp only [execDeliverRetry, area, full]

variable (free : s.freeRecord pa = some k)
include free

theorem exec_deliverRetry_room (none : r.op = none) : exec (.deliverRetry r) s =
    .next ((((s.touchLeaf lf true).2.homeStore (pa + 128 * k) 128 (valueOf (faultBytes r (dom != r.home))) false).2.bumpArea pa)) := by
  change execDeliverRetry r s = _
  simp only [execDeliverRetry, area, free, none]

/-- The record of a stopped Teller operation also notes which one it reports (R375). -/
theorem exec_deliverRetry_stopped {cell op : Nat} (some : r.op = some (cell, op)) : exec (.deliverRetry r) s =
    .next ((((s.touchLeaf lf true).2.noteStop (pa + 128 * k) cell op).homeStore (pa + 128 * k) 128
      (valueOf (faultBytes r (dom != r.home))) false).2.bumpArea pa) := by
  change execDeliverRetry r s = _
  simp only [execDeliverRetry, area, free, some, State.noteStop]

end Deliver

/-- The slot that a record takes is the lowest free one of the 31 (R375). -/
theorem State.freeRecord_lowest {s : State} {pa k : Nat} (free : s.freeRecord pa = some k) :
    1 ≤ k ∧ k ≤ 31 ∧ s.view (pa + 128 * k + 4) 1 = 0 ∧ ∀ j, 1 ≤ j → j < k → s.view (pa + 128 * j + 4) 1 ≠ 0 := by
  rw [State.freeRecord, List.find?_map, Option.map_eq_some_iff] at free
  obtain ⟨i, found, rfl⟩ := free
  obtain ⟨zero, inside, earlier⟩ := List.find?_range_eq_some.1 found
  refine ⟨Nat.le_add_left 1 i, List.mem_range.1 inside, by simpa using zero, fun j low less => ?_⟩
  have := earlier (j - 1) (by omega)
  simpa [Nat.sub_add_cancel low] using this

/-- An instruction goes on at once where its core holds no line and writes none back. -/
theorem State.afterYield_idle {s : State} {lines : List Nat} {k : State → State} (empty : (s.core s.me.core).cache = [])
    (idle : s.writingBack s.me.core = false) : s.afterYield lines k = k s := by
  have holdsNone : ¬(lines.any fun l => s.holdsLine s.me.core l) = true := by
    simp [State.holdsLine, State.heldTags, empty]
  exact (if_neg holdsNone).trans (if_neg (Bool.eq_false_iff.1 idle))

section TrapRet

variable {s : State} {b : R5} {disp : BitVec 16} {p : Place}

/-- The 128 bytes of the record at a place. -/
def State.recordAt (s : State) (pa : Nat) : List Byte := (List.range 16).flatMap fun i => bytesOf 8 (s.view (pa + 8 * i) 8)

theorem exec_trapRet_read (handler : s.me.thid.toNat = s.rcbWord s.me.rcb.toNat s.me.asid 8)
    (place : s.place s.me { n := 128, r := true, w := true, noPool := some 6, onlyDevice := some 6, store := true } 0 (s.me.xr b) 0 = .ok p)
    (free : s.pageHolding p.lane.pa = none) (empty : (s.core s.me.core).cache = []) (idle : s.writingBack s.me.core = false) :
    exec (.trapRet b disp) s = .next (let u := s.settle s.me.core s.me.asid true p
      let bs := u.recordAt p.lane.pa
      if field bs 4 1 ≠ 1 ∨ !accepts (field bs 0 4) disp.toNat then u.doneX b (BitVec.ofNat 64 (2 ^ 63 + 2))
      else
        let w := ((u.homeStore (p.lane.pa + 4) 2 (2 + 256 * disp.toNat) false).2).actDisposition p.lane.pa bs disp.toNat
        (({ w with stops := w.stops.filter fun (x : Nat × Nat × Nat) => x.1 != p.lane.pa }).homeStore (p.lane.pa + 4) 1 0 false).2.done) := by
  refine (if_neg (not_not.2 handler)).trans ?_
  simp only [place, free, Option.isSome_none, Bool.false_eq_true, if_false]
  rw [State.afterYield_idle empty idle]
  rfl

end TrapRet

/-- `Claims.FaultRecords`. -/
theorem faultRecords : Claims.FaultRecords := by
  intro s r b disp dom pa k lf p
  dsimp only
  refine ⟨exec_deliverRetry_nowhere, fun area full waited => ?_, fun area full first => ?_, fun area free => ?_, State.freeRecord_lowest,
    fun other => if_pos other, fun handler place free empty idle => ⟨fun refused => ?_, fun written accepted => ?_⟩⟩
  · rw [exec_deliverRetry_full area full, if_pos waited, ← waited]
  · rw [exec_deliverRetry_full area full, first]
    rfl
  · cases op : r.op with
    | none => exact exec_deliverRetry_room area free op
    | some x => exact exec_deliverRetry_stopped area free op
  · exact completesFrom_finish ((exec_trapRet_read handler place free empty idle).trans (congrArg _ (if_pos (refused.imp_right fun no => by rw [State.recordAt, no]; rfl))))
  · exact (exec_trapRet_read handler place free empty idle).trans (congrArg _ (if_neg (not_or.2 ⟨not_not.2 written, by rw [State.recordAt, accepted]; decide⟩)))

/-- Settles O45: the clauses of the two claims. -/
theorem keysErrorsAndRecords : Obligations.KeysErrorsAndRecords := ⟨keysErrorsEvents, faultRecords⟩

end Sys2Proof.Machine
end

section
/-! PROOFS. Region control blocks (O35): what an update at the home answers and writes, form by form (R323 to R325, R347 to R349). -/

namespace Sys2Proof.Machine

set_option Elab.async false

/-! ## An update at the home (R116, R323) -/

theorem State.rcbWords_getD (s : State) (pa : Nat) {k : Nat} (word : k < 32) : (s.rcbWords pa).getD k 0 = s.view (pa + 8 * k) 8 := by
  simp [State.rcbWords, word]

section Update

variable {s v : State} {a b : R5} {q : Place} {i : Instr} {f : List Nat → State → Nat → Nat × State} {n : Nat}

/-- An update of an RCB that nothing holds up answers with the status that its rule gives. -/
theorem completesLong_updateRcb (place : s.rcbPlace (s.me.xr b) true = .ok q) (free : s.pageHolding q.lane.pa = none)
    (empty : (s.core s.me.core).cache = []) (idle : s.writingBack s.me.core = false) (updates : exec i s = s.updateRcb a b f)
    (rule : f ((s.settle s.me.core s.me.asid true q).rcbWords q.lane.pa) (s.settle s.me.core s.me.asid true q) q.lane.pa = (n, v)) :
    CompletesLong i s v a (BitVec.ofNat 64 n) := by
  refine completesLong_doneLong (updates.trans ?_)
  simp only [State.updateRcb, place, free, State.afterYield_idle empty idle, rule]

end Update

/-! ## The rules of the forms (R347, R348; log 20) -/

/-- HOLD, RELEASE and RETIRE as a rule on the RCB's words. -/
def stateRule (f : Nat → Nat → Option Nat) (w : List Nat) (s : State) (pa : Nat) : Nat × State :=
  match f (stateOfWord (w.getD rcbState 0)) (w.getD rcbLive 0) with
  | some st => if st < 4 then (0, (s.homeStore (pa + 8 * rcbState) 8 (w.getD rcbState 0 / 8 * 8 + st) false).2) else (st - 4, s)
  | none => (4, s)

/-- The state that HOLD leaves an RCB in, from its state. -/
def holdTo (st : Nat) (_ : Nat) : Option Nat := if st = 1 ∨ st = 2 then some 2 else none

/-- The state that RELEASE leaves an RCB in, from its state. -/
def releaseTo (st : Nat) (_ : Nat) : Option Nat := if st = 2 then some 1 else none

/-- The state that RETIRE leaves an RCB in, from its state and its live threads; a value above 3 stands for a status. -/
def retireTo (st live : Nat) : Option Nat := if st = 1 ∨ st = 2 then (if live = 0 then some 3 else some 5) else none

section

variable (s : State) (a b : R5)

theorem exec_rcbopHold_rule : exec (.rcbopHold a b) s = s.updateRcb a b (stateRule holdTo) := rfl
theorem exec_rcbopRelease_rule : exec (.rcbopRelease a b) s = s.updateRcb a b (stateRule releaseTo) := rfl
theorem exec_rcbopRetire_rule : exec (.rcbopRetire a b) s = s.updateRcb a b (stateRule retireTo) := rfl

end

/-- SET as a rule on the RCB's words. -/
def setRule (b : Word) (idx v : Nat) (w : List Nat) (s : State) (pa : Nat) : Nat × State :=
  let st := stateOfWord (w.getD rcbState 0)
  let parent := w.getD rcbParent 0
  let asid := bitsOf (w.getD rcbPri 0) 40 32
  if idx < 3 ∨ idx > 5 then (1, s)
  else if st ≠ 1 ∧ st ≠ 2 then (4, s)
  else if !budgetOk idx v || (idx == 3 && (bitsOf v 40 32 == 0 || (parent != 0 && bitsOf v 40 32 != asid))) then (1, s)
  else if parent ≠ 0 ∧ !withinParent idx v (s.rcbWord parent asid idx) then (2, s)
  else (0, ((if idx = rcbLim then s.limitParks b.toNat asid (v % 2 ^ 17) else s).homeStore (pa + 8 * idx) 8 v false).2)

theorem exec_rcbopSet_rule {s : State} {a b : R5} {o : Op2} (word : (s.me.op2U o).toNat ≤ 31) :
    exec (.rcbopSet a b o) s = s.updateRcb a b (setRule (s.me.xr b) (s.me.op2U o).toNat (s.me.xr a).toNat) :=
  if_neg (Nat.not_lt.2 word)

/-- The words of a new RCB as CREATE writes them: its own, with the parent, the identity, the level and state 1, and 0 where hardware keeps a
word (R348). -/
def newRcb (serial parent level : Nat) (n : List Nat) : List Nat :=
  (([rcbSpHead, rcbSpTail, rcbLive, rcbUse, rcbNltn].foldl (fun (l : List Nat) k => l.set k 0) n).set rcbParent parent).set rcbState
    (serial % 2 ^ 32 * 2 ^ 32 + level * 256 + 1)

theorem newRcb_words {n : List Nat} (whole : n.length = 32) (serial parent level : Nat) : newRcb serial parent level n =
    (List.range 32).map fun k => if k = 21 then serial % 2 ^ 32 * 2 ^ 32 + level * 256 + 1 else if k = 0 then parent
      else if k ∈ [11, 12, 18, 19, 20] then 0 else n.getD k 0 := by
  refine List.ext_getElem (by simp [newRcb, whole]) fun k inside _ => ?_
  simp [newRcb, rcbSpHead, rcbSpTail, rcbLive, rcbUse, rcbNltn, rcbParent, rcbState, List.getElem_set]
  have word : k < n.length := by simpa [newRcb] using inside
  rw [List.getElem?_eq_getElem word, Option.getD_some]
  grind

/-- The words of a new RCB with a group that it does not set taken from its parent (R324). -/
def inheritGroup (ovr : Nat) (p w : List Nat) (g : Nat × Nat × Nat) : List Nat :=
  if bitOf ovr g.1 then w else w.set g.2.1 ((w.getD g.2.1 0 &&& (2 ^ 64 - 1 - g.2.2)) ||| (p.getD g.2.1 0 &&& g.2.2))

theorem inherit_length (w p : List Nat) : (inherit w p).length = w.length := by
  refine List.length_set.trans (foldl_keeps List.length (inheritGroup (w.getD rcbOvr 0) p) (fun w g => ?_) rcbGroups w)
  rw [inheritGroup]
  split
  · rfl
  · exact List.length_set

/-- The write of a new RCB at its home. -/
def State.writeRcb (s : State) (pa parent level : Nat) (n : List Nat) : State :=
  let v := ofLanes 64 (newRcb s.rcbSerial parent level n)
  ((({ s with rcbSerial := s.rcbSerial + 1 } : State).homeStore pa 128 (v % 2 ^ 1024) false).2.homeStore (pa + 128) 128 (v / 2 ^ 1024) false).2

/-- CREATE of a root as a rule on the words that it was given. -/
def createRootRule (w : List Nat) (s : State) (pa : Nat) : Nat × State :=
  let asid := bitsOf (w.getD rcbPri 0) 40 32
  if stateOfWord (w.getD rcbState 0) = 1 ∨ stateOfWord (w.getD rcbState 0) = 2 then (4, s)
  else if !rcbOk w true || asid == 0 || !s.asidValid asid then (1, s)
  else (0, s.writeRcb pa 0 0 w)

/-- CREATE of a child of the RCB at a place as a rule on the words that it was given. -/
def createChildRule (parent : Nat) (x : Nat) (w : List Nat) (s : State) (pa : Nat) : Nat × State :=
  let pw := s.rcbWords x
  let pst := stateOfWord (pw.getD rcbState 0)
  let level := bitsOf (pw.getD rcbState 0) 10 8 + 1
  let n := inherit w pw
  let asid := bitsOf (n.getD rcbPri 0) 40 32
  if stateOfWord (w.getD rcbState 0) = 1 ∨ stateOfWord (w.getD rcbState 0) = 2 then (4, s)
  else if level > 7 || (pst != 1 && pst != 2) then (3, s)
  else if !rcbOk w false || asid == 0 || !s.asidValid asid then (1, s)
  else if !([rcbPri, rcbBud, rcbLim].all (fun k => withinParent k (n.getD k 0) (pw.getD k 0)) &&
      rectInside (rectOf (n.getD rcbCells 0)) (rectOf (pw.getD rcbCells 0))) then (2, s)
  else (0, s.writeRcb pa parent level n)

section Create

variable {s : State} {a b p : R5}

theorem exec_rcbopCreate_root (root : s.me.xr p = 0) : exec (.rcbopCreate a b p) s = s.updateRcb a b createRootRule := by
  have none : (0 : Word).toNat = 0 := rfl
  change execRcbopCreate a b p s = _
  simp only [execRcbopCreate, root, none, beq_self_eq_true, if_true, Bool.not_true, Bool.false_and, Bool.false_eq_true, if_false]
  rfl

theorem exec_rcbopCreate_child {h : Place} (child : s.me.xr p ≠ 0) (place : s.rcbPlace (s.me.xr p) false = .ok h) :
    exec (.rcbopCreate a b p) s = s.updateRcb a b (createChildRule (s.me.xr p).toNat h.lane.pa) := by
  have inner : ((s.me.xr p).toNat == 0) = false := by simpa [BitVec.toNat_eq] using child
  change execRcbopCreate a b p s = _
  simp only [execRcbopCreate, inner, place]
  rfl

end Create

section StateRule

variable {u : State} {pa n : Nat} {f : Nat → Nat → Option Nat}

theorem stateRule_sets (next : f (u.view (pa + 8 * 21) 8 % 8) (u.view (pa + 8 * 18) 8) = some n) (state : n < 4) :
    stateRule f (u.rcbWords pa) u pa = (0, (u.homeStore (pa + 8 * 21) 8 (u.view (pa + 8 * 21) 8 / 8 * 8 + n) false).2) := by
  simp only [stateRule, rcbState, rcbLive, stateOfWord, u.rcbWords_getD pa (by decide : 21 < 32), u.rcbWords_getD pa (by decide : 18 < 32), next,
    if_pos state]

theorem stateRule_status (next : f (u.view (pa + 8 * 21) 8 % 8) (u.view (pa + 8 * 18) 8) = some (n + 4)) :
    stateRule f (u.rcbWords pa) u pa = (n, u) := by
  simp only [stateRule, rcbState, rcbLive, stateOfWord, u.rcbWords_getD pa (by decide : 21 < 32), u.rcbWords_getD pa (by decide : 18 < 32), next,
    if_neg (Nat.not_lt.2 (Nat.le_add_left 4 n)), Nat.add_sub_cancel]

theorem stateRule_refuses (next : f (u.view (pa + 8 * 21) 8 % 8) (u.view (pa + 8 * 18) 8) = none) :
    stateRule f (u.rcbWords pa) u pa = (4, u) := by
  simp only [stateRule, rcbState, rcbLive, stateOfWord, u.rcbWords_getD pa (by decide : 21 < 32), u.rcbWords_getD pa (by decide : 18 < 32), next]

end StateRule

section SetRule

variable {u : State} {pa idx v : Nat} {b : Word}

/-- A value that SET accepts of a word, but for the parent's (R323, R348). -/
def setFits (w0 w3 idx v : Nat) : Prop :=
  budgetOk idx v ∧ (idx = 3 → v / 2 ^ 32 % 512 ≠ 0 ∧ (w0 = 0 ∨ v / 2 ^ 32 % 512 = w3 / 2 ^ 32 % 512))

theorem setRule_eq : setRule b idx v (u.rcbWords pa) u pa =
    (let w (k : Nat) : Nat := u.view (pa + 8 * k) 8
     let space := w 3 / 2 ^ 32 % 512
     if idx < 3 ∨ 5 < idx then (1, u)
     else if ¬(w 21 % 8 = 1 ∨ w 21 % 8 = 2) then (4, u)
     else if (!budgetOk idx v || (idx == 3 && (v / 2 ^ 32 % 512 == 0 || (w 0 != 0 && v / 2 ^ 32 % 512 != space)))) = true then (1, u)
     else if w 0 ≠ 0 ∧ withinParent idx v (u.rcbWord (w 0) space idx) = false then (2, u)
     else (0, ((if idx = 5 then u.limitParks b.toNat space (v % 2 ^ 17) else u).homeStore (pa + 8 * idx) 8 v false).2)) := by
  simp only [setRule, rcbState, rcbParent, rcbPri, rcbLim, stateOfWord, u.rcbWords_getD pa (by decide : 21 < 32),
    u.rcbWords_getD pa (by decide : 0 < 32), u.rcbWords_getD pa (by decide : 3 < 32), bitsOf_eq_div, not_or, gt_iff_lt, Bool.not_eq_true']
  rfl

theorem setFits_iff {w0 w3 : Nat} : setFits w0 w3 idx v ↔
    ¬(!budgetOk idx v || (idx == 3 && (v / 2 ^ 32 % 512 == 0 || (w0 != 0 && v / 2 ^ 32 % 512 != w3 / 2 ^ 32 % 512)))) = true := by
  rw [setFits]
  grind

end SetRule

section CreateRule

/-- Whether the words of an RCB say that it is active or held (R323). -/
@[reducible] def rcbLives (w : List Nat) : Prop := w.getD 21 0 % 8 = 1 ∨ w.getD 21 0 % 8 = 2

/-- The address space that the words of an RCB name (R323). -/
def rcbSpace (w : List Nat) : Nat := w.getD 3 0 / 2 ^ 32 % 512

/-- The level below an RCB's (R323). -/
def levelBelow (w : List Nat) : Nat := w.getD 21 0 / 256 % 8 + 1

theorem refuses_iff {ok valid : Bool} {n : Nat} : (!ok || n == 0 || !valid) = true ↔ ¬(ok = true ∧ n ≠ 0 ∧ valid = true) := by
  cases ok <;> cases valid <;> simp

theorem not_accepted {ok valid : Bool} {n : Nat} (bad : ok = false ∨ n = 0 ∨ valid = false) : ¬(ok = true ∧ n ≠ 0 ∧ valid = true) := by
  rintro ⟨good, some, holds⟩
  rcases bad with rfl | none | rfl
  · cases good
  · exact some none
  · cases holds

/-- The write of a new RCB, with its words one by one (R348). -/
theorem State.writeRcb_eq {n : List Nat} (whole : n.length = 32) (u : State) (pa parent level : Nat) : u.writeRcb pa parent level n =
    (let words := (List.range 32).map fun k => if k = 21 then u.rcbSerial % 2 ^ 32 * 2 ^ 32 + level * 256 + 1 else if k = 0 then parent
      else if k ∈ [11, 12, 18, 19, 20] then 0 else n.getD k 0
     let v := ofLanes 64 words
     let t := ({ u with rcbSerial := u.rcbSerial + 1 }.homeStore pa 128 (v % 2 ^ 1024) false).2
     (t.homeStore (pa + 128) 128 (v / 2 ^ 1024) false).2) := by
  dsimp only
  rw [← newRcb_words whole]
  rfl

theorem State.rcbWords_length (u : State) (pa : Nat) : (u.rcbWords pa).length = 32 := by simp [State.rcbWords]

variable {u : State} {pa x parent : Nat} {w : List Nat}

theorem createRootRule_eq : createRootRule w u pa = if rcbLives w then (4, u)
    else if ¬(rcbOk w true = true ∧ rcbSpace w ≠ 0 ∧ u.asidValid (rcbSpace w) = true) then (1, u) else (0, u.writeRcb pa 0 0 w) := by
  simp only [createRootRule, refuses_iff, bitsOf_eq_div, stateOfWord]
  rfl

/-- The budget, the limits and the rectangle of a child stay within its parent's (R325; log 20). -/
@[reducible] def insideParent (n up : List Nat) : Prop :=
  withinParent 3 (n.getD 3 0) (up.getD 3 0) ∧ withinParent 4 (n.getD 4 0) (up.getD 4 0) ∧ withinParent 5 (n.getD 5 0) (up.getD 5 0) ∧
    rectInside (rectOf (n.getD 17 0)) (rectOf (up.getD 17 0))

theorem createChildRule_eq : createChildRule parent x w u pa =
    (let up := u.rcbWords x
     let n := inherit w up
     if rcbLives w then (4, u)
     else if ¬rcbLives up ∨ 7 < levelBelow up then (3, u)
     else if ¬(rcbOk w false = true ∧ rcbSpace n ≠ 0 ∧ u.asidValid (rcbSpace n) = true) then (1, u)
     else if ¬insideParent n up then (2, u)
     else (0, u.writeRcb pa parent (levelBelow up) n)) := by
  have placed : ((decide (levelBelow (u.rcbWords x) > 7) || ((u.rcbWords x).getD 21 0 % 8 != 1 && (u.rcbWords x).getD 21 0 % 8 != 2)) = true) ↔
      ¬rcbLives (u.rcbWords x) ∨ 7 < levelBelow (u.rcbWords x) := by
    simp [rcbLives, or_comm]
  have within : (!([3, 4, 5].all (fun k => withinParent k ((inherit w (u.rcbWords x)).getD k 0) ((u.rcbWords x).getD k 0)) &&
      rectInside (rectOf ((inherit w (u.rcbWords x)).getD 17 0)) (rectOf ((u.rcbWords x).getD 17 0)))) = true ↔
      ¬insideParent (inherit w (u.rcbWords x)) (u.rcbWords x) := by
    rw [Bool.not_eq_true', ← Bool.not_eq_true]
    refine not_congr ?_
    simp [insideParent, and_assoc]
  simp only [createChildRule, refuses_iff, bitsOf_eq_div, stateOfWord]
  exact ite_congr rfl (fun _ => rfl) fun _ => ite_congr (propext placed) (fun _ => rfl) fun _ => ite_congr rfl (fun _ => rfl) fun _ =>
    ite_congr (propext within) (fun _ => rfl) fun _ => rfl

end CreateRule

/-- Settles O35: JOIN and the loads by their home, each update by its rule on the RCB's words. -/
theorem regionControlBlocks : Obligations.RegionControlBlocks := by
  intro s a b p o q h
  dsimp only
  refine ⟨fun past => ⟨if_pos past, if_pos past⟩, fun word outside => ?_, fun i n load place => ?_, fun place => ?_,
    fun place free empty idle => ⟨?_, ?_, ?_, fun kept word => ?_, fun low high => ⟨fun dead => ?_, fun live misfit => ?_,
      fun live fits child above => ?_, fun live fits within => ?_⟩,
      fun root => ⟨fun live => ?_, fun dead => ⟨fun bad => ?_, fun ok space valid => ?_⟩⟩⟩,
    fun child parent place free empty idle => ⟨fun live => ?_, fun dead orphan => ?_,
      fun dead live level => ⟨fun bad => ?_, fun given outside => ?_, fun given inside => ?_⟩⟩⟩
  · exact (if_neg (Nat.not_lt.2 word)).trans (if_pos (by simpa using outside))
  · have loads : exec i s = s.loadRcbWord a b n := by
      rcases load with ⟨rfl, rfl, word, inside⟩ | ⟨rfl, rfl⟩
      · exact (if_neg (Nat.not_lt.2 word)).trans (if_neg (by simpa using inside))
      · rfl
    rw [loads]
    simp only [State.loadRcbWord, place]
  · change execJoin a b s = _
    simp only [execJoin, rcbLive, place]
    rfl
  · have rule := exec_rcbopHold_rule s a b
    split
    next live => exact completesLong_updateRcb place free empty idle rule (stateRule_sets (if_pos live) (by decide))
    next dead => exact completesLong_updateRcb place free empty idle rule (stateRule_refuses (if_neg dead))
  · have rule := exec_rcbopRelease_rule s a b
    split
    next held => exact completesLong_updateRcb place free empty idle rule (stateRule_sets (if_pos held) (by decide))
    next other => exact completesLong_updateRcb place free empty idle rule (stateRule_refuses (if_neg other))
  · have rule := exec_rcbopRetire_rule s a b
    split
    next dead => exact completesLong_updateRcb place free empty idle rule (stateRule_refuses (if_neg dead))
    next live =>
      split
      next none =>
        exact completesLong_updateRcb place free empty idle rule
          (stateRule_sets ((if_pos (not_not.1 live)).trans (if_pos none)) (by decide))
      next some =>
        exact completesLong_updateRcb place free empty idle rule
          (stateRule_status (n := 1) ((if_pos (not_not.1 live)).trans (if_neg some)))
  · exact completesLong_updateRcb place free empty idle (exec_rcbopSet_rule word) (setRule_eq.trans (if_pos kept))
  · exact completesLong_updateRcb place free empty idle (exec_rcbopSet_rule (high.trans (by decide)))
      (setRule_eq.trans ((if_neg (by omega)).trans (if_pos dead)))
  · exact completesLong_updateRcb place free empty idle (exec_rcbopSet_rule (high.trans (by decide)))
      (setRule_eq.trans ((if_neg (by omega)).trans ((if_neg (not_not.2 live)).trans (if_pos (not_not.1 (mt setFits_iff.2 misfit))))))
  · exact completesLong_updateRcb place free empty idle (exec_rcbopSet_rule (high.trans (by decide)))
      (setRule_eq.trans ((if_neg (by omega)).trans ((if_neg (not_not.2 live)).trans ((if_neg (setFits_iff.1 fits)).trans
        (if_pos ⟨child, above⟩)))))
  · have none : ¬(_ ≠ 0 ∧ _ = false) := fun ⟨child, above⟩ => within.elim child fun inside => absurd (above.symm.trans inside) (by decide)
    exact completesLong_updateRcb place free empty idle (exec_rcbopSet_rule (high.trans (by decide)))
      (setRule_eq.trans ((if_neg (by omega)).trans ((if_neg (not_not.2 live)).trans ((if_neg (setFits_iff.1 fits)).trans (if_neg none)))))
  · rw [← State.rcbWords_getD _ _ (by decide : 21 < 32)] at live
    exact completesLong_updateRcb place free empty idle (exec_rcbopCreate_root root) (createRootRule_eq.trans (if_pos live))
  · rw [← State.rcbWords_getD _ _ (by decide : 21 < 32)] at dead
    exact completesLong_updateRcb place free empty idle (exec_rcbopCreate_root root)
      (createRootRule_eq.trans ((if_neg dead).trans (if_pos (not_accepted bad))))
  · rw [← State.rcbWords_getD _ _ (by decide : 21 < 32)] at dead
    exact completesLong_updateRcb place free empty idle (exec_rcbopCreate_root root)
      (createRootRule_eq.trans ((if_neg dead).trans ((if_neg (not_not.2 ⟨ok, space, valid⟩)).trans
        (congrArg (Prod.mk 0) (State.writeRcb_eq (State.rcbWords_length _ _) _ _ _ _)))))
  · exact completesLong_updateRcb place free empty idle (exec_rcbopCreate_child child parent) (createChildRule_eq.trans (if_pos live))
  · exact completesLong_updateRcb place free empty idle (exec_rcbopCreate_child child parent)
      (createChildRule_eq.trans ((if_neg dead).trans (if_pos orphan)))
  · exact completesLong_updateRcb place free empty idle (exec_rcbopCreate_child child parent) (createChildRule_eq.trans
      ((if_neg dead).trans ((if_neg (not_or.2 ⟨not_not.2 live, Nat.not_lt.2 level⟩)).trans (if_pos bad))))
  · exact completesLong_updateRcb place free empty idle (exec_rcbopCreate_child child parent) (createChildRule_eq.trans
      ((if_neg dead).trans ((if_neg (not_or.2 ⟨not_not.2 live, Nat.not_lt.2 level⟩)).trans ((if_neg (not_not.2 given)).trans (if_pos outside)))))
  · exact completesLong_updateRcb place free empty idle (exec_rcbopCreate_child child parent) (createChildRule_eq.trans
      ((if_neg dead).trans ((if_neg (not_or.2 ⟨not_not.2 live, Nat.not_lt.2 level⟩)).trans ((if_neg (not_not.2 given)).trans
        ((if_neg (not_not.2 inside)).trans
          (congrArg (Prod.mk 0) (State.writeRcb_eq ((inherit_length _ _).trans (State.rcbWords_length _ _)) _ _ _ _)))))))

end Sys2Proof.Machine
end

section
/-! PROOFS. Tasks and dispatchers (O38): the checks of a task's record step by step, what POST and SPAWN do after them, and a dispatcher's store,
its ring, its probe and its placement (R326, R331 to R336, R342 to R344). -/

namespace Sys2Proof.Machine

set_option Elab.async false

/-! ## The checks of a record (R343) -/

section Checks

variable {s : State} {b : R5} {k : State → State}

theorem State.taskChecks_first (stage : s.me.stage = 0) : s.taskChecks b k =
    (s.setMe { s.me with stallSince := some (s.me.stallSince.getD s.ticks) }).readInto 1 { n := 64, r := true, rdup := true } (s.me.xr b) 0 := by
  simp only [State.taskChecks, stage]

theorem State.taskChecks_record (stage : s.me.stage = 1) : s.taskChecks b k =
    if (recordOf64 s.me.taskParts.1).flags / 4 ≠ 0 ∨ (recordOf64 s.me.taskParts.1).entry.toNat % 64 ≠ 0 then s.trapMe (s.me.opTrap trapIllegalOp 13)
    else if (recordOf64 s.me.taskParts.1).rcb % 256 ≠ 0 then s.trapMe (s.me.opTrap trapIllegalOp 14)
    else s.readInto 2 rcbNeed (BitVec.ofNat 64 (recordOf64 s.me.taskParts.1).rcb) 0 := by
  simp only [State.taskChecks, stage, recordBad, Bool.or_eq_true, bne_iff_ne]

theorem State.taskChecks_rcb (stage : s.me.stage = 2) : s.taskChecks b k =
    if rcbBad (recordOf64 s.me.taskParts.1) s.me.asid s.me.taskParts.2.1 then s.trapMe (s.me.opTrap trapIllegalOp 14)
    else s.readInto 3 headerNeed (entryOf (recordOf64 s.me.taskParts.1) s.me.taskParts.2.1) (-64) := by
  simp only [State.taskChecks, stage]

theorem State.taskChecks_header (stage : s.me.stage = 3) : s.taskChecks b k =
    if headerBad s.me.mode s.me.taskParts.2.1 s.me.taskParts.2.2 then s.trapMe (s.me.opTrap trapIllegalOp 15) else k s := by
  simp only [State.taskChecks, stage]
  rfl

theorem State.taskChecks_past (stage : 5 ≤ s.me.stage) : s.taskChecks b k = k s := by
  obtain ⟨n, five⟩ := Nat.exists_eq_add_of_le' stage
  simp only [State.taskChecks, five]
  rfl

end Checks

/-- The forms of POST and SPAWN go through the checks first. -/
theorem exec_task {s : State} {a b : R5} {i : Instr} (task : i ∈ [Instr.post b, .postN a b, .postR b, .postRn a b] ∨ i = .spawn a b) :
    ∃ k, exec i s = .next (s.taskChecks b k) := by
  simp only [List.mem_cons, List.not_mem_nil, or_false] at task
  rcases task with (rfl | rfl | rfl | rfl) | rfl <;> exact ⟨_, rfl⟩

/-! ## POST (R342) -/

/-- What a form of POST does once its checks have passed (R342). -/
def State.postRest (busy : Option R5) (release : Bool) (b : R5) (s : State) : State :=
  match s.me.stage with
  | 5 => if s.me.hold = 0 then (match busy with
      | some a => s.doneX a 0
      | none => s.done)
    else (match busy with
      | some a => s.doneX a 1
      | none => s.parkRing b)
  | 6 => s.sendTask
  | _ => if release then (match s.relPart 1 3 with
      | .error s => s
      | .ok s => s.sendTask)
    else s.sendTask

section Post

variable {s : State} {a b : R5} {busy : Option R5} {release : Bool}

theorem State.postInstr_eq : s.postInstr busy release b = .next (s.taskChecks b (State.postRest busy release b)) := by
  rfl

theorem exec_post_forms (s : State) (a b : R5) : exec (.post b) s = s.postInstr none false b ∧
    exec (.postN a b) s = s.postInstr (some a) false b ∧ exec (.postR b) s = s.postInstr none true b ∧
    exec (.postRn a b) s = s.postInstr (some a) true b :=
  ⟨rfl, rfl, rfl, rfl⟩

theorem State.postInstr_again (stage : s.me.stage = 6) : s.postInstr busy release b = .next s.sendTask := by
  rw [State.postInstr_eq, State.taskChecks_past (by omega)]
  simp only [State.postRest, stage]

section Checked

variable (stage : s.me.stage = 3) (good : headerBad s.me.mode s.me.taskParts.2.1 s.me.taskParts.2.2 = false)
include stage good

theorem State.postInstr_sends : s.postInstr busy false b = .next s.sendTask := by
  rw [State.postInstr_eq, State.taskChecks_header stage, good]
  simp only [State.postRest, stage, Bool.false_eq_true, if_false]

theorem State.postInstr_releases {u : State} (released : s.relPart 1 3 = .ok u) : s.postInstr busy true b = .next u.sendTask := by
  rw [State.postInstr_eq, State.taskChecks_header stage, good]
  simp only [State.postRest, stage, Bool.false_eq_true, if_false, if_true, released]

end Checked

section Answered

variable (stage : s.me.stage = 5)
include stage

theorem State.postInstr_accepted (accepted : s.me.hold = 0) : s.postInstr none release b = .next s.done ∧
    s.postInstr (some a) release b = .next (s.doneX a 0) := by
  rw [State.postInstr_eq, State.postInstr_eq, State.taskChecks_past stage.ge, State.taskChecks_past stage.ge]
  constructor <;> simp only [State.postRest, stage, if_pos accepted]

theorem State.postInstr_refused (refused : s.me.hold ≠ 0) : s.postInstr none release b = .next (s.parkRing b) ∧
    s.postInstr (some a) release b = .next (s.doneX a 1) := by
  rw [State.postInstr_eq, State.postInstr_eq, State.taskChecks_past stage.ge, State.taskChecks_past stage.ge]
  constructor <;> simp only [State.postRest, stage, if_neg refused]

end Answered

end Post

/-! ## SPAWN (R344; log 71) -/

section Spawn

variable {s u : State} {a b : R5} {tid : Nat}

section Checked

variable (stage : s.me.stage = 3) (good : headerBad s.me.mode s.me.taskParts.2.1 s.me.taskParts.2.2 = false)
include stage good

theorem exec_spawn_full (full : s.createThread s.me.taskRec (headerOf s.me.taskParts.2.2) = none) :
    exec (.spawn a b) s = .next (s.doneLong a (BitVec.ofNat 64 (2 ^ 63 + 1))) := by
  change execSpawn a b s = _
  simp only [execSpawn, State.taskChecks_header stage, good, stage, full]
  rfl

theorem exec_spawn_creates (creates : s.createThread s.me.taskRec (headerOf s.me.taskParts.2.2) = some (tid, u)) : exec (.spawn a b) s =
    (let v := (u.modCtx tid fun d => { d with queued := true, lastCore := u.me.core, core := u.me.core })
     let w := v.setMe { v.me with awaits := tid }
     .next ((w.parkStage 5).post (.dispatcherRecordArrival (w.targetSector w.me.core s.me.taskRec)
       { w.readyRecord tid none with flags := s.me.taskRec.flags, opnd := s.me.taskRec.opnd } (some w.cur)))) := by
  change execSpawn a b s = _
  simp only [execSpawn, State.taskChecks_header stage, good, stage, creates]
  rfl

end Checked

section Answered

variable (stage : s.me.stage = 5)
include stage

theorem exec_spawn_accepted (accepted : s.me.hold = 0) : exec (.spawn a b) s = .next (s.doneLong a (s.ctx s.me.awaits).thid) := by
  change execSpawn a b s = _
  simp only [execSpawn, State.taskChecks_past stage.ge, if_pos stage, if_pos accepted]

theorem exec_spawn_refused (refused : s.me.hold ≠ 0) :
    exec (.spawn a b) s = .next ((s.unspawn s.me.taskRec s.me.awaits).doneLong a (BitVec.ofNat 64 (2 ^ 63 + 2))) := by
  change execSpawn a b s = _
  simp only [execSpawn, State.taskChecks_past stage.ge, if_pos stage, if_neg refused]

end Answered

end Spawn

/-- `Claims.PostingTasks`. -/
theorem postingTasks : Claims.PostingTasks := by
  intro s a b i tid u
  dsimp only
  obtain ⟨post, postN, postR, postRn⟩ := exec_post_forms s a b
  refine ⟨fun task => ?_, fun posts stage bad => ?_, fun stage good => ⟨post.trans (State.postInstr_sends stage good),
      postN.trans (State.postInstr_sends stage good), fun released => ⟨postR.trans (State.postInstr_releases stage good released),
        postRn.trans (State.postInstr_releases stage good released)⟩,
      fun full => completesLong_doneLong (exec_spawn_full stage good full), exec_spawn_creates stage good⟩, fun stage accepted => ?_,
    fun stage => ⟨post.trans (State.postInstr_again stage), postR.trans (State.postInstr_again stage)⟩, fun stage refused => ?_⟩
  · obtain ⟨k, checks⟩ := exec_task task
    refine ⟨fun stage => ?_, fun stage => ?_, fun stage => ?_⟩
    · rw [checks, State.taskChecks_first stage]
    · rw [State.taskChecks_record stage] at checks
      split
      next bad => exact checks.trans (congrArg _ (if_pos bad))
      next good =>
        rw [if_neg good] at checks
        split
        next odd => exact checks.trans (congrArg _ (if_pos odd))
        next aligned => exact checks.trans (congrArg _ (if_neg aligned))
    · rw [State.taskChecks_rcb stage] at checks
      split
      next bad => exact checks.trans (congrArg _ (if_pos bad))
      next good => exact checks.trans (congrArg _ (if_neg good))
  · obtain ⟨k, checks⟩ := exec_task (s := s) (Or.inl posts)
    exact checks.trans (congrArg _ ((State.taskChecks_header stage).trans (if_pos bad)))
  · obtain ⟨done, answered⟩ := State.postInstr_accepted (a := a) (b := b) (release := false) stage accepted
    obtain ⟨doneR, answeredR⟩ := State.postInstr_accepted (a := a) (b := b) (release := true) stage accepted
    exact ⟨completesFrom_done (post.trans done), completesFrom_done (postR.trans doneR), completes_finish (postN.trans answered),
      completes_finish (postRn.trans answeredR), completesLong_doneLong (exec_spawn_accepted stage accepted)⟩
  · obtain ⟨parks, answered⟩ := State.postInstr_refused (a := a) (b := b) (release := false) stage refused
    obtain ⟨parksR, answeredR⟩ := State.postInstr_refused (a := a) (b := b) (release := true) stage refused
    exact ⟨completes_finish (postN.trans answered), completes_finish (postRn.trans answeredR), post.trans parks, postR.trans parksR,
      completesLong_doneLong (exec_spawn_refused stage refused)⟩

/-! ## A dispatcher's store and ring (R331, R333) -/

theorem State.recordDead_iff {s : State} {r : TaskRec} : s.recordDead r = true ↔ ∃ t, r.thread = some t ∧ (s.ctx t).imstate = .killed := by
  simp [State.recordDead, Option.any_eq_true]

@[simp] theorem State.dispatcher_setDispatcher (s : State) (k : Nat) (d : Dispatcher) : (s.setDispatcher k d).dispatcher k = d := by
  simp [State.dispatcher, State.setDispatcher]

theorem State.probeSoon_dispatcher (s : State) (k j : Nat) : (s.probeSoon k).dispatcher j = s.dispatcher j := by
  unfold State.probeSoon
  split <;> rfl

theorem State.wakeDispatcher_dispatcher (s : State) (k j : Nat) : (s.wakeDispatcher k).dispatcher j = s.dispatcher j := by
  unfold State.wakeDispatcher
  split <;> rfl

theorem State.store_records (s : State) (k : Nat) (r : TaskRec) :
    ((s.store k r).dispatcher k).records = (s.dispatcher k).records ++ [r] := by
  rw [State.store, State.wakeDispatcher_dispatcher, State.probeSoon_dispatcher, State.dispatcher_setDispatcher]

section Arrival

variable {s : State} {k tid : Nat} {r : TaskRec}

theorem exec_dispatcherRecordArrival_posted (task : r.thread = none) : exec (.dispatcherRecordArrival k r (some tid)) s =
    (let answer (v : Word) (s : State) : State := (s.modCtx tid fun c => { c with hold := v }).wakeAgain tid
     let stamp := s.ticks * 2 ^ 16 + (s.ctx tid).core
     .next (if s.taskRoom k r then answer 0 ((s.raiseLive r.rcb r.asid).acceptRecord k { r with stamp := stamp }) else answer 1 s)) := by
  change execDispatcherRecordArrival k r (some tid) s = _
  simp only [execDispatcherRecordArrival, task, apply_ite (Host.Outcome.next)]

end Arrival

/-! ## The ring's oldest record (R333) -/

/-- A word of a run of words, by its number. -/
theorem field_words (g : Nat → Nat) (l : List Nat) {k : Nat} (inside : k < l.length) :
    field (l.flatMap fun i => bytesOf 8 (g i)) (8 * k) 8 = g l[k] % 2 ^ 64 := by
  induction l generalizing k with
  | nil => exact absurd inside (Nat.not_lt_zero k)
  | cons x r ih =>
    cases k with
    | zero => exact field_bytesOf 8 (g x) _
    | succ k =>
      rw [List.flatMap_cons, Nat.mul_succ, Nat.add_comm]
      exact (field_append_length (bytesOf 8 (g x)) _ (8 * k) 8).trans (ih (Nat.lt_of_succ_lt_succ inside))

/-- A record in the ring says what the ring's bytes say, but for what its dispatcher keeps beside them (log 21). -/
theorem State.ringRecord_fields (s : State) {r : TaskRec} (task : r.thread = none) (pa : Nat) :
    (s.ringRecord r pa).own = BitVec.ofNat 64 (s.view pa 8) ∧ (s.ringRecord r pa).rcb = s.view (pa + 8) 8 % 2 ^ 64 ∧
    (s.ringRecord r pa).opnd = BitVec.ofNat 64 (s.view (pa + 24) 8) ∧ (s.ringRecord r pa).stamp = s.view (pa + 56) 8 % 2 ^ 64 ∧
    (s.ringRecord r pa).asid = r.asid ∧ (s.ringRecord r pa).superv = r.superv ∧ (s.ringRecord r pa).service = r.service := by
  have word (k : Nat) (inside : k < 8) : field ((List.range 8).flatMap fun i => bytesOf 8 (s.view (pa + 8 * i) 8)) (8 * k) 8 =
      s.view (pa + 8 * k) 8 % 2 ^ 64 := by
    rw [field_words _ _ (by simpa using inside), List.getElem_range]
  have whole (n : Nat) : BitVec.ofNat 64 (n % 2 ^ 64) = BitVec.ofNat 64 n := BitVec.eq_of_toNat_eq (by simp)
  simp only [State.ringRecord, task, recordOf64]
  exact ⟨(congrArg _ (word 0 (by decide))).trans (whole _), word 1 (by decide), (congrArg _ (word 3 (by decide))).trans (whole _),
    word 7 (by decide), trivial, trivial, trivial⟩

section Refill

/-- Whether an entry of the spilled records is the one at a ring's head. -/
def atHead (asid base head : Nat) (e : Nat × Nat × Nat × TaskRec) : Bool := e.1 == asid && e.2.1 == base && e.2.2.1 == head

/-- A record leaves the ring at its head. -/
def State.takeHead (s : State) (rcb asid : Nat) : State :=
  State.setRcbWord { s with spilled := s.spilled.filter fun x => !atHead asid (s.rcbWord rcb asid 9) (s.rcbWord rcb asid 11) x }
    rcb asid 11 (s.rcbWord rcb asid 11 + 1)

/-- A refill goes on while its ring holds records. -/
def State.refillAgain (s : State) (k rcb asid : Nat) : State :=
  if s.ringCount rcb asid = 0 then s else s.at (s.pcyc + 16) (.spillRefill k rcb asid)

/-- The records that dispatchers hold back of a ring are tried again. -/
def State.retryRing (s u : State) (rcb asid : Nat) : State := u.retryHeld fun x => s.ringOwner x.rcb x.asid == rcb && x.asid == asid

variable {s : State} {k rcb asid pa : Nat} {e : Nat × Nat × Nat × TaskRec}

theorem exec_spillRefill_empty (empty : s.rcbWord rcb asid 12 ≤ s.rcbWord rcb asid 11) : exec (.spillRefill k rcb asid) s = .next s :=
  if_pos (Nat.sub_eq_zero_of_le empty)

variable (some_ : s.rcbWord rcb asid 11 < s.rcbWord rcb asid 12)
include some_

theorem exec_spillRefill_unknown (unknown : s.spilled.find? (atHead asid (s.rcbWord rcb asid 9) (s.rcbWord rcb asid 11)) = none) :
    exec (.spillRefill k rcb asid) s = .next (s.refillAgain k rcb asid) := by
  refine (if_neg (Nat.sub_ne_zero_of_lt some_)).trans ?_
  simp only [show s.spilled.find? (fun e => e.1 == asid && e.2.1 == s.rcbWord rcb asid rcbSpBase && e.2.2.1 == s.rcbWord rcb asid rcbSpHead) = none
    from unknown]
  rfl

theorem exec_spillRefill_found (found : s.spilled.find? (atHead asid (s.rcbWord rcb asid 9) (s.rcbWord rcb asid 11)) = some e)
    (mapped : s.hwAddr asid (s.ringAddr rcb asid (s.rcbWord rcb asid 11)) = some pa) : exec (.spillRefill k rcb asid) s =
    (let r := s.ringRecord e.2.2.2 pa
     let d := s.dispatcher k
     let u := if s.recordDead r then s.retryRing (s.takeHead rcb asid) rcb asid
       else if d.records.length < Config.dispatcherStore && sectorMeets k (rectOf (s.rcbWord r.rcb r.asid 17)) &&
           d.records.all fun x => !(x.rcb == r.rcb && x.asid == r.asid) then s.retryRing ((s.takeHead rcb asid).store k r) rcb asid
       else s
     .next (u.refillAgain k rcb asid)) := by
  refine (if_neg (Nat.sub_ne_zero_of_lt some_)).trans ?_
  simp only [show s.spilled.find? (fun e => e.1 == asid && e.2.1 == s.rcbWord rcb asid rcbSpBase && e.2.2.1 == s.rcbWord rcb asid rcbSpHead) = some e
    from found, show s.hwAddr asid (s.ringAddr rcb asid (s.rcbWord rcb asid rcbSpHead)) = some pa from mapped]
  rfl

variable (found : s.spilled.find? (atHead asid (s.rcbWord rcb asid 9) (s.rcbWord rcb asid 11)) = some e)
  (mapped : s.hwAddr asid (s.ringAddr rcb asid (s.rcbWord rcb asid 11)) = some pa)
include found mapped

theorem exec_spillRefill_dead (dead : s.recordDead (s.ringRecord e.2.2.2 pa) = true) :
    exec (.spillRefill k rcb asid) s = .next ((s.retryRing (s.takeHead rcb asid) rcb asid).refillAgain k rcb asid) :=
  (exec_spillRefill_found some_ found mapped).trans (congrArg (fun u : State => Host.Outcome.next (u.refillAgain k rcb asid)) (if_pos dead))

variable (alive : ¬s.recordDead (s.ringRecord e.2.2.2 pa) = true)
include alive

theorem exec_spillRefill_takes (room : (s.dispatcher k).records.length < Config.dispatcherStore)
    (meets : sectorMeets k (rectOf (s.rcbWord (s.ringRecord e.2.2.2 pa).rcb (s.ringRecord e.2.2.2 pa).asid 17)) = true)
    (other : ∀ x ∈ (s.dispatcher k).records, x.rcb = (s.ringRecord e.2.2.2 pa).rcb → x.asid ≠ (s.ringRecord e.2.2.2 pa).asid) :
    exec (.spillRefill k rcb asid) s =
      .next ((s.retryRing ((s.takeHead rcb asid).store k (s.ringRecord e.2.2.2 pa)) rcb asid).refillAgain k rcb asid) := by
  have free : (s.dispatcher k).records.all (fun x => !(x.rcb == (s.ringRecord e.2.2.2 pa).rcb && x.asid == (s.ringRecord e.2.2.2 pa).asid)) =
    true := by simpa [← imp_iff_not_or] using other
  rw [exec_spillRefill_found some_ found mapped]
  simp only [if_neg alive, decide_eq_true room, meets, free, Bool.and_true, if_true]

theorem exec_spillRefill_full (full : Config.dispatcherStore ≤ (s.dispatcher k).records.length) :
    exec (.spillRefill k rcb asid) s = .next (s.refillAgain k rcb asid) := by
  rw [exec_spillRefill_found some_ found mapped]
  simp only [if_neg alive, decide_eq_false (Nat.not_lt.2 full), Bool.false_and, Bool.false_eq_true, if_false]

end Refill

/-! ## The probe and the placement (R335, R336) -/

/-- What a probe makes of a record at a position of the store (log 21). -/
def State.probed (s : State) (k : Nat) (marks : List Nat) (r : TaskRec) (j : Nat) : TaskRec :=
  if marks.contains j then { r with probed := true, hit := s.probeHits k r } else { r with probed := false, hit := false }

/-- The records of a store as a probe leaves them. -/
def State.probedRecords (s : State) (k : Nat) (rs : List TaskRec) : List TaskRec :=
  rs.zipIdx.map fun e => s.probed k (s.toProbe rs.zipIdx) e.1 e.2

theorem State.probedRecords_getElem? (s : State) (k : Nat) {rs : List TaskRec} {j : Nat} {x : TaskRec} (at_ : rs[j]? = some x) :
    (s.probedRecords k rs)[j]? = some (s.probed k (s.toProbe rs.zipIdx) x j) := by
  simp [State.probedRecords, at_]

theorem exec_residencyProbe (s : State) (k : Nat) : exec (.residencyProbe k) s =
    .next (s.setDispatcher k { s.dispatcher k with records := s.probedRecords k (s.dispatcher k).records }) := rfl

theorem State.pick_nil (s : State) : s.pick [] = none := rfl

theorem State.lookAgain_empty {s : State} {k : Nat} (empty : (s.dispatcher k).records = []) : s.lookAgain k = s := by
  rw [State.lookAgain, empty]
  rfl

section Placement

variable {s : State} {k : Nat}

theorem exec_placement_none (none : s.candidates k = []) : exec (.placement k) s = .next (s.lookAgain k) := by
  change execPlacement k s = _
  simp only [execPlacement, none, State.pick_nil]

theorem exec_placement_last {r : TaskRec} {i q : Nat} (picked : s.pick (s.candidates k) = some (r, i))
    (core : s.bestCore r (s.eligibleCores k r) = some q) (last : (s.dispatcher k).records.zipIdx.filter (fun e => e.2 != i) = []) :
    exec (.placement k) s = .next (((s.setDispatcher k { s.dispatcher k with records := [] }).placeOn r q).lookAgain k) := by
  change execPlacement k s = _
  simp only [execPlacement, picked, core, last, List.map_nil]

end Placement

/-- `Claims.Dispatchers`. -/
theorem dispatchers : Claims.Dispatchers := by
  intro s k tid rcb asid r i q
  dsimp only
  refine ⟨exec_dispatcherRecordArrival_posted, rfl, fun dead => if_pos (State.recordDead_iff.2 dead),
    fun alive => if_neg (mt State.recordDead_iff.1 alive), s.store_records k r, exec_spillRefill_empty,
    fun some_ => ⟨exec_spillRefill_unknown some_, fun e pa found mapped => ?_⟩, fun pa task => s.ringRecord_fields task pa,
    ⟨_, exec_residencyProbe s k, ?_, rfl, rfl, fun j x at_ => ?_⟩, fun empty => ?_, ⟨exec_placement_none, fun picked core last empty => ?_⟩,
    fun ready => ?_⟩
  · exact ⟨fun dead => exec_spillRefill_dead some_ found mapped (State.recordDead_iff.2 dead),
      fun alive => exec_spillRefill_takes some_ found mapped (mt State.recordDead_iff.1 alive),
      fun alive => exec_spillRefill_full some_ found mapped (mt State.recordDead_iff.1 alive)⟩
  · simp [State.probedRecords]
  · rw [State.dispatcher_setDispatcher]
    exact s.probedRecords_getElem? k at_
  · have none : s.candidates k = [] := by rw [State.candidates, empty]; rfl
    rw [exec_placement_none none, State.lookAgain_empty empty]
  · rw [exec_placement_last picked core last, State.lookAgain_empty empty]
  · simp only [State.placeOn, ready]

/-- Settles O38: the clauses of the two claims. -/
theorem tasksAndDispatch : Obligations.TasksAndDispatch := ⟨postingTasks, dispatchers⟩

end Sys2Proof.Machine
end

section
/-! PROOFS. Operand rings and matrix commands (O31): a ring's descriptor and status, and how a command enters its core's queue (R287 to R303). -/

namespace Sys2Proof.Machine

set_option Elab.async false

section Space

variable {s : State} {k : State → State}

theorem State.matrixSpace_own (own : (s.core s.me.core).padAsid = some s.me.asid) : s.matrixSpace k = k s := if_pos own

theorem State.matrixSpace_other (other : (s.core s.me.core).padAsid ≠ some s.me.asid) :
    s.matrixSpace k = { s with draws := s.draws + 1 }.trap s.cur ⟨0x07, 5, 0, s.draw.1⟩ := if_neg other

end Space

/-! ## Rings (R290, R291, R298) -/

/-- The ring of a descriptor, by its fields (R290). -/
def freshRing (w : Word) : Ring :=
  ⟨(w.extractLsb' 40 6).toNat + 1, 256 * (w.extractLsb' 32 7).toNat, (w.extractLsb' 0 17).toNat, 0, 0, 0⟩

/-- A descriptor's zero fields are zero, and its slots have a size (R290). -/
@[reducible] def RingFormed (w : Word) : Prop :=
  w.extractLsb' 46 18 = 0 ∧ w.getLsbD 39 = false ∧ w.extractLsb' 17 15 = 0 ∧ w.extractLsb' 0 8 = 0 ∧ w.extractLsb' 32 7 ≠ 0

theorem RingFormed.nonzero {w : Word} (formed : RingFormed w) : w ≠ 0 := by
  rintro rfl
  exact formed.2.2.2.2 rfl

theorem field_eq_zero (w : Word) (h l n : Nat) (hn : h + 1 - l = n := by rfl) : bitsOf w.toNat h l = 0 ↔ w.extractLsb' l n = 0 :=
  not_iff_not.1 (field_ne_zero w h l n hn)

theorem ringOf_word (w : Word) : ringOf w.toNat = if RingFormed w then some (freshRing w) else none := by
  have low : bitsOf w.toNat 16 0 % 256 = bitsOf w.toNat 7 0 := by
    simp only [bitsOf_eq_div]
    omega
  simp only [ringOf, low, ← getLsbD_eq_bitOf, ne_eq, field_eq_zero w 63 46 18, field_eq_zero w 31 17 15, field_eq_zero w 7 0 8,
    field_eq_zero w 38 32 7]
  simp only [bitsOf_eq_extract w 45 40 6, bitsOf_eq_extract w 38 32 7, bitsOf_eq_extract w 16 0 17, freshRing, Nat.mul_comm]

section Status

variable {s : State} {core k : Nat} {w : Word}

/-- A ring that a queued command names, or that holds a filled slot, stays (R298). -/
@[reducible] def Matrix.RingIdle (m : Matrix) (k : Nat) : Prop := m.busy k = false ∧ ∀ g, m.rings.find? k = some g → g.occ = 0

theorem Matrix.ringIdle_iff {m : Matrix} : m.RingIdle k ↔ ¬(m.busy k || ((m.rings.find? k).any fun r => r.occ != 0)) = true := by
  simp [Matrix.RingIdle, Option.any_eq_true]

theorem State.inPad_iff {off n : Nat} : s.inPad core off n = true ↔
    ∃ lo hi, (s.core core).split = some (lo, hi) ∧ lo ≤ off ∧ off + n ≤ hi := by
  rw [State.inPad]
  split
  next lo hi split => simp [split]
  next none => simp [none]

/-- A range meets no ring but its own. -/
@[reducible] def Matrix.RingClear (m : Matrix) (k : Nat) (r : Ring) : Prop :=
  ∀ e ∈ m.rings, e.1 ≠ k → e.2.base + e.2.bytes ≤ r.base ∨ r.base + r.bytes ≤ e.2.base

theorem Matrix.ringClear_iff {m : Matrix} {r : Ring} : m.RingClear k r ↔
    ¬(m.rings.any fun e => e.1 != k && decide (e.2.base < r.base + r.bytes && r.base < e.2.base + e.2.bytes)) = true := by
  simp only [Matrix.RingClear, List.any_eq_true, Bool.and_eq_true, bne_iff_ne, decide_eq_true_eq, not_exists, not_and]
  refine forall₂_congr fun e _ => imp_congr_right fun _ => ?_
  rw [Nat.not_lt, imp_iff_not_or, Nat.not_lt, or_comm]

theorem State.ringStatus_zero : s.ringStatus core k 0 = if (s.matrix core).RingIdle k then 0 else 4 := by
  rw [State.ringStatus, if_pos rfl]
  split
  next held => rw [if_neg fun idle => Matrix.ringIdle_iff.1 idle held]
  next free => rw [if_pos (Matrix.ringIdle_iff.2 free)]

/-- The status of MRING.SET for a descriptor (R298). -/
theorem State.ringStatus_word (some_ : w ≠ 0) : s.ringStatus core k w.toNat =
    if ¬RingFormed w then 1
    else if ¬s.inPad core (freshRing w).base (freshRing w).bytes = true then 2
    else if ¬(s.matrix core).RingClear k (freshRing w) then 3
    else if ¬(s.matrix core).RingIdle k then 4 else 0 := by
  have number : w.toNat ≠ 0 := fun zero => some_ (BitVec.eq_of_toNat_eq zero)
  rw [State.ringStatus, if_neg number, ringOf_word]
  by_cases formed : RingFormed w
  · rw [if_pos formed, if_neg (not_not.2 formed)]
    have clear := (not_congr (Matrix.ringClear_iff (k := k) (m := s.matrix core) (r := freshRing w))).trans not_not
    have idle := (not_congr (Matrix.ringIdle_iff (k := k) (m := s.matrix core))).trans not_not
    simp only [clear, idle, Bool.not_eq_true', Bool.not_eq_true]
  · rw [if_neg formed, if_pos formed]

end Status

section Mring

variable {s : State} {r : BitVec 2} {a b : R5} (own : (s.core s.me.core).padAsid = some s.me.asid)
include own

theorem exec_mringSet_status {n : Nat} (status : s.ringStatus s.me.core r.toNat (s.me.xr b).toNat = n + 1) :
    exec (.mringSet r a b) s = .next (s.doneLong a (BitVec.ofNat 64 (n + 1))) := by
  change execMringSet r a b s = _
  simp only [execMringSet, State.matrixSpace_own own, status]
  rfl

theorem exec_mringSet_accepted (status : s.ringStatus s.me.core r.toNat (s.me.xr b).toNat = 0) : exec (.mringSet r a b) s =
    .next ((s.setMatrix s.me.core { s.matrix s.me.core with
      rings := if RingFormed (s.me.xr b) then (s.matrix s.me.core).rings.set r.toNat (freshRing (s.me.xr b))
        else (s.matrix s.me.core).rings.erase r.toNat }).doneLong a 0) := by
  change execMringSet r a b s = _
  simp only [execMringSet, State.matrixSpace_own own, status, ringOf_word]
  by_cases formed : RingFormed (s.me.xr b)
  · simp only [if_pos formed]
    rfl
  · simp only [if_neg formed]
    rfl

theorem exec_mringPush_waits (stores : s.storesTo s.cur (poolBase s.me.core) 0x20000 = true) :
    exec (.mringPush r a b) s = .next (s.parkMe .poolStores) := by
  change execMringPush r a b s = _
  simp only [execMringPush, State.matrixSpace_own own, Config.poolBytes, stores, if_true]

section Performed

variable (performed : s.storesTo s.cur (poolBase s.me.core) 0x20000 = false)
include performed

theorem exec_mringPush_undefined (undefined : (s.core s.me.core).matrix.rings.find? r.toNat = none) :
    exec (.mringPush r a b) s = .next (s.doneLong a 5) := by
  change execMringPush r a b s = _
  simp only [execMringPush, State.matrixSpace_own own, Config.poolBytes, if_neg (Bool.eq_false_iff.1 performed), State.matrix, undefined]
  rfl

theorem exec_mringPush_ring {g : Ring} (defined_ : (s.core s.me.core).matrix.rings.find? r.toNat = some g) : exec (.mringPush r a b) s =
    .next (if g.cnt < g.occ + (s.core s.me.core).matrix.claimed r.toNat + (s.me.xr b).toNat then s.doneLong a 5
      else (((s.setMatrix s.me.core { (s.core s.me.core).matrix with
        rings := (s.core s.me.core).matrix.rings.set r.toNat (g.push (s.me.xr b).toNat) }).doneLong a 0).kickCell (s.me.core / 8))) := by
  change execMringPush r a b s = _
  simp only [execMringPush, State.matrixSpace_own own, Config.poolBytes, if_neg (Bool.eq_false_iff.1 performed), State.matrix, defined_]
  rfl

end Performed

theorem exec_mringRst_busy (busy : (s.core s.me.core).matrix.busy r.toNat = true) : exec (.mringRst r a) s = .next (s.doneLong a 4) := by
  change execMringRst r a s = _
  simp only [execMringRst, State.matrixSpace_own own, State.matrix, busy, if_true]
  rfl

theorem exec_mringRst_ring {g : Ring} (free : (s.core s.me.core).matrix.busy r.toNat = false)
    (defined_ : (s.core s.me.core).matrix.rings.find? r.toNat = some g) : exec (.mringRst r a) s =
    .next ((s.setMatrix s.me.core { (s.core s.me.core).matrix with
      rings := (s.core s.me.core).matrix.rings.set r.toNat { g with head := 0, tail := 0, occ := 0 } }).doneLong a 0) := by
  change execMringRst r a s = _
  simp only [execMringRst, State.matrixSpace_own own, State.matrix, if_neg (Bool.eq_false_iff.1 free), defined_]
  rfl

theorem exec_mstat_own : exec (.mstat a) s = .next (s.doneLong a (s.core s.me.core).matrix.status) ∧ exec (.mstatC a) s =
    .next ((s.setMatrix s.me.core { (s.core s.me.core).matrix with lost := false }).doneLong a (s.core s.me.core).matrix.status) :=
  ⟨congrArg _ (State.matrixSpace_own own), congrArg _ (State.matrixSpace_own own)⟩

theorem exec_mstatR_undefined (undefined : (s.core s.me.core).matrix.rings.find? ((s.me.xr b).toNat % 4) = none) :
    exec (.mstatR a b) s = .next (s.doneLong a 0) := by
  refine congrArg _ ((State.matrixSpace_own own).trans ?_)
  simp only [State.matrix, undefined]
  rfl

theorem exec_mstatR_ring {g : Ring} (defined_ : (s.core s.me.core).matrix.rings.find? ((s.me.xr b).toNat % 4) = some g) :
    exec (.mstatR a b) s = .next (s.doneLong a (BitVec.ofNat 64 (2 ^ 63 + g.occ * 2 ^ 48 + g.head * 2 ^ 40 + g.tail * 2 ^ 32))) := by
  refine congrArg _ ((State.matrixSpace_own own).trans ?_)
  simp only [State.matrix, defined_]
  rfl

end Mring

/-- A command of a context of another space raises `ADDR_SPACE` (R287). -/
theorem exec_matrix_other {s : State} {r : BitVec 2} {a b : R5} (other : (s.core s.me.core).padAsid ≠ some s.me.asid) {i : Instr}
    (here : i ∈ [Instr.mringSet r a b, .mringPush r a b, .mringRst r a, .mstat a, .mstatR a b, .mstatC a, .mfmtQ a, .mepi a b b, .mepiRst a,
      .mma 0 r r]) : exec i s = .next ({ s with draws := s.draws + 1 }.trap s.cur ⟨0x07, 5, 0, s.draw.1⟩) := by
  have spaces : ∃ k, exec i s = .next (s.matrixSpace k) := by
    simp only [List.mem_cons, List.not_mem_nil, or_false] at here
    rcases here with rfl | rfl | rfl | rfl | rfl | rfl | rfl | rfl | rfl | rfl <;> exact ⟨_, rfl⟩
  obtain ⟨k, spaces⟩ := spaces
  rw [spaces, State.matrixSpace_other other]

/-- `Claims.Rings`. -/
theorem rings : Claims.Rings := by
  intro s r a b
  dsimp only
  refine ⟨fun own => ⟨fun zero idle => ?_, fun zero held => ?_, fun some_ odd => ?_, fun formed outside => ?_, fun formed inside meets => ?_,
      fun formed inside clear held => ?_, fun formed inside clear idle => ?_, exec_mringPush_waits own,
      fun performed undefined => completesLong_doneLong (exec_mringPush_undefined own performed undefined), fun g performed defined_ => ?_,
      fun busy => completesLong_doneLong (exec_mringRst_busy own busy),
      fun g free defined_ => completesLong_doneLong (exec_mringRst_ring own free defined_), completesLong_doneLong (exec_mstat_own own).1,
      completesLong_doneLong (exec_mstat_own own).2, fun undefined => completesLong_doneLong (exec_mstatR_undefined own undefined),
      fun g defined_ => completesLong_doneLong (exec_mstatR_ring own defined_)⟩,
    fun other i here => ⟨_, exec_matrix_other other here⟩⟩
  · have set := exec_mringSet_accepted (r := r) (a := a) (b := b) own (by rw [zero]; exact State.ringStatus_zero.trans (if_pos idle))
    rw [if_neg fun formed : RingFormed (s.me.xr b) => formed.nonzero zero] at set
    exact completesLong_doneLong set
  · exact completesLong_doneLong (exec_mringSet_status (n := 3) own (by rw [zero]; exact State.ringStatus_zero.trans (if_neg held)))
  · exact completesLong_doneLong (exec_mringSet_status (n := 0) own ((State.ringStatus_word some_).trans (if_pos odd)))
  · have status := (State.ringStatus_word (s := s) (core := s.me.core) (k := r.toNat) (RingFormed.nonzero formed)).trans
      ((if_neg (not_not.2 formed)).trans (if_pos (mt State.inPad_iff.1 outside)))
    exact completesLong_doneLong (exec_mringSet_status (n := 1) own status)
  · have status := (State.ringStatus_word (s := s) (core := s.me.core) (k := r.toNat) (RingFormed.nonzero formed)).trans
      ((if_neg (not_not.2 formed)).trans ((if_neg (not_not.2 (State.inPad_iff.2 inside))).trans (if_pos meets)))
    exact completesLong_doneLong (exec_mringSet_status (n := 2) own status)
  · have status := (State.ringStatus_word (s := s) (core := s.me.core) (k := r.toNat) (RingFormed.nonzero formed)).trans
      ((if_neg (not_not.2 formed)).trans ((if_neg (not_not.2 (State.inPad_iff.2 inside))).trans ((if_neg (not_not.2 clear)).trans (if_pos held))))
    exact completesLong_doneLong (exec_mringSet_status (n := 3) own status)
  · have status := (State.ringStatus_word (s := s) (core := s.me.core) (k := r.toNat) (RingFormed.nonzero formed)).trans
      ((if_neg (not_not.2 formed)).trans ((if_neg (not_not.2 (State.inPad_iff.2 inside))).trans
        ((if_neg (not_not.2 clear)).trans (if_neg (not_not.2 idle)))))
    have set := exec_mringSet_accepted (a := a) own status
    rw [if_pos formed] at set
    exact completesLong_doneLong set
  · have pushes := exec_mringPush_ring (a := a) (b := b) own performed defined_
    split
    next full => exact completesLong_doneLong (pushes.trans (congrArg _ (if_pos full)))
    next room => exact pushes.trans (congrArg _ (if_neg room))

/-! ## Commands (R288, R293, R299 to R302; log 56) -/

section Queue

variable {s : State} {cmd : MatCmd} {f : Ctx → Ctx}

theorem State.queueMatrix_room (room : (s.core s.me.core).matrix.queue.length < 8) :
    s.queueMatrix cmd f = (s.finish f).enqueueMatrix s.me.core cmd := if_pos ((State.matrixHasRoom_iff _).2 room)

theorem State.queueMatrix_full (full : ¬(s.core s.me.core).matrix.queue.length < 8) : s.queueMatrix cmd f = s.parkMe .matrixRoom :=
  if_neg (mt (State.matrixHasRoom_iff _).1 full)

/-- Looking at the head of a core's queue leaves the issuing thread. -/
theorem State.kickMatrix_me (s : State) (core : Nat) : (s.kickMatrix core).me = s.me := by
  have once (e : Event) : (if s.pending.contains e then s else s.post e).me = s.me := by split <;> rfl
  unfold State.kickMatrix
  dsimp only
  split
  · rfl
  · split
    · rfl
    · exact once _
  · split
    · rfl
    · exact once _
  · exact once _
  · exact once _

theorem State.enqueueMatrix_me (s : State) (core : Nat) (cmd : MatCmd) : (s.enqueueMatrix core cmd).me = s.me :=
  State.kickMatrix_me _ core

/-- An instruction that is complete waits for no room of a queue. -/
theorem Ctx.advance_park (c : Ctx) : c.advance.park ≠ some .matrixRoom := by
  rw [Ctx.advance, Ctx.complete]
  split <;> simp

end Queue

section Commands

variable {s : State} {a b x : R5} {o : Op2} {f : F6} {ra rb : BitVec 2} (own : (s.core s.me.core).padAsid = some s.me.asid)
include own

theorem exec_mfmt_invalid (invalid : fctxOk (s.me.op2U o).toNat = false) : exec (.mfmt a o) s = .next (s.trapMe (s.me.opTrap trapIllegalOp 7)) := by
  change execMfmt a o s = _
  simp only [execMfmt, State.matrixSpace_own own, invalid]
  rfl

section Valid

variable (valid : fctxOk (s.me.op2U o).toNat = true)
include valid

theorem exec_mfmt_room (room : (s.core s.me.core).matrix.queue.length < 8) : exec (.mfmt a o) s =
    .next (((s.setMatrix s.me.core { (s.core s.me.core).matrix with issued := (s.me.op2U o).toNat }).finish (·.pendX a)).enqueueMatrix s.me.core
      (.mfmt s.src a (s.me.op2U o).toNat)) := by
  let u := s.setMatrix s.me.core { (s.core s.me.core).matrix with issued := (s.me.op2U o).toNat }
  have still : (u.core u.me.core).matrix.queue.length < 8 :=
    (congrArg (fun q : Core => q.matrix.queue.length) (State.core_setCore s s.me.core _)).trans_lt room
  change execMfmt a o s = _
  simp only [execMfmt, State.matrixSpace_own own, valid, (State.matrixHasRoom_iff _).2 room]
  exact congrArg Host.Outcome.next (State.queueMatrix_room (s := u) still)

theorem exec_mfmt_full (full : ¬(s.core s.me.core).matrix.queue.length < 8) : exec (.mfmt a o) s = .next (s.parkMe .matrixRoom) := by
  have none : s.matrixHasRoom s.me.core = false := Bool.eq_false_iff.2 (mt (State.matrixHasRoom_iff _).1 full)
  change execMfmt a o s = _
  simp only [execMfmt, State.matrixSpace_own own, valid, none]
  rfl

end Valid

theorem exec_mfmtQ_queues : exec (.mfmtQ a) s = .next (s.queueMatrix (.mfmtQ s.src a) (·.pendX a)) := congrArg Host.Outcome.next (if_pos own)

theorem exec_mepiRst_queues : exec (.mepiRst a) s = .next (s.queueMatrix (.mepiRst s.src a) (·.pendX a)) := congrArg Host.Outcome.next (if_pos own)

/-- MEPI at an address of the own core's scratchpad (R300). -/
theorem exec_mepi_own {p : PoolAddr} (names : resolve s.me.core (s.me.xr b) 0 0 = .ok (.pool p)) (mine : p.pkgCore = s.me.core)
    (inside : s.inPad s.me.core p.off 1 = true) : exec (.mepi a b x) s =
    .next (if p.off % 4 ≠ 0 then s.trapMe ⟨trapAddrAlign, 4, 0, s.me.xr b⟩
      else s.queueMatrix (.mepi s.src a p.off (s.me.xr x).toNat) (·.pendX a)) := by
  change execMepi a b x s = _
  simp only [execMepi, State.matrixSpace_own own, names, mine, inside, ne_eq, not_true, Bool.not_true, Bool.false_eq_true, or_self, if_false]

/-! ### MMA (R289, R292, R301) -/

theorem exec_mma_undefined (undefined : (s.core s.me.core).matrix.rings.find? ra.toNat = none ∨ (s.core s.me.core).matrix.rings.find? rb.toNat = none) :
    exec (.mma f ra rb) s = .next (s.trapMe (s.me.opTrap trapIllegalOp 5)) := by
  change execMma f ra rb s = _
  rcases undefined with undefined | undefined
  · simp only [execMma, State.matrixSpace_own own, State.matrix, undefined]
  · cases first : (s.core s.me.core).matrix.rings.find? ra.toNat <;>
      simp only [execMma, State.matrixSpace_own own, State.matrix, undefined, first]

theorem exec_mma_rings {p q : Ring} (first : (s.core s.me.core).matrix.rings.find? ra.toNat = some p)
    (second : (s.core s.me.core).matrix.rings.find? rb.toNat = some q) : exec (.mma f ra rb) s =
    (let w := (s.core s.me.core).matrix.issued
     .next (if p.size < operandBytes (w % 16) (w / 256 % 4) (w.testBit 10) ∨ q.size < operandBytes (w / 16 % 16) (w / 256 % 4) (w.testBit 11)
       then s.trapMe (s.me.opTrap trapIllegalOp 6)
       else s.queueMatrix (.mma s.src ra.toNat rb.toNat (f.getLsbD 0) (f.getLsbD 1) (f.getLsbD 2)
         (1 + s.rcbWord s.me.rcb.toNat s.me.asid 3 % 8)) id)) := by
  change execMma f ra rb s = _
  simp only [execMma, State.matrixSpace_own own, State.matrix, first, second, bitsOf_eq_div, Nat.pow_zero, Nat.div_one]
  rfl

end Commands

/-! ### MDRAIN (R295, R296, R302; log 56) -/

/-- What the issue of a drain changes of its thread: the draws that its program asks for are stepped over (log 56). -/
def drainStep (m : Matrix) (a : R5) (c : Ctx) : Ctx :=
  (c.stepSr (if m.issued.testBit 14 then 4 else m.issued / 4096 % 4) (4096 * (cvtCount m.prog + 1))).pendX a

section Drain

variable {s : State} {a b x : R5} {f : F6} {fmt : Nat} {dst : DrainTo}

/-- A drain as it enters its core's queue. -/
def State.drained (s : State) (a : R5) (fmt : Nat) (dst : DrainTo) : State :=
  (s.finish (drainStep (s.core s.me.core).matrix a)).enqueueMatrix s.me.core (.drain s.src a fmt dst s.me.srkey s.me.drawLtn s.me.srctr)

theorem State.queueDrain_room (room : (s.core s.me.core).matrix.queue.length < 8) : s.queueDrain a fmt dst = s.drained a fmt dst := by
  rw [State.queueDrain, State.queueMatrix_room room]
  simp only [drainMode, bitsOf_eq_div]
  rfl

theorem State.drained_me (s : State) (a : R5) (fmt : Nat) (dst : DrainTo) :
    (s.drained a fmt dst).me = (drainStep (s.core s.me.core).matrix a s.me).advance := by
  rw [State.drained, State.enqueueMatrix_me, State.finish, State.me_setMe]

variable (room : (s.core s.me.core).matrix.queue.length < 8)
include room

theorem State.drainRows_room {pool : Bool} {ps : List Place} (places : s.placeDrain fmt pool (s.me.xr b) (s.me.xr x) = .ok ps) :
    s.drainRows a fmt pool b x = (s.drained a fmt (.rows (ps.map Place.lane))).settleAll s.me.core s.me.asid true ps := by
  have goes : (s.drained a fmt (.rows (ps.map Place.lane))).me.park ≠ some .matrixRoom := by
    rw [State.drained_me]
    exact Ctx.advance_park _
  simp only [State.drainRows, places, State.queueDrain_room room, if_neg goes]

variable (own : (s.core s.me.core).padAsid = some s.me.asid)
include own

theorem exec_mdrain_ring {r : Ring} (defined_ : (s.core s.me.core).matrix.rings.find? ((s.me.xr b).toNat % 4) = some r)
    (large : 4096 * codeWidth (f.toNat % 16) / 8 ≤ r.size) (plain : s.regionsFor s.me.core s.me.asid = []) : exec (.mdrain f a (.ring b)) s =
    .next (s.drained a (f.toNat % 16) (.ring ((s.me.xr b).toNat % 4))) := by
  change execMdrain f a (.ring b) s = _
  simp only [execMdrain, State.matrixSpace_own own, State.drainRing, State.matrix, defined_, if_neg (Nat.not_lt.2 large), plain]
  exact congrArg _ (State.queueDrain_room room)

theorem exec_mdrain_rows {ps : List Place} : (s.placeDrain (f.toNat % 16) true (s.me.xr b) (s.me.xr x) = .ok ps → exec (.mdrain f a (.pool b x)) s =
      .next ((s.drained a (f.toNat % 16) (.rows (ps.map Place.lane))).settleAll s.me.core s.me.asid true ps)) ∧
    (s.placeDrain (f.toNat % 16) false (s.me.xr b) (s.me.xr x) = .ok ps → exec (.mdrain f a (.mem b x)) s =
      .next ((s.drained a (f.toNat % 16) (.rows (ps.map Place.lane))).settleAll s.me.core s.me.asid true ps)) :=
  ⟨fun places => congrArg Host.Outcome.next ((State.matrixSpace_own own).trans (State.drainRows_room room places)),
    fun places => congrArg Host.Outcome.next ((State.matrixSpace_own own).trans (State.drainRows_room room places))⟩

end Drain

section DrainTile

variable {s u : State} {a : R5} {f : F6} {ko : KeyOp} {d : Desc} (own : (s.core s.me.core).padAsid = some s.me.asid)
  (found : s.keyPhase s.me (s.me.keyOf ko).1 = .ok (d, u)) (shape : d.rows = 64 ∧ d.cols = 64 ∧ d.fmt = f.toNat % 16)
include own found shape

/-- MDRAIN to a version past its key phase (R241, R302). -/
theorem exec_mdrain_tile : exec (.mdrain f a (.tile ko)) s =
    (let q : KeyReq := { u.keyReqOf (s.me.keyOf ko).1 d .tst (s.me.keyOf ko).2 with since := (s.me.keyReq.map KeyReq.since).getD u.ticks }
     .next (if s.me.stage = 0 then u.askMint 1 q (.mintReserve q) else u.queueDrain a (f.toNat % 16) (.tile q))) := by
  obtain ⟨rows, cols, fmt⟩ := shape
  change execMdrain f a (.tile ko) s = _
  simp only [execMdrain, State.matrixSpace_own own, State.drainTile, found, rows, cols, fmt, ne_eq, not_true, or_self, if_false]

end DrainTile

/-- `Claims.MatrixCommands`. -/
theorem matrixCommands : Claims.MatrixCommands := by
  intro s u f ra rb a b x o ko d ps
  dsimp only
  intro own
  refine ⟨exec_mfmt_invalid own, exec_mfmt_room own, fun room => ⟨?_, ?_⟩, fun full => ⟨fun valid => ?_, ?_, ?_⟩,
    fun p names mine inside => ⟨fun odd => ?_, fun aligned room => ?_, fun aligned full => ?_⟩, exec_mma_undefined own, fun p q first second => ?_,
    fun room => ⟨fun r defined_ large plain => exec_mdrain_ring room own defined_ large plain, exec_mdrain_rows room own,
      fun found same cur core rows cols fmt => ⟨fun first here => ?_, fun later => ?_⟩⟩⟩
  · exact (exec_mfmtQ_queues own).trans (congrArg _ (State.queueMatrix_room room))
  · exact (exec_mepiRst_queues own).trans (congrArg _ (State.queueMatrix_room room))
  · exact waitsFrom_parkMe (exec_mfmt_full own valid full)
  · exact waitsFrom_parkMe ((exec_mfmtQ_queues own).trans (congrArg _ (State.queueMatrix_full full)))
  · exact waitsFrom_parkMe ((exec_mepiRst_queues own).trans (congrArg _ (State.queueMatrix_full full)))
  · exact (exec_mepi_own own names mine inside).trans (congrArg _ (if_pos odd))
  · exact (exec_mepi_own own names mine inside).trans (congrArg _ ((if_neg (not_not.2 aligned)).trans (State.queueMatrix_room room)))
  · exact waitsFrom_parkMe ((exec_mepi_own own names mine inside).trans
      (congrArg _ ((if_neg (not_not.2 aligned)).trans (State.queueMatrix_full full))))
  · have mma := exec_mma_rings (f := f) own first second
    split
    next small => exact mma.trans (congrArg _ (if_pos small))
    next large =>
      split
      next room => exact mma.trans (congrArg _ ((if_neg large).trans (State.queueMatrix_room room)))
      next full => exact waitsFrom_parkMe (mma.trans (congrArg _ ((if_neg large).trans (State.queueMatrix_full full))))
  · exact asksMint_of here ((exec_mdrain_tile own found ⟨rows, cols, fmt⟩).trans (congrArg _ (if_pos first)))
  · have stands : (u.core u.me.core).matrix.queue.length < 8 := by rwa [same, core]
    refine (exec_mdrain_tile own found ⟨rows, cols, fmt⟩).trans (congrArg _ ((if_neg later).trans ((State.queueDrain_room stands).trans ?_)))
    rw [State.drained, same, core]
    rfl

/-- Settles O31: the clauses of the two claims. -/
theorem matrixRingsAndCommands : Obligations.MatrixRingsAndCommands := ⟨rings, matrixCommands⟩

end Sys2Proof.Machine
end

section
/-! PROOFS. The matrix unit (O32): the grant of a k-step, its end, the commands at the head, and a drain row by row to its place (R288 to R304). -/

namespace Sys2Proof.Machine

set_option Elab.async false

/-! ## The arbiter (R289) -/

theorem State.reload_head {s : State} {core : Nat} {cmd : MatCmd} {rest : List MatCmd} (queue : (s.core core).matrix.queue = cmd :: rest) :
    s.reload core = s.setMatrix core { (s.core core).matrix with credit := s.commandWeight cmd } := by
  simp only [State.reload, State.matrix, queue]

section Grant

variable {s : State} {cell q : Nat}

/-- A core is granted a k-step, and pays one credit. -/
def State.grantTo (s : State) (cell q : Nat) : State :=
  let u := s.setMatrix q { (s.core q).matrix with credit := (s.core q).matrix.credit - 1, granted := true }
  (u.setCell cell { u.cell cell with granted := q % 8 }).post (.kstepRetire q)

theorem exec_kstepGrant_none (none : ((s.grantOrder cell).any fun q => (s.matrix q).granted) = true ∨
    ((s.grantOrder cell).all fun q => !(s.matrix q).candidate) = true) : exec (.kstepGrant cell) s = .next s := by
  change execKstepGrant cell s = _
  unfold execKstepGrant
  by_cases granted : ((s.grantOrder cell).any fun q => (s.matrix q).granted) = true
  · exact if_pos granted
  · have empty : (s.grantOrder cell).filter (fun q => (s.matrix q).candidate) = [] := by
      simpa using none.resolve_left granted
    refine (if_neg granted).trans ?_
    simp only [empty]

section Free

variable (free : ((s.grantOrder cell).all fun q => !(s.matrix q).granted) = true)
include free

/-- The arbiter once no k-step is under way: among the candidates the first with credit, loaded anew where none has any. -/
theorem exec_kstepGrant_to {v : State} (loaded : (if ((s.grantOrder cell).filter fun q => (s.matrix q).candidate).any fun q =>
      (s.matrix q).credit != 0 then s else (s.grantOrder cell).foldl State.reload s) = v)
    (found : (s.grantOrder cell).find? (fun q => (s.matrix q).candidate && (v.matrix q).credit != 0) = some q) :
    exec (.kstepGrant cell) s = .next (v.grantTo cell q) := by
  have granted : ¬((s.grantOrder cell).any fun q => (s.matrix q).granted) = true := by
    simpa using free
  have first : ((s.grantOrder cell).filter fun q => (s.matrix q).candidate).find? (fun q => (v.matrix q).credit != 0) = some q := by
    rw [List.find?_filter, ← found]
    exact congrArg (fun p => List.find? p _) (funext fun x => by rw [Bool.decide_and, Bool.decide_eq_true, Bool.decide_eq_true])
  change execKstepGrant cell s = _
  unfold execKstepGrant
  refine (if_neg granted).trans ?_
  dsimp only
  split
  next empty =>
    rw [empty] at first
    cases first
  next =>
    rw [loaded, first]
    rfl

theorem exec_kstepGrant_credit (found : (s.grantOrder cell).find? (fun q => (s.matrix q).candidate && (s.matrix q).credit != 0) = some q) :
    exec (.kstepGrant cell) s = .next (s.grantTo cell q) := by
  have here := List.mem_of_find?_eq_some found
  have holds := List.find?_some found
  rw [Bool.and_eq_true] at holds
  exact exec_kstepGrant_to free (if_pos (List.any_eq_true.2 ⟨q, List.mem_filter.2 ⟨here, holds.1⟩, holds.2⟩)) found

theorem exec_kstepGrant_reload {v : State} (spent : ((s.grantOrder cell).all fun q => !(s.matrix q).candidate || (s.matrix q).credit == 0) = true)
    (loaded : (s.grantOrder cell).foldl State.reload s = v)
    (found : (s.grantOrder cell).find? (fun q => (s.matrix q).candidate && (v.matrix q).credit != 0) = some q) :
    exec (.kstepGrant cell) s = .next (v.grantTo cell q) := by
  refine exec_kstepGrant_to free ((if_neg fun credit => ?_).trans loaded) found
  obtain ⟨x, here, holds⟩ := List.any_eq_true.1 credit
  obtain ⟨inside, can⟩ := List.mem_filter.1 here
  have none := List.all_eq_true.1 spent x inside
  simp_all

end Free

end Grant

/-! ## The end of a k-step (R294, R304) -/

/-- Looking at the head of a core's queue changes no core. -/
theorem State.kickMatrix_cores (s : State) (core : Nat) : (s.kickMatrix core).cores = s.cores := by
  have once (e : Event) : (if s.pending.contains e then s else s.post e).cores = s.cores := by split <;> rfl
  unfold State.kickMatrix
  dsimp only
  split
  · rfl
  · split
    · rfl
    · exact once _
  · split
    · rfl
    · exact once _
  · exact once _
  · exact once _

theorem State.kickCell_cores (s : State) (cell : Nat) : (s.kickCell cell).cores = s.cores :=
  foldl_keeps State.cores (fun (s : State) k => s.kickMatrix (8 * cell + k)) (fun s _ => s.kickMatrix_cores _) _ s

theorem State.matrix_setMatrix (s : State) (core : Nat) (m : Matrix) : (s.setMatrix core m).matrix core = m :=
  congrArg Core.matrix (State.core_setCore s core _)

/-- The product of a force leaves the accumulator zero, and what was not drained is lost (R304). -/
theorem exec_kstepRetire_force {s : State} {core i : Nat} {src : Src} {rest : List MatCmd}
    (queue : (s.core core).matrix.queue = .force src i :: rest) : exec (.kstepRetire core) s = .next (s.forceProduct core src i) := by
  change execKstepRetire core s = _
  simp only [execKstepRetire, State.matrix, queue]

/-- The matrix state after a k-step of a force (R304). -/
def Matrix.afterForce (m : Matrix) (int : Bool) : Matrix :=
  { m with lost := m.lost || m.undrained, undrained := false, acc := [], int := int, queue := m.queue.drop 1, granted := false }

theorem State.forceProduct_matrix (s : State) (core : Nat) (src : Src) (i : Nat) : ((s.forceProduct core src i).core core).matrix =
    (s.core core).matrix.afterForce ((((s.ctx src.tid).thunks.find? i).map Node.fmt) == some 8) := by
  let u := (s.setMatrix core ((s.core core).matrix.afterForce ((((s.ctx src.tid).thunks.find? i).map Node.fmt) == some 8))).kickCell (cellOf core)
  have after : (u.core core).matrix = (s.core core).matrix.afterForce ((((s.ctx src.tid).thunks.find? i).map Node.fmt) == some 8) := by
    rw [State.core, State.kickCell_cores]
    exact s.matrix_setMatrix core _
  have product : s.forceProduct core src i = match (s.ctx src.tid).force with
    | none => u
    | some f => if f.todo.contains i then (u.setCtx src.tid ((s.ctx src.tid).computeEntry f i)).post (.forceNodeStep src.tid) else u := rfl
  clear_value u
  rw [product]
  split
  · exact after
  · split
    · exact after
    · exact after

theorem exec_kstepRetire_mma {s : State} {core ra rb w : Nat} {src : Src} {z pa pb : Bool} {rest : List MatCmd} {g h : Ring}
    (queue : (s.core core).matrix.queue = .mma src ra rb z pa pb w :: rest) (first : (s.core core).matrix.rings.find? ra = some g)
    (second : (s.core core).matrix.rings.find? rb = some h) : exec (.kstepRetire core) s =
    (let m := (s.core core).matrix
     let int := m.fctx % 16 == 6
     let acc := kstep m.fctx (s.operand core g (m.fctx % 16) (m.fctx / 256 % 4) (m.fctx.testBit 10))
       (s.operand core h (m.fctx / 16 % 16) (m.fctx / 256 % 4) (m.fctx.testBit 11)) (if z ∨ m.int ≠ int then [] else m.acc)
     .next (s.retire core fun n => { n with
       acc := acc, int := int, undrained := true, granted := false, rings := (m.rings.set ra (g.pop pa)).set rb (h.pop pb) })) := by
  change execKstepRetire core s = _
  simp only [execKstepRetire, State.matrix, queue, first, second, bitsOf_eq_div, Nat.pow_zero, Nat.div_one, Bool.or_eq_true, bne_iff_ne]
  rfl

/-- An I8 k-step wraps in 32 bits (R294). -/
theorem kstepElem_int (as bs : List Nat) (acc : Nat) : ((kstepElem 6 6 0 0 as bs acc : Nat) : Int) =
    ((acc : Int) + ((as.zip bs).map fun p => signedOf 8 p.1 * signedOf 8 p.2).sum) % 2 ^ 32 := by
  have sums (l : List Int) (x : Int) : l.foldl (· + ·) x = x + l.sum := by
    induction l generalizing x with
    | nil => simp
    | cons y r ih => rw [List.foldl_cons, ih, List.sum_cons, add_assoc]
  rw [kstepElem, if_pos rfl, kstepInt, intBits, sums]
  exact Int.toNat_of_nonneg (Int.emod_nonneg _ (by norm_num))

/-! ## Commands at the head (R299, R300) -/

section Head

variable {s : State} {core w off cnt : Nat} {src : Src} {a : R5} {rest : List MatCmd}

theorem exec_head_mfmt (queue : (s.core core).matrix.queue = .mfmt src a w :: rest) : exec (.matrixCommandAtHead core) s =
    .next ((s.retire core fun m => { m with fctx := w }).matrixResult src a (BitVec.ofNat 64 (s.core core).matrix.fctx)) := by
  change execMatrixCommandAtHead core s = _
  simp only [execMatrixCommandAtHead, State.matrix, queue]

theorem exec_head_mepiRst (queue : (s.core core).matrix.queue = .mepiRst src a :: rest) : exec (.matrixCommandAtHead core) s =
    .next ((s.retire core fun m => { m with prog := [0] }).matrixResult src a 0) := by
  change execMatrixCommandAtHead core s = _
  simp only [execMatrixCommandAtHead, State.matrix, queue]

theorem exec_head_mepi (queue : (s.core core).matrix.queue = .mepi src a off cnt :: rest) : exec (.matrixCommandAtHead core) s =
    (let ws := (List.range (min cnt 64)).map fun i => s.read (poolBase core + off + 4 * i) 4
     let st := s.epStatus core off cnt ws
     .next ((s.retire core fun m => if st = 0 then { m with prog := ws } else m).matrixResult src a (BitVec.ofNat 64 st))) := by
  change execMatrixCommandAtHead core s = _
  simp only [execMatrixCommandAtHead, State.matrix, queue]

end Head

/-! ## Drains (R291, R295, R296, R302) -/

/-- The rounding mode of drains, by its bits (R293). -/
theorem drainMode_eq (w : Nat) : drainMode w = if w.testBit 14 then 4 else w / 4096 % 4 := by
  rw [drainMode, bitsOf_eq_div]
  rfl

section Drains

variable {s : State} {core fmt ltn : Nat} {src : Src} {a : R5} {dst : DrainTo} {key ctr : Word} {rest : List MatCmd}
  (queue : (s.core core).matrix.queue = .drain src a fmt dst key ltn ctr :: rest)
include queue

/-- A row of a drain is computed (R295, R296). -/
theorem exec_epilogueRow (row : (s.core core).matrix.row < 64) (may : (s.core core).matrix.row = 0 → (s.core core).matrix.mayDrain dst) :
    exec (.epilogueRow core) s =
    (let m := (s.core core).matrix
     let out := m.drainRow ⟨drainMode m.fctx, key, ltn, ctr⟩ fmt fun off i => s.read (poolBase core + off + 4 * i) 4
     let u := out.2.foldl (fun (s : State) e => s.applyStat (core / 8) src.asid e.1 (e.2.map fp32.decode)) s
     let n := { m with row := m.row + 1, out := m.out ++ out.1.map Elem.bits, nf := m.nf || out.1.any Elem.nf, sat := m.sat || out.1.any Elem.sat }
     .next ((u.setMatrix core n).post (if m.row = 63 then .mdrainCompletion core else .epilogueRow core))) := by
  have begins : ¬(decide ((s.core core).matrix.row = 0) && !(s.core core).matrix.mayDrain dst) = true := by
    simpa using may
  change execEpilogueRow core s = _
  unfold execEpilogueRow
  dsimp only [State.matrix]
  split
  next found =>
    rw [queue] at found
    cases found
    refine (if_neg (Nat.not_le.2 row)).trans ((if_neg begins).trans ?_)
    simp only [Nat.reduceEqDiff]
    rfl
  next other => exact absurd queue (other _ _ _ _ _ _ _ _)

theorem exec_mdrainCompletion_tile {q : KeyReq} (tile : dst = .tile q) (here : q.desc.remote = false) : exec (.mdrainCompletion core) s =
    .next ((s.create q.key q.home (creators q) (bytesOfElems fmt 64 64 0 (s.core core).matrix.out)).endDrain core src a) := by
  subst tile
  change execMdrainCompletion core s = _
  simp only [execMdrainCompletion, State.matrix, queue, here]
  rfl

/-- The step of a drain that writes rows or a slot: the writes go out, are waited for, and the drain ends (R302). -/
def State.placesDrain (s : State) (core fmt : Nat) (dst : DrainTo) (src : Src) (ends : State) : Out State :=
  if (s.core core).matrix.row = 64 then
    let u := s.writeThrough src (((s.core core).matrix.drainLanes core fmt dst).zip (s.core core).matrix.out)
    .next ((u.setMatrix core { (u.core core).matrix with row := 65 }).post (.mdrainCompletion core))
  else if s.writesInFlight src then .next (s.at (s.pcyc + 1) (.mdrainCompletion core))
  else .next ends

theorem exec_mdrainCompletion_rows {ls : List Lane} (rows : dst = .rows ls) :
    exec (.mdrainCompletion core) s = s.placesDrain core fmt dst src (s.endDrain core src a) := by
  subst rows
  change execMdrainCompletion core s = _
  unfold execMdrainCompletion
  dsimp only [State.matrix]
  split
  next found =>
    rw [queue] at found
    cases found
    rfl
  next other => exact absurd queue (other _ _ _ _ _ _ _ _)

/-- The rings of a core once the tail slot of one is filled (R291). -/
def Matrix.filled (m : Matrix) (k : Nat) : SMap Ring :=
  match m.rings.find? k with
  | some r => m.rings.set k (r.push 1)
  | none => m.rings

theorem exec_mdrainCompletion_ring {k : Nat} (ring : dst = .ring k) : exec (.mdrainCompletion core) s = s.placesDrain core fmt dst src
    ((s.setMatrix core { (s.core core).matrix with rings := (s.core core).matrix.filled k }).endDrain core src a) := by
  subst ring
  change execMdrainCompletion core s = _
  unfold execMdrainCompletion
  dsimp only [State.matrix]
  split
  next found =>
    rw [queue] at found
    cases found
    rfl
  next other => exact absurd queue (other _ _ _ _ _ _ _ _)

/-- A drain to rows or to a ring writes what it has computed. -/
theorem exec_mdrainCompletion_places (other : ∀ t, dst ≠ .tile t) :
    ∃ ends, exec (.mdrainCompletion core) s = s.placesDrain core fmt dst src ends := by
  cases dst with
  | tile t => exact absurd rfl (other t)
  | rows ls => exact ⟨_, exec_mdrainCompletion_rows queue rfl⟩
  | ring k => exact ⟨_, exec_mdrainCompletion_ring queue rfl⟩

end Drains

section PlacesDrain

variable {s ends : State} {core fmt : Nat} {dst : DrainTo} {src : Src}

theorem State.placesDrain_writes (row : (s.core core).matrix.row = 64) : s.placesDrain core fmt dst src ends =
    (let u := s.writeThrough src (((s.core core).matrix.drainLanes core fmt dst).zip (s.core core).matrix.out)
     .next ((u.setMatrix core { (u.core core).matrix with row := 65 }).post (.mdrainCompletion core))) := if_pos row

variable (row : (s.core core).matrix.row = 65)
include row

theorem State.placesDrain_waits (flying : s.writesInFlight src = true) :
    s.placesDrain core fmt dst src ends = .next (s.at (s.pcyc + 1) (.mdrainCompletion core)) :=
  (if_neg (by omega)).trans (if_pos flying)

theorem State.placesDrain_ends (landed : s.writesInFlight src = false) : s.placesDrain core fmt dst src ends = .next ends :=
  (if_neg (by omega)).trans (if_neg (Bool.eq_false_iff.1 landed))

end PlacesDrain

/-- The lanes of a drain to a ring are the elements of its tail slot, one after another (R302). -/
theorem Matrix.drainLanes_ring {m : Matrix} {core fmt k i : Nat} {r : Ring} (defined_ : m.rings.find? k = some r) (element : i < 4096) :
    ∃ l, (m.drainLanes core fmt (.ring k))[i]? = some l ∧ l.n = codeWidth fmt / 8 ∧
      l.pa = poolBase core + r.base + r.tail * r.size + i * l.n := by
  simp only [Matrix.drainLanes, defined_, List.getElem?_map, List.getElem?_range element, Option.map_some]
  exact ⟨_, rfl, rfl, by simp only [Nat.add_assoc]⟩

/-- Settles O32: the arbiter, the end of a k-step, the commands at the head and the drain, each by its state. -/
theorem matrixUnit : Obligations.MatrixUnit := by
  intro s cell core q
  refine ⟨?_, ?_⟩
  · intro order grant
    refine ⟨exec_kstepGrant_none, exec_kstepGrant_credit, ?_⟩
    intro free spent v found
    have loaded : (s.grantOrder cell).foldl State.reload s = v := rfl
    clear_value v
    exact exec_kstepGrant_reload free spent loaded found
  dsimp only
  refine ⟨fun cmd rest queue => ?_, fun src i rest queue => ?_,
    fun src ra rb z pa pb w rest g h queue first second => exec_kstepRetire_mma queue first second, fun as bs acc _ _ => kstepElem_int as bs acc,
    fun src a w rest queue => exec_head_mfmt queue, fun src a rest queue => exec_head_mepiRst queue,
    fun src a off cnt rest queue => exec_head_mepi queue, fun src a fmt dst key ltn ctr rest queue => ⟨fun row may => ?_,
      fun other => ⟨fun row => ?_, fun row flying => ?_⟩, fun ls rows => ⟨?_, fun row landed => ?_⟩,
      fun k r ring defined_ => ⟨fun i element => ?_, fun row landed => ?_⟩, fun q tile here => exec_mdrainCompletion_tile queue tile here⟩⟩
  · rw [State.reload_head queue]
    cases cmd <;> rfl
  · refine ⟨_, exec_kstepRetire_force queue, ?_⟩
    rw [State.forceProduct_matrix, Matrix.afterForce, queue]
    rfl
  · rw [← drainMode_eq]
    exact exec_epilogueRow queue row may
  · obtain ⟨ends, steps⟩ := exec_mdrainCompletion_places queue other
    exact steps.trans (State.placesDrain_writes row)
  · obtain ⟨ends, steps⟩ := exec_mdrainCompletion_places queue other
    exact steps.trans (State.placesDrain_waits row flying)
  · rw [rows]
    rfl
  · exact (exec_mdrainCompletion_rows queue rows).trans (State.placesDrain_ends row landed)
  · rw [ring]
    exact Matrix.drainLanes_ring defined_ element
  · refine (exec_mdrainCompletion_ring queue ring).trans ((State.placesDrain_ends row landed).trans ?_)
    rw [Matrix.filled, defined_]
    rfl

end Sys2Proof.Machine
end

section
/-! PROOFS. Thunk nodes and handles (O28): what makes a node and what refuses it, how a node goes under its handle, and views (R250 to R256,
R263, R264, R270 to R276). -/

namespace Sys2Proof.Machine

set_option Elab.async false

/-! ## Nodes over handles (R250, R253, R254) -/

section Make

variable {s : State} {a : R5} {op f opnd : Nat} {hs : List R5} {result : List Shape → Option Shape} {draws : Shape → Nat} {ss : List Slot}

theorem State.makeNode_empty (empty : s.me.slots? hs = none) : s.makeNode a op f hs opnd result draws = s.trapMe s.me.emptyTrap := by
  simp only [State.makeNode, empty]

variable (slots : s.me.slots? hs = some ss)
include slots

theorem State.makeNode_refuses (misfit : result (ss.map Slot.shape) = none) :
    s.makeNode a op f hs opnd result draws = s.trapMe s.me.shapeTrap2 := by
  simp only [State.makeNode, slots, misfit]

theorem State.makeNode_makes {sh : Shape} (fits : result (ss.map Slot.shape) = some sh) :
    s.makeNode a op f hs opnd result draws = s.append a (s.newNode op f sh ss opnd) (draws sh) := by
  simp only [State.makeNode, slots, fits]

end Make

section Slots

variable {c : Ctx} {b x y : R5} {u v w : Slot}

theorem Ctx.slots?_empty {hs : List R5} {h : R5} (here : h ∈ hs) (empty : c.slotFor h none = none) : c.slots? hs = none := by
  induction hs with
  | nil => exact absurd here List.not_mem_nil
  | cons z r ih =>
    rw [Ctx.slots?, List.mapM_cons]
    rcases List.mem_cons.1 here with rfl | later
    · rw [empty]
      rfl
    · have rest : r.mapM (fun h => c.slotFor h none) = none := ih later
      rw [rest]
      cases c.slotFor z none <;> rfl

theorem Ctx.slots?_one (first : c.slotFor b none = some u) : c.slots? [b] = some [u] := by
  simp [Ctx.slots?, first]

theorem Ctx.slots?_two (first : c.slotFor b none = some u) (second : c.slotFor x none = some v) : c.slots? [b, x] = some [u, v] := by
  simp [Ctx.slots?, first, second]

theorem Ctx.slots?_three (first : c.slotFor b none = some u) (second : c.slotFor x none = some v) (third : c.slotFor y none = some w) :
    c.slots? [b, x, y] = some [u, v, w] := by
  simp [Ctx.slots?, first, second, third]

end Slots

/-! ### The shapes that the instructions accept (R270 to R275) -/

/-- TEW takes floating-point sources of one shape (R270). -/
def tewShape (l : List Shape) : Option Shape :=
  match l with
  | sh :: r => if isFloatCode sh.fmt && r.all (· == sh) then some sh else none
  | [] => none

/-- TMAP takes a floating-point source (R271). -/
def tmapShape (l : List Shape) : Option Shape := l.head?.bind fun sh => if isFloatCode sh.fmt then some sh else none

/-- TRED takes a floating-point source, and leaves eight columns or eight rows (R274). -/
def tredShape (f : Nat) (l : List Shape) : Option Shape :=
  l.head?.bind fun sh => if isFloatCode sh.fmt then some (if f < 4 then { sh with cols := 8 } else { sh with rows := 8 }) else none

/-- The shape of a conversion's result (R272). -/
def tcvtResult (f : Nat) (sh : Shape) : Shape :=
  if f < 32 then { sh with fmt := tcvtTarget f, blk := 0 } else { sh with fmt := 5, blk := bitsOf f 3 2 }

/-- TCVT takes a source of a format that it converts, into a shape that stands (R272). -/
def tcvtShape (f : Nat) (l : List Shape) : Option Shape :=
  l.head?.bind fun sh => let r := tcvtResult f sh
    if sh.fmt != 9 && sh.fmt != 13 && shapeOk r && (r.fmt != 5 || sh.cols % blockLen r.blk == 0) then some r else none

section Exec

variable {s : State} {f : F6} {a b x y : R5} {u v w : Slot}

theorem exec_tew (s : State) (f : F6) (a b x y : R5) : exec (.tew f a b x y) s =
    .next (s.makeNode a 2 f.toNat (if f.toNat = 6 then [b, x, y] else [b, x]) 0 tewShape Shape.count) := rfl

theorem exec_tmap (s : State) (f : F6) (a b x : R5) : exec (.tmap f a b x) s =
    .next (s.makeNode a 3 f.toNat [b] ((s.me.xr x).toNat % 2 ^ 32) tmapShape (fun sh => if f.toNat < 2 then 0 else sh.count)) := rfl

theorem exec_tred (s : State) (f : F6) (a b : R5) : exec (.tred f a b) s =
    .next (s.makeNode a 5 f.toNat [b] 0 (tredShape f.toNat) Shape.count) := rfl

theorem exec_tcvt (s : State) (f : F6) (a b : R5) : exec (.tcvt f a b) s =
    .next (s.makeNode a 6 f.toNat [b] 0 (tcvtShape f.toNat) Shape.count) := rfl

end Exec

/-- The shape of a product (R273): the sources' formats and inner sizes agree, and so does an accumulator's shape. -/
def tmmaShape (c : Ctx) (q : Slot) (l : List Shape) : Option Shape :=
  match l with
  | p :: r :: acc => (productFmt p.fmt r.fmt).bind fun m =>
    let sh : Shape := ⟨p.rows, r.cols, m, 0⟩
    if p.cols == r.rows && shapeOk sh && acc.all (· == sh) && (r.fmt != 5 || !c.alongColumns 33 q) then some sh else none
  | _ => none

section Tmma

variable {s : State} {f : F6} {a b x y : R5}

theorem exec_tmma_empty (empty : s.me.slots? (if f.toNat = 1 then [b, x, y] else [b, x]) = none) :
    exec (.tmma f a b x y) s = .next (s.trapMe s.me.emptyTrap) := by
  change execTmma f a b x y s = _
  simp only [execTmma, empty]

theorem exec_tmma_slots {u v : Slot} {r : List Slot} (slots : s.me.slots? (if f.toNat = 1 then [b, x, y] else [b, x]) = some (u :: v :: r)) :
    exec (.tmma f a b x y) s =
      .next (s.makeNode a 4 f.toNat (if f.toNat = 1 then [b, x, y] else [b, x]) 0 (tmmaShape s.me v) fun _ => 0) := by
  change execTmma f a b x y s = _
  simp only [execTmma, slots]
  rfl

end Tmma

/-- What a product needs of its sources (R273): a format, the inner size, a shape that stands, and an NX4 second source along its rows. -/
@[reducible] def ProductFits (c : Ctx) (u v : Slot) (m : Nat) : Prop :=
  productFmt u.shape.fmt v.shape.fmt = some m ∧ u.shape.cols = v.shape.rows ∧ shapeOk ⟨u.shape.rows, v.shape.cols, m, 0⟩ ∧
    (v.shape.fmt = 5 → c.alongColumns 33 v = false)

section Product

variable {c : Ctx} {u v : Slot} {acc : List Shape} {m : Nat}

theorem tmmaShape_fmt (fmt : productFmt u.shape.fmt v.shape.fmt = some m) : tmmaShape c v (u.shape :: v.shape :: acc) =
    if ProductFits c u v m ∧ ∀ z ∈ acc, z = ⟨u.shape.rows, v.shape.cols, m, 0⟩ then some ⟨u.shape.rows, v.shape.cols, m, 0⟩ else none := by
  simp only [tmmaShape, fmt, Option.bind_some]
  refine if_congr ?_ rfl rfl
  simp only [Bool.and_eq_true, beq_iff_eq, List.all_eq_true, Bool.or_eq_true, bne_iff_ne, Bool.not_eq_true', imp_iff_not_or, ProductFits, fmt,
    true_and]
  tauto

theorem tmmaShape_fits (fits : ProductFits c u v m) (same : ∀ z ∈ acc, z = ⟨u.shape.rows, v.shape.cols, m, 0⟩) :
    tmmaShape c v (u.shape :: v.shape :: acc) = some ⟨u.shape.rows, v.shape.cols, m, 0⟩ :=
  (tmmaShape_fmt fits.1).trans (if_pos ⟨fits, same⟩)

theorem tmmaShape_misfit (misfit : ∀ m, ProductFits c u v m → ¬∀ z ∈ acc, z = ⟨u.shape.rows, v.shape.cols, m, 0⟩) :
    tmmaShape c v (u.shape :: v.shape :: acc) = none := by
  cases fmt : productFmt u.shape.fmt v.shape.fmt with
  | none => simp only [tmmaShape, fmt, Option.bind_none]
  | some m => exact (tmmaShape_fmt fmt).trans (if_neg fun fits => misfit m fits.1 fits.2)

end Product

section Shapes

variable {sh : Shape} {r : List Shape}

theorem tewShape_cons : tewShape (sh :: r) = if isFloatCode sh.fmt = true ∧ ∀ z ∈ r, z = sh then some sh else none := by
  simp only [tewShape, Bool.and_eq_true, List.all_eq_true, beq_iff_eq]

/-- The shapes that a conversion takes (R272). -/
theorem tcvtShape_one {f : Nat} : tcvtShape f [sh] = if sh.fmt ≠ 9 ∧ sh.fmt ≠ 13 ∧ shapeOk (tcvtResult f sh) = true ∧
    ((tcvtResult f sh).fmt = 5 → sh.cols % blockLen (tcvtResult f sh).blk = 0) then some (tcvtResult f sh) else none := by
  simp only [tcvtShape, List.head?_cons, Option.bind_some, Bool.and_eq_true, bne_iff_ne, Bool.or_eq_true, beq_iff_eq, imp_iff_not_or, ne_eq,
    and_assoc]

end Shapes

section Empty

variable {s : State} {i : Instr} {f : F6} {a b x y : R5}

/-- An EMPTY source of a node raises `ILLEGAL_OP` (R250). -/
theorem exec_node_empty (empty : (i ∈ [Instr.tew f a b x y, .tmma f a b x y] ∧ (s.me.slotFor b none = none ∨ s.me.slotFor x none = none)) ∨
    (i ∈ [Instr.tmap f a b x, .tred f a b, .tcvt f a b] ∧ s.me.slotFor b none = none) ∨
    (s.me.slotFor y none = none ∧ ((i = .tew f a b x y ∧ f.toNat = 6) ∨ (i = .tmma f a b x y ∧ f.toNat = 1)))) :
    exec i s = .next (s.trapMe s.me.emptyTrap) := by
  have source {n : Nat} {h : R5} (here : h = b ∨ h = x) (none : s.me.slotFor h .none = .none) :
      s.me.slots? (if f.toNat = n then [b, x, y] else [b, x]) = .none := by
    refine Ctx.slots?_empty (h := h) ?_ none
    split <;> rcases here with rfl | rfl <;> simp
  have third {n : Nat} (last : f.toNat = n) (none : s.me.slotFor y .none = .none) :
      s.me.slots? (if f.toNat = n then [b, x, y] else [b, x]) = .none := by
    rw [if_pos last]
    exact Ctx.slots?_empty (by simp) none
  have one (none : s.me.slotFor b .none = .none) : s.me.slots? [b] = .none := Ctx.slots?_empty (by simp) none
  have two (none : s.me.slotFor b .none = .none ∨ s.me.slotFor x .none = .none) (n : Nat) :
      s.me.slots? (if f.toNat = n then [b, x, y] else [b, x]) = .none := none.elim (source (.inl rfl)) (source (.inr rfl))
  rcases empty with ⟨here, none⟩ | ⟨here, none⟩ | ⟨none, ⟨rfl, last⟩ | ⟨rfl, last⟩⟩
  · simp only [List.mem_cons, List.not_mem_nil, or_false] at here
    rcases here with rfl | rfl
    · exact (exec_tew s f a b x y).trans (congrArg _ (State.makeNode_empty (two none 6)))
    · exact exec_tmma_empty (two none 1)
  · simp only [List.mem_cons, List.not_mem_nil, or_false] at here
    rcases here with rfl | rfl | rfl
    · exact (exec_tmap s f a b x).trans (congrArg _ (State.makeNode_empty (one none)))
    · exact (exec_tred s f a b).trans (congrArg _ (State.makeNode_empty (one none)))
    · exact (exec_tcvt s f a b).trans (congrArg _ (State.makeNode_empty (one none)))
  · exact (exec_tew s f a b x y).trans (congrArg _ (State.makeNode_empty (third last none)))
  · exact exec_tmma_empty (third last none)

end Empty

/-- TFILL (R275). -/
theorem exec_tfill_refuses {s : State} {a b : R5} {imm : BitVec 32}
    (misfit : ∀ sh p, shapeWord (s.me.xr b).toNat = some (sh, p) → sh.fmt = 5 ∨ shapeOk sh = false) :
    exec (.tfill a b imm) s = .next (s.trapMe s.me.shapeTrap2) := by
  change execTfill a b imm s = _
  cases word : shapeWord (s.me.xr b).toNat with
  | none => simp only [execTfill, word]
  | some e =>
    simp only [execTfill, word]
    exact if_pos ((misfit e.1 e.2 word).imp_right Bool.eq_false_iff.1)

theorem exec_tfill_makes {s : State} {a b : R5} {imm : BitVec 32} {sh : Shape} {p : Nat} (word : shapeWord (s.me.xr b).toNat = some (sh, p))
    (plain : sh.fmt ≠ 5) (stands : shapeOk sh = true) : exec (.tfill a b imm) s =
    .next (s.append a (s.newNode 1 0 sh [] ((imm.signExtend 64).toNat % 2 ^ codeWidth sh.fmt)) 0) := by
  change execTfill a b imm s = _
  simp only [execTfill, word]
  exact if_neg (not_or.2 ⟨plain, not_not.2 stands⟩)

/-- `Claims.NodesAreMade`. -/
theorem nodesAreMade : Claims.NodesAreMade := by
  intro s i f a b x y imm
  dsimp only
  refine ⟨exec_node_empty, fun u v first second other => ?_, fun u v w first second third fused => ?_,
    fun u first => ?_, fun u v first second => ⟨fun other => ?_, fun w third fused => ?_⟩, fun u first => ?_, fun u first => ?_,
    fun sh p word plain stands => exec_tfill_makes word plain stands, exec_tfill_refuses⟩
  · have slots := Ctx.slots?_two first second
    have tew := exec_tew s f a b x y
    rw [if_neg other] at tew
    refine ⟨fun fits => tew.trans (congrArg _ (State.makeNode_makes slots (tewShape_cons.trans (if_pos ?_)))), fun misfit =>
      tew.trans (congrArg _ (State.makeNode_refuses slots (tewShape_cons.trans (if_neg ?_))))⟩
    · simpa using fits
    · simpa [imp_iff_not_or] using misfit
  · have slots := Ctx.slots?_three first second third
    have tew := exec_tew s f a b x y
    rw [if_pos fused] at tew
    refine ⟨fun fits => tew.trans (congrArg _ (State.makeNode_makes slots (tewShape_cons.trans (if_pos ?_)))), fun misfit =>
      tew.trans (congrArg _ (State.makeNode_refuses slots (tewShape_cons.trans (if_neg ?_))))⟩
    · simpa using fits
    · simpa [imp_iff_not_or] using misfit
  · have slots := Ctx.slots?_one first
    split
    next float => exact (exec_tmap s f a b x).trans (congrArg _ (State.makeNode_makes slots (if_pos float)))
    next other => exact (exec_tmap s f a b x).trans (congrArg _ (State.makeNode_refuses slots (if_neg other)))
  · have slots : s.me.slots? (if f.toNat = 1 then [b, x, y] else [b, x]) = some [u, v] := by
      rw [if_neg other]
      exact Ctx.slots?_two first second
    refine ⟨fun m fits => ?_, fun misfit => ?_⟩
    · rw [exec_tmma_slots slots, State.makeNode_makes slots (tmmaShape_fits (acc := []) fits (by simp))]
      rfl
    · rw [Traps, exec_tmma_slots slots, State.makeNode_refuses slots (tmmaShape_misfit (acc := []) fun m fits _ => misfit m fits)]
      rfl
  · have slots : s.me.slots? (if f.toNat = 1 then [b, x, y] else [b, x]) = some [u, v, w] := by
      rw [if_pos fused]
      exact Ctx.slots?_three first second third
    refine ⟨fun m fits same => ?_, fun misfit => ?_⟩
    · rw [exec_tmma_slots slots, State.makeNode_makes slots (tmmaShape_fits (acc := [w.shape]) fits (by simpa using same))]
      rfl
    · rw [Traps, exec_tmma_slots slots, State.makeNode_refuses slots (tmmaShape_misfit (acc := [w.shape]) fun m fits same => misfit m fits (same _ (by simp)))]
      rfl
  · have slots := Ctx.slots?_one first
    split
    next float => exact (exec_tred s f a b).trans (congrArg _ (State.makeNode_makes slots (if_pos float)))
    next other => exact (exec_tred s f a b).trans (congrArg _ (State.makeNode_refuses slots (if_neg other)))
  · have slots := Ctx.slots?_one first
    exact ⟨fun fits => (exec_tcvt s f a b).trans (congrArg _ (State.makeNode_makes slots (tcvtShape_one.trans (if_pos fits)))),
      fun misfit => (exec_tcvt s f a b).trans (congrArg _ (State.makeNode_refuses slots (tcvtShape_one.trans (if_neg misfit))))⟩

/-! ## A node under its handle (R252, R254) -/

/-- What a thread is but for its handles and its table. -/
def Ctx.unnamed (c : Ctx) : Ctx := { c with handles := Vector.replicate 32 .empty, thunks := [] }

theorem Ctx.prune_unnamed (fuel : Nat) (c : Ctx) : (Ctx.prune fuel c).unnamed = c.unnamed := by
  induction fuel generalizing c with
  | zero => rfl
  | succ fuel ih => exact ih _

theorem SMap.find?_filter_keys {α : Type} (m : SMap α) (p : Nat → Bool) {k : Nat} (kept : p k = true) :
    SMap.find? (m.filter fun e => p e.1) k = m.find? k := by
  induction m with
  | nil => rfl
  | cons e r ih =>
    obtain ⟨j, v⟩ := e
    by_cases same : j = k
    · subst same
      simp [SMap.find?, kept]
    · by_cases keep : p j = true <;> simp [SMap.find?, keep, same, ih]

/-- A node that a handle names stays in the table. -/
theorem Ctx.prune_keeps (fuel : Nat) (c : Ctx) {e : Nat} (named : Handle.node e ∈ c.handles.toList) :
    (Ctx.prune fuel c).thunks.find? e = c.thunks.find? e := by
  induction fuel generalizing c with
  | zero => rfl
  | succ fuel ih =>
    have kept : c.named.contains e = true :=
      List.contains_iff_mem.2 (List.mem_append_left _ (List.mem_filterMap.2 ⟨_, named, rfl⟩))
    exact (ih { c with thunks := c.thunks.filter fun e => c.named.contains e.1 } named).trans
      (SMap.find?_filter_keys c.thunks c.named.contains kept)

theorem Ctx.mem_setHandle (c : Ctx) (a : R5) (x : Handle) : x ∈ (c.setHandle a x).handles.toList := by
  have inside : a.toNat < 32 := a.isLt
  rw [Vector.mem_toList_iff, Vector.mem_iff_getElem]
  exact ⟨a.toNat, inside, Vector.getElem_setIfInBounds_self inside⟩

section Settle

variable (fuel : Nat) (c : Ctx) (a : R5) (n : Node) (e : Nat)

theorem Ctx.settleNode_unnamed : (c.settleNode a n e).unnamed = c.unnamed := rfl

theorem Ctx.settleNode_handle : (Ctx.prune fuel (c.settleNode a n e)).handle a = .node e := by
  have inside : a.toNat < 32 := a.isLt
  rw [Ctx.handle, Ctx.prune_handles]
  simp [Ctx.settleNode, Ctx.setHandle, inside]

theorem Ctx.settleNode_node : (Ctx.prune fuel (c.settleNode a n e)).thunks.find? e = some n := by
  have named : Handle.node e ∈ (c.settleNode a n e).handles.toList := Ctx.mem_setHandle c a (.node e)
  rw [Ctx.prune_keeps fuel _ named]
  exact SMap.find?_set_self _ _ _

end Settle

/-- The thread once a node stands under a handle, before it moves on. -/
def Ctx.bound (c : Ctx) (a : R5) (n : Node) (e : Nat) : Ctx := Ctx.prune 33 ((c.withNode a n).settleNode a n e)

section Bound

variable (c : Ctx) (a : R5) (n : Node) (e : Nat)

theorem Ctx.withNode_unnamed : (c.withNode a n).unnamed = c.unnamed := by
  rw [Ctx.withNode, Ctx.prune_unnamed]
  rfl

theorem Ctx.bound_unnamed : (c.bound a n e).unnamed = c.unnamed := by
  rw [Ctx.bound, Ctx.prune_unnamed, Ctx.settleNode_unnamed, Ctx.withNode_unnamed]

theorem Ctx.bound_handle : (c.bound a n e).handle a = .node e := Ctx.settleNode_handle 33 (c.withNode a n) a n e

theorem Ctx.bound_node : (c.bound a n e).thunks.find? e = some n := Ctx.settleNode_node 33 (c.withNode a n) a n e

end Bound

/-- Moving on changes neither the handles nor the table, nor what a result is written to. -/
theorem Ctx.advance_names (c : Ctx) : c.advance.handles = c.handles ∧ c.advance.thunks = c.thunks ∧ c.advance.k = c.k ∧
    c.advance.srctr = c.srctr := by
  unfold Ctx.advance Ctx.moveOn
  split <;> exact ⟨rfl, rfl, rfl, rfl⟩

/-! ## References that nothing holds any longer (R252) -/

/-- The references that a thread gives up: each once, in order. -/
def gone (c d : Ctx) : List Ref :=
  (c.refs.filter fun r => !(d.refs.map Ref.id).contains r.id).foldl (fun (l : List Ref) r => if l.any (fun x => x.id == r.id) then l else l ++ [r]) []

/-- Of each reference of a list, one of its number is kept. -/
theorem foldl_once (l acc : List Ref) :
    let m := l.foldl (fun (l : List Ref) r => if l.any (fun x => x.id == r.id) then l else l ++ [r]) acc
    (∀ r ∈ m, r ∈ acc ∨ r ∈ l) ∧ ∀ r, r ∈ acc ∨ r ∈ l → ∃ x ∈ m, x.id = r.id := by
  induction l generalizing acc with
  | nil => exact ⟨fun r here => .inl here, fun r here => ⟨r, by simpa using here, rfl⟩⟩
  | cons y l ih =>
    simp only [List.foldl_cons]
    by_cases known : acc.any (fun x => x.id == y.id) = true
    · rw [if_pos known]
      obtain ⟨from_, once⟩ := ih acc
      refine ⟨fun r here => (from_ r here).imp_right (List.mem_cons_of_mem y), fun r here => ?_⟩
      rcases here with old | here
      · exact once r (.inl old)
      · rcases List.mem_cons.1 here with rfl | later
        · obtain ⟨x, old, same⟩ := List.any_eq_true.1 known
          obtain ⟨z, kept, number⟩ := once x (.inl old)
          exact ⟨z, kept, number.trans (beq_iff_eq.1 same)⟩
        · exact once r (.inr later)
    · rw [if_neg known]
      obtain ⟨from_, once⟩ := ih (acc ++ [y])
      refine ⟨fun r here => ?_, fun r here => once r ?_⟩
      · rcases from_ r here with old | later
        · rcases List.mem_append.1 old with old | new
          · exact .inl old
          · exact .inr (List.mem_cons.2 (.inl (List.mem_singleton.1 new)))
        · exact .inr (List.mem_cons_of_mem y later)
      · simpa [or_assoc] using here

theorem mem_of_gone {c d : Ctx} {r : Ref} (here : r ∈ gone c d) : r ∈ c.refs ∧ ∀ z ∈ d.refs, z.id ≠ r.id := by
  have from_ := ((foldl_once (c.refs.filter fun r => !(d.refs.map Ref.id).contains r.id) []).1 r here).resolve_left List.not_mem_nil
  simpa using from_

/-- A reference whose number is its own, and that nothing holds any longer, is given up. -/
theorem gone_of_lost {c d : Ctx} {r : Ref} (held : r ∈ c.refs) (own : ∀ z ∈ c.refs, z.id = r.id → z = r) (lost : ∀ z ∈ d.refs, z.id ≠ r.id) :
    r ∈ gone c d := by
  have here : r ∈ c.refs.filter fun r => !(d.refs.map Ref.id).contains r.id := by simpa using ⟨held, lost⟩
  obtain ⟨x, kept, number⟩ := (foldl_once (c.refs.filter fun r => !(d.refs.map Ref.id).contains r.id) []).2 r (.inr here)
  rwa [← own x (mem_of_gone kept).1 number]

/-- The messages that release references of this device. -/
def releases (l : List Ref) : List Event := (l.filter fun r => r.dev.isNone).map fun r => .pinRelease r.key r.home

theorem State.releaseRef_pending (s : State) (r : Ref) : (s.releaseRef r).pending = s.pending ++ releases [r] := by
  unfold State.releaseRef releases
  cases dev : r.dev with
  | none => simp [dev]
  | some d =>
    simp only [List.filter, dev, Option.isNone_some, List.map_nil, List.append_nil]
    split <;> rfl

theorem State.foldl_releaseRef_pending (l : List Ref) (s : State) : (l.foldl State.releaseRef s).pending = s.pending ++ releases l := by
  induction l generalizing s with
  | nil => simp [releases]
  | cons r l ih =>
    rw [List.foldl_cons, ih, State.releaseRef_pending, List.append_assoc]
    simp [releases, List.filter_cons]
    split <;> simp

theorem State.releaseRef_leaves (s : State) (r : Ref) : ((s.releaseRef r).mem, (s.releaseRef r).cur) = (s.mem, s.cur) := by
  simp only [State.releaseRef]
  split
  · rfl
  · split <;> rfl

theorem State.releasePool_leaves (s : State) (p : PoolSrc) :
    ((s.releasePool p).mem, (s.releasePool p).cur, (s.releasePool p).pending) = (s.mem, s.cur, s.pending) := by
  simp only [State.releasePool]
  split
  · split <;> rfl
  · rfl

theorem State.released_leaves (s : State) (tid : Nat) (d : Ctx) (pools : List PoolSrc) (l : List Ref) :
    let t := l.foldl State.releaseRef (pools.foldl State.releasePool (s.setCtx tid d))
    t.mem = s.mem ∧ t.cur = s.cur ∧ t.pending = s.pending ++ releases l := by
  have freed := foldl_keeps (fun u : State => (u.mem, u.cur, u.pending)) State.releasePool State.releasePool_leaves pools (s.setCtx tid d)
  have kept := foldl_keeps (fun u : State => (u.mem, u.cur)) State.releaseRef State.releaseRef_leaves l
    (pools.foldl State.releasePool (s.setCtx tid d))
  have sent := State.foldl_releaseRef_pending l (pools.foldl State.releasePool (s.setCtx tid d))
  simp only [Prod.mk.injEq] at freed kept
  obtain ⟨mem, cur, pending⟩ := freed
  exact ⟨kept.1.trans mem, kept.2.trans cur, sent.trans (congrArg (· ++ releases l) pending)⟩

/-- What a change of a thread's handles leaves, and the messages that release what the thread gives up (R252). -/
theorem State.rebind_leaves (s : State) (tid : Nat) (f : Ctx → Ctx) : (s.rebind tid f).mem = s.mem ∧ (s.rebind tid f).cur = s.cur ∧
    (s.rebind tid f).pending = s.pending ++ releases (gone (s.ctx tid) (Ctx.prune 33 (f (s.ctx tid)))) :=
  s.released_leaves tid _ _ _

/-! ## The append of a node (R252, R254, R263) -/

section Append

variable {s : State} {a : R5} {n : Node} {draws e : Nat}

/-- The thread once the node is appended and the instruction is complete. -/
def Ctx.appended (c : Ctx) (a : R5) (n : Node) (e draws : Nat) : Ctx :=
  ((c.bound a n e).stepSr (c.bound a n e).rm draws).advance

theorem State.append_room (free : (s.me.withNode a n).freeEntry = some e) : s.append a n draws =
    (let u := s.rebind s.cur fun c => (c.withNode a n).settleNode a n e
     State.finish { u with serial := u.serial + 1 } fun c => c.stepSr c.rm draws) := by
  simp only [State.append, State.withEntry, free]

theorem State.append_full (full : (s.me.withNode a n).freeEntry = none) (expert : s.me.khthk ≠ 0) :
    s.append a n draws = s.trap s.cur ⟨0x0F, 1, 0, 0⟩ := by
  have mode : s.me.khthk.toNat ≠ 0 := fun zero => expert (BitVec.eq_of_toNat_eq zero)
  simp only [State.append, State.withEntry, full, if_pos mode]
  rfl

theorem State.append_materialises {i : Nat} {m : Node} (full : (s.me.withNode a n).freeEntry = none) (basic : s.me.khthk = 0)
    (oldest : ((s.me.withNode a n).youngest.filter fun e => e.1 ≠ 32).getLast? = some (i, m)) : s.append a n draws =
    s.materialise i m fun s => s.setMe { s.me with park := none, midway := true } := by
  have mode : ¬s.me.khthk.toNat ≠ 0 := by simp [basic]
  simp only [State.append, State.withEntry, full, if_neg mode, oldest]

theorem State.append_ctx (free : (s.me.withNode a n).freeEntry = some e) : (s.append a n draws).ctx s.cur = s.me.appended a n e draws := by
  let u := s.rebind s.cur fun c => (c.withNode a n).settleNode a n e
  let v : State := { u with serial := u.serial + 1 }
  have cur : v.cur = s.cur := (s.rebind_leaves s.cur fun c => (c.withNode a n).settleNode a n e).2.1
  have me : v.me = s.me.bound a n e := by
    rw [State.me, cur]
    exact (State.ctx_congr (s.rebind_threads s.cur fun c => (c.withNode a n).settleNode a n e) s.cur).trans (State.ctx_setCtx _ _ _)
  have appends : s.append a n draws = v.finish fun c => c.stepSr c.rm draws := State.append_room free
  rw [appends, State.finish, ← cur, State.setMe_ctx, me]
  rfl

theorem State.append_leaves (free : (s.me.withNode a n).freeEntry = some e) : (s.append a n draws).mem = s.mem ∧
    (s.append a n draws).pending = s.pending ++ releases (gone s.me (s.me.bound a n e)) := by
  obtain ⟨mem, -, pending⟩ := s.rebind_leaves s.cur fun c => (c.withNode a n).settleNode a n e
  rw [State.append_room free]
  exact ⟨mem, pending⟩

end Append

section Appended

variable (c : Ctx) (a : R5) (n : Node) (e draws : Nat)

theorem Ctx.stepSr_names (m : Nat) : (c.stepSr m draws).handles = c.handles ∧ (c.stepSr m draws).thunks = c.thunks ∧
    (c.stepSr m draws).k = c.k ∧ (c.stepSr m draws).pc = c.pc ∧ (c.stepSr m draws).line = c.line ∧ (c.stepSr m draws).x = c.x ∧
    (c.stepSr m draws).v = c.v ∧ (c.stepSr m draws).pred = c.pred := by
  unfold Ctx.stepSr
  split <;> exact ⟨rfl, rfl, rfl, rfl, rfl, rfl, rfl, rfl⟩

theorem Ctx.refs_congr {c d : Ctx} (handles : d.handles = c.handles) (thunks : d.thunks = c.thunks) : d.refs = c.refs := by
  rw [Ctx.refs, Ctx.refs, handles, thunks]

/-- The names of the thread once the node is appended are those of the node's binding. -/
theorem Ctx.appended_names : (c.appended a n e draws).handles = (c.bound a n e).handles ∧
    (c.appended a n e draws).thunks = (c.bound a n e).thunks := by
  obtain ⟨handles, thunks, -, -⟩ := Ctx.advance_names ((c.bound a n e).stepSr (c.bound a n e).rm draws)
  obtain ⟨handles', thunks', -⟩ := (c.bound a n e).stepSr_names draws (c.bound a n e).rm
  exact ⟨handles.trans handles', thunks.trans thunks'⟩

/-- But for its names, the thread has moved on and stepped over the draws (R251). -/
theorem Ctx.appended_rest : (c.appended a n e draws).pc = c.nextPc ∧ (c.appended a n e draws).x = c.x ∧ (c.appended a n e draws).v = c.v ∧
    (c.appended a n e draws).k = c.k ∧ (c.appended a n e draws).pred = c.pred ∧
    (c.appended a n e draws).srctr = if c.rm ≤ 3 then c.srctr else c.srctr + BitVec.ofNat 64 ((draws + 3) / 4) := by
  have rest := c.bound_unnamed a n e
  obtain ⟨-, -, k, srctr⟩ := Ctx.advance_names ((c.bound a n e).stepSr (c.bound a n e).rm draws)
  obtain ⟨x, v, pred⟩ := Ctx.advance_regs ((c.bound a n e).stepSr (c.bound a n e).rm draws)
  obtain ⟨-, -, k', pc', line', x', v', pred'⟩ := (c.bound a n e).stepSr_names draws (c.bound a n e).rm
  have field {α : Type} (g : Ctx → α) (same : ∀ d : Ctx, g d = g d.unnamed := by intro; rfl) : g (c.bound a n e) = g c := by
    rw [same, rest, ← same]
  refine ⟨?_, x.trans (x'.trans (field Ctx.x)), v.trans (v'.trans (field Ctx.v)), k.trans (k'.trans (field Ctx.k)),
    pred.trans (pred'.trans (field Ctx.pred)), srctr.trans ?_⟩
  · exact (Ctx.advance_pc _).trans (Ctx.nextPc_congr (pc'.trans (field Ctx.pc)) (line'.trans (field Ctx.line)))
  · rw [Ctx.stepSr, field Ctx.rm]
    split
    · exact field Ctx.srctr
    · exact congrArg (· + BitVec.ofNat 64 ((draws + 3) / 4)) (field Ctx.srctr)

end Appended

/-- `Claims.AppendBindsTheHandle`. -/
theorem appendBindsTheHandle : Claims.AppendBindsTheHandle := by
  intro s a n draws
  dsimp only
  refine ⟨fun e free => ?_, State.append_full, fun i m full basic oldest => ?_⟩
  · obtain ⟨mem, pending⟩ := State.append_leaves (draws := draws) free
    obtain ⟨pc, x, v, k, pred, srctr⟩ := s.me.appended_rest a n e draws
    obtain ⟨handles, thunks⟩ := s.me.appended_names a n e draws
    have refs := Ctx.refs_congr handles thunks
    rw [State.append_ctx free, mem, pending, refs]
    refine ⟨?_, ?_, pc, x, v, k, pred, srctr, rfl, fun r held here own lost => ?_, fun z sent => ?_⟩
    · rw [Ctx.handle, handles]
      exact s.me.bound_handle a n e
    · rw [thunks]
      exact s.me.bound_node a n e
    · refine List.mem_append_right _ (List.mem_map.2 ⟨r, List.mem_filter.2 ⟨gone_of_lost held own lost, ?_⟩, rfl⟩)
      rw [here]
      rfl
    · rcases List.mem_append.1 sent with old | new
      · exact .inl old
      · obtain ⟨r, released, rfl⟩ := List.mem_map.1 new
        obtain ⟨held, lost⟩ := mem_of_gone (List.mem_filter.1 released).1
        exact .inr ⟨r, held, rfl, lost⟩
  · rw [State.append_materialises full basic oldest]
    refine ⟨fun stage idle => ?_, fun g q u stage forced request => ?_, fun q stage asked => ?_⟩
    · exact (if_neg stage).trans (State.withForce_begins idle _ _ _ _ _ _)
    · refine (if_neg stage).trans ((State.withForce_forced forced _ _ _ _ _ _).trans ?_)
      simp only [request]
      rfl
    · refine (if_pos stage).trans ?_
      simp only [asked]
      rfl

/-! ## Views (R250, R255, R256, R276) -/

section Tidx

variable {s : State} {f : F6} {a b x : R5} {imm : BitVec 32} {v w : Slot} {step : Option MapStep}

theorem exec_tidx_empty (empty : s.me.slotFor b none = none) : exec (.tidx f a b x imm) s = .next (s.trapMe s.me.emptyTrap) := by
  change execTidx f a b x imm s = _
  simp only [execTidx, empty]

variable (source : s.me.slotFor b none = some v)
include source

theorem exec_tidx_outside (outside : tidxStep f.toNat v.shape (s.me.xr x).toNat (imm.signExtend 64).toNat = none) :
    exec (.tidx f a b x imm) s = .next (s.trapMe s.me.shapeTrap2) := by
  change execTidx f a b x imm s = _
  simp only [execTidx, source, sext32, outside]

theorem exec_tidx_steps (inside : tidxStep f.toNat v.shape (s.me.xr x).toNat (imm.signExtend 64).toNat = some step)
    (seen : s.me.slotFor b step = some w) : exec (.tidx f a b x imm) s =
    if shapeOk w.shape then .next (s.append a (s.newNode 0 f.toNat w.shape [w] 0) 0) else .next (s.trapMe s.me.shapeTrap2) := by
  change execTidx f a b x imm s = _
  simp only [execTidx, source, sext32, inside, seen]

end Tidx

/-- A transposed view shows the element of the turned coordinate (R255). -/
theorem slotElem_transposed {rows cols r k : Nat} (g : Nat → Nat) (row : r < cols) (col : k < rows) :
    slotElem rows cols g [⟨1, 0, 0, cols, rows, 0⟩] r k = g (k * cols + r) := by
  have inside : (0 : Int) ≤ k ∧ (k : Int) < rows ∧ (0 : Int) ≤ r ∧ (r : Int) < cols := by omega
  exact if_pos inside

/-- `Claims.Views`. -/
theorem views : Claims.Views := by
  intro s f a b x imm v w step
  exact ⟨exec_tidx_empty, exec_tidx_outside, fun source inside seen =>
      ⟨fun odd => (exec_tidx_steps source inside seen).trans (if_neg (Bool.eq_false_iff.1 odd)),
        fun stands => (exec_tidx_steps source inside seen).trans (if_pos stands)⟩,
    fun _ _ _ _ g => slotElem_transposed g, fun _ _ _ _ _ _ _ _ _ _ => rfl⟩

/-- Settles O28: the clauses of the three claims. -/
theorem thunkNodes : Obligations.ThunkNodes := ⟨nodesAreMade, appendBindsTheHandle, views⟩

end Sys2Proof.Machine
end

section
/-! PROOFS. Adjoint cells (O40): DMODE waits until every earlier access of its thread is performed (R358), and a TQRY whose request stands at another
device is such an access (R139, R157), though its thread is at rest. -/

namespace Sys2Proof.Machine

set_option Elab.async false

/-- Any place: the clause about a thread at rest speaks of none. -/
def anyPlace : Place := ⟨⟨0, 0, 4, 0, 0, 0, 0, 0, false⟩, .hbm, false, none, none⟩

/-- A thread at rest may still have an access that is not performed: its TQRY at another device. -/
theorem not_quiet_waitingAbroad : ¬ waitingAbroad.quiet waitingAbroad.cur true := by
  simp [State.quiet_of_loading loading_waitingAbroad]

/-- Refutes O40: the clause of `Claims.AdjointCells` that a thread at rest has every earlier access performed fails in `waitingAbroad`, where the
thread is at rest and its TQRY waits for another device, which `AtRest` does not look at; its DMODE parks. -/
theorem not_adjointsAndSeeds : ¬ Obligations.AdjointsAndSeeds := by
  rintro ⟨cells, -⟩
  obtain ⟨-, atRest, -⟩ := cells waitingAbroad 0 0 0 0 ⟨0, 0, 0, 0⟩ anyPlace []
  exact not_quiet_waitingAbroad (atRest atRest_waitingAbroad)

end Sys2Proof.Machine
end
